-- ==== Sys2Proof/Word.lean ====
section
/-! DEFINITION. The machine's words: 32-bit lane words and instruction words, 64-bit uniform words, bytes. -/

namespace Sys2Proof

/-- A lane word or an instruction word (R57, R71). -/
abbrev Word := BitVec 32

/-- A uniform register, an argument word of a command, a program counter (R57, R36). -/
abbrev DWord := BitVec 64

/-- One byte of memory. -/
abbrev Byte := BitVec 8

/-- A 6-bit register field: v0 to v63, or g0 to g31 in a uniform form (R72). -/
abbrev R6 := BitVec 6

/-- A 5-bit field that always names g0 to g31 (R72). -/
abbrev G5 := BitVec 5

end Sys2Proof
end

