-- ==== Sys2Proof/Syntax.lean ====
section
/-! DEFINITION. The syntax: what one step of the device is. One constructor of Instr per row of
spec/opcode_table.json. The 227 encoded rows carry the fields of their instruction word (R73 to R79,
R83, R94); the 122 other rows are host register writes, host commands and device events, and carry
what the outside world or the device's timing chooses for them. -/

namespace Sys2Proof

/-- A host command (R36) as the command processor reads it from a submission queue: the function
and queue it came from, its tag, its TENANT field, whether any reserved byte is non-zero, and the
six argument words. pick holds what R36 leaves to the device: the frames the firmware allocator
gives, the bytes its random source draws, the slots and cores it finds. -/
structure HostCmd where
  fn     : Nat
  q      : Nat
  cid    : BitVec 16
  tenant : BitVec 16
  rsv    : Bool
  a0     : DWord
  a1     : DWord
  a2     : DWord
  a3     : DWord
  a4     : DWord
  a5     : DWord
  pick   : List Nat
deriving DecidableEq, Repr, Inhabited

/-- Where the distributor or the relaunch logic puts a group: partition and slot of a core (R226, R236). -/
structure Place where
  part : Nat
  slot : Nat
deriving DecidableEq, Repr, Inhabited

/-- What a power window measured, in milliwatts (R28): each compute chiplet, the base die, HBM4, LPDDR 6, the SerDes and PHYs, the
module; and the sensors of cores at its end (R250): core, temperature, droop. -/
structure PowerReading where
  chips   : List Nat
  base    : Nat
  hbm     : Nat
  lpddr   : Nat
  serdes  : Nat
  total   : Nat
  sensors : List (Nat × Nat × Nat)
deriving DecidableEq, Repr, Inhabited

/-- What the bring-up steps of R403 found: fuses, keys, each HBM4 stack, each LPDDR 6 package, each chiplet, each port. -/
structure ResetReport where
  fuseOk   : Bool
  keysOk   : Bool
  hbmOk    : BitVec 8
  lpddrOk  : BitVec 12
  chipsOk  : BitVec 4
  portsOk  : BitVec 16
deriving DecidableEq, Repr, Inhabited

/-- The sensors of R404 that a condition outside the command stream raises. -/
inductive Sensor where
  | vglitch | clk | tempw | tempc | fuse | fabauth
deriving DecidableEq, Repr, Inhabited

/-- Where an uncorrectable register error stands (R242, R243). A corrected error only counts. -/
inductive EccSite where
  | vword (n : R6) (lane : BitVec 4)
  /-- A word of a g register: the low or the high one. -/
  | greg (n : G5) (hi : Bool)
  | recordHeader
  | corrected
deriving DecidableEq, Repr, Inhabited

/-- The manifest of a KV hand-off (R379). -/
structure KvManifest where
  tag       : Nat
  plen      : Nat
  committed : Nat
  nextin    : Word
  seed      : DWord
  streampos : Nat
  temp      : Word
  minp      : Word
  prio      : Nat
  specc     : Nat
  stopctl   : List Byte
  stoptok   : List Word
  stopseq   : List Word
  maxnew    : Nat
  p         : Nat
  layers    : Nat
  bp        : Nat
  etype     : Nat
deriving DecidableEq, Repr, Inhabited

/-- One message of a KV hand-off (R379): the manifest, one layer page of a frame slot with the frame's
token ids, or the importer's acknowledgement. -/
inductive KvBody where
  | manifest (m : KvManifest)
  | page (frame layer : Nat) (bytes : List Byte) (ids : List Word)
  | imported
deriving DecidableEq, Repr, Inhabited

/-- A fabric packet (R372). af is the 49-bit address field; conf says that the payload travels encrypted, as a confidential
tenant's does, and tag is the 16-byte AES-256-GCM tag that follows it (R373). off is the offset of the
first payload byte in its 32-byte step: it is 0 but for the narrow accesses of ld and st, for which
R372 gives no format (log 17). aux is what the receiver acts on and R372 has no field for: in RESV and CATCH
the sender's core, in a NACK the destination of the packet it answers (log 18). -/
structure Packet where
  type      : Nat
  bank      : Bool
  hop       : Nat
  dst       : Nat
  src       : Nat
  af        : Nat
  off       : Nat
  aux       : Nat
  seq       : Nat
  payload   : List Byte
  conf      : Bool
  tag       : List Byte
deriving DecidableEq, Repr, Inhabited

/-- A sealed Ultra Ethernet message (R379): the peer's IPv4 address, the sender's role (true for the
exporter) and message counter, the AES-256-GCM tag that seals it, its transfer tag and content. -/
structure UeMsg where
  peer      : Nat
  role      : Bool
  counter   : Nat
  mac       : List Byte
  tag       : Nat
  body      : KvBody
deriving DecidableEq, Repr, Inhabited

/-- One step of the device: one constructor per row of spec/opcode_table.json. -/
inductive Instr where
  /-- NOP (R104): Does nothing. -/
  | nop
  /-- MOOD (R105): Writes MOOD from the immediate, optionally saving the old value. -/
  | mood (u : Bool) (d : BitVec 6) (imm : BitVec 18)
  /-- MASK_SET (R106): EXEC := pN and alive. -/
  | maskSet (a : BitVec 6)
  /-- MASK_AND (R106): EXEC := EXEC and pN. -/
  | maskAnd (a : BitVec 6)
  /-- MASK_OR (R106): EXEC := EXEC or pN, within alive. -/
  | maskOr (a : BitVec 6)
  /-- MASK_G (R106): EXEC := gA[15:0] and alive. -/
  | maskG (a : BitVec 6)
  /-- MASK_RD (R106): gD := EXEC. -/
  | maskRd (d : BitVec 6)
  /-- MASK_ALIVE (R106): EXEC := alive mask. -/
  | maskAlive
  /-- BR (R107): Unconditional branch to a clause header. -/
  | br (off : BitVec 21)
  /-- BR_ANY (R107): Branch when any active lane has p set. -/
  | brAny (p : BitVec 3) (off : BitVec 21)
  /-- BR_ALL (R107): Branch when every active lane has p set. -/
  | brAll (p : BitVec 3) (off : BitVec 21)
  /-- BR_NONE (R107): Branch when no active lane has p set. -/
  | brNone (p : BitVec 3) (off : BitVec 21)
  /-- BR_DIV (R108): Splits the group by p, sending the minority to the Huddle. -/
  | brDiv (p : BitVec 3) (off : BitVec 21)
  /-- JOIN (R109): Rejoins the home group, continuing or ending the group at the join entry. -/
  | join
  /-- CALL (R107): Branches and writes the next clause address to g31. -/
  | call (off : BitVec 21)
  /-- RET (R107): Branches to the address in gA. -/
  | ret (a : BitVec 6)
  /-- END (R111): Ends the active threads, and finishes the group when none remain alive. -/
  | endThreads
  /-- BAR_WG (R113): Arrives at the workgroup barrier; the flag completes with the phase. -/
  | barWg
  /-- BAR_GANG (R113): Arrives at the gang barrier. -/
  | barGang
  /-- BAR_ARRIVE (R113): Arrives without waiting and returns the phase. -/
  | barArrive (d : BitVec 6)
  /-- BAR_WAIT (R113): Completes when the phase counter exceeds gA. -/
  | barWait (a : BitVec 6)
  /-- BAR_NAMED (R113): Arrives at a named barrier with a count. -/
  | barNamed (a : BitVec 6) (b : BitVec 6)
  /-- CEDE (R114): Yields the slot once at the next header that waits on its flag. -/
  | cede
  /-- TRAP (R115): Raises USER with the code. -/
  | trapUser (imm : BitVec 18)
  /-- SYS_CSRR (R116): Reads a CSR into gD. -/
  | sysCsrr (d : BitVec 6) (b : BitVec 6)
  /-- SYS_CSRW (R118): Writes a CSR, in practice MOOD. -/
  | sysCsrw (a : BitVec 6) (b : BitVec 6)
  /-- SYS_LOCQ (R121): Returns the locality word of an address. -/
  | sysLocq (d : BitVec 6) (a : BitVec 6)
  /-- SYS_SNAP (R119): Fires the snapshot trigger if source 0 is armed. -/
  | sysSnap
  /-- SYS_CLK (R116): Reads the arithmetic clock count. -/
  | sysClk (d : BitVec 6)
  /-- SYS_FLAGERR (R120): Reads and clears the FLAGERR bits. -/
  | sysFlagerr (d : BitVec 6)
  /-- IADD (R123): Integer add, with optional saturation. -/
  | iadd (u : Bool) (d : BitVec 6) (a : BitVec 6) (b : BitVec 6) (la : Bool) (lb : Bool) (im : Bool)
  /-- ISUB (R123): Integer subtract. -/
  | isub (u : Bool) (d : BitVec 6) (a : BitVec 6) (b : BitVec 6) (la : Bool) (lb : Bool) (im : Bool)
  /-- IMUL (R123): Integer multiply, low half. -/
  | imul (u : Bool) (d : BitVec 6) (a : BitVec 6) (b : BitVec 6) (la : Bool) (lb : Bool) (im : Bool)
  /-- IMULH (R123): High half of the integer product. -/
  | imulh (u : Bool) (d : BitVec 6) (a : BitVec 6) (b : BitVec 6) (la : Bool) (lb : Bool) (im : Bool)
  /-- IMAD (R123): Integer multiply-add into D. -/
  | imad (u : Bool) (d : BitVec 6) (a : BitVec 6) (b : BitVec 6) (la : Bool) (lb : Bool) (im : Bool)
  /-- IDIV_QS (R125): Signed quotient. -/
  | idivQs (u : Bool) (d : BitVec 6) (a : BitVec 6) (b : BitVec 6) (la : Bool) (lb : Bool) (im : Bool)
  /-- IDIV_QN (R125): Unsigned quotient. -/
  | idivQn (u : Bool) (d : BitVec 6) (a : BitVec 6) (b : BitVec 6) (la : Bool) (lb : Bool) (im : Bool)
  /-- IDIV_RS (R125): Signed remainder. -/
  | idivRs (u : Bool) (d : BitVec 6) (a : BitVec 6) (b : BitVec 6) (la : Bool) (lb : Bool) (im : Bool)
  /-- IDIV_RN (R125): Unsigned remainder. -/
  | idivRn (u : Bool) (d : BitVec 6) (a : BitVec 6) (b : BitVec 6) (la : Bool) (lb : Bool) (im : Bool)
  /-- IMIN (R123): Integer minimum. -/
  | imin (u : Bool) (d : BitVec 6) (a : BitVec 6) (b : BitVec 6) (la : Bool) (lb : Bool) (im : Bool)
  /-- IMAX (R123): Integer maximum. -/
  | imax (u : Bool) (d : BitVec 6) (a : BitVec 6) (b : BitVec 6) (la : Bool) (lb : Bool) (im : Bool)
  /-- IABS (R123): Integer absolute value. -/
  | iabs (u : Bool) (d : BitVec 6) (a : BitVec 6) (la : Bool)
  /-- INEG (R123): Integer negate. -/
  | ineg (u : Bool) (d : BitVec 6) (a : BitVec 6) (la : Bool)
  /-- AND (R123): Bitwise and. -/
  | bitAnd (u : Bool) (d : BitVec 6) (a : BitVec 6) (b : BitVec 6) (la : Bool) (lb : Bool) (im : Bool)
  /-- OR (R123): Bitwise or. -/
  | bitOr (u : Bool) (d : BitVec 6) (a : BitVec 6) (b : BitVec 6) (la : Bool) (lb : Bool) (im : Bool)
  /-- XOR (R123): Bitwise exclusive or. -/
  | bitXor (u : Bool) (d : BitVec 6) (a : BitVec 6) (b : BitVec 6) (la : Bool) (lb : Bool) (im : Bool)
  /-- ANDN (R123): A and not B. -/
  | bitAndn (u : Bool) (d : BitVec 6) (a : BitVec 6) (b : BitVec 6) (la : Bool) (lb : Bool) (im : Bool)
  /-- SHL (R126): Shift left with zero fill. -/
  | shl (u : Bool) (d : BitVec 6) (a : BitVec 6) (b : BitVec 6) (la : Bool) (lb : Bool) (im : Bool)
  /-- SHR_L (R126): Logical shift right. -/
  | shrL (u : Bool) (d : BitVec 6) (a : BitVec 6) (b : BitVec 6) (la : Bool) (lb : Bool) (im : Bool)
  /-- SHR_A (R126): Arithmetic shift right. -/
  | shrA (u : Bool) (d : BitVec 6) (a : BitVec 6) (b : BitVec 6) (la : Bool) (lb : Bool) (im : Bool)
  /-- ROT_L (R129): Rotate left. -/
  | rotL (u : Bool) (d : BitVec 6) (a : BitVec 6) (b : BitVec 6) (la : Bool) (lb : Bool) (im : Bool)
  /-- ROT_R (R129): Rotate right. -/
  | rotR (u : Bool) (d : BitVec 6) (a : BitVec 6) (b : BitVec 6) (la : Bool) (lb : Bool) (im : Bool)
  /-- BITC_POPC (R129): Population count. -/
  | bitcPopc (u : Bool) (d : BitVec 6) (a : BitVec 6) (la : Bool)
  /-- BITC_CLZ (R129): Count of leading zeros. -/
  | bitcClz (u : Bool) (d : BitVec 6) (a : BitVec 6) (la : Bool)
  /-- BITC_CTZ (R129): Count of trailing zeros. -/
  | bitcCtz (u : Bool) (d : BitVec 6) (a : BitVec 6) (la : Bool)
  /-- BITC_BREV (R129): Bit reversal. -/
  | bitcBrev (u : Bool) (d : BitVec 6) (a : BitVec 6) (la : Bool)
  /-- BFE_N (R130): Unsigned bit-field extract. -/
  | bfeN (u : Bool) (d : BitVec 6) (a : BitVec 6) (b : BitVec 6) (la : Bool) (lb : Bool)
  /-- BFE_S (R130): Signed bit-field extract. -/
  | bfeS (u : Bool) (d : BitVec 6) (a : BitVec 6) (b : BitVec 6) (la : Bool) (lb : Bool)
  /-- BFI (R130): Bit-field insert into D. -/
  | bfi (u : Bool) (d : BitVec 6) (a : BitVec 6) (b : BitVec 6) (la : Bool) (lb : Bool)
  /-- ICMP_EQ (R131): Sets pD where a == b. -/
  | icmpEq (u : Bool) (d : BitVec 6) (a : BitVec 6) (b : BitVec 6) (la : Bool) (lb : Bool) (im : Bool)
  /-- ICMP_NE (R131): Sets pD where a ≠ b. -/
  | icmpNe (u : Bool) (d : BitVec 6) (a : BitVec 6) (b : BitVec 6) (la : Bool) (lb : Bool) (im : Bool)
  /-- ICMP_LT (R131): Sets pD where a < b. -/
  | icmpLt (u : Bool) (d : BitVec 6) (a : BitVec 6) (b : BitVec 6) (la : Bool) (lb : Bool) (im : Bool)
  /-- ICMP_LE (R131): Sets pD where a ≤ b. -/
  | icmpLe (u : Bool) (d : BitVec 6) (a : BitVec 6) (b : BitVec 6) (la : Bool) (lb : Bool) (im : Bool)
  /-- ICMP_GT (R131): Sets pD where a > b. -/
  | icmpGt (u : Bool) (d : BitVec 6) (a : BitVec 6) (b : BitVec 6) (la : Bool) (lb : Bool) (im : Bool)
  /-- ICMP_GE (R131): Sets pD where a ≥ b. -/
  | icmpGe (u : Bool) (d : BitVec 6) (a : BitVec 6) (b : BitVec 6) (la : Bool) (lb : Bool) (im : Bool)
  /-- SEL (R132): Selects A or B by pN. -/
  | sel (u : Bool) (d : BitVec 6) (a : BitVec 6) (b : BitVec 6) (la : Bool) (lb : Bool) (im : Bool) (pr : BitVec 3)
  /-- MOV (R134): Copies A to D. -/
  | mov (u : Bool) (d : BitVec 6) (a : BitVec 6) (la : Bool)
  /-- MOV_SPECIAL (R134): Reads a special such as %tid or %clk. -/
  | movSpecial (u : Bool) (d : BitVec 6) (a : BitVec 6)
  /-- MOV_G (R134): Broadcasts gA[31:0] into each active lane. -/
  | movG (d : BitVec 6) (a : BitVec 6)
  /-- PLOG_AND (R133): pD := pA and pB. -/
  | plogAnd (d : BitVec 6) (a : BitVec 6) (b : BitVec 6)
  /-- PLOG_OR (R133): pD := pA or pB. -/
  | plogOr (d : BitVec 6) (a : BitVec 6) (b : BitVec 6)
  /-- PLOG_XOR (R133): pD := pA xor pB. -/
  | plogXor (d : BitVec 6) (a : BitVec 6) (b : BitVec 6)
  /-- PLOG_ANDN (R133): pD := pA and not pB. -/
  | plogAndn (d : BitVec 6) (a : BitVec 6) (b : BitVec 6)
  /-- PLOG_NOT (R133): pD := not pA. -/
  | plogNot (d : BitVec 6) (a : BitVec 6)
  /-- PLOG_FROMG (R133): pD := gA[15:0]. -/
  | plogFromg (d : BitVec 6) (a : BitVec 6)
  /-- PLOG_TOG (R133): gD := pA. -/
  | plogTog (d : BitVec 6) (a : BitVec 6)
  /-- LDI (R135): Loads a sign-extended 18-bit constant. -/
  | ldi (u : Bool) (d : BitVec 6) (imm : BitVec 18)
  /-- KHI (R135): Shifts D left by 18 and inserts the immediate. -/
  | khi (u : Bool) (d : BitVec 6) (imm : BitVec 18)
  /-- LEA (R136): Forms an address without accessing memory. -/
  | lea (u : Bool) (d : BitVec 6) (gb : BitVec 5) (ix : BitVec 6) (li : Bool) (sx : Bool) (w : BitVec 3)
  /-- SHFL_IDX (R138): Reads A from an indexed lane. -/
  | shflIdx (d : BitVec 6) (a : BitVec 6) (b : BitVec 6) (la : Bool) (lb : Bool) (im : Bool)
  /-- SHFL_UP (R138): Reads A from lane l − b. -/
  | shflUp (d : BitVec 6) (a : BitVec 6) (b : BitVec 6) (la : Bool) (lb : Bool) (im : Bool)
  /-- SHFL_DOWN (R138): Reads A from lane l + b. -/
  | shflDown (d : BitVec 6) (a : BitVec 6) (b : BitVec 6) (la : Bool) (lb : Bool) (im : Bool)
  /-- SHFL_XOR (R138): Reads A from lane l xor b. -/
  | shflXor (d : BitVec 6) (a : BitVec 6) (b : BitVec 6) (la : Bool) (lb : Bool) (im : Bool)
  /-- VOTE_ANY (R139): Any-vote over the member mask. -/
  | voteAny (d : BitVec 6) (a : BitVec 6)
  /-- VOTE_ALL (R139): All-vote over the member mask. -/
  | voteAll (d : BitVec 6) (a : BitVec 6)
  /-- VOTE_BAL (R139): Writes the ballot to gD. -/
  | voteBal (d : BitVec 6) (a : BitVec 6)
  /-- VOTE_EQ (R139): Tests that vA is equal across the member lanes. -/
  | voteEq (d : BitVec 6) (a : BitVec 6) (la : Bool)
  /-- LRED_IADD (R140): Lane integer sum. -/
  | lredIadd (d : BitVec 6) (a : BitVec 6) (la : Bool)
  /-- LRED_FADD (R140): Lane float sum in a fixed tree. -/
  | lredFadd (d : BitVec 6) (a : BitVec 6) (la : Bool)
  /-- LRED_MIN (R140): Lane minimum. -/
  | lredMin (d : BitVec 6) (a : BitVec 6) (la : Bool)
  /-- LRED_MAX (R140): Lane maximum. -/
  | lredMax (d : BitVec 6) (a : BitVec 6) (la : Bool)
  /-- LRED_AMAX (R140): Lane of the maximum. -/
  | lredAmax (d : BitVec 6) (a : BitVec 6) (la : Bool)
  /-- LRED_AND (R140): Lane bitwise and. -/
  | lredAnd (d : BitVec 6) (a : BitVec 6) (la : Bool)
  /-- LRED_OR (R140): Lane bitwise or. -/
  | lredOr (d : BitVec 6) (a : BitVec 6) (la : Bool)
  /-- LRED_XOR (R140): Lane bitwise exclusive or. -/
  | lredXor (d : BitVec 6) (a : BitVec 6) (la : Bool)
  /-- LSCAN_IADD (R141): Inclusive prefix integer sum. -/
  | lscanIadd (d : BitVec 6) (a : BitVec 6) (la : Bool)
  /-- LSCAN_FADD (R141): Inclusive prefix float sum. -/
  | lscanFadd (d : BitVec 6) (a : BitVec 6) (la : Bool)
  /-- LSCAN_MIN (R141): Prefix minimum. -/
  | lscanMin (d : BitVec 6) (a : BitVec 6) (la : Bool)
  /-- LSCAN_MAX (R141): Prefix maximum. -/
  | lscanMax (d : BitVec 6) (a : BitVec 6) (la : Bool)
  /-- LSCAN_AND (R141): Prefix bitwise and. -/
  | lscanAnd (d : BitVec 6) (a : BitVec 6) (la : Bool)
  /-- LSCAN_OR (R141): Prefix bitwise or. -/
  | lscanOr (d : BitVec 6) (a : BitVec 6) (la : Bool)
  /-- LSCAN_XOR (R141): Prefix bitwise exclusive or. -/
  | lscanXor (d : BitVec 6) (a : BitVec 6) (la : Bool)
  /-- BCAST (R142): Broadcasts lane n's A to the member lanes. -/
  | bcast (d : BitVec 6) (a : BitVec 6) (b : BitVec 6) (la : Bool)
  /-- BCAST_G (R142): Copies lane n's A to gD. -/
  | bcastG (d : BitVec 6) (a : BitVec 6) (b : BitVec 6) (la : Bool)
  /-- BCAST_FIRST (R142): Broadcasts the lowest member lane's A. -/
  | bcastFirst (d : BitVec 6) (a : BitVec 6) (la : Bool)
  /-- BCAST_FIRSTG (R142): Copies the lowest member lane's A to gD. -/
  | bcastFirstg (d : BitVec 6) (a : BitVec 6) (la : Bool)
  /-- FADD (R145): Float add. -/
  | fadd (u : Bool) (d : BitVec 6) (a : BitVec 6) (b : BitVec 6) (la : Bool) (lb : Bool)
  /-- FSUB (R145): Float subtract. -/
  | fsub (u : Bool) (d : BitVec 6) (a : BitVec 6) (b : BitVec 6) (la : Bool) (lb : Bool)
  /-- FMUL (R145): Float multiply. -/
  | fmul (u : Bool) (d : BitVec 6) (a : BitVec 6) (b : BitVec 6) (la : Bool) (lb : Bool)
  /-- FFMA (R145): Fused A·B + D. -/
  | ffma (u : Bool) (d : BitVec 6) (a : BitVec 6) (b : BitVec 6) (la : Bool) (lb : Bool)
  /-- FFMA_MS (R145): Fused A·B − D. -/
  | ffmaMs (u : Bool) (d : BitVec 6) (a : BitVec 6) (b : BitVec 6) (la : Bool) (lb : Bool)
  /-- FFMA_NM (R145): Fused −A·B + D. -/
  | ffmaNm (u : Bool) (d : BitVec 6) (a : BitVec 6) (b : BitVec 6) (la : Bool) (lb : Bool)
  /-- FFMA_NMS (R145): Fused −A·B − D. -/
  | ffmaNms (u : Bool) (d : BitVec 6) (a : BitVec 6) (b : BitVec 6) (la : Bool) (lb : Bool)
  /-- FMIN (R146): IEEE float minimum. -/
  | fmin (u : Bool) (d : BitVec 6) (a : BitVec 6) (b : BitVec 6) (la : Bool) (lb : Bool)
  /-- FMAX (R146): IEEE float maximum. -/
  | fmax (u : Bool) (d : BitVec 6) (a : BitVec 6) (b : BitVec 6) (la : Bool) (lb : Bool)
  /-- FCMP_EQ (R147): Ordered and equal. -/
  | fcmpEq (u : Bool) (d : BitVec 6) (a : BitVec 6) (b : BitVec 6) (la : Bool) (lb : Bool)
  /-- FCMP_NE (R147): Unordered or not equal. -/
  | fcmpNe (u : Bool) (d : BitVec 6) (a : BitVec 6) (b : BitVec 6) (la : Bool) (lb : Bool)
  /-- FCMP_LT (R147): Ordered and A < B. -/
  | fcmpLt (u : Bool) (d : BitVec 6) (a : BitVec 6) (b : BitVec 6) (la : Bool) (lb : Bool)
  /-- FCMP_LE (R147): Ordered and A ≤ B. -/
  | fcmpLe (u : Bool) (d : BitVec 6) (a : BitVec 6) (b : BitVec 6) (la : Bool) (lb : Bool)
  /-- FCMP_GT (R147): Ordered and A > B. -/
  | fcmpGt (u : Bool) (d : BitVec 6) (a : BitVec 6) (b : BitVec 6) (la : Bool) (lb : Bool)
  /-- FCMP_GE (R147): Ordered and A ≥ B. -/
  | fcmpGe (u : Bool) (d : BitVec 6) (a : BitVec 6) (b : BitVec 6) (la : Bool) (lb : Bool)
  /-- FCMP_UN (R147): Unordered. -/
  | fcmpUn (u : Bool) (d : BitVec 6) (a : BitVec 6) (b : BitVec 6) (la : Bool) (lb : Bool)
  /-- FCMP_OR (R147): Ordered. -/
  | fcmpOr (u : Bool) (d : BitVec 6) (a : BitVec 6) (b : BitVec 6) (la : Bool) (lb : Bool)
  /-- FABS (R148): Clears the sign bit. -/
  | fabs (u : Bool) (d : BitVec 6) (a : BitVec 6) (la : Bool)
  /-- FNEG (R148): Inverts the sign bit. -/
  | fneg (u : Bool) (d : BitVec 6) (a : BitVec 6) (la : Bool)
  /-- FRCP (R149): Correctly rounded reciprocal. -/
  | frcp (u : Bool) (d : BitVec 6) (a : BitVec 6) (la : Bool)
  /-- FSQRT (R149): Square root. -/
  | fsqrt (u : Bool) (d : BitVec 6) (a : BitVec 6) (la : Bool)
  /-- FRSQ (R149): Reciprocal square root. -/
  | frsq (u : Bool) (d : BitVec 6) (a : BitVec 6) (la : Bool)
  /-- FEXP (R149): e to the power x. -/
  | fexp (u : Bool) (d : BitVec 6) (a : BitVec 6) (la : Bool)
  /-- FLN (R149): Natural logarithm. -/
  | fln (u : Bool) (d : BitVec 6) (a : BitVec 6) (la : Bool)
  /-- FEXP2 (R149): 2 to the power x. -/
  | fexp2 (u : Bool) (d : BitVec 6) (a : BitVec 6) (la : Bool)
  /-- FLOG2 (R149): Base-2 logarithm. -/
  | flog2 (u : Bool) (d : BitVec 6) (a : BitVec 6) (la : Bool)
  /-- CVT (R151): Converts part K from SRCTYPE to TYPE. -/
  | cvt (u : Bool) (d : BitVec 6) (a : BitVec 6) (la : Bool) (part : BitVec 2)
  /-- FRND (R153): Rounds to an integral value. -/
  | frnd (u : Bool) (d : BitVec 6) (a : BitVec 6) (la : Bool)
  /-- FSCAL (R154): Multiplies by 2^b. -/
  | fscal (u : Bool) (d : BitVec 6) (a : BitVec 6) (b : BitVec 6) (la : Bool) (lb : Bool) (im : Bool)
  /-- HADQ (R155): Forward signed Hadamard transform of a 32-element block. -/
  | hadq (d : BitVec 6) (a : BitVec 6) (b : BitVec 6) (la : Bool)
  /-- HADQ_INV (R155): Inverse Hadamard transform. -/
  | hadqInv (d : BitVec 6) (a : BitVec 6) (b : BitVec 6) (la : Bool)
  /-- QPACK (R156): Packs a block into dsb8 or dsb4. -/
  | qpack (d : BitVec 6) (a : BitVec 6) (la : Bool)
  /-- QUNPK (R157): Unpacks a dsb lane word to f32. -/
  | qunpk (d : BitVec 6) (a : BitVec 6) (la : Bool)
  /-- FMTW (R158): Writes a format word for mma. -/
  | fmtw (u : Bool) (d : BitVec 6) (b : BitVec 6)
  /-- DOT4 (R159): Accumulates a 4-element 8-bit dot product. -/
  | dot4 (u : Bool) (d : BitVec 6) (a : BitVec 6) (b : BitVec 6) (la : Bool) (lb : Bool)
  /-- LD (R162): Global load. -/
  | ld (u : Bool) (d : BitVec 6) (gb : BitVec 5) (ix : BitVec 6) (li : Bool) (sx : Bool) (fs : Bool) (w : BitVec 3)
  /-- ST (R162): Global store. -/
  | st (u : Bool) (d : BitVec 6) (gb : BitVec 5) (ix : BitVec 6) (ld : Bool) (li : Bool) (sx : Bool) (fs : Bool) (w : BitVec 3)
  /-- LDS (R164): Scratchpad load that waits for presence. -/
  | lds (u : Bool) (d : BitVec 6) (gb : BitVec 5) (ix : BitVec 6) (li : Bool) (sx : Bool) (fs : Bool) (w : BitVec 3)
  /-- STS (R164): Scratchpad store that waits for presence. -/
  | sts (u : Bool) (d : BitVec 6) (gb : BitVec 5) (ix : BitVec 6) (ld : Bool) (li : Bool) (sx : Bool) (fs : Bool) (w : BitVec 3)
  /-- LDP (R165): Private load. -/
  | ldp (d : BitVec 6) (gb : BitVec 5) (ix : BitVec 6) (li : Bool) (sx : Bool) (fs : Bool) (w : BitVec 3)
  /-- STP (R165): Private store. -/
  | stp (d : BitVec 6) (gb : BitVec 5) (ix : BitVec 6) (ld : Bool) (li : Bool) (sx : Bool) (fs : Bool) (w : BitVec 3)
  /-- PRS_TEST (R166): Tests presence bits into a predicate. -/
  | prsTest (u : Bool) (d : BitVec 6) (gb : BitVec 5) (ix : BitVec 6) (li : Bool)
  /-- PRS_CLR (R166): Clears presence bits. -/
  | prsClr (u : Bool) (gb : BitVec 5) (ix : BitVec 6) (li : Bool)
  /-- PRS_SET (R166): Sets presence bits, releasing waiters. -/
  | prsSet (u : Bool) (gb : BitVec 5) (ix : BitVec 6) (li : Bool)
  /-- PRS_WAIT (R166): Completes when the lines are present. -/
  | prsWait (u : Bool) (gb : BitVec 5) (ix : BitVec 6) (li : Bool) (fs : Bool)
  /-- FENCE (R167): Acquire and/or release fence at a scope. -/
  | fence (fs : Bool) (sc : BitVec 2) (acq : Bool) (rel : Bool)
  /-- FENCE_SC (R167): Sequentially consistent fence. -/
  | fenceSc (fs : Bool) (sc : BitVec 2)
  /-- ATOM (R168): Per-lane global atomic operation. -/
  | atom (u : Bool) (d : BitVec 6) (gb : BitVec 5) (ix : BitVec 6) (aop : BitVec 4) (sc : BitVec 2) (li : Bool)
  /-- ATOMS (R169): Scratchpad atomic. -/
  | atoms (u : Bool) (d : BitVec 6) (gb : BitVec 5) (ix : BitVec 6) (aop : BitVec 4) (li : Bool)
  /-- RED (R170): Atomic reduction without a returned value. -/
  | red (u : Bool) (d : BitVec 6) (gb : BitVec 5) (ix : BitVec 6) (aop : BitVec 4) (sc : BitVec 2) (li : Bool)
  /-- XACC_ADD (R171): Exact atomic add into an XA256 word. -/
  | xaccAdd (d : BitVec 6) (gb : BitVec 5) (ix : BitVec 6) (ld : Bool) (li : Bool) (sx : Bool) (fs : Bool)
  /-- XACC_RD (R171): Reads an XA256 word rounded to f32. -/
  | xaccRd (d : BitVec 6) (gb : BitVec 5) (ix : BitVec 6) (li : Bool) (sx : Bool) (fs : Bool)
  /-- TICKET (R172): Takes a resetting ticket with acquire and release. -/
  | ticket (d : BitVec 6) (gb : BitVec 5) (ix : BitVec 6) (sc : BitVec 2)
  /-- LDW (R173): Reads another group's state through the register window. -/
  | ldw (u : Bool) (d : BitVec 6) (gb : BitVec 5) (ix : BitVec 6) (li : Bool) (sx : Bool) (fs : Bool) (w : Bool)
  /-- STW (R174): Writes a held group's state through the register window. -/
  | stw (u : Bool) (d : BitVec 6) (gb : BitVec 5) (ix : BitVec 6) (ld : Bool) (li : Bool) (sx : Bool) (fs : Bool) (w : Bool)
  /-- PFCH (R175): Prefetches lines into L1 or LLC. -/
  | pfch (u : Bool) (gb : BitVec 5) (ix : BitVec 6) (li : Bool) (sx : Bool) (fs : Bool) (w : BitVec 3)
  /-- COPY_G2S (R181): Collective copy from global memory to the scratchpad. -/
  | copyG2s (ga : BitVec 5) (gb : BitVec 5) (gc : BitVec 5) (fs : Bool) (sc : BitVec 2) (acq : Bool) (rel : Bool)
  /-- COPY_S2G (R181): Copy from the scratchpad to global memory. -/
  | copyS2g (ga : BitVec 5) (gb : BitVec 5) (gc : BitVec 5) (fs : Bool) (sc : BitVec 2) (acq : Bool) (rel : Bool)
  /-- COPY_G2O (R181): Copy from global memory to an operand slot. -/
  | copyG2o (ga : BitVec 5) (gb : BitVec 5) (gc : BitVec 5) (fs : Bool) (sc : BitVec 2) (acq : Bool) (rel : Bool)
  /-- COPY_S2O (R181): Copy from the scratchpad to an operand slot. -/
  | copyS2o (ga : BitVec 5) (gb : BitVec 5) (gc : BitVec 5) (fs : Bool) (sc : BitVec 2) (acq : Bool) (rel : Bool)
  /-- COPY_G2G (R181): Global-to-global copy. -/
  | copyG2g (ga : BitVec 5) (gb : BitVec 5) (gc : BitVec 5) (fs : Bool) (sc : BitVec 2) (acq : Bool) (rel : Bool)
  /-- COPY_XA (R181): Adds f32 rows exactly into XA256 rows. -/
  | copyXa (ga : BitVec 5) (gb : BitVec 5) (gc : BitVec 5) (fs : Bool) (sc : BitVec 2) (acq : Bool) (rel : Bool)
  /-- COPY_S2S (R181): Scratchpad-to-scratchpad copy. -/
  | copyS2s (ga : BitVec 5) (gb : BitVec 5) (gc : BitVec 5) (fs : Bool) (sc : BitVec 2) (acq : Bool) (rel : Bool)
  /-- COPYF_G2O (R184): Copy into a slot from global memory, with a follow-on mma. -/
  | copyfG2o (ga : BitVec 5) (gb : BitVec 5) (gc : BitVec 5) (fs : Bool) (sc : BitVec 2) (acq : Bool) (rel : Bool)
  /-- COPYF_S2O (R184): Copy into a slot from the scratchpad, with a follow-on mma. -/
  | copyfS2o (ga : BitVec 5) (gb : BitVec 5) (gc : BitVec 5) (fs : Bool) (sc : BitVec 2) (acq : Bool) (rel : Bool)
  /-- MMA (R185): Adds a 64×64 slot product to an accumulator tile. -/
  | mma (acc : BitVec 6) (sa : BitVec 6) (sb : BitVec 6) (vf : BitVec 6)
  /-- ACCLD_G (R189): Loads a tile from global memory. -/
  | accldG (ga : BitVec 5) (gb : BitVec 5) (gc : BitVec 5) (fs : Bool) (sc : BitVec 2) (acq : Bool) (rel : Bool)
  /-- ACCLD_S (R189): Loads a tile from the scratchpad. -/
  | accldS (ga : BitVec 5) (gb : BitVec 5) (gc : BitVec 5) (fs : Bool) (sc : BitVec 2) (acq : Bool) (rel : Bool)
  /-- ACCST_G (R189): Stores a tile to global memory. -/
  | accstG (ga : BitVec 5) (gb : BitVec 5) (gc : BitVec 5) (fs : Bool) (sc : BitVec 2) (acq : Bool) (rel : Bool)
  /-- ACCST_S (R189): Stores a tile to the scratchpad. -/
  | accstS (ga : BitVec 5) (gb : BitVec 5) (gc : BitVec 5) (fs : Bool) (sc : BitVec 2) (acq : Bool) (rel : Bool)
  /-- SLOT_CLAIM (R190): Claims a set of operand slots at once. -/
  | slotClaim (ga : BitVec 5) (fs : Bool) (sc : BitVec 2) (acq : Bool) (rel : Bool)
  /-- SLOT_REL (R190): Releases slots after the commands on them finish. -/
  | slotRel (ga : BitVec 5) (fs : Bool) (sc : BitVec 2) (acq : Bool) (rel : Bool)
  /-- SLOT_HELD (R190): Returns the mask of slots held. -/
  | slotHeld (gc : BitVec 5) (fs : Bool) (sc : BitVec 2) (acq : Bool) (rel : Bool)
  /-- CHAIN_SET (R191): Places an idle chain's ring and takes ownership. -/
  | chainSet (ga : BitVec 5) (gb : BitVec 5) (gc : BitVec 5) (fs : Bool) (sc : BitVec 2) (acq : Bool) (rel : Bool)
  /-- CHAIN_ADV (R191): Advances a chain's tail. -/
  | chainAdv (ga : BitVec 5) (gb : BitVec 5) (fs : Bool) (sc : BitVec 2) (acq : Bool) (rel : Bool)
  /-- SEQW (R192): Waits for a chain's completion word to reach a value. -/
  | seqw (ga : BitVec 5) (gb : BitVec 5) (fs : Bool) (sc : BitVec 2) (acq : Bool) (rel : Bool)
  /-- KVGAT_K (R195): Gathers K rows through a handle into the scratchpad. -/
  | kvgatK (ga : BitVec 5) (gb : BitVec 5) (gc : BitVec 5) (fs : Bool) (sc : BitVec 2) (acq : Bool) (rel : Bool)
  /-- KVGAT_V (R195): Gathers V rows through a handle. -/
  | kvgatV (ga : BitVec 5) (gb : BitVec 5) (gc : BitVec 5) (fs : Bool) (sc : BitVec 2) (acq : Bool) (rel : Bool)
  /-- KVAPP (R196): Appends one token's K and V rows, allocating or copying on write. -/
  | kvapp (ga : BitVec 5) (gb : BitVec 5) (gc : BitVec 5) (fs : Bool) (sc : BitVec 2) (acq : Bool) (rel : Bool)
  /-- KVPIN_PIN (R197): Pins the frames of a range. -/
  | kvpinPin (ga : BitVec 5) (gb : BitVec 5) (fs : Bool) (sc : BitVec 2) (acq : Bool) (rel : Bool)
  /-- KVPIN_UNPIN (R197): Unpins the frames of a range. -/
  | kvpinUnpin (ga : BitVec 5) (gb : BitVec 5) (fs : Bool) (sc : BitVec 2) (acq : Bool) (rel : Bool)
  /-- KVFRK (R198): Forks a handle, sharing its committed frames. -/
  | kvfrk (ga : BitVec 5) (gb : BitVec 5) (gc : BitVec 5) (fs : Bool) (sc : BitVec 2) (acq : Bool) (rel : Bool)
  /-- HDL_QUERY (R199): Returns a handle's C, W and pool. -/
  | hdlQuery (ga : BitVec 5) (gc : BitVec 5) (fs : Bool) (sc : BitVec 2) (acq : Bool) (rel : Bool)
  /-- HDL_COMMIT (R199): Sets C within [C, W]. -/
  | hdlCommit (ga : BitVec 5) (gb : BitVec 5) (fs : Bool) (sc : BitVec 2) (acq : Bool) (rel : Bool)
  /-- HDL_TRUNC (R199): Lowers W and drops block-table entries. -/
  | hdlTrunc (ga : BitVec 5) (gb : BitVec 5) (fs : Bool) (sc : BitVec 2) (acq : Bool) (rel : Bool)
  /-- PFXH (R200): Computes one chained block hash. -/
  | pfxh (ga : BitVec 5) (gb : BitVec 5) (gc : BitVec 5) (fs : Bool) (sc : BitVec 2) (acq : Bool) (rel : Bool)
  /-- PFXL (R201): Matches the longest Playbook chain and attaches it to a handle. -/
  | pfxl (ga : BitVec 5) (gb : BitVec 5) (gc : BitVec 5) (fs : Bool) (sc : BitVec 2) (acq : Bool) (rel : Bool)
  /-- PFXI (R202): Inserts a handle's blocks into the Playbook. -/
  | pfxi (ga : BitVec 5) (gb : BitVec 5) (gc : BitVec 5) (fs : Bool) (sc : BitVec 2) (acq : Bool) (rel : Bool)
  /-- FPUT_G (R207): Puts global bytes to a remote window. -/
  | fputG (ga : BitVec 5) (gb : BitVec 5) (gc : BitVec 5) (fs : Bool) (sc : BitVec 2) (acq : Bool) (rel : Bool)
  /-- FPUT_S (R207): Puts scratchpad bytes to a remote window. -/
  | fputS (ga : BitVec 5) (gb : BitVec 5) (gc : BitVec 5) (fs : Bool) (sc : BitVec 2) (acq : Bool) (rel : Bool)
  /-- FPUT_LZ (R207): Puts scratchpad bytes into a reserved remote catch slot. -/
  | fputLz (ga : BitVec 5) (gb : BitVec 5) (gc : BitVec 5) (fs : Bool) (sc : BitVec 2) (acq : Bool) (rel : Bool)
  /-- FPUT_LZG (R207): Puts global bytes into a reserved remote catch slot. -/
  | fputLzg (ga : BitVec 5) (gb : BitVec 5) (gc : BitVec 5) (fs : Bool) (sc : BitVec 2) (acq : Bool) (rel : Bool)
  /-- FGET_G (R207): Gets remote bytes into global memory. -/
  | fgetG (ga : BitVec 5) (gb : BitVec 5) (gc : BitVec 5) (fs : Bool) (sc : BitVec 2) (acq : Bool) (rel : Bool)
  /-- FGET_S (R207): Gets remote bytes into the scratchpad. -/
  | fgetS (ga : BitVec 5) (gb : BitVec 5) (gc : BitVec 5) (fs : Bool) (sc : BitVec 2) (acq : Bool) (rel : Bool)
  /-- FATOM (R208): Remote atomic at a fabric-window address. -/
  | fatom (sub : BitVec 5) (ga : BitVec 5) (gb : BitVec 5) (gc : BitVec 5) (fs : Bool) (sc : BitVec 2) (acq : Bool) (rel : Bool)
  /-- FRED (R210): Reduces records across ranks. -/
  | fred (ga : BitVec 5) (gb : BitVec 5) (gc : BitVec 5) (fs : Bool) (sc : BitVec 2) (acq : Bool) (rel : Bool)
  /-- LZRES (R212): Reserves a remote catch slot. -/
  | lzres (ga : BitVec 5) (gc : BitVec 5) (fs : Bool) (sc : BitVec 2) (acq : Bool) (rel : Bool)
  /-- LZARM (R212): Arms a free catch slot for a sender. -/
  | lzarm (ga : BitVec 5) (gb : BitVec 5) (gc : BitVec 5) (fs : Bool) (sc : BitVec 2) (acq : Bool) (rel : Bool)
  /-- LZREL (R214): Releases a catch slot to FREE. -/
  | lzrel (ga : BitVec 5) (fs : Bool) (sc : BitVec 2) (acq : Bool) (rel : Bool)
  /-- LZQ_RD (R214): Reads a catch slot's state, counter and id. -/
  | lzqRd (ga : BitVec 5) (gc : BitVec 5) (fs : Bool) (sc : BitVec 2) (acq : Bool) (rel : Bool)
  /-- LZQ_WAIT (R214): Waits for a catch slot to be FULL. -/
  | lzqWait (ga : BitVec 5) (fs : Bool) (sc : BitVec 2) (acq : Bool) (rel : Bool)
  /-- RNG_W0 (R206): Philox word 0. -/
  | rngW0 (u : Bool) (d : BitVec 6) (a : BitVec 6) (b : BitVec 6) (la : Bool)
  /-- RNG_W1 (R206): Philox word 1. -/
  | rngW1 (u : Bool) (d : BitVec 6) (a : BitVec 6) (b : BitVec 6) (la : Bool)
  /-- RNG_W2 (R206): Philox word 2. -/
  | rngW2 (u : Bool) (d : BitVec 6) (a : BitVec 6) (b : BitVec 6) (la : Bool)
  /-- RNG_W3 (R206): Philox word 3. -/
  | rngW3 (u : Bool) (d : BitVec 6) (a : BitVec 6) (b : BitVec 6) (la : Bool)
  /-- RNG_UNI (R206): Uniform f32 from word 0. -/
  | rngUni (u : Bool) (d : BitVec 6) (a : BitVec 6) (b : BitVec 6) (la : Bool)
  /-- RNG_GUM (R206): Gumbel f32 from word 0. -/
  | rngGum (u : Bool) (d : BitVec 6) (a : BitVec 6) (b : BitVec 6) (la : Bool)
  /-- SMPL_MAX (R215): Folds row maxima of a logit tile. -/
  | smplMax (ga : BitVec 5) (gb : BitVec 5) (gc : BitVec 5) (fs : Bool) (sc : BitVec 2) (acq : Bool) (rel : Bool)
  /-- SMPL_SMP (R215): Samples over a logit tile into records. -/
  | smplSmp (ga : BitVec 5) (gb : BitVec 5) (gc : BitVec 5) (fs : Bool) (sc : BitVec 2) (acq : Bool) (rel : Bool)
  /-- SMPL_RES (R215): Samples from the residual of target and draft tiles. -/
  | smplRes (ga : BitVec 5) (gb : BitVec 5) (gc : BitVec 5) (fs : Bool) (sc : BitVec 2) (acq : Bool) (rel : Bool)
  /-- SMRG (R217): Merges partial sample records. -/
  | smrg (ga : BitVec 5) (gb : BitVec 5) (gc : BitVec 5) (fs : Bool) (sc : BitVec 2) (acq : Bool) (rel : Bool)
  /-- ACPT (R218): Decides draft acceptance by MATCH or RATIO. -/
  | acpt (ga : BitVec 5) (gb : BitVec 5) (gc : BitVec 5) (fs : Bool) (sc : BitVec 2) (acq : Bool) (rel : Bool)
  /-- STOP (R219): Returns a token's end reason. -/
  | stop (ga : BitVec 5) (gb : BitVec 5) (gc : BitVec 5) (fs : Bool) (sc : BitVec 2) (acq : Bool) (rel : Bool)
  /-- EMIT (R220): Writes a token-stream record and makes the token pending. -/
  | emit (ga : BitVec 5) (gb : BitVec 5) (gc : BitVec 5) (fs : Bool) (sc : BitVec 2) (acq : Bool) (rel : Bool)
  /-- RQST_COMMIT (R221): Commits pending tokens and ends or cancels the request. -/
  | rqstCommit (ga : BitVec 5) (fs : Bool) (sc : BitVec 2) (acq : Bool) (rel : Bool)
  /-- RQST_QUERY (R221): Returns the request's lengths, state and reason. -/
  | rqstQuery (ga : BitVec 5) (gc : BitVec 5) (fs : Bool) (sc : BitVec 2) (acq : Bool) (rel : Bool)
  /-- RQST_FAIL (R221): Fails the request with one REASON 5 record. -/
  | rqstFail (ga : BitVec 5) (fs : Bool) (sc : BitVec 2) (acq : Bool) (rel : Bool)
  /-- XRED_EXP (R211): Phase one: agrees block exponents across ranks. -/
  | xredExp (ga : BitVec 5) (gb : BitVec 5) (gc : BitVec 5) (fs : Bool) (sc : BitVec 2) (acq : Bool) (rel : Bool)
  /-- XRED_SUM (R211): Phase two: exact integer sums of aligned elements. -/
  | xredSum (ga : BitVec 5) (gb : BitVec 5) (gc : BitVec 5) (fs : Bool) (sc : BitVec 2) (acq : Bool) (rel : Bool)
  /-- REP (R95): Issues the next word up to 64 times with stepped register names. -/
  | rep (cnt : BitVec 6) (dD : BitVec 4) (dA : BitVec 4) (dB : BitVec 4)
  /-- CLAUSE (R84): Clause header: tests its wait flags, ending the group if one is pending, and sets flags A, B and the clause length. -/
  | clause (wait : BitVec 12) (setA : BitVec 4) (setB : BitVec 4) (len : BitVec 5)
  /-- SQTDB_WRITE (R35): A host write to a submission tail doorbell makes the commands up to the new tail visible, or sets ERR if the tail is invalid. -/
  | sqtdbWrite (fn q : Nat) (val : Word)
  /-- CQHDB_WRITE (R35): A host write to a completion head doorbell releases completion entries, so reading and posting can resume on a full queue. -/
  | cqhdbWrite (fn q : Nat) (val : Word)
  /-- QUEUE_ENABLE (R34): Writing QCTL.EN from 0 to 1 zeroes the queue pair's heads and tails and sets the phase to 1, or sets ERR if a size is above 8. -/
  | queueEnable (fn q : Nat) (val : Word)
  /-- QUEUE_DISABLE (R34): Writing QCTL.EN to 0 disables the queue pair. -/
  | queueDisable (fn q : Nat) (val : Word)
  /-- QCTL_ERR_CLEAR (R34): Writing 1 to QCTL.ERR clears the doorbell-fault bit. -/
  | qctlErrClear (fn q : Nat) (val : Word)
  /-- REGISTER_WRITE (R32): A write to a BAR0 register with no behaviour of its own, such as SQB or CQB, stores the value or is ignored while EN is 1 or for an unmapped offset. -/
  | registerWrite (fn off width : Nat) (val : DWord)
  /-- DEV_IDENT (R43): Writes the 4 KiB identify structure with the part, the feature levels and mask, memory sizes, link and versions. -/
  | devIdent (c : HostCmd)
  /-- FEAT_NEGOTIATE (R42): Locks the accepted feature subset and sets DSTS.LOCKED, or returns NOFEAT or LOCKED. -/
  | featNegotiate (c : HostCmd)
  /-- TENANT_OPEN (R44): Opens the lowest free tenant and address-space id with its token ring, Playbook slices and flags, bound to a function. -/
  | tenantOpen (c : HostCmd)
  /-- TENANT_CLOSE (R45): Cancels the tenant's requests, aborts its launches, releases every object and retires its address-space id after a shootdown. -/
  | tenantClose (c : HostCmd)
  /-- MEM_MAP (R46): Maps zeroed frames of the chosen tier at a virtual base and performs the shootdown; with a count of 0 it only disposes of held faults. -/
  | memMap (c : HostCmd)
  /-- MEM_MAP_UNMAP (R46): With the unmap bit set, unmaps the mapped 64 KiB pages of a range, splitting large pages, and returns the count. -/
  | memMapUnmap (c : HostCmd)
  /-- IMAGE_LOAD (R382): Checks a host image and copies it to the destination, writing the header's first 8 bytes last as a sys-scope release. -/
  | imageLoad (c : HostCmd)
  /-- IMAGE_LOAD_ROM (R411): With A0 [63] set, writes ROM image 0 of 16,384 B at the destination. -/
  | imageLoadRom (c : HostCmd)
  /-- POOL_CREATE (R47): Creates a KV pool over a mapped range, with a tier-2 area when TIER2 is accepted, and puts every frame on the free list. -/
  | poolCreate (c : HostCmd)
  /-- MODEL_PLAN (R342): Registers a plan from a template, with its graph, batch, token, scorer, admission, prompt and request areas. -/
  | modelPlan (c : HostCmd)
  /-- MODEL_PLAN_ROM (R343): Registers ROM plan 0, the successor plan, with areas reserved by the firmware. -/
  | modelPlanRom (c : HostCmd)
  /-- REQ_ADMIT (R341): Reads an admission block, makes a request entry and handle, copies the prompt, and starts any admission kernel. -/
  | reqAdmit (c : HostCmd)
  /-- REQ_CANCEL (R49): Cancels a queued or paused request at once, or marks CANCELP on a request in a running iteration. -/
  | reqCancel (c : HostCmd)
  /-- REQ_FORK (R352): Makes a child request from the parent's committed state, sharing its frames. -/
  | reqFork (c : HostCmd)
  /-- REQ_QUERY (R339): Copies a request-table entry, as last committed, to the host. -/
  | reqQuery (c : HostCmd)
  /-- REQ_QUERY_RELEASE (R16): With RELEASE set on an ended request, copies the entry and then frees its index, its frames' refcounts and its handle generation. -/
  | reqQueryRelease (c : HostCmd)
  /-- LAUNCH (R54): Checks a launch descriptor and queues the launch with the distributor. -/
  | launch (c : HostCmd)
  /-- GRAPH_SUBMIT (R245): Reads and checks every task control block and makes the tasks with PRED 0 eligible. -/
  | graphSubmit (c : HostCmd)
  /-- PREEMPT (R398): Stops the tenant's cores and formation, then drains its work towards a context image. -/
  | preempt (c : HostCmd)
  /-- CTX_EXPORT (R399): Writes a parked tenant's context image and KV directory to the host, encrypted for a CONFID tenant. -/
  | ctxExport (c : HostCmd)
  /-- CTX_IMPORT (R400): Opens a new parked tenant from a context image and rebuilds its page-engine structures. -/
  | ctxImport (c : HostCmd)
  /-- RESUME (R401): Restores a parked tenant's sections onto cores and lets admission and formation go on. -/
  | resume (c : HostCmd)
  /-- FABRIC_ROUTES_LOAD (R370): Step 0 copies a route table into the idle, retired bank. -/
  | fabricRoutesLoad (c : HostCmd)
  /-- FABRIC_ROUTES_FLIP (R370): Step 1 makes the loaded bank the injection bank. -/
  | fabricRoutesFlip (c : HostCmd)
  /-- FABRIC_ROUTES_RETIRE (R370): Step 2 retires the old bank once its in-flight counter is 0, or returns BUSY. -/
  | fabricRoutesRetire (c : HostCmd)
  /-- FABRIC_ROUTES_EXPORT (R374): Step 3 adds or removes an export-table entry that gives a peer's tenant a window of a local tenant. -/
  | fabricRoutesExport (c : HostCmd)
  /-- KV_EXPORT (R379): Sends a request's manifest and committed KV pages to a Zoubry or scale-out peer. -/
  | kvExport (c : HostCmd)
  /-- KV_IMPORT (R380): Waits for a tagged manifest, writes the pages into new frames and makes a request entry. -/
  | kvImport (c : HostCmd)
  /-- SNAP_ARM (R409): Arms the sources of the common snapshot trigger; the host source fires at once. -/
  | snapArm (c : HostCmd)
  /-- SNAP_READ (R410): Copies one block's latched snapshot to the host. -/
  | snapRead (c : HostCmd)
  /-- ALARM_STATUS (R404): Returns the alarm level and the sensor bits. -/
  | alarmStatus (c : HostCmd)
  /-- ALARM_STATUS_CLEAR (R404): With A0 [0] set, clears the level-1 record when no level-2 or level-3 bit is set. -/
  | alarmStatusClear (c : HostCmd)
  /-- FW_PATCH (R50): Verifies an XMSS-signed patch and applies it before negotiation. -/
  | fwPatch (c : HostCmd)
  /-- ATTEST (R406): Writes a signed attestation report over the nonce. -/
  | attest (c : HostCmd)
  /-- KEY_LOAD (R407): Unwraps and installs the image key, a Zoubry pair key or a scale-out key. -/
  | keyLoad (c : HostCmd)
  /-- CHIPLET_RESET (R386): Fences a compute chiplet and resets it. -/
  | chipletReset (c : HostCmd)
  /-- TELEMETRY (R43): Writes the device's or a tenant's counters to a 4 KiB buffer. -/
  | telemetry (c : HostCmd)
  /-- PCIE_READ_COMPLETION (R381): A PCI Express read completion enters the ordering point and is split to the routes of its quadrants. -/
  | pcieReadCompletion (xfer chunk : Nat)
  /-- ROUTE_ACK (R381): A route acknowledges that its pieces of a transfer have committed. -/
  | routeAck (xfer quad : Nat)
  /-- PCIE_READ_TIMEOUT (R383): A read completion that errs or is 50 ms late stops the transfer, which completes ABORTED. -/
  | pcieReadTimeout (xfer : Nat)
  /-- CONSUMER_COUNT_POLL (R14): At most every 2 µs, while a record waits for room, the device rereads the consumer count. -/
  | consumerCountPoll (tenant : Nat)
  /-- POWER_WINDOW_END (R28): At the end of each 1 ms window the command processor updates every chiplet's withhold level. -/
  | powerWindowEnd (r : PowerReading)
  /-- COLD_RESET (R403): Power-on or a fundamental reset runs the ROM bring-up steps and discards all volatile state. -/
  | coldReset (r : ResetReport)
  /-- CHIPLET_FAULT (R386): The command processor detects a chiplet fault and starts the fence. -/
  | chipletFault (chip : Nat)
  /-- FENCE_DRAIN_COMPLETE (R387): A fencing chiplet's drain completes; the fence is complete and the chiplet starts to reset. -/
  | fenceDrainComplete (chip : Nat)
  /-- FENCE_TIMEOUT (R386): 20 µs after fencing began, the fence completes whether or not the drain has ended. -/
  | fenceTimeout (chip : Nat)
  /-- CHIPLET_RESET_DONE (R386): The chiplet finishes its reset with all state cleared and enters SELFTEST. -/
  | chipletResetDone (chip : Nat)
  /-- SELFTEST_PASS (R386): The self-test passes and the chiplet becomes ACTIVE. -/
  | selftestPass (chip : Nat)
  /-- SELFTEST_FAIL (R386): The self-test fails and the chiplet goes OFFLINE. -/
  | selftestFail (chip : Nat)
  /-- ALARM_SENSOR (R404): A sensor reports a condition, which raises the alarm level. -/
  | alarmSensor (sensor : Sensor)
  /-- TEMPC_HOLD_EXPIRY (R404): TEMPC held for 10 ms raises the alarm to level 3. -/
  | tempcHoldExpiry
  /-- SNAPSHOT_PIN (R409): Assertion of the external snapshot pin fires an armed trigger. -/
  | snapshotPin
  /-- SHOOTDOWN_ACK (R390): A chiplet acknowledges once its TLBs are clean and its old-translation accesses have completed. -/
  | shootdownAck (sd chip : Nat)
  /-- RECORD_RELAUNCH (R236): A ready record relaunches, in ready order, into a slot whose lane pipe has room. -/
  | recordRelaunch (ctx part slot : Nat)
  /-- LOAD_RESULT_LAND (R235): An owed load result lands in a register or a record, and its flag count is decremented. -/
  | loadResultLand (op : Nat) (lanes : BitVec 16)
  /-- STORE_COMMIT (R20): A store commits at its home LLC slice, other L1 copies are invalidated, and its flag completes. -/
  | storeCommit (op lane : Nat)
  /-- ATOMIC_PERFORM (R168): An atomic or reduction is performed at its home slice and its old value lands. -/
  | atomicPerform (op : Nat)
  /-- LLTLB_LOOKUP_DONE (R281): A last-level TLB lookup after an L1 miss either fills the L1 TLB and readies the record, or sends a walk. -/
  | lltlbLookupDone (ctx victim : Nat)
  /-- WALK_COMPLETE (R282): A page walk completes, fills the TLBs of every joined requester, or faults. -/
  | walkComplete (walk victim : Nat)
  /-- CHECK_ANSWER (R193): The base die answers a handle or request check and the waiting record becomes ready. -/
  | checkAnswer (ctx : Nat)
  /-- RACE_RECORDS_ARRIVE (R163): The race-detector records for an access's sectors arrive at the L1 and the record becomes ready. -/
  | raceRecordsArrive (ctx : Nat)
  /-- REGISTER_ECC_ERROR (R242): An uncorrectable error poisons a register or dugout word; a corrected error is counted. -/
  | registerEccError (ctx : Nat) (site : EccSite)
  /-- MEMORY_ECC_ERROR (R274): An uncorrectable error poisons an LLC or DRAM line. -/
  | memoryEccError (line : Nat)
  /-- HUDDLE_BIN_TIMEOUT (R239): A bin is emitted 512 clk after its first threads entered. -/
  | huddleBinTimeout (ctx : Nat)
  /-- ADMISSION_STEP (R247): The distributor tries the next unit of each launch in priority order and places it. -/
  | admissionStep (places : List Place)
  /-- LAUNCH_COMPLETE (R246): A launch whose units are all admitted, groups finished and commands completed completes with its status. -/
  | launchComplete (id : Nat)
  /-- HANDLER_START (R395): The device starts a handler group for the next fault record in the queue. -/
  | handlerStart (id : Nat) (place : Place)
  /-- FIRMWARE_DISPOSE (R397): Without a handler, the firmware disposes of a record: it holds an XLATE, kills on another precise trap, and aborts an engine fault. -/
  | firmwareDispose (id : Nat)
  /-- XLATE_HOLD_TIMEOUT (R397): A held XLATE record not resumed within 1 s is killed or aborted. -/
  | xlateHoldTimeout (id seq : Nat)
  /-- COPY_LINE_LAND (R183): An engine line lands at its destination, its progress bit and presence bit are set. -/
  | copyLineLand (cmd line : Nat)
  /-- ENGINE_COMPLETE (R178): An engine command completes, performs its release, delivers its result and clears its flag. -/
  | engineComplete (cmd : Nat)
  /-- MMA_START (R313): The array starts an mma or a follow-on mma once its operands, tile and array are ready. -/
  | mmaStart (cmd : Nat)
  /-- MMA_COMPLETE (R188): An mma writes the last tile element and its flag completes. -/
  | mmaComplete (cmd : Nat)
  /-- SLOT_CLAIM_GRANT (R190): A waiting slot claim is granted whole once its slots are free and no earlier overlapping claim waits. -/
  | slotClaimGrant (cmd : Nat)
  /-- CHAIN_ENTRY_TAKE (R308): The engine takes the next chain entry and checks it as acceptance. -/
  | chainEntryTake (core chain : Nat)
  /-- CHAIN_ENTRY_COMPLETE (R309): An entry completes, writes RESULT and STATUS, and may raise the completion word. -/
  | chainEntryComplete (cmd : Nat)
  /-- GATHER_LINE_LAND (R195): A kvgat line lands, its presence bit is set, and each frame's pin is removed when its last row lands. -/
  | gatherLineLand (cmd line : Nat)
  /-- EVICTION_START (R324): The page engine starts evicting the oldest unpinned frame when available frames reach the watermark. -/
  | evictionStart (pool : Nat)
  /-- EVICTION_COPY_DONE (R323): An eviction's copy to LPDDR 6 completes. -/
  | evictionCopyDone (pool frame : Nat)
  /-- FETCH_START (R327): A fetch of a TIER2 frame into its slot starts. -/
  | fetchStart (pool frame : Nat)
  /-- FETCH_DONE (R323): A fetch completes and the frame becomes RESIDENT. -/
  | fetchDone (pool frame : Nat)
  /-- ITERATION_FORM (R344): The Umpire forms an iteration of the next ready plan, writes the batch and submits the graph. -/
  | iterationForm (plan : Nat)
  /-- ITERATION_GRAPH_COMPLETE (R348): The iteration's graph completes: it launches the scorer on success, or fails the requests. -/
  | iterationGraphComplete (plan : Nat)
  /-- ITERATION_COMPLETE (R348): The scorer launch completes, and requests still in the iteration fail. -/
  | iterationComplete (plan : Nat)
  /-- DEADLINE_PASS (R350): A request's deadline passes and DLMISS is set. -/
  | deadlinePass (req : Nat)
  /-- ADMISSION_KERNEL_COMPLETE (R334): The admission launch completes and the request starts prefill at W, or fails. -/
  | admissionKernelComplete (req : Nat)
  /-- PACKET_FORWARD (R371): A router forwards a packet by the bank of its BANK bit, or drops it and sends a NACK. -/
  | packetForward (p : Packet) (port : Nat)
  /-- WRITE_PACKET (R375): A WRITE is checked against the export table and its bytes commit before the ACK is sent. -/
  | writePacket (p : Packet) (port : Nat)
  /-- CATCH_PACKET (R213): A CATCH packet is accepted into a reserved slot's area or refused. -/
  | catchPacket (p : Packet) (port : Nat)
  /-- READ_PACKET (R375): A READ reads the exported window and returns READDATA. -/
  | readPacket (p : Packet) (port : Nat)
  /-- READDATA_PACKET (R372): Read data arrives for an fget. -/
  | readdataPacket (p : Packet) (port : Nat)
  /-- ATOMIC_PACKET (R375): An ATOMIC is performed indivisibly at the destination's home slice. -/
  | atomicPacket (p : Packet) (port : Nat)
  /-- ATOMREPLY_PACKET (R372): An atomic's old value returns to the fatom. -/
  | atomreplyPacket (p : Packet) (port : Nat)
  /-- ACK_PACKET (R373): An acknowledgement retires a sent request. -/
  | ackPacket (p : Packet) (port : Nat)
  /-- NACK_PACKET (R373): A NACK causes a retransmission or aborts the transfer, by its code. -/
  | nackPacket (p : Packet) (port : Nat)
  /-- RESV_PACKET (R376): A reservation reaches a catch slot and is answered with RESVREPLY. -/
  | resvPacket (p : Packet) (port : Nat)
  /-- RESVREPLY_PACKET (R212): A reservation reply completes the lzres. -/
  | resvreplyPacket (p : Packet) (port : Nat)
  /-- TORN_PACKET (R376): A TORN notice completes the sender's fput with FLAGERR. -/
  | tornPacket (p : Packet) (port : Nat)
  /-- ABORT_PACKET (R376): An ABORT with the current reservation id turns the slot TORN. -/
  | abortPacket (p : Packet) (port : Nat)
  /-- REDUCE_PACKET (R378): A reduction contribution is combined, folded or discarded. -/
  | reducePacket (p : Packet) (port : Nat)
  /-- REDRESULT_PACKET (R378): A reduction result lands at the rank. -/
  | redresultPacket (p : Packet) (port : Nat)
  /-- KVXFER_PACKET (R379): A KV transfer packet delivers a manifest or a page to an import. -/
  | kvxferPacket (p : Packet) (port : Nat)
  /-- UE_MESSAGE (R379): A sealed Ultra Ethernet hand-off message is authenticated and applied once. -/
  | ueMessage (m : UeMsg)
  /-- UE_TRANSPORT_FAILURE (R379): The transport reports failure and KV_EXPORT completes ABORTED. -/
  | ueTransportFailure (xfer : Nat)
  /-- LINK_DOWN (R376): A link fails: slots reserved over it turn TORN, and routers drop packets with NACK LINKDOWN. -/
  | linkDown (port : Nat)
  /-- RETRANSMIT_TIMEOUT (R373): A request unacknowledged for 20 µs is retransmitted, or the transfer aborts after 8. -/
  | retransmitTimeout (dst seq : Nat)
  /-- CATCH_SLOT_TIMEOUT (R376): 1 ms without an accepted CATCH turns a reserved slot TORN. -/
  | catchSlotTimeout (core slot : Nat)
  /-- CATCH_ABORT_TIMEOUT (R376): 2 ms after its last acknowledged packet, an aborting fput completes with FLAGERR. -/
  | catchAbortTimeout (cmd : Nat)
  /-- REDUCE_RESEND_TIMEOUT (R378): After 50 µs without a result, a rank resends its contribution, and after 8 resends the command fails. -/
  | reduceResendTimeout (cmd : Nat)
  /-- KV_IMPORT_TIMEOUT (R380): No manifest within 10 s: KV_IMPORT returns NOTFOUND. -/
  | kvImportTimeout (xfer : Nat)
  /-- KV_EXPORT_TIMEOUT (R379): No acknowledgement within 10 s: KV_EXPORT completes ABORTED. -/
  | kvExportTimeout (xfer : Nat)
  /-- PREEMPT_FABRIC_TIMEOUT (R398): 40 µs into a drain, incomplete fget keep their marks and incomplete fatom complete with FLAGERR. -/
  | preemptFabricTimeout (tenant : Nat)
  /-- CONTEXT_IMAGE_COMMIT (R398): After the drain, the image is committed, the cores are emptied and the tenant is PARKED. -/
  | contextImageCommit (tenant : Nat)
  /-- SECTION_RESTORE (R401): A context-image section is restored on a core once room is free. -/
  | sectionRestore (tenant sect : Nat) (places : List Place)
  /-- SLOT_TILE_UNCORRECTABLE_ERROR (R188): An uncorrectable error arises in an operand slot or an accumulator tile, restoring the tile from its shadow and completing the mma with FLAGERR. -/
  | slotTileUncorrectableError (cmd : Nat)
  /-- SCRATCHPAD_STORE_COMPLETE (R164): An sts completes in the clock after issue, or when its absent line becomes present, and an stp completes when written into L1, decrementing the flag. -/
  | scratchpadStoreComplete (op : Nat)
deriving DecidableEq, Repr

end Sys2Proof
end

