-- ==== Sys2Proof/WellFormed.lean ====
section
/-! DEFINITION. Well-formedness. The fields of an encoded instruction have the widths of its word, so
every such term is well formed; a host command, a register write, a packet or an event is well
formed when its operands lie where the spec's numbering lets them lie. -/

namespace Sys2Proof

/-- A function has number 0 (physical) to 32 (R43); the physical function has 64 queue pairs, a virtual one 8 (R32). -/
def qpOk (fn q : Nat) : Bool := decide (fn ≤ 32) && decide (q < if fn = 0 then 64 else 8)

/-- A command stands in a submission queue of a function. -/
def cmdOk (c : HostCmd) : Bool := qpOk c.fn c.q

/-- A place is one of 8 partitions and 32 slots (R25). -/
def placeOk (p : Place) : Bool := decide (p.part < 8) && decide (p.slot < 32)

/-- The fields of a packet header have the widths of R372, the payload is whole 32-byte steps, at
most 128 of them, and the port is one of 16 (16 itself: turned back inside the router, R370). -/
def pktOk (p : Packet) (port : Nat) : Bool :=
  decide (p.type < 16) && decide (p.hop < 8) && decide (p.dst < 4096) && decide (p.src < 4096) &&
    decide (p.af < 2 ^ 49) && decide (p.seq < 2 ^ 39) && decide (p.payload.length ≤ 4096) &&
    decide (p.payload.length % 32 = 0) && decide (port ≤ 16)

/-- Whether an instruction is one the device can meet. -/
def Instr.wf (i : Instr) : Bool :=
  match i with
  | .nop => true
  | .mood _ _ _ => true
  | .maskSet _ => true
  | .maskAnd _ => true
  | .maskOr _ => true
  | .maskG _ => true
  | .maskRd _ => true
  | .maskAlive => true
  | .br _ => true
  | .brAny _ _ => true
  | .brAll _ _ => true
  | .brNone _ _ => true
  | .brDiv _ _ => true
  | .join => true
  | .call _ => true
  | .ret _ => true
  | .endThreads => true
  | .barWg => true
  | .barGang => true
  | .barArrive _ => true
  | .barWait _ => true
  | .barNamed _ _ => true
  | .cede => true
  | .trapUser _ => true
  | .sysCsrr _ _ => true
  | .sysCsrw _ _ => true
  | .sysLocq _ _ => true
  | .sysSnap => true
  | .sysClk _ => true
  | .sysFlagerr _ => true
  | .iadd _ _ _ _ _ _ _ => true
  | .isub _ _ _ _ _ _ _ => true
  | .imul _ _ _ _ _ _ _ => true
  | .imulh _ _ _ _ _ _ _ => true
  | .imad _ _ _ _ _ _ _ => true
  | .idivQs _ _ _ _ _ _ _ => true
  | .idivQn _ _ _ _ _ _ _ => true
  | .idivRs _ _ _ _ _ _ _ => true
  | .idivRn _ _ _ _ _ _ _ => true
  | .imin _ _ _ _ _ _ _ => true
  | .imax _ _ _ _ _ _ _ => true
  | .iabs _ _ _ _ => true
  | .ineg _ _ _ _ => true
  | .bitAnd _ _ _ _ _ _ _ => true
  | .bitOr _ _ _ _ _ _ _ => true
  | .bitXor _ _ _ _ _ _ _ => true
  | .bitAndn _ _ _ _ _ _ _ => true
  | .shl _ _ _ _ _ _ _ => true
  | .shrL _ _ _ _ _ _ _ => true
  | .shrA _ _ _ _ _ _ _ => true
  | .rotL _ _ _ _ _ _ _ => true
  | .rotR _ _ _ _ _ _ _ => true
  | .bitcPopc _ _ _ _ => true
  | .bitcClz _ _ _ _ => true
  | .bitcCtz _ _ _ _ => true
  | .bitcBrev _ _ _ _ => true
  | .bfeN _ _ _ _ _ _ => true
  | .bfeS _ _ _ _ _ _ => true
  | .bfi _ _ _ _ _ _ => true
  | .icmpEq _ _ _ _ _ _ _ => true
  | .icmpNe _ _ _ _ _ _ _ => true
  | .icmpLt _ _ _ _ _ _ _ => true
  | .icmpLe _ _ _ _ _ _ _ => true
  | .icmpGt _ _ _ _ _ _ _ => true
  | .icmpGe _ _ _ _ _ _ _ => true
  | .sel _ _ _ _ _ _ _ _ => true
  | .mov _ _ _ _ => true
  | .movSpecial _ _ _ => true
  | .movG _ _ => true
  | .plogAnd _ _ _ => true
  | .plogOr _ _ _ => true
  | .plogXor _ _ _ => true
  | .plogAndn _ _ _ => true
  | .plogNot _ _ => true
  | .plogFromg _ _ => true
  | .plogTog _ _ => true
  | .ldi _ _ _ => true
  | .khi _ _ _ => true
  | .lea _ _ _ _ _ _ _ => true
  | .shflIdx _ _ _ _ _ _ => true
  | .shflUp _ _ _ _ _ _ => true
  | .shflDown _ _ _ _ _ _ => true
  | .shflXor _ _ _ _ _ _ => true
  | .voteAny _ _ => true
  | .voteAll _ _ => true
  | .voteBal _ _ => true
  | .voteEq _ _ _ => true
  | .lredIadd _ _ _ => true
  | .lredFadd _ _ _ => true
  | .lredMin _ _ _ => true
  | .lredMax _ _ _ => true
  | .lredAmax _ _ _ => true
  | .lredAnd _ _ _ => true
  | .lredOr _ _ _ => true
  | .lredXor _ _ _ => true
  | .lscanIadd _ _ _ => true
  | .lscanFadd _ _ _ => true
  | .lscanMin _ _ _ => true
  | .lscanMax _ _ _ => true
  | .lscanAnd _ _ _ => true
  | .lscanOr _ _ _ => true
  | .lscanXor _ _ _ => true
  | .bcast _ _ _ _ => true
  | .bcastG _ _ _ _ => true
  | .bcastFirst _ _ _ => true
  | .bcastFirstg _ _ _ => true
  | .fadd _ _ _ _ _ _ => true
  | .fsub _ _ _ _ _ _ => true
  | .fmul _ _ _ _ _ _ => true
  | .ffma _ _ _ _ _ _ => true
  | .ffmaMs _ _ _ _ _ _ => true
  | .ffmaNm _ _ _ _ _ _ => true
  | .ffmaNms _ _ _ _ _ _ => true
  | .fmin _ _ _ _ _ _ => true
  | .fmax _ _ _ _ _ _ => true
  | .fcmpEq _ _ _ _ _ _ => true
  | .fcmpNe _ _ _ _ _ _ => true
  | .fcmpLt _ _ _ _ _ _ => true
  | .fcmpLe _ _ _ _ _ _ => true
  | .fcmpGt _ _ _ _ _ _ => true
  | .fcmpGe _ _ _ _ _ _ => true
  | .fcmpUn _ _ _ _ _ _ => true
  | .fcmpOr _ _ _ _ _ _ => true
  | .fabs _ _ _ _ => true
  | .fneg _ _ _ _ => true
  | .frcp _ _ _ _ => true
  | .fsqrt _ _ _ _ => true
  | .frsq _ _ _ _ => true
  | .fexp _ _ _ _ => true
  | .fln _ _ _ _ => true
  | .fexp2 _ _ _ _ => true
  | .flog2 _ _ _ _ => true
  | .cvt _ _ _ _ _ => true
  | .frnd _ _ _ _ => true
  | .fscal _ _ _ _ _ _ _ => true
  | .hadq _ _ _ _ => true
  | .hadqInv _ _ _ _ => true
  | .qpack _ _ _ => true
  | .qunpk _ _ _ => true
  | .fmtw _ _ _ => true
  | .dot4 _ _ _ _ _ _ => true
  | .ld _ _ _ _ _ _ _ _ => true
  | .st _ _ _ _ _ _ _ _ _ => true
  | .lds _ _ _ _ _ _ _ _ => true
  | .sts _ _ _ _ _ _ _ _ _ => true
  | .ldp _ _ _ _ _ _ _ => true
  | .stp _ _ _ _ _ _ _ _ => true
  | .prsTest _ _ _ _ _ => true
  | .prsClr _ _ _ _ => true
  | .prsSet _ _ _ _ => true
  | .prsWait _ _ _ _ _ => true
  | .fence _ _ _ _ => true
  | .fenceSc _ _ => true
  | .atom _ _ _ _ _ _ _ => true
  | .atoms _ _ _ _ _ _ => true
  | .red _ _ _ _ _ _ _ => true
  | .xaccAdd _ _ _ _ _ _ _ => true
  | .xaccRd _ _ _ _ _ _ => true
  | .ticket _ _ _ _ => true
  | .ldw _ _ _ _ _ _ _ _ => true
  | .stw _ _ _ _ _ _ _ _ _ => true
  | .pfch _ _ _ _ _ _ _ => true
  | .copyG2s _ _ _ _ _ _ _ => true
  | .copyS2g _ _ _ _ _ _ _ => true
  | .copyG2o _ _ _ _ _ _ _ => true
  | .copyS2o _ _ _ _ _ _ _ => true
  | .copyG2g _ _ _ _ _ _ _ => true
  | .copyXa _ _ _ _ _ _ _ => true
  | .copyS2s _ _ _ _ _ _ _ => true
  | .copyfG2o _ _ _ _ _ _ _ => true
  | .copyfS2o _ _ _ _ _ _ _ => true
  | .mma _ _ _ _ => true
  | .accldG _ _ _ _ _ _ _ => true
  | .accldS _ _ _ _ _ _ _ => true
  | .accstG _ _ _ _ _ _ _ => true
  | .accstS _ _ _ _ _ _ _ => true
  | .slotClaim _ _ _ _ _ => true
  | .slotRel _ _ _ _ _ => true
  | .slotHeld _ _ _ _ _ => true
  | .chainSet _ _ _ _ _ _ _ => true
  | .chainAdv _ _ _ _ _ _ => true
  | .seqw _ _ _ _ _ _ => true
  | .kvgatK _ _ _ _ _ _ _ => true
  | .kvgatV _ _ _ _ _ _ _ => true
  | .kvapp _ _ _ _ _ _ _ => true
  | .kvpinPin _ _ _ _ _ _ => true
  | .kvpinUnpin _ _ _ _ _ _ => true
  | .kvfrk _ _ _ _ _ _ _ => true
  | .hdlQuery _ _ _ _ _ _ => true
  | .hdlCommit _ _ _ _ _ _ => true
  | .hdlTrunc _ _ _ _ _ _ => true
  | .pfxh _ _ _ _ _ _ _ => true
  | .pfxl _ _ _ _ _ _ _ => true
  | .pfxi _ _ _ _ _ _ _ => true
  | .fputG _ _ _ _ _ _ _ => true
  | .fputS _ _ _ _ _ _ _ => true
  | .fputLz _ _ _ _ _ _ _ => true
  | .fputLzg _ _ _ _ _ _ _ => true
  | .fgetG _ _ _ _ _ _ _ => true
  | .fgetS _ _ _ _ _ _ _ => true
  | .fatom _ _ _ _ _ _ _ _ => true
  | .fred _ _ _ _ _ _ _ => true
  | .lzres _ _ _ _ _ _ => true
  | .lzarm _ _ _ _ _ _ _ => true
  | .lzrel _ _ _ _ _ => true
  | .lzqRd _ _ _ _ _ _ => true
  | .lzqWait _ _ _ _ _ => true
  | .rngW0 _ _ _ _ _ => true
  | .rngW1 _ _ _ _ _ => true
  | .rngW2 _ _ _ _ _ => true
  | .rngW3 _ _ _ _ _ => true
  | .rngUni _ _ _ _ _ => true
  | .rngGum _ _ _ _ _ => true
  | .smplMax _ _ _ _ _ _ _ => true
  | .smplSmp _ _ _ _ _ _ _ => true
  | .smplRes _ _ _ _ _ _ _ => true
  | .smrg _ _ _ _ _ _ _ => true
  | .acpt _ _ _ _ _ _ _ => true
  | .stop _ _ _ _ _ _ _ => true
  | .emit _ _ _ _ _ _ _ => true
  | .rqstCommit _ _ _ _ _ => true
  | .rqstQuery _ _ _ _ _ _ => true
  | .rqstFail _ _ _ _ _ => true
  | .xredExp _ _ _ _ _ _ _ => true
  | .xredSum _ _ _ _ _ _ _ => true
  | .rep _ _ _ _ => true
  | .clause _ _ _ _ => true
  | .sqtdbWrite fn q _ => qpOk fn q
  | .cqhdbWrite fn q _ => qpOk fn q
  | .queueEnable fn q val => qpOk fn q && decide (val.toNat / 2 ^ 31 = 1)
  | .queueDisable fn q val => qpOk fn q && decide (val.toNat / 2 ^ 31 = 0)
  | .qctlErrClear fn q val => qpOk fn q && decide (val.toNat / 2 ^ 30 % 2 = 1)
  | .registerWrite fn off width _ => decide (fn ≤ 32) && decide (off < 2 ^ 20) && (width == 4 || width == 8) && decide (off % width = 0)
  | .devIdent c => cmdOk c
  | .featNegotiate c => cmdOk c
  | .tenantOpen c => cmdOk c
  | .tenantClose c => cmdOk c
  | .memMap c => cmdOk c && decide (c.a2.toNat / 2 ^ 6 % 2 = 0)
  | .memMapUnmap c => cmdOk c && decide (c.a2.toNat / 2 ^ 6 % 2 = 1)
  | .imageLoad c => cmdOk c && decide (c.a0.toNat / 2 ^ 63 = 0)
  | .imageLoadRom c => cmdOk c && decide (c.a0.toNat / 2 ^ 63 = 1)
  | .poolCreate c => cmdOk c
  | .modelPlan c => cmdOk c && decide (c.a0.toNat / 2 ^ 63 = 0)
  | .modelPlanRom c => cmdOk c && decide (c.a0.toNat / 2 ^ 63 = 1)
  | .reqAdmit c => cmdOk c
  | .reqCancel c => cmdOk c
  | .reqFork c => cmdOk c
  | .reqQuery c => cmdOk c && decide (c.a1.toNat % 2 = 0)
  | .reqQueryRelease c => cmdOk c && decide (c.a1.toNat % 2 = 1)
  | .launch c => cmdOk c
  | .graphSubmit c => cmdOk c
  | .preempt c => cmdOk c
  | .ctxExport c => cmdOk c
  | .ctxImport c => cmdOk c
  | .resume c => cmdOk c
  | .fabricRoutesLoad c => cmdOk c && decide (c.a1.toNat % 4 = 0)
  | .fabricRoutesFlip c => cmdOk c && decide (c.a1.toNat % 4 = 1)
  | .fabricRoutesRetire c => cmdOk c && decide (c.a1.toNat % 4 = 2)
  | .fabricRoutesExport c => cmdOk c && decide (c.a1.toNat % 4 = 3)
  | .kvExport c => cmdOk c
  | .kvImport c => cmdOk c
  | .snapArm c => cmdOk c
  | .snapRead c => cmdOk c
  | .alarmStatus c => cmdOk c && decide (c.a0.toNat % 2 = 0)
  | .alarmStatusClear c => cmdOk c && decide (c.a0.toNat % 2 = 1)
  | .fwPatch c => cmdOk c
  | .attest c => cmdOk c
  | .keyLoad c => cmdOk c
  | .chipletReset c => cmdOk c
  | .telemetry c => cmdOk c
  | .pcieReadCompletion _ _ => true
  | .routeAck _ quad => decide (quad < 4)
  | .pcieReadTimeout _ => true
  | .consumerCountPoll tenant => decide (tenant < 4096)
  | .powerWindowEnd r => r.chips.length == 4
  | .coldReset _ => true
  | .chipletFault chip => decide (chip < 4)
  | .fenceDrainComplete chip => decide (chip < 4)
  | .fenceTimeout chip => decide (chip < 4)
  | .chipletResetDone chip => decide (chip < 4)
  | .selftestPass chip => decide (chip < 4)
  | .selftestFail chip => decide (chip < 4)
  | .alarmSensor _ => true
  | .tempcHoldExpiry => true
  | .snapshotPin => true
  | .shootdownAck _ chip => decide (chip < 4)
  | .recordRelaunch _ part slot => decide (part < 8) && decide (slot < 32)
  | .loadResultLand _ _ => true
  | .storeCommit _ lane => decide (lane < 16)
  | .atomicPerform _ => true
  | .lltlbLookupDone _ _ => true
  | .walkComplete _ _ => true
  | .checkAnswer _ => true
  | .raceRecordsArrive _ => true
  | .registerEccError _ _ => true
  | .memoryEccError line => decide (line % 128 = 0) && decide (line < 2 ^ 52)
  | .huddleBinTimeout _ => true
  | .admissionStep places => places.all placeOk
  | .launchComplete _ => true
  | .handlerStart _ place => placeOk place
  | .firmwareDispose _ => true
  | .xlateHoldTimeout _ _ => true
  | .copyLineLand _ _ => true
  | .engineComplete _ => true
  | .mmaStart _ => true
  | .mmaComplete _ => true
  | .slotClaimGrant _ => true
  | .chainEntryTake core chain => decide (core < 256) && decide (chain < 4)
  | .chainEntryComplete _ => true
  | .gatherLineLand _ _ => true
  | .evictionStart _ => true
  | .evictionCopyDone _ _ => true
  | .fetchStart _ _ => true
  | .fetchDone _ _ => true
  | .iterationForm _ => true
  | .iterationGraphComplete _ => true
  | .iterationComplete _ => true
  | .deadlinePass _ => true
  | .admissionKernelComplete _ => true
  | .packetForward p port => pktOk p port
  | .writePacket p port => pktOk p port && p.type == 0
  | .catchPacket p port => pktOk p port && p.type == 1
  | .readPacket p port => pktOk p port && p.type == 2
  | .readdataPacket p port => pktOk p port && p.type == 3
  | .atomicPacket p port => pktOk p port && p.type == 4
  | .atomreplyPacket p port => pktOk p port && p.type == 5
  | .ackPacket p port => pktOk p port && p.type == 6
  | .nackPacket p port => pktOk p port && p.type == 7
  | .resvPacket p port => pktOk p port && p.type == 8
  | .resvreplyPacket p port => pktOk p port && p.type == 9
  | .tornPacket p port => pktOk p port && p.type == 10
  | .abortPacket p port => pktOk p port && p.type == 11
  | .reducePacket p port => pktOk p port && p.type == 12
  | .redresultPacket p port => pktOk p port && p.type == 13
  | .kvxferPacket p port => pktOk p port && p.type == 14
  | .ueMessage _ => true
  | .ueTransportFailure _ => true
  | .linkDown port => decide (port < 16)
  | .retransmitTimeout _ _ => true
  | .catchSlotTimeout core slot => decide (core < 256) && decide (slot < 16)
  | .catchAbortTimeout _ => true
  | .reduceResendTimeout _ => true
  | .kvImportTimeout _ => true
  | .kvExportTimeout _ => true
  | .preemptFabricTimeout _ => true
  | .contextImageCommit _ => true
  | .sectionRestore _ _ places => places.all placeOk
  | .slotTileUncorrectableError _ => true
  | .scratchpadStoreComplete _ => true

end Sys2Proof
end

