-- ==== Sys2Proof/Decode.lean ====
section
/-! DEFINITION. Decoding: from the 32 bits of an instruction word (R71 to R83, R94, and the encoding
tables R103, R128, R150, R160, R176, R203) and from the 64 bytes of a host command (R36, R43) to
Instr, and back. A word of no row is rejected; raising ILLOP for it is the machine's (R82, R98). Value
limits that a description puts on a field (a wait bit, a type code, a predicate number) are no part
of decoding: the instruction's meaning raises their trap. -/

namespace Sys2Proof

/-- The n bits of w from bit lo up, as a number (R71). -/
def fld (w : Word) (lo n : Nat) : Nat := w.toNat / 2 ^ lo % 2 ^ n

/-- The n-bit field of w at bit lo. -/
def bits (w : Word) (lo n : Nat) : BitVec n := BitVec.ofNat n (w.toNat / 2 ^ lo)

/-- One bit of w. -/
def bit (w : Word) (lo : Nat) : Bool := decide (fld w lo 1 = 1)

/-- Opcodes 0x00 to 0x0F. -/
def decode0 (w : Word) (op : Nat) : Option Instr :=
  match op with
  | 0x00 =>
    if fld w 0 25 = 0 then some .nop
    else none
  | 0x01 =>
    some (.mood (bit w 24) (bits w 18 6) (bits w 0 18))
  | 0x02 =>
    if fld w 18 7 = 0 ∧ fld w 0 12 = 0 then some (.maskSet (bits w 12 6))
    else if fld w 18 7 = 0 ∧ fld w 0 12 = 1 then some (.maskAnd (bits w 12 6))
    else if fld w 18 7 = 0 ∧ fld w 0 12 = 2 then some (.maskOr (bits w 12 6))
    else if fld w 18 7 = 64 ∧ fld w 0 12 = 3 then some (.maskG (bits w 12 6))
    else if fld w 24 1 = 1 ∧ fld w 0 18 = 4 then some (.maskRd (bits w 18 6))
    else if fld w 0 25 = 5 then some .maskAlive
    else none
  | 0x03 =>
    if fld w 21 4 = 0 then some (.br (bits w 0 21))
    else none
  | 0x04 =>
    if fld w 21 1 = 0 then some (.brAny (bits w 22 3) (bits w 0 21))
    else none
  | 0x05 =>
    if fld w 21 1 = 0 then some (.brAll (bits w 22 3) (bits w 0 21))
    else none
  | 0x06 =>
    if fld w 21 1 = 0 then some (.brNone (bits w 22 3) (bits w 0 21))
    else none
  | 0x07 =>
    if fld w 21 1 = 0 then some (.brDiv (bits w 22 3) (bits w 0 21))
    else none
  | 0x08 =>
    if fld w 0 25 = 0 then some .join
    else none
  | 0x09 =>
    if fld w 21 4 = 0 then some (.call (bits w 0 21))
    else none
  | 0x0A =>
    if fld w 18 7 = 64 ∧ fld w 0 12 = 0 then some (.ret (bits w 12 6))
    else none
  | 0x0B =>
    if fld w 0 25 = 0 then some .endThreads
    else none
  | 0x0C =>
    if fld w 0 25 = 0 then some .barWg
    else if fld w 0 25 = 1 then some .barGang
    else if fld w 24 1 = 1 ∧ fld w 0 18 = 2 then some (.barArrive (bits w 18 6))
    else if fld w 18 7 = 64 ∧ fld w 0 12 = 3 then some (.barWait (bits w 12 6))
    else if fld w 18 7 = 64 ∧ fld w 0 6 = 4 then some (.barNamed (bits w 12 6) (bits w 6 6))
    else none
  | 0x0D =>
    if fld w 0 25 = 0 then some .cede
    else none
  | 0x0E =>
    if fld w 18 7 = 0 then some (.trapUser (bits w 0 18))
    else none
  | 0x0F =>
    if fld w 24 1 = 1 ∧ fld w 12 6 = 0 ∧ fld w 0 6 = 8 then some (.sysCsrr (bits w 18 6) (bits w 6 6))
    else if fld w 18 7 = 64 ∧ fld w 0 6 = 9 then some (.sysCsrw (bits w 12 6) (bits w 6 6))
    else if fld w 24 1 = 1 ∧ fld w 0 12 = 2 then some (.sysLocq (bits w 18 6) (bits w 12 6))
    else if fld w 0 25 = 3 then some .sysSnap
    else if fld w 24 1 = 1 ∧ fld w 0 18 = 4 then some (.sysClk (bits w 18 6))
    else if fld w 24 1 = 1 ∧ fld w 0 18 = 5 then some (.sysFlagerr (bits w 18 6))
    else none
  | _ => none

/-- Opcodes 0x10 to 0x1F. -/
def decode1 (w : Word) (op : Nat) : Option Instr :=
  match op with
  | 0x10 =>
    if fld w 0 3 = 0 then some (.iadd (bit w 24) (bits w 18 6) (bits w 12 6) (bits w 6 6) (bit w 5) (bit w 4) (bit w 3))
    else none
  | 0x11 =>
    if fld w 0 3 = 0 then some (.isub (bit w 24) (bits w 18 6) (bits w 12 6) (bits w 6 6) (bit w 5) (bit w 4) (bit w 3))
    else none
  | 0x12 =>
    if fld w 0 3 = 0 then some (.imul (bit w 24) (bits w 18 6) (bits w 12 6) (bits w 6 6) (bit w 5) (bit w 4) (bit w 3))
    else none
  | 0x13 =>
    if fld w 0 3 = 0 then some (.imulh (bit w 24) (bits w 18 6) (bits w 12 6) (bits w 6 6) (bit w 5) (bit w 4) (bit w 3))
    else none
  | 0x14 =>
    if fld w 0 3 = 0 then some (.imad (bit w 24) (bits w 18 6) (bits w 12 6) (bits w 6 6) (bit w 5) (bit w 4) (bit w 3))
    else none
  | 0x15 =>
    if fld w 0 3 = 0 then some (.idivQs (bit w 24) (bits w 18 6) (bits w 12 6) (bits w 6 6) (bit w 5) (bit w 4) (bit w 3))
    else if fld w 0 3 = 1 then some (.idivQn (bit w 24) (bits w 18 6) (bits w 12 6) (bits w 6 6) (bit w 5) (bit w 4) (bit w 3))
    else if fld w 0 3 = 2 then some (.idivRs (bit w 24) (bits w 18 6) (bits w 12 6) (bits w 6 6) (bit w 5) (bit w 4) (bit w 3))
    else if fld w 0 3 = 3 then some (.idivRn (bit w 24) (bits w 18 6) (bits w 12 6) (bits w 6 6) (bit w 5) (bit w 4) (bit w 3))
    else none
  | 0x16 =>
    if fld w 0 3 = 0 then some (.imin (bit w 24) (bits w 18 6) (bits w 12 6) (bits w 6 6) (bit w 5) (bit w 4) (bit w 3))
    else none
  | 0x17 =>
    if fld w 0 3 = 0 then some (.imax (bit w 24) (bits w 18 6) (bits w 12 6) (bits w 6 6) (bit w 5) (bit w 4) (bit w 3))
    else none
  | 0x18 =>
    if fld w 6 6 = 0 ∧ fld w 0 5 = 0 then some (.iabs (bit w 24) (bits w 18 6) (bits w 12 6) (bit w 5))
    else none
  | 0x19 =>
    if fld w 6 6 = 0 ∧ fld w 0 5 = 0 then some (.ineg (bit w 24) (bits w 18 6) (bits w 12 6) (bit w 5))
    else none
  | 0x1A =>
    if fld w 0 3 = 0 then some (.bitAnd (bit w 24) (bits w 18 6) (bits w 12 6) (bits w 6 6) (bit w 5) (bit w 4) (bit w 3))
    else none
  | 0x1B =>
    if fld w 0 3 = 0 then some (.bitOr (bit w 24) (bits w 18 6) (bits w 12 6) (bits w 6 6) (bit w 5) (bit w 4) (bit w 3))
    else none
  | 0x1C =>
    if fld w 0 3 = 0 then some (.bitXor (bit w 24) (bits w 18 6) (bits w 12 6) (bits w 6 6) (bit w 5) (bit w 4) (bit w 3))
    else none
  | 0x1D =>
    if fld w 0 3 = 0 then some (.bitAndn (bit w 24) (bits w 18 6) (bits w 12 6) (bits w 6 6) (bit w 5) (bit w 4) (bit w 3))
    else none
  | 0x1E =>
    if fld w 0 3 = 0 then some (.shl (bit w 24) (bits w 18 6) (bits w 12 6) (bits w 6 6) (bit w 5) (bit w 4) (bit w 3))
    else none
  | 0x1F =>
    if fld w 0 3 = 0 then some (.shrL (bit w 24) (bits w 18 6) (bits w 12 6) (bits w 6 6) (bit w 5) (bit w 4) (bit w 3))
    else if fld w 0 3 = 1 then some (.shrA (bit w 24) (bits w 18 6) (bits w 12 6) (bits w 6 6) (bit w 5) (bit w 4) (bit w 3))
    else none
  | _ => none

/-- Opcodes 0x20 to 0x2F. -/
def decode2 (w : Word) (op : Nat) : Option Instr :=
  match op with
  | 0x20 =>
    if fld w 0 3 = 0 then some (.rotL (bit w 24) (bits w 18 6) (bits w 12 6) (bits w 6 6) (bit w 5) (bit w 4) (bit w 3))
    else if fld w 0 3 = 1 then some (.rotR (bit w 24) (bits w 18 6) (bits w 12 6) (bits w 6 6) (bit w 5) (bit w 4) (bit w 3))
    else none
  | 0x21 =>
    if fld w 6 6 = 0 ∧ fld w 0 5 = 0 then some (.bitcPopc (bit w 24) (bits w 18 6) (bits w 12 6) (bit w 5))
    else if fld w 6 6 = 0 ∧ fld w 0 5 = 1 then some (.bitcClz (bit w 24) (bits w 18 6) (bits w 12 6) (bit w 5))
    else if fld w 6 6 = 0 ∧ fld w 0 5 = 2 then some (.bitcCtz (bit w 24) (bits w 18 6) (bits w 12 6) (bit w 5))
    else if fld w 6 6 = 0 ∧ fld w 0 5 = 3 then some (.bitcBrev (bit w 24) (bits w 18 6) (bits w 12 6) (bit w 5))
    else none
  | 0x22 =>
    if fld w 0 4 = 0 then some (.bfeN (bit w 24) (bits w 18 6) (bits w 12 6) (bits w 6 6) (bit w 5) (bit w 4))
    else if fld w 0 4 = 1 then some (.bfeS (bit w 24) (bits w 18 6) (bits w 12 6) (bits w 6 6) (bit w 5) (bit w 4))
    else none
  | 0x23 =>
    if fld w 0 4 = 0 then some (.bfi (bit w 24) (bits w 18 6) (bits w 12 6) (bits w 6 6) (bit w 5) (bit w 4))
    else none
  | 0x24 =>
    if fld w 0 3 = 0 then some (.icmpEq (bit w 24) (bits w 18 6) (bits w 12 6) (bits w 6 6) (bit w 5) (bit w 4) (bit w 3))
    else if fld w 0 3 = 1 then some (.icmpNe (bit w 24) (bits w 18 6) (bits w 12 6) (bits w 6 6) (bit w 5) (bit w 4) (bit w 3))
    else if fld w 0 3 = 2 then some (.icmpLt (bit w 24) (bits w 18 6) (bits w 12 6) (bits w 6 6) (bit w 5) (bit w 4) (bit w 3))
    else if fld w 0 3 = 3 then some (.icmpLe (bit w 24) (bits w 18 6) (bits w 12 6) (bits w 6 6) (bit w 5) (bit w 4) (bit w 3))
    else if fld w 0 3 = 4 then some (.icmpGt (bit w 24) (bits w 18 6) (bits w 12 6) (bits w 6 6) (bit w 5) (bit w 4) (bit w 3))
    else if fld w 0 3 = 5 then some (.icmpGe (bit w 24) (bits w 18 6) (bits w 12 6) (bits w 6 6) (bit w 5) (bit w 4) (bit w 3))
    else none
  | 0x25 =>
    some (.sel (bit w 24) (bits w 18 6) (bits w 12 6) (bits w 6 6) (bit w 5) (bit w 4) (bit w 3) (bits w 0 3))
  | 0x26 =>
    if fld w 6 6 = 0 ∧ fld w 0 5 = 0 then some (.mov (bit w 24) (bits w 18 6) (bits w 12 6) (bit w 5))
    else if fld w 0 12 = 1 then some (.movSpecial (bit w 24) (bits w 18 6) (bits w 12 6))
    else if fld w 24 1 = 0 ∧ fld w 0 12 = 2 then some (.movG (bits w 18 6) (bits w 12 6))
    else none
  | 0x27 =>
    if fld w 24 1 = 0 ∧ fld w 0 6 = 0 then some (.plogAnd (bits w 18 6) (bits w 12 6) (bits w 6 6))
    else if fld w 24 1 = 0 ∧ fld w 0 6 = 1 then some (.plogOr (bits w 18 6) (bits w 12 6) (bits w 6 6))
    else if fld w 24 1 = 0 ∧ fld w 0 6 = 2 then some (.plogXor (bits w 18 6) (bits w 12 6) (bits w 6 6))
    else if fld w 24 1 = 0 ∧ fld w 0 6 = 3 then some (.plogAndn (bits w 18 6) (bits w 12 6) (bits w 6 6))
    else if fld w 24 1 = 0 ∧ fld w 0 12 = 4 then some (.plogNot (bits w 18 6) (bits w 12 6))
    else if fld w 24 1 = 1 ∧ fld w 0 12 = 5 then some (.plogFromg (bits w 18 6) (bits w 12 6))
    else if fld w 24 1 = 1 ∧ fld w 0 12 = 6 then some (.plogTog (bits w 18 6) (bits w 12 6))
    else none
  | 0x28 =>
    some (.ldi (bit w 24) (bits w 18 6) (bits w 0 18))
  | 0x29 =>
    some (.khi (bit w 24) (bits w 18 6) (bits w 0 18))
  | 0x2A =>
    if fld w 6 1 = 0 ∧ fld w 3 1 = 0 then some (.lea (bit w 24) (bits w 18 6) (bits w 13 5) (bits w 7 6) (bit w 5) (bit w 4) (bits w 0 3))
    else none
  | 0x2B =>
    if fld w 24 1 = 0 ∧ fld w 0 3 = 0 then some (.shflIdx (bits w 18 6) (bits w 12 6) (bits w 6 6) (bit w 5) (bit w 4) (bit w 3))
    else if fld w 24 1 = 0 ∧ fld w 0 3 = 1 then some (.shflUp (bits w 18 6) (bits w 12 6) (bits w 6 6) (bit w 5) (bit w 4) (bit w 3))
    else if fld w 24 1 = 0 ∧ fld w 0 3 = 2 then some (.shflDown (bits w 18 6) (bits w 12 6) (bits w 6 6) (bit w 5) (bit w 4) (bit w 3))
    else if fld w 24 1 = 0 ∧ fld w 0 3 = 3 then some (.shflXor (bits w 18 6) (bits w 12 6) (bits w 6 6) (bit w 5) (bit w 4) (bit w 3))
    else none
  | 0x2C =>
    if fld w 24 1 = 0 ∧ fld w 0 12 = 0 then some (.voteAny (bits w 18 6) (bits w 12 6))
    else if fld w 24 1 = 0 ∧ fld w 0 12 = 1 then some (.voteAll (bits w 18 6) (bits w 12 6))
    else if fld w 24 1 = 0 ∧ fld w 0 12 = 2 then some (.voteBal (bits w 18 6) (bits w 12 6))
    else if fld w 24 1 = 0 ∧ fld w 6 6 = 0 ∧ fld w 0 5 = 3 then some (.voteEq (bits w 18 6) (bits w 12 6) (bit w 5))
    else none
  | 0x2D =>
    if fld w 24 1 = 0 ∧ fld w 6 6 = 0 ∧ fld w 0 5 = 0 then some (.lredIadd (bits w 18 6) (bits w 12 6) (bit w 5))
    else if fld w 24 1 = 0 ∧ fld w 6 6 = 0 ∧ fld w 0 5 = 1 then some (.lredFadd (bits w 18 6) (bits w 12 6) (bit w 5))
    else if fld w 24 1 = 0 ∧ fld w 6 6 = 0 ∧ fld w 0 5 = 2 then some (.lredMin (bits w 18 6) (bits w 12 6) (bit w 5))
    else if fld w 24 1 = 0 ∧ fld w 6 6 = 0 ∧ fld w 0 5 = 3 then some (.lredMax (bits w 18 6) (bits w 12 6) (bit w 5))
    else if fld w 24 1 = 0 ∧ fld w 6 6 = 0 ∧ fld w 0 5 = 4 then some (.lredAmax (bits w 18 6) (bits w 12 6) (bit w 5))
    else if fld w 24 1 = 0 ∧ fld w 6 6 = 0 ∧ fld w 0 5 = 5 then some (.lredAnd (bits w 18 6) (bits w 12 6) (bit w 5))
    else if fld w 24 1 = 0 ∧ fld w 6 6 = 0 ∧ fld w 0 5 = 6 then some (.lredOr (bits w 18 6) (bits w 12 6) (bit w 5))
    else if fld w 24 1 = 0 ∧ fld w 6 6 = 0 ∧ fld w 0 5 = 7 then some (.lredXor (bits w 18 6) (bits w 12 6) (bit w 5))
    else none
  | 0x2E =>
    if fld w 24 1 = 0 ∧ fld w 6 6 = 0 ∧ fld w 0 5 = 0 then some (.lscanIadd (bits w 18 6) (bits w 12 6) (bit w 5))
    else if fld w 24 1 = 0 ∧ fld w 6 6 = 0 ∧ fld w 0 5 = 1 then some (.lscanFadd (bits w 18 6) (bits w 12 6) (bit w 5))
    else if fld w 24 1 = 0 ∧ fld w 6 6 = 0 ∧ fld w 0 5 = 2 then some (.lscanMin (bits w 18 6) (bits w 12 6) (bit w 5))
    else if fld w 24 1 = 0 ∧ fld w 6 6 = 0 ∧ fld w 0 5 = 3 then some (.lscanMax (bits w 18 6) (bits w 12 6) (bit w 5))
    else if fld w 24 1 = 0 ∧ fld w 6 6 = 0 ∧ fld w 0 5 = 4 then some (.lscanAnd (bits w 18 6) (bits w 12 6) (bit w 5))
    else if fld w 24 1 = 0 ∧ fld w 6 6 = 0 ∧ fld w 0 5 = 5 then some (.lscanOr (bits w 18 6) (bits w 12 6) (bit w 5))
    else if fld w 24 1 = 0 ∧ fld w 6 6 = 0 ∧ fld w 0 5 = 6 then some (.lscanXor (bits w 18 6) (bits w 12 6) (bit w 5))
    else none
  | 0x2F =>
    if fld w 24 1 = 0 ∧ fld w 0 5 = 8 then some (.bcast (bits w 18 6) (bits w 12 6) (bits w 6 6) (bit w 5))
    else if fld w 24 1 = 0 ∧ fld w 0 5 = 9 then some (.bcastG (bits w 18 6) (bits w 12 6) (bits w 6 6) (bit w 5))
    else if fld w 24 1 = 0 ∧ fld w 6 6 = 0 ∧ fld w 0 5 = 2 then some (.bcastFirst (bits w 18 6) (bits w 12 6) (bit w 5))
    else if fld w 24 1 = 0 ∧ fld w 6 6 = 0 ∧ fld w 0 5 = 3 then some (.bcastFirstg (bits w 18 6) (bits w 12 6) (bit w 5))
    else none
  | _ => none

/-- Opcodes 0x30 to 0x3F. -/
def decode3 (w : Word) (op : Nat) : Option Instr :=
  match op with
  | 0x30 =>
    if fld w 0 4 = 0 then some (.fadd (bit w 24) (bits w 18 6) (bits w 12 6) (bits w 6 6) (bit w 5) (bit w 4))
    else none
  | 0x31 =>
    if fld w 0 4 = 0 then some (.fsub (bit w 24) (bits w 18 6) (bits w 12 6) (bits w 6 6) (bit w 5) (bit w 4))
    else none
  | 0x32 =>
    if fld w 0 4 = 0 then some (.fmul (bit w 24) (bits w 18 6) (bits w 12 6) (bits w 6 6) (bit w 5) (bit w 4))
    else none
  | 0x33 =>
    if fld w 0 4 = 0 then some (.ffma (bit w 24) (bits w 18 6) (bits w 12 6) (bits w 6 6) (bit w 5) (bit w 4))
    else if fld w 0 4 = 1 then some (.ffmaMs (bit w 24) (bits w 18 6) (bits w 12 6) (bits w 6 6) (bit w 5) (bit w 4))
    else if fld w 0 4 = 2 then some (.ffmaNm (bit w 24) (bits w 18 6) (bits w 12 6) (bits w 6 6) (bit w 5) (bit w 4))
    else if fld w 0 4 = 3 then some (.ffmaNms (bit w 24) (bits w 18 6) (bits w 12 6) (bits w 6 6) (bit w 5) (bit w 4))
    else none
  | 0x34 =>
    if fld w 0 4 = 0 then some (.fmin (bit w 24) (bits w 18 6) (bits w 12 6) (bits w 6 6) (bit w 5) (bit w 4))
    else none
  | 0x35 =>
    if fld w 0 4 = 0 then some (.fmax (bit w 24) (bits w 18 6) (bits w 12 6) (bits w 6 6) (bit w 5) (bit w 4))
    else none
  | 0x36 =>
    if fld w 0 4 = 0 then some (.fcmpEq (bit w 24) (bits w 18 6) (bits w 12 6) (bits w 6 6) (bit w 5) (bit w 4))
    else if fld w 0 4 = 1 then some (.fcmpNe (bit w 24) (bits w 18 6) (bits w 12 6) (bits w 6 6) (bit w 5) (bit w 4))
    else if fld w 0 4 = 2 then some (.fcmpLt (bit w 24) (bits w 18 6) (bits w 12 6) (bits w 6 6) (bit w 5) (bit w 4))
    else if fld w 0 4 = 3 then some (.fcmpLe (bit w 24) (bits w 18 6) (bits w 12 6) (bits w 6 6) (bit w 5) (bit w 4))
    else if fld w 0 4 = 4 then some (.fcmpGt (bit w 24) (bits w 18 6) (bits w 12 6) (bits w 6 6) (bit w 5) (bit w 4))
    else if fld w 0 4 = 5 then some (.fcmpGe (bit w 24) (bits w 18 6) (bits w 12 6) (bits w 6 6) (bit w 5) (bit w 4))
    else if fld w 0 4 = 6 then some (.fcmpUn (bit w 24) (bits w 18 6) (bits w 12 6) (bits w 6 6) (bit w 5) (bit w 4))
    else if fld w 0 4 = 7 then some (.fcmpOr (bit w 24) (bits w 18 6) (bits w 12 6) (bits w 6 6) (bit w 5) (bit w 4))
    else none
  | 0x37 =>
    if fld w 6 6 = 0 ∧ fld w 0 5 = 0 then some (.fabs (bit w 24) (bits w 18 6) (bits w 12 6) (bit w 5))
    else none
  | 0x38 =>
    if fld w 6 6 = 0 ∧ fld w 0 5 = 0 then some (.fneg (bit w 24) (bits w 18 6) (bits w 12 6) (bit w 5))
    else none
  | 0x39 =>
    if fld w 6 6 = 0 ∧ fld w 0 5 = 0 then some (.frcp (bit w 24) (bits w 18 6) (bits w 12 6) (bit w 5))
    else none
  | 0x3A =>
    if fld w 6 6 = 0 ∧ fld w 0 5 = 0 then some (.fsqrt (bit w 24) (bits w 18 6) (bits w 12 6) (bit w 5))
    else none
  | 0x3B =>
    if fld w 6 6 = 0 ∧ fld w 0 5 = 0 then some (.frsq (bit w 24) (bits w 18 6) (bits w 12 6) (bit w 5))
    else none
  | 0x3C =>
    if fld w 6 6 = 0 ∧ fld w 0 5 = 0 then some (.fexp (bit w 24) (bits w 18 6) (bits w 12 6) (bit w 5))
    else none
  | 0x3D =>
    if fld w 6 6 = 0 ∧ fld w 0 5 = 0 then some (.fln (bit w 24) (bits w 18 6) (bits w 12 6) (bit w 5))
    else none
  | 0x3E =>
    if fld w 6 6 = 0 ∧ fld w 0 5 = 0 then some (.fexp2 (bit w 24) (bits w 18 6) (bits w 12 6) (bit w 5))
    else none
  | 0x3F =>
    if fld w 6 6 = 0 ∧ fld w 0 5 = 0 then some (.flog2 (bit w 24) (bits w 18 6) (bits w 12 6) (bit w 5))
    else none
  | _ => none

/-- Opcodes 0x40 to 0x4F. -/
def decode4 (w : Word) (op : Nat) : Option Instr :=
  match op with
  | 0x40 =>
    if fld w 6 6 = 0 ∧ fld w 2 3 = 0 then some (.cvt (bit w 24) (bits w 18 6) (bits w 12 6) (bit w 5) (bits w 0 2))
    else none
  | 0x41 =>
    if fld w 6 6 = 0 ∧ fld w 0 5 = 0 then some (.frnd (bit w 24) (bits w 18 6) (bits w 12 6) (bit w 5))
    else none
  | 0x42 =>
    if fld w 0 3 = 0 then some (.fscal (bit w 24) (bits w 18 6) (bits w 12 6) (bits w 6 6) (bit w 5) (bit w 4) (bit w 3))
    else none
  | 0x43 =>
    if fld w 24 1 = 0 ∧ fld w 0 5 = 0 then some (.hadq (bits w 18 6) (bits w 12 6) (bits w 6 6) (bit w 5))
    else if fld w 24 1 = 0 ∧ fld w 0 5 = 1 then some (.hadqInv (bits w 18 6) (bits w 12 6) (bits w 6 6) (bit w 5))
    else none
  | 0x44 =>
    if fld w 24 1 = 0 ∧ fld w 6 6 = 0 ∧ fld w 0 5 = 0 then some (.qpack (bits w 18 6) (bits w 12 6) (bit w 5))
    else none
  | 0x45 =>
    if fld w 24 1 = 0 ∧ fld w 6 6 = 0 ∧ fld w 0 5 = 0 then some (.qunpk (bits w 18 6) (bits w 12 6) (bit w 5))
    else none
  | 0x46 =>
    if fld w 12 6 = 0 ∧ fld w 0 6 = 8 then some (.fmtw (bit w 24) (bits w 18 6) (bits w 6 6))
    else none
  | 0x47 =>
    if fld w 0 4 = 0 then some (.dot4 (bit w 24) (bits w 18 6) (bits w 12 6) (bits w 6 6) (bit w 5) (bit w 4))
    else none
  | 0x48 =>
    if fld w 6 1 = 0 then some (.ld (bit w 24) (bits w 18 6) (bits w 13 5) (bits w 7 6) (bit w 5) (bit w 4) (bit w 3) (bits w 0 3))
    else none
  | 0x49 =>
    some (.st (bit w 24) (bits w 18 6) (bits w 13 5) (bits w 7 6) (bit w 6) (bit w 5) (bit w 4) (bit w 3) (bits w 0 3))
  | 0x4A =>
    if fld w 6 1 = 0 then some (.lds (bit w 24) (bits w 18 6) (bits w 13 5) (bits w 7 6) (bit w 5) (bit w 4) (bit w 3) (bits w 0 3))
    else none
  | 0x4B =>
    some (.sts (bit w 24) (bits w 18 6) (bits w 13 5) (bits w 7 6) (bit w 6) (bit w 5) (bit w 4) (bit w 3) (bits w 0 3))
  | 0x4C =>
    if fld w 24 1 = 0 ∧ fld w 6 1 = 0 then some (.ldp (bits w 18 6) (bits w 13 5) (bits w 7 6) (bit w 5) (bit w 4) (bit w 3) (bits w 0 3))
    else none
  | 0x4D =>
    if fld w 24 1 = 0 then some (.stp (bits w 18 6) (bits w 13 5) (bits w 7 6) (bit w 6) (bit w 5) (bit w 4) (bit w 3) (bits w 0 3))
    else none
  | 0x4E =>
    if fld w 6 1 = 0 ∧ fld w 0 5 = 0 then some (.prsTest (bit w 24) (bits w 18 6) (bits w 13 5) (bits w 7 6) (bit w 5))
    else if fld w 18 6 = 0 ∧ fld w 6 1 = 0 ∧ fld w 0 5 = 1 then some (.prsClr (bit w 24) (bits w 13 5) (bits w 7 6) (bit w 5))
    else if fld w 18 6 = 0 ∧ fld w 6 1 = 0 ∧ fld w 0 5 = 2 then some (.prsSet (bit w 24) (bits w 13 5) (bits w 7 6) (bit w 5))
    else if fld w 18 6 = 0 ∧ fld w 6 1 = 0 ∧ fld w 4 1 = 0 ∧ fld w 0 3 = 3 then some (.prsWait (bit w 24) (bits w 13 5) (bits w 7 6) (bit w 5) (bit w 3))
    else none
  | 0x4F =>
    if fld w 5 20 = 0 then some (.fence (bit w 4) (bits w 2 2) (bit w 1) (bit w 0))
    else if fld w 5 20 = 32768 ∧ fld w 0 2 = 3 then some (.fenceSc (bit w 4) (bits w 2 2))
    else none
  | _ => none

/-- Opcodes 0x50 to 0x5F. -/
def decode5 (w : Word) (op : Nat) : Option Instr :=
  match op with
  | 0x50 =>
    some (.atom (bit w 24) (bits w 18 6) (bits w 13 5) (bits w 7 6) (bits w 3 4) (bits w 1 2) (bit w 0))
  | 0x51 =>
    if fld w 1 2 = 0 then some (.atoms (bit w 24) (bits w 18 6) (bits w 13 5) (bits w 7 6) (bits w 3 4) (bit w 0))
    else none
  | 0x52 =>
    some (.red (bit w 24) (bits w 18 6) (bits w 13 5) (bits w 7 6) (bits w 3 4) (bits w 1 2) (bit w 0))
  | 0x53 =>
    if fld w 24 1 = 0 ∧ fld w 0 3 = 0 then some (.xaccAdd (bits w 18 6) (bits w 13 5) (bits w 7 6) (bit w 6) (bit w 5) (bit w 4) (bit w 3))
    else if fld w 24 1 = 0 ∧ fld w 6 1 = 0 ∧ fld w 0 3 = 1 then some (.xaccRd (bits w 18 6) (bits w 13 5) (bits w 7 6) (bit w 5) (bit w 4) (bit w 3))
    else none
  | 0x54 =>
    if fld w 24 1 = 1 ∧ fld w 3 4 = 0 ∧ fld w 0 1 = 0 then some (.ticket (bits w 18 6) (bits w 13 5) (bits w 7 6) (bits w 1 2))
    else none
  | 0x55 =>
    if fld w 6 1 = 0 ∧ fld w 1 2 = 2 then some (.ldw (bit w 24) (bits w 18 6) (bits w 13 5) (bits w 7 6) (bit w 5) (bit w 4) (bit w 3) (bit w 0))
    else none
  | 0x56 =>
    if fld w 1 2 = 2 then some (.stw (bit w 24) (bits w 18 6) (bits w 13 5) (bits w 7 6) (bit w 6) (bit w 5) (bit w 4) (bit w 3) (bit w 0))
    else none
  | 0x57 =>
    if fld w 18 6 = 0 ∧ fld w 6 1 = 0 then some (.pfch (bit w 24) (bits w 13 5) (bits w 7 6) (bit w 5) (bit w 4) (bit w 3) (bits w 0 3))
    else none
  | 0x58 =>
    if fld w 20 5 = 0 then some (.copyG2s (bits w 15 5) (bits w 10 5) (bits w 5 5) (bit w 4) (bits w 2 2) (bit w 1) (bit w 0))
    else if fld w 20 5 = 1 then some (.copyS2g (bits w 15 5) (bits w 10 5) (bits w 5 5) (bit w 4) (bits w 2 2) (bit w 1) (bit w 0))
    else if fld w 20 5 = 2 then some (.copyG2o (bits w 15 5) (bits w 10 5) (bits w 5 5) (bit w 4) (bits w 2 2) (bit w 1) (bit w 0))
    else if fld w 20 5 = 3 then some (.copyS2o (bits w 15 5) (bits w 10 5) (bits w 5 5) (bit w 4) (bits w 2 2) (bit w 1) (bit w 0))
    else if fld w 20 5 = 4 then some (.copyG2g (bits w 15 5) (bits w 10 5) (bits w 5 5) (bit w 4) (bits w 2 2) (bit w 1) (bit w 0))
    else if fld w 20 5 = 5 then some (.copyXa (bits w 15 5) (bits w 10 5) (bits w 5 5) (bit w 4) (bits w 2 2) (bit w 1) (bit w 0))
    else if fld w 20 5 = 6 then some (.copyS2s (bits w 15 5) (bits w 10 5) (bits w 5 5) (bit w 4) (bits w 2 2) (bit w 1) (bit w 0))
    else none
  | 0x59 =>
    if fld w 20 5 = 0 then some (.copyfG2o (bits w 15 5) (bits w 10 5) (bits w 5 5) (bit w 4) (bits w 2 2) (bit w 1) (bit w 0))
    else if fld w 20 5 = 1 then some (.copyfS2o (bits w 15 5) (bits w 10 5) (bits w 5 5) (bit w 4) (bits w 2 2) (bit w 1) (bit w 0))
    else none
  | 0x5A =>
    if fld w 24 1 = 0 then some (.mma (bits w 18 6) (bits w 12 6) (bits w 6 6) (bits w 0 6))
    else none
  | 0x5B =>
    if fld w 20 5 = 0 then some (.accldG (bits w 15 5) (bits w 10 5) (bits w 5 5) (bit w 4) (bits w 2 2) (bit w 1) (bit w 0))
    else if fld w 20 5 = 1 then some (.accldS (bits w 15 5) (bits w 10 5) (bits w 5 5) (bit w 4) (bits w 2 2) (bit w 1) (bit w 0))
    else none
  | 0x5C =>
    if fld w 20 5 = 0 then some (.accstG (bits w 15 5) (bits w 10 5) (bits w 5 5) (bit w 4) (bits w 2 2) (bit w 1) (bit w 0))
    else if fld w 20 5 = 1 then some (.accstS (bits w 15 5) (bits w 10 5) (bits w 5 5) (bit w 4) (bits w 2 2) (bit w 1) (bit w 0))
    else none
  | 0x5D =>
    if fld w 20 5 = 0 ∧ fld w 5 10 = 0 then some (.slotClaim (bits w 15 5) (bit w 4) (bits w 2 2) (bit w 1) (bit w 0))
    else if fld w 20 5 = 1 ∧ fld w 5 10 = 0 then some (.slotRel (bits w 15 5) (bit w 4) (bits w 2 2) (bit w 1) (bit w 0))
    else if fld w 10 15 = 2048 then some (.slotHeld (bits w 5 5) (bit w 4) (bits w 2 2) (bit w 1) (bit w 0))
    else none
  | 0x5E =>
    if fld w 20 5 = 0 then some (.chainSet (bits w 15 5) (bits w 10 5) (bits w 5 5) (bit w 4) (bits w 2 2) (bit w 1) (bit w 0))
    else if fld w 20 5 = 1 ∧ fld w 5 5 = 0 then some (.chainAdv (bits w 15 5) (bits w 10 5) (bit w 4) (bits w 2 2) (bit w 1) (bit w 0))
    else none
  | 0x5F =>
    if fld w 20 5 = 0 ∧ fld w 5 5 = 0 then some (.seqw (bits w 15 5) (bits w 10 5) (bit w 4) (bits w 2 2) (bit w 1) (bit w 0))
    else none
  | _ => none

/-- Opcodes 0x60 to 0x6F. -/
def decode6 (w : Word) (op : Nat) : Option Instr :=
  match op with
  | 0x60 =>
    if fld w 20 5 = 0 then some (.kvgatK (bits w 15 5) (bits w 10 5) (bits w 5 5) (bit w 4) (bits w 2 2) (bit w 1) (bit w 0))
    else if fld w 20 5 = 1 then some (.kvgatV (bits w 15 5) (bits w 10 5) (bits w 5 5) (bit w 4) (bits w 2 2) (bit w 1) (bit w 0))
    else none
  | 0x61 =>
    if fld w 20 5 = 0 then some (.kvapp (bits w 15 5) (bits w 10 5) (bits w 5 5) (bit w 4) (bits w 2 2) (bit w 1) (bit w 0))
    else none
  | 0x62 =>
    if fld w 20 5 = 0 ∧ fld w 5 5 = 0 then some (.kvpinPin (bits w 15 5) (bits w 10 5) (bit w 4) (bits w 2 2) (bit w 1) (bit w 0))
    else if fld w 20 5 = 1 ∧ fld w 5 5 = 0 then some (.kvpinUnpin (bits w 15 5) (bits w 10 5) (bit w 4) (bits w 2 2) (bit w 1) (bit w 0))
    else none
  | 0x63 =>
    if fld w 20 5 = 0 then some (.kvfrk (bits w 15 5) (bits w 10 5) (bits w 5 5) (bit w 4) (bits w 2 2) (bit w 1) (bit w 0))
    else none
  | 0x64 =>
    if fld w 20 5 = 0 ∧ fld w 10 5 = 0 then some (.hdlQuery (bits w 15 5) (bits w 5 5) (bit w 4) (bits w 2 2) (bit w 1) (bit w 0))
    else if fld w 20 5 = 1 ∧ fld w 5 5 = 0 then some (.hdlCommit (bits w 15 5) (bits w 10 5) (bit w 4) (bits w 2 2) (bit w 1) (bit w 0))
    else if fld w 20 5 = 2 ∧ fld w 5 5 = 0 then some (.hdlTrunc (bits w 15 5) (bits w 10 5) (bit w 4) (bits w 2 2) (bit w 1) (bit w 0))
    else none
  | 0x65 =>
    if fld w 20 5 = 0 then some (.pfxh (bits w 15 5) (bits w 10 5) (bits w 5 5) (bit w 4) (bits w 2 2) (bit w 1) (bit w 0))
    else none
  | 0x66 =>
    if fld w 20 5 = 0 then some (.pfxl (bits w 15 5) (bits w 10 5) (bits w 5 5) (bit w 4) (bits w 2 2) (bit w 1) (bit w 0))
    else none
  | 0x67 =>
    if fld w 20 5 = 0 then some (.pfxi (bits w 15 5) (bits w 10 5) (bits w 5 5) (bit w 4) (bits w 2 2) (bit w 1) (bit w 0))
    else none
  | 0x68 =>
    if fld w 20 5 = 0 then some (.fputG (bits w 15 5) (bits w 10 5) (bits w 5 5) (bit w 4) (bits w 2 2) (bit w 1) (bit w 0))
    else if fld w 20 5 = 1 then some (.fputS (bits w 15 5) (bits w 10 5) (bits w 5 5) (bit w 4) (bits w 2 2) (bit w 1) (bit w 0))
    else if fld w 20 5 = 2 then some (.fputLz (bits w 15 5) (bits w 10 5) (bits w 5 5) (bit w 4) (bits w 2 2) (bit w 1) (bit w 0))
    else if fld w 20 5 = 3 then some (.fputLzg (bits w 15 5) (bits w 10 5) (bits w 5 5) (bit w 4) (bits w 2 2) (bit w 1) (bit w 0))
    else none
  | 0x69 =>
    if fld w 20 5 = 0 then some (.fgetG (bits w 15 5) (bits w 10 5) (bits w 5 5) (bit w 4) (bits w 2 2) (bit w 1) (bit w 0))
    else if fld w 20 5 = 1 then some (.fgetS (bits w 15 5) (bits w 10 5) (bits w 5 5) (bit w 4) (bits w 2 2) (bit w 1) (bit w 0))
    else none
  | 0x6A =>
    some (.fatom (bits w 20 5) (bits w 15 5) (bits w 10 5) (bits w 5 5) (bit w 4) (bits w 2 2) (bit w 1) (bit w 0))
  | 0x6B =>
    if fld w 20 5 = 0 then some (.fred (bits w 15 5) (bits w 10 5) (bits w 5 5) (bit w 4) (bits w 2 2) (bit w 1) (bit w 0))
    else none
  | 0x6C =>
    if fld w 20 5 = 0 ∧ fld w 10 5 = 0 then some (.lzres (bits w 15 5) (bits w 5 5) (bit w 4) (bits w 2 2) (bit w 1) (bit w 0))
    else none
  | 0x6D =>
    if fld w 20 5 = 0 then some (.lzarm (bits w 15 5) (bits w 10 5) (bits w 5 5) (bit w 4) (bits w 2 2) (bit w 1) (bit w 0))
    else none
  | 0x6E =>
    if fld w 20 5 = 0 ∧ fld w 5 10 = 0 then some (.lzrel (bits w 15 5) (bit w 4) (bits w 2 2) (bit w 1) (bit w 0))
    else none
  | 0x6F =>
    if fld w 20 5 = 0 ∧ fld w 10 5 = 0 then some (.lzqRd (bits w 15 5) (bits w 5 5) (bit w 4) (bits w 2 2) (bit w 1) (bit w 0))
    else if fld w 20 5 = 1 ∧ fld w 5 10 = 0 then some (.lzqWait (bits w 15 5) (bit w 4) (bits w 2 2) (bit w 1) (bit w 0))
    else none
  | _ => none

/-- Opcodes 0x70 to 0x7F. -/
def decode7 (w : Word) (op : Nat) : Option Instr :=
  match op with
  | 0x70 =>
    if fld w 0 5 = 0 then some (.rngW0 (bit w 24) (bits w 18 6) (bits w 12 6) (bits w 6 6) (bit w 5))
    else if fld w 0 5 = 1 then some (.rngW1 (bit w 24) (bits w 18 6) (bits w 12 6) (bits w 6 6) (bit w 5))
    else if fld w 0 5 = 2 then some (.rngW2 (bit w 24) (bits w 18 6) (bits w 12 6) (bits w 6 6) (bit w 5))
    else if fld w 0 5 = 3 then some (.rngW3 (bit w 24) (bits w 18 6) (bits w 12 6) (bits w 6 6) (bit w 5))
    else if fld w 0 5 = 4 then some (.rngUni (bit w 24) (bits w 18 6) (bits w 12 6) (bits w 6 6) (bit w 5))
    else if fld w 0 5 = 5 then some (.rngGum (bit w 24) (bits w 18 6) (bits w 12 6) (bits w 6 6) (bit w 5))
    else none
  | 0x71 =>
    if fld w 20 5 = 0 then some (.smplMax (bits w 15 5) (bits w 10 5) (bits w 5 5) (bit w 4) (bits w 2 2) (bit w 1) (bit w 0))
    else if fld w 20 5 = 1 then some (.smplSmp (bits w 15 5) (bits w 10 5) (bits w 5 5) (bit w 4) (bits w 2 2) (bit w 1) (bit w 0))
    else if fld w 20 5 = 2 then some (.smplRes (bits w 15 5) (bits w 10 5) (bits w 5 5) (bit w 4) (bits w 2 2) (bit w 1) (bit w 0))
    else none
  | 0x72 =>
    if fld w 20 5 = 0 then some (.smrg (bits w 15 5) (bits w 10 5) (bits w 5 5) (bit w 4) (bits w 2 2) (bit w 1) (bit w 0))
    else none
  | 0x73 =>
    if fld w 20 5 = 0 then some (.acpt (bits w 15 5) (bits w 10 5) (bits w 5 5) (bit w 4) (bits w 2 2) (bit w 1) (bit w 0))
    else none
  | 0x74 =>
    if fld w 20 5 = 0 then some (.stop (bits w 15 5) (bits w 10 5) (bits w 5 5) (bit w 4) (bits w 2 2) (bit w 1) (bit w 0))
    else none
  | 0x75 =>
    if fld w 20 5 = 0 then some (.emit (bits w 15 5) (bits w 10 5) (bits w 5 5) (bit w 4) (bits w 2 2) (bit w 1) (bit w 0))
    else none
  | 0x76 =>
    if fld w 20 5 = 0 ∧ fld w 5 10 = 0 then some (.rqstCommit (bits w 15 5) (bit w 4) (bits w 2 2) (bit w 1) (bit w 0))
    else if fld w 20 5 = 1 ∧ fld w 10 5 = 0 then some (.rqstQuery (bits w 15 5) (bits w 5 5) (bit w 4) (bits w 2 2) (bit w 1) (bit w 0))
    else if fld w 20 5 = 2 ∧ fld w 5 10 = 0 then some (.rqstFail (bits w 15 5) (bit w 4) (bits w 2 2) (bit w 1) (bit w 0))
    else none
  | 0x77 =>
    if fld w 20 5 = 0 then some (.xredExp (bits w 15 5) (bits w 10 5) (bits w 5 5) (bit w 4) (bits w 2 2) (bit w 1) (bit w 0))
    else if fld w 20 5 = 1 then some (.xredSum (bits w 15 5) (bits w 10 5) (bits w 5 5) (bit w 4) (bits w 2 2) (bit w 1) (bit w 0))
    else none
  | 0x7E =>
    if fld w 0 7 = 0 then some (.rep (bits w 19 6) (bits w 15 4) (bits w 11 4) (bits w 7 4))
    else none
  | 0x7F =>
    some (.clause (bits w 13 12) (bits w 9 4) (bits w 5 4) (bits w 0 5))
  | _ => none

/-- The instruction a word encodes; none for a word of no row of the opcode table (R82). -/
def decodeWord (w : Word) : Option Instr :=
  let op := fld w 25 7
  match op / 16 with
  | 0 => decode0 w op
  | 1 => decode1 w op
  | 2 => decode2 w op
  | 3 => decode3 w op
  | 4 => decode4 w op
  | 5 => decode5 w op
  | 6 => decode6 w op
  | _ => decode7 w op

/-- Why a list of bytes is no instruction. -/
inductive DecodeReject where
  /-- Fewer than four bytes are left. Raised by decodeBytes; safe: the machine fetches whole words. -/
  | short
  /-- The word is of no row of the opcode table; its major opcode. -/
  | unassigned (op : Nat)
deriving DecidableEq, Repr

/-- The little-endian word of four bytes (R2, R71). -/
def wordOfBytes (b0 b1 b2 b3 : Byte) : Word :=
  BitVec.ofNat 32 (b0.toNat + b1.toNat * 2 ^ 8 + b2.toNat * 2 ^ 16 + b3.toNat * 2 ^ 24)

/-- The four bytes of a word, lowest address first (R2). -/
def bytesOfWord (w : Word) : List Byte :=
  [BitVec.ofNat 8 w.toNat, BitVec.ofNat 8 (w.toNat / 2 ^ 8), BitVec.ofNat 8 (w.toNat / 2 ^ 16),
    BitVec.ofNat 8 (w.toNat / 2 ^ 24)]

/-- Decode the first instruction of a list of bytes and return the rest of the list. -/
def decodeBytes (l : List Byte) : Except DecodeReject (Instr × List Byte) :=
  match l with
  | b0 :: b1 :: b2 :: b3 :: rest =>
    match decodeWord (wordOfBytes b0 b1 b2 b3) with
    | some i => .ok (i, rest)
    | none => .error (.unassigned (fld (wordOfBytes b0 b1 b2 b3) 25 7))
  | _ => .error .short

/-- The host's probe: the instruction an instruction word of nbits bits decodes to. Every word is one
32-bit word (R71); it is laid out as its four bytes and read back by decodeBytes. -/
def decodeTableWord (nbits w : Nat) : Option Instr :=
  if nbits ≤ 32 then
    match decodeBytes (bytesOfWord (BitVec.ofNat 32 (w % 2 ^ nbits))) with
    | .ok (i, _) => some i
    | .error _ => none
  else none

/-- Put the number v at bit lo beside the bits already placed. -/
def pk (v lo rest : Nat) : Nat := v * 2 ^ lo + rest

/-- The word of a number. -/
def wrd (n : Nat) : Word := BitVec.ofNat 32 n

/-- The word of an encoded instruction; none for a host command or a device event, which have no word. -/
def encodeWord (i : Instr) : Option Word :=
  match i with
  | .nop => some (wrd 0x00000000)
  | .mood u d imm => some (wrd (pk u.toNat 24 (pk d.toNat 18 (pk imm.toNat 0 0x02000000))))
  | .maskSet a => some (wrd (pk a.toNat 12 0x04000000))
  | .maskAnd a => some (wrd (pk a.toNat 12 0x04000001))
  | .maskOr a => some (wrd (pk a.toNat 12 0x04000002))
  | .maskG a => some (wrd (pk a.toNat 12 0x05000003))
  | .maskRd d => some (wrd (pk d.toNat 18 0x05000004))
  | .maskAlive => some (wrd 0x04000005)
  | .br off => some (wrd (pk off.toNat 0 0x06000000))
  | .brAny p off => some (wrd (pk p.toNat 22 (pk off.toNat 0 0x08000000)))
  | .brAll p off => some (wrd (pk p.toNat 22 (pk off.toNat 0 0x0A000000)))
  | .brNone p off => some (wrd (pk p.toNat 22 (pk off.toNat 0 0x0C000000)))
  | .brDiv p off => some (wrd (pk p.toNat 22 (pk off.toNat 0 0x0E000000)))
  | .join => some (wrd 0x10000000)
  | .call off => some (wrd (pk off.toNat 0 0x12000000))
  | .ret a => some (wrd (pk a.toNat 12 0x15000000))
  | .endThreads => some (wrd 0x16000000)
  | .barWg => some (wrd 0x18000000)
  | .barGang => some (wrd 0x18000001)
  | .barArrive d => some (wrd (pk d.toNat 18 0x19000002))
  | .barWait a => some (wrd (pk a.toNat 12 0x19000003))
  | .barNamed a b => some (wrd (pk a.toNat 12 (pk b.toNat 6 0x19000004)))
  | .cede => some (wrd 0x1A000000)
  | .trapUser imm => some (wrd (pk imm.toNat 0 0x1C000000))
  | .sysCsrr d b => some (wrd (pk d.toNat 18 (pk b.toNat 6 0x1F000008)))
  | .sysCsrw a b => some (wrd (pk a.toNat 12 (pk b.toNat 6 0x1F000009)))
  | .sysLocq d a => some (wrd (pk d.toNat 18 (pk a.toNat 12 0x1F000002)))
  | .sysSnap => some (wrd 0x1E000003)
  | .sysClk d => some (wrd (pk d.toNat 18 0x1F000004))
  | .sysFlagerr d => some (wrd (pk d.toNat 18 0x1F000005))
  | .iadd u d a b la lb im => some (wrd (pk u.toNat 24 (pk d.toNat 18 (pk a.toNat 12 (pk b.toNat 6 (pk la.toNat 5 (pk lb.toNat 4 (pk im.toNat 3 0x20000000))))))))
  | .isub u d a b la lb im => some (wrd (pk u.toNat 24 (pk d.toNat 18 (pk a.toNat 12 (pk b.toNat 6 (pk la.toNat 5 (pk lb.toNat 4 (pk im.toNat 3 0x22000000))))))))
  | .imul u d a b la lb im => some (wrd (pk u.toNat 24 (pk d.toNat 18 (pk a.toNat 12 (pk b.toNat 6 (pk la.toNat 5 (pk lb.toNat 4 (pk im.toNat 3 0x24000000))))))))
  | .imulh u d a b la lb im => some (wrd (pk u.toNat 24 (pk d.toNat 18 (pk a.toNat 12 (pk b.toNat 6 (pk la.toNat 5 (pk lb.toNat 4 (pk im.toNat 3 0x26000000))))))))
  | .imad u d a b la lb im => some (wrd (pk u.toNat 24 (pk d.toNat 18 (pk a.toNat 12 (pk b.toNat 6 (pk la.toNat 5 (pk lb.toNat 4 (pk im.toNat 3 0x28000000))))))))
  | .idivQs u d a b la lb im => some (wrd (pk u.toNat 24 (pk d.toNat 18 (pk a.toNat 12 (pk b.toNat 6 (pk la.toNat 5 (pk lb.toNat 4 (pk im.toNat 3 0x2A000000))))))))
  | .idivQn u d a b la lb im => some (wrd (pk u.toNat 24 (pk d.toNat 18 (pk a.toNat 12 (pk b.toNat 6 (pk la.toNat 5 (pk lb.toNat 4 (pk im.toNat 3 0x2A000001))))))))
  | .idivRs u d a b la lb im => some (wrd (pk u.toNat 24 (pk d.toNat 18 (pk a.toNat 12 (pk b.toNat 6 (pk la.toNat 5 (pk lb.toNat 4 (pk im.toNat 3 0x2A000002))))))))
  | .idivRn u d a b la lb im => some (wrd (pk u.toNat 24 (pk d.toNat 18 (pk a.toNat 12 (pk b.toNat 6 (pk la.toNat 5 (pk lb.toNat 4 (pk im.toNat 3 0x2A000003))))))))
  | .imin u d a b la lb im => some (wrd (pk u.toNat 24 (pk d.toNat 18 (pk a.toNat 12 (pk b.toNat 6 (pk la.toNat 5 (pk lb.toNat 4 (pk im.toNat 3 0x2C000000))))))))
  | .imax u d a b la lb im => some (wrd (pk u.toNat 24 (pk d.toNat 18 (pk a.toNat 12 (pk b.toNat 6 (pk la.toNat 5 (pk lb.toNat 4 (pk im.toNat 3 0x2E000000))))))))
  | .iabs u d a la => some (wrd (pk u.toNat 24 (pk d.toNat 18 (pk a.toNat 12 (pk la.toNat 5 0x30000000)))))
  | .ineg u d a la => some (wrd (pk u.toNat 24 (pk d.toNat 18 (pk a.toNat 12 (pk la.toNat 5 0x32000000)))))
  | .bitAnd u d a b la lb im => some (wrd (pk u.toNat 24 (pk d.toNat 18 (pk a.toNat 12 (pk b.toNat 6 (pk la.toNat 5 (pk lb.toNat 4 (pk im.toNat 3 0x34000000))))))))
  | .bitOr u d a b la lb im => some (wrd (pk u.toNat 24 (pk d.toNat 18 (pk a.toNat 12 (pk b.toNat 6 (pk la.toNat 5 (pk lb.toNat 4 (pk im.toNat 3 0x36000000))))))))
  | .bitXor u d a b la lb im => some (wrd (pk u.toNat 24 (pk d.toNat 18 (pk a.toNat 12 (pk b.toNat 6 (pk la.toNat 5 (pk lb.toNat 4 (pk im.toNat 3 0x38000000))))))))
  | .bitAndn u d a b la lb im => some (wrd (pk u.toNat 24 (pk d.toNat 18 (pk a.toNat 12 (pk b.toNat 6 (pk la.toNat 5 (pk lb.toNat 4 (pk im.toNat 3 0x3A000000))))))))
  | .shl u d a b la lb im => some (wrd (pk u.toNat 24 (pk d.toNat 18 (pk a.toNat 12 (pk b.toNat 6 (pk la.toNat 5 (pk lb.toNat 4 (pk im.toNat 3 0x3C000000))))))))
  | .shrL u d a b la lb im => some (wrd (pk u.toNat 24 (pk d.toNat 18 (pk a.toNat 12 (pk b.toNat 6 (pk la.toNat 5 (pk lb.toNat 4 (pk im.toNat 3 0x3E000000))))))))
  | .shrA u d a b la lb im => some (wrd (pk u.toNat 24 (pk d.toNat 18 (pk a.toNat 12 (pk b.toNat 6 (pk la.toNat 5 (pk lb.toNat 4 (pk im.toNat 3 0x3E000001))))))))
  | .rotL u d a b la lb im => some (wrd (pk u.toNat 24 (pk d.toNat 18 (pk a.toNat 12 (pk b.toNat 6 (pk la.toNat 5 (pk lb.toNat 4 (pk im.toNat 3 0x40000000))))))))
  | .rotR u d a b la lb im => some (wrd (pk u.toNat 24 (pk d.toNat 18 (pk a.toNat 12 (pk b.toNat 6 (pk la.toNat 5 (pk lb.toNat 4 (pk im.toNat 3 0x40000001))))))))
  | .bitcPopc u d a la => some (wrd (pk u.toNat 24 (pk d.toNat 18 (pk a.toNat 12 (pk la.toNat 5 0x42000000)))))
  | .bitcClz u d a la => some (wrd (pk u.toNat 24 (pk d.toNat 18 (pk a.toNat 12 (pk la.toNat 5 0x42000001)))))
  | .bitcCtz u d a la => some (wrd (pk u.toNat 24 (pk d.toNat 18 (pk a.toNat 12 (pk la.toNat 5 0x42000002)))))
  | .bitcBrev u d a la => some (wrd (pk u.toNat 24 (pk d.toNat 18 (pk a.toNat 12 (pk la.toNat 5 0x42000003)))))
  | .bfeN u d a b la lb => some (wrd (pk u.toNat 24 (pk d.toNat 18 (pk a.toNat 12 (pk b.toNat 6 (pk la.toNat 5 (pk lb.toNat 4 0x44000000)))))))
  | .bfeS u d a b la lb => some (wrd (pk u.toNat 24 (pk d.toNat 18 (pk a.toNat 12 (pk b.toNat 6 (pk la.toNat 5 (pk lb.toNat 4 0x44000001)))))))
  | .bfi u d a b la lb => some (wrd (pk u.toNat 24 (pk d.toNat 18 (pk a.toNat 12 (pk b.toNat 6 (pk la.toNat 5 (pk lb.toNat 4 0x46000000)))))))
  | .icmpEq u d a b la lb im => some (wrd (pk u.toNat 24 (pk d.toNat 18 (pk a.toNat 12 (pk b.toNat 6 (pk la.toNat 5 (pk lb.toNat 4 (pk im.toNat 3 0x48000000))))))))
  | .icmpNe u d a b la lb im => some (wrd (pk u.toNat 24 (pk d.toNat 18 (pk a.toNat 12 (pk b.toNat 6 (pk la.toNat 5 (pk lb.toNat 4 (pk im.toNat 3 0x48000001))))))))
  | .icmpLt u d a b la lb im => some (wrd (pk u.toNat 24 (pk d.toNat 18 (pk a.toNat 12 (pk b.toNat 6 (pk la.toNat 5 (pk lb.toNat 4 (pk im.toNat 3 0x48000002))))))))
  | .icmpLe u d a b la lb im => some (wrd (pk u.toNat 24 (pk d.toNat 18 (pk a.toNat 12 (pk b.toNat 6 (pk la.toNat 5 (pk lb.toNat 4 (pk im.toNat 3 0x48000003))))))))
  | .icmpGt u d a b la lb im => some (wrd (pk u.toNat 24 (pk d.toNat 18 (pk a.toNat 12 (pk b.toNat 6 (pk la.toNat 5 (pk lb.toNat 4 (pk im.toNat 3 0x48000004))))))))
  | .icmpGe u d a b la lb im => some (wrd (pk u.toNat 24 (pk d.toNat 18 (pk a.toNat 12 (pk b.toNat 6 (pk la.toNat 5 (pk lb.toNat 4 (pk im.toNat 3 0x48000005))))))))
  | .sel u d a b la lb im pr => some (wrd (pk u.toNat 24 (pk d.toNat 18 (pk a.toNat 12 (pk b.toNat 6 (pk la.toNat 5 (pk lb.toNat 4 (pk im.toNat 3 (pk pr.toNat 0 0x4A000000)))))))))
  | .mov u d a la => some (wrd (pk u.toNat 24 (pk d.toNat 18 (pk a.toNat 12 (pk la.toNat 5 0x4C000000)))))
  | .movSpecial u d a => some (wrd (pk u.toNat 24 (pk d.toNat 18 (pk a.toNat 12 0x4C000001))))
  | .movG d a => some (wrd (pk d.toNat 18 (pk a.toNat 12 0x4C000002)))
  | .plogAnd d a b => some (wrd (pk d.toNat 18 (pk a.toNat 12 (pk b.toNat 6 0x4E000000))))
  | .plogOr d a b => some (wrd (pk d.toNat 18 (pk a.toNat 12 (pk b.toNat 6 0x4E000001))))
  | .plogXor d a b => some (wrd (pk d.toNat 18 (pk a.toNat 12 (pk b.toNat 6 0x4E000002))))
  | .plogAndn d a b => some (wrd (pk d.toNat 18 (pk a.toNat 12 (pk b.toNat 6 0x4E000003))))
  | .plogNot d a => some (wrd (pk d.toNat 18 (pk a.toNat 12 0x4E000004)))
  | .plogFromg d a => some (wrd (pk d.toNat 18 (pk a.toNat 12 0x4F000005)))
  | .plogTog d a => some (wrd (pk d.toNat 18 (pk a.toNat 12 0x4F000006)))
  | .ldi u d imm => some (wrd (pk u.toNat 24 (pk d.toNat 18 (pk imm.toNat 0 0x50000000))))
  | .khi u d imm => some (wrd (pk u.toNat 24 (pk d.toNat 18 (pk imm.toNat 0 0x52000000))))
  | .lea u d gb ix li sx w => some (wrd (pk u.toNat 24 (pk d.toNat 18 (pk gb.toNat 13 (pk ix.toNat 7 (pk li.toNat 5 (pk sx.toNat 4 (pk w.toNat 0 0x54000000))))))))
  | .shflIdx d a b la lb im => some (wrd (pk d.toNat 18 (pk a.toNat 12 (pk b.toNat 6 (pk la.toNat 5 (pk lb.toNat 4 (pk im.toNat 3 0x56000000)))))))
  | .shflUp d a b la lb im => some (wrd (pk d.toNat 18 (pk a.toNat 12 (pk b.toNat 6 (pk la.toNat 5 (pk lb.toNat 4 (pk im.toNat 3 0x56000001)))))))
  | .shflDown d a b la lb im => some (wrd (pk d.toNat 18 (pk a.toNat 12 (pk b.toNat 6 (pk la.toNat 5 (pk lb.toNat 4 (pk im.toNat 3 0x56000002)))))))
  | .shflXor d a b la lb im => some (wrd (pk d.toNat 18 (pk a.toNat 12 (pk b.toNat 6 (pk la.toNat 5 (pk lb.toNat 4 (pk im.toNat 3 0x56000003)))))))
  | .voteAny d a => some (wrd (pk d.toNat 18 (pk a.toNat 12 0x58000000)))
  | .voteAll d a => some (wrd (pk d.toNat 18 (pk a.toNat 12 0x58000001)))
  | .voteBal d a => some (wrd (pk d.toNat 18 (pk a.toNat 12 0x58000002)))
  | .voteEq d a la => some (wrd (pk d.toNat 18 (pk a.toNat 12 (pk la.toNat 5 0x58000003))))
  | .lredIadd d a la => some (wrd (pk d.toNat 18 (pk a.toNat 12 (pk la.toNat 5 0x5A000000))))
  | .lredFadd d a la => some (wrd (pk d.toNat 18 (pk a.toNat 12 (pk la.toNat 5 0x5A000001))))
  | .lredMin d a la => some (wrd (pk d.toNat 18 (pk a.toNat 12 (pk la.toNat 5 0x5A000002))))
  | .lredMax d a la => some (wrd (pk d.toNat 18 (pk a.toNat 12 (pk la.toNat 5 0x5A000003))))
  | .lredAmax d a la => some (wrd (pk d.toNat 18 (pk a.toNat 12 (pk la.toNat 5 0x5A000004))))
  | .lredAnd d a la => some (wrd (pk d.toNat 18 (pk a.toNat 12 (pk la.toNat 5 0x5A000005))))
  | .lredOr d a la => some (wrd (pk d.toNat 18 (pk a.toNat 12 (pk la.toNat 5 0x5A000006))))
  | .lredXor d a la => some (wrd (pk d.toNat 18 (pk a.toNat 12 (pk la.toNat 5 0x5A000007))))
  | .lscanIadd d a la => some (wrd (pk d.toNat 18 (pk a.toNat 12 (pk la.toNat 5 0x5C000000))))
  | .lscanFadd d a la => some (wrd (pk d.toNat 18 (pk a.toNat 12 (pk la.toNat 5 0x5C000001))))
  | .lscanMin d a la => some (wrd (pk d.toNat 18 (pk a.toNat 12 (pk la.toNat 5 0x5C000002))))
  | .lscanMax d a la => some (wrd (pk d.toNat 18 (pk a.toNat 12 (pk la.toNat 5 0x5C000003))))
  | .lscanAnd d a la => some (wrd (pk d.toNat 18 (pk a.toNat 12 (pk la.toNat 5 0x5C000004))))
  | .lscanOr d a la => some (wrd (pk d.toNat 18 (pk a.toNat 12 (pk la.toNat 5 0x5C000005))))
  | .lscanXor d a la => some (wrd (pk d.toNat 18 (pk a.toNat 12 (pk la.toNat 5 0x5C000006))))
  | .bcast d a b la => some (wrd (pk d.toNat 18 (pk a.toNat 12 (pk b.toNat 6 (pk la.toNat 5 0x5E000008)))))
  | .bcastG d a b la => some (wrd (pk d.toNat 18 (pk a.toNat 12 (pk b.toNat 6 (pk la.toNat 5 0x5E000009)))))
  | .bcastFirst d a la => some (wrd (pk d.toNat 18 (pk a.toNat 12 (pk la.toNat 5 0x5E000002))))
  | .bcastFirstg d a la => some (wrd (pk d.toNat 18 (pk a.toNat 12 (pk la.toNat 5 0x5E000003))))
  | .fadd u d a b la lb => some (wrd (pk u.toNat 24 (pk d.toNat 18 (pk a.toNat 12 (pk b.toNat 6 (pk la.toNat 5 (pk lb.toNat 4 0x60000000)))))))
  | .fsub u d a b la lb => some (wrd (pk u.toNat 24 (pk d.toNat 18 (pk a.toNat 12 (pk b.toNat 6 (pk la.toNat 5 (pk lb.toNat 4 0x62000000)))))))
  | .fmul u d a b la lb => some (wrd (pk u.toNat 24 (pk d.toNat 18 (pk a.toNat 12 (pk b.toNat 6 (pk la.toNat 5 (pk lb.toNat 4 0x64000000)))))))
  | .ffma u d a b la lb => some (wrd (pk u.toNat 24 (pk d.toNat 18 (pk a.toNat 12 (pk b.toNat 6 (pk la.toNat 5 (pk lb.toNat 4 0x66000000)))))))
  | .ffmaMs u d a b la lb => some (wrd (pk u.toNat 24 (pk d.toNat 18 (pk a.toNat 12 (pk b.toNat 6 (pk la.toNat 5 (pk lb.toNat 4 0x66000001)))))))
  | .ffmaNm u d a b la lb => some (wrd (pk u.toNat 24 (pk d.toNat 18 (pk a.toNat 12 (pk b.toNat 6 (pk la.toNat 5 (pk lb.toNat 4 0x66000002)))))))
  | .ffmaNms u d a b la lb => some (wrd (pk u.toNat 24 (pk d.toNat 18 (pk a.toNat 12 (pk b.toNat 6 (pk la.toNat 5 (pk lb.toNat 4 0x66000003)))))))
  | .fmin u d a b la lb => some (wrd (pk u.toNat 24 (pk d.toNat 18 (pk a.toNat 12 (pk b.toNat 6 (pk la.toNat 5 (pk lb.toNat 4 0x68000000)))))))
  | .fmax u d a b la lb => some (wrd (pk u.toNat 24 (pk d.toNat 18 (pk a.toNat 12 (pk b.toNat 6 (pk la.toNat 5 (pk lb.toNat 4 0x6A000000)))))))
  | .fcmpEq u d a b la lb => some (wrd (pk u.toNat 24 (pk d.toNat 18 (pk a.toNat 12 (pk b.toNat 6 (pk la.toNat 5 (pk lb.toNat 4 0x6C000000)))))))
  | .fcmpNe u d a b la lb => some (wrd (pk u.toNat 24 (pk d.toNat 18 (pk a.toNat 12 (pk b.toNat 6 (pk la.toNat 5 (pk lb.toNat 4 0x6C000001)))))))
  | .fcmpLt u d a b la lb => some (wrd (pk u.toNat 24 (pk d.toNat 18 (pk a.toNat 12 (pk b.toNat 6 (pk la.toNat 5 (pk lb.toNat 4 0x6C000002)))))))
  | .fcmpLe u d a b la lb => some (wrd (pk u.toNat 24 (pk d.toNat 18 (pk a.toNat 12 (pk b.toNat 6 (pk la.toNat 5 (pk lb.toNat 4 0x6C000003)))))))
  | .fcmpGt u d a b la lb => some (wrd (pk u.toNat 24 (pk d.toNat 18 (pk a.toNat 12 (pk b.toNat 6 (pk la.toNat 5 (pk lb.toNat 4 0x6C000004)))))))
  | .fcmpGe u d a b la lb => some (wrd (pk u.toNat 24 (pk d.toNat 18 (pk a.toNat 12 (pk b.toNat 6 (pk la.toNat 5 (pk lb.toNat 4 0x6C000005)))))))
  | .fcmpUn u d a b la lb => some (wrd (pk u.toNat 24 (pk d.toNat 18 (pk a.toNat 12 (pk b.toNat 6 (pk la.toNat 5 (pk lb.toNat 4 0x6C000006)))))))
  | .fcmpOr u d a b la lb => some (wrd (pk u.toNat 24 (pk d.toNat 18 (pk a.toNat 12 (pk b.toNat 6 (pk la.toNat 5 (pk lb.toNat 4 0x6C000007)))))))
  | .fabs u d a la => some (wrd (pk u.toNat 24 (pk d.toNat 18 (pk a.toNat 12 (pk la.toNat 5 0x6E000000)))))
  | .fneg u d a la => some (wrd (pk u.toNat 24 (pk d.toNat 18 (pk a.toNat 12 (pk la.toNat 5 0x70000000)))))
  | .frcp u d a la => some (wrd (pk u.toNat 24 (pk d.toNat 18 (pk a.toNat 12 (pk la.toNat 5 0x72000000)))))
  | .fsqrt u d a la => some (wrd (pk u.toNat 24 (pk d.toNat 18 (pk a.toNat 12 (pk la.toNat 5 0x74000000)))))
  | .frsq u d a la => some (wrd (pk u.toNat 24 (pk d.toNat 18 (pk a.toNat 12 (pk la.toNat 5 0x76000000)))))
  | .fexp u d a la => some (wrd (pk u.toNat 24 (pk d.toNat 18 (pk a.toNat 12 (pk la.toNat 5 0x78000000)))))
  | .fln u d a la => some (wrd (pk u.toNat 24 (pk d.toNat 18 (pk a.toNat 12 (pk la.toNat 5 0x7A000000)))))
  | .fexp2 u d a la => some (wrd (pk u.toNat 24 (pk d.toNat 18 (pk a.toNat 12 (pk la.toNat 5 0x7C000000)))))
  | .flog2 u d a la => some (wrd (pk u.toNat 24 (pk d.toNat 18 (pk a.toNat 12 (pk la.toNat 5 0x7E000000)))))
  | .cvt u d a la part => some (wrd (pk u.toNat 24 (pk d.toNat 18 (pk a.toNat 12 (pk la.toNat 5 (pk part.toNat 0 0x80000000))))))
  | .frnd u d a la => some (wrd (pk u.toNat 24 (pk d.toNat 18 (pk a.toNat 12 (pk la.toNat 5 0x82000000)))))
  | .fscal u d a b la lb im => some (wrd (pk u.toNat 24 (pk d.toNat 18 (pk a.toNat 12 (pk b.toNat 6 (pk la.toNat 5 (pk lb.toNat 4 (pk im.toNat 3 0x84000000))))))))
  | .hadq d a b la => some (wrd (pk d.toNat 18 (pk a.toNat 12 (pk b.toNat 6 (pk la.toNat 5 0x86000000)))))
  | .hadqInv d a b la => some (wrd (pk d.toNat 18 (pk a.toNat 12 (pk b.toNat 6 (pk la.toNat 5 0x86000001)))))
  | .qpack d a la => some (wrd (pk d.toNat 18 (pk a.toNat 12 (pk la.toNat 5 0x88000000))))
  | .qunpk d a la => some (wrd (pk d.toNat 18 (pk a.toNat 12 (pk la.toNat 5 0x8A000000))))
  | .fmtw u d b => some (wrd (pk u.toNat 24 (pk d.toNat 18 (pk b.toNat 6 0x8C000008))))
  | .dot4 u d a b la lb => some (wrd (pk u.toNat 24 (pk d.toNat 18 (pk a.toNat 12 (pk b.toNat 6 (pk la.toNat 5 (pk lb.toNat 4 0x8E000000)))))))
  | .ld u d gb ix li sx fs w => some (wrd (pk u.toNat 24 (pk d.toNat 18 (pk gb.toNat 13 (pk ix.toNat 7 (pk li.toNat 5 (pk sx.toNat 4 (pk fs.toNat 3 (pk w.toNat 0 0x90000000)))))))))
  | .st u d gb ix ld li sx fs w => some (wrd (pk u.toNat 24 (pk d.toNat 18 (pk gb.toNat 13 (pk ix.toNat 7 (pk ld.toNat 6 (pk li.toNat 5 (pk sx.toNat 4 (pk fs.toNat 3 (pk w.toNat 0 0x92000000))))))))))
  | .lds u d gb ix li sx fs w => some (wrd (pk u.toNat 24 (pk d.toNat 18 (pk gb.toNat 13 (pk ix.toNat 7 (pk li.toNat 5 (pk sx.toNat 4 (pk fs.toNat 3 (pk w.toNat 0 0x94000000)))))))))
  | .sts u d gb ix ld li sx fs w => some (wrd (pk u.toNat 24 (pk d.toNat 18 (pk gb.toNat 13 (pk ix.toNat 7 (pk ld.toNat 6 (pk li.toNat 5 (pk sx.toNat 4 (pk fs.toNat 3 (pk w.toNat 0 0x96000000))))))))))
  | .ldp d gb ix li sx fs w => some (wrd (pk d.toNat 18 (pk gb.toNat 13 (pk ix.toNat 7 (pk li.toNat 5 (pk sx.toNat 4 (pk fs.toNat 3 (pk w.toNat 0 0x98000000))))))))
  | .stp d gb ix ld li sx fs w => some (wrd (pk d.toNat 18 (pk gb.toNat 13 (pk ix.toNat 7 (pk ld.toNat 6 (pk li.toNat 5 (pk sx.toNat 4 (pk fs.toNat 3 (pk w.toNat 0 0x9A000000)))))))))
  | .prsTest u d gb ix li => some (wrd (pk u.toNat 24 (pk d.toNat 18 (pk gb.toNat 13 (pk ix.toNat 7 (pk li.toNat 5 0x9C000000))))))
  | .prsClr u gb ix li => some (wrd (pk u.toNat 24 (pk gb.toNat 13 (pk ix.toNat 7 (pk li.toNat 5 0x9C000001)))))
  | .prsSet u gb ix li => some (wrd (pk u.toNat 24 (pk gb.toNat 13 (pk ix.toNat 7 (pk li.toNat 5 0x9C000002)))))
  | .prsWait u gb ix li fs => some (wrd (pk u.toNat 24 (pk gb.toNat 13 (pk ix.toNat 7 (pk li.toNat 5 (pk fs.toNat 3 0x9C000003))))))
  | .fence fs sc acq rel => some (wrd (pk fs.toNat 4 (pk sc.toNat 2 (pk acq.toNat 1 (pk rel.toNat 0 0x9E000000)))))
  | .fenceSc fs sc => some (wrd (pk fs.toNat 4 (pk sc.toNat 2 0x9E100003)))
  | .atom u d gb ix aop sc li => some (wrd (pk u.toNat 24 (pk d.toNat 18 (pk gb.toNat 13 (pk ix.toNat 7 (pk aop.toNat 3 (pk sc.toNat 1 (pk li.toNat 0 0xA0000000))))))))
  | .atoms u d gb ix aop li => some (wrd (pk u.toNat 24 (pk d.toNat 18 (pk gb.toNat 13 (pk ix.toNat 7 (pk aop.toNat 3 (pk li.toNat 0 0xA2000000)))))))
  | .red u d gb ix aop sc li => some (wrd (pk u.toNat 24 (pk d.toNat 18 (pk gb.toNat 13 (pk ix.toNat 7 (pk aop.toNat 3 (pk sc.toNat 1 (pk li.toNat 0 0xA4000000))))))))
  | .xaccAdd d gb ix ld li sx fs => some (wrd (pk d.toNat 18 (pk gb.toNat 13 (pk ix.toNat 7 (pk ld.toNat 6 (pk li.toNat 5 (pk sx.toNat 4 (pk fs.toNat 3 0xA6000000))))))))
  | .xaccRd d gb ix li sx fs => some (wrd (pk d.toNat 18 (pk gb.toNat 13 (pk ix.toNat 7 (pk li.toNat 5 (pk sx.toNat 4 (pk fs.toNat 3 0xA6000001)))))))
  | .ticket d gb ix sc => some (wrd (pk d.toNat 18 (pk gb.toNat 13 (pk ix.toNat 7 (pk sc.toNat 1 0xA9000000)))))
  | .ldw u d gb ix li sx fs w => some (wrd (pk u.toNat 24 (pk d.toNat 18 (pk gb.toNat 13 (pk ix.toNat 7 (pk li.toNat 5 (pk sx.toNat 4 (pk fs.toNat 3 (pk w.toNat 0 0xAA000004)))))))))
  | .stw u d gb ix ld li sx fs w => some (wrd (pk u.toNat 24 (pk d.toNat 18 (pk gb.toNat 13 (pk ix.toNat 7 (pk ld.toNat 6 (pk li.toNat 5 (pk sx.toNat 4 (pk fs.toNat 3 (pk w.toNat 0 0xAC000004))))))))))
  | .pfch u gb ix li sx fs w => some (wrd (pk u.toNat 24 (pk gb.toNat 13 (pk ix.toNat 7 (pk li.toNat 5 (pk sx.toNat 4 (pk fs.toNat 3 (pk w.toNat 0 0xAE000000))))))))
  | .copyG2s ga gb gc fs sc acq rel => some (wrd (pk ga.toNat 15 (pk gb.toNat 10 (pk gc.toNat 5 (pk fs.toNat 4 (pk sc.toNat 2 (pk acq.toNat 1 (pk rel.toNat 0 0xB0000000))))))))
  | .copyS2g ga gb gc fs sc acq rel => some (wrd (pk ga.toNat 15 (pk gb.toNat 10 (pk gc.toNat 5 (pk fs.toNat 4 (pk sc.toNat 2 (pk acq.toNat 1 (pk rel.toNat 0 0xB0100000))))))))
  | .copyG2o ga gb gc fs sc acq rel => some (wrd (pk ga.toNat 15 (pk gb.toNat 10 (pk gc.toNat 5 (pk fs.toNat 4 (pk sc.toNat 2 (pk acq.toNat 1 (pk rel.toNat 0 0xB0200000))))))))
  | .copyS2o ga gb gc fs sc acq rel => some (wrd (pk ga.toNat 15 (pk gb.toNat 10 (pk gc.toNat 5 (pk fs.toNat 4 (pk sc.toNat 2 (pk acq.toNat 1 (pk rel.toNat 0 0xB0300000))))))))
  | .copyG2g ga gb gc fs sc acq rel => some (wrd (pk ga.toNat 15 (pk gb.toNat 10 (pk gc.toNat 5 (pk fs.toNat 4 (pk sc.toNat 2 (pk acq.toNat 1 (pk rel.toNat 0 0xB0400000))))))))
  | .copyXa ga gb gc fs sc acq rel => some (wrd (pk ga.toNat 15 (pk gb.toNat 10 (pk gc.toNat 5 (pk fs.toNat 4 (pk sc.toNat 2 (pk acq.toNat 1 (pk rel.toNat 0 0xB0500000))))))))
  | .copyS2s ga gb gc fs sc acq rel => some (wrd (pk ga.toNat 15 (pk gb.toNat 10 (pk gc.toNat 5 (pk fs.toNat 4 (pk sc.toNat 2 (pk acq.toNat 1 (pk rel.toNat 0 0xB0600000))))))))
  | .copyfG2o ga gb gc fs sc acq rel => some (wrd (pk ga.toNat 15 (pk gb.toNat 10 (pk gc.toNat 5 (pk fs.toNat 4 (pk sc.toNat 2 (pk acq.toNat 1 (pk rel.toNat 0 0xB2000000))))))))
  | .copyfS2o ga gb gc fs sc acq rel => some (wrd (pk ga.toNat 15 (pk gb.toNat 10 (pk gc.toNat 5 (pk fs.toNat 4 (pk sc.toNat 2 (pk acq.toNat 1 (pk rel.toNat 0 0xB2100000))))))))
  | .mma acc sa sb vf => some (wrd (pk acc.toNat 18 (pk sa.toNat 12 (pk sb.toNat 6 (pk vf.toNat 0 0xB4000000)))))
  | .accldG ga gb gc fs sc acq rel => some (wrd (pk ga.toNat 15 (pk gb.toNat 10 (pk gc.toNat 5 (pk fs.toNat 4 (pk sc.toNat 2 (pk acq.toNat 1 (pk rel.toNat 0 0xB6000000))))))))
  | .accldS ga gb gc fs sc acq rel => some (wrd (pk ga.toNat 15 (pk gb.toNat 10 (pk gc.toNat 5 (pk fs.toNat 4 (pk sc.toNat 2 (pk acq.toNat 1 (pk rel.toNat 0 0xB6100000))))))))
  | .accstG ga gb gc fs sc acq rel => some (wrd (pk ga.toNat 15 (pk gb.toNat 10 (pk gc.toNat 5 (pk fs.toNat 4 (pk sc.toNat 2 (pk acq.toNat 1 (pk rel.toNat 0 0xB8000000))))))))
  | .accstS ga gb gc fs sc acq rel => some (wrd (pk ga.toNat 15 (pk gb.toNat 10 (pk gc.toNat 5 (pk fs.toNat 4 (pk sc.toNat 2 (pk acq.toNat 1 (pk rel.toNat 0 0xB8100000))))))))
  | .slotClaim ga fs sc acq rel => some (wrd (pk ga.toNat 15 (pk fs.toNat 4 (pk sc.toNat 2 (pk acq.toNat 1 (pk rel.toNat 0 0xBA000000))))))
  | .slotRel ga fs sc acq rel => some (wrd (pk ga.toNat 15 (pk fs.toNat 4 (pk sc.toNat 2 (pk acq.toNat 1 (pk rel.toNat 0 0xBA100000))))))
  | .slotHeld gc fs sc acq rel => some (wrd (pk gc.toNat 5 (pk fs.toNat 4 (pk sc.toNat 2 (pk acq.toNat 1 (pk rel.toNat 0 0xBA200000))))))
  | .chainSet ga gb gc fs sc acq rel => some (wrd (pk ga.toNat 15 (pk gb.toNat 10 (pk gc.toNat 5 (pk fs.toNat 4 (pk sc.toNat 2 (pk acq.toNat 1 (pk rel.toNat 0 0xBC000000))))))))
  | .chainAdv ga gb fs sc acq rel => some (wrd (pk ga.toNat 15 (pk gb.toNat 10 (pk fs.toNat 4 (pk sc.toNat 2 (pk acq.toNat 1 (pk rel.toNat 0 0xBC100000)))))))
  | .seqw ga gb fs sc acq rel => some (wrd (pk ga.toNat 15 (pk gb.toNat 10 (pk fs.toNat 4 (pk sc.toNat 2 (pk acq.toNat 1 (pk rel.toNat 0 0xBE000000)))))))
  | .kvgatK ga gb gc fs sc acq rel => some (wrd (pk ga.toNat 15 (pk gb.toNat 10 (pk gc.toNat 5 (pk fs.toNat 4 (pk sc.toNat 2 (pk acq.toNat 1 (pk rel.toNat 0 0xC0000000))))))))
  | .kvgatV ga gb gc fs sc acq rel => some (wrd (pk ga.toNat 15 (pk gb.toNat 10 (pk gc.toNat 5 (pk fs.toNat 4 (pk sc.toNat 2 (pk acq.toNat 1 (pk rel.toNat 0 0xC0100000))))))))
  | .kvapp ga gb gc fs sc acq rel => some (wrd (pk ga.toNat 15 (pk gb.toNat 10 (pk gc.toNat 5 (pk fs.toNat 4 (pk sc.toNat 2 (pk acq.toNat 1 (pk rel.toNat 0 0xC2000000))))))))
  | .kvpinPin ga gb fs sc acq rel => some (wrd (pk ga.toNat 15 (pk gb.toNat 10 (pk fs.toNat 4 (pk sc.toNat 2 (pk acq.toNat 1 (pk rel.toNat 0 0xC4000000)))))))
  | .kvpinUnpin ga gb fs sc acq rel => some (wrd (pk ga.toNat 15 (pk gb.toNat 10 (pk fs.toNat 4 (pk sc.toNat 2 (pk acq.toNat 1 (pk rel.toNat 0 0xC4100000)))))))
  | .kvfrk ga gb gc fs sc acq rel => some (wrd (pk ga.toNat 15 (pk gb.toNat 10 (pk gc.toNat 5 (pk fs.toNat 4 (pk sc.toNat 2 (pk acq.toNat 1 (pk rel.toNat 0 0xC6000000))))))))
  | .hdlQuery ga gc fs sc acq rel => some (wrd (pk ga.toNat 15 (pk gc.toNat 5 (pk fs.toNat 4 (pk sc.toNat 2 (pk acq.toNat 1 (pk rel.toNat 0 0xC8000000)))))))
  | .hdlCommit ga gb fs sc acq rel => some (wrd (pk ga.toNat 15 (pk gb.toNat 10 (pk fs.toNat 4 (pk sc.toNat 2 (pk acq.toNat 1 (pk rel.toNat 0 0xC8100000)))))))
  | .hdlTrunc ga gb fs sc acq rel => some (wrd (pk ga.toNat 15 (pk gb.toNat 10 (pk fs.toNat 4 (pk sc.toNat 2 (pk acq.toNat 1 (pk rel.toNat 0 0xC8200000)))))))
  | .pfxh ga gb gc fs sc acq rel => some (wrd (pk ga.toNat 15 (pk gb.toNat 10 (pk gc.toNat 5 (pk fs.toNat 4 (pk sc.toNat 2 (pk acq.toNat 1 (pk rel.toNat 0 0xCA000000))))))))
  | .pfxl ga gb gc fs sc acq rel => some (wrd (pk ga.toNat 15 (pk gb.toNat 10 (pk gc.toNat 5 (pk fs.toNat 4 (pk sc.toNat 2 (pk acq.toNat 1 (pk rel.toNat 0 0xCC000000))))))))
  | .pfxi ga gb gc fs sc acq rel => some (wrd (pk ga.toNat 15 (pk gb.toNat 10 (pk gc.toNat 5 (pk fs.toNat 4 (pk sc.toNat 2 (pk acq.toNat 1 (pk rel.toNat 0 0xCE000000))))))))
  | .fputG ga gb gc fs sc acq rel => some (wrd (pk ga.toNat 15 (pk gb.toNat 10 (pk gc.toNat 5 (pk fs.toNat 4 (pk sc.toNat 2 (pk acq.toNat 1 (pk rel.toNat 0 0xD0000000))))))))
  | .fputS ga gb gc fs sc acq rel => some (wrd (pk ga.toNat 15 (pk gb.toNat 10 (pk gc.toNat 5 (pk fs.toNat 4 (pk sc.toNat 2 (pk acq.toNat 1 (pk rel.toNat 0 0xD0100000))))))))
  | .fputLz ga gb gc fs sc acq rel => some (wrd (pk ga.toNat 15 (pk gb.toNat 10 (pk gc.toNat 5 (pk fs.toNat 4 (pk sc.toNat 2 (pk acq.toNat 1 (pk rel.toNat 0 0xD0200000))))))))
  | .fputLzg ga gb gc fs sc acq rel => some (wrd (pk ga.toNat 15 (pk gb.toNat 10 (pk gc.toNat 5 (pk fs.toNat 4 (pk sc.toNat 2 (pk acq.toNat 1 (pk rel.toNat 0 0xD0300000))))))))
  | .fgetG ga gb gc fs sc acq rel => some (wrd (pk ga.toNat 15 (pk gb.toNat 10 (pk gc.toNat 5 (pk fs.toNat 4 (pk sc.toNat 2 (pk acq.toNat 1 (pk rel.toNat 0 0xD2000000))))))))
  | .fgetS ga gb gc fs sc acq rel => some (wrd (pk ga.toNat 15 (pk gb.toNat 10 (pk gc.toNat 5 (pk fs.toNat 4 (pk sc.toNat 2 (pk acq.toNat 1 (pk rel.toNat 0 0xD2100000))))))))
  | .fatom sub ga gb gc fs sc acq rel => some (wrd (pk sub.toNat 20 (pk ga.toNat 15 (pk gb.toNat 10 (pk gc.toNat 5 (pk fs.toNat 4 (pk sc.toNat 2 (pk acq.toNat 1 (pk rel.toNat 0 0xD4000000)))))))))
  | .fred ga gb gc fs sc acq rel => some (wrd (pk ga.toNat 15 (pk gb.toNat 10 (pk gc.toNat 5 (pk fs.toNat 4 (pk sc.toNat 2 (pk acq.toNat 1 (pk rel.toNat 0 0xD6000000))))))))
  | .lzres ga gc fs sc acq rel => some (wrd (pk ga.toNat 15 (pk gc.toNat 5 (pk fs.toNat 4 (pk sc.toNat 2 (pk acq.toNat 1 (pk rel.toNat 0 0xD8000000)))))))
  | .lzarm ga gb gc fs sc acq rel => some (wrd (pk ga.toNat 15 (pk gb.toNat 10 (pk gc.toNat 5 (pk fs.toNat 4 (pk sc.toNat 2 (pk acq.toNat 1 (pk rel.toNat 0 0xDA000000))))))))
  | .lzrel ga fs sc acq rel => some (wrd (pk ga.toNat 15 (pk fs.toNat 4 (pk sc.toNat 2 (pk acq.toNat 1 (pk rel.toNat 0 0xDC000000))))))
  | .lzqRd ga gc fs sc acq rel => some (wrd (pk ga.toNat 15 (pk gc.toNat 5 (pk fs.toNat 4 (pk sc.toNat 2 (pk acq.toNat 1 (pk rel.toNat 0 0xDE000000)))))))
  | .lzqWait ga fs sc acq rel => some (wrd (pk ga.toNat 15 (pk fs.toNat 4 (pk sc.toNat 2 (pk acq.toNat 1 (pk rel.toNat 0 0xDE100000))))))
  | .rngW0 u d a b la => some (wrd (pk u.toNat 24 (pk d.toNat 18 (pk a.toNat 12 (pk b.toNat 6 (pk la.toNat 5 0xE0000000))))))
  | .rngW1 u d a b la => some (wrd (pk u.toNat 24 (pk d.toNat 18 (pk a.toNat 12 (pk b.toNat 6 (pk la.toNat 5 0xE0000001))))))
  | .rngW2 u d a b la => some (wrd (pk u.toNat 24 (pk d.toNat 18 (pk a.toNat 12 (pk b.toNat 6 (pk la.toNat 5 0xE0000002))))))
  | .rngW3 u d a b la => some (wrd (pk u.toNat 24 (pk d.toNat 18 (pk a.toNat 12 (pk b.toNat 6 (pk la.toNat 5 0xE0000003))))))
  | .rngUni u d a b la => some (wrd (pk u.toNat 24 (pk d.toNat 18 (pk a.toNat 12 (pk b.toNat 6 (pk la.toNat 5 0xE0000004))))))
  | .rngGum u d a b la => some (wrd (pk u.toNat 24 (pk d.toNat 18 (pk a.toNat 12 (pk b.toNat 6 (pk la.toNat 5 0xE0000005))))))
  | .smplMax ga gb gc fs sc acq rel => some (wrd (pk ga.toNat 15 (pk gb.toNat 10 (pk gc.toNat 5 (pk fs.toNat 4 (pk sc.toNat 2 (pk acq.toNat 1 (pk rel.toNat 0 0xE2000000))))))))
  | .smplSmp ga gb gc fs sc acq rel => some (wrd (pk ga.toNat 15 (pk gb.toNat 10 (pk gc.toNat 5 (pk fs.toNat 4 (pk sc.toNat 2 (pk acq.toNat 1 (pk rel.toNat 0 0xE2100000))))))))
  | .smplRes ga gb gc fs sc acq rel => some (wrd (pk ga.toNat 15 (pk gb.toNat 10 (pk gc.toNat 5 (pk fs.toNat 4 (pk sc.toNat 2 (pk acq.toNat 1 (pk rel.toNat 0 0xE2200000))))))))
  | .smrg ga gb gc fs sc acq rel => some (wrd (pk ga.toNat 15 (pk gb.toNat 10 (pk gc.toNat 5 (pk fs.toNat 4 (pk sc.toNat 2 (pk acq.toNat 1 (pk rel.toNat 0 0xE4000000))))))))
  | .acpt ga gb gc fs sc acq rel => some (wrd (pk ga.toNat 15 (pk gb.toNat 10 (pk gc.toNat 5 (pk fs.toNat 4 (pk sc.toNat 2 (pk acq.toNat 1 (pk rel.toNat 0 0xE6000000))))))))
  | .stop ga gb gc fs sc acq rel => some (wrd (pk ga.toNat 15 (pk gb.toNat 10 (pk gc.toNat 5 (pk fs.toNat 4 (pk sc.toNat 2 (pk acq.toNat 1 (pk rel.toNat 0 0xE8000000))))))))
  | .emit ga gb gc fs sc acq rel => some (wrd (pk ga.toNat 15 (pk gb.toNat 10 (pk gc.toNat 5 (pk fs.toNat 4 (pk sc.toNat 2 (pk acq.toNat 1 (pk rel.toNat 0 0xEA000000))))))))
  | .rqstCommit ga fs sc acq rel => some (wrd (pk ga.toNat 15 (pk fs.toNat 4 (pk sc.toNat 2 (pk acq.toNat 1 (pk rel.toNat 0 0xEC000000))))))
  | .rqstQuery ga gc fs sc acq rel => some (wrd (pk ga.toNat 15 (pk gc.toNat 5 (pk fs.toNat 4 (pk sc.toNat 2 (pk acq.toNat 1 (pk rel.toNat 0 0xEC100000)))))))
  | .rqstFail ga fs sc acq rel => some (wrd (pk ga.toNat 15 (pk fs.toNat 4 (pk sc.toNat 2 (pk acq.toNat 1 (pk rel.toNat 0 0xEC200000))))))
  | .xredExp ga gb gc fs sc acq rel => some (wrd (pk ga.toNat 15 (pk gb.toNat 10 (pk gc.toNat 5 (pk fs.toNat 4 (pk sc.toNat 2 (pk acq.toNat 1 (pk rel.toNat 0 0xEE000000))))))))
  | .xredSum ga gb gc fs sc acq rel => some (wrd (pk ga.toNat 15 (pk gb.toNat 10 (pk gc.toNat 5 (pk fs.toNat 4 (pk sc.toNat 2 (pk acq.toNat 1 (pk rel.toNat 0 0xEE100000))))))))
  | .rep cnt dD dA dB => some (wrd (pk cnt.toNat 19 (pk dD.toNat 15 (pk dA.toNat 11 (pk dB.toNat 7 0xFC000000)))))
  | .clause wait setA setB len => some (wrd (pk wait.toNat 13 (pk setA.toNat 9 (pk setB.toNat 5 (pk len.toNat 0 0xFE000000)))))
  | .sqtdbWrite _ _ _ => none
  | .cqhdbWrite _ _ _ => none
  | .queueEnable _ _ _ => none
  | .queueDisable _ _ _ => none
  | .qctlErrClear _ _ _ => none
  | .registerWrite _ _ _ _ => none
  | .devIdent _ => none
  | .featNegotiate _ => none
  | .tenantOpen _ => none
  | .tenantClose _ => none
  | .memMap _ => none
  | .memMapUnmap _ => none
  | .imageLoad _ => none
  | .imageLoadRom _ => none
  | .poolCreate _ => none
  | .modelPlan _ => none
  | .modelPlanRom _ => none
  | .reqAdmit _ => none
  | .reqCancel _ => none
  | .reqFork _ => none
  | .reqQuery _ => none
  | .reqQueryRelease _ => none
  | .launch _ => none
  | .graphSubmit _ => none
  | .preempt _ => none
  | .ctxExport _ => none
  | .ctxImport _ => none
  | .resume _ => none
  | .fabricRoutesLoad _ => none
  | .fabricRoutesFlip _ => none
  | .fabricRoutesRetire _ => none
  | .fabricRoutesExport _ => none
  | .kvExport _ => none
  | .kvImport _ => none
  | .snapArm _ => none
  | .snapRead _ => none
  | .alarmStatus _ => none
  | .alarmStatusClear _ => none
  | .fwPatch _ => none
  | .attest _ => none
  | .keyLoad _ => none
  | .chipletReset _ => none
  | .telemetry _ => none
  | .pcieReadCompletion _ _ => none
  | .routeAck _ _ => none
  | .pcieReadTimeout _ => none
  | .consumerCountPoll _ => none
  | .powerWindowEnd _ => none
  | .coldReset _ => none
  | .chipletFault _ => none
  | .fenceDrainComplete _ => none
  | .fenceTimeout _ => none
  | .chipletResetDone _ => none
  | .selftestPass _ => none
  | .selftestFail _ => none
  | .alarmSensor _ => none
  | .tempcHoldExpiry => none
  | .snapshotPin => none
  | .shootdownAck _ _ => none
  | .recordRelaunch _ _ _ => none
  | .loadResultLand _ _ => none
  | .storeCommit _ _ => none
  | .atomicPerform _ => none
  | .lltlbLookupDone _ _ => none
  | .walkComplete _ _ => none
  | .checkAnswer _ => none
  | .raceRecordsArrive _ => none
  | .registerEccError _ _ => none
  | .memoryEccError _ => none
  | .huddleBinTimeout _ => none
  | .admissionStep _ => none
  | .launchComplete _ => none
  | .handlerStart _ _ => none
  | .firmwareDispose _ => none
  | .xlateHoldTimeout _ _ => none
  | .copyLineLand _ _ => none
  | .engineComplete _ => none
  | .mmaStart _ => none
  | .mmaComplete _ => none
  | .slotClaimGrant _ => none
  | .chainEntryTake _ _ => none
  | .chainEntryComplete _ => none
  | .gatherLineLand _ _ => none
  | .evictionStart _ => none
  | .evictionCopyDone _ _ => none
  | .fetchStart _ _ => none
  | .fetchDone _ _ => none
  | .iterationForm _ => none
  | .iterationGraphComplete _ => none
  | .iterationComplete _ => none
  | .deadlinePass _ => none
  | .admissionKernelComplete _ => none
  | .packetForward _ _ => none
  | .writePacket _ _ => none
  | .catchPacket _ _ => none
  | .readPacket _ _ => none
  | .readdataPacket _ _ => none
  | .atomicPacket _ _ => none
  | .atomreplyPacket _ _ => none
  | .ackPacket _ _ => none
  | .nackPacket _ _ => none
  | .resvPacket _ _ => none
  | .resvreplyPacket _ _ => none
  | .tornPacket _ _ => none
  | .abortPacket _ _ => none
  | .reducePacket _ _ => none
  | .redresultPacket _ _ => none
  | .kvxferPacket _ _ => none
  | .ueMessage _ => none
  | .ueTransportFailure _ => none
  | .linkDown _ => none
  | .retransmitTimeout _ _ => none
  | .catchSlotTimeout _ _ => none
  | .catchAbortTimeout _ => none
  | .reduceResendTimeout _ => none
  | .kvImportTimeout _ => none
  | .kvExportTimeout _ => none
  | .preemptFabricTimeout _ => none
  | .contextImageCommit _ => none
  | .sectionRestore _ _ _ => none
  | .slotTileUncorrectableError _ => none
  | .scratchpadStoreComplete _ => none

/-- The bytes of an encoded instruction. -/
def encode (i : Instr) : Option (List Byte) := (encodeWord i).map bytesOfWord

/-- The OPC of a host command (R43); none for every other instruction. -/
def opcOf (i : Instr) : Option (Nat × HostCmd) :=
  match i with
  | .nop => none
  | .mood _ _ _ => none
  | .maskSet _ => none
  | .maskAnd _ => none
  | .maskOr _ => none
  | .maskG _ => none
  | .maskRd _ => none
  | .maskAlive => none
  | .br _ => none
  | .brAny _ _ => none
  | .brAll _ _ => none
  | .brNone _ _ => none
  | .brDiv _ _ => none
  | .join => none
  | .call _ => none
  | .ret _ => none
  | .endThreads => none
  | .barWg => none
  | .barGang => none
  | .barArrive _ => none
  | .barWait _ => none
  | .barNamed _ _ => none
  | .cede => none
  | .trapUser _ => none
  | .sysCsrr _ _ => none
  | .sysCsrw _ _ => none
  | .sysLocq _ _ => none
  | .sysSnap => none
  | .sysClk _ => none
  | .sysFlagerr _ => none
  | .iadd _ _ _ _ _ _ _ => none
  | .isub _ _ _ _ _ _ _ => none
  | .imul _ _ _ _ _ _ _ => none
  | .imulh _ _ _ _ _ _ _ => none
  | .imad _ _ _ _ _ _ _ => none
  | .idivQs _ _ _ _ _ _ _ => none
  | .idivQn _ _ _ _ _ _ _ => none
  | .idivRs _ _ _ _ _ _ _ => none
  | .idivRn _ _ _ _ _ _ _ => none
  | .imin _ _ _ _ _ _ _ => none
  | .imax _ _ _ _ _ _ _ => none
  | .iabs _ _ _ _ => none
  | .ineg _ _ _ _ => none
  | .bitAnd _ _ _ _ _ _ _ => none
  | .bitOr _ _ _ _ _ _ _ => none
  | .bitXor _ _ _ _ _ _ _ => none
  | .bitAndn _ _ _ _ _ _ _ => none
  | .shl _ _ _ _ _ _ _ => none
  | .shrL _ _ _ _ _ _ _ => none
  | .shrA _ _ _ _ _ _ _ => none
  | .rotL _ _ _ _ _ _ _ => none
  | .rotR _ _ _ _ _ _ _ => none
  | .bitcPopc _ _ _ _ => none
  | .bitcClz _ _ _ _ => none
  | .bitcCtz _ _ _ _ => none
  | .bitcBrev _ _ _ _ => none
  | .bfeN _ _ _ _ _ _ => none
  | .bfeS _ _ _ _ _ _ => none
  | .bfi _ _ _ _ _ _ => none
  | .icmpEq _ _ _ _ _ _ _ => none
  | .icmpNe _ _ _ _ _ _ _ => none
  | .icmpLt _ _ _ _ _ _ _ => none
  | .icmpLe _ _ _ _ _ _ _ => none
  | .icmpGt _ _ _ _ _ _ _ => none
  | .icmpGe _ _ _ _ _ _ _ => none
  | .sel _ _ _ _ _ _ _ _ => none
  | .mov _ _ _ _ => none
  | .movSpecial _ _ _ => none
  | .movG _ _ => none
  | .plogAnd _ _ _ => none
  | .plogOr _ _ _ => none
  | .plogXor _ _ _ => none
  | .plogAndn _ _ _ => none
  | .plogNot _ _ => none
  | .plogFromg _ _ => none
  | .plogTog _ _ => none
  | .ldi _ _ _ => none
  | .khi _ _ _ => none
  | .lea _ _ _ _ _ _ _ => none
  | .shflIdx _ _ _ _ _ _ => none
  | .shflUp _ _ _ _ _ _ => none
  | .shflDown _ _ _ _ _ _ => none
  | .shflXor _ _ _ _ _ _ => none
  | .voteAny _ _ => none
  | .voteAll _ _ => none
  | .voteBal _ _ => none
  | .voteEq _ _ _ => none
  | .lredIadd _ _ _ => none
  | .lredFadd _ _ _ => none
  | .lredMin _ _ _ => none
  | .lredMax _ _ _ => none
  | .lredAmax _ _ _ => none
  | .lredAnd _ _ _ => none
  | .lredOr _ _ _ => none
  | .lredXor _ _ _ => none
  | .lscanIadd _ _ _ => none
  | .lscanFadd _ _ _ => none
  | .lscanMin _ _ _ => none
  | .lscanMax _ _ _ => none
  | .lscanAnd _ _ _ => none
  | .lscanOr _ _ _ => none
  | .lscanXor _ _ _ => none
  | .bcast _ _ _ _ => none
  | .bcastG _ _ _ _ => none
  | .bcastFirst _ _ _ => none
  | .bcastFirstg _ _ _ => none
  | .fadd _ _ _ _ _ _ => none
  | .fsub _ _ _ _ _ _ => none
  | .fmul _ _ _ _ _ _ => none
  | .ffma _ _ _ _ _ _ => none
  | .ffmaMs _ _ _ _ _ _ => none
  | .ffmaNm _ _ _ _ _ _ => none
  | .ffmaNms _ _ _ _ _ _ => none
  | .fmin _ _ _ _ _ _ => none
  | .fmax _ _ _ _ _ _ => none
  | .fcmpEq _ _ _ _ _ _ => none
  | .fcmpNe _ _ _ _ _ _ => none
  | .fcmpLt _ _ _ _ _ _ => none
  | .fcmpLe _ _ _ _ _ _ => none
  | .fcmpGt _ _ _ _ _ _ => none
  | .fcmpGe _ _ _ _ _ _ => none
  | .fcmpUn _ _ _ _ _ _ => none
  | .fcmpOr _ _ _ _ _ _ => none
  | .fabs _ _ _ _ => none
  | .fneg _ _ _ _ => none
  | .frcp _ _ _ _ => none
  | .fsqrt _ _ _ _ => none
  | .frsq _ _ _ _ => none
  | .fexp _ _ _ _ => none
  | .fln _ _ _ _ => none
  | .fexp2 _ _ _ _ => none
  | .flog2 _ _ _ _ => none
  | .cvt _ _ _ _ _ => none
  | .frnd _ _ _ _ => none
  | .fscal _ _ _ _ _ _ _ => none
  | .hadq _ _ _ _ => none
  | .hadqInv _ _ _ _ => none
  | .qpack _ _ _ => none
  | .qunpk _ _ _ => none
  | .fmtw _ _ _ => none
  | .dot4 _ _ _ _ _ _ => none
  | .ld _ _ _ _ _ _ _ _ => none
  | .st _ _ _ _ _ _ _ _ _ => none
  | .lds _ _ _ _ _ _ _ _ => none
  | .sts _ _ _ _ _ _ _ _ _ => none
  | .ldp _ _ _ _ _ _ _ => none
  | .stp _ _ _ _ _ _ _ _ => none
  | .prsTest _ _ _ _ _ => none
  | .prsClr _ _ _ _ => none
  | .prsSet _ _ _ _ => none
  | .prsWait _ _ _ _ _ => none
  | .fence _ _ _ _ => none
  | .fenceSc _ _ => none
  | .atom _ _ _ _ _ _ _ => none
  | .atoms _ _ _ _ _ _ => none
  | .red _ _ _ _ _ _ _ => none
  | .xaccAdd _ _ _ _ _ _ _ => none
  | .xaccRd _ _ _ _ _ _ => none
  | .ticket _ _ _ _ => none
  | .ldw _ _ _ _ _ _ _ _ => none
  | .stw _ _ _ _ _ _ _ _ _ => none
  | .pfch _ _ _ _ _ _ _ => none
  | .copyG2s _ _ _ _ _ _ _ => none
  | .copyS2g _ _ _ _ _ _ _ => none
  | .copyG2o _ _ _ _ _ _ _ => none
  | .copyS2o _ _ _ _ _ _ _ => none
  | .copyG2g _ _ _ _ _ _ _ => none
  | .copyXa _ _ _ _ _ _ _ => none
  | .copyS2s _ _ _ _ _ _ _ => none
  | .copyfG2o _ _ _ _ _ _ _ => none
  | .copyfS2o _ _ _ _ _ _ _ => none
  | .mma _ _ _ _ => none
  | .accldG _ _ _ _ _ _ _ => none
  | .accldS _ _ _ _ _ _ _ => none
  | .accstG _ _ _ _ _ _ _ => none
  | .accstS _ _ _ _ _ _ _ => none
  | .slotClaim _ _ _ _ _ => none
  | .slotRel _ _ _ _ _ => none
  | .slotHeld _ _ _ _ _ => none
  | .chainSet _ _ _ _ _ _ _ => none
  | .chainAdv _ _ _ _ _ _ => none
  | .seqw _ _ _ _ _ _ => none
  | .kvgatK _ _ _ _ _ _ _ => none
  | .kvgatV _ _ _ _ _ _ _ => none
  | .kvapp _ _ _ _ _ _ _ => none
  | .kvpinPin _ _ _ _ _ _ => none
  | .kvpinUnpin _ _ _ _ _ _ => none
  | .kvfrk _ _ _ _ _ _ _ => none
  | .hdlQuery _ _ _ _ _ _ => none
  | .hdlCommit _ _ _ _ _ _ => none
  | .hdlTrunc _ _ _ _ _ _ => none
  | .pfxh _ _ _ _ _ _ _ => none
  | .pfxl _ _ _ _ _ _ _ => none
  | .pfxi _ _ _ _ _ _ _ => none
  | .fputG _ _ _ _ _ _ _ => none
  | .fputS _ _ _ _ _ _ _ => none
  | .fputLz _ _ _ _ _ _ _ => none
  | .fputLzg _ _ _ _ _ _ _ => none
  | .fgetG _ _ _ _ _ _ _ => none
  | .fgetS _ _ _ _ _ _ _ => none
  | .fatom _ _ _ _ _ _ _ _ => none
  | .fred _ _ _ _ _ _ _ => none
  | .lzres _ _ _ _ _ _ => none
  | .lzarm _ _ _ _ _ _ _ => none
  | .lzrel _ _ _ _ _ => none
  | .lzqRd _ _ _ _ _ _ => none
  | .lzqWait _ _ _ _ _ => none
  | .rngW0 _ _ _ _ _ => none
  | .rngW1 _ _ _ _ _ => none
  | .rngW2 _ _ _ _ _ => none
  | .rngW3 _ _ _ _ _ => none
  | .rngUni _ _ _ _ _ => none
  | .rngGum _ _ _ _ _ => none
  | .smplMax _ _ _ _ _ _ _ => none
  | .smplSmp _ _ _ _ _ _ _ => none
  | .smplRes _ _ _ _ _ _ _ => none
  | .smrg _ _ _ _ _ _ _ => none
  | .acpt _ _ _ _ _ _ _ => none
  | .stop _ _ _ _ _ _ _ => none
  | .emit _ _ _ _ _ _ _ => none
  | .rqstCommit _ _ _ _ _ => none
  | .rqstQuery _ _ _ _ _ _ => none
  | .rqstFail _ _ _ _ _ => none
  | .xredExp _ _ _ _ _ _ _ => none
  | .xredSum _ _ _ _ _ _ _ => none
  | .rep _ _ _ _ => none
  | .clause _ _ _ _ => none
  | .sqtdbWrite _ _ _ => none
  | .cqhdbWrite _ _ _ => none
  | .queueEnable _ _ _ => none
  | .queueDisable _ _ _ => none
  | .qctlErrClear _ _ _ => none
  | .registerWrite _ _ _ _ => none
  | .devIdent c => some (0x0001, c)
  | .featNegotiate c => some (0x0002, c)
  | .tenantOpen c => some (0x0003, c)
  | .tenantClose c => some (0x0004, c)
  | .memMap c => some (0x0005, c)
  | .memMapUnmap c => some (0x0005, c)
  | .imageLoad c => some (0x0006, c)
  | .imageLoadRom c => some (0x0006, c)
  | .poolCreate c => some (0x0007, c)
  | .modelPlan c => some (0x0008, c)
  | .modelPlanRom c => some (0x0008, c)
  | .reqAdmit c => some (0x0009, c)
  | .reqCancel c => some (0x000A, c)
  | .reqFork c => some (0x000B, c)
  | .reqQuery c => some (0x000C, c)
  | .reqQueryRelease c => some (0x000C, c)
  | .launch c => some (0x000D, c)
  | .graphSubmit c => some (0x000E, c)
  | .preempt c => some (0x000F, c)
  | .ctxExport c => some (0x0010, c)
  | .ctxImport c => some (0x0011, c)
  | .resume c => some (0x0012, c)
  | .fabricRoutesLoad c => some (0x0013, c)
  | .fabricRoutesFlip c => some (0x0013, c)
  | .fabricRoutesRetire c => some (0x0013, c)
  | .fabricRoutesExport c => some (0x0013, c)
  | .kvExport c => some (0x0014, c)
  | .kvImport c => some (0x0015, c)
  | .snapArm c => some (0x0016, c)
  | .snapRead c => some (0x0017, c)
  | .alarmStatus c => some (0x0018, c)
  | .alarmStatusClear c => some (0x0018, c)
  | .fwPatch c => some (0x0019, c)
  | .attest c => some (0x001A, c)
  | .keyLoad c => some (0x001B, c)
  | .chipletReset c => some (0x001C, c)
  | .telemetry c => some (0x001D, c)
  | .pcieReadCompletion _ _ => none
  | .routeAck _ _ => none
  | .pcieReadTimeout _ => none
  | .consumerCountPoll _ => none
  | .powerWindowEnd _ => none
  | .coldReset _ => none
  | .chipletFault _ => none
  | .fenceDrainComplete _ => none
  | .fenceTimeout _ => none
  | .chipletResetDone _ => none
  | .selftestPass _ => none
  | .selftestFail _ => none
  | .alarmSensor _ => none
  | .tempcHoldExpiry => none
  | .snapshotPin => none
  | .shootdownAck _ _ => none
  | .recordRelaunch _ _ _ => none
  | .loadResultLand _ _ => none
  | .storeCommit _ _ => none
  | .atomicPerform _ => none
  | .lltlbLookupDone _ _ => none
  | .walkComplete _ _ => none
  | .checkAnswer _ => none
  | .raceRecordsArrive _ => none
  | .registerEccError _ _ => none
  | .memoryEccError _ => none
  | .huddleBinTimeout _ => none
  | .admissionStep _ => none
  | .launchComplete _ => none
  | .handlerStart _ _ => none
  | .firmwareDispose _ => none
  | .xlateHoldTimeout _ _ => none
  | .copyLineLand _ _ => none
  | .engineComplete _ => none
  | .mmaStart _ => none
  | .mmaComplete _ => none
  | .slotClaimGrant _ => none
  | .chainEntryTake _ _ => none
  | .chainEntryComplete _ => none
  | .gatherLineLand _ _ => none
  | .evictionStart _ => none
  | .evictionCopyDone _ _ => none
  | .fetchStart _ _ => none
  | .fetchDone _ _ => none
  | .iterationForm _ => none
  | .iterationGraphComplete _ => none
  | .iterationComplete _ => none
  | .deadlinePass _ => none
  | .admissionKernelComplete _ => none
  | .packetForward _ _ => none
  | .writePacket _ _ => none
  | .catchPacket _ _ => none
  | .readPacket _ _ => none
  | .readdataPacket _ _ => none
  | .atomicPacket _ _ => none
  | .atomreplyPacket _ _ => none
  | .ackPacket _ _ => none
  | .nackPacket _ _ => none
  | .resvPacket _ _ => none
  | .resvreplyPacket _ _ => none
  | .tornPacket _ _ => none
  | .abortPacket _ _ => none
  | .reducePacket _ _ => none
  | .redresultPacket _ _ => none
  | .kvxferPacket _ _ => none
  | .ueMessage _ => none
  | .ueTransportFailure _ => none
  | .linkDown _ => none
  | .retransmitTimeout _ _ => none
  | .catchSlotTimeout _ _ => none
  | .catchAbortTimeout _ => none
  | .reduceResendTimeout _ => none
  | .kvImportTimeout _ => none
  | .kvExportTimeout _ => none
  | .preemptFabricTimeout _ => none
  | .contextImageCommit _ => none
  | .sectionRestore _ _ _ => none
  | .slotTileUncorrectableError _ => none
  | .scratchpadStoreComplete _ => none

/-- The command of OPC opc with the fields c is the instruction i: the opcode table splits an OPC by
argument bits (R46, R411, R343, R339, R370, R404), and Instr.wf says which split i stands for. -/
def isCommand (opc : Nat) (c : HostCmd) (i : Instr) : Bool :=
  i.wf && decide (opcOf i = some (opc, c))

/-- An OPC of the command table (R43). -/
def opcKnown (opc : Nat) : Bool := decide (1 ≤ opc) && decide (opc ≤ 0x001D)

/-- Little-endian value of a list of bytes (R2). -/
def leNat (l : List Byte) : Nat :=
  match l with
  | [] => 0
  | b :: t => b.toNat + 256 * leNat t

/-- The low n bytes of a number, lowest first (R2). -/
def natBytes (n v : Nat) : List Byte :=
  match n with
  | 0 => []
  | k + 1 => BitVec.ofNat 8 v :: natBytes k (v / 256)

/-- Read the 64 bytes of a command (R36): the OPC, and the fields with the queue they came from. -/
def parseCommand (fn q : Nat) (pick : List Nat) (l : List Byte) : Nat × HostCmd :=
  let f := fun (o n : Nat) => leNat ((l.drop o).take n)
  (f 0 2,
    { fn := fn, q := q, cid := BitVec.ofNat 16 (f 4 2), tenant := BitVec.ofNat 16 (f 8 2),
      rsv := !(f 2 2 == 0 && f 6 2 == 0 && f 10 6 == 0),
      a0 := BitVec.ofNat 64 (f 16 8), a1 := BitVec.ofNat 64 (f 24 8), a2 := BitVec.ofNat 64 (f 32 8),
      a3 := BitVec.ofNat 64 (f 40 8), a4 := BitVec.ofNat 64 (f 48 8), a5 := BitVec.ofNat 64 (f 56 8),
      pick := pick })

/-- The 64 bytes of a command whose reserved bytes are zero (R36). -/
def commandBytes (opc : Nat) (c : HostCmd) : List Byte :=
  natBytes 2 opc ++ natBytes 2 0 ++ natBytes 2 c.cid.toNat ++ natBytes 2 0 ++ natBytes 2 c.tenant.toNat ++
    natBytes 6 0 ++ natBytes 8 c.a0.toNat ++ natBytes 8 c.a1.toNat ++ natBytes 8 c.a2.toNat ++
    natBytes 8 c.a3.toNat ++ natBytes 8 c.a4.toNat ++ natBytes 8 c.a5.toNat

end Sys2Proof
end

