-- ==== Sys2Proof/Config.lean ====
section
/-! DEFINITION. What an implementation fixes and the spec does not state: opaque constants without a
body. Nothing in Lean can evaluate them, so a statement that mentions one holds for every value.
Log entries 6, 8, 9, 10 and 19 name each of them. -/

namespace Sys2Proof.Config

/-- A free value: the spec says a value results and not which (log 6). The argument is State.freeCtr. -/
opaque freeValue : Nat → DWord

/-- Byte n of ROM image 0 (R411), whose code and data the spec does not print (log 8). -/
opaque romImageByte : Nat → Byte

/-- The places that ROM image 0 gives its code, data and kernel table and its two kernels' entries, as CODEOFF, CODESZ, DATAOFF,
DATASZ, KTOFF and the entry offsets; the spec states only the limits of R51 and R52 on them (log 8). -/
opaque romPlaces : Nat → Nat

/-- Whether an XMSS-SHAKE_20_256 signature (RFC 8391) verifies over a patch (R50; log 9). -/
opaque patchSignatureOk : List Byte → List Byte → Bool

/-- The device's ML-KEM-768 public key (FIPS 203), byte n of 1,184 (R406; log 9). -/
opaque kemPublicByte : Nat → Byte

/-- Byte n of the ML-DSA-65 signature (FIPS 204) over a report (R406; log 9). -/
opaque reportSignatureByte : List Byte → Nat → Byte

/-- The 256-bit shared secret that an ML-KEM-768 ciphertext to this device delivers (FIPS 203, R407; log 9). -/
opaque kemSecret : List Byte → BitVec 256

/-- The nonce under which a key is wrapped, which R407 does not state (log 9). -/
opaque wrapNonce : BitVec 96

/-- How argmax orders two f32 values that R210 ranks alike and that differ in their bits: two NaNs (log 19). -/
opaque argRank : Nat → Nat

/-- Byte n of the 4 KiB TELEMETRY buffer, given the named counters that it reports and the tenant asked for (R43; log 10). -/
opaque telemetryByte : List (List Nat × Nat) → Nat → Nat → Byte

/-- Whether the counter of a name is one of a block's (R410; log 10). -/
opaque blockCounts : Nat → List Nat → Bool

end Sys2Proof.Config
end

