-- ==== Sys2Proof/Machine/State.lean ====
section
/-! DEFINITION. The state of the device as plain data, and the state right after reset. -/

namespace Sys2Proof.Machine

/-- A sparse table keyed by a number: keys strictly rising (log 12). -/
abbrev Table (α : Type) := List (Nat × α)

/-- Bytes by address: addresses strictly rising, no byte equal to 0, which an unlisted address reads as (log 4). -/
abbrev Memory := List Host.Cell

/-- A set of numbers, strictly rising. -/
abbrev NatSet := List Nat

/-! ## Groups -/

/-- A physical group-register (R228): which allocation it is, the words of the 16 lanes, and which words are poisoned (R242). -/
structure VReg where
  tag    : Nat
  w      : Vector Word 16
  poison : BitVec 16
deriving DecidableEq, Repr

/-- A completion flag (R60): the pending count, 0 to 63, and FLAGERR. -/
structure Flag where
  count : Nat
  err   : Bool
deriving DecidableEq, Repr

/-- Why a record was written (R231). -/
inductive Cause where
  | wait | flagcap | walk | regs | check | spawn | join | preempt | fault
deriving DecidableEq, Repr

/-- Where a group stands (R230, R237). -/
inductive Res where
  /-- In a slot, executing. -/
  | running
  /-- In a slot, after a precise trap. -/
  | held
  /-- A record that waits for its cause. -/
  | waiting
  /-- A record that may relaunch. -/
  | ready
  /-- An open bin of the Huddle. -/
  | opened
  /-- A part that waits at a join. -/
  | joined
  /-- In the context image of a pre-empted tenant. -/
  | parked
deriving DecidableEq, Repr

/-- Where the record of a group that is not in a slot is stored (R234). -/
inductive Store where
  | none
  | dugout (blocks : Nat)
  | spill (cell : Nat)
  /-- In the context image. -/
  | image
  /-- In spawn or join storage, until room is free. -/
  | kept
  /-- A join part, or what it is merged into, that found no room: in the slot and registers of the group it was. -/
  | slot
deriving DecidableEq, Repr

/-- The repeat prefix in force (R94). -/
structure Rep where
  cnt : Nat
  dD  : Int
  dA  : Int
  dB  : Int
deriving DecidableEq, Repr

/-- What a group that ended before an instruction waits for (R231 causes WALK and CHECK). -/
inductive Want where
  | none
  /-- A page walk of the virtual address. -/
  | walk (va : Nat)
  /-- A handle or request check. -/
  | check
  /-- The race records of these sectors (physical address of each). -/
  | race (sectors : List Nat)
deriving DecidableEq, Repr

/-- The precise traps (R392). -/
inductive TrapCode where
  | btgt | illop | illopnd | pend | unwr | eccu | fmtdiv | illtype | membr | sloterr | handle
  | misalign | spbound | prot | xlate | mmrace | cqov | user
deriving DecidableEq, Repr

/-- A group: its threads, its registers, and its place as a resident group or as a continuation record. -/
structure Group where
  inst    : Nat
  region  : Nat
  launch  : Nat
  wg      : Nat
  core    : Nat
  part    : Nat
  slot    : Nat
  res     : Res
  store   : Store
  cause   : Cause
  arg     : Nat
  waitm   : BitVec 12
  readyAt : Nat
  since   : Nat
  want    : Want
  answered : Bool
  walkFault : Option (Nat × TrapCode)
  home    : Bool
  tids    : Vector (BitVec 12) 16
  pc      : DWord
  coff    : Nat
  repi    : Nat
  rep     : Option Rep
  setA    : Nat
  setB    : Nat
  len     : Nat
  pendV   : BitVec 64
  pendG   : BitVec 32
  exec    : BitVec 16
  alive   : BitVec 16
  mood    : Word
  prog    : Word
  p       : Vector (BitVec 16) 8
  g       : Vector DWord 32
  /-- Two bits for each g register: bit 2 n for its low 32-bit word, bit 2 n + 1 for its high one (R242). -/
  gpoison : BitVec 64
  v       : Vector (Option VReg) 64
  flags   : Vector Flag 12
  cedes   : List Nat
  hbKey   : Nat
  /-- A long-latency instruction stands earlier in the clause (R90). -/
  llSeen  : Bool
  /-- Flags on which an engine command with ACQ or REL was issued since the last header that waited on them (R297). -/
  engFlags : BitVec 12
  /-- A disposition has let a held group run again, and it waits for the stw's to it (R174); whether it goes past its word. -/
  resume : Option Bool
  /-- LIVEG of the group's record as it was written: a result that lands in it as 0 leaves the bit set (R232, R235); 0 in a slot. -/
  liveg  : BitVec 32
deriving DecidableEq, Repr

/-! ## Operations in flight -/

/-- Which storage a memory instruction addresses (R160). -/
inductive Space where
  | global | scratch | priv | window
deriving DecidableEq, Repr

/-- What a memory instruction does to each access. -/
inductive MemKind where
  /-- A load; whether a narrow value is sign-extended. -/
  | load (signed : Bool)
  | store
  /-- atom or atoms with its aop (R168). -/
  | atomic (aop : Nat)
  /-- red with its aop (R170). -/
  | reduce (aop : Nat)
  /-- xacc.add (R171). -/
  | xadd
  /-- xacc.rd (R171). -/
  | xread
  /-- ticket, with its limit (R172). -/
  | ticket (lim : Nat)
deriving DecidableEq, Repr

/-- One access of a lane: its virtual address or offset, its physical address (or offset, or a
fabric-window address, bit 54 set), the bytes it writes or its operand, the bytes it read, whether they
are poisoned, and whether it has been performed. early: a store has updated its core's L1 copy (R271), or
every scratchpad line of the instruction was present at acceptance (R164). A private access has one for each
4-byte word (R69). -/
structure Acc where
  lane : Nat
  va   : Nat
  addr : Nat
  data : List Byte
  got  : List Byte
  bad  : Bool
  done : Bool
  early : Bool
deriving DecidableEq, Repr

/-- Where an accepted instruction stands, for the records it may owe (R393): PC, clause offset, iteration, lowest %tid. -/
structure Site where
  pc    : DWord
  coff  : Nat
  repi  : Nat
  tidlo : Nat
deriving DecidableEq, Repr

/-- An accepted memory instruction (R88). -/
structure MemOp where
  word   : Word
  site   : Site
  kind   : MemKind
  space  : Space
  ctx    : Nat
  inst   : Nat
  launch : Nat
  wg     : Nat
  core   : Nat
  flag   : Nat
  uni    : Bool
  size   : Nat
  sc     : Nat
  acq    : Bool
  rel    : Bool
  mood   : Word
  dst    : List (Nat × Nat)
  gdst   : Option Nat
  accs   : List Acc
  landed : BitVec 16
  err    : Bool
deriving DecidableEq, Repr

/-- A tile of accumulator words, element (i, j) at 64 i + j; absent words are 0; poisoned elements (R314). -/
structure Tile where
  words  : Table Word
  poison : NatSet
deriving DecidableEq, Repr

/-- An accepted engine, fabric, barrier or fence command, or a chain entry that has been taken (R302, R308). -/
structure Cmd where
  word    : Word
  site    : Site
  op      : Nat
  sub     : Nat
  ctx     : Nat
  inst    : Nat
  launch  : Nat
  wg      : Nat
  core    : Nat
  tenant  : Nat
  flag    : Option Nat
  chain   : Option (Nat × Nat)
  a       : DWord
  b       : DWord
  c       : DWord
  fmt     : Word
  sc      : Nat
  acq     : Bool
  rel     : Bool
  resG    : Option Nat
  result  : DWord
  /-- Units (lines, rows, packets) that have landed (R183, R315); of a barrier arrival, the threads that arrive (R112); of
  prs.wait, the lines. -/
  landed  : NatSet
  started : Bool
  paused  : Bool
  err     : Bool
  /-- Everything but the flag's completion is done. -/
  ended   : Bool
  /-- It does nothing more and completes with FLAGERR, once its release has taken effect (R178). -/
  failed  : Bool
  /-- gA, gB and gC as the instruction read them, or words A, B and C of a chain's entry (R393). -/
  raw     : DWord × DWord × DWord
  /-- The command that leads a collective; the command itself otherwise. -/
  lead    : Nat
  /-- kvgat: the frames pinned, with whether the tier-2 copy is read, first position and count (R195). -/
  frames  : List (Nat × Bool)
  /-- kvgat and the other page commands: the pool. -/
  pool    : Nat
  /-- Scratchpad lines whose presence bits the command cleared at acceptance (R270). -/
  lines   : NatSet
  /-- Phase of a barrier arrival, arrival registered, place of a waiting record, and the like. -/
  phase   : Nat
  arrived : Bool
  shadow  : Option Tile
  /-- Fabric: packets acknowledged. -/
  acked   : NatSet
  /-- Time that a fabric timeout counts from, and resends made (R376, R378). -/
  since   : Nat
  tries   : Nat
  /-- The contribution of each part of a reduction, as it was read (R378). -/
  own     : Table (List Byte)
  /-- When a matrix product became ready to start (R304). -/
  ready   : Option Nat
deriving DecidableEq, Repr

/-- A byte as an engine command without ACQ still reads it: its issuing group has written over it since the command's acceptance
(R294). The command, whether the address is a scratchpad offset or a physical one, and the byte before that write. -/
structure Hidden where
  cmd  : Nat
  spad : Bool
  addr : Nat
  byte : Byte
deriving DecidableEq, Repr

/-! ## Cores -/

/-- A TLB entry (R280): id, virtual base, size in bytes, physical base, RT, X, W. -/
structure TlbEntry where
  asid : Nat
  va   : Nat
  size : Nat
  pa   : Nat
  rt   : Bool
  x    : Bool
  w    : Bool
deriving DecidableEq, Repr

/-- An operand slot (R311): its holder and its 8 KiB. -/
structure OSlot where
  holder : Option Nat
  mem    : Memory
deriving DecidableEq, Repr

/-- The states of a catch slot (R214). -/
inductive LzSt where
  | free | opened | reserved | filling | full | torn
deriving DecidableEq, Repr

/-- A catch slot (R212 to R214, R366, R376). -/
structure LzSlot where
  st     : LzSt
  wg     : Nat
  ctr    : Nat
  rid    : Nat
  target : Nat
  area   : Nat
  dev    : Nat
  score  : Nat
  anyc   : Bool
  rdev   : Nat
  rcore  : Nat
  port   : Nat
  last   : Nat
  got    : NatSet
deriving DecidableEq, Repr

/-- A command chain (R191, R305). -/
structure Chain where
  base  : DWord
  size  : Nat
  owner : Nat
  head  : Nat
  tail  : Nat
  comp  : Nat
  done  : NatSet
deriving DecidableEq, Repr

/-- A private line in an L1 (R271): its 128 bytes, and the dirty words with the workgroup and thread that own each. -/
structure PrivLine where
  data  : List Byte
  dirty : Table (Nat × Nat)
deriving DecidableEq, Repr

/-- A line that instruction fetch has read (R271, R275): the address space that fetched it, and its 128 bytes. -/
structure CodeLine where
  asid : Nat
  data : List Byte
deriving DecidableEq, Repr

/-- A core (R25): partition word; its L1's global lines, whose bytes are those of memory, and its private and code lines, by
physical line number; L1 TLB, operand slots, catch slots, chains, and the latched placement score. -/
structure Core where
  pword : Word
  l1    : NatSet
  priv  : Table PrivLine
  code  : Table CodeLine
  tlb   : List TlbEntry
  slots : Table OSlot
  lz    : Table LzSlot
  chains : Table Chain
  score : Nat
  /-- What the workgroup that left the core last had in its scratchpad; the next finds zeros (R57, R318). -/
  left  : Memory
deriving DecidableEq, Repr

/-- The states of a compute chiplet (R386). -/
inductive ChipSt where
  | active | fencing | resetting | selftest | offline
deriving DecidableEq, Repr

/-- A completion that is owed to a command: its function, queue, tag and SQHEAD, and the era of the queue pair in which it was
read (log 5). -/
structure Owed where
  fn     : Nat
  q      : Nat
  cid    : BitVec 16
  sqhead : Nat
  era    : Nat := 0
deriving DecidableEq, Repr

/-- A compute chiplet: its state, when it entered it, the CHIPLET_RESET that waits for it, its
withhold level and withheld clocks (R28), and its last-level TLB (R280). -/
structure Chip where
  st       : ChipSt
  since    : Nat
  waiter   : Option Owed
  hold     : Nat
  withheld : Nat
  tlb      : List TlbEntry
deriving DecidableEq, Repr

/-! ## Workgroups, launches, graphs -/

/-- A named barrier (R112): its phase, the count of the first arrival, the threads arrived and the arrivals that wait. -/
structure Named where
  phase : Nat
  need  : Nat
  got   : Nat
  wait  : List Nat
deriving DecidableEq, Repr

/-- An open collective (R182): its shape, sub-op, opcode, and the slices joined, first first. -/
structure Coll where
  shape  : DWord
  op     : Nat
  sub    : Nat
  slices : List Nat
deriving DecidableEq, Repr

/-- A workgroup on a core or in a context image: launch, linear index, scratchpad (bytes, absent lines),
accumulator tiles, barrier phase and for each thread the next phase it arrives in, named barriers, open
collectives; and what leaves the core with it under pre-emption (slots, catch slots, chains). -/
structure Workgroup where
  launch  : Nat
  lin     : Nat
  tenant  : Nat
  core    : Nat
  placed  : Bool
  handler : Option Nat
  gang    : Option Nat
  threads : Nat
  spadLen : Nat
  spad    : Memory
  absent  : NatSet
  nacc    : Nat
  tiles   : Table Tile
  phase   : Nat
  next    : Table Nat
  named   : Table Named
  colls   : Table Coll
  slots   : Table OSlot
  lz      : Table LzSlot
  chains  : Table Chain
deriving DecidableEq, Repr

/-- A gang's barrier (R112). -/
structure Gang where
  launch : Nat
  size   : Nat
  phase  : Nat
  next   : Table Nat
deriving DecidableEq, Repr

/-- A fault record (R393) and what it holds. KIND is 0 precise, 1 engine, 2 chain entry, 3 LATE. va is the address
that faulted, which a record of KIND 2 does not report. -/
structure FaultRec where
  seq    : Nat
  pc     : DWord
  code   : Nat
  kind   : Nat
  coff   : Nat
  repi   : Nat
  lane   : Option Nat
  chain  : Nat
  addr   : DWord
  va     : Nat
  launch : Nat
  wglin  : Nat
  tidlo  : Nat
  task   : DWord
  ext    : Memory
  ctx    : Option Nat
  cmd    : Option Nat
  heldAt : Nat
  /-- The firmware holds it under R397. -/
  fw     : Bool
deriving DecidableEq, Repr

/-- The fields of a launch descriptor (R53). -/
structure Desc where
  image   : Nat
  entry   : Nat
  pword   : Word
  threads : Nat
  gang    : Nat
  cls     : Nat
  det     : Bool
  gx      : Nat
  gy      : Nat
  gz      : Nat
  prio    : Nat
  acc     : Nat
  spad    : Nat
  priv    : Nat
  spillA  : Nat
  spillN  : Nat
  param   : DWord
  trap    : Nat
  task    : DWord
  privA   : Nat
  winA    : Nat
deriving DecidableEq, Repr

/-- Who made a launch. -/
inductive Origin where
  /-- LAUNCH. -/
  | direct (o : Owed)
  /-- Task of a graph. -/
  | task (graph idx : Nat)
  /-- The scorer launch of a plan's iteration (R348). -/
  | scorer (plan : Nat)
  /-- The admission kernel of a request (R334). -/
  | admission (req : Nat)
  /-- A launch of a context image, whose LAUNCH another device read (R400). -/
  | imported
deriving DecidableEq, Repr

/-- A launch (R246, R247). -/
structure Launch where
  tenant  : Nat
  asid    : Nat
  desc    : Desc
  origin  : Origin
  made    : Nat
  /-- The clock it was made in (R246). -/
  madeAt  : Nat
  next    : Nat
  aborted : Bool
  faulted : Bool
  lost    : Bool
  fq      : List FaultRec
  fwait   : List FaultRec
  fseq    : Nat
  server  : Option Nat
  /-- The id that LAUNCH returned, which %launch reads (R65). -/
  ident   : Nat
  /-- It has completed, and a chain of it is still walked (R246, R305). -/
  finished : Bool
deriving DecidableEq, Repr

/-- The retirement logic's copy of a task control block (R244, R245). -/
structure Task where
  pred    : Nat
  succs   : List Nat
  restart : Bool
  cls     : Nat
  prio    : Nat
  desc    : Nat
  /-- none before it retires; then the status and whether it was aborted by propagation. -/
  status  : Option (Nat × Bool)
  eligible : Bool
deriving DecidableEq, Repr

/-- Who submitted a graph. -/
inductive GraphOrigin where
  | host (o : Owed)
  | plan (id : Nat)
  /-- A graph of a context image, whose GRAPH_SUBMIT another device read (R400). -/
  | imported
deriving DecidableEq, Repr

/-- A submitted graph (R245, R246), with the re-issues each task has had (R389). -/
structure Graph where
  tenant  : Nat
  base    : Nat
  origin  : GraphOrigin
  tasks   : Table Task
  reissue : Table Nat
deriving DecidableEq, Repr

/-! ## Tenants, pools, plans, requests -/

/-- Where a tenant stands under pre-emption (R398 to R401). -/
inductive Park where
  | active
  /-- PREEMPT read at this time; its completion is owed. -/
  | draining (since : Nat) (o : Owed)
  /-- PARKED, with the committed sections of its image, type and bytes (R398, R399). -/
  | parked (secs : List (Nat × List Byte))
  /-- RESUME read; sections of workgroups wait to be restored. -/
  | resuming (o : Owed)
deriving DecidableEq, Repr

/-- A record of the token stream that waits for room (R14): the record's 128 bits and the emit command that waits. -/
structure StreamRec where
  bits : Nat
  cmd  : Option Nat
  /-- REQ_CANCEL completions to post after the record's release. -/
  post : List (Owed × Nat)
deriving DecidableEq, Repr

/-- An open tenant (R44). -/
structure Tenant where
  fn      : Nat
  asid    : Nat
  ring    : Nat
  ringLog : Nat
  confid  : Bool
  det     : Bool
  slices  : NatSet
  salt    : List Byte
  prod    : Nat
  cons    : Nat
  queue   : List StreamRec
  collide : Nat
  park    : Park
  /-- Workgroups in the image, by section, that RESUME has still to place. -/
  image   : List (List Nat)
  closing : Option Owed
deriving DecidableEq, Repr

/-- An image (R47, R51). -/
structure Image where
  tenant  : Nat
  addr    : Nat
  level   : Nat
  codeOff : Nat
  codeSz  : Nat
  rom     : Bool
deriving DecidableEq, Repr

/-- The states of a page frame (R322). -/
inductive FrSt where
  | free | resident | evicting | tier2 | fetching
deriving DecidableEq, Repr

/-- A page frame table entry and its token ids (R322). LOC follows from the state, the slot and the pool. -/
structure Frame where
  st      : FrSt
  ref     : Nat
  pins    : Nat
  tenant  : Nat
  filled  : Nat
  slot    : Option Nat
  lastacc : Nat
  ids     : Table Word
  copied  : Bool
deriving DecidableEq, Repr

/-- The counters of a pool (R322). -/
structure PoolCtr where
  alloc   : Nat
  freed   : Nat
  cow     : Nat
  evict   : Nat
  abandon : Nat
  fetch   : Nat
deriving DecidableEq, Repr

/-- A KV pool (R47, R194, R319). -/
structure Pool where
  tenant : Nat
  base   : Nat
  f      : Nat
  layers : Nat
  bp     : Nat
  p      : Nat
  etype  : Nat
  tier2  : Option Nat
  frames : Table Frame
  free   : List Nat
  ctr    : PoolCtr
  halted : Bool
deriving DecidableEq, Repr

/-- A KV handle entry and its block table (R330, R331). named is the tenant and the index by which the words that a CTX_IMPORT brought
name it (R400, R402; log 56). -/
structure Handle where
  st     : Nat
  gen    : Nat
  tenant : Nat
  pool   : Nat
  c      : Nat
  w      : Nat
  bt     : List Nat
  named  : Option (Nat × Nat)
deriving DecidableEq, Repr

/-- A valid Playbook entry (R332). -/
structure PbEntry where
  hash    : DWord
  pool    : Nat
  frames  : List Nat
  lasthit : Nat
deriving DecidableEq, Repr

/-- The template fields of a plan (R342). -/
structure Tmpl where
  graph  : Nat
  ntask  : Nat
  work   : Nat
  batch  : Nat
  toks   : Nat
  scorer : Nat
  admKern : Nat
  pbase  : Nat
  pcap   : Nat
  rarea  : Nat
deriving DecidableEq, Repr

/-- One arm of a bandit (R363): step count, reward sum (binary64), histogram. -/
structure Arm where
  n    : Nat
  s    : DWord
  hist : Table Nat
deriving DecidableEq, Repr

/-- An entry of an iteration's batch (R347). -/
structure BatchEntry where
  req    : Nat
  kind   : Nat
  sample : Bool
  first  : Nat
  t      : Nat
  tok    : Nat
  handle : DWord
  sampled : Word
deriving DecidableEq, Repr

/-- A running iteration (R344, R348): its number, its entries, its tokens, and whether its graph has completed with SUCCESS. -/
structure Iter where
  num     : Nat
  entries : List BatchEntry
  toks    : List Word
  scoring : Bool
deriving DecidableEq, Repr

/-- A model plan (R342, R343). -/
structure Plan where
  tenant : Nat
  image  : Nat
  pool   : Nat
  vocab  : Nat
  budget : Nat
  tmpl   : Option Tmpl
  area   : Nat
  bandit : Table (Table Arm)
  iter   : Option Iter
deriving DecidableEq, Repr

/-- The states of a request (R340). -/
inductive ReqSt where
  | queued | prefill | decode | spec | paused | done | cancelled | failed | exported
deriving DecidableEq, Repr

/-- A request-table entry (R338). toks is the committed sequence, prompt first; pend the tokens emitted
and not yet committed; last the reason of a LAST record emitted in the iteration. -/
structure Request where
  handle    : DWord
  tenant    : Nat
  st        : ReqSt
  reason    : Nat
  initer    : Bool
  cancelp   : Bool
  dlmiss    : Bool
  pframe    : Bool
  xpend     : Bool
  prio      : Nat
  plan      : Nat
  specc     : Nat
  tmpl      : Nat
  /-- TMPL before the running iteration, which REQ_QUERY shows until it ends (R17, R360). -/
  oldTmpl   : Nat
  plen      : Nat
  maxnew    : Nat
  committed : Nat
  cursor    : Nat
  nextin    : Word
  seed      : DWord
  streampos : Nat
  deadline  : Nat
  temp      : Word
  minp      : Word
  penalty   : Nat
  admseq    : Nat
  iter      : Nat
  accepted  : Nat
  stopctl   : List Byte
  stoptok   : List Word
  stopseq   : List Word
  pcopy     : Nat
  toks      : List Word
  pend      : List Word
  last      : Option Nat
  /-- The queue of the doorbell write it was admitted through, until every command of that write has been read (R10). -/
  bell      : Option (Nat × Nat)
  /-- Its prompt is still being copied from host memory: its command has been read and is not complete, and no other command sees the
  entry (R341, R381). -/
  loading   : Bool
  /-- The prompt copy of a ROM plan's request: physical base and bytes (R343). -/
  pmem      : Option (Nat × Nat)
  admission : Option Nat
  cancels   : List Owed
  exporting : Option Nat
  wantExport : Option Nat
  /-- CURSOR as last committed (R17). -/
  comCursor : Nat
  /-- The index by which the tenant's programs and records name it, where a CTX_IMPORT gave it another (R400, R402; log 56). -/
  named : Option Nat
deriving DecidableEq, Repr

/-! ## Fabric -/

/-- A route bank (R370). -/
inductive BankSt where
  | retired | loaded | inForce | flippedOut
deriving DecidableEq, Repr

/-- A packet sent and not yet acknowledged (R373): the command or memory instruction it belongs to, and
which packet, lane or rank of it. -/
structure Sent where
  pkt  : Packet
  cmd  : Option Nat
  unit : Nat
  xfer : Option Nat
  at_  : Nat
  tries : Nat
deriving DecidableEq, Repr

/-- The reply that a received packet drew, to be sent again for a duplicate (R373): type, address field, payload. -/
structure Reply where
  type    : Nat
  af      : Nat
  payload : List Byte
deriving DecidableEq, Repr

/-- The state of an ordered pair's sequence numbers (R373): the pair key, next SEQ to send, highest SEQ received + 1,
and the SEQs received within the window with their replies. -/
structure Pair where
  key  : List Byte
  next : Nat
  top  : Nat
  got  : Table (Option Reply)
deriving DecidableEq, Repr

/-- A scale-out key and its counters (R379, R407). -/
structure UeKey where
  key  : List Byte
  next : Nat
  ack  : Nat
  seenE : NatSet
  seenI : NatSet
deriving DecidableEq, Repr

/-- An export entry (R374): the peer's device and tenant, and the local window. -/
structure Export where
  dev     : Nat
  ptenant : Nat
  tenant  : Nat
  base    : Nat
  len     : Nat
deriving DecidableEq, Repr

/-- A reduction as the fabric names it (R209, R378): tenant, rank-set word with SEQ, reduction word, and which part
of the instruction's data it is (log 19). -/
structure RedKey where
  tenant : Nat
  ranks  : DWord
  red    : DWord
  unit   : Nat
deriving DecidableEq, Repr

/-- A reduction in progress at this device: the ranks folded and their combined records; and a kept one: its result
at the root, or this rank's own contribution where each rank folds for itself (R378). -/
structure Fold where
  key  : RedKey
  got  : NatSet
  data : List Byte
  /-- The contributions that have arrived, each by its lowest rank: they are folded in rank order once all have (R209, R378). -/
  parts : Table (List Byte)
deriving DecidableEq, Repr

/-- A KV export or import in progress (R379, R380). -/
structure KvXfer where
  import_  : Bool
  tenant   : Nat
  req      : Nat
  plan     : Nat
  tag      : Nat
  zoubry   : Bool
  peer     : Nat
  owed     : Owed
  since    : Nat
  manifest : Option KvManifest
  pages    : Table (List Byte × List Word)
  /-- The frames an import has been given so far, first slot first: AllocFrame may have to wait for an eviction (R321, R380). -/
  frames   : List Nat
deriving DecidableEq, Repr

/-- A message of a hand-off that arrived before its KV_IMPORT. -/
structure KvEarly where
  zoubry : Bool
  peer   : Nat
  tag    : Nat
  body   : KvBody
deriving DecidableEq, Repr

/-- A message of a hand-off of which not every KVXFER packet has arrived (R372, R379; log 20): the peer and tag, the message's number
and length, and the pieces by their offsets. -/
structure KvPart where
  peer  : Nat
  tag   : Nat
  no    : Nat
  total : Nat
  got   : Table (List Byte)
deriving DecidableEq, Repr

/-- The fabric state of this device (R368 to R378). notices holds the acknowledgements of CATCH packets and the TORN packets that are
sent again until their receiver has them, each with the time of its last sending (R365, R376). -/
structure Fabric where
  devId   : Nat
  portsUp : BitVec 16
  banks   : Table (Table Nat)
  bankSt  : Vector BankSt 2
  inject  : Option Nat
  pairs   : Table Pair
  sent    : List Sent
  wire    : List Packet
  exports : List Export
  folds   : List Fold
  kept    : List Fold
  xfers   : Table KvXfer
  early   : List KvEarly
  parts   : List KvPart
  notices : List (Packet × Nat)
  /-- Such packets that could not be sent: type, device, address field (R373). -/
  unsent : List (Nat × Nat × Nat)
  ue      : Table UeKey
  ueOut   : List UeMsg
  dropped : Nat
deriving DecidableEq, Repr

/-! ## Host interface, security, the rest -/

/-- A queue pair (R32 to R37). bells counts, for each doorbell write, the commands it made visible that have still to
be read (R10); stopped says that a doorbell fault stopped the pair (R34); post holds completions that wait for room; era counts the
times EN has risen (log 5). -/
structure QPair where
  sqb    : DWord
  cqb    : DWord
  en     : Bool
  err    : Bool
  cqsz   : Nat
  sqsz   : Nat
  sqhead : Nat
  sqtail : Nat
  cqtail : Nat
  cqhead : Nat
  phase  : Bool
  busy   : Bool
  stopped : Bool
  bells  : List Nat
  post   : List (BitVec 16 × Nat × Nat × DWord)
  era    : Nat := 0
deriving DecidableEq, Repr

/-- Which command copies host memory into the device (R381): IMAGE_LOAD; REQ_ADMIT, with its request, whether it is the last
command of its doorbell write, and whether its prompt has been read; CTX_IMPORT; FW_PATCH. -/
inductive XferJob where
  | image
  | prompt (req : Nat) (last read : Bool)
  | context
  | patch
deriving DecidableEq, Repr

/-- How far such a copy is (R382): its header is read, 8 zero bytes are written, its bytes are read, its last write is made. -/
inductive XferStage where
  | header | zero | body | final
deriving DecidableEq, Repr

/-- A copy of host memory into the device (R381 to R383): the command, the host address, the destination (physical where phys), the
bytes that have arrived, the reads that have not (offset and length) and when they were issued, the pieces with their routes (offset
and bytes), and the quadrants that owe an acknowledgement. -/
structure Xfer where
  owed    : Owed
  tenant  : Nat
  job     : XferJob
  cmd     : HostCmd
  host    : Nat
  dst     : Nat
  phys    : Bool
  data    : List Byte
  reads   : Table Nat
  since   : Nat
  pieces  : List (Nat × List Byte)
  owing   : NatSet
  stage   : XferStage
deriving DecidableEq, Repr

/-- A shootdown in progress (R390): id, range, chiplets that owe an acknowledgement, physical ranges to give
back, the command whose completion is owed with its result, and whether it disposes of held faults (R397). -/
structure Shootdown where
  asid  : Nat
  lo    : Nat
  hi    : Nat
  chips : NatSet
  frames : List (Nat × Nat)
  owed  : Option Owed
  result : DWord
  tenant : Nat
  dispose : Bool
deriving DecidableEq, Repr

/-- A walk in flight (R282): id, page, and who waits for it: groups, and chiplets of which an engine waits. -/
structure Walk where
  asid  : Nat
  page  : Nat
  reqs  : NatSet
  chips : NatSet
deriving DecidableEq, Repr

/-- A walk request that waits for room (R282): id, page, and the group that asked, or the chiplet of the engine that did. -/
structure WalkAsk where
  asid : Nat
  page : Nat
  ctx  : Option Nat
  chip : Nat
deriving DecidableEq, Repr

/-- An entry of the walker complex's page-walk caches (R282): id, level 1 or 2, the entry's index from the top of the
virtual address (VA [54:42] or VA [54:29]), and the table entry. -/
structure WalkEntry where
  asid  : Nat
  level : Nat
  index : Nat
  pte   : Nat
deriving DecidableEq, Repr

/-- A stamp of the race detector (R298). -/
structure Stamp where
  mask   : BitVec 32
  region : Nat
  group  : Nat
deriving DecidableEq, Repr

/-- The record of a 32-byte sector and the core whose L1 holds it (R298). -/
structure SectorRec where
  w      : Stamp
  ra     : Stamp
  rb     : Stamp
  holder : Option Nat
deriving DecidableEq, Repr

/-- A TELEMETRY counter (R43): what it counts and for whom, as the numbers that name it (log 10), and its value. -/
abbrev Counter := List Nat × Nat

/-- A latched snapshot (R409, R410): clock and source of the latch, the counters then, and which chiplets were ACTIVE. -/
structure Latch where
  clk      : Nat
  src      : Nat
  counters : List Counter
  active   : List Bool
deriving DecidableEq, Repr

/-- The common trigger and the latched snapshot (R409, R410). -/
structure Snap where
  armed   : Bool
  mask    : BitVec 5
  classes : DWord
  latched : Option Latch
deriving DecidableEq, Repr

/-- The security block (R404 to R408). -/
structure Security where
  bits     : BitVec 8
  sigFails : Nat
  tagFails : List Nat
  zeroised : Bool
  devKeys  : Bool
  imageKey : Option (List Byte)
  tempcAt  : Option Nat
  snap     : Snap
deriving DecidableEq, Repr

/-- What the fuses, the ROM and the module fix (R40, R50, R403, R406): it survives reset. -/
structure Fixed where
  offered : BitVec 128
  romVer  : Nat
  minPatch : Nat
  devFuse : List Byte
  present : BitVec 4
  linkGen : Nat
  linkWidth : Nat
  vfs     : Nat
deriving DecidableEq, Repr

/-- Telemetry counters that no other field holds (R43). -/
structure Tele where
  corrected : Nat
  lateDrop  : Nat
  raceDrop  : Nat
  hintFail  : Nat
  dlMiss    : Nat
  /-- The tenant and the address of each XLATE record that the firmware has held (R397). -/
  xlateHeld : List (Nat × Nat)
  chipFaults : Nat
deriving DecidableEq, Repr

/-- One entry of the schedule: what happens next. The spec leaves every order of these to timing (R413). -/
inductive Turn where
  /-- The running group issues the word it has reached (R252). -/
  | issue (ctx : Nat)
  /-- A device event, a host register write, or the reading of the command i at the head of its queue. -/
  | event (i : Instr)
  /-- The command processor reads a command whose OPC is not in the table (R39 item 1). -/
  | badCommand (fn q : Nat)
  /-- Clocks pass. -/
  | elapse (n : Nat)
  /-- The host writes its own memory. -/
  | hostStore (addr : Nat) (bytes : List Byte)
  /-- A load's lane reads its bytes, ahead of their landing. -/
  | performLoad (op lane : Nat)
  /-- A core's L1 drops a global line (R271). -/
  | dropLine (core line : Nat)
  /-- A core's L1 evicts a private line: its dirty words are written back (R271). -/
  | evictPrivate (core line : Nat)
  /-- A core's L1 drops a line read by instruction fetch (R271). -/
  | dropCode (core line : Nat)
  /-- Words of a command's tile shadow hold an uncorrectable error (R314). -/
  | shadowError (cmd : Nat) (words : NatSet)
  /-- A TLB drops an entry: of a core, or of a chiplet. -/
  | dropTlb (chip : Bool) (idx entry : Nat)
  /-- A page-walk cache drops an entry. -/
  | dropWalkEntry (entry : Nat)
  /-- The LLC evicts a line and with it its race records (R300). -/
  | dropRace (sector : Nat)
  /-- The links carry away the oldest packet put on them. -/
  | wireTake
  /-- The Ultra Ethernet port carries away the oldest message. -/
  | ueTake
  /-- The acknowledgement or the TORN packet with this number has reached the device it was sent to (R365). -/
  | noticeTaken (dst seq : Nat)
deriving DecidableEq, Repr

/-- The state of the device. -/
structure State where
  /-- The schedule, the model's own (log 1). -/
  turns    : List Turn
  /-- The group whose word is being executed, the model's own (log 1). -/
  cur      : Option Nat
  clk      : Nat
  freeCtr  : Nat
  nextKey  : Nat
  nextInst : Nat
  mem      : Memory
  badLines : NatSet
  taken    : List (Nat × Nat)
  hbm      : Nat
  lpddr    : Nat
  fixed    : Fixed
  chips    : Vector Chip 4
  cores    : Table Core
  pointer  : Nat
  /-- Power windows whose end has been acted on (R28). -/
  windows  : Nat
  hostMem  : Memory
  rdy      : Bool
  fatal    : Bool
  locked   : Bool
  feats    : BitVec 128
  queues   : Table (Table QPair)
  msix     : List (Nat × Nat)
  patch    : Option (Nat × List Byte)
  xfers    : Table Xfer
  tenants  : Table Tenant
  roots    : Table Nat
  images   : Table Image
  pools    : Table Pool
  plans    : Table Plan
  handles  : Table Handle
  playbook : Table PbEntry
  reqs     : Table Request
  admSeq   : Nat
  /-- Iterations formed since reset (R344). -/
  iterCtr  : Nat
  lastPlan : Nat
  launches : Table Launch
  /-- Launches of eligible tasks that wait for room in the distributor, in order (R247). -/
  taskq    : List Nat
  graphs   : Table Graph
  wgs      : Table Workgroup
  gangs    : Table Gang
  groups   : Table Group
  ops      : Table MemOp
  cmds     : Table Cmd
  /-- What engine commands without ACQ do not see of their groups' later writes (R294). -/
  hide     : List Hidden
  walks    : Table Walk
  /-- Walk requests that found 1,024 walks in flight, in arrival order (R282). -/
  walkq    : List WalkAsk
  /-- The page-walk caches (R282). -/
  walkCache : List WalkEntry
  shoots   : Table Shootdown
  race     : Table SectorRec
  fab      : Fabric
  sec      : Security
  tele     : Tele
deriving DecidableEq, Repr

/-- Why the machine stops with a fault. -/
inductive Fault where
  /-- An encoded instruction is executed while no group is the running group (State.cur). Raised by every
  meaning of an encoded instruction; safe: Machine.step issues only for a running group. -/
  | noRunningGroup
deriving DecidableEq, Repr

/-- Why an instruction has no meaning. -/
inductive Refusal where
  /-- Raised by a dispatch arm of an instruction without a meaning; safe. -/
  | notModelled (mnemonic : String)
deriving DecidableEq, Repr

/-! ## Reset -/

/-- A chiplet before its self-test (R403 step 4). -/
def Chip.reset : Chip :=
  { st := .selftest, since := 0, waiter := none, hold := 0, withheld := 0, tlb := [] }

/-- What the fuses and the ROM hold. DESIGN CHOICE (log 2). -/
def Fixed.reset : Fixed :=
  { offered := 0x3FFF#128, romVer := 1, minPatch := 0, devFuse := List.replicate 32 0#8, present := 0xF#4,
    linkGen := 7, linkWidth := 16, vfs := 32 }

/-- The fabric after reset: both banks retired, no keys, no exports (R370, R403 step 5). -/
def Fabric.reset : Fabric :=
  { devId := 0, portsUp := 0xFFFF#16, banks := [], bankSt := #v[.retired, .retired], inject := none, pairs := [],
    sent := [], wire := [], exports := [], folds := [], kept := [], xfers := [], early := [], parts := [], notices := [], unsent := [], ue := [], ueOut := [], dropped := 0 }

/-- The security block after reset (R404, R405). -/
def Security.reset : Security :=
  { bits := 0, sigFails := 0, tagFails := [], zeroised := false, devKeys := false, imageKey := none, tempcAt := none,
    snap := { armed := false, mask := 0, classes := 0, latched := none } }

/-- Telemetry after reset. -/
def Tele.reset : Tele :=
  { corrected := 0, lateDrop := 0, raceDrop := 0, hintFail := 0, dlMiss := 0, xlateHeld := [], chipFaults := 0 }

/-- The device right after reset, before the bring-up of R403 has run: DSTS reads 0, nothing is open,
resident or in flight, and memory reads zero. -/
def State.reset : State :=
  { turns := [], cur := none, clk := 0, freeCtr := 0, nextKey := 1, nextInst := 1, mem := [], badLines := [],
    taken := [], hbm := 2 ^ 39, lpddr := 3 * 2 ^ 39, fixed := Fixed.reset,
    chips := #v[Chip.reset, Chip.reset, Chip.reset, Chip.reset], cores := [], pointer := 0, windows := 0, hostMem := [],
    rdy := false, fatal := false, locked := false, feats := 0, queues := [], msix := [], patch := none, xfers := [],
    tenants := [], roots := [], images := [], pools := [], plans := [], handles := [], playbook := [], reqs := [],
    admSeq := 1, iterCtr := 0, lastPlan := 0, launches := [], taskq := [], graphs := [], wgs := [], gangs := [], groups := [],
    ops := [], cmds := [], hide := [], walks := [], walkq := [], walkCache := [], shoots := [], race := [], fab := Fabric.reset, sec := Security.reset,
    tele := Tele.reset }

end Sys2Proof.Machine
end

