-- ==== Sys2Proof/Machine/Bits.lean ====
section
/-! DEFINITION. Bit, lane and byte helpers shared by every family. -/

namespace Sys2Proof.Machine

/-- The lanes of a group in ascending order (R226). -/
def lanes16 : List Nat := [0, 1, 2, 3, 4, 5, 6, 7, 8, 9, 10, 11, 12, 13, 14, 15]

/-- The 16 lane values of f. -/
def vec16 {α : Type} (f : Nat → α) : Vector α 16 :=
  #v[f 0, f 1, f 2, f 3, f 4, f 5, f 6, f 7, f 8, f 9, f 10, f 11, f 12, f 13, f 14, f 15]

/-- The mask whose bit l is f l. -/
def bits16 (f : Nat → Bool) : BitVec 16 :=
  BitVec.ofBoolListLE [f 0, f 1, f 2, f 3, f 4, f 5, f 6, f 7, f 8, f 9, f 10, f 11, f 12, f 13, f 14, f 15]

/-- The lanes set in a mask, ascending. -/
def lanesOf (m : BitVec 16) : List Nat := lanes16.filter fun l => m.getLsbD l

/-- The number of lanes set in a mask. -/
def popCount (m : BitVec 16) : Nat := (lanesOf m).length

/-- The low n lanes. -/
def lowLanes (n : Nat) : BitVec 16 := bits16 fun l => decide (l < n)

/-- The lowest lane of a mask, 0 when it is empty. -/
def firstLane (m : BitVec 16) : Nat := (lanesOf m).headD 0

/-- n zero bytes. -/
def zeros (n : Nat) : List Byte := List.replicate n 0#8

/-- The bits lo to lo + n - 1 of a number. -/
def nfld (x lo n : Nat) : Nat := x / 2 ^ lo % 2 ^ n

/-- Bit i of a number. -/
def nbit (x i : Nat) : Bool := x / 2 ^ i % 2 == 1

/-- A Nat as a bit. -/
def b2n (b : Bool) : Nat := if b then 1 else 0

/-- a rounded up to a multiple of n. -/
def roundUp (a n : Nat) : Nat := (a + (n - 1)) / n * n

/-- The numbers lo to lo + n - 1. -/
def rangeFrom (lo n : Nat) : List Nat := (List.range n).map (lo + ·)

/-- Insert a number into a strictly rising list. -/
def nsAdd (k : Nat) : NatSet → NatSet
  | [] => [k]
  | x :: t => if k < x then k :: x :: t else if k = x then x :: t else x :: nsAdd k t

/-- Remove a number. -/
def nsDel (k : Nat) (t : NatSet) : NatSet := t.filter (· != k)

/-- Add every number of a list. -/
def nsAddAll (ks : List Nat) (t : NatSet) : NatSet := ks.foldl (fun acc k => nsAdd k acc) t

/-- The least number not in a list, from k upward, within n tries. -/
def leastFree (taken : List Nat) : Nat → Nat → Option Nat
  | _, 0 => none
  | k, n + 1 => if taken.contains k then leastFree taken (k + 1) n else some k

/-- The value of the first element that f accepts. -/
def firstSome {α β : Type} (f : α → Option β) : List α → Option β
  | [] => none
  | a :: t => match f a with
    | some b => some b
    | none => firstSome f t

/-- Split a list into blocks of n, at most k of them. -/
def blocksOf {α : Type} (n : Nat) : Nat → List α → List (List α)
  | 0, _ => []
  | k + 1, l => match l with
    | [] => []
    | _ => l.take n :: blocksOf n k (l.drop n)

/-- Insert by a Nat key, keeping the order of equal keys. -/
def insertBy {α : Type} (key : α → Nat) (a : α) : List α → List α
  | [] => [a]
  | b :: t => if key a < key b then a :: b :: t else b :: insertBy key a t

/-- Sort by a Nat key; stable. -/
def sortBy {α : Type} (key : α → Nat) (l : List α) : List α := l.foldl (fun acc a => insertBy key a acc) []

/-- The element of least key, the first such. -/
def leastBy {α : Type} (key : α → Nat) : List α → Option α
  | [] => none
  | a :: t => match leastBy key t with
    | some b => if key b < key a then some b else some a
    | none => some a

/-- The least number from k upward that a rising list lacks. -/
def lowestGap : List Nat → Nat → Nat
  | [], k => k
  | a :: t, k => if a < k then lowestGap t k else if a = k then lowestGap t (k + 1) else k

end Sys2Proof.Machine
end

