-- ==== Sys2Proof/Machine/Table.lean ====
section
/-! DEFINITION. Reading and writing sparse tables and byte memories. Both keep their keys strictly rising (logs 4 and 12). -/

namespace Sys2Proof.Machine

/-- The entry at a key. -/
def tget {α : Type} (t : Table α) (k : Nat) : Option α :=
  match t with
  | [] => none
  | (j, v) :: r => if j = k then some v else tget r k

/-- Write the entry at a key. -/
def tset {α : Type} (t : Table α) (k : Nat) (v : α) : Table α :=
  match t with
  | [] => [(k, v)]
  | (j, w) :: r => if k < j then (k, v) :: (j, w) :: r else if k = j then (k, v) :: r else (j, w) :: tset r k v

/-- Remove the entry at a key. -/
def tdel {α : Type} (t : Table α) (k : Nat) : Table α := t.filter fun e => e.1 != k

/-- Change the entry at a key, if there is one. -/
def tmod {α : Type} (t : Table α) (k : Nat) (f : α → α) : Table α :=
  t.map fun e => if e.1 = k then (e.1, f e.2) else e

/-- Change every entry. -/
def tmap {α : Type} (t : Table α) (f : Nat → α → α) : Table α := t.map fun e => (e.1, f e.1 e.2)

/-- Whether a key has an entry. -/
def thas {α : Type} (t : Table α) (k : Nat) : Bool := (tget t k).isSome

/-- The keys. -/
def tkeys {α : Type} (t : Table α) : List Nat := t.map Prod.fst

/-- The entry at a key, or a default. -/
def tgetD {α : Type} (t : Table α) (k : Nat) (d : α) : α := (tget t k).getD d

/-- The byte at an address; an address not listed reads 0 (log 4). -/
def mget (m : Memory) (a : Nat) : Byte := (tget m a).getD 0

/-- Write one byte, keeping the canonical form. -/
def mset (m : Memory) (a : Nat) (b : Byte) : Memory := if b = 0 then tdel m a else tset m a b

/-- The n bytes at an address, lowest first. -/
def mread (m : Memory) (a n : Nat) : List Byte := (List.range n).map fun i => mget m (a + i)

/-- Write bytes, lowest address first. -/
def mwrite (m : Memory) (a : Nat) (bs : List Byte) : Memory :=
  match bs with
  | [] => m
  | b :: t => mwrite (mset m a b) (a + 1) t

/-- Set n bytes at an address to 0. -/
def mclear (m : Memory) (a n : Nat) : Memory := m.filter fun e => decide (e.1 < a) || decide (a + n ≤ e.1)

/-- A little-endian value of n bytes. -/
def mreadN (m : Memory) (a n : Nat) : Nat := leNat (mread m a n)

/-- Write a value little-endian in n bytes. -/
def mwriteN (m : Memory) (a n v : Nat) : Memory := mwrite m a (natBytes n v)

/-- The non-zero bytes in a range, by offset from its start. -/
def mslice (m : Memory) (a n : Nat) : Memory :=
  (m.filter fun e => decide (a ≤ e.1) && decide (e.1 < a + n)).map fun e => (e.1 - a, e.2)

/-- Whether keys are strictly rising above lo. -/
def risesFrom {α : Type} (lo : Nat) : Table α → Bool
  | [] => true
  | (k, _) :: t => decide (lo ≤ k) && risesFrom (k + 1) t

/-- The canonical form of a table. -/
def twf {α : Type} (t : Table α) : Bool := risesFrom 0 t

/-- The canonical form of a memory: addresses strictly rising, no byte equal to what an unlisted address reads as. -/
def Memory.wf (m : Memory) : Bool := twf m && m.all fun e => e.2 != 0

end Sys2Proof.Machine
end

