-- ==== Sys2Proof/Machine/Translate.lean ====
section
/-! DEFINITION. The physical map (R23, R24), page tables (R276 to R279) and translated access. -/

namespace Sys2Proof.Machine

/-- Device control space (R24). -/
def inControl (pa : Nat) : Bool := decide (0xF000000000000 ≤ pa)

/-- A hole of the physical map (R24). -/
def inHole (pa : Nat) : Bool :=
  (decide (2 ^ 39 ≤ pa) && decide (pa < 2 ^ 40)) || (decide (0x28000000000 ≤ pa) && decide (pa < 0xF000000000000))

/-- Whether a physical address lies in LPDDR 6 (R24). -/
def inLpddr (pa : Nat) : Bool := decide (2 ^ 40 ≤ pa) && decide (pa < 0x28000000000)

/-- The quadrant of an address's home slice (R23). -/
def quadOf (pa : Nat) : Nat := pa / 2048 % 4

/-- The home slice of an address (R23). -/
def sliceOf (pa : Nat) : Nat := pa / 2048 % 64

/-- A translated page: its virtual base, size, physical base and attributes. -/
structure Leaf where
  va   : Nat
  size : Nat
  pa   : Nat
  rt   : Bool
  x    : Bool
  w    : Bool
  ch   : Bool
deriving DecidableEq, Repr

/-- What a walk gives (R278): a page, or the fault XLATE or PROT. -/
inductive Xlat where
  | page (l : Leaf)
  | xlate
  | prot
deriving DecidableEq, Repr

/-- Bits [51:16] of an entry as an address (R277). -/
def ptePa (e : Nat) : Nat := nfld e 16 36 * 65536

/-- Whether an entry is free of the XLATE conditions of R278 at its level. -/
def pteFormed (lvl e : Nat) : Bool :=
  nbit e 0 && (decide (nfld e 52 12 = 0) && decide (nfld e 6 10 = 0)) &&
    (if nbit e 1 then
      (decide (lvl = 2) || !nbit e 5) &&
        decide (ptePa e % (if lvl = 1 then 2 ^ 42 else if lvl = 2 then 2 ^ 29 else 2 ^ 16) = 0)
    else decide (lvl < 3) && decide (nfld e 2 4 = 0)) && !inHole (ptePa e)

/-- The page a leaf entry maps. -/
def leafOf (lvl va e : Nat) : Leaf :=
  let size := if lvl = 1 then 2 ^ 42 else if lvl = 2 then 2 ^ 29 else 2 ^ 16
  { va := va / size * size, size := size, pa := ptePa e, rt := nbit e 4, x := nbit e 3, w := nbit e 2, ch := nbit e 5 }

/-- One table entry of a walk; next continues at the next level's table. -/
def walkEntry (lvl va e : Nat) (next : Nat → Xlat) : Xlat :=
  if !pteFormed lvl e then .xlate
  else if inControl (ptePa e) then .prot
  else if nbit e 1 then .page (leafOf lvl va e)
  else next (ptePa e)

/-- The walk of a virtual address from a root (R276, R278), where rd gives the entry of a level at an address. -/
def walkBy (rd : Nat → Nat → Nat) (root va : Nat) : Xlat :=
  walkEntry 1 va (rd 1 (root + 8 * (va / 2 ^ 42 % 8192))) fun t2 =>
    walkEntry 2 va (rd 2 (t2 + 8 * (va / 2 ^ 29 % 8192))) fun t3 =>
      walkEntry 3 va (rd 3 (t3 + 8 * (va / 2 ^ 16 % 8192))) fun _ => .xlate

/-- The walk of a virtual address from a root, as the tables in memory give it. -/
def walkFrom (m : Memory) (root va : Nat) : Xlat := walkBy (fun _ a => mreadN m a 8) root va

/-- The walk of a virtual address of an address space; no live id, no mapping (R276). -/
def walk (s : State) (asid va : Nat) : Xlat :=
  match tget s.roots asid with
  | none => .xlate
  | some root => if va < 2 ^ 54 then walkFrom s.mem root va else .xlate

/-- The bits of a virtual address below an index of a level (R276). -/
def levelBits (level : Nat) : Nat := if level = 1 then 42 else if level = 2 then 29 else 16

/-- What the page-walk caches hold for a level of the walk of a virtual address (R282). -/
def cachedEntry (t : List WalkEntry) (asid va level : Nat) : Option Nat :=
  (t.find? fun e => decide (e.asid = asid) && decide (e.level = level) && decide (e.index = va / 2 ^ levelBits level)).map WalkEntry.pte

/-- A walk by the walker complex: level-1 and level-2 entries come from its caches where they hold them (R282). -/
def walkCached (s : State) (asid va : Nat) : Xlat :=
  match tget s.roots asid with
  | none => .xlate
  | some root =>
    let rd (l a : Nat) : Nat := if l < 3 then (cachedEntry s.walkCache asid va l).getD (mreadN s.mem a 8) else mreadN s.mem a 8
    if va < 2 ^ 54 then walkBy rd root va else .xlate

/-- One table entry of a walk enters the page-walk caches. -/
def cacheEntry (s : State) (asid va level addr : Nat) : State :=
  match cachedEntry s.walkCache asid va level with
  | some _ => s
  | none => { s with walkCache := s.walkCache ++
      [{ asid := asid, level := level, index := va / 2 ^ levelBits level, pte := mreadN s.mem addr 8 }] }

/-- What a walk leaves in the page-walk caches: the table entries above its leaf; nothing where it faulted (R280, R282). -/
def cacheWalk (s : State) (asid va : Nat) (r : Xlat) : State :=
  match tget s.roots asid, r with
  | some root, .page l =>
    if l.size = 2 ^ 42 then s
    else
      let s1 := cacheEntry s asid va 1 (root + 8 * (va / 2 ^ 42 % 8192))
      if l.size = 2 ^ 29 then s1
      else cacheEntry s1 asid va 2 (ptePa ((cachedEntry s1.walkCache asid va 1).getD 0) + 8 * (va / 2 ^ 29 % 8192))
  | _, _ => s

/-- The page-walk caches drop what a shootdown's range covers (R390 step 2). -/
def uncache (t : List WalkEntry) (asid lo hi : Nat) : List WalkEntry :=
  t.filter fun e => !(decide (e.asid = asid) && decide (e.index * 2 ^ levelBits e.level < hi) &&
    decide (lo < (e.index + 1) * 2 ^ levelBits e.level))

/-- The physical address of a virtual one, if it is mapped and grants w and x. -/
def vphys (s : State) (asid va : Nat) (w x : Bool) : Option Nat :=
  match walk s asid va with
  | .page l => if (w && !l.w) || (x && !l.x) then none else some (l.pa + (va - l.va))
  | _ => none

/-- The pages of 64 KiB that n bytes at va touch, as (address, length) pieces. -/
def pieces (va n : Nat) : Nat → List (Nat × Nat)
  | 0 => []
  | k + 1 =>
    if n = 0 then []
    else
      let len := min n (65536 - va % 65536)
      (va, len) :: pieces (va + len) (n - len) k

/-- Whether every page of a virtual range is mapped, and writable where w asks it. -/
def vrange (s : State) (asid va n : Nat) (w : Bool) : Bool :=
  (pieces va n (n / 65536 + 2)).all fun p => (vphys s asid p.1 w false).isSome

/-- Read n bytes at a virtual address, if they are mapped. -/
def vread (s : State) (asid va n : Nat) : Option (List Byte) :=
  (pieces va n (n / 65536 + 2)).foldl (fun acc p =>
    match acc, vphys s asid p.1 false false with
    | some bs, some pa => some (bs ++ mread s.mem pa p.2)
    | _, _ => none) (some [])

/-- A little-endian value at a virtual address. -/
def vreadN (s : State) (asid va n : Nat) : Option Nat := (vread s asid va n).map leNat

/-- Write bytes at a virtual address; a page not mapped is left out. -/
def vwrite (s : State) (asid va : Nat) (bs : List Byte) : State :=
  { s with mem := ((pieces va bs.length (bs.length / 65536 + 2)).foldl (fun (acc : Memory × List Byte) p =>
      match vphys s asid p.1 false false with
      | some pa => (mwrite acc.1 pa (acc.2.take p.2), acc.2.drop p.2)
      | none => (acc.1, acc.2.drop p.2)) (s.mem, bs)).1 }

/-! ## TLBs (R280, R281) -/

/-- A core with nothing in it. -/
def Core.empty : Core :=
  { pword := 0, l1 := [], priv := [], code := [], tlb := [], slots := [], lz := [], chains := [], score := 0, left := [] }

/-- A core's state. -/
def coreOf (s : State) (c : Nat) : Core := tgetD s.cores c Core.empty

/-- The entry of a TLB that maps an address. -/
def tlbFind (t : List TlbEntry) (asid va : Nat) : Option TlbEntry :=
  t.find? fun e => decide (e.asid = asid) && decide (e.va ≤ va) && decide (va < e.va + e.size)

/-- The entry a page gives (R280). -/
def entryOf (asid : Nat) (l : Leaf) : TlbEntry :=
  { asid := asid, va := l.va, size := l.size, pa := l.pa, rt := l.rt, x := l.x, w := l.w }

/-- The leaf that a hint group makes of a 512 MiB leaf with CH (R279): none where the four entries of its 2 GiB range do not
meet the rule. -/
def hintGroup (s : State) (asid : Nat) (l : Leaf) : Option Leaf :=
  let base := l.va / 2 ^ 31 * 2 ^ 31
  match walkCached s asid base with
  | .page a =>
    let fits (i : Nat) : Bool := match walkCached s asid (base + i * 2 ^ 29) with
      | .page b => decide (b.size = 2 ^ 29) && b.ch && b.rt == a.rt && b.x == a.x && b.w == a.w && decide (b.pa = a.pa + i * 2 ^ 29)
      | _ => false
    if decide (a.pa % 2 ^ 31 = 0) && (List.range 4).all fits then some { a with size := 2 ^ 31 } else none
  | _ => none

/-- The entry that a completed walk enters in the TLBs, and the state with a hint group that fails counted (R279, R280). The
TLBs may hold a hint group as one entry, and in the model they do. -/
def walkEnters (s : State) (asid : Nat) (l : Leaf) : TlbEntry × State :=
  if l.ch && decide (l.size = 2 ^ 29) then match hintGroup s asid l with
    | some g => (entryOf asid g, s)
    | none => (entryOf asid l, { s with tele := { s.tele with hintFail := s.tele.hintFail + 1 } })
  else (entryOf asid l, s)

/-- Enter a translation in a fully associative TLB of n entries: a full one gives up the entry the device chose. -/
def tlbFill (t : List TlbEntry) (n victim : Nat) (e : TlbEntry) : List TlbEntry :=
  if t.contains e then t
  else if t.length < n then t ++ [e]
  else (t.eraseIdx (victim % n)) ++ [e]

/-- The set of a last-level TLB in which an entry stands (R280). DESIGN CHOICE (log 53): the page number, by the entry's own
size, modulo 1,024. -/
def tlbSet (e : TlbEntry) : Nat := e.va / e.size % 1024

/-- Enter a translation in a last-level TLB, 1,024 sets of 8 ways (R280): a full set gives up the entry the device chose. -/
def setFill (t : List TlbEntry) (victim : Nat) (e : TlbEntry) : List TlbEntry :=
  let mine := t.filter fun x => decide (tlbSet x = tlbSet e)
  if t.contains e then t
  else if mine.length < 8 then t ++ [e]
  else (t.filter fun x => decide (mine[victim % 8]? ≠ some x)) ++ [e]

/-- The chiplet of a core (R19). -/
def chipOf (core : Nat) : Nat := core / 64

/-- Fill a chiplet's last-level TLB. -/
def fillChip (s : State) (chip victim : Nat) (e : TlbEntry) : State := match s.chips[chip]? with
  | some k => { s with chips := s.chips.setIfInBounds chip { k with tlb := setFill k.tlb victim e } }
  | none => s

/-- What a chiplet's last-level TLB holds for an address. -/
def chipFind (s : State) (core asid va : Nat) : Option TlbEntry :=
  (s.chips[chipOf core]?).bind fun k => tlbFind k.tlb asid va

/-- The page a TLB entry stands for. -/
def entryLeaf (e : TlbEntry) : Leaf := { va := e.va, size := e.size, pa := e.pa, rt := e.rt, x := e.x, w := e.w, ch := false }

/-- How an engine of a core translates (R281): by its chiplet's last-level TLB, else by the walker. DESIGN CHOICE (log 53):
no time passes during an engine's walk. -/
def engWalk (s : State) (core asid va : Nat) : Xlat :=
  match chipFind s core asid va with
  | some e => .page (entryLeaf e)
  | none => walkCached s asid va

/-- What a walk leaves behind: the page-walk caches, and the entry of a chiplet's TLB. -/
def walkFill (s : State) (core asid va : Nat) (l : Leaf) : State :=
  let r := walkEnters (cacheWalk s asid va (.page l)) asid l
  fillChip r.2 (chipOf core) 0 r.1

/-- What an engine's translation of one address leaves in the chiplet's TLB and the page-walk caches. -/
def engFill (s : State) (core asid va : Nat) : State :=
  match chipFind s core asid va, walkCached s asid va with
  | none, .page l => walkFill s core asid va l
  | _, _ => s

/-- Whether an engine's access must wait for the walker (R282): a page of it misses in the chiplet's TLB while a walk of that page
is in flight, which its request joins, or while 1,024 walks are. -/
def engBlocked (s : State) (core asid va n : Nat) : Bool :=
  !s.walks.isEmpty && (pieces va n (n / 65536 + 2)).any fun p => (chipFind s core asid p.1).isNone &&
    (decide (1024 ≤ s.walks.length) || s.walks.any fun w => decide (w.2.asid = asid) && decide (w.2.page = p.1 / 65536))

/-- A walk request reaches the walker complex (R282): it joins the walk in flight for the page, starts one, or with 1,024 in flight
waits in arrival order. -/
def sendWalk (s : State) (q : WalkAsk) : State :=
  let ctxs := q.ctx.toList
  let chips := if q.ctx.isNone then [q.chip] else []
  match s.walks.find? fun w => decide (w.2.asid = q.asid) && decide (w.2.page = q.page) with
  | some w => { s with walks := tset s.walks w.1 { w.2 with reqs := nsAddAll ctxs w.2.reqs, chips := nsAddAll chips w.2.chips } }
  | none =>
    if s.walks.length < 1024 then
      { s with nextKey := s.nextKey + 1
               walks := tset s.walks s.nextKey { asid := q.asid, page := q.page, reqs := ctxs, chips := chips } }
    else { s with walkq := s.walkq ++ [q] }

/-- Waiting requests enter the walker complex as far as there is room, n at most. -/
def admitWalks (s : State) : Nat → State
  | 0 => s
  | n + 1 => match s.walkq with
    | [] => s
    | q :: t => if s.walks.length < 1024 then admitWalks (sendWalk { s with walkq := t } q) n else s

/-- An engine whose access must wait for the walker asks for the pages that keep it waiting, each once (R282). -/
def engAsk (s : State) (core asid va n : Nat) : State :=
  (pieces va n (n / 65536 + 2)).foldl (fun t p =>
    let q : WalkAsk := { asid := asid, page := p.1 / 65536, ctx := none, chip := chipOf core }
    if engBlocked t core asid p.1 1 && !t.walkq.contains q then sendWalk t q else t) s

/-- The physical address that an engine of a core reaches. -/
def engPhys (s : State) (core asid va : Nat) : Option Nat := match engWalk s core asid va with
  | .page l => some (l.pa + (va - l.va))
  | _ => none

/-- n bytes at a virtual address as an engine of a core reads them. -/
def engBytes (s : State) (core asid va n : Nat) : List Byte :=
  (pieces va n (n / 65536 + 2)).flatMap fun p => match engPhys s core asid p.1 with
    | some pa => mread s.mem pa p.2
    | none => []

/-- A little-endian value as an engine of a core reads it. -/
def engN (s : State) (core asid va n : Nat) : Nat := leNat (engBytes s core asid va n)

/-- An engine of a core has translated the pages of n bytes. -/
def engTouch (s : State) (core asid va n : Nat) : State :=
  (pieces va n (n / 65536 + 2)).foldl (fun t p => engFill t core asid p.1) s

/-! ## Instruction fetch (R107, R275, R278) -/

/-- How a core's instruction fetch translates: by its L1 TLB, its chiplet's last-level TLB, or the walker. -/
def fetchXlat (s : State) (core asid va : Nat) : Xlat :=
  match tlbFind (coreOf s core).tlb asid va with
  | some e => .page (entryLeaf e)
  | none => engWalk s core asid va

/-- The bytes of a fetched word: of the line that the core's L1 holds for its address space, else of memory. -/
def fetchBytes (s : State) (core asid pa : Nat) : List Byte :=
  match (tget s.cores core).bind fun k => tget k.code (pa / 128) with
  | some l => if l.asid = asid then (l.data.drop (pa % 128)).take 4 else mread s.mem pa 4
  | none => mread s.mem pa 4

/-- The 32-bit word at an executable address, as a core's instruction fetch reads it. -/
def fetchWord (s : State) (core asid va : Nat) : Option Word :=
  if va % 4 = 0 then
    match fetchXlat s core asid va with
    | .page l => if l.x then some (BitVec.ofNat 32 (leNat (fetchBytes s core asid (l.pa + (va - l.va))))) else none
    | _ => none
  else none

end Sys2Proof.Machine
end

