-- ==== Sys2Proof/Machine/Commit.lean ====
section
/-! DEFINITION. Writes that commit at a home slice (R272, R274, R294). -/

namespace Sys2Proof.Machine

/-- The 128-byte lines that n bytes at a touch. -/
def linesOf (a n : Nat) : List Nat := if n = 0 then [] else rangeFrom (a / 128) ((a + n - 1) / 128 - a / 128 + 1)

/-- The lines that a core's L1 keeps of those it has fetched when a write to lines ls commits (R275): a line written while no launch
of the address space that fetched it runs is dropped; while one runs, a later fetch reads the old word until the line is dropped. -/
def keepCode (s : State) (ls : List Nat) (t : Table CodeLine) : Table CodeLine :=
  t.filter fun e => !ls.contains e.1 || s.launches.any fun l => decide (l.2.asid = e.2.asid)

/-- What stays hidden from commands once n bytes at an address have been written; mine says which commands name this place. -/
def hideLeft (s : State) (spad : Bool) (mine : Nat → Bool) (a n : Nat) : List Hidden :=
  s.hide.filter fun h => !(h.spad == spad && decide (a ≤ h.addr) && decide (h.addr < a + n) && mine h.cmd)

/-- Bytes commit at their home slice: other cores' L1 copies go, and a line written whole loses its poison (R272, R274). -/
def commitBytes (s : State) (own : Option Nat) (pa : Nat) (bs : List Byte) : State :=
  let ls := linesOf pa bs.length
  { s with
    mem := mwrite s.mem pa bs
    hide := hideLeft s false (fun _ => true) pa bs.length
    badLines := s.badLines.filter fun l => !(decide (pa ≤ 128 * l) && decide (128 * l + 128 ≤ pa + bs.length))
    cores := tmap s.cores fun c k => { k with l1 := if some c = own then k.l1 else k.l1.filter fun l => !ls.contains l
                                              code := keepCode s ls k.code } }

/-- Bytes commit at translated addresses; a page not mapped is left out. -/
def commitVirt (s : State) (own : Option Nat) (asid va : Nat) (bs : List Byte) : State :=
  ((pieces va bs.length (bs.length / 65536 + 2)).foldl (fun (acc : State × List Byte) p =>
    match vphys acc.1 asid p.1 false false with
    | some pa => (commitBytes acc.1 own pa (acc.2.take p.2), acc.2.drop p.2)
    | none => (acc.1, acc.2.drop p.2)) (s, bs)).1

end Sys2Proof.Machine
end

