-- ==== Sys2Proof/Machine/Groups.lean ====
section
/-! DEFINITION. Groups as resident state and as continuation records (R228 to R237): sizes, storage,
flags, readiness, and the launch a group belongs to. -/

namespace Sys2Proof.Machine

/-! ## The partition word (R55, R26) -/

/-- Register file units. -/
def pwRf (w : Word) : Nat := nfld w.toNat 0 6
/-- Scratchpad units. -/
def pwSp (w : Word) : Nat := nfld w.toNat 6 6
/-- Accumulator units. -/
def pwAcc (w : Word) : Nat := nfld w.toNat 12 6
/-- Dugout units. -/
def pwDug (w : Word) : Nat := nfld w.toNat 18 6

/-- A descriptor of zeros, for lookups that cannot fail in a reachable state. -/
def Desc.zero : Desc :=
  { image := 0, entry := 0, pword := 0, threads := 0, gang := 1, cls := 0, det := false, gx := 1, gy := 1, gz := 1,
    prio := 0, acc := 0, spad := 0, priv := 0, spillA := 0, spillN := 0, param := 0, trap := 0, task := 0,
    privA := 0, winA := 0 }

/-- Replace a core. -/
def setCore (s : State) (c : Nat) (k : Core) : State := { s with cores := tset s.cores c k }

/-- The descriptor of a launch. -/
def descOf (s : State) (l : Nat) : Desc := match tget s.launches l with
  | some k => k.desc
  | none => Desc.zero

/-- The id by which software knows a launch: the one LAUNCH returned, kept in a context image (R65). -/
def launchId (s : State) (l : Nat) : Nat := match tget s.launches l with
  | some k => k.ident
  | none => l

/-- The tenant of a launch. -/
def tenantOf (s : State) (l : Nat) : Nat := match tget s.launches l with
  | some k => k.tenant
  | none => 0

/-- The address space of a launch. -/
def asidOf (s : State) (l : Nat) : Nat := match tget s.launches l with
  | some k => k.asid
  | none => 0

/-- The workgroup at a key, if it is on a core or in an image. -/
def wgOf (s : State) (w : Nat) : Option Workgroup := tget s.wgs w

/-- The linear index of a workgroup, 0xFFFF_FFFF for a handler group (R393). -/
def wgLin (s : State) (w : Nat) : Nat := match tget s.wgs w with
  | some k => if k.handler.isSome then 2 ^ 32 - 1 else k.lin
  | none => 0

/-- Threads of a workgroup. -/
def wgThreads (s : State) (w : Nat) : Nat := match tget s.wgs w with
  | some k => k.threads
  | none => 0

/-- Whether a feature bit is accepted (R41). -/
def featOn (s : State) (b : Nat) : Bool := s.feats.getLsbD b

/-! ## Registers -/

/-- The footprint: how many v names hold a physical register (R228). -/
def footprint (g : Group) : Nat := (g.v.toList.filter Option.isSome).length

/-- Whether a group is in a slot. -/
def inSlot (g : Group) : Bool := decide (g.res = .running) || decide (g.res = .held)

/-- Whether a group takes up a slot and its registers: it is in one, or it is a join part that found no room for its record (R234). -/
def takesSlot (g : Group) : Bool := inSlot g || decide (g.store = .slot)

/-- The group in a slot of a core; of the join parts that one group became, the first. -/
def slotGroup (s : State) (core part slot : Nat) : Option Group :=
  (s.groups.find? fun e => takesSlot e.2 && decide (e.2.core = core) && decide (e.2.part = part) && decide (e.2.slot = slot)).map Prod.snd

/-- The physical registers in use in a lane pipe (R226, R228). -/
def pipeUsed (s : State) (core part pipe : Nat) : Nat :=
  [2 * pipe, 2 * pipe + 1].foldl (fun n q => n + ((slotGroup s core part q).map footprint).getD 0) 0

/-- The registers a lane pipe of a core holds (R228). -/
def pipeSize (s : State) (core : Nat) : Nat := 8 * pwRf (coreOf s core).pword

/-- Both words of a g register among the poison bits (R242). -/
def gWords (n : Nat) : BitVec 64 := BitVec.ofNat 64 (3 * 4 ^ n)

/-- Whether some word of a g register is poisoned. -/
def gBad (g : Group) (n : Nat) : Bool := g.gpoison &&& gWords n != 0

/-- Free registers of the lane pipe under a slot. -/
def pipeFree (s : State) (core part slot : Nat) : Nat := pipeSize s core - pipeUsed s core part (slot / 2)

/-- A register newly allocated: zero, no poison (R91, R103). -/
def freshReg (tag : Nat) : VReg := { tag := tag, w := vec16 fun _ => 0, poison := 0 }

/-- Threads of the lanes in a mask. -/
def tidsOf (g : Group) (m : BitVec 16) : List Nat := (lanesOf m).map fun l => (g.tids.getD l 0).toNat

/-- The lowest %tid a group holds. -/
def tidLo (g : Group) : Nat := ((tidsOf g g.alive).min?).getD 0

/-! ## Records (R231 to R234) -/

/-- Code of a cause (R231). -/
def causeCode : Cause → Nat
  | .wait => 0
  | .flagcap => 1
  | .walk => 2
  | .regs => 3
  | .check => 4
  | .spawn => 5
  | .join => 6
  | .preempt => 7
  | .fault => 8

/-- g registers owed a result (R232). -/
def owedG (s : State) (c : Nat) : List Nat :=
  ((s.ops.filter fun e => e.2.ctx = c).filterMap fun e => e.2.gdst) ++
    ((s.cmds.filter fun e => e.2.ctx = c && !e.2.ended).filterMap fun e => e.2.resG)

/-- LIVEG as the list of register numbers. -/
def liveG (s : State) (c : Nat) (g : Group) : List Nat :=
  (List.range 32).filter fun n => n != 0 && (g.g.getD n 0 != 0 || (owedG s c).contains n || g.liveg.getLsbD n)

/-- LIVEV as the list of register numbers. -/
def liveV (g : Group) : List Nat := (List.range 64).filter fun n => (g.v.getD n none).isSome

/-- A set of numbers as a mask. -/
def maskNat (l : List Nat) : Nat := (l.eraseDups).foldl (fun m n => m + 2 ^ n) 0

/-- A group as its record is written: what is live in it then stays so (R232, R235). -/
def asRecord (s : State) (c : Nat) (g : Group) : Group :=
  { g with liveg := BitVec.ofNat 32 (maskNat (liveG s c { g with liveg := 0 })) }

/-- The size of a group's record in bytes (R233). -/
def recordSize (s : State) (c : Nat) (g : Group) : Nat :=
  64 + 64 * (liveV g).length + roundUp (8 * (liveG s c g).length) 64 + 64

/-- The bytes of a register's block. -/
def vblock (r : Option VReg) : List Byte := match r with
  | none => zeros 64
  | some x => x.w.toList.flatMap fun w => natBytes 4 w.toNat

/-- The bytes of a group's record (R232, R233). -/
def recordBytes (s : State) (c : Nat) (g : Group) : List Byte :=
  let lg := liveG s c g
  natBytes 8 g.pc.toNat ++ natBytes 1 g.coff ++ natBytes 1 g.repi ++ natBytes 2 g.exec.toNat ++
    natBytes 2 g.alive.toNat ++ natBytes 2 (if g.cause = .wait then g.waitm.toNat else 0) ++
    natBytes 4 g.mood.toNat ++ natBytes 4 g.prog.toNat ++ natBytes 4 (wgLin s g.wg) ++
    natBytes 1 (causeCode g.cause + 16 * (if g.cause = .flagcap then g.arg else 0)) ++ natBytes 1 (b2n g.home) ++
    zeros 2 ++ g.flags.toList.map (fun f => BitVec.ofNat 8 (f.count + 64 * b2n f.err)) ++
    natBytes 4 (maskNat lg) ++ natBytes 8 (maskNat (liveV g)) ++
    natBytes 8 (maskNat ((liveV g).filter fun n => match g.v.getD n none with
      | some r => r.poison != 0
      | none => false)) ++
    (liveV g).flatMap (fun n => vblock (g.v.getD n none)) ++
    (lg.flatMap (fun n => natBytes 8 (g.g.getD n 0).toNat)) ++
    zeros (roundUp (8 * lg.length) 64 - 8 * lg.length) ++
    g.p.toList.flatMap (fun p => natBytes 2 p.toNat) ++
    lanes16.flatMap (fun l => natBytes 2 (if g.alive.getLsbD l then (g.tids.getD l 0).toNat else 0)) ++ zeros 16

/-- The size of a spill cell (R234). -/
def cellSize : Nat := 4480

/-- Virtual address of a launch's spill cell (R234). -/
def cellVa (s : State) (launch k : Nat) : Nat := (descOf s launch).spillA + cellSize * k

/-- What of a record's bytes has to be written where its cell already holds the record as it was: only the bytes that change (R235). -/
def changedBytes (old new : List Byte) : List (Nat × List Byte) :=
  if old.length ≠ new.length then [(0, new)]
  else ((new.zip old).zipIdx.filter fun e => e.1.1 != e.1.2).map fun e => (e.2, [e.1.1])

/-- Write a spilled record into its cell: the whole of it, or what changes in it (R234, R235); a group in a slot has no record. -/
def mirrorSpill (s : State) (old : List Byte) (c : Nat) (g : Group) : State := match inSlot g, g.store with
  | false, .spill k => (changedBytes old (recordBytes s c g)).foldl (fun t e =>
      commitVirt t none (asidOf s g.launch) (cellVa s g.launch k + e.1) e.2) s
  | _, _ => s

/-- The bytes of the record that a spilled group has in its cell. -/
def cellRecord (s : State) (c : Nat) : List Byte := match tget s.groups c with
  | some g => match inSlot g, g.store with
    | false, .spill _ => recordBytes s c g
    | _, _ => []
  | none => []

/-- Store a group; a spilled record is written to its cell as well. -/
def putGroup (s : State) (c : Nat) (g : Group) : State :=
  mirrorSpill { s with groups := tset s.groups c g } (cellRecord s c) c g

/-- 64-byte dugout blocks in use on a core (R234). -/
def dugoutUsed (s : State) (core : Nat) : Nat :=
  s.groups.foldl (fun n e => match e.2.store with
    | .dugout b => if e.2.core = core then n + b else n
    | _ => n) 0

/-- Dugout blocks free on a core. -/
def dugoutFree (s : State) (core : Nat) : Nat := 1024 * pwDug (coreOf s core).pword - dugoutUsed s core

/-- Spill cells of a launch in use. -/
def cellsUsed (s : State) (launch : Nat) : List Nat :=
  s.groups.filterMap fun e => match e.2.store with
    | .spill k => if e.2.launch = launch then some k else none
    | _ => none

/-- Where a record of a group would go: dugout, else the lowest free spill cell (R234). -/
def placeRecord (s : State) (c : Nat) (g : Group) : Option Store :=
  let n := recordSize s c g / 64
  if n ≤ dugoutFree s g.core then some (.dugout n)
  else match leastFree (cellsUsed s g.launch) 0 ((descOf s g.launch).spillN / cellSize) with
    | some k => some (.spill k)
    | none => none

/-! ## Records in spill cells as they are read again (R234, R237, R243) -/

/-- How many bits below n are set in a mask: the place of block n among those of a record. -/
def blocksBelow (m n : Nat) : Nat := ((List.range n).filter (nbit m)).length

/-- A group with the fields of a record's bytes (R232, R233, R237). What check bits hold stays: poison; and bad says which bytes lie in
a poisoned line, whose words land poisoned (R243). -/
def unpackRecord (g : Group) (bs : List Byte) (bad : Nat → Bool) : Group :=
  let f (o n : Nat) : Nat := leNat ((bs.drop o).take n)
  let lg := f 44 4
  let lv := f 48 8
  let gAt := 64 + 64 * blocksBelow lv 64
  let lanesAt := gAt + roundUp (8 * blocksBelow lg 32) 64
  let alive : BitVec 16 := BitVec.ofNat 16 (f 12 2)
  { g with
    pc := BitVec.ofNat 64 (f 0 8), coff := f 8 1 % 64, repi := f 9 1 % 64, exec := BitVec.ofNat 16 (f 10 2), alive := alive
    mood := BitVec.ofNat 32 (f 16 4), prog := BitVec.ofNat 32 (f 20 4), home := nbit (f 29 1) 0
    flags := g.flags.mapIdx fun i _ => { count := f (32 + i) 1 % 64, err := nbit (f (32 + i) 1) 6 }
    v := g.v.mapIdx fun n old =>
      if nbit lv n then
        let at_ := 64 + 64 * blocksBelow lv n
        let r := old.getD (freshReg g.hbKey)
        some { r with w := vec16 fun l => BitVec.ofNat 32 (f (at_ + 4 * l) 4)
                      poison := bits16 fun l => r.poison.getLsbD l || bad (at_ + 4 * l) }
      else none
    g := g.g.mapIdx fun n _ => if nbit lg n then BitVec.ofNat 64 (f (gAt + 8 * blocksBelow lg n) 8) else 0
    gpoison := (List.range 32).foldl (fun m n =>
      let at_ := gAt + 8 * blocksBelow lg n
      if nbit lg n then m ||| (if bad at_ then BitVec.ofNat 64 (2 ^ (2 * n)) else 0) ||| (if bad (at_ + 4) then BitVec.ofNat 64 (2 ^ (2 * n + 1)) else 0)
      else m) g.gpoison
    p := g.p.mapIdx fun i _ => BitVec.ofNat 16 (f (lanesAt + 2 * i) 2)
    tids := g.tids.mapIdx fun l t => if alive.getLsbD l then BitVec.ofNat 12 (f (lanesAt + 16 + 2 * l) 2) else t }

/-- A record as it relaunches: a spilled one is read from its cell (R234); none where the header or the lane block holds an
uncorrectable error (R243). -/
def reloadRecord (s : State) (c : Nat) (g : Group) : Option Group := match g.store with
  | .spill k =>
    let asid := asidOf s g.launch
    let va := cellVa s g.launch k
    let bad (o : Nat) : Bool := match vphys s asid (va + o) false false with
      | some pa => s.badLines.contains (pa / 128)
      | none => false
    let n := recordSize s c g
    if bad 0 || bad (n - 64) then none
    else match vread s asid va n with
      | some bs => some (unpackRecord g bs bad)
      | none => some g
  | _ => some g

/-! ## Flags and readiness (R60, R231) -/

/-- The pending count of a flag. -/
def flagCount (g : Group) (f : Nat) : Nat := (g.flags.getD f { count := 0, err := false }).count

/-- Change one flag. -/
def modFlag (g : Group) (f : Nat) (h : Flag → Flag) : Group :=
  { g with flags := g.flags.mapIdx fun i x => if i = f then h x else x }

/-- A long-latency instruction is issued: its flag counts one more. -/
def incFlag (g : Group) (f : Nat) : Group := modFlag g f fun x => { x with count := x.count + 1 }

/-- A completion: one fewer, and FLAGERR on an error. -/
def decFlag (g : Group) (f : Nat) (err : Bool) : Group :=
  modFlag g f fun x => { count := x.count - 1, err := x.err || err }

/-- Whether some flag of a mask has a pending count above zero. -/
def anyPending (g : Group) (m : BitVec 12) : Bool :=
  (List.range 12).any fun f => m.getLsbD f && decide (0 < flagCount g f)

/-- Whether any flag is pending. -/
def somePending (g : Group) : Bool := anyPending g (BitVec.allOnes 12)

/-- Whether a waiting record's condition holds (R231). -/
def condHolds (g : Group) : Bool := match g.cause with
  | .wait => !anyPending g g.waitm
  | .flagcap => decide (flagCount g g.arg ≤ 62)
  | .walk => g.answered
  | .check => g.answered
  | .regs => true
  | .spawn => true
  | .join => false
  | .preempt => false
  | .fault => false

/-- A waiting record whose condition holds becomes ready. -/
def refresh (clk : Nat) (g : Group) : Group :=
  if g.res = .waiting && condHolds g then { g with res := .ready, readyAt := clk } else g

/-- Change a group, if it exists, and let its record become ready if its condition now holds. -/
def modGroup (s : State) (c : Nat) (f : Group → Group) : State := match tget s.groups c with
  | some g => putGroup s c (refresh s.clk (f g))
  | none => s

/-- Close the group's region and open the next (R297). -/
def closeRegion (s : State) (g : Group) : State × Group :=
  if g.region + 1 < 2 ^ 32 then (s, { g with region := g.region + 1 })
  else ({ s with nextInst := s.nextInst + 1 }, { g with inst := s.nextInst, region := 0 })

/-! ## The common trigger (R409) -/

/-- Clocks of a power window (R28). -/
def windowClk : Nat := 1200000

/-- Of the first n clocks of a window, those that level h withholds (R28). -/
def clocksHeld (h n : Nat) : Nat := n / 64 * h + min (n % 64) h

/-- The clocks withheld so far in the running window, of an ACTIVE chiplet (R28). -/
def heldSoFar (s : State) (k : Chip) : Nat :=
  if k.st = .active then clocksHeld k.hold (min windowClk (s.clk - s.windows * windowClk)) else 0

/-- Counters of one name, numbered from 0. -/
def series (name : List Nat) (vs : List Nat) : List Counter := vs.zipIdx.map fun e => (name ++ [e.2], e.1)

/-- The bandit values of a plan under its tenant, id, class and template: the step count, the reward sum, the histogram's 17 bins
(R363). -/
def banditValues (i : Nat) (p : Plan) : List Counter :=
  p.bandit.flatMap fun k => k.2.flatMap fun a =>
    series [10, p.tenant, i, k.1, a.1] ([a.2.n, a.2.s.toNat] ++ (List.range 17).map fun b => tgetD a.2.hist b 0)

/-- The counters and the LASTACC values of a pool, under its tenant and id (R322, R325). -/
def poolCounters (i : Nat) (p : Pool) : List Counter :=
  series [8, p.tenant, i] [p.ctr.alloc, p.ctr.freed, p.ctr.cow, p.ctr.evict, p.ctr.abandon, p.ctr.fetch] ++
    p.frames.map fun x => ([11, p.tenant, i, x.1], x.2.lastacc)

/-- The tenant of a Playbook index (R332). -/
def sliceOwner (s : State) (i : Nat) : Nat := match s.tenants.find? fun e => e.2.slices.contains (i / 64) with
  | some e => e.1
  | none => 0

/-- The TELEMETRY counters, each under its name, in one fixed order (log 10): withheld clocks (R28), the device's own counts, then by
tenant the pools' counters with LASTACC (R322, R325), COLLIDE, the plans' bandit values (R363) and LASTHIT (R325). -/
def counters (s : State) : List Counter :=
  series [0] (s.chips.toList.map fun k => k.withheld + heldSoFar s k) ++
    series [1] [s.tele.corrected, s.tele.lateDrop, s.tele.raceDrop, s.tele.hintFail, s.tele.dlMiss, s.tele.chipFaults, s.fab.dropped] ++
    s.pools.flatMap (fun e => poolCounters e.1 e.2) ++ s.tenants.map (fun e => ([9, e.1], e.2.collide)) ++
    s.plans.flatMap (fun e => banditValues e.1 e.2) ++ s.playbook.map fun e => ([12, sliceOwner s e.1, e.1], e.2.lasthit)

/-- A source of the common trigger asserts: an armed one fires once and disarms; of sources in one clock the lowest is SRC. -/
def fireSnap (s : State) (src : Nat) : State :=
  let n := s.sec.snap
  if n.armed && n.mask.getLsbD src then
    { s with sec := { s.sec with snap := { n with
        armed := false, latched := some { clk := s.clk, src := src, counters := counters s, active := s.chips.toList.map fun c => decide (c.st = .active) } } } }
  else match n.latched with
    | some x =>
      if x.clk = s.clk && n.mask.getLsbD src && decide (src < x.src) && !n.armed then
        { s with sec := { s.sec with snap := { n with latched := some { x with src := src } } } }
      else s
    | none => s

/-- A fault record of a CODE is written: source 2. -/
def snapOnFault (s : State) (code : Nat) : State :=
  if s.sec.snap.classes.getLsbD code then fireSnap s 2 else s

/-! ## Fault records (R393, R394) -/

/-- Enter a record in a launch's fault queue, or let it wait when 64 are there; a LATE record is then dropped. -/
def enterRecord (s0 : State) (l : Nat) (r : FaultRec) : State :=
  let s := snapOnFault s0 r.code
  match tget s.launches l with
  | none => s
  | some k =>
    if k.fq.length < 64 then
      { s with launches := tset s.launches l { k with fq := k.fq ++ [{ r with seq := k.fseq }], fseq := k.fseq + 1 } }
    else if r.kind = 3 then
      { s with launches := tset s.launches l { k with faulted := true }
               tele := { s.tele with lateDrop := s.tele.lateDrop + 1 } }
    else { s with launches := tset s.launches l { k with fwait := k.fwait ++ [r] } }

/-- Whether a core's chiplet fences: nothing is delivered to it any more (R387). -/
def fenced (s : State) (core : Nat) : Bool := match s.chips[core / 64]? with
  | some k => decide (k.st = .fencing)
  | none => false

/-- Remove the record at the head of a launch's queue; one that waits enters it. -/
def popRecord (k : Launch) : Launch := match k.fwait with
  | [] => { k with fq := k.fq.drop 1 }
  | r :: t => { k with fq := k.fq.drop 1 ++ [{ r with seq := k.fseq }], fwait := t, fseq := k.fseq + 1 }

/-- Remove the record with a sequence number. -/
def dropRecord (k : Launch) (seq : Nat) : Launch :=
  let fq := k.fq.filter fun r => r.seq != seq
  match k.fwait with
  | [] => { k with fq := fq }
  | r :: t => if fq.length < 64 then { k with fq := fq ++ [{ r with seq := k.fseq }], fwait := t, fseq := k.fseq + 1 }
              else { k with fq := fq }

/-- A LATE record (KIND 3, CODE 32): instruction word and class in bytes 64 to 68. -/
def lateRecord (s : State) (launch wg : Nat) (at_ : Site) (word : Word) (cls : Nat) : FaultRec :=
  { seq := 0, pc := at_.pc, code := 32, kind := 3, coff := at_.coff, repi := at_.repi, lane := none, chain := 0, addr := 0, va := 0,
    launch := launch, wglin := wgLin s wg, tidlo := at_.tidlo, task := (descOf s launch).task,
    ext := mwriteN (mwriteN [] 64 4 word.toNat) 68 1 cls, ctx := none, cmd := none, heldAt := s.clk, fw := false }

/-- A completion of an accepted instruction of a group: the flag, or after the group has finished an
error record of the class (R111, R235). -/
def completeFlag (s : State) (ctx launch wg : Nat) (at_ : Site) (word : Word) (f : Nat) (err : Bool) (cls : Nat) : State :=
  match tget s.groups ctx with
  | some g => putGroup s ctx (refresh s.clk (decFlag g f err))
  | none => if err then enterRecord s launch (lateRecord s launch wg at_ word cls) else s

/-- The code of a trap (R392). -/
def trapCode : TrapCode → Nat
  | .illop => 1
  | .illopnd => 2
  | .illtype => 3
  | .btgt => 4
  | .pend => 5
  | .unwr => 6
  | .misalign => 7
  | .spbound => 8
  | .xlate => 9
  | .prot => 10
  | .handle => 11
  | .fmtdiv => 12
  | .membr => 13
  | .mmrace => 14
  | .cqov => 15
  | .eccu => 16
  | .sloterr => 17
  | .user => 18

/-- The clause offset of the word a group executes: the repeated word under a prefix (R97, R393). -/
def wordOff (g : Group) : Nat := if g.rep.isSome then g.coff + 1 else g.coff

/-- The address of the word a group executes. -/
def wordAddr (g : Group) : DWord := g.pc + BitVec.ofNat 64 (4 * wordOff g)

/-- Where the word a group executes stands. -/
def siteOf (g : Group) : Site := { pc := wordAddr g, coff := wordOff g, repi := g.repi, tidlo := tidLo g }

/-- A precise record of a group (R393). -/
def preciseRecord (s : State) (c : Nat) (g : Group) (t : TrapCode) (lane : Option Nat) (addr : DWord) (ext : Memory) : FaultRec :=
  { seq := 0, pc := wordAddr g, code := trapCode t, kind := 0, coff := wordOff g, repi := g.repi, lane := lane,
    chain := 0, addr := addr, va := addr.toNat, launch := g.launch, wglin := wgLin s g.wg, tidlo := tidLo g,
    task := (descOf s g.launch).task, ext := ext, ctx := some c, cmd := none, heldAt := s.clk, fw := false }

/-- The 128 bytes of a record (R393). -/
def faultBytes (r : FaultRec) : List Byte :=
  natBytes 8 r.pc.toNat ++ natBytes 1 r.code ++ natBytes 1 r.kind ++ natBytes 1 r.coff ++ natBytes 1 r.repi ++
    natBytes 1 (match r.lane with
      | some l => 16 + l
      | none => 0) ++
    natBytes 1 r.chain ++ zeros 2 ++ natBytes 8 r.addr.toNat ++ natBytes 4 r.launch ++ natBytes 4 r.wglin ++
    natBytes 2 r.tidlo ++ zeros 6 ++ natBytes 8 r.task.toNat ++ natBytes 4 r.seq ++ zeros 12 ++ mread r.ext 64 64

end Sys2Proof.Machine
end

