-- ==== Sys2Proof/Machine/Frames.lean ====
section
/-! DEFINITION. Page frames (R319 to R329): slots, the free list, pins, refcounts and evictions. -/

namespace Sys2Proof.Machine

/-- A frame never used since the pool was made. -/
def Frame.none_ : Frame :=
  { st := .free, ref := 0, pins := 0, tenant := 0, filled := 0, slot := none, lastacc := 0, ids := [], copied := false }

/-- A frame of a pool. -/
def frameOf (p : Pool) (f : Nat) : Frame := tgetD p.frames f Frame.none_

/-- Replace a frame. -/
def setFrame (p : Pool) (f : Nat) (x : Frame) : Pool := { p with frames := tset p.frames f x }

/-- The frame that holds a slot. -/
def slotHolder (p : Pool) (h : Nat) : Option Nat :=
  firstSome (fun e : Nat × Frame => if e.2.slot = some h then some e.1 else none) p.frames

/-- The lendable slots: home slots of TIER2 frames that no frame holds (R320). -/
def lendable (p : Pool) : List Nat :=
  (p.frames.filter fun e => decide (e.1 < p.f) && decide (e.2.st = .tier2) && (slotHolder p e.1).isNone).map Prod.fst

/-- Available frames (R320). -/
def available (p : Pool) : Nat := p.free.length + (lendable p).length

/-- After a frame has given a slot up: the slot's home frame, if FREE, joins the free list (R320). -/
def slotGiven (p : Pool) (h : Nat) : Pool :=
  if decide (h < p.f) && decide ((frameOf p h).st = .free) && !p.free.contains h && (slotHolder p h).isNone
  then { p with free := p.free ++ [h] } else p

/-- A frame gives up its slot. -/
def giveSlot (p : Pool) (f : Nat) : Pool :=
  let x := frameOf p f
  match x.slot with
  | none => p
  | some h => slotGiven (setFrame p f { x with slot := none }) h

/-- A frame becomes FREE (R323). -/
def freeFrame (p : Pool) (f : Nat) : Pool :=
  let x := frameOf p f
  let p1 := setFrame p f { x with st := .free, filled := 0, slot := none, copied := false, ids := [] }
  let p2 := { p1 with ctr := { p1.ctr with freed := p1.ctr.freed + 1 } }
  match x.slot with
  | some h => slotGiven p2 h
  | none => slotGiven p2 f

/-- An eviction commits (R326). -/
def commitEviction (p : Pool) (f : Nat) : Pool :=
  let x := frameOf p f
  let p1 := giveSlot (setFrame p f { x with st := .tier2, copied := false }) f
  { p1 with ctr := { p1.ctr with evict := p1.ctr.evict + 1 } }

/-- An eviction is abandoned (R323, R412). -/
def abandonEviction (p : Pool) (f : Nat) : Pool :=
  let x := frameOf p f
  { setFrame p f { x with st := .resident, copied := false } with ctr := { p.ctr with abandon := p.ctr.abandon + 1 } }

/-- After a change of REF or PINS: FREE when both are 0, or the commit that waited for the last pin. -/
def afterRelease (p : Pool) (f : Nat) : Pool :=
  let x := frameOf p f
  if x.st = .free then p
  else if x.pins = 0 && x.ref = 0 then freeFrame p f
  else if x.pins = 0 && x.st = .evicting && x.copied then commitEviction p f
  else p

/-- Add a pin. -/
def pinFrame (p : Pool) (f : Nat) : Pool := let x := frameOf p f; setFrame p f { x with pins := x.pins + 1 }

/-- Remove a pin. -/
def unpinFrame (p : Pool) (f : Nat) : Pool :=
  let x := frameOf p f
  afterRelease (setFrame p f { x with pins := x.pins - 1 }) f

/-- Add a refcount. -/
def incRef (p : Pool) (f : Nat) : Pool := let x := frameOf p f; setFrame p f { x with ref := x.ref + 1 }

/-- Drop a refcount. -/
def decRef (p : Pool) (f : Nat) : Pool :=
  let x := frameOf p f
  afterRelease (setFrame p f { x with ref := x.ref - 1 }) f

/-- Touch a frame: its last-access iteration. -/
def touch (p : Pool) (f now : Nat) : Pool := let x := frameOf p f; setFrame p f { x with lastacc := now }

/-- Change a pool, if it exists. -/
def modPool (s : State) (i : Nat) (h : Pool → Pool) : State := { s with pools := tmod s.pools i h }

/-- AllocFrame (R321): the frame, and the pool with it RESIDENT; none when the free list is empty and no slot can be lent. -/
def allocFrame (p : Pool) (now : Nat) : Option (Nat × Pool) :=
  let fresh (f h : Nat) (p : Pool) : Nat × Pool :=
    (f, { setFrame p f { Frame.none_ with st := .resident, ref := 1, tenant := p.tenant, slot := some h, lastacc := now } with
          ctr := { p.ctr with alloc := p.ctr.alloc + 1 } })
  match p.free with
  | f :: t => some (fresh f f { p with free := t })
  | [] =>
    if p.tier2.isNone then none
    else match (lendable p).min?, (rangeFrom p.f (3 * p.f)).find? (fun f => decide ((frameOf p f).st = .free)) with
      | some h, some f => some (fresh f h p)
      | _, _ => none

/-- Bytes of a pool's range (R319). -/
def poolBytes (p : Pool) : Nat := p.f * p.layers * p.bp

/-- Virtual address of layer l of the slot a frame holds (R319). -/
def slotVa (p : Pool) (h l : Nat) : Nat := p.base + (l * p.f + h) * p.bp

/-- Physical address of layer l of a frame's tier-2 copy (R319). -/
def tier2Pa (p : Pool) (f l : Nat) : Nat := p.tier2.getD 0 + (l * 4 * p.f + f) * p.bp

end Sys2Proof.Machine
end

