-- ==== Sys2Proof/Machine/Num.lean ====
section
/-! DEFINITION. Floating formats and exact arithmetic (R254 to R256, R144 to R149). A finite value is
(-1)^neg × m × 2^e; a quotient or root carries its remainder as a last, sticky bit below every rounding position. -/

namespace Sys2Proof.Machine

/-- A floating format (R254). -/
structure Fmt where
  ebits : Nat
  mbits : Nat
  emin  : Int
  ieee  : Bool
deriving DecidableEq, Repr

def fmtF32 : Fmt := { ebits := 8, mbits := 23, emin := -126, ieee := true }
def fmtF16 : Fmt := { ebits := 5, mbits := 10, emin := -14, ieee := true }
def fmtBf16 : Fmt := { ebits := 8, mbits := 7, emin := -126, ieee := true }
def fmtE4m3 : Fmt := { ebits := 4, mbits := 3, emin := -6, ieee := false }
def fmtE5m2 : Fmt := { ebits := 5, mbits := 2, emin := -14, ieee := true }
/-- binary64, in which the bandit computes (R363). -/
def fmtF64 : Fmt := { ebits := 11, mbits := 52, emin := -1022, ieee := true }

/-- The format of a type code 0 to 4 (R63). -/
def fmtOfType (t : Nat) : Fmt :=
  match t with
  | 0 => fmtF32
  | 1 => fmtF16
  | 2 => fmtBf16
  | 3 => fmtE4m3
  | _ => fmtE5m2

/-- Width in bits. -/
def fwidth (f : Fmt) : Nat := 1 + f.ebits + f.mbits

/-- The code of +infinity; for e4m3 its NaN, one above the largest finite code (R255). -/
def infCode (f : Fmt) : Nat := if f.ieee then (2 ^ f.ebits - 1) * 2 ^ f.mbits else 2 ^ (f.ebits + f.mbits) - 1

/-- The code of the largest finite value. -/
def maxCode (f : Fmt) : Nat := infCode f - 1

/-- The canonical NaN (R255). -/
def nanCode (f : Fmt) : Nat := if f.ieee then infCode f + 2 ^ (f.mbits - 1) else infCode f

/-- A value. -/
inductive FVal where
  | nan
  | inf (neg : Bool)
  | fin (neg : Bool) (m : Nat) (e : Int)
deriving DecidableEq, Repr

/-- Value(x, type) (R255). -/
def fval (f : Fmt) (x : Nat) : FVal :=
  let s := nbit x (f.ebits + f.mbits)
  let e := nfld x f.mbits f.ebits
  let m := nfld x 0 f.mbits
  if !f.ieee && decide (x % 2 ^ (f.ebits + f.mbits) = infCode f) then .nan
  else if f.ieee && decide (e = 2 ^ f.ebits - 1) then (if m = 0 then .inf s else .nan)
  else if e = 0 then .fin s m (f.emin - f.mbits)
  else .fin s (2 ^ f.mbits + m) (f.emin - f.mbits + (e - 1 : Nat))

/-- RoundInt of m ÷ 2^k for a value of a sign: whether the quotient goes up by one (R256). -/
def roundsUp (mode : Nat) (neg : Bool) (q r k : Nat) : Bool :=
  match mode with
  | 0 => decide (2 ^ k < 2 * r) || (decide (2 ^ k = 2 * r) && decide (q % 2 = 1))
  | 1 => false
  | 2 => !neg && decide (0 < r)
  | 3 => neg && decide (0 < r)
  | _ => decide (2 ^ k ≤ 2 * r)

/-- m × 2^e rounded to an integer multiple of 2^q: the multiple (R256). -/
def roundMul (mode : Nat) (neg : Bool) (m : Nat) (e q : Int) : Nat :=
  if q ≤ e then m * 2 ^ (e - q).toNat
  else
    let k := (q - e).toNat
    m / 2 ^ k + b2n (roundsUp mode neg (m / 2 ^ k) (m % 2 ^ k) k)

/-- Overflow (R256): infinity or the largest finite value, by mode and sign (R144). -/
def overflowCode (f : Fmt) (mode : Nat) (neg : Bool) : Nat :=
  let toInf := match mode with
    | 0 => true
    | 1 => false
    | 2 => !neg
    | 3 => neg
    | _ => true
  if toInf then infCode f else maxCode f

/-- The magnitude code of m × 2^e rounded, without sign (R256). -/
def roundCode (f : Fmt) (mode : Nat) (neg : Bool) (m : Nat) (e : Int) : Nat :=
  if m = 0 then 0
  else
    let ee := max (e + (Nat.log2 m : Int)) f.emin
    let n := roundMul mode neg m e (ee - f.mbits)
    let code := (ee - f.emin).toNat * 2 ^ f.mbits + n
    if maxCode f < code then overflowCode f mode neg else code

/-- A code with its sign bit. -/
def signed (f : Fmt) (neg : Bool) (code : Nat) : Nat := code + b2n neg * 2 ^ (f.ebits + f.mbits)

/-- RoundTo, a zero keeping the sign its caller chose, an e4m3 infinity becoming NaN (R256). -/
def encodeVal (f : Fmt) (mode : Nat) (v : FVal) : Nat :=
  match v with
  | .nan => nanCode f
  | .inf neg => if f.ieee then signed f neg (infCode f) else nanCode f
  | .fin neg m e =>
    let c := roundCode f mode neg m e
    if !f.ieee && decide (c = infCode f) then nanCode f else signed f neg c

/-- Whether a code is a subnormal. -/
def isSubnormal (f : Fmt) (x : Nat) : Bool := decide (nfld x f.mbits f.ebits = 0) && decide (nfld x 0 f.mbits ≠ 0)

/-- FTZ: a subnormal becomes a zero of its sign (R144). -/
def flush (f : Fmt) (ftz : Bool) (x : Nat) : Nat :=
  if ftz && isSubnormal f x then signed f (nbit x (f.ebits + f.mbits)) 0 else x

/-- SAT: an infinity becomes the largest finite value of its sign (R144). -/
def satInf (f : Fmt) (sat : Bool) (x : Nat) : Nat :=
  if sat && f.ieee && decide (x % 2 ^ (f.ebits + f.mbits) = infCode f) then signed f (nbit x (f.ebits + f.mbits)) (maxCode f)
  else x

/-- The result code of an arithmetic operation: rounded, FTZ, SAT (R144 steps 2 to 4). -/
def finishVal (f : Fmt) (mode : Nat) (ftz sat : Bool) (v : FVal) : Nat := satInf f sat (flush f ftz (encodeVal f mode v))

/-! ## Exact operations -/

/-- The negation of a value. -/
def fneg (v : FVal) : FVal :=
  match v with
  | .nan => .nan
  | .inf s => .inf (!s)
  | .fin s m e => .fin (!s) m e

/-- A signed integer times 2^e; a zero takes the sign z. -/
def ofInt (z : Bool) (x : Int) (e : Int) : FVal := if x = 0 then .fin z 0 e else .fin (decide (x < 0)) x.natAbs e

/-- The integer x with (-1)^neg m 2^e = x × 2^q, for q ≤ e. -/
def scaled (neg : Bool) (m : Nat) (e q : Int) : Int :=
  let n : Int := (m * 2 ^ (e - q).toNat : Nat)
  if neg then -n else n

/-- The exact sum; an exact zero of opposite signs is +0, and -0 under RDN (R144). -/
def faddV (mode : Nat) (a b : FVal) : FVal :=
  match a, b with
  | .nan, _ => .nan
  | _, .nan => .nan
  | .inf s, .inf t => if s = t then .inf s else .nan
  | .inf s, _ => .inf s
  | _, .inf t => .inf t
  | .fin s m e, .fin t n k =>
    let q := min e k
    ofInt (if m = 0 && n = 0 && s = t then s else decide (mode = 3)) (scaled s m e q + scaled t n k q) q

/-- The exact product (R144). -/
def fmulV (a b : FVal) : FVal :=
  match a, b with
  | .nan, _ => .nan
  | _, .nan => .nan
  | .inf s, .inf t => .inf (s != t)
  | .inf s, .fin t n _ => if n = 0 then .nan else .inf (s != t)
  | .fin s m _, .inf t => if m = 0 then .nan else .inf (s != t)
  | .fin s m e, .fin t n k => .fin (s != t) (m * n) (e + k)

/-- A · B + D with one rounding to come (R145). -/
def ffmaV (mode : Nat) (a b d : FVal) : FVal := faddV mode (fmulV a b) d

/-- The order of two values that are not NaN, -0 below +0 when z (R146, R147). -/
def flt (z : Bool) (a b : FVal) : Bool :=
  match a, b with
  | .nan, _ => false
  | _, .nan => false
  | .inf s, .inf t => s && !t
  | .inf s, _ => s
  | _, .inf t => !t
  | .fin s m e, .fin t n k =>
    let q := min e k
    let x := scaled s m e q
    let y := scaled t n k q
    decide (x < y) || (z && decide (x = 0) && decide (y = 0) && s && !t)

/-- Whether a value is NaN. -/
def isNan (v : FVal) : Bool := v == .nan

/-! ## Quotients and roots -/

/-- The quotient m ÷ n with p more bits, and a sticky last bit. -/
def divSticky (m n p : Nat) : Nat := 2 * (m * 2 ^ p / n) + b2n (decide (m * 2 ^ p % n ≠ 0))

/-- The exact quotient of two values (binary64 uses it too). -/
def fdivV (p : Nat) (a b : FVal) : FVal :=
  match a, b with
  | .nan, _ => .nan
  | _, .nan => .nan
  | .inf _, .inf _ => .nan
  | .inf s, .fin t _ _ => .inf (s != t)
  | .fin s _ _, .inf t => .fin (s != t) 0 0
  | .fin s m e, .fin t n k =>
    if n = 0 then (if m = 0 then .nan else .inf (s != t))
    else .fin (s != t) (divSticky m n (p + Nat.log2 n)) (e - k - ((p + Nat.log2 n : Nat) : Int) - 1)

/-- The integer root, bit by bit from bit k down. -/
def isqrt (n r : Nat) : Nat → Nat
  | 0 => r
  | k + 1 => isqrt n (if (r + 2 ^ k) * (r + 2 ^ k) ≤ n then r + 2 ^ k else r) k

/-- The floor of the square root. -/
def rootOf (n : Nat) : Nat := isqrt n 0 (Nat.log2 n / 2 + 1)

/-- √x with p bits below the integer root of the mantissa (R149). -/
def fsqrtV (p : Nat) (a : FVal) : FVal :=
  match a with
  | .nan => .nan
  | .inf s => if s then .nan else .inf false
  | .fin s m e =>
    if m = 0 then .fin s 0 0
    else if s then .nan
    else
      let odd := (e % 2).toNat
      let n := m * 2 ^ (2 * p + odd)
      let r := rootOf n
      .fin false (2 * r + b2n (decide (r * r ≠ n))) ((e - odd) / 2 - p - 1)

/-- 1/√x (R149). -/
def frsqV (p : Nat) (a : FVal) : FVal :=
  match a with
  | .nan => .nan
  | .inf s => if s then .nan else .fin false 0 0
  | .fin s m e =>
    if m = 0 then .inf s
    else if s then .nan
    else
      let odd := (e % 2).toNat
      let w := p + Nat.log2 m
      let n := 2 ^ (2 * w) / (m * 2 ^ odd)
      let r := rootOf n
      .fin false (2 * r + b2n (decide (r * r * (m * 2 ^ odd) ≠ 2 ^ (2 * w)))) (-((e - odd) / 2) - w - 1)

/-! ## Exponentials and logarithms

Each is computed in fixed point at a precision P with an error below 2^10 units; the precision doubles
until both ends of the interval round alike. The results are irrational but for the exact cases of
R149, so the loop stops. -/

/-- The Taylor sum of e^r for r in units of 2^-p: n more terms. -/
def expTerms (p r : Nat) : Nat → Nat → Nat → Nat → Nat
  | 0, _, _, acc => acc
  | n + 1, i, t, acc => expTerms p r n (i + 1) (t * r / 2 ^ p / i) (acc + t)

/-- e^r in units of 2^-p, for r below 2^p. -/
def expFix (p r : Nat) : Nat := expTerms p r (p / 3 + 12) 1 (2 ^ p) 0

/-- The sum of z^(2i+1) / (2i+1): n more terms, zz being z² and t the next power. -/
def atanhTerms (p : Nat) (zz : Int) : Nat → Nat → Int → Int → Int
  | 0, _, _, acc => acc
  | n + 1, i, t, acc => atanhTerms p zz n (i + 2) (Int.fdiv (t * zz) (2 ^ p)) (acc + Int.fdiv t i)

/-- atanh of a ÷ b in units of 2^-p, for |a| ≤ b ÷ 3. -/
def atanhFix (p : Nat) (a : Int) (b : Nat) : Int :=
  let z := Int.fdiv (a * 2 ^ p) b
  atanhTerms p (Int.fdiv (z * z) (2 ^ p)) (p / 3 + 8) 1 z 0

/-- ln 2 in units of 2^-p. -/
def ln2Fix (p : Nat) : Int := 2 * atanhFix p 1 3

/-- ln of m × 2^e in units of 2^-p. -/
def lnFix (p m : Nat) (e : Int) : Int :=
  let l := Nat.log2 m
  let up := decide (3 * 2 ^ l < 2 * m)
  let k := if up then l + 1 else l
  2 * atanhFix p ((m : Int) - 2 ^ k) (m + 2 ^ k) + (e + k) * ln2Fix p

/-- A signed value in units of 2^-p as units: (-1)^neg m 2^e at precision p, towards zero. -/
def toFix (p : Nat) (neg : Bool) (m : Nat) (e : Int) : Int :=
  let n : Nat := if 0 ≤ e + p then m * 2 ^ (e + p).toNat else m / 2 ^ (-(e + p)).toNat
  if neg then -(n : Int) else n

/-- The error bound, in units of the last place. -/
def errFix : Int := 1024

/-- Round an interval if both ends give one code. -/
def agree (f : Fmt) (mode : Nat) (lo hi : Int) (e : Int) : Option FVal :=
  let a := ofInt false lo e
  let b := ofInt false hi e
  if encodeVal f mode a = encodeVal f mode b then some a else none

/-- Try the precisions in turn. -/
def refine (g : Nat → Option FVal) : List Nat → FVal
  | [] => .nan
  | p :: t => match g p with
    | some v => v
    | none => refine g t

/-- The precisions tried. -/
def precisions : List Nat := [96, 224, 512, 1024]

/-- 2^k × e^r with r in units of 2^-p, as an interval. -/
def expAt (f : Fmt) (mode p : Nat) (k r : Int) : Option FVal :=
  let v : Int := expFix p r.toNat
  agree f mode (v - errFix) (v + errFix) (k - p)

/-- e^x for x = (-1)^neg m 2^e, m > 0. Beyond 2^12 every format under- or overflows alike. -/
def fexpV (f : Fmt) (mode : Nat) (a : FVal) : FVal :=
  match a with
  | .nan => .nan
  | .inf s => if s then .fin false 0 0 else .inf false
  | .fin s m e =>
    if m = 0 then .fin false 1 0
    else if 12 ≤ e + Nat.log2 m then .fin false 1 (if s then -4096 else 4096)
    else refine (fun p =>
      let x := toFix (p + 16) s m e
      let l := ln2Fix (p + 16)
      let k := Int.fdiv x l
      expAt f mode p k ((x - k * l) / 2 ^ 16)) precisions

/-- 2^x (R149): exact for an integer. -/
def fexp2V (f : Fmt) (mode : Nat) (a : FVal) : FVal :=
  match a with
  | .nan => .nan
  | .inf s => if s then .fin false 0 0 else .inf false
  | .fin s m e =>
    if m = 0 then .fin false 1 0
    else if 12 ≤ e + Nat.log2 m then .fin false 1 (if s then -4096 else 4096)
    else if 0 ≤ e || m % 2 ^ (-e).toNat = 0 then .fin false 1 (toFix 0 s m e)
    else refine (fun p =>
      let x := toFix (p + 16) s m e
      let k := Int.fdiv x (2 ^ (p + 16))
      expAt f mode p k ((x - k * 2 ^ (p + 16)) * ln2Fix (p + 16) / 2 ^ (p + 32))) precisions

/-- ln x (R149). -/
def flnV (f : Fmt) (mode : Nat) (a : FVal) : FVal :=
  match a with
  | .nan => .nan
  | .inf s => if s then .nan else .inf false
  | .fin s m e =>
    if m = 0 then .inf true
    else if s then .nan
    else if m = 2 ^ Nat.log2 m && e + Nat.log2 m = 0 then .fin false 0 0
    else refine (fun p =>
      let v := lnFix p m e
      agree f mode (v - 2048 * errFix) (v + 2048 * errFix) (-p)) precisions

/-- log2 x (R149): exact for a power of two. -/
def flog2V (f : Fmt) (mode : Nat) (a : FVal) : FVal :=
  match a with
  | .nan => .nan
  | .inf s => if s then .nan else .inf false
  | .fin s m e =>
    if m = 0 then .inf true
    else if s then .nan
    else if m = 2 ^ Nat.log2 m then ofInt false (e + Nat.log2 m) 0
    else refine (fun p =>
      let v := Int.fdiv (lnFix p m e * 2 ^ p) (ln2Fix p)
      agree f mode (v - 4096 * errFix) (v + 4096 * errFix) (-p)) precisions

end Sys2Proof.Machine
end

