-- ==== Sys2Proof/Machine/Xacc.lean ====
section
/-! DEFINITION. XA256 words and the arithmetic of atomics (R168, R171, R172). -/

namespace Sys2Proof.Machine

/-- The signed value of an n-byte number. -/
def sintN (n v : Nat) : Int := if v < 2 ^ (8 * n - 1) then v else (v : Int) - 2 ^ (8 * n)

/-- What memory becomes under an aop, on n-byte numbers: old, operand d, and for cas the new value e (R168). -/
def aopNew (aop n old d e : Nat) : Nat :=
  match aop with
  | 0 => old
  | 1 => old
  | 2 => d
  | 3 => d
  | 4 => (old + d) % 2 ^ (8 * n)
  | 5 => if sintN n d < sintN n old then d else old
  | 6 => if sintN n old < sintN n d then d else old
  | 7 => min old d
  | 8 => max old d
  | 9 => Nat.land old d
  | 10 => Nat.lor old d
  | 11 => Nat.xor old d
  | 12 => d
  | _ => if old = d then e else old

/-- What a ticket counter becomes (R172). -/
def ticketNew (old lim : Nat) : Nat := if lim ≠ 0 ∧ old + 1 = lim then 0 else (old + 1) % 2 ^ 32

/-- Positive saturation, negative saturation and the NaN mark of an XA256 word (R171). -/
def xaPos : Int := 2 ^ 255 - 1
def xaNeg : Int := -(2 ^ 255) + 1
def xaNan : Int := -(2 ^ 255)

/-- Add an f32 code to an XA256 value: the sum, and whether it saturated (R171). -/
def xaAdd (word : Int) (x : Nat) : Int × Bool :=
  match fval fmtF32 x with
  | .nan => (xaNan, false)
  | v =>
    if word = xaNan then (xaNan, false)
    else if word = xaPos ∨ word = xaNeg then (word, false)
    else match v with
      | .inf neg => (if neg then xaNeg else xaPos, true)
      | .fin neg m e =>
        let y := word + scaled neg m e (-160)
        if xaPos ≤ y then (xaPos, true) else if y ≤ xaNeg then (xaNeg, true) else (y, false)
      | .nan => (xaNan, false)

/-- The value an XA256 word stands for (R171). -/
def xaVal (word : Int) : FVal :=
  if word = xaNan then .nan else if word = xaPos then .inf false else if word = xaNeg then .inf true
  else ofInt false word (-160)

/-- An XA256 value from its 32 bytes, and back. -/
def xaOfBytes (bs : List Byte) : Int := sintN 32 (leNat bs)
def xaBytes (x : Int) : List Byte := natBytes 32 (x % 2 ^ 256).toNat

end Sys2Proof.Machine
end

