-- ==== Sys2Proof/Machine/CmdEnd.lean ====
section
/-! DEFINITION. What engines and groups write, and the end of an accepted command: its
result, its flag or chain entry, its presence bits and its pins (R178, R183, R309). -/

namespace Sys2Proof.Machine

/-- What command k reads of bytes at an address: the bytes, with what is hidden from it over them (R294). -/
def seenBy (s : State) (k : Nat) (spad : Bool) (a : Nat) (bs : List Byte) : List Byte :=
  bs.mapIdx fun i b => match s.hide.find? fun h => decide (h.cmd = k) && h.spad == spad && decide (h.addr = a + i) with
    | some h => h.byte
    | none => b

/-- A write of a group has made state t of state s: its engine commands without ACQ go on reading the old bytes (R294). -/
def hideFrom (s t : State) (ctx : Nat) (spad : Bool) (a : Nat) (old : List Byte) : State :=
  let mine := s.cmds.filter fun e => decide (e.2.ctx = ctx) && e.2.chain.isNone && !e.2.acq && decide (0x58 ≤ e.2.op)
  let old (e : Nat × Cmd) : List Hidden := (seenBy s e.1 spad a old).mapIdx fun i b => { cmd := e.1, spad := spad, addr := a + i, byte := b }
  { t with hide := t.hide ++ mine.flatMap old }

/-- Bytes that an engine of a core writes commit, and its chiplet's TLB holds their translation (R281). -/
def engCommit (s : State) (core asid va : Nat) (bs : List Byte) : State :=
  ((pieces va bs.length (bs.length / 65536 + 2)).foldl (fun (acc : State × List Byte) p =>
    match engPhys acc.1 core asid p.1 with
    | some pa => (commitBytes (engFill acc.1 core asid p.1) none pa (acc.2.take p.2), acc.2.drop p.2)
    | none => (acc.1, acc.2.drop p.2)) (s, bs)).1

/-- The address space of a workgroup's launch. -/
def wgAsid (s : State) (w : Nat) : Nat := match tget s.wgs w with
  | some k => asidOf s k.launch
  | none => 0

/-- The absent lines of a workgroup's scratchpad, and its bytes. -/
def absentOf (s : State) (w : Nat) : NatSet := match tget s.wgs w with
  | some x => x.absent
  | none => []
def spadOf (s : State) (w : Nat) : Memory := match tget s.wgs w with
  | some x => x.spad
  | none => []

/-- Bytes are written to a workgroup's scratchpad. -/
def writeSpad (s : State) (w off : Nat) (bs : List Byte) : State :=
  { s with wgs := tmod s.wgs w fun x => { x with spad := mwrite x.spad off bs }
           hide := hideLeft s true (fun k => match tget s.cmds k with
             | some c => decide (c.wg = w)
             | none => false) off bs.length }

/-- Bytes that an instruction of a group writes commit at their home slice, or in its workgroup's scratchpad. -/
def groupCommit (s : State) (own : Option Nat) (ctx pa : Nat) (bs : List Byte) : State :=
  hideFrom s (commitBytes s own pa bs) ctx false pa (mread s.mem pa bs.length)
def groupSpad (s : State) (ctx w off : Nat) (bs : List Byte) : State :=
  hideFrom s (writeSpad s w off bs) ctx true off (mread (spadOf s w) off bs.length)

/-- n bytes of a scratchpad offset, and of a physical address, as command k reads them. -/
def cmdSpad (s : State) (k : Nat) (c : Cmd) (off n : Nat) : List Byte :=
  let bs := mread (spadOf s c.wg) off n
  if c.acq then bs else seenBy s k true off bs
def cmdMem (s : State) (k : Nat) (c : Cmd) (pa n : Nat) : List Byte :=
  let bs := mread s.mem pa n
  if c.acq then bs else seenBy s k false pa bs

/-- n bytes at a virtual address, as command k's engine reads them. -/
def cmdBytes (s : State) (k : Nat) (c : Cmd) (va n : Nat) : List Byte :=
  (pieces va n (n / 65536 + 2)).flatMap fun p => match engPhys s c.core (asidOf s c.launch) p.1 with
    | some pa => cmdMem s k c pa p.2
    | none => []

/-- Whether two accesses of one space share a byte. -/
def overlaps (a n b m : Nat) : Bool := decide (a < b + m) && decide (b < a + n)

/-- Opcodes of fence and copyf. -/
def opFence : Nat := 0x4F
def opCopyf : Nat := 0x59

/-- Whether a scratchpad access of an lds, sts or atoms that waits for presence may act now: its lines are present, and no earlier access
of its group to a common byte waits (R161, R164). -/
def spadReady (s : State) (k : Nat) (o : MemOp) (x : Acc) : Bool :=
  !((linesOf x.addr o.size).any (absentOf s o.wg).contains) && s.ops.all fun e =>
    !(decide (e.2.space = .scratch) && decide (e.2.ctx = o.ctx) && e.2.accs.any fun y =>
      !y.done && overlaps y.addr e.2.size x.addr o.size && (decide (e.1 < k) || (decide (e.1 = k) && decide (y.lane < x.lane))))

/-- One waiting access acts: an lds reads the line as of now, an sts writes it (R164), an atoms reads and writes it (R169), unless it
is a release, whose turn comes when its group's accesses have completed (R290). What an atoms has read lands at its completion. -/
def actSpad (s : State) (k : Nat) (x : Acc) : State := match tget s.ops k with
  | none => s
  | some o =>
    if x.done || x.early || !spadReady s k o x then s
    else
      let put (t : State) (h : Acc → Acc) : State :=
        { t with ops := tset t.ops k { o with accs := o.accs.map fun y => if y.lane = x.lane then h y else y } }
      match o.kind with
      | .load _ => put s fun y => { y with got := mread (spadOf s o.wg) y.addr o.size, done := true }
      | .store => put (groupSpad s o.ctx o.wg x.addr x.data) fun y => { y with done := true }
      | .atomic aop =>
        if o.rel || s.cmds.any fun e => decide (e.2.ctx = o.ctx) && decide (e.2.op = opFence) && e.2.rel then s
        else
          let old := mread (spadOf s o.wg) x.addr o.size
          let new := aopNew aop o.size (leNat old) (leNat (x.data.take o.size)) (leNat (x.data.drop o.size))
          put (if 2 ≤ aop then groupSpad s o.ctx o.wg x.addr (natBytes o.size new) else s) fun y => { y with got := old, done := true }
      | _ => s

/-- The lds, sts and atoms of a workgroup that wait for presence act where their lines have become present, in the order of issue. -/
def wakeSpad (s : State) (w : Nat) : State :=
  (s.ops.filter fun e => decide (e.2.space = .scratch) && decide (e.2.wg = w)).foldl
    (fun t e => e.2.accs.foldl (fun u x => actSpad u e.1 x) t) s

/-- Set presence bits of a workgroup's scratchpad (R270); what waited for the lines acts at that moment (R164). -/
def setPresent (s : State) (w : Nat) (ls : List Nat) : State :=
  if ls.isEmpty then s
  else wakeSpad { s with wgs := tmod s.wgs w fun k => { k with absent := k.absent.filter fun l => !ls.contains l } } w

/-- Clear presence bits. -/
def setAbsent (s : State) (w : Nat) (ls : List Nat) : State :=
  if ls.isEmpty then s else { s with wgs := tmod s.wgs w fun k => { k with absent := nsAddAll ls k.absent } }

/-- A result lands in a g register; g0 discards it (R58, R178, R235). -/
def landG (s : State) (ctx : Nat) (n : Nat) (v : DWord) : State :=
  if n = 0 then s
  else modGroup s ctx fun g => { g with g := g.g.setIfInBounds n v, gpoison := g.gpoison &&& ~~~gWords n }

/-- The completion word after entry k: past every completed entry (R309). -/
def riseComp (done : NatSet) : Nat → Nat → Nat
  | comp, 0 => comp
  | comp, n + 1 => if done.contains comp then riseComp done (comp + 1) n else comp

/-- Virtual address of entry k of a chain (R191). -/
def entryVa (ch : Chain) (k : Nat) : Nat := ch.base.toNat + 64 + 64 * (k % ch.size)

/-- The pages of n bytes at a virtual address that may be written. -/
def engMayWrite (s : State) (core asid va n : Nat) : Bool := (pieces va n (n / 65536 + 2)).all fun p => match engWalk s core asid p.1 with
  | .page l => l.w
  | _ => false

/-- An entry completes: RESULT and STATUS are written, and the completion word may rise (R307, R309). What an aborted entry cannot
write is left out (log 44). -/
def endEntry (s : State) (core ch k outcome reason : Nat) (res : DWord) : State :=
  match tget (coreOf s core).chains ch with
  | none => s
  | some x =>
    let asid := wgAsid s x.owner
    let put (t : State) (va : Nat) (bs : List Byte) : State :=
      if engMayWrite t core asid va bs.length then engCommit t core asid va bs else t
    let s1 := put s (entryVa x k + 40) (natBytes 8 res.toNat ++ natBytes 4 (outcome + 256 * reason))
    let dn := nsAdd k x.done
    let comp := riseComp dn x.comp (dn.length + 1)
    let y := { x with done := dn.filter fun j => decide (comp ≤ j), comp := comp }
    let k1 := coreOf s1 core
    let s2 := setCore s1 core { k1 with chains := tset k1.chains ch y }
    if comp = x.comp then s2 else put s2 x.base.toNat (natBytes 8 comp)

/-- Every pin a command still holds is removed (R178, R195): acked lists the frames, by place, that it has given up. The frame that
a kvapp has allocated and keeps becomes FREE (R412). -/
def dropPins (s : State) (c : Cmd) : State :=
  if c.frames.isEmpty then s
  else if c.op = 0x61 then modPool s c.pool fun p => c.frames.foldl (fun q f => decRef q f.1) p
  else modPool s c.pool fun p => c.frames.zipIdx.foldl (fun q f => if c.acked.contains f.2 then q else unpinFrame q f.1.1) p

/-- The accumulator tile a copyf names (R184). -/
def copyfTile (c : Cmd) : Nat := nfld c.c.toNat 23 5

/-- A command writes a tile. The shadow that a later copyf took at its acceptance follows, since the earlier command takes effect
first (R179, R184). -/
def writeTile (s : State) (c : Cmd) (tile : Nat) (x : Tile) : State :=
  { s with
    wgs := tmod s.wgs c.wg fun y => { y with tiles := tset y.tiles tile x }
    cmds := tmap s.cmds fun _ d =>
      if d.op = opCopyf && decide (d.wg = c.wg) && decide (c.lead < d.lead) && d.shadow.isSome && decide (copyfTile d = tile) then
        { d with shadow := some x } else d }

/-- Give back a tile's shadow (R314). -/
def restoreTile (s : State) (c : Cmd) (tile : Nat) : State := match c.shadow with
  | none => s
  | some t => writeTile s c tile t

/-- A command stops where it stands: it gives up its pins, its presence bits and its tile, and has only to complete with FLAGERR (R177,
R178, R183, R184). -/
def failMark (s : State) (k : Nat) : State := match tget s.cmds k with
  | none => s
  | some c =>
    let s1 := setPresent (dropPins s c) c.wg c.lines
    let s2 := if c.op = opCopyf then restoreTile s1 c (copyfTile c) else s1
    { s2 with cmds := tmod s2.cmds k fun d => { d with failed := true, paused := false, frames := [], lines := [] } }

/-- A command ends: pins and presence bits, then the chain entry or the result and the flag; the command leaves the store
(R178, R302). A fencing chiplet receives no result: the command stands, spent, until the fence is complete (R387). DESIGN CHOICE (log 52): of a bar.named whose count differs, the LATE record has class 1, since R393 names no class
for it. -/
def endCmd (s : State) (k : Nat) (err : Bool) : State := match tget s.cmds k with
  | none => s
  | some c =>
    if fenced s c.core then { s with cmds := tset s.cmds k { c with paused := true } }
    else
    let s1 := setPresent (dropPins s c) c.wg c.lines
    let s2 := { s1 with cmds := tdel s1.cmds k, hide := s1.hide.filter fun h => decide (h.cmd ≠ k) }
    match c.chain with
    | some (ch, e) => endEntry s2 c.core ch e (if err then 2 else 1) 0 c.result
    | none =>
      let s3 := match c.resG with
        | some n => landG s2 c.ctx n c.result
        | none => s2
      match c.flag with
      | some f => completeFlag s3 c.ctx c.launch c.wg c.site c.word f err (if c.op < 0x68 then 1 else 2)
      | none => s3

/-- The keys of commands that f accepts, in acceptance order. -/
def cmdKeys (s : State) (f : Cmd → Bool) : List Nat := (s.cmds.filter fun e => f e.2).map Prod.fst

end Sys2Proof.Machine
end

