-- ==== Sys2Proof/Machine/Window.lean ====
section
/-! DEFINITION. The register window of a launch (R70, R173, R174): which group an address names, and the stores to a group that
have not completed. -/

namespace Sys2Proof.Machine

/-- Whether an instruction is a plain store. -/
def isStoreOp (o : MemOp) : Bool := o.kind == .store

/-- The bytes a register window spans (R70). -/
def windowSpan (d : Desc) : Nat := roundUp (d.gx * d.gy * d.gz * 2 ^ 21) (2 ^ 42)

/-- The launch whose register window holds an address: a running launch of the tenant. DESIGN CHOICE (log 52): where the windows
of two running launches overlap, the launch of lowest key. -/
def windowOf (s : State) (tenant va : Nat) : Option (Nat × Nat) :=
  firstSome (fun e : Nat × Launch =>
    if decide (e.2.tenant = tenant) && !e.2.finished && decide (e.2.desc.winA ≠ 0) && decide (e.2.desc.winA ≤ va)
        && decide (va < e.2.desc.winA + windowSpan e.2.desc) then some (e.1, va - e.2.desc.winA) else none) s.launches

/-- The workgroup with a linear index of a launch. -/
def wgAt (s : State) (launch lin : Nat) : Option Nat :=
  (s.wgs.find? fun e => decide (e.2.launch = launch) && decide (e.2.lin = lin) && e.2.handler.isNone).map Prod.fst

/-- The group that holds home group h of a workgroup in whole, in launch lane order. -/
def homeGroup (s : State) (w h : Nat) : Option (Nat × Group) :=
  s.groups.find? fun e => decide (e.2.wg = w) && e.2.home && decide ((e.2.tids.getD 0 0).toNat / 16 = h)

/-- The group a window address names, as (key, group), with the offset in its block. -/
def windowTarget (s : State) (tenant va : Nat) : Option (Option (Nat × Group) × Nat) :=
  (windowOf s tenant va).map fun p =>
    let blk := p.2 / 8192
    (((wgAt s p.1 (blk / 256)).bind fun w => homeGroup s w (blk % 256)), p.2 % 8192)

/-- Whether a group may be written through the window: held after a trap, or stopped under pre-emption (R174). -/
def windowStopped (s : State) (g : Group) : Bool :=
  decide (g.res = .held) || decide (g.res = .parked) || (match tget s.tenants (tenantOf s g.launch) with
    | some t => t.park != .active
    | none => false)

/-- Whether a stw to the group has not completed (R174). -/
def stwPending (s : State) (c : Nat) : Bool :=
  s.ops.any fun e => isStoreOp e.2 && decide (e.2.space = .window) && e.2.accs.any fun x =>
    !x.done && (match windowTarget s (tenantOf s e.2.launch) x.addr with
      | some (some t, _) => decide (t.1 = c)
      | _ => false)

end Sys2Proof.Machine
end

