-- ==== Sys2Proof/Machine/Cache.lean ====
section
/-! DEFINITION. A core's L1 (R25, R271): 128 sets of 16 ways that global, private and fetched lines share; what allocates a line,
what evicts one, and what an eviction writes back. -/

namespace Sys2Proof.Machine

/-- The set a line stands in. DESIGN CHOICE (log 53): the line number modulo 128. -/
def l1Set (line : Nat) : Nat := line % 128

/-- The lines a core's L1 holds in a set. -/
def l1Ways (k : Core) (set : Nat) : Nat :=
  (k.l1.filter fun n => decide (l1Set n = set)).length + (k.priv.filter fun e => decide (l1Set e.1 = set)).length +
    (k.code.filter fun e => decide (l1Set e.1 = set)).length

/-- Whether a global line holds a store that has not committed, and is therefore not dropped (R287). -/
def lineHeld (s : State) (core line : Nat) : Bool :=
  s.ops.any fun e => isStoreOp e.2 && decide (e.2.core = core) && e.2.accs.any fun x =>
    x.early && !x.done && decide (x.addr / 128 = line)

/-- A core's L1 drops a global line, unless it holds a store not yet committed (R287). -/
def dropLine (s : State) (core line : Nat) : State :=
  let k := coreOf s core
  if lineHeld s core line || !k.l1.contains line then s else setCore s core { k with l1 := nsDel line k.l1 }

/-- A core's L1 drops a fetched line. -/
def dropCode (s : State) (core line : Nat) : State :=
  let k := coreOf s core
  if thas k.code line then setCore s core { k with code := tdel k.code line } else s

/-- A core's L1 evicts a private line: its dirty words are written back to the private area (R271); all 32 of them are a full write
of the line (R274). -/
def evictPrivate (s : State) (core line : Nat) : State :=
  let k := coreOf s core
  match tget k.priv line with
  | some p =>
    if p.dirty.length = 32 then commitBytes (setCore s core { k with priv := tdel k.priv line }) (some core) (128 * line) p.data
    else p.dirty.foldl (fun t e => commitBytes t (some core) (128 * line + 4 * e.1) ((p.data.drop (4 * e.1)).take 4))
      (setCore s core { k with priv := tdel k.priv line })
  | none => s

/-- Room for a line in its set. DESIGN CHOICE (log 53): a full set gives up its lowest global line that may be dropped, else its
lowest fetched line, else its lowest private line; the schedule may have evicted another one before. -/
def makeRoom (s : State) (core line : Nat) : State :=
  let k := coreOf s core
  let mine (n : Nat) : Bool := decide (l1Set n = l1Set line)
  if l1Ways k (l1Set line) < 16 then s
  else match k.l1.find? fun n => mine n && !lineHeld s core n with
    | some n => dropLine s core n
    | none => match k.code.find? fun e => mine e.1 with
      | some e => dropCode s core e.1
      | none => match k.priv.find? fun e => mine e.1 with
        | some e => evictPrivate s core e.1
        | none => s

/-- Whether a line's set has room. -/
def hasRoom (s : State) (core line : Nat) : Bool := decide (l1Ways (coreOf s core) (l1Set line) < 16)

/-- A global line is allocated; a set whose every line holds a store not yet committed takes none. -/
def fillGlobal (s : State) (core line : Nat) : State :=
  if (coreOf s core).l1.contains line then s
  else
    let s1 := makeRoom s core line
    if hasRoom s1 core line then setCore s1 core { coreOf s1 core with l1 := nsAdd line (coreOf s1 core).l1 } else s1

/-- A private line is allocated, with the bytes of memory. -/
def fillPrivate (s : State) (core line : Nat) : State :=
  if thas (coreOf s core).priv line then s
  else
    let s1 := makeRoom s core line
    if hasRoom s1 core line then
      setCore s1 core { coreOf s1 core with
        priv := tset (coreOf s1 core).priv line { data := mread s1.mem (128 * line) 128, dirty := [] } }
    else s1

/-- A fetched line is allocated for an address space. -/
def fillCode (s : State) (core asid line : Nat) : State :=
  if ((tget (coreOf s core).code line).map CodeLine.asid) = some asid then s
  else
    let s1 := makeRoom (dropCode s core line) core line
    if hasRoom s1 core line then
      setCore s1 core { coreOf s1 core with
        code := tset (coreOf s1 core).code line { asid := asid, data := mread s1.mem (128 * line) 128 } }
    else s1

/-- Whether a fetch must wait for the walker, as an engine's access must (R282). -/
def fetchBlocked (s : State) (core asid va : Nat) : Bool :=
  (tlbFind (coreOf s core).tlb asid va).isNone && engBlocked s core asid va 1

/-- What the fetch of a word leaves behind (R271, R275): a miss in the L1 TLB fills it, from the chiplet's last-level TLB or by a
walk that fills both; the line of an executable page enters the L1. DESIGN CHOICE (log 53): no time passes during the fetch, and
a full L1 TLB gives up its oldest entry. -/
def fetchFill (s : State) (core asid va : Nat) : State :=
  match fetchXlat s core asid va with
  | .page l =>
    let s1 := engFill s core asid va
    let s2 := match tlbFind (coreOf s core).tlb asid va, chipFind s1 core asid va with
      | none, some e => setCore s1 core { coreOf s1 core with tlb := tlbFill (coreOf s1 core).tlb 64 0 e }
      | _, _ => s1
    if l.x then fillCode s2 core asid ((l.pa + (va - l.va)) / 128) else s2
  | _ => s

end Sys2Proof.Machine
end

