-- ==== Sys2Proof/Machine/Lifecycle.lean ====
section
/-! DEFINITION. What follows from threads' arrivals and ends: barrier phases (R112), joins (R109,
R241), the release of a workgroup's resources (R305), aborts (R246) and dispositions (R395 to R397). -/

namespace Sys2Proof.Machine

/-- Opcodes of accepted commands that are looked at by number (R80). -/
def opBar : Nat := 0x0C
def opPrs : Nat := 0x4E
def opSlot : Nat := 0x5D
def opSeqw : Nat := 0x5F
def opLzq : Nat := 0x6F

/-- The groups of a workgroup. -/
def groupsOf (s : State) (w : Nat) : List (Nat × Group) := s.groups.filter fun e => e.2.wg = w

/-- The threads of a workgroup that have not ended. -/
def liveTids (s : State) (w : Nat) : List Nat := (groupsOf s w).flatMap fun e => tidsOf e.2 e.2.alive

/-- Whether every access that a release at the scope waits for has completed (R290). -/
def releaseReady (s : State) (ctx wg key sc : Nat) : Bool :=
  let hb := match tget s.groups ctx with
    | some g => g.hbKey
    | none => 0
  s.ops.all fun e => !(e.2.ctx = ctx && decide (e.1 < key)) && !(sc != 0 && e.2.wg = wg && decide (e.1 < min hb key))

/-- A release at a completion point that waits for the group's accesses (R178, R290). -/
def relReady (s : State) (k : Nat) (c : Cmd) : Bool := !c.rel || releaseReady s c.ctx c.wg k c.sc

/-- The slices of a command's collective; of any other command, itself. -/
def slicesOf (s : State) (c : Cmd) : List (Nat × Cmd) :=
  s.cmds.filter fun e => decide (e.2.lead = c.lead) && decide (e.2.wg = c.wg)

/-- Whether the release of every slice of a collective may take effect (R178). -/
def slicesReady (s : State) (c : Cmd) : Bool := (slicesOf s c).all fun e => relReady s e.1 e.2

/-- Change a command. -/
def modCmd (s : State) (k : Nat) (f : Cmd → Cmd) : State := { s with cmds := tmod s.cmds k f }

/-- Count an arrival in a table of next phases: the phase arrived in, which is the running one at least (threads that have ended, and
whose arrival is registered only now, may have missed phases), and the table after. -/
def arriveIn (next : Table Nat) (ph : Nat) (ts : List Nat) : Nat × Table Nat :=
  ((ts.map fun t => tgetD next t 0).foldl max ph, ts.foldl (fun n t => tset n t (max ph (tgetD n t 0) + 1)) next)

/-- The gang key of a thread. -/
def gangTid (w t : Nat) : Nat := 4096 * w + t

/-- Register one barrier arrival, of the threads its group held at issue, once its release has taken effect (R112, R113, R290). -/
def registerBar (s : State) (k : Nat) : State := match tget s.cmds k with
  | none => s
  | some c =>
    if c.arrived || c.sub = 3 || !releaseReady s c.ctx c.wg k (if c.sub = 1 then 1 else 0) then s
    else
      let ts := c.landed
      match tget s.wgs c.wg with
      | none => s
      | some w =>
        if c.sub = 1 then match w.gang with
          | none => s
          | some gk => match tget s.gangs gk with
            | none => s
            | some g =>
              let r := arriveIn g.next g.phase (ts.map (gangTid c.wg))
              modCmd { s with gangs := tset s.gangs gk { g with next := r.2 } } k fun x => { x with arrived := true, phase := r.1 }
        else if c.sub = 4 then
          let id := c.a.toNat
          let n := tgetD w.named id { phase := 0, need := 0, got := 0, wait := [] }
          if ts.any n.wait.contains then s
          else
            let n1 := { n with need := if n.got = 0 && n.wait.isEmpty then c.b.toNat else n.need
                               got := n.got + ts.length, wait := n.wait ++ ts }
            modCmd { s with wgs := tset s.wgs c.wg { w with named := tset w.named id n1 } } k fun x =>
              { x with arrived := true, phase := n.phase }
        else
          let r := arriveIn w.next w.phase ts
          let s1 := modCmd { s with wgs := tset s.wgs c.wg { w with next := r.2 } } k fun x =>
            { x with arrived := true, phase := r.1, result := BitVec.ofNat 64 r.1 }
          if c.sub = 2 then endCmd s1 k false else s1

/-- A completed phase resets the progress count of every group it covers (R61, R112). -/
def resetProg (s : State) (w : Nat) : State :=
  (groupsOf s w).foldl (fun t e => modGroup t e.1 fun g => { g with prog := 0 }) s

/-- Complete the commands that f names. -/
def endCmds (s : State) (f : Cmd → Bool) (err : Cmd → Bool) : State :=
  (cmdKeys s f).foldl (fun t k => match tget t.cmds k with
    | some c => endCmd t k (err c)
    | none => t) s

/-- Whether some thread has arrived in a phase (R112). -/
def begun (next : Table Nat) (ph : Nat) : Bool := next.any fun e => decide (ph < e.2)

/-- The most phases that the arrivals registered so far may complete. -/
def ahead (next : Table Nat) (ph : Nat) : Nat := (next.map Prod.snd).foldl max ph - ph

/-- Complete the workgroup phases that have begun and that every live thread has arrived in; threads that have ended are not
waited for, and where all have, those that arrived complete the phase (R112). -/
def phasesWg (s : State) (w : Nat) : Nat → State
  | 0 => s
  | n + 1 => match tget s.wgs w with
    | none => s
    | some x =>
      let live := liveTids s w
      if begun x.next x.phase && live.all (fun t => decide (x.phase < tgetD x.next t 0)) then
        let s1 := resetProg { s with wgs := tset s.wgs w { x with phase := x.phase + 1 } } w
        phasesWg (endCmds s1 (fun c => decide (c.op = opBar) && decide (c.wg = w) && c.arrived && decide (c.sub = 0)
          && decide (c.phase ≤ x.phase)) fun _ => false) w n
      else s

/-- The workgroups of a gang. -/
def gangWgs (s : State) (gk : Nat) : List Nat := (s.wgs.filter fun e => e.2.gang = some gk).map Prod.fst

/-- Complete the gang phases that have begun and that every live thread of the gang has arrived in. -/
def phasesGang (s : State) (gk : Nat) : Nat → State
  | 0 => s
  | n + 1 => match tget s.gangs gk with
    | none => s
    | some x =>
      let ws := gangWgs s gk
      let live := ws.flatMap fun w => (liveTids s w).map (gangTid w)
      if begun x.next x.phase && live.all (fun t => decide (x.phase < tgetD x.next t 0)) then
        let s1 := ws.foldl resetProg { s with gangs := tset s.gangs gk { x with phase := x.phase + 1 } }
        phasesGang (endCmds s1 (fun c => decide (c.op = opBar) && ws.contains c.wg && c.arrived && decide (c.sub = 1)
          && decide (c.phase ≤ x.phase)) fun _ => false) gk n
      else s

/-- Complete each named phase whose count has been reached; an arrival with another count completes with FLAGERR (R113). -/
def phasesNamed (s : State) (w : Nat) : State := match tget s.wgs w with
  | none => s
  | some x => x.named.foldl (fun t e =>
      if 0 < e.2.need && decide (e.2.need ≤ e.2.got) then
        let t1 := { t with wgs := tmod t.wgs w fun y =>
          { y with named := tset y.named e.1 { phase := e.2.phase + 1, need := 0, got := 0, wait := [] } } }
        endCmds t1 (fun c => decide (c.op = opBar) && decide (c.wg = w) && c.arrived && decide (c.sub = 4)
          && decide (c.a.toNat = e.1) && decide (c.phase = e.2.phase)) fun c => c.b.toNat != e.2.need
      else t) s

/-- Complete the bar.wait commands whose phase has passed. -/
def endWaits (s : State) (w : Nat) : State := match tget s.wgs w with
  | none => s
  | some x => endCmds s (fun c => decide (c.op = opBar) && decide (c.wg = w) && decide (c.sub = 3)
      && decide (c.a.toNat < x.phase)) fun _ => false

/-- The phases that a workgroup's arrivals may complete, and its gang's. -/
def wgAhead (s : State) (w : Nat) : Nat := match tget s.wgs w with
  | some x => ahead x.next x.phase
  | none => 0
def gangAhead (s : State) (gk : Nat) : Nat := match tget s.gangs gk with
  | some x => ahead x.next x.phase
  | none => 0

/-- Register what can arrive and complete what is complete, n times over. -/
def settleLoop (s : State) (w : Nat) : Nat → State
  | 0 => s
  | n + 1 =>
    let gk := (tget s.wgs w).bind Workgroup.gang
    let ws := match gk with
      | some k => gangWgs s k
      | none => [w]
    let s1 := (cmdKeys s fun c => decide (c.op = opBar) && ws.contains c.wg).foldl registerBar s
    let s2 := ws.foldl (fun t v => phasesWg t v (wgAhead t v)) s1
    let s3 := match gk with
      | some k => phasesGang s2 k (gangAhead s2 k)
      | none => s2
    settleLoop (ws.foldl (fun t v => endWaits (phasesNamed t v) v) s3) w n

/-- Whether no barrier of a workgroup, or of its gang, can change: no barrier command is open and no phase has begun. -/
def barsIdle (s : State) (w : Nat) : Bool :=
  s.cmds.all (fun e => e.2.op != opBar) && decide (wgAhead s w = 0) &&
    (match (tget s.wgs w).bind Workgroup.gang with
    | some k => decide (gangAhead s k = 0)
    | none => true)

/-- Bring a workgroup's barriers, and its gang's, up to date. -/
def settle (s : State) (w : Nat) : State :=
  if barsIdle s w then s else settleLoop s w ((s.cmds.filter fun e => e.2.op = opBar).length + 1)

/-! ## Groups that leave (R111, R246) -/

/-- A private line without the dirty words that f names: they hold what memory holds again. -/
def dropWords (m : Memory) (line : Nat) (p : PrivLine) (f : Nat × Nat → Bool) : PrivLine :=
  { dirty := p.dirty.filter fun e => !f e.2
    data := (p.dirty.filter fun e => f e.2).foldl (fun d e =>
      d.take (4 * e.1) ++ mread m (128 * line + 4 * e.1) 4 ++ d.drop (4 * e.1 + 4)) p.data }

/-- Threads that end drop their dirty private words (R111, R273). -/
def dropPrivate (s : State) (core w : Nat) (ts : List Nat) : State :=
  let k := coreOf s core
  if k.priv.isEmpty then s
  else setCore s core { k with priv := tmap k.priv fun n p => dropWords s.mem n p fun o => o.1 = w && ts.contains o.2 }

/-- A command that only waits for an event and writes no memory (R246). -/
def withdrawn (c : Cmd) : Bool :=
  decide (c.op = opBar) || decide (c.op = opPrs) || decide (c.op = opSeqw) ||
    (decide (c.op = opLzq) && decide (c.sub = 1)) || (decide (c.op = opSlot) && decide (c.sub = 0) && !c.started)

/-- A group leaves the machine, its registers with it; the threads count as ended. -/
def removeGroup (s : State) (c : Nat) (g : Group) : State :=
  dropPrivate { s with groups := tdel s.groups c
                       walks := tmap s.walks fun _ w => { w with reqs := nsDel c w.reqs }
                       walkq := s.walkq.filter fun q => q.ctx != some c } g.core g.wg (tidsOf g g.alive)

/-- A group is aborted: its waiting commands are withdrawn, the others complete (R246). -/
def dropGroup (s : State) (c : Nat) (g : Group) : State :=
  let s1 := removeGroup s c g
  { s1 with cmds := s1.cmds.filter fun e => !(e.2.ctx = c && withdrawn e.2) }

/-- Change a launch. -/
def modLaunch (s : State) (l : Nat) (f : Launch → Launch) : State := { s with launches := tmod s.launches l f }

/-- A record whose header or lane block holds an uncorrectable error is discarded, and its launch will complete FAULTED, with a LATE
record of class 3 (R243). -/
def loseRecord (s : State) (c : Nat) (g : Group) : State :=
  dropGroup (enterRecord (modLaunch s g.launch fun k => { k with faulted := true }) g.launch
    (lateRecord s g.launch g.wg (siteOf g) 0 3)) c g

/-! ## Joins (R109, R241) -/

/-- A fresh key. -/
def takeKey (s : State) : Nat × State := (s.nextKey, { s with nextKey := s.nextKey + 1 })

/-- The part and lane that hold a thread. -/
def findTid (parts : List (Nat × Group)) (t : Nat) : Option (Group × Nat) :=
  firstSome (fun e : Nat × Group => match (lanesOf e.2.alive).find? fun l => decide ((e.2.tids.getD l 0).toNat = t) with
    | some l => some (e.2, l)
    | none => none) parts

/-- The home group re-formed from its parts (R109, R241). -/
def mergeParts (inst tag home clk : Nat) (base : Group) (parts : List (Nat × Group)) : Group :=
  let at_ (l : Nat) : Option (Group × Nat) := findTid parts (16 * home + l)
  let alive := bits16 fun l => (at_ l).isSome
  { base with
    inst := inst, region := 0, res := .ready, store := .kept, cause := .wait, arg := 0, waitm := 0, readyAt := clk,
    since := clk, want := .none, answered := false, walkFault := none, home := true,
    tids := vec16 fun l => BitVec.ofNat 12 (16 * home + l)
    coff := 0, repi := 0, rep := none, pendV := 0, pendG := 0, exec := alive, alive := alive
    p := base.p.mapIdx fun i _ => bits16 fun l => match at_ l with
      | some (g, k) => (g.p.getD i 0).getLsbD k
      | none => false
    v := base.v.mapIdx fun n _ =>
      if parts.any fun e => (e.2.v.getD n none).isSome then
        some { tag := tag
               w := vec16 fun l => match at_ l with
                 | some (g, k) => match g.v.getD n none with
                   | some r => r.w.getD k 0
                   | none => 0
                 | none => 0
               poison := bits16 fun l => match at_ l with
                 | some (g, k) => match g.v.getD n none with
                   | some r => r.poison.getLsbD k
                   | none => false
                 | none => false }
      else none
    flags := base.flags.mapIdx fun f _ => { count := 0, err := parts.any fun e => (e.2.flags.getD f { count := 0, err := false }).err }
    cedes := [], hbKey := tag, llSeen := false, engFlags := 0, liveg := 0 }

/-- Give a ready or waiting record its place: dugout or spill cell, or its current storage until room is free (R234). -/
def storeRecord (s : State) (c : Nat) (g : Group) (now : Store) : State :=
  let h := asRecord s c { g with store := .none }
  putGroup s c { h with store := (placeRecord s c h).getD now }

/-- The parts that wait at a join address for a home group. -/
def joinParts (s : State) (w home : Nat) (pc : DWord) : List (Nat × Group) :=
  (groupsOf s w).filter fun e => e.2.res = .joined && e.2.pc = pc && e.2.arg = home

/-- A home group is re-formed of its parts, spilled ones as their cells give them; one whose cell is lost takes its threads with it
(R243). -/
def mergeJoin (s : State) (w home : Nat) (pc : DWord) : State :=
  let s0 := (joinParts s w home pc).foldl (fun t e => if (reloadRecord s e.1 e.2).isNone then loseRecord t e.1 e.2 else t) s
  let parts := (joinParts s0 w home pc).filterMap fun e => (reloadRecord s e.1 e.2).map fun g => (e.1, g)
  match leastBy (fun e => tidLo e.2) parts with
  | none => s0
  | some base =>
    let k := s0.nextKey
    let g := mergeParts s0.nextInst k home s0.clk base.2 parts
    let s1 := { s0 with nextKey := k + 1, nextInst := s0.nextInst + 1
                        groups := s0.groups.filter fun e => !(parts.map Prod.fst).contains e.1 }
    match parts.find? fun e => e.2.store = .slot with
    | some x => storeRecord s1 k { g with part := x.2.part, slot := x.2.slot } .slot
    | none => storeRecord s1 k g .kept

/-- Re-form a home group at a join address if each of its threads has arrived there or ended. -/
def reformJoin (s : State) (w home : Nat) (pc : DWord) : State :=
  let parts := joinParts s w home pc
  let there := parts.flatMap fun e => tidsOf e.2 e.2.alive
  if parts.isEmpty || !((groupsOf s w).all fun e => (tidsOf e.2 e.2.alive).all fun t => t / 16 != home || there.contains t) then s
  else mergeJoin s w home pc

/-- Re-form every home group of a workgroup that is complete. -/
def reformJoins (s : State) (w : Nat) : State :=
  ((groupsOf s w).filter fun e => e.2.res = .joined).foldl (fun t e => reformJoin t w e.2.arg e.2.pc) s

/-! ## The end of threads and workgroups -/

/-- A collective not started when the last group ends is discarded (R182). -/
def discardColls (s : State) (w : Nat) : State := match tget s.wgs w with
  | none => s
  | some x =>
    let ks := x.colls.flatMap fun e => e.2.slices
    let s1 := ks.foldl (fun t k => match tget t.cmds k with
      | some c => setPresent { t with cmds := tdel t.cmds k } w c.lines
      | none => t) s
    { s1 with wgs := tmod s1.wgs w fun y => { y with colls := [] } }

/-- A chain with nothing to do: head equal to tail, and every taken entry complete (R305). -/
def chainIdle (ch : Chain) : Bool := decide (ch.head = ch.tail) && decide (ch.comp = ch.tail)

/-- A core that holds no group, record or workgroup reads partition word 0 (R55, R56). -/
def clearIfEmpty (s : State) (core : Nat) : State :=
  if (s.wgs.any fun e => e.2.placed && e.2.core = core) || (s.groups.any fun e => e.2.core = core && e.2.store != .image) then s
  else setCore s core { coreOf s core with pword := 0 }

/-- Launches that have completed go with the last workgroup that holds anything (R246, R305). -/
def dropOver (s : State) : State :=
  { s with launches := s.launches.filter fun e => !e.2.finished || s.wgs.any fun w => decide (w.2.launch = e.1) }

/-- Release a workgroup's resources once its last group has finished, its last accepted command has
completed and its chains are idle (R67, R305). -/
def tryRelease (s : State) (w : Nat) : State := match tget s.wgs w with
  | none => s
  | some x =>
    let k := coreOf s x.core
    if !(groupsOf s w).isEmpty || (s.cmds.any fun e => e.2.wg = w) || (s.ops.any fun e => e.2.wg = w)
        || (k.chains.any fun e => e.2.owner = w && !chainIdle e.2) || !x.placed then s
    else
      let k1 := { k with
        slots := tmap k.slots fun _ o => if o.holder = some w then { o with holder := none } else o
        lz := tmap k.lz fun _ z => if z.wg = w then { z with st := .free, wg := 0 } else z
        chains := k.chains.filter fun e => e.2.owner != w
        left := x.spad }
      let ws := tdel s.wgs w
      let gs := s.gangs.filter fun e => decide (x.gang ≠ some e.1) || ws.any fun y => decide (y.2.gang = some e.1)
      dropOver (clearIfEmpty (setCore { s with wgs := ws, gangs := gs } x.core k1) x.core)

/-- What follows when threads of a workgroup have ended: barriers, joins, collectives, resources. -/
def afterEnd (s : State) (w : Nat) : State :=
  let s1 := settle (reformJoins (settle s w) w) w
  if (groupsOf s1 w).isEmpty then tryRelease (discardColls s1 w) w else s1

/-- The group is aborted and its workgroup brought up to date (R230, R396). -/
def abortGroup (s : State) (c : Nat) : State := match tget s.groups c with
  | none => s
  | some g => afterEnd (dropGroup s c g) g.wg

/-- Abort a command, with every slice of its collective: it completes with FLAGERR, at once unless its release still waits (R177,
R178, R183, R184). -/
def abortCmd (s : State) (k : Nat) : State := match tget s.cmds k with
  | none => s
  | some c =>
    let ks := (slicesOf s c).map Prod.fst
    let s1 := ks.foldl failMark s
    if slicesReady s1 c then tryRelease (ks.foldl (fun t j => endCmd t j true) s1) c.wg else s1

/-- A launch is aborted: no further workgroup is admitted, its groups are aborted, its paused commands complete
with FLAGERR, and its fault queue empties (R246, R396). -/
def abortLaunch (s : State) (l : Nat) (faulted : Bool) : State :=
  let s1 := modLaunch s l fun k =>
    { k with aborted := true, faulted := k.faulted || faulted, fq := [], fwait := [], server := none }
  let s2 := (s1.groups.filter fun e => e.2.launch = l).foldl (fun t e => dropGroup t e.1 e.2) s1
  let s3 := (cmdKeys s2 fun c => decide (c.launch = l) && c.paused).foldl abortCmd s2
  ((s3.wgs.filter fun e => e.2.launch = l).map Prod.fst).foldl afterEnd s3

/-! ## Dispositions (R395 to R397) -/

/-- The next word after the one a group executes: the next iteration of a repeat, the next body word,
or past the last one the word that follows the clause (R85, R95). -/
def stepPast (g : Group) : Group :=
  let past (k : Nat) : Group :=
    if k ≤ g.len then { g with coff := k, repi := 0, rep := none }
    else { g with pc := g.pc + BitVec.ofNat 64 (4 * (g.len + 1)), coff := 0, repi := 0, rep := none }
  match g.rep with
  | some r => if g.repi < r.cnt then { g with repi := g.repi + 1 } else past (g.coff + 2)
  | none => past (g.coff + 1)

/-- A held group runs again once every stw to it has completed (R174); its region closes (R230, R297). One that a PREEMPT has
ended waits for the RESUME of its tenant instead of for a disposition (R398). -/
def resumeGroup (s : State) (c : Nat) (past : Bool) : State := match tget s.groups c with
  | some g =>
    let ended := decide (g.res = .waiting) && decide (g.cause = .fault)
    if stwPending s c then putGroup s c { g with resume := some past }
    else if g.res = .held ∨ ended then
      let r := closeRegion s (if past then stepPast g else g)
      let h := { r.2 with resume := none }
      putGroup r.1 c (if ended then { h with cause := .preempt } else { h with res := .running })
    else s
  | none => s

/-- Groups that were to run again, and to which no stw is pending any more, do (R174). -/
def wakeHeld (s : State) : State :=
  s.groups.foldl (fun t e => match e.2.resume with
    | some past => if stwPending t e.1 then t else resumeGroup t e.1 past
    | none => t) s

/-- A paused command goes on from its mark. -/
def resumeCmd (s : State) (k : Nat) : State := match tget s.cmds k with
  | some c => { s with cmds := tmap s.cmds fun _ d => if d.lead = c.lead && d.wg = c.wg then { d with paused := false } else d }
  | none => s

/-- A record whose CODE is XLATE on a local address, which the firmware holds (R397). -/
def holdsXlate (r : FaultRec) : Bool := r.kind != 3 && decide (r.code = 9) && decide (r.va < 2 ^ 54)

/-- Carry out RESUME on a record (R396). -/
def doResume (s : State) (r : FaultRec) (rerun : Bool) : State :=
  match r.kind, r.ctx, r.cmd with
  | 0, some c, _ => resumeGroup s c (!rerun && decide (r.code = 18))
  | 1, _, some k => resumeCmd s k
  | 2, _, some k => resumeCmd s k
  | _, _, _ => s

/-- Carry out ABORT on a record (R396). -/
def doAbort (s : State) (r : FaultRec) : State :=
  match r.kind, r.ctx, r.cmd with
  | 0, some c, _ => abortGroup (modLaunch s r.launch fun k => { k with faulted := true }) c
  | 1, _, some k => abortCmd s k
  | 2, _, some k => abortCmd s k
  | _, _, _ => s

/-- The firmware's disposition of a record it does not hold (R397). -/
def firmwareEnd (s : State) (r : FaultRec) : State :=
  if r.kind = 0 then abortLaunch s r.launch true else doAbort s r

/-- The firmware holds an XLATE record; TELEMETRY reports its address (R397). -/
def holdRecord (s : State) (l : Nat) (r : FaultRec) : State :=
  modLaunch { s with tele := { s.tele with xlateHeld := s.tele.xlateHeld ++ [(tenantOf s l, r.va)] } } l fun k =>
    { k with fq := k.fq.map fun q => if q.seq = r.seq then { q with fw := true, heldAt := s.clk } else q }

/-- Dispose of a record of a launch's queue by a code of R396. -/
def dispose (s : State) (l seq code : Nat) : State := match tget s.launches l with
  | none => s
  | some k => match k.fq.find? (fun r => r.seq = seq) with
    | none => modLaunch s l fun k => { k with server := none }
    | some r =>
      let s1 := modLaunch s l fun k => { dropRecord k seq with server := none }
      if code = 0 then
        if holdsXlate r then modLaunch (holdRecord s l r) l fun k => { k with server := none } else firmwareEnd s1 r
      else if code = 1 then doResume s1 r false
      else if code = 2 then doResume s1 r true
      else if code = 3 then doAbort s1 r
      else abortLaunch s1 l true

/-- A group finishes: its slot and registers are free and no record is written (R111). A handler
group's g19 then disposes of the record it serves (R395). DESIGN CHOICE (log 52): of a handler group that br.div has split, the part
that ends last disposes. -/
def finishGroup (s : State) (c : Nat) (g : Group) : State :=
  let s1 := afterEnd (removeGroup s c g) g.wg
  match (tget s.wgs g.wg).bind Workgroup.handler with
  | some seq => if s1.groups.any fun e => decide (e.2.wg = g.wg) then s1 else dispose s1 g.launch seq ((g.g.getD 19 0).toNat % 8)
  | none => s1

/-- A record's header or lane block holds an uncorrectable error: the record is lost, and its workgroup is brought up to date (R243). -/
def headerError (s : State) (c : Nat) (g : Group) : State := afterEnd (loseRecord s c g) g.wg

end Sys2Proof.Machine
end

