-- ==== Sys2Proof/Machine/Ops.lean ====
section
/-! DEFINITION. The operations every meaning is written with: the running group, the checks in the
order of R98 and R392, taking a trap (R230, R392 to R395) and resuming from one, ending a group with
a record (R230 to R234), committing results (R92, R93) and going to the next word. -/

namespace Sys2Proof.Machine

/-- The outcome of one step. -/
abbrev Out := Host.Outcome State Fault Refusal

/-- Run an encoded instruction as the group whose word is being executed. -/
def onGroup (s : State) (k : Nat → Group → Out) : Out := match s.cur with
  | none => .fault .noRunningGroup
  | some c => match tget s.groups c with
    | none => .fault .noRunningGroup
    | some g => if g.res = .running then k c g else .fault .noRunningGroup

/-! ## Taking a trap and returning from it -/

/-- A trap an instruction raises: its code, lane, address and bytes 64 to 127 of its record (R393). -/
structure Trap where
  code : TrapCode
  lane : Option Nat := none
  addr : DWord := 0
  ext  : Memory := []
deriving DecidableEq, Repr

/-- A precise trap: the instruction does not commit, the group becomes HELD with its registers, and one
record goes to the launch's queue (R230, R392). In a handler group the launch is killed (R395). -/
def takeTrap (s : State) (c : Nat) (g : Group) (t : Trap) : State :=
  let s1 := enterRecord (putGroup s c { g with res := .held, store := .none, walkFault := none, liveg := 0 }) g.launch
    (preciseRecord s c g t.code t.lane t.addr t.ext)
  match (tget s.wgs g.wg).bind Workgroup.handler with
  | some _ => abortLaunch s1 g.launch true
  | none => s1

/-- The return from a trap: RESUME continues at the next word after USER and re-runs every other
instruction (R396); the group runs with PC, COFF and REPI as they were. -/
def returnFromTrap (s : State) (r : FaultRec) : State := doResume s r false

/-! ## Ending with a record -/

/-- The group ends with a record made from g1. With no room for the record CQOV is raised instead, on
the group as it is (R230, R234). -/
def endAs (s : State) (c : Nat) (g g1 : Group) (cause : Cause) (arg : Nat) (want : Want) : State :=
  let g2 := asRecord s c { g1 with res := .waiting, cause := cause, arg := arg, want := want, answered := false, since := s.clk, rep := none }
  match placeRecord s c g2 with
  | some st => putGroup s c (refresh s.clk { g2 with store := st })
  | none => takeTrap s c g { code := .cqov, ext := mwriteN [] 64 1 (causeCode cause) }

/-- The group ends before the word it has reached; its record keeps clause offset and iteration. -/
def endWith (s : State) (c : Nat) (g : Group) (cause : Cause) (arg : Nat) (want : Want) : State :=
  endAs s c g g cause arg want

/-! ## Checks (R98, R392) -/

/-- The registers an instruction names, and whether its word breaks a rule of form. -/
structure Use where
  /-- ILLOP. -/
  ill   : Bool := false
  /-- ILLOPND. -/
  nd    : Bool := false
  rv    : List Nat := []
  wv    : List Nat := []
  rg    : List Nat := []
  wg    : List Nat := []
  /-- v names whose last-read mark is set. -/
  marks : List Nat := []
  /-- Lanes whose words are read. -/
  lanes : BitVec 16 := 0
deriving DecidableEq, Repr

/-- A v word that a read lane finds poisoned: register and lane (R242). -/
def poisonedV (g : Group) (rv : List Nat) (m : BitVec 16) : Option (Nat × Nat) :=
  firstSome (fun n => match g.v.getD n none with
    | some r => ((lanesOf m).find? fun l => r.poison.getLsbD l).map fun l => (n, l)
    | none => none) rv

/-- The conditions of R98 items 2 to 5 in their order: ILLOP, ILLOPND, PEND, UNWR. -/
def formTrap (g : Group) (u : Use) : Option Trap :=
  if u.ill then some { code := .illop }
  else if u.nd then some { code := .illopnd }
  else if (u.rv ++ u.wv).any (fun n => g.pendV.getLsbD n) || (u.rg ++ u.wg).any (fun n => g.pendG.getLsbD n) then
    some { code := .pend }
  else if u.rv.any fun n => (g.v.getD n none).isNone then some { code := .unwr }
  else none

/-- ECCU: a word that is read is poisoned (R242). -/
def eccTrap (g : Group) (u : Use) : Option Trap :=
  match poisonedV g u.rv u.lanes with
  | some (n, l) => some { code := .eccu, lane := some l, ext := mwriteN [] 64 1 n }
  | none => match u.rg.find? fun n => gBad g n with
    | some n => some { code := .eccu, ext := mwriteN [] 64 1 (64 + n) }
    | none => none

/-- The checks of an instruction that is not long-latency: form, then ECCU. -/
def check (g : Group) (u : Use) : Option Trap := match formTrap g u with
  | some t => some t
  | none => eccTrap g u

/-- Continue when every check passes. -/
def checked (s : State) (c : Nat) (g : Group) (u : Use) (k : Out) : Out := match check g u with
  | some t => .next (takeTrap s c g t)
  | none => k

/-- The names an instruction has where it reads none of its operands: PEND is a test on the names alone (R89). -/
def Use.unread (u : Use) : Use := { u with rv := [], wv := u.rv ++ u.wv, rg := [], wg := u.rg ++ u.wg }

/-- Registers the destinations still need (R92). -/
def needs (g : Group) (wv : List Nat) : Nat := (wv.eraseDups.filter fun n => (g.v.getD n none).isNone).length

/-- Continue when the lane pipe has the registers the destinations need; otherwise the group ends with
REGS, or CQOV is raised when no lane pipe could ever take the record (R229). -/
def withRegs (s : State) (c : Nat) (g : Group) (wv : List Nat) (k : Out) : Out :=
  if needs g wv ≤ pipeFree s g.core g.part g.slot then k
  else if pipeSize s g.core < footprint g + 1 then
    .next (takeTrap s c g { code := .cqov, ext := mwriteN [] 64 1 (causeCode .regs) })
  else .next (endWith s c g .regs 0 .none)

/-! ## Reading and writing registers -/

/-- The word of a lane of a v name; a name without a register never reaches here (R92). -/
def readV (g : Group) (n l : Nat) : Word := match g.v.getD n none with
  | some r => r.w.getD l 0
  | none => 0

/-- A g register; g0 reads zero (R58). -/
def readG (g : Group) (n : Nat) : DWord := if n = 0 then 0 else g.g.getD n 0

/-- A predicate. -/
def readP (g : Group) (n : Nat) : BitVec 16 := g.p.getD n 0

/-- Write a g register; g0 ignores it, and poison goes (R58, R242). -/
def writeG (g : Group) (n : Nat) (x : DWord) : Group :=
  if n = 0 then g
  else { g with g := g.g.setIfInBounds n x, gpoison := g.gpoison &&& ~~~gWords n }

/-- Write a predicate. -/
def writeP (g : Group) (n : Nat) (x : BitVec 16) : Group := { g with p := g.p.setIfInBounds n x }

/-- Write the lanes of a mask of a v name: a name without a register takes one, whose other lanes hold 0 (R92, R103). -/
def writeV (g : Group) (tag n : Nat) (m : BitVec 16) (f : Nat → Word) : Group :=
  let r := match g.v.getD n none with
    | some r => r
    | none => freshReg tag
  { g with v := g.v.setIfInBounds n (some { r with
      w := vec16 fun l => if m.getLsbD l then f l else r.w.getD l 0, poison := r.poison &&& ~~~m }) }

/-- Free the registers of marked names, but for names the instruction writes (R93). -/
def freeMarks (g : Group) (marks wv : List Nat) : Group :=
  { g with v := g.v.mapIdx fun n r => if marks.contains n && !wv.contains n then none else r }

/-! ## Committing -/

/-- One more instruction issued: the progress count saturates (R61). -/
def bump (g : Group) : Group := { g with prog := if g.prog = BitVec.allOnes 32 then g.prog else g.prog + 1 }

/-- The instruction commits and the group goes on to the next word. -/
def done (s : State) (c : Nat) (g : Group) : Out := .next (putGroup s c (bump (stepPast g)))

/-- The instruction commits and the group goes to another clause header. -/
def goTo (s : State) (c : Nat) (g : Group) (pc : DWord) : Out :=
  .next (putGroup s c (bump { g with pc := pc, coff := 0, repi := 0, rep := none }))

/-- Commit a vector result: nothing is written or allocated with EXEC = 0, marks free all the same (R93, R103). DESIGN CHOICE
(log 52): with EXEC = 0 a mark on a source that is also D frees it, since the instruction then writes no name. -/
def commitV (s : State) (c : Nat) (g : Group) (u : Use) (d : Nat) (f : Nat → Word) : Out :=
  if g.exec = 0 then done s c (freeMarks g u.marks [])
  else withRegs s c g [d] (done { s with nextKey := s.nextKey + 1 } c
    (freeMarks (writeV g s.nextKey d g.exec f) u.marks [d]))

/-- Commit a uniform result. -/
def commitG (s : State) (c : Nat) (g : Group) (d : Nat) (x : DWord) : Out := done s c (writeG g d x)

/-- Commit a predicate result; marks free. -/
def commitP (s : State) (c : Nat) (g : Group) (u : Use) (n : Nat) (x : BitVec 16) : Out :=
  done s c (freeMarks (writeP g n x) u.marks [])

/-- A free value (log 6): the value, and the state with the counter advanced. -/
def takeFree (s : State) : DWord × State := (Config.freeValue s.freeCtr, { s with freeCtr := s.freeCtr + 1 })

/-! ## Long-latency issue (R60, R87, R88) -/

/-- The word an encoded instruction is. -/
def wordOf (i : Instr) : Word := (encodeWord i).getD 0

/-- The flag number an FS bit selects; 15 when the header gives none. -/
def flagSel (g : Group) (fs : Bool) : Nat := if fs then g.setB else g.setA

/-- Whether the header names no flag for the instruction (R87). -/
def noFlag (g : Group) (fs : Bool) : Bool := decide (12 ≤ flagSel g fs)

/-- Continue when the flag's count may rise; at 63 the group ends with FLAGCAP (R60). -/
def withFlag (s : State) (c : Nat) (g : Group) (fs : Bool) (k : Out) : Out :=
  if flagCount g (flagSel g fs) < 63 then k else .next (endWith s c g .flagcap (flagSel g fs) .none)

/-- The issue of a long-latency instruction (R60, R88, R242, R392): the conditions of R98, the count, then what acceptance
checks. nd says that a check of acceptance gives ILLOPND, which stands before PEND, UNWR and ECCU. -/
def accepted (s : State) (c : Nat) (g : Group) (u : Use) (fs nd : Bool) (k : Out) : Out := match formTrap g u with
  | some t => .next (takeTrap s c g (if nd && (t.code = .pend || t.code = .unwr) then { code := .illopnd } else t))
  | none => withFlag s c g fs
      (if nd then .next (takeTrap s c g { code := .illopnd })
      else match eccTrap g u with
        | some t => .next (takeTrap s c g t)
        | none => k)

/-- Mark destinations of a long-latency instruction for PEND (R89). DESIGN CHOICE (log 52): g0, which discards what lands in
it, is not among them. -/
def addPend (g : Group) (wv wg : List Nat) : Group :=
  { g with llSeen := true
           pendV := wv.foldl (fun m n => m ||| BitVec.ofNat 64 (2 ^ n)) g.pendV
           pendG := (wg.filter (· != 0)).foldl (fun m n => m ||| BitVec.ofNat 32 (2 ^ n)) g.pendG }

end Sys2Proof.Machine
end

