-- ==== Sys2Proof/Machine/Flags.lean ====
section
/-! DEFINITION. Every field of MOOD (R62 to R64), the signedness, saturation and range that follow from
it (R122, R124), and the flag status words (R60, R117, R120). -/

namespace Sys2Proof.Machine

/-! ## MOOD (R62) -/

/-- SRCTYPE. -/
def moodSrc (m : Word) : Nat := nfld m.toNat 16 4
/-- FTZ. -/
def moodFtz (m : Word) : Bool := m.getLsbD 13
/-- SAT. -/
def moodSat (m : Word) : Bool := m.getLsbD 12
/-- ROUND. -/
def moodRound (m : Word) : Nat := nfld m.toNat 9 3
/-- TYPE. -/
def moodType (m : Word) : Nat := nfld m.toNat 5 4
/-- GEN. -/
def moodGen (m : Word) : Bool := m.getLsbD 4
/-- GNEG. -/
def moodGneg (m : Word) : Bool := m.getLsbD 3
/-- GPRED. -/
def moodGpred (m : Word) : Nat := nfld m.toNat 0 3

/-- Whether a value may stand in MOOD: reserved bits zero, type codes below 13, rounding code below 5 (R62). -/
def moodOk (m : Word) : Bool :=
  decide (nfld m.toNat 20 12 = 0) && decide (nfld m.toNat 14 2 = 0) && decide (moodType m < 13) &&
    decide (moodSrc m < 13) && decide (moodRound m < 5)

/-- The value mood writes from its immediate (R105). -/
def moodOfImm (imm : BitVec 18) : Word := BitVec.ofNat 32 (nfld imm.toNat 0 14 + 2 ^ 16 * nfld imm.toNat 14 4)

/-- The guard mask (R64). -/
def guardMask (g : Group) : BitVec 16 :=
  let p := readP g (moodGpred g.mood)
  if moodGneg g.mood then ~~~p else p

/-- The member mask of a cross-lane instruction: the guard with GEN = 1, otherwise EXEC (R64). -/
def memberMask (g : Group) : BitVec 16 := if moodGen g.mood then guardMask g else g.exec

/-! ## Integer types (R122, R124) -/

/-- Whether the MOOD type makes integers unsigned. -/
def unsignedType (m : Word) : Bool := decide (moodType m = 8) || decide (moodType m = 10) || decide (moodType m = 12)

/-- Val (R122). -/
def ival {n : Nat} (m : Word) (x : BitVec n) : Int := if unsignedType m then (x.toNat : Int) else x.toInt

/-- The range of the MOOD type at width n (R124). -/
def satRange (m : Word) (n : Nat) : Int × Int :=
  match moodType m with
  | 8 => (0, 2 ^ n - 1)
  | 10 => (0, 65535)
  | 12 => (0, 255)
  | 9 => (-32768, 32767)
  | 11 => (-128, 127)
  | _ => (-(2 ^ (n - 1)), 2 ^ (n - 1) - 1)

/-- Clamp to the MOOD range when SAT is set and the operation saturates (R124). -/
def saturate (m : Word) (n : Nat) (sat : Bool) (x : Int) : Int :=
  if moodSat m && sat then min (max x (satRange m n).1) (satRange m n).2 else x

/-! ## Flag status -/

/-- The FLAGERR bits of cf0 to cf11 (R120). -/
def errBits (g : Group) : Nat :=
  (List.range 12).foldl (fun m f => m + 2 ^ f * b2n (g.flags.getD f { count := 0, err := false }).err) 0

/-- The pending bits of cf0 to cf11. -/
def setBits (g : Group) : Nat := (List.range 12).foldl (fun m f => m + 2 ^ f * b2n (decide (0 < flagCount g f))) 0

/-- FLAGST (R117). -/
def flagst (g : Group) : DWord := BitVec.ofNat 64 (setBits g + 4096 * errBits g)

/-- sys.flagerr clears every bit it returned (R120). -/
def clearErrs (g : Group) : Group := { g with flags := g.flags.map fun x => { x with err := false } }

end Sys2Proof.Machine
end

