-- ==== Sys2Proof/Machine/Operands.lean ====
section
/-! DEFINITION. Operand forms: F-R vector and uniform, immediates, pairs and quads, and the common
shape of an instruction that computes one result per lane or one uniform result (R72, R73, R93, R103). -/

namespace Sys2Proof.Machine

/-- B of F-R as a 32-bit lane word: the register's, or the sign-extended immediate (R73). -/
def srcB32 (g : Group) (b : R6) (im : Bool) (l : Nat) : Word := if im then b.signExtend 32 else readV g b.toNat l

/-- B of F-R as a uniform value. -/
def srcB64 (g : Group) (b : R6) (im : Bool) : DWord := if im then b.signExtend 64 else readG g b.toNat

/-- A 6-bit field that names no g register (R72). -/
def notG (x : R6) : Bool := decide (32 ≤ x.toNat)

/-- Register use of a vector F-R word: D written, and read where rd; A read; B read unless it is an
immediate or not used. A mark on an immediate is ILLOP (R93). -/
def useV (g : Group) (d a b : R6) (la lb im two rd : Bool) : Use :=
  { ill := lb && im
    rv := a.toNat :: ((if two && !im then [b.toNat] else []) ++ if rd then [d.toNat] else [])
    wv := [d.toNat]
    marks := (if la then [a.toNat] else []) ++ if lb && two then [b.toNat] else []
    lanes := g.exec }

/-- Register use of a uniform F-R word: a mark on a g name is ILLOP, a field above 31 is ILLOPND (R72, R93). -/
def useU (d a b : R6) (la lb im two rd : Bool) : Use :=
  { ill := la || lb
    nd := notG d || notG a || (two && !im && notG b)
    rg := a.toNat :: ((if two && !im then [b.toNat] else []) ++ if rd then [d.toNat] else [])
    wg := [d.toNat] }

/-- The common shape of integer and bit instructions: f of A, B and D at width 32 per active lane, or at
width 64 once (R103, R122, R127). -/
def alu (u : Bool) (d a b : R6) (la lb im two rd : Bool)
    (f : Word → (n : Nat) → BitVec n → BitVec n → BitVec n → BitVec n) (s : State) : Out :=
  onGroup s fun c g =>
    if u then
      checked s c g (useU d a b la lb im two rd)
        (commitG s c g d.toNat (f g.mood 64 (readG g a.toNat) (srcB64 g b im) (readG g d.toNat)))
    else
      let use := useV g d a b la lb im two rd
      checked s c g use (commitV s c g use d.toNat fun l =>
        f g.mood 32 (readV g a.toNat l) (srcB32 g b im l) (readV g d.toNat l))

/-- A compare: the predicate bit of each active lane, or all 16 bits alike in the uniform form; other
bits keep their values. The predicate stands in the D field, 8 to 63 being ILLOPND (R131). -/
def cmpOp (u : Bool) (d a b : R6) (la lb im : Bool) (f : Word → (n : Nat) → BitVec n → BitVec n → Bool)
    (s : State) : Out :=
  onGroup s fun c g =>
    if u then
      let use := useU 0 a b la lb im true false
      checked s c g { use with nd := use.nd || decide (8 ≤ d.toNat), wg := [] }
        (commitP s c g {} d.toNat (if f g.mood 64 (readG g a.toNat) (srcB64 g b im) then BitVec.allOnes 16 else 0))
    else
      let use := useV g 0 a b la lb im true false
      checked s c g { use with nd := decide (8 ≤ d.toNat), wv := [] }
        (commitP s c g use d.toNat (bits16 fun l =>
          if g.exec.getLsbD l then f g.mood 32 (readV g a.toNat l) (srcB32 g b im l)
          else (readP g d.toNat).getLsbD l))

/-- The names of a pair or quad that starts at n. -/
def namesFrom (n k : Nat) : List Nat := rangeFrom n k

/-- Commit several v results on the lanes of a mask; an empty mask writes and allocates nothing (R103, R137). -/
def commitVM (s : State) (c : Nat) (g : Group) (u : Use) (m : BitVec 16) (ws : List (Nat × (Nat → Word))) : Out :=
  if m = 0 then done s c (freeMarks g u.marks [])
  else withRegs s c g (ws.map Prod.fst) (done { s with nextKey := s.nextKey + 1 } c
    (freeMarks (ws.foldl (fun h e => writeV h s.nextKey e.1 m e.2) g) u.marks (ws.map Prod.fst)))

/-- A 64-bit value in a pair of v registers, low word in the even one (R58). -/
def readPair (g : Group) (n l : Nat) : DWord := (readV g (n + 1) l) ++ (readV g n l)

end Sys2Proof.Machine
end

