-- ==== Sys2Proof/Machine/Tlb.lean ====
section
/-! DEFINITION. The L1 TLB as a group's accesses see it (R88, R280, R281), and the checks that follow. -/

namespace Sys2Proof.Machine

/-- What the L1 TLB gives for an access of a group: a physical address with RT and W, a miss, or the fault its walk found. -/
inductive Hit where
  | pa (a : Nat) (rt w : Bool)
  | miss
  | walkFault (t : TrapCode)
deriving DecidableEq, Repr

/-- Look an address up for a group (R88): a miss whose walk has already faulted gives that fault. -/
def tlbLook (s : State) (g : Group) (va : Nat) : Hit :=
  match tlbFind (coreOf s g.core).tlb (asidOf s g.launch) va with
  | some e => .pa (e.pa + (va - e.va)) e.rt e.w
  | none => match g.walkFault with
    | some (page, t) => if page = va / 65536 then .walkFault t else .miss
    | none => .miss

end Sys2Proof.Machine
end

