-- ==== Sys2Proof/Machine/Huddle.lean ====
section
/-! DEFINITION. The Huddle (R108, R239, R240): bins of spawned threads and the groups they emit. -/

namespace Sys2Proof.Machine

/-- The threads of lanes m of a group, ascending by %tid, each with where it stands. -/
def threadsOf (g : Group) (m : BitVec 16) : List (Group × Nat) :=
  sortBy (fun e => (e.1.tids.getD e.2 0).toNat) ((lanesOf m).map fun l => (g, l))

/-- The thread id of a placed thread. -/
def placedTid (e : Group × Nat) : BitVec 12 := e.1.tids.getD e.2 0

/-- A record whose lanes 0 to n - 1 hold the given threads, with g registers and MOOD of base (R239). -/
def packGroup (tag clk : Nat) (base : Group) (pc : DWord) (ths : List (Group × Nat)) : Group :=
  let at_ (l : Nat) : Option (Group × Nat) := ths[l]?
  let n := ths.length
  let live := lowLanes n
  { base with
    inst := 0, region := 0, res := .opened, store := .kept, cause := .spawn, arg := 0, waitm := 0, readyAt := clk,
    since := clk, want := .none, answered := false, walkFault := none
    home := decide (n = 16) && (lanes16.all fun l => match at_ l with
      | some e => decide ((placedTid e).toNat % 16 = l) && decide ((placedTid e).toNat / 16 = tidLo base / 16)
      | none => false)
    tids := vec16 fun l => match at_ l with
      | some e => placedTid e
      | none => 0
    pc := pc, coff := 0, repi := 0, rep := none, pendV := 0, pendG := 0, exec := live, alive := live
    prog := ((ths.map fun e => e.1.prog.toNat).min?).elim base.prog (BitVec.ofNat 32)
    p := base.p.mapIdx fun i _ => bits16 fun l => match at_ l with
      | some e => (readP e.1 i).getLsbD e.2
      | none => false
    v := base.v.mapIdx fun i _ =>
      if ths.any fun e => (e.1.v.getD i none).isSome then
        some { tag := tag
               w := vec16 fun l => match at_ l with
                 | some e => readV e.1 i e.2
                 | none => 0
               poison := bits16 fun l => match at_ l with
                 | some e => match e.1.v.getD i none with
                   | some r => r.poison.getLsbD e.2
                   | none => false
                 | none => false }
      else none
    flags := base.flags.mapIdx fun f _ =>
      { count := 0, err := ths.any fun e => (e.1.flags.getD f { count := 0, err := false }).err }
    cedes := [], hbKey := tag, llSeen := false, engFlags := 0, liveg := 0 }

/-- A bin is emitted: a new instance, READY with cause REGS (R237, R239). -/
def emitBin (s : State) (k : Nat) (g : Group) : State :=
  storeRecord { s with nextInst := s.nextInst + 1 } k
    { g with res := .ready, cause := .regs, inst := s.nextInst, readyAt := s.clk, hbKey := s.nextKey } .kept

/-- The open bins of a core. -/
def openBins (s : State) (core : Nat) : List (Nat × Group) :=
  s.groups.filter fun e => e.2.res = .opened && e.2.core = core

/-- Emit every open bin of a workgroup (R239). -/
def emitBins (s : State) (w : Nat) : State :=
  ((groupsOf s w).filter fun e => e.2.res = .opened).foldl (fun t e => emitBin t e.1 e.2) s

/-- Make a bin; at once a group when it is full or where no bin may be kept. -/
def newBin (s : State) (g : Group) (full : Bool) : State :=
  let k := s.nextKey
  let s1 := { s with nextKey := k + 1 }
  if full then emitBin s1 k g else { s1 with groups := tset s1.groups k g }

/-- Hand threads to the Huddle (R239, R240): a DET launch packs nothing; otherwise they join the bin of
their key, lowest %tid first, until it holds 16, and a surplus opens a new bin. -/
def spawn (s : State) (g : Group) (m : BitVec 16) (pc : DWord) : State :=
  let ths := threadsOf g m
  if (descOf s g.launch).det then newBin s (packGroup s.nextKey s.clk g pc ths) true
  else
    let bins := openBins s g.core
    match bins.find? fun e => e.2.wg = g.wg && e.2.pc = pc && e.2.mood = g.mood && e.2.g = g.g && e.2.gpoison = g.gpoison with
    | none => newBin s (packGroup s.nextKey s.clk g pc ths) (decide (64 ≤ bins.length) || decide (ths.length = 16))
    | some (k, b) =>
      let room := 16 - popCount b.alive
      let all := sortBy (fun e => (placedTid e).toNat) (threadsOf b b.alive ++ ths.take room)
      let b1 := { packGroup s.nextKey s.clk b pc all with since := b.since }
      let s1 := if all.length = 16 then emitBin { s with nextKey := s.nextKey + 1 } k b1
                else { s with nextKey := s.nextKey + 1, groups := tset s.groups k b1 }
      let rest := ths.drop room
      if rest.isEmpty then s1
      else newBin s1 (packGroup s1.nextKey s1.clk g pc rest) (decide (64 ≤ (openBins s1 g.core).length))

/-- Threads arrive at a join entry: one part per home group among them; a part that finds no room stays in the slot (R109, R234, R241). -/
def arriveJoin (s : State) (c : Nat) (g : Group) (pc : DWord) : State :=
  let homes := ((tidsOf g g.alive).map (· / 16)).eraseDups
  let s1 := { s with groups := tdel s.groups c }
  let s2 := homes.foldl (fun t h =>
    let m := bits16 fun l => g.alive.getLsbD l && decide ((g.tids.getD l 0).toNat / 16 = h)
    let k := t.nextKey
    storeRecord { t with nextKey := k + 1 } k
      { g with res := .joined, cause := .join, arg := h, alive := m, exec := g.exec &&& m, pc := pc, coff := 0,
               repi := 0, rep := none, since := t.clk } .slot) s1
  let lost := (groupsOf s2 g.wg).any fun e => e.2.res = .joined && (reloadRecord s2 e.1 e.2).isNone
  let s3 := homes.foldl (fun t h => reformJoin t g.wg h pc) s2
  if lost then afterEnd s3 g.wg else s3

end Sys2Proof.Machine
end

