-- ==== Sys2Proof/Machine/Control.lean ====
section
/-! DEFINITION. Opcodes 0x00 to 0x0F: control, barriers, sys (R103 to R121), clause headers and the
repeat prefix (R83 to R86, R94 to R97). -/

namespace Sys2Proof.Machine

/-! ## nop, mood, mask (R104 to R106) -/

/-- nop (R104). -/
def execNop (s : State) : Out := onGroup s fun c g => done s c g

/-- mood (R105): the old value to gD in the second form, then the new value to MOOD. -/
def execMood (u : Bool) (d : R6) (imm : BitVec 18) (s : State) : Out :=
  onGroup s fun c g =>
    let m := moodOfImm imm
    checked s c g { ill := !moodOk m || (!u && d != 0), nd := u && notG d, wg := if u then [d.toNat] else [] }
      (done s c { (if u then writeG g d.toNat (g.mood.setWidth 64) else g) with mood := m })

/-- A write of EXEC keeps within the alive mask (R59). -/
def setExec (g : Group) (m : BitVec 16) : Group := { g with exec := m &&& g.alive }

/-- The three forms that take a predicate; 8 to 63 is ILLOPND (R106). -/
def maskPred (a : R6) (f : BitVec 16 → BitVec 16 → BitVec 16) (s : State) : Out :=
  onGroup s fun c g => checked s c g { nd := decide (8 ≤ a.toNat) } (done s c (setExec g (f g.exec (readP g a.toNat))))

/-- mask.set (R106). -/
def execMaskSet (a : R6) (s : State) : Out := maskPred a (fun _ p => p) s
/-- mask.and (R106). -/
def execMaskAnd (a : R6) (s : State) : Out := maskPred a (fun e p => e &&& p) s
/-- mask.or (R106). -/
def execMaskOr (a : R6) (s : State) : Out := maskPred a (fun e p => e ||| p) s

/-- mask.g (R106). -/
def execMaskG (a : R6) (s : State) : Out :=
  onGroup s fun c g => checked s c g { nd := notG a, rg := [a.toNat] }
    (done s c (setExec g ((readG g a.toNat).setWidth 16)))

/-- mask.rd (R106). -/
def execMaskRd (d : R6) (s : State) : Out :=
  onGroup s fun c g => checked s c g { nd := notG d, wg := [d.toNat] } (commitG s c g d.toNat (g.exec.setWidth 64))

/-- mask.alive (R106). -/
def execMaskAlive (s : State) : Out := onGroup s fun c g => done s c (setExec g g.alive)

/-! ## Branches (R85, R86, R107, R108) -/

/-- Whether a word is a clause header: its opcode is 0b1111111 (R83). -/
def isHeaderWord (w : Word) : Bool := w.toNat / 2 ^ 25 == 127

/-- IsHeader (R107). -/
def isHeader (s : State) (g : Group) (x : DWord) : Bool :=
  match fetchWord s g.core (asidOf s g.launch) x.toNat with
  | some w => isHeaderWord w
  | none => false

/-- A control transfer that is not the last body word (R86). -/
def misplaced (g : Group) : Bool := g.coff != g.len

/-- The next clause header after the last body word, and the target of an off21 (R75). -/
def nextHeader (g : Group) : DWord := wordAddr g + 4
def target (g : Group) (off : BitVec 21) : DWord := wordAddr g + 4 * off.signExtend 64

/-- The active threads whose bit of p is set (R107). -/
def taken (g : Group) (p : BitVec 3) : BitVec 16 := readP g p.toNat &&& g.exec

/-- A uniform branch to dest: BTGT when it is no header, then the form checks (R107, R392). -/
def branchTo (s : State) (c : Nat) (g : Group) (dest : DWord) : Out :=
  if !isHeader s g dest then .next (takeTrap s c g { code := .btgt })
  else checked s c g { ill := misplaced g } (goTo s c g dest)

/-- Where a conditional branch goes (R107). -/
def condDest (g : Group) (p : BitVec 3) (off : BitVec 21) (f : BitVec 16 → BitVec 16 → Bool) : DWord :=
  if f (taken g p) g.exec then target g off else nextHeader g

/-- When br.any, br.all and br.none are taken, of the active threads with p and of EXEC (R107). -/
def anyOf (t _e : BitVec 16) : Bool := t != 0
def allOf (t e : BitVec 16) : Bool := e != 0 && t == e
def noneOf (t _e : BitVec 16) : Bool := t == 0

/-- A conditional branch (R107). -/
def branchIf (p : BitVec 3) (off : BitVec 21) (f : BitVec 16 → BitVec 16 → Bool) (s : State) : Out :=
  onGroup s fun c g => branchTo s c g (condDest g p off f)

/-- br (R107). -/
def execBr (off : BitVec 21) (s : State) : Out := onGroup s fun c g => branchTo s c g (target g off)
/-- br.any (R107). -/
def execBrAny (p : BitVec 3) (off : BitVec 21) (s : State) : Out := branchIf p off anyOf s
/-- br.all (R107). -/
def execBrAll (p : BitVec 3) (off : BitVec 21) (s : State) : Out := branchIf p off allOf s
/-- br.none (R107). -/
def execBrNone (p : BitVec 3) (off : BitVec 21) (s : State) : Out := branchIf p off noneOf s

/-- call (R107): g31 receives the next clause header. -/
def execCall (off : BitVec 21) (s : State) : Out :=
  onGroup s fun c g =>
    if !isHeader s g (target g off) then .next (takeTrap s c g { code := .btgt })
    else checked s c g { ill := misplaced g, wg := [31] } (goTo s c (writeG g 31 (nextHeader g)) (target g off))

/-- ret (R107). -/
def execRet (a : R6) (s : State) : Out :=
  onGroup s fun c g =>
    let dest := readG g a.toNat
    if !notG a && !isHeader s g dest then .next (takeTrap s c g { code := .btgt })
    else checked s c g { ill := misplaced g, nd := notG a, rg := [a.toNat] } (goTo s c g dest)

/-- Whether a word that br.div goes to is no clause header (R108). -/
def divBad (s : State) (g : Group) (p : BitVec 3) (off : BitVec 21) : Bool :=
  let t := taken g p
  if t = 0 then !isHeader s g (nextHeader g)
  else if g.exec &&& ~~~t = 0 then !isHeader s g (target g off)
  else !isHeader s g (target g off) || !isHeader s g (nextHeader g)

/-- br.div (R108): the smaller side goes to the Huddle, the taken side on a tie. -/
def execBrDiv (p : BitVec 3) (off : BitVec 21) (s : State) : Out :=
  onGroup s fun c g =>
    let t := taken g p
    let f := g.exec &&& ~~~t
    let nxt := nextHeader g
    let tgt := target g off
    if divBad s g p off then .next (takeTrap s c g { code := .btgt })
    else checked s c g { ill := misplaced g }
      (if g.llSeen || somePending g then .next (takeTrap s c g { code := .pend })
      else
        let r := closeRegion s g
        if t = 0 then goTo r.1 c r.2 nxt
        else if f = 0 then goTo r.1 c r.2 tgt
        else
          let takenLess := decide (popCount t ≤ popCount f)
          let m := if takenLess then t else f
          let mpc := if takenLess then tgt else nxt
          let jpc := if takenLess then nxt else tgt
          let g1 := { r.2 with alive := g.alive &&& ~~~m, exec := if takenLess then f else t }
          goTo (spawn r.1 (bump g) m mpc) c g1 jpc)

/-- Whether a control transfer finds no clause header where it goes (R85, R107, R108). -/
def noHeader (s : State) (g : Group) : Instr → Bool
  | .br off => !isHeader s g (target g off)
  | .call off => !isHeader s g (target g off)
  | .brAny p off => !isHeader s g (condDest g p off anyOf)
  | .brAll p off => !isHeader s g (condDest g p off allOf)
  | .brNone p off => !isHeader s g (condDest g p off noneOf)
  | .brDiv p off => divBad s g p off
  | .ret a => !notG a && !isHeader s g (readG g a.toNat)
  | _ => false

/-! ## join, end (R109, R111) -/

/-- Whether a group is a home group in launch lane order that holds every alive thread of it (R109). -/
def wholeHome (s : State) (c : Nat) (g : Group) : Bool :=
  g.home && (groupsOf s g.wg).all fun e =>
    e.1 = c || (tidsOf e.2 e.2.alive).all fun t => t / 16 != (g.tids.getD 0 0).toNat / 16

/-- join (R109): a release, which closes the region (R290, R297). -/
def execJoin (s : State) : Out :=
  onGroup s fun c g =>
    checked s c g { ill := misplaced g }
      (if somePending g then .next (takeTrap s c g { code := .pend })
      else
        let r := closeRegion s g
        if wholeHome s c g then goTo r.1 c (setExec r.2 g.alive) (nextHeader g)
        else .next (arriveJoin r.1 c (bump r.2) (nextHeader g)))

/-- end (R111): the active threads end; the group finishes when none remain alive. -/
def execEndThreads (s : State) : Out :=
  onGroup s fun c g =>
    if g.exec = 0 then done s c g
    else
      let r := closeRegion s g
      let left := g.alive &&& ~~~g.exec
      if left = 0 then .next (finishGroup r.1 c r.2)
      else
        let s1 := dropPrivate r.1 g.core g.wg (tidsOf g g.exec)
        .next (afterEnd (putGroup s1 c (bump (stepPast { r.2 with alive := left, exec := 0 }))) g.wg)

/-! ## Barriers, cede (R112 to R114) -/

/-- A command word accepted for a group; the fields a family uses are set by it. -/
def newCmd (s : State) (c : Nat) (g : Group) (word : Word) (flag : Nat) : Cmd :=
  { word := word, site := siteOf g, op := nfld word.toNat 25 7, sub := 0, ctx := c, inst := g.inst, launch := g.launch, wg := g.wg,
    core := g.core, tenant := tenantOf s g.launch, flag := some flag, chain := none, a := 0, b := 0, c := 0, fmt := 0,
    sc := 0, acq := false, rel := false, resG := none, result := 0, landed := [], started := false, paused := false,
    err := false, ended := false, failed := false, raw := (0, 0, 0), lead := s.nextKey, frames := [], pool := 0, lines := [], phase := 0, arrived := false,
    shadow := none, acked := [], since := s.clk, tries := 0, own := [], ready := none }

/-- Accept a barrier instruction: the Huddle emits the workgroup's bins, the region closes, the flag counts,
and the arrival registers once its release has taken effect (R112, R113). -/
def acceptBar (s : State) (c : Nat) (g : Group) (sub : Nat) (d : Option Nat) (a b : DWord) (word : Word) : Out :=
  let f := flagSel g false
  let r := closeRegion (emitBins s g.wg) g
  let k := r.1.nextKey
  let cmd := { newCmd r.1 c g word f with sub := sub, a := a, b := b, resG := d, landed := nsAddAll (tidsOf g g.alive) [] }
  let g1 := addPend (incFlag r.2 f) [] (d.toList)
  .next (settle (putGroup { r.1 with nextKey := k + 1, cmds := tset r.1.cmds k cmd } c (bump (stepPast g1))) g.wg)

/-- bar.wg (R113). -/
def execBarWg (s : State) : Out :=
  onGroup s fun c g => accepted s c g { ill := noFlag g false } false false (acceptBar s c g 0 none 0 0 (wordOf .barWg))

/-- bar.gang (R113). -/
def execBarGang (s : State) : Out :=
  onGroup s fun c g => accepted s c g { ill := noFlag g false } false false (acceptBar s c g 1 none 0 0 (wordOf .barGang))

/-- bar.arrive (R113). -/
def execBarArrive (d : R6) (s : State) : Out :=
  onGroup s fun c g => accepted s c g { ill := noFlag g false, nd := notG d, wg := [d.toNat] } false false
    (acceptBar s c g 2 (some d.toNat) 0 0 (wordOf (.barArrive d)))

/-- bar.wait (R113). -/
def execBarWait (a : R6) (s : State) : Out :=
  onGroup s fun c g => accepted s c g { ill := noFlag g false, nd := notG a, rg := [a.toNat] } false false
    (acceptBar s c g 3 none (readG g a.toNat) 0 (wordOf (.barWait a)))

/-- The values that bar.named does not take: an id above 15, a count of 0 or above the threads per workgroup (R113). -/
def namedBad (s : State) (g : Group) (id n : DWord) : Bool :=
  decide (15 < id.toNat) || n = 0 || decide (wgThreads s g.wg < n.toNat)

/-- bar.named (R113): the id and count limits are checked at acceptance. -/
def execBarNamed (a b : R6) (s : State) : Out :=
  onGroup s fun c g =>
    let id := readG g a.toNat
    let n := readG g b.toNat
    accepted s c g { ill := noFlag g false, nd := notG a || notG b, rg := [a.toNat, b.toNat] } false (namedBad s g id n)
      (acceptBar s c g 4 none id n (wordOf (.barNamed a b)))

/-- cede (R114): its flag completes at the next header. -/
def execCede (s : State) : Out :=
  onGroup s fun c g => accepted s c g { ill := noFlag g false } false false
    (let r := closeRegion s g
     let f := flagSel g false
     let g1 := addPend (incFlag r.2 f) [] []
     done r.1 c { g1 with cedes := g1.cedes ++ [f] })

/-! ## trap, sys (R115 to R121) -/

/-- trap (R115): USER, with the code in ADDR. -/
def execTrapUser (imm : BitVec 18) (s : State) : Out :=
  onGroup s fun c g => .next (takeTrap s c g { code := .user, addr := imm.setWidth 64 })

/-- The value of a CSR, none for a reserved number (R117). -/
def csrValue (s : State) (g : Group) (n : Nat) : Option DWord :=
  match n with
  | 0 => some (g.mood.setWidth 64)
  | 1 => some (g.prog.setWidth 64)
  | 2 => some (flagst g)
  | 3 => some (g.alive.setWidth 64)
  | 4 => some ((coreOf s g.core).pword.setWidth 64)
  | 5 => some (s.feats.setWidth 64)
  | 6 => some ((s.feats >>> 64).setWidth 64)
  | 7 => some (BitVec.ofNat 64 (wgLin s g.wg))
  | _ => none

/-- sys.csrr (R116 to R118). -/
def execSysCsrr (d b : R6) (s : State) : Out :=
  onGroup s fun c g =>
    checked s c g { ill := (csrValue s g b.toNat).isNone, nd := notG d, wg := [d.toNat] }
      (commitG s c g d.toNat ((csrValue s g b.toNat).getD 0))

/-- sys.csrw (R118): only MOOD may be written, and only with a value it can hold. -/
def execSysCsrw (a b : R6) (s : State) : Out :=
  onGroup s fun c g =>
    let x := readG g a.toNat
    let m : Word := x.setWidth 32
    checked s c g { ill := b != 0 || (!notG a && (x >>> 32 != 0 || !moodOk m)), nd := notG a, rg := [a.toNat] }
      (done s c { g with mood := m })

/-- The locality word of a mapped local address on a core (R121). -/
def localityWord (core pa : Nat) : DWord :=
  BitVec.ofNat 64 (quadOf pa + 4 * sliceOf pa + 256 * (core / 64) + 1024 * (core % 64) + 65536 * b2n (inLpddr pa) + 131072)

/-- sys.locq (R121): translated as a one-byte load, its faults dropped. -/
def execSysLocq (d a : R6) (s : State) : Out :=
  onGroup s fun c g =>
    let va := (readG g a.toNat).toNat
    checked s c g { nd := notG d || notG a, rg := [a.toNat], wg := [d.toNat] }
      (if 2 ^ 55 ≤ va then commitG s c g d.toNat 0
      else if 2 ^ 54 ≤ va then commitG s c g d.toNat 0x20000
      else match tlbLook s g va with
        | .pa pa _ _ => commitG s c { g with walkFault := none } d.toNat (localityWord g.core pa)
        | .walkFault _ => commitG s c { g with walkFault := none } d.toNat 0
        | .miss => .next (endWith s c g .walk 0 (.walk va)))

/-- sys.snap (R119). -/
def execSysSnap (s : State) : Out := onGroup s fun c g => done (fireSnap s 0) c g

/-- sys.clk (R116). -/
def execSysClk (d : R6) (s : State) : Out :=
  onGroup s fun c g => checked s c g { nd := notG d, wg := [d.toNat] } (commitG s c g d.toNat (BitVec.ofNat 64 s.clk))

/-- sys.flagerr (R120). -/
def execSysFlagerr (d : R6) (s : State) : Out :=
  onGroup s fun c g => checked s c g { nd := notG d, wg := [d.toNat] }
    (commitG s c (clearErrs g) d.toNat (BitVec.ofNat 64 (errBits g)))

/-! ## The clause header (R83, R84, R114) -/

/-- The field values a header may not hold (R83). -/
def headerIll (setA setB : BitVec 4) : Bool :=
  let bad (x : BitVec 4) : Bool := decide (12 ≤ x.toNat) && decide (x.toNat < 15)
  bad setA || bad setB || (setA == setB && setA != 15)

/-- The group after cede's flags complete at a header. -/
def endCedes (g : Group) : Group := { g.cedes.foldl (fun h f => decFlag h f false) g with cedes := [] }

/-- The clause begins: flags A and B, the length, and the register tests of a new clause (R84, R89). -/
def enterClause (g : Group) (setA setB : BitVec 4) (len : BitVec 5) : Group :=
  { g with setA := setA.toNat, setB := setB.toNat, len := if len = 0 then 32 else len.toNat
           coff := 1, repi := 0, rep := none, pendV := 0, pendG := 0, llSeen := false }

/-- A clause header (R84): the group ends while a flag it waits on is pending. A cede whose flag the
header waits on ends it once (R114). In a body the header's opcode is ILLOP (R85). -/
def execClause (wait : BitVec 12) (setA setB : BitVec 4) (len : BitVec 5) (s : State) : Out :=
  onGroup s fun c g =>
    checked s c g { ill := headerIll setA setB || g.coff != 0 }
      (let g1 := endCedes g
       let gw := { g1 with waitm := wait }
       if g.cedes.any fun f => wait.getLsbD f then .next (endAs s c g gw .wait 0 .none)
       else if anyPending g1 wait then .next (endAs s c g { g with waitm := wait } .wait 0 .none)
       else
         let g2 := enterClause { g1 with hbKey := if wait = 0 then g.hbKey else s.nextKey } setA setB len
         if g.engFlags &&& wait = 0 then .next (putGroup s c g2)
         else
           let r := closeRegion s { g2 with engFlags := g.engFlags &&& ~~~wait }
           .next (putGroup r.1 c r.2))

/-! ## The repeat prefix (R94 to R97) -/

/-- Opcodes of format F-R (R81). -/
def isFR (op : Nat) : Bool :=
  [0x00, 0x02, 0x08, 0x0A, 0x0B, 0x0C, 0x0D, 0x0F, 0x70].contains op || (decide (0x10 ≤ op) && decide (op ≤ 0x27))
    || (decide (0x2B ≤ op) && decide (op ≤ 0x47))
/-- Opcodes of format F-I. -/
def isFI (op : Nat) : Bool := [0x01, 0x0E, 0x28, 0x29].contains op
/-- Opcodes of format F-M. -/
def isFM (op : Nat) : Bool :=
  [0x2A, 0x53, 0x55, 0x56, 0x57].contains op || (decide (0x48 ≤ op) && decide (op ≤ 0x4E))

/-- Fields D, A and B of a word that name a predicate, a special or, with U = 0, a g register (R127, R206). -/
def fixedFields (w : Nat) : Bool × Bool × Bool :=
  let op := nfld w 25 7
  let sub := nfld w 0 3
  let u := nbit w 24
  if op = 0x24 || op = 0x36 then (true, false, false)
  else if op = 0x26 then (false, sub != 0, false)
  else if op = 0x27 then (sub != 6, sub != 5, !u && sub != 4)
  else if op = 0x70 then (false, false, !u)
  else if op = 0x2C then (true, sub != 3, false)
  else if op = 0x2F then (sub = 1 || sub = 3, false, false)
  else (false, false, false)

/-- The prefix raises ILLOP for the word it repeats (R96, R103, R127). -/
def repIll (g : Group) (w : Nat) (dD dA dB : BitVec 4) : Bool :=
  let op := nfld w 25 7
  let f := fixedFields w
  g.coff = g.len || !(isFR op || isFI op || isFM op) || decide (op < 0x10) ||
    (isFI op && dA != 0) || ((isFI op || isFM op || (isFR op && nbit w 3)) && dB != 0) ||
    (f.1 && dD != 0) || (f.2.1 && dA != 0) || (f.2.2 && dB != 0)

/-- rep (R94 to R96): issues nothing and is not counted; the next word is issued cnt + 1 times. DESIGN CHOICE (log 52): where the next word
cannot be fetched, XLATE with that word's address is raised at the rep word. -/
def execRep (cnt : BitVec 6) (dD dA dB : BitVec 4) (s : State) : Out :=
  onGroup s fun c g =>
    match fetchWord s g.core (asidOf s g.launch) (wordAddr g + 4).toNat with
    | none => checked s c g { ill := g.coff = g.len } (.next (takeTrap s c g { code := .xlate, addr := wordAddr g + 4 }))
    | some w =>
      checked s c g { ill := repIll g w.toNat dD dA dB }
        (.next (putGroup s c { g with rep := some { cnt := cnt.toNat, dD := dD.toInt, dA := dA.toInt, dB := dB.toInt } }))

end Sys2Proof.Machine
end

