-- ==== Sys2Proof/Machine/Integer.lean ====
section
/-! DEFINITION. Opcodes 0x10 to 0x1F: integer arithmetic, logic and shifts (R122 to R126). -/

namespace Sys2Proof.Machine

/-- An exact result clamped if it saturates and kept modulo 2^N (R122, R124). -/
def intOp (sat : Bool) (f : Nat → Int → Int → Int → Int) (m : Word) (n : Nat) (a b d : BitVec n) : BitVec n :=
  BitVec.ofInt n (saturate m n sat (f n (ival m a) (ival m b) (ival m d)))

/-- iadd (R123). -/
def execIadd (u : Bool) (d a b : R6) (la lb im : Bool) (s : State) : Out :=
  alu u d a b la lb im true false (intOp true fun _ x y _ => x + y) s
/-- isub (R123). -/
def execIsub (u : Bool) (d a b : R6) (la lb im : Bool) (s : State) : Out :=
  alu u d a b la lb im true false (intOp true fun _ x y _ => x - y) s
/-- imul (R123). -/
def execImul (u : Bool) (d a b : R6) (la lb im : Bool) (s : State) : Out :=
  alu u d a b la lb im true false (intOp true fun _ x y _ => x * y) s
/-- imulh (R123). -/
def execImulh (u : Bool) (d a b : R6) (la lb im : Bool) (s : State) : Out :=
  alu u d a b la lb im true false (intOp false fun n x y _ => Int.fdiv (x * y) (2 ^ n)) s
/-- imad (R123): D is read before it is written. -/
def execImad (u : Bool) (d a b : R6) (la lb im : Bool) (s : State) : Out :=
  alu u d a b la lb im true true (intOp true fun _ x y z => x * y + z) s
/-- imin (R123). -/
def execImin (u : Bool) (d a b : R6) (la lb im : Bool) (s : State) : Out :=
  alu u d a b la lb im true false (intOp false fun _ x y _ => min x y) s
/-- imax (R123). -/
def execImax (u : Bool) (d a b : R6) (la lb im : Bool) (s : State) : Out :=
  alu u d a b la lb im true false (intOp false fun _ x y _ => max x y) s
/-- iabs (R123). -/
def execIabs (u : Bool) (d a : R6) (la : Bool) (s : State) : Out :=
  alu u d a 0 la false false false false (intOp true fun _ x _ _ => (x.natAbs : Int)) s
/-- ineg (R123). -/
def execIneg (u : Bool) (d a : R6) (la : Bool) (s : State) : Out :=
  alu u d a 0 la false false false false (intOp true fun _ x _ _ => -x) s

/-- A signed quotient; all ones by zero; the most negative value by -1 is itself (R125). -/
def quotS {n : Nat} (a b : BitVec n) : BitVec n :=
  if b = 0 then BitVec.allOnes n else BitVec.ofInt n (Int.tdiv a.toInt b.toInt)
/-- An unsigned quotient (R125). -/
def quotN {n : Nat} (a b : BitVec n) : BitVec n :=
  if b = 0 then BitVec.allOnes n else BitVec.ofNat n (a.toNat / b.toNat)
/-- A signed remainder, with the dividend's sign; the dividend by zero (R125). -/
def remS {n : Nat} (a b : BitVec n) : BitVec n :=
  if b = 0 then a else BitVec.ofInt n (Int.tmod a.toInt b.toInt)
/-- An unsigned remainder (R125). -/
def remN {n : Nat} (a b : BitVec n) : BitVec n :=
  if b = 0 then a else BitVec.ofNat n (a.toNat % b.toNat)

/-- idiv.qs (R125). -/
def execIdivQs (u : Bool) (d a b : R6) (la lb im : Bool) (s : State) : Out :=
  alu u d a b la lb im true false (fun _ _ x y _ => quotS x y) s
/-- idiv.qn (R125). -/
def execIdivQn (u : Bool) (d a b : R6) (la lb im : Bool) (s : State) : Out :=
  alu u d a b la lb im true false (fun _ _ x y _ => quotN x y) s
/-- idiv.rs (R125). -/
def execIdivRs (u : Bool) (d a b : R6) (la lb im : Bool) (s : State) : Out :=
  alu u d a b la lb im true false (fun _ _ x y _ => remS x y) s
/-- idiv.rn (R125). -/
def execIdivRn (u : Bool) (d a b : R6) (la lb im : Bool) (s : State) : Out :=
  alu u d a b la lb im true false (fun _ _ x y _ => remN x y) s

/-- and (R123). -/
def execBitAnd (u : Bool) (d a b : R6) (la lb im : Bool) (s : State) : Out :=
  alu u d a b la lb im true false (fun _ _ x y _ => x &&& y) s
/-- or (R123). -/
def execBitOr (u : Bool) (d a b : R6) (la lb im : Bool) (s : State) : Out :=
  alu u d a b la lb im true false (fun _ _ x y _ => x ||| y) s
/-- xor (R123). -/
def execBitXor (u : Bool) (d a b : R6) (la lb im : Bool) (s : State) : Out :=
  alu u d a b la lb im true false (fun _ _ x y _ => x ^^^ y) s
/-- andn (R123). -/
def execBitAndn (u : Bool) (d a b : R6) (la lb im : Bool) (s : State) : Out :=
  alu u d a b la lb im true false (fun _ _ x y _ => x &&& ~~~y) s

/-- A shift by the full-width value of B: beyond the width only the fill is left (R126). -/
def shiftBy {n : Nat} (a b : BitVec n) (f : BitVec n → Nat → BitVec n) : BitVec n := f a (min b.toNat n)

/-- shl (R126). -/
def execShl (u : Bool) (d a b : R6) (la lb im : Bool) (s : State) : Out :=
  alu u d a b la lb im true false (fun _ _ x y _ => shiftBy x y fun v k => v <<< k) s
/-- shr.l (R126). -/
def execShrL (u : Bool) (d a b : R6) (la lb im : Bool) (s : State) : Out :=
  alu u d a b la lb im true false (fun _ _ x y _ => shiftBy x y fun v k => v >>> k) s
/-- shr.a (R126). -/
def execShrA (u : Bool) (d a b : R6) (la lb im : Bool) (s : State) : Out :=
  alu u d a b la lb im true false (fun _ _ x y _ => shiftBy x y fun v k => v.sshiftRight k) s

end Sys2Proof.Machine
end

