-- ==== Sys2Proof/Machine/FloatOps.lean ====
section
/-! DEFINITION. Opcodes 0x30 to 0x3F: floating point on f32, packed f16 and packed bf16 (R143 to R149). -/

namespace Sys2Proof.Machine

/-- Apply an element operation to a word: once for f32, to both halves of a pair otherwise (R143). -/
def perElem (t : Nat) (f : Fmt → Nat → Nat → Nat → Nat) (a b d : Word) : Word :=
  if t = 0 then BitVec.ofNat 32 (f fmtF32 a.toNat b.toNat d.toNat)
  else
    let k := fmtOfType t
    BitVec.ofNat 32 (f k (nfld a.toNat 0 16) (nfld b.toNat 0 16) (nfld d.toNat 0 16)
      + 65536 * f k (nfld a.toNat 16 16) (nfld b.toNat 16 16) (nfld d.toNat 16 16))

/-- An input element, flushed under FTZ (R144 step 1). -/
def finput (m : Word) (f : Fmt) (x : Nat) : FVal := fval f (flush f (moodFtz m) x)

/-- An output element (R144 steps 2 to 5). -/
def foutput (m : Word) (f : Fmt) (v : FVal) : Nat := finishVal f (moodRound m) (moodFtz m) (moodSat m) v

/-- An arithmetic operation on a word under MOOD; h takes the rounding mode, A, B and D. -/
def farith (h : Fmt → Nat → FVal → FVal → FVal → FVal) (m a b d : Word) : Word :=
  perElem (moodType m) (fun f x y z => foutput m f (h f (moodRound m) (finput m f x) (finput m f y) (finput m f z))) a b d

/-- The shape of a floating instruction: ILLTYPE unless TYPE is f32, f16 or bf16; the uniform form works
on bits [31:0] (R143). -/
def fop (u : Bool) (d a b : R6) (la lb two rd : Bool) (f : Word → Word → Word → Word → Word) (s : State) : Out :=
  onGroup s fun c g =>
    let use := if u then useU d a b la lb false two rd else useV g d a b la lb false two rd
    checked s c g use
      (if 2 < moodType g.mood then .next (takeTrap s c g { code := .illtype })
      else if u then
        commitG s c g d.toNat ((f g.mood ((readG g a.toNat).setWidth 32) ((readG g b.toNat).setWidth 32)
          ((readG g d.toNat).setWidth 32)).setWidth 64)
      else commitV s c g use d.toNat fun l => f g.mood (readV g a.toNat l) (readV g b.toNat l) (readV g d.toNat l))

/-- fadd (R145). -/
def execFadd (u : Bool) (d a b : R6) (la lb : Bool) (s : State) : Out :=
  fop u d a b la lb true false (farith fun _ r x y _ => faddV r x y) s
/-- fsub (R145). -/
def execFsub (u : Bool) (d a b : R6) (la lb : Bool) (s : State) : Out :=
  fop u d a b la lb true false (farith fun _ r x y _ => faddV r x (fneg y)) s
/-- fmul (R145). -/
def execFmul (u : Bool) (d a b : R6) (la lb : Bool) (s : State) : Out :=
  fop u d a b la lb true false (farith fun _ _ x y _ => fmulV x y) s
/-- ffma (R145). -/
def execFfma (u : Bool) (d a b : R6) (la lb : Bool) (s : State) : Out :=
  fop u d a b la lb true true (farith fun _ r x y z => ffmaV r x y z) s
/-- ffma.ms (R145). -/
def execFfmaMs (u : Bool) (d a b : R6) (la lb : Bool) (s : State) : Out :=
  fop u d a b la lb true true (farith fun _ r x y z => ffmaV r x y (fneg z)) s
/-- ffma.nm (R145). -/
def execFfmaNm (u : Bool) (d a b : R6) (la lb : Bool) (s : State) : Out :=
  fop u d a b la lb true true (farith fun _ r x y z => ffmaV r (fneg x) y z) s
/-- ffma.nms (R145). -/
def execFfmaNms (u : Bool) (d a b : R6) (la lb : Bool) (s : State) : Out :=
  fop u d a b la lb true true (farith fun _ r x y z => ffmaV r (fneg x) y (fneg z)) s

/-- The minimum or maximum of two codes, a NaN giving the canonical NaN (R146). -/
def fpick (max : Bool) (ftz : Bool) (f : Fmt) (x y : Nat) : Nat :=
  let p := flush f ftz x
  let q := flush f ftz y
  if isNan (fval f p) || isNan (fval f q) then nanCode f
  else if flt true (fval f p) (fval f q) = max then q else p

/-- fmin (R146). -/
def execFmin (u : Bool) (d a b : R6) (la lb : Bool) (s : State) : Out :=
  fop u d a b la lb true false (fun m x y z => perElem (moodType m) (fun f p q _ => fpick false (moodFtz m) f p q) x y z) s
/-- fmax (R146). -/
def execFmax (u : Bool) (d a b : R6) (la lb : Bool) (s : State) : Out :=
  fop u d a b la lb true false (fun m x y z => perElem (moodType m) (fun f p q _ => fpick true (moodFtz m) f p q) x y z) s

/-- The values fcmp compares: element 0 of a pair (R147). -/
def fcmpIn (m : Word) (x : Word) : FVal :=
  if moodType m = 0 then finput m fmtF32 x.toNat else finput m (fmtOfType (moodType m)) (nfld x.toNat 0 16)

/-- fcmp (R147), under icmp's rules for lanes and the uniform form. -/
def fcmpOp (u : Bool) (d a b : R6) (la lb : Bool) (f : FVal → FVal → Bool) (s : State) : Out :=
  onGroup s fun c g =>
    let use := if u then { useU 0 a b la lb false true false with wg := [] }
               else { useV g 0 a b la lb false true false with wv := [] }
    checked s c g { use with nd := use.nd || decide (8 ≤ d.toNat) }
      (if 2 < moodType g.mood then .next (takeTrap s c g { code := .illtype })
      else if u then
        commitP s c g {} d.toNat (if f (fcmpIn g.mood ((readG g a.toNat).setWidth 32))
          (fcmpIn g.mood ((readG g b.toNat).setWidth 32)) then BitVec.allOnes 16 else 0)
      else commitP s c g use d.toNat (bits16 fun l =>
        if g.exec.getLsbD l then f (fcmpIn g.mood (readV g a.toNat l)) (fcmpIn g.mood (readV g b.toNat l))
        else (readP g d.toNat).getLsbD l))

/-- Unordered (R147). -/
def funord (x y : FVal) : Bool := isNan x || isNan y
/-- Ordered and equal. -/
def feq (x y : FVal) : Bool := !funord x y && !flt false x y && !flt false y x

/-- fcmp.eq (R147). -/
def execFcmpEq (u : Bool) (d a b : R6) (la lb : Bool) (s : State) : Out := fcmpOp u d a b la lb feq s
/-- fcmp.ne (R147). -/
def execFcmpNe (u : Bool) (d a b : R6) (la lb : Bool) (s : State) : Out := fcmpOp u d a b la lb (fun x y => !feq x y) s
/-- fcmp.lt (R147). -/
def execFcmpLt (u : Bool) (d a b : R6) (la lb : Bool) (s : State) : Out := fcmpOp u d a b la lb (fun x y => flt false x y) s
/-- fcmp.le (R147). -/
def execFcmpLe (u : Bool) (d a b : R6) (la lb : Bool) (s : State) : Out :=
  fcmpOp u d a b la lb (fun x y => !funord x y && !flt false y x) s
/-- fcmp.gt (R147). -/
def execFcmpGt (u : Bool) (d a b : R6) (la lb : Bool) (s : State) : Out := fcmpOp u d a b la lb (fun x y => flt false y x) s
/-- fcmp.ge (R147). -/
def execFcmpGe (u : Bool) (d a b : R6) (la lb : Bool) (s : State) : Out :=
  fcmpOp u d a b la lb (fun x y => !funord x y && !flt false x y) s
/-- fcmp.un (R147). -/
def execFcmpUn (u : Bool) (d a b : R6) (la lb : Bool) (s : State) : Out := fcmpOp u d a b la lb funord s
/-- fcmp.or (R147). -/
def execFcmpOr (u : Bool) (d a b : R6) (la lb : Bool) (s : State) : Out := fcmpOp u d a b la lb (fun x y => !funord x y) s

/-- The sign bits of a word's elements (R148). -/
def signBits (m : Word) : Word := if moodType m = 0 then 0x80000000 else 0x80008000

/-- fabs (R148). -/
def execFabs (u : Bool) (d a : R6) (la : Bool) (s : State) : Out :=
  fop u d a 0 la false false false (fun m x _ _ => x &&& ~~~signBits m) s
/-- fneg (R148). -/
def execFneg (u : Bool) (d a : R6) (la : Bool) (s : State) : Out :=
  fop u d a 0 la false false false (fun m x _ _ => x ^^^ signBits m) s

/-- frcp (R149). -/
def execFrcp (u : Bool) (d a : R6) (la : Bool) (s : State) : Out :=
  fop u d a 0 la false false false (farith fun _ _ x _ _ => fdivV 40 (.fin false 1 0) x) s
/-- fsqrt (R149). -/
def execFsqrt (u : Bool) (d a : R6) (la : Bool) (s : State) : Out :=
  fop u d a 0 la false false false (farith fun _ _ x _ _ => fsqrtV 40 x) s
/-- frsq (R149). -/
def execFrsq (u : Bool) (d a : R6) (la : Bool) (s : State) : Out :=
  fop u d a 0 la false false false (farith fun _ _ x _ _ => frsqV 40 x) s
/-- fexp (R149). -/
def execFexp (u : Bool) (d a : R6) (la : Bool) (s : State) : Out :=
  fop u d a 0 la false false false (farith fun f r x _ _ => fexpV f r x) s
/-- fln (R149). -/
def execFln (u : Bool) (d a : R6) (la : Bool) (s : State) : Out :=
  fop u d a 0 la false false false (farith fun f r x _ _ => flnV f r x) s
/-- fexp2 (R149). -/
def execFexp2 (u : Bool) (d a : R6) (la : Bool) (s : State) : Out :=
  fop u d a 0 la false false false (farith fun f r x _ _ => fexp2V f r x) s
/-- flog2 (R149). -/
def execFlog2 (u : Bool) (d a : R6) (la : Bool) (s : State) : Out :=
  fop u d a 0 la false false false (farith fun f r x _ _ => flog2V f r x) s

end Sys2Proof.Machine
end

