-- ==== Sys2Proof/Machine/BitsLanes.lean ====
section
/-! DEFINITION. Opcodes 0x20 to 0x2F: bits, compares, selects, moves, constants and the cross-lane
instructions (R127 to R142). -/

namespace Sys2Proof.Machine

/-! ## Bits (R129, R130) -/

/-- rot.l (R129). -/
def execRotL (u : Bool) (d a b : R6) (la lb im : Bool) (s : State) : Out :=
  alu u d a b la lb im true false (fun _ n x y _ => x.rotateLeft (y.toNat % n)) s
/-- rot.r (R129). -/
def execRotR (u : Bool) (d a b : R6) (la lb im : Bool) (s : State) : Out :=
  alu u d a b la lb im true false (fun _ n x y _ => x.rotateRight (y.toNat % n)) s

/-- The number of 1 bits. -/
def popc {n : Nat} (x : BitVec n) : Nat := ((List.range n).filter fun i => x.getLsbD i).length
/-- The number of leading 0 bits. -/
def clzN {n : Nat} (x : BitVec n) : Nat := if x = 0 then n else n - 1 - Nat.log2 x.toNat
/-- The number of trailing 0 bits. -/
def ctzN {n : Nat} (x : BitVec n) : Nat := ((List.range n).find? fun i => x.getLsbD i).getD n
/-- Bit i moved to bit n - 1 - i. -/
def brevN {n : Nat} (x : BitVec n) : Nat := (List.range n).foldl (fun v i => 2 * v + b2n (x.getLsbD i)) 0

/-- bitc.popc (R129). -/
def execBitcPopc (u : Bool) (d a : R6) (la : Bool) (s : State) : Out :=
  alu u d a 0 la false false false false (fun _ n x _ _ => BitVec.ofNat n (popc x)) s
/-- bitc.clz (R129). -/
def execBitcClz (u : Bool) (d a : R6) (la : Bool) (s : State) : Out :=
  alu u d a 0 la false false false false (fun _ n x _ _ => BitVec.ofNat n (clzN x)) s
/-- bitc.ctz (R129). -/
def execBitcCtz (u : Bool) (d a : R6) (la : Bool) (s : State) : Out :=
  alu u d a 0 la false false false false (fun _ n x _ _ => BitVec.ofNat n (ctzN x)) s
/-- bitc.brev (R129). -/
def execBitcBrev (u : Bool) (d a : R6) (la : Bool) (s : State) : Out :=
  alu u d a 0 la false false false false (fun _ n x _ _ => BitVec.ofNat n (brevN x)) s

/-- The clamped field position of a B value: offset and width (R130). -/
def fieldPos (n bv : Nat) : Nat × Nat := let o := min (nfld bv 0 7) n; (o, min (nfld bv 8 7) (n - o))

/-- bfe.n (R130). -/
def execBfeN (u : Bool) (d a b : R6) (la lb : Bool) (s : State) : Out :=
  alu u d a b la lb false true false (fun _ n x y _ =>
    let p := fieldPos n y.toNat
    BitVec.ofNat n (nfld x.toNat p.1 p.2)) s
/-- bfe.s (R130). -/
def execBfeS (u : Bool) (d a b : R6) (la lb : Bool) (s : State) : Out :=
  alu u d a b la lb false true false (fun _ n x y _ =>
    let p := fieldPos n y.toNat
    BitVec.ofInt n (BitVec.ofNat p.2 (nfld x.toNat p.1 p.2)).toInt) s
/-- bfi (R130). -/
def execBfi (u : Bool) (d a b : R6) (la lb : Bool) (s : State) : Out :=
  alu u d a b la lb false true true (fun _ n x y z =>
    let p := fieldPos n y.toNat
    BitVec.ofNat n (z.toNat - nfld z.toNat p.1 p.2 * 2 ^ p.1 + nfld x.toNat 0 p.2 * 2 ^ p.1)) s

/-! ## Comparison, selection, predicates (R131 to R133) -/

/-- icmp.eq (R131). -/
def execIcmpEq (u : Bool) (d a b : R6) (la lb im : Bool) (s : State) : Out :=
  cmpOp u d a b la lb im (fun m _ x y => decide (ival m x = ival m y)) s
/-- icmp.ne (R131). -/
def execIcmpNe (u : Bool) (d a b : R6) (la lb im : Bool) (s : State) : Out :=
  cmpOp u d a b la lb im (fun m _ x y => decide (ival m x ≠ ival m y)) s
/-- icmp.lt (R131). -/
def execIcmpLt (u : Bool) (d a b : R6) (la lb im : Bool) (s : State) : Out :=
  cmpOp u d a b la lb im (fun m _ x y => decide (ival m x < ival m y)) s
/-- icmp.le (R131). -/
def execIcmpLe (u : Bool) (d a b : R6) (la lb im : Bool) (s : State) : Out :=
  cmpOp u d a b la lb im (fun m _ x y => decide (ival m x ≤ ival m y)) s
/-- icmp.gt (R131). -/
def execIcmpGt (u : Bool) (d a b : R6) (la lb im : Bool) (s : State) : Out :=
  cmpOp u d a b la lb im (fun m _ x y => decide (ival m y < ival m x)) s
/-- icmp.ge (R131). -/
def execIcmpGe (u : Bool) (d a b : R6) (la lb im : Bool) (s : State) : Out :=
  cmpOp u d a b la lb im (fun m _ x y => decide (ival m y ≤ ival m x)) s

/-- sel (R132): A where the predicate bit is 1, B otherwise; A in the uniform form when any bit is. -/
def execSel (u : Bool) (d a b : R6) (la lb im : Bool) (pr : BitVec 3) (s : State) : Out :=
  onGroup s fun c g =>
    if u then
      checked s c g (useU d a b la lb im true false)
        (commitG s c g d.toNat (if readP g pr.toNat = 0 then srcB64 g b im else readG g a.toNat))
    else
      let use := useV g d a b la lb im true false
      checked s c g use (commitV s c g use d.toNat fun l =>
        if (readP g pr.toNat).getLsbD l then readV g a.toNat l else srcB32 g b im l)

/-- Predicate logic on predicates: fields from 8 are ILLOPND (R133). -/
def plog (d a b : R6) (f : BitVec 16 → BitVec 16 → BitVec 16) (s : State) : Out :=
  onGroup s fun c g =>
    checked s c g { nd := decide (8 ≤ d.toNat) || decide (8 ≤ a.toNat) || decide (8 ≤ b.toNat) }
      (commitP s c g {} d.toNat (f (readP g a.toNat) (readP g b.toNat)))

/-- plog.and (R133). -/
def execPlogAnd (d a b : R6) (s : State) : Out := plog d a b (fun x y => x &&& y) s
/-- plog.or (R133). -/
def execPlogOr (d a b : R6) (s : State) : Out := plog d a b (fun x y => x ||| y) s
/-- plog.xor (R133). -/
def execPlogXor (d a b : R6) (s : State) : Out := plog d a b (fun x y => x ^^^ y) s
/-- plog.andn (R133). -/
def execPlogAndn (d a b : R6) (s : State) : Out := plog d a b (fun x y => x &&& ~~~y) s
/-- plog.not (R133). -/
def execPlogNot (d a : R6) (s : State) : Out := plog d a 0 (fun x _ => ~~~x) s
/-- plog.fromg (R133). -/
def execPlogFromg (d a : R6) (s : State) : Out :=
  onGroup s fun c g => checked s c g { nd := decide (8 ≤ d.toNat) || notG a, rg := [a.toNat] }
    (commitP s c g {} d.toNat ((readG g a.toNat).setWidth 16))
/-- plog.tog (R133). -/
def execPlogTog (d a : R6) (s : State) : Out :=
  onGroup s fun c g => checked s c g { nd := decide (8 ≤ a.toNat) || notG d, wg := [d.toNat] }
    (commitG s c g d.toNat ((readP g a.toNat).setWidth 64))

/-! ## Moves and constants (R134 to R136) -/

/-- mov of a register (R134). -/
def execMov (u : Bool) (d a : R6) (la : Bool) (s : State) : Out :=
  alu u d a 0 la false false false false (fun _ _ x _ _ => x) s

/-- A special of the group (R65, R134): %wgx to %clk by code. -/
def groupSpecial (s : State) (g : Group) (k : Nat) : Nat :=
  let ds := descOf s g.launch
  let lin := match tget s.wgs g.wg with
    | some w => w.lin
    | none => 0
  match k with
  | 3 => lin % ds.gx
  | 4 => lin / ds.gx % ds.gy
  | 5 => lin / ds.gx / ds.gy
  | 6 => lin / ds.gang
  | 7 => launchId s g.launch
  | 8 => g.core
  | _ => s.clk

/-- A special of a thread: %tid, %gid, %lane. -/
def threadSpecial (g : Group) (k l : Nat) : Nat :=
  let t := (g.tids.getD l 0).toNat
  match k with
  | 0 => t
  | 1 => t / 16
  | _ => l

/-- mov of a special (R134): codes from 10 and a thread special in the uniform form are ILLOP. -/
def execMovSpecial (u : Bool) (d a : R6) (s : State) : Out :=
  onGroup s fun c g =>
    let k := a.toNat
    if u then
      checked s c g { ill := decide (k < 3) || decide (10 ≤ k), nd := notG d, wg := [d.toNat] }
        (commitG s c g d.toNat (BitVec.ofNat 64 (groupSpecial s g k)))
    else
      let use : Use := { ill := decide (10 ≤ k), wv := [d.toNat] }
      checked s c g use (commitV s c g use d.toNat fun l =>
        BitVec.ofNat 32 (if k < 3 then threadSpecial g k l else groupSpecial s g k))

/-- mov vD, gA (R134). -/
def execMovG (d a : R6) (s : State) : Out :=
  onGroup s fun c g =>
    let use : Use := { nd := notG a, rg := [a.toNat], wv := [d.toNat] }
    checked s c g use (commitV s c g use d.toNat fun _ => (readG g a.toNat).setWidth 32)

/-- ldi (R135). -/
def execLdi (u : Bool) (d : R6) (imm : BitVec 18) (s : State) : Out :=
  onGroup s fun c g =>
    if u then checked s c g { nd := notG d, wg := [d.toNat] } (commitG s c g d.toNat (imm.signExtend 64))
    else
      let use : Use := { wv := [d.toNat] }
      checked s c g use (commitV s c g use d.toNat fun _ => imm.signExtend 32)

/-- khi (R135): D is read first. -/
def execKhi (u : Bool) (d : R6) (imm : BitVec 18) (s : State) : Out :=
  onGroup s fun c g =>
    if u then checked s c g { nd := notG d, rg := [d.toNat], wg := [d.toNat] }
      (commitG s c g d.toNat (readG g d.toNat <<< 18 + imm.setWidth 64))
    else
      let use : Use := { rv := [d.toNat], wv := [d.toNat], lanes := g.exec }
      checked s c g use (commitV s c g use d.toNat fun l => readV g d.toNat l <<< 18 + imm.setWidth 32)

/-- The width in bytes of a w field (R76). -/
def widthBytes (w : BitVec 3) : Nat :=
  match w.toNat with
  | 0 => 1
  | 1 => 1
  | 2 => 2
  | 3 => 2
  | 4 => 4
  | 5 => 8
  | _ => 16

/-- The address of F-M: base plus index, scaled when S = 1, modulo 2^64 (R76). -/
def fmAddr (g : Group) (u : Bool) (gb : BitVec 5) (ix : R6) (sx : Bool) (n l : Nat) : DWord :=
  let i : DWord := if u then readG g ix.toNat else (readV g ix.toNat l).setWidth 64
  readG g gb.toNat + i * BitVec.ofNat 64 (if sx then n else 1)

/-- lea (R136): the address to gD, or to the pair D, D + 1 of each active lane. -/
def execLea (u : Bool) (d : R6) (gb : BitVec 5) (ix : R6) (li sx : Bool) (w : BitVec 3) (s : State) : Out :=
  onGroup s fun c g =>
    let ill := w = 7 || (!sx && w != 0) || (u && li)
    if u then
      checked s c g { ill := ill, nd := notG d || notG ix, rg := [gb.toNat, ix.toNat], wg := [d.toNat] }
        (commitG s c g d.toNat (fmAddr g u gb ix sx (widthBytes w) 0))
    else
      let use : Use := { ill := ill, nd := decide (d.toNat % 2 = 1), rv := [ix.toNat], wv := [d.toNat, d.toNat + 1]
                         rg := [gb.toNat], marks := if li then [ix.toNat] else [], lanes := g.exec }
      checked s c g use (commitVM s c g use g.exec
        [(d.toNat, fun l => (fmAddr g u gb ix sx (widthBytes w) l).setWidth 32),
         (d.toNat + 1, fun l => (fmAddr g u gb ix sx (widthBytes w) l >>> 32).setWidth 32)])

/-! ## Cross-lane instructions (R137 to R142) -/

/-- Whether the member mask has a lane that EXEC lacks (R137). -/
def membBad (g : Group) : Bool := memberMask g &&& ~~~g.exec != 0

/-- The use of a cross-lane form that reads A, and B where given, in the lanes of M; where M has a lane outside EXEC, MEMBR is raised
before anything is read, and no word can raise ECCU (R137, R242). -/
def useX (g : Group) (a : R6) (la : Bool) (b : List Nat) (lb : Bool) (wv : List Nat) : Use :=
  { rv := a.toNat :: b, wv := wv, marks := (if la then [a.toNat] else []) ++ (if lb then b else []), lanes := if membBad g then 0 else memberMask g }

/-- A cross-lane instruction with a vector result in every lane of M; bad is its type check (R137). -/
def crossV (use : Group → Use) (d : R6) (bad : Word → Bool) (f : Group → BitVec 16 → Nat → Word) (s : State) : Out :=
  onGroup s fun c g =>
    checked s c g (use g)
      (if bad g.mood then .next (takeTrap s c g { code := .illtype })
      else if membBad g then .next (takeTrap s c g { code := .membr })
      else commitVM s c g (use g) (memberMask g) [(d.toNat, f g (memberMask g))])

/-- shfl: lane l receives A of lane j, its own where j is not a member (R138). -/
def shflOp (d a b : R6) (la lb im : Bool) (j : Nat → Word → Int) (s : State) : Out :=
  crossV (fun g => { useX g a la (if im then [] else [b.toNat]) lb [d.toNat] with ill := lb && im }) d (fun _ => false)
    (fun g m l =>
      let k := j l (srcB32 g b im l)
      if 0 ≤ k && decide (k < 16) && m.getLsbD k.toNat then readV g a.toNat k.toNat else readV g a.toNat l) s

/-- shfl.idx (R138). -/
def execShflIdx (d a b : R6) (la lb im : Bool) (s : State) : Out :=
  shflOp d a b la lb im (fun _ x => (nfld x.toNat 0 4 : Nat)) s
/-- shfl.up (R138). -/
def execShflUp (d a b : R6) (la lb im : Bool) (s : State) : Out :=
  shflOp d a b la lb im (fun l x => (l : Int) - x.toNat) s
/-- shfl.down (R138). -/
def execShflDown (d a b : R6) (la lb im : Bool) (s : State) : Out :=
  shflOp d a b la lb im (fun l x => (l : Int) + x.toNat) s
/-- shfl.xor (R138). -/
def execShflXor (d a b : R6) (la lb im : Bool) (s : State) : Out :=
  shflOp d a b la lb im (fun l x => (Nat.xor l (nfld x.toNat 0 4) : Nat)) s

/-- Set the lanes of M in a predicate to one bit (R139). -/
def voteBits (old m : BitVec 16) (b : Bool) : BitVec 16 := if b then old ||| m else old &&& ~~~m

/-- A vote with a predicate result (R139). -/
def voteP (use : Group → Use) (d : R6) (f : Group → BitVec 16 → Bool) (s : State) : Out :=
  onGroup s fun c g =>
    checked s c g (use g)
      (if membBad g then .next (takeTrap s c g { code := .membr })
      else commitP s c g (use g) d.toNat (voteBits (readP g d.toNat) (memberMask g) (f g (memberMask g))))

/-- vote.any (R139). -/
def execVoteAny (d a : R6) (s : State) : Out :=
  voteP (fun _ => { nd := decide (8 ≤ d.toNat) || decide (8 ≤ a.toNat) }) d (fun g m => readP g a.toNat &&& m != 0) s
/-- vote.all (R139). -/
def execVoteAll (d a : R6) (s : State) : Out :=
  voteP (fun _ => { nd := decide (8 ≤ d.toNat) || decide (8 ≤ a.toNat) }) d
    (fun g m => m != 0 && readP g a.toNat &&& m == m) s
/-- vote.bal (R139): a g result, 0 for an empty mask. -/
def execVoteBal (d a : R6) (s : State) : Out :=
  onGroup s fun c g =>
    checked s c g { nd := notG d || decide (8 ≤ a.toNat), wg := [d.toNat] }
      (if membBad g then .next (takeTrap s c g { code := .membr })
      else commitG s c g d.toNat ((readP g a.toNat &&& memberMask g).setWidth 64))
/-- vote.eq (R139). -/
def execVoteEq (d a : R6) (la : Bool) (s : State) : Out :=
  voteP (fun g => { useX g a la [] false [] with nd := decide (8 ≤ d.toNat) }) d
    (fun g m => (lanesOf m).all fun l => readV g a.toNat l == readV g a.toNat (firstLane m)) s

/-- One addition of packed or single floats (R140, R144). -/
def faddWord (m : Word) (x y : Word) : Word := farith (fun _ r p q _ => faddV r p q) m x y 0

/-- Combine two optional nodes (R140). -/
def node (f : Word → Word → Word) (x y : Option Word) : Option Word :=
  match x, y with
  | none, b => b
  | a, none => a
  | some a, some b => some (f a b)

/-- One level of the tree: neighbours combined. -/
def treeLevel (f : Word → Word → Word) : List (Option Word) → List (Option Word)
  | a :: b :: t => node f a b :: treeLevel f t
  | l => l

/-- The lane tree of lred.fadd (R140). -/
def treeSum (f : Word → Word → Word) (xs : List (Option Word)) : Word :=
  ((treeLevel f (treeLevel f (treeLevel f (treeLevel f xs)))).headD none).getD 0

/-- The A values of the lanes of a mask. -/
def memberVals (g : Group) (a : R6) (m : BitVec 16) : List Word := (lanesOf m).map fun l => readV g a.toNat l

/-- Fold the values of a mask from its first lane on; 0 for an empty mask. -/
def foldVals (f : Word → Word → Word) (xs : List Word) : Word :=
  match xs with
  | [] => 0
  | x :: t => t.foldl f x

/-- The integer sum of lred and lscan, clamped once when SAT is set (R140). -/
def sumWord (m : Word) (xs : List Word) : Word :=
  BitVec.ofInt 32 (saturate m 32 true (xs.foldl (fun n x => n + ival m x) 0))

/-- The minimum or maximum of two words under the MOOD type (R140). -/
def pickWord (max : Bool) (m : Word) (x y : Word) : Word :=
  if moodType m = 0 then BitVec.ofNat 32 (fpick max (moodFtz m) fmtF32 x.toNat y.toNat)
  else if (decide (ival m x < ival m y)) = max then y else x

/-- Types with floating sums: f32, f16, bf16 (R140). -/
def notFsum (m : Word) : Bool := decide (2 < moodType m)
/-- f16 and bf16 have no min, max or amax (R140). -/
def notMinmax (m : Word) : Bool := decide (moodType m = 1) || decide (moodType m = 2)

/-- The lane of the maximum, the lower one on a tie; with f32 the lowest that holds a NaN (R140). -/
def amaxLane (g : Group) (a : R6) (m : BitVec 16) : Nat :=
  let isN (l : Nat) : Bool := moodType g.mood = 0 && isNan (fval fmtF32 (readV g a.toNat l).toNat)
  let above (x y : Word) : Bool :=
    if moodType g.mood = 0 then
      flt true (fval fmtF32 (flush fmtF32 (moodFtz g.mood) x.toNat)) (fval fmtF32 (flush fmtF32 (moodFtz g.mood) y.toNat))
    else decide (ival g.mood x < ival g.mood y)
  match (lanesOf m).find? isN with
  | some l => l
  | none => (lanesOf m).foldl (fun k l => if above (readV g a.toNat k) (readV g a.toNat l) then l else k) (firstLane m)

/-- lred: one value to every lane of M (R140). -/
def lred (d a : R6) (la : Bool) (bad : Word → Bool) (f : Group → BitVec 16 → Word) (s : State) : Out :=
  crossV (fun g => useX g a la [] false [d.toNat]) d bad (fun g m _ => f g m) s

/-- lred.iadd (R140). -/
def execLredIadd (d a : R6) (la : Bool) (s : State) : Out :=
  lred d a la (fun _ => false) (fun g m => sumWord g.mood (memberVals g a m)) s
/-- lred.fadd (R140). -/
def execLredFadd (d a : R6) (la : Bool) (s : State) : Out :=
  lred d a la notFsum (fun g m => treeSum (faddWord g.mood)
    (lanes16.map fun l => if m.getLsbD l then some (readV g a.toNat l) else none)) s
/-- lred.min (R140). -/
def execLredMin (d a : R6) (la : Bool) (s : State) : Out :=
  lred d a la notMinmax (fun g m => foldVals (pickWord false g.mood) (memberVals g a m)) s
/-- lred.max (R140). -/
def execLredMax (d a : R6) (la : Bool) (s : State) : Out :=
  lred d a la notMinmax (fun g m => foldVals (pickWord true g.mood) (memberVals g a m)) s
/-- lred.amax (R140). -/
def execLredAmax (d a : R6) (la : Bool) (s : State) : Out :=
  lred d a la notMinmax (fun g m => BitVec.ofNat 32 (amaxLane g a m)) s
/-- lred.and (R140). -/
def execLredAnd (d a : R6) (la : Bool) (s : State) : Out :=
  lred d a la (fun _ => false) (fun g m => foldVals (fun x y => x &&& y) (memberVals g a m)) s
/-- lred.or (R140). -/
def execLredOr (d a : R6) (la : Bool) (s : State) : Out :=
  lred d a la (fun _ => false) (fun g m => foldVals (fun x y => x ||| y) (memberVals g a m)) s
/-- lred.xor (R140). -/
def execLredXor (d a : R6) (la : Bool) (s : State) : Out :=
  lred d a la (fun _ => false) (fun g m => foldVals (fun x y => x ^^^ y) (memberVals g a m)) s

/-- lscan: each lane of M receives the value over the members up to itself (R141). -/
def lscan (d a : R6) (la : Bool) (bad : Word → Bool) (f : Word → List Word → Word) (s : State) : Out :=
  crossV (fun g => useX g a la [] false [d.toNat]) d bad
    (fun g m l => f g.mood (memberVals g a (m &&& lowLanes (l + 1)))) s

/-- lscan.iadd (R141). -/
def execLscanIadd (d a : R6) (la : Bool) (s : State) : Out := lscan d a la (fun _ => false) sumWord s
/-- lscan.fadd (R141). -/
def execLscanFadd (d a : R6) (la : Bool) (s : State) : Out := lscan d a la notFsum (fun m xs => foldVals (faddWord m) xs) s
/-- lscan.min (R141). -/
def execLscanMin (d a : R6) (la : Bool) (s : State) : Out :=
  lscan d a la notMinmax (fun m xs => foldVals (pickWord false m) xs) s
/-- lscan.max (R141). -/
def execLscanMax (d a : R6) (la : Bool) (s : State) : Out :=
  lscan d a la notMinmax (fun m xs => foldVals (pickWord true m) xs) s
/-- lscan.and (R141). -/
def execLscanAnd (d a : R6) (la : Bool) (s : State) : Out :=
  lscan d a la (fun _ => false) (fun _ xs => foldVals (fun x y => x &&& y) xs) s
/-- lscan.or (R141). -/
def execLscanOr (d a : R6) (la : Bool) (s : State) : Out :=
  lscan d a la (fun _ => false) (fun _ xs => foldVals (fun x y => x ||| y) xs) s
/-- lscan.xor (R141). -/
def execLscanXor (d a : R6) (la : Bool) (s : State) : Out :=
  lscan d a la (fun _ => false) (fun _ xs => foldVals (fun x y => x ^^^ y) xs) s

/-- Whether a bcast lane is not a member (R142). -/
def laneBad (g : Group) (b : R6) : Bool := membBad g || !(memberMask g).getLsbD b.toNat

/-- bcast D, vA, n (R142). -/
def execBcast (d a b : R6) (la : Bool) (s : State) : Out :=
  onGroup s fun c g =>
    let use := { useX g a la [] false [d.toNat] with nd := decide (16 ≤ b.toNat) }
    checked s c g use
      (if laneBad g b then .next (takeTrap s c g { code := .membr })
      else commitVM s c g use (memberMask g) [(d.toNat, fun _ => readV g a.toNat b.toNat)])
/-- bcast.g gD, vA, n (R142). -/
def execBcastG (d a b : R6) (la : Bool) (s : State) : Out :=
  onGroup s fun c g =>
    let use := { useX g a la [] false [] with nd := decide (16 ≤ b.toNat) || notG d, wg := [d.toNat] }
    checked s c g use
      (if laneBad g b then .next (takeTrap s c g { code := .membr })
      else commitG s c (freeMarks g use.marks []) d.toNat ((readV g a.toNat b.toNat).setWidth 64))
/-- bcast.first D, vA (R142). -/
def execBcastFirst (d a : R6) (la : Bool) (s : State) : Out :=
  crossV (fun g => useX g a la [] false [d.toNat]) d (fun _ => false) (fun g m _ => readV g a.toNat (firstLane m)) s
/-- bcast.firstg gD, vA (R142). -/
def execBcastFirstg (d a : R6) (la : Bool) (s : State) : Out :=
  onGroup s fun c g =>
    let use := { useX g a la [] false [] with nd := notG d, wg := [d.toNat] }
    checked s c g use
      (if membBad g then .next (takeTrap s c g { code := .membr })
      else commitG s c (freeMarks g use.marks []) d.toNat
        (if memberMask g = 0 then 0 else (readV g a.toNat (firstLane (memberMask g))).setWidth 64))

end Sys2Proof.Machine
end

