-- ==== Sys2Proof/Machine/Codec.lean ====
section
/-! DEFINITION. The bytes of a context image's sections (R399): the spec names what each section holds and not how it is
laid out, so the layout is the model's own (log 11): fields in order, numbers as a length byte and little-endian bytes. -/

namespace Sys2Proof.Machine

/-! ## Numbers and bytes -/

/-- Bytes that a number needs. -/
def natLen (n : Nat) : Nat := if n = 0 then 0 else Nat.log2 n / 8 + 1

/-- Numbers as bytes: each a length byte and so many little-endian bytes. -/
def natsBytes (l : List Nat) : List Byte := l.flatMap fun n => BitVec.ofNat 8 (natLen n) :: natBytes (natLen n) n

/-- Numbers from bytes, n at most; none where the bytes end inside a number. -/
def bytesNats : Nat → List Byte → Option (List Nat)
  | _, [] => some []
  | 0, _ => none
  | n + 1, b :: t => if t.length < b.toNat then none else (bytesNats n (t.drop b.toNat)).map fun r => leNat (t.take b.toNat) :: r

/-! ## Codecs -/

/-- A way to write a value as numbers and to read it back with what follows. -/
structure Codec (α : Type) where
  enc : α → List Nat
  dec : List Nat → Option (α × List Nat)

def cNat : Codec Nat :=
  { enc := fun n => [n]
    dec := fun l => match l with
      | n :: t => some (n, t)
      | [] => none }

/-- A value through another. -/
def cMap {α β : Type} (c : Codec α) (f : α → β) (g : β → α) : Codec β :=
  { enc := fun x => c.enc (g x), dec := fun l => (c.dec l).map fun r => (f r.1, r.2) }

def cPair {α β : Type} (a : Codec α) (b : Codec β) : Codec (α × β) :=
  { enc := fun x => a.enc x.1 ++ b.enc x.2
    dec := fun l => match a.dec l with
      | none => none
      | some r => (b.dec r.2).map fun q => ((r.1, q.1), q.2) }

/-- Read n values. -/
def decMany {α : Type} (c : Codec α) : Nat → List Nat → Option (List α × List Nat)
  | 0, l => some ([], l)
  | n + 1, l => match c.dec l with
    | none => none
    | some r => (decMany c n r.2).map fun q => (r.1 :: q.1, q.2)

def cList {α : Type} (c : Codec α) : Codec (List α) :=
  { enc := fun x => x.length :: x.flatMap c.enc
    dec := fun l => match l with
      | n :: t => decMany c n t
      | [] => none }

def cOpt {α : Type} (c : Codec α) : Codec (Option α) :=
  { enc := fun x => match x with
      | none => [0]
      | some y => 1 :: c.enc y
    dec := fun l => match l with
      | 0 :: t => some (none, t)
      | 1 :: t => (c.dec t).map fun r => (some r.1, r.2)
      | _ => none }

/-- A list of length n as a vector. -/
def toVec {α : Type} (n : Nat) (l : List α) : Option (Vector α n) := if h : l.length = n then some ⟨l.toArray, by simpa using h⟩ else none

def cVec {α : Type} (n : Nat) (c : Codec α) : Codec (Vector α n) :=
  { enc := fun x => x.toList.flatMap c.enc
    dec := fun l => match decMany c n l with
      | none => none
      | some r => (toVec n r.1).map fun v => (v, r.2) }

def cBv (n : Nat) : Codec (BitVec n) := cMap cNat (BitVec.ofNat n) BitVec.toNat
def cBool : Codec Bool := cMap cNat (fun n => n != 0) b2n
def cInt : Codec Int := cMap (cPair cBool cNat) (fun x => if x.1 then -(x.2 : Int) else x.2) fun x => (decide (x < 0), x.natAbs)

/-- One of a list of names, by its place. -/
def cEnum {α : Type} [DecidableEq α] (l : List α) (d : α) : Codec α := cMap cNat (fun n => l.getD n d) l.idxOf

/-- Bytes from address 0 up to the last one listed, 128 to a number. -/
def cMem : Codec Memory := cMap (cPair cNat (cList cNat))
  (fun x => mwrite [] 0 ((x.2.flatMap (natBytes 128)).take x.1))
  (fun m =>
    let n := match m.getLast? with
      | some c => c.1 + 1
      | none => 0
    (n, (blocksOf 128 (n / 128 + 1) (mread m 0 n)).map leNat))

/-- Words of a tile from element 0 up to the last one listed, 32 to a number. -/
def cWords : Codec (Table Word) := cMap (cPair cNat (cList cNat))
  (fun x => ((x.2.flatMap fun v => (List.range 32).map fun i => BitVec.ofNat 32 (nfld v (32 * i) 32)).take x.1).zipIdx.filterMap fun e =>
    if e.1 = 0 then none else some (e.2, e.1))
  (fun t =>
    let n := match t.getLast? with
      | some c => c.1 + 1
      | none => 0
    (n, (blocksOf 32 (n / 32 + 1) ((List.range n).map fun i => tgetD t i 0)).map fun ws => leNat (ws.flatMap fun w => natBytes 4 w.toNat)))

/-! ## The records -/

/-- Codec of Owed. -/
def cOwed : Codec Owed := cMap (cPair cNat (cPair cNat (cPair (cBv 16) (cPair cNat cNat))))
  (fun x => ⟨x.1, x.2.1, x.2.2.1, x.2.2.2.1, x.2.2.2.2⟩)
  (fun x => (x.fn, x.q, x.cid, x.sqhead, x.era))

/-- Codec of StreamRec. -/
def cStreamRec : Codec StreamRec := cMap (cPair cNat (cPair (cOpt cNat) (cList (cPair cOwed cNat))))
  (fun x => ⟨x.1, x.2.1, x.2.2⟩)
  (fun x => (x.bits, x.cmd, x.post))

/-- The image of a tenant is of one that is PARKED; it does not hold itself. -/
def cPark : Codec Park := cMap cNat (fun _ => .active) fun _ => 0

/-- Codec of Tenant. -/
def cTenant : Codec Tenant := cMap (cPair cNat (cPair cNat (cPair cNat (cPair cNat (cPair cBool (cPair cBool (cPair (cList cNat) (cPair (cList (cBv 8)) (cPair cNat (cPair cNat (cPair (cList cStreamRec) (cPair cNat (cPair cPark (cPair (cList (cList cNat)) (cOpt cOwed)))))))))))))))
  (fun x => ⟨x.1, x.2.1, x.2.2.1, x.2.2.2.1, x.2.2.2.2.1, x.2.2.2.2.2.1, x.2.2.2.2.2.2.1, x.2.2.2.2.2.2.2.1, x.2.2.2.2.2.2.2.2.1, x.2.2.2.2.2.2.2.2.2.1, x.2.2.2.2.2.2.2.2.2.2.1, x.2.2.2.2.2.2.2.2.2.2.2.1, x.2.2.2.2.2.2.2.2.2.2.2.2.1, x.2.2.2.2.2.2.2.2.2.2.2.2.2.1, x.2.2.2.2.2.2.2.2.2.2.2.2.2.2⟩)
  (fun x => (x.fn, x.asid, x.ring, x.ringLog, x.confid, x.det, x.slices, x.salt, x.prod, x.cons, x.queue, x.collide, x.park, x.image, x.closing))

/-- Codec of Image. -/
def cImage : Codec Image := cMap (cPair cNat (cPair cNat (cPair cNat (cPair cNat (cPair cNat cBool)))))
  (fun x => ⟨x.1, x.2.1, x.2.2.1, x.2.2.2.1, x.2.2.2.2.1, x.2.2.2.2.2⟩)
  (fun x => (x.tenant, x.addr, x.level, x.codeOff, x.codeSz, x.rom))

/-- Codec of PoolCtr. -/
def cPoolCtr : Codec PoolCtr := cMap (cPair cNat (cPair cNat (cPair cNat (cPair cNat (cPair cNat cNat)))))
  (fun x => ⟨x.1, x.2.1, x.2.2.1, x.2.2.2.1, x.2.2.2.2.1, x.2.2.2.2.2⟩)
  (fun x => (x.alloc, x.freed, x.cow, x.evict, x.abandon, x.fetch))

/-- Codec of FrSt. -/
def cFrSt : Codec FrSt := cEnum [.free, .resident, .evicting, .tier2, .fetching] .free

/-- Codec of Frame. -/
def cFrame : Codec Frame := cMap (cPair cFrSt (cPair cNat (cPair cNat (cPair cNat (cPair cNat (cPair (cOpt cNat) (cPair cNat (cPair cWords cBool))))))))
  (fun x => ⟨x.1, x.2.1, x.2.2.1, x.2.2.2.1, x.2.2.2.2.1, x.2.2.2.2.2.1, x.2.2.2.2.2.2.1, x.2.2.2.2.2.2.2.1, x.2.2.2.2.2.2.2.2⟩)
  (fun x => (x.st, x.ref, x.pins, x.tenant, x.filled, x.slot, x.lastacc, x.ids, x.copied))

/-- Codec of Pool. -/
def cPool : Codec Pool := cMap (cPair cNat (cPair cNat (cPair cNat (cPair cNat (cPair cNat (cPair cNat (cPair cNat (cPair (cOpt cNat) (cPair (cList (cPair cNat cFrame)) (cPair (cList cNat) (cPair cPoolCtr cBool)))))))))))
  (fun x => ⟨x.1, x.2.1, x.2.2.1, x.2.2.2.1, x.2.2.2.2.1, x.2.2.2.2.2.1, x.2.2.2.2.2.2.1, x.2.2.2.2.2.2.2.1, x.2.2.2.2.2.2.2.2.1, x.2.2.2.2.2.2.2.2.2.1, x.2.2.2.2.2.2.2.2.2.2.1, x.2.2.2.2.2.2.2.2.2.2.2⟩)
  (fun x => (x.tenant, x.base, x.f, x.layers, x.bp, x.p, x.etype, x.tier2, x.frames, x.free, x.ctr, x.halted))

/-- Codec of Handle. -/
def cHandle : Codec Handle := cMap (cPair cNat (cPair cNat (cPair cNat (cPair cNat (cPair cNat (cPair cNat (cPair (cList cNat) (cOpt (cPair cNat cNat)))))))))
  (fun x => ⟨x.1, x.2.1, x.2.2.1, x.2.2.2.1, x.2.2.2.2.1, x.2.2.2.2.2.1, x.2.2.2.2.2.2.1, x.2.2.2.2.2.2.2⟩)
  (fun x => (x.st, x.gen, x.tenant, x.pool, x.c, x.w, x.bt, x.named))

/-- Codec of PbEntry. -/
def cPbEntry : Codec PbEntry := cMap (cPair (cBv 64) (cPair cNat (cPair (cList cNat) cNat)))
  (fun x => ⟨x.1, x.2.1, x.2.2.1, x.2.2.2⟩)
  (fun x => (x.hash, x.pool, x.frames, x.lasthit))

/-- Codec of Tmpl. -/
def cTmpl : Codec Tmpl := cMap (cPair cNat (cPair cNat (cPair cNat (cPair cNat (cPair cNat (cPair cNat (cPair cNat (cPair cNat (cPair cNat cNat)))))))))
  (fun x => ⟨x.1, x.2.1, x.2.2.1, x.2.2.2.1, x.2.2.2.2.1, x.2.2.2.2.2.1, x.2.2.2.2.2.2.1, x.2.2.2.2.2.2.2.1, x.2.2.2.2.2.2.2.2.1, x.2.2.2.2.2.2.2.2.2⟩)
  (fun x => (x.graph, x.ntask, x.work, x.batch, x.toks, x.scorer, x.admKern, x.pbase, x.pcap, x.rarea))

/-- Codec of Arm. -/
def cArm : Codec Arm := cMap (cPair cNat (cPair (cBv 64) (cList (cPair cNat cNat))))
  (fun x => ⟨x.1, x.2.1, x.2.2⟩)
  (fun x => (x.n, x.s, x.hist))

/-- Codec of BatchEntry. -/
def cBatchEntry : Codec BatchEntry := cMap (cPair cNat (cPair cNat (cPair cBool (cPair cNat (cPair cNat (cPair cNat (cPair (cBv 64) (cBv 32))))))))
  (fun x => ⟨x.1, x.2.1, x.2.2.1, x.2.2.2.1, x.2.2.2.2.1, x.2.2.2.2.2.1, x.2.2.2.2.2.2.1, x.2.2.2.2.2.2.2⟩)
  (fun x => (x.req, x.kind, x.sample, x.first, x.t, x.tok, x.handle, x.sampled))

/-- Codec of Iter. -/
def cIter : Codec Iter := cMap (cPair cNat (cPair (cList cBatchEntry) (cPair (cList (cBv 32)) cBool)))
  (fun x => ⟨x.1, x.2.1, x.2.2.1, x.2.2.2⟩)
  (fun x => (x.num, x.entries, x.toks, x.scoring))

/-- Codec of Plan. -/
def cPlan : Codec Plan := cMap (cPair cNat (cPair cNat (cPair cNat (cPair cNat (cPair cNat (cPair (cOpt cTmpl) (cPair cNat (cPair (cList (cPair cNat (cList (cPair cNat cArm)))) (cOpt cIter)))))))))
  (fun x => ⟨x.1, x.2.1, x.2.2.1, x.2.2.2.1, x.2.2.2.2.1, x.2.2.2.2.2.1, x.2.2.2.2.2.2.1, x.2.2.2.2.2.2.2.1, x.2.2.2.2.2.2.2.2⟩)
  (fun x => (x.tenant, x.image, x.pool, x.vocab, x.budget, x.tmpl, x.area, x.bandit, x.iter))

/-- Codec of ReqSt. -/
def cReqSt : Codec ReqSt := cEnum [.queued, .prefill, .decode, .spec, .paused, .done, .cancelled, .failed, .exported] .queued

/-- Codec of Request. -/
def cRequest : Codec Request := cMap (cPair (cBv 64) (cPair cNat (cPair cReqSt (cPair cNat (cPair cBool (cPair cBool (cPair cBool (cPair cBool (cPair cBool (cPair cNat (cPair cNat (cPair cNat (cPair cNat (cPair cNat (cPair cNat (cPair cNat (cPair cNat (cPair cNat (cPair (cBv 32) (cPair (cBv 64) (cPair cNat (cPair cNat (cPair (cBv 32) (cPair (cBv 32) (cPair cNat (cPair cNat (cPair cNat (cPair cNat (cPair (cList (cBv 8)) (cPair (cList (cBv 32)) (cPair (cList (cBv 32)) (cPair cNat (cPair (cList (cBv 32)) (cPair (cList (cBv 32)) (cPair (cOpt cNat) (cPair (cOpt (cPair cNat cNat)) (cPair cBool (cPair (cOpt (cPair cNat cNat)) (cPair (cOpt cNat) (cPair (cList cOwed) (cPair (cOpt cNat) (cPair (cOpt cNat) (cPair cNat (cOpt cNat))))))))))))))))))))))))))))))))))))))))))))
  (fun x => ⟨x.1, x.2.1, x.2.2.1, x.2.2.2.1, x.2.2.2.2.1, x.2.2.2.2.2.1, x.2.2.2.2.2.2.1, x.2.2.2.2.2.2.2.1, x.2.2.2.2.2.2.2.2.1, x.2.2.2.2.2.2.2.2.2.1, x.2.2.2.2.2.2.2.2.2.2.1, x.2.2.2.2.2.2.2.2.2.2.2.1, x.2.2.2.2.2.2.2.2.2.2.2.2.1, x.2.2.2.2.2.2.2.2.2.2.2.2.2.1, x.2.2.2.2.2.2.2.2.2.2.2.2.2.2.1, x.2.2.2.2.2.2.2.2.2.2.2.2.2.2.2.1, x.2.2.2.2.2.2.2.2.2.2.2.2.2.2.2.2.1, x.2.2.2.2.2.2.2.2.2.2.2.2.2.2.2.2.2.1, x.2.2.2.2.2.2.2.2.2.2.2.2.2.2.2.2.2.2.1, x.2.2.2.2.2.2.2.2.2.2.2.2.2.2.2.2.2.2.2.1, x.2.2.2.2.2.2.2.2.2.2.2.2.2.2.2.2.2.2.2.2.1, x.2.2.2.2.2.2.2.2.2.2.2.2.2.2.2.2.2.2.2.2.2.1, x.2.2.2.2.2.2.2.2.2.2.2.2.2.2.2.2.2.2.2.2.2.2.1, x.2.2.2.2.2.2.2.2.2.2.2.2.2.2.2.2.2.2.2.2.2.2.2.1, x.2.2.2.2.2.2.2.2.2.2.2.2.2.2.2.2.2.2.2.2.2.2.2.2.1, x.2.2.2.2.2.2.2.2.2.2.2.2.2.2.2.2.2.2.2.2.2.2.2.2.2.1, x.2.2.2.2.2.2.2.2.2.2.2.2.2.2.2.2.2.2.2.2.2.2.2.2.2.2.1, x.2.2.2.2.2.2.2.2.2.2.2.2.2.2.2.2.2.2.2.2.2.2.2.2.2.2.2.1, x.2.2.2.2.2.2.2.2.2.2.2.2.2.2.2.2.2.2.2.2.2.2.2.2.2.2.2.2.1, x.2.2.2.2.2.2.2.2.2.2.2.2.2.2.2.2.2.2.2.2.2.2.2.2.2.2.2.2.2.1, x.2.2.2.2.2.2.2.2.2.2.2.2.2.2.2.2.2.2.2.2.2.2.2.2.2.2.2.2.2.2.1, x.2.2.2.2.2.2.2.2.2.2.2.2.2.2.2.2.2.2.2.2.2.2.2.2.2.2.2.2.2.2.2.1, x.2.2.2.2.2.2.2.2.2.2.2.2.2.2.2.2.2.2.2.2.2.2.2.2.2.2.2.2.2.2.2.2.1, x.2.2.2.2.2.2.2.2.2.2.2.2.2.2.2.2.2.2.2.2.2.2.2.2.2.2.2.2.2.2.2.2.2.1, x.2.2.2.2.2.2.2.2.2.2.2.2.2.2.2.2.2.2.2.2.2.2.2.2.2.2.2.2.2.2.2.2.2.2.1, x.2.2.2.2.2.2.2.2.2.2.2.2.2.2.2.2.2.2.2.2.2.2.2.2.2.2.2.2.2.2.2.2.2.2.2.1, x.2.2.2.2.2.2.2.2.2.2.2.2.2.2.2.2.2.2.2.2.2.2.2.2.2.2.2.2.2.2.2.2.2.2.2.2.1, x.2.2.2.2.2.2.2.2.2.2.2.2.2.2.2.2.2.2.2.2.2.2.2.2.2.2.2.2.2.2.2.2.2.2.2.2.2.1, x.2.2.2.2.2.2.2.2.2.2.2.2.2.2.2.2.2.2.2.2.2.2.2.2.2.2.2.2.2.2.2.2.2.2.2.2.2.2.1, x.2.2.2.2.2.2.2.2.2.2.2.2.2.2.2.2.2.2.2.2.2.2.2.2.2.2.2.2.2.2.2.2.2.2.2.2.2.2.2.1, x.2.2.2.2.2.2.2.2.2.2.2.2.2.2.2.2.2.2.2.2.2.2.2.2.2.2.2.2.2.2.2.2.2.2.2.2.2.2.2.2.1, x.2.2.2.2.2.2.2.2.2.2.2.2.2.2.2.2.2.2.2.2.2.2.2.2.2.2.2.2.2.2.2.2.2.2.2.2.2.2.2.2.2.1, x.2.2.2.2.2.2.2.2.2.2.2.2.2.2.2.2.2.2.2.2.2.2.2.2.2.2.2.2.2.2.2.2.2.2.2.2.2.2.2.2.2.2.1, x.2.2.2.2.2.2.2.2.2.2.2.2.2.2.2.2.2.2.2.2.2.2.2.2.2.2.2.2.2.2.2.2.2.2.2.2.2.2.2.2.2.2.2⟩)
  (fun x => (x.handle, x.tenant, x.st, x.reason, x.initer, x.cancelp, x.dlmiss, x.pframe, x.xpend, x.prio, x.plan, x.specc, x.tmpl, x.oldTmpl, x.plen, x.maxnew, x.committed, x.cursor, x.nextin, x.seed, x.streampos, x.deadline, x.temp, x.minp, x.penalty, x.admseq, x.iter, x.accepted, x.stopctl, x.stoptok, x.stopseq, x.pcopy, x.toks, x.pend, x.last, x.bell, x.loading, x.pmem, x.admission, x.cancels, x.exporting, x.wantExport, x.comCursor, x.named))

/-- Codec of Desc. -/
def cDesc : Codec Desc := cMap (cPair cNat (cPair cNat (cPair (cBv 32) (cPair cNat (cPair cNat (cPair cNat (cPair cBool (cPair cNat (cPair cNat (cPair cNat (cPair cNat (cPair cNat (cPair cNat (cPair cNat (cPair cNat (cPair cNat (cPair (cBv 64) (cPair cNat (cPair (cBv 64) (cPair cNat cNat))))))))))))))))))))
  (fun x => ⟨x.1, x.2.1, x.2.2.1, x.2.2.2.1, x.2.2.2.2.1, x.2.2.2.2.2.1, x.2.2.2.2.2.2.1, x.2.2.2.2.2.2.2.1, x.2.2.2.2.2.2.2.2.1, x.2.2.2.2.2.2.2.2.2.1, x.2.2.2.2.2.2.2.2.2.2.1, x.2.2.2.2.2.2.2.2.2.2.2.1, x.2.2.2.2.2.2.2.2.2.2.2.2.1, x.2.2.2.2.2.2.2.2.2.2.2.2.2.1, x.2.2.2.2.2.2.2.2.2.2.2.2.2.2.1, x.2.2.2.2.2.2.2.2.2.2.2.2.2.2.2.1, x.2.2.2.2.2.2.2.2.2.2.2.2.2.2.2.2.1, x.2.2.2.2.2.2.2.2.2.2.2.2.2.2.2.2.2.1, x.2.2.2.2.2.2.2.2.2.2.2.2.2.2.2.2.2.2.1, x.2.2.2.2.2.2.2.2.2.2.2.2.2.2.2.2.2.2.2.1, x.2.2.2.2.2.2.2.2.2.2.2.2.2.2.2.2.2.2.2.2⟩)
  (fun x => (x.image, x.entry, x.pword, x.threads, x.gang, x.cls, x.det, x.gx, x.gy, x.gz, x.prio, x.acc, x.spad, x.priv, x.spillA, x.spillN, x.param, x.trap, x.task, x.privA, x.winA))

/-- A launch loses the LAUNCH that it answers: another device read it. -/
def cOrigin : Codec Origin :=
  { enc := fun x => match x with
      | .direct _ => [0]
      | .task g i => [1, g, i]
      | .scorer p => [2, p]
      | .admission r => [3, r]
      | .imported => [0]
    dec := fun l => match l with
      | 0 :: t => some (.imported, t)
      | 1 :: g :: i :: t => some (.task g i, t)
      | 2 :: p :: t => some (.scorer p, t)
      | 3 :: r :: t => some (.admission r, t)
      | _ => none }

/-- Codec of FaultRec. -/
def cFaultRec : Codec FaultRec := cMap (cPair cNat (cPair (cBv 64) (cPair cNat (cPair cNat (cPair cNat (cPair cNat (cPair (cOpt cNat) (cPair cNat (cPair (cBv 64) (cPair cNat (cPair cNat (cPair cNat (cPair cNat (cPair (cBv 64) (cPair cMem (cPair (cOpt cNat) (cPair (cOpt cNat) (cPair cNat cBool))))))))))))))))))
  (fun x => ⟨x.1, x.2.1, x.2.2.1, x.2.2.2.1, x.2.2.2.2.1, x.2.2.2.2.2.1, x.2.2.2.2.2.2.1, x.2.2.2.2.2.2.2.1, x.2.2.2.2.2.2.2.2.1, x.2.2.2.2.2.2.2.2.2.1, x.2.2.2.2.2.2.2.2.2.2.1, x.2.2.2.2.2.2.2.2.2.2.2.1, x.2.2.2.2.2.2.2.2.2.2.2.2.1, x.2.2.2.2.2.2.2.2.2.2.2.2.2.1, x.2.2.2.2.2.2.2.2.2.2.2.2.2.2.1, x.2.2.2.2.2.2.2.2.2.2.2.2.2.2.2.1, x.2.2.2.2.2.2.2.2.2.2.2.2.2.2.2.2.1, x.2.2.2.2.2.2.2.2.2.2.2.2.2.2.2.2.2.1, x.2.2.2.2.2.2.2.2.2.2.2.2.2.2.2.2.2.2⟩)
  (fun x => (x.seq, x.pc, x.code, x.kind, x.coff, x.repi, x.lane, x.chain, x.addr, x.va, x.launch, x.wglin, x.tidlo, x.task, x.ext, x.ctx, x.cmd, x.heldAt, x.fw))

/-- Codec of Launch. -/
def cLaunch : Codec Launch := cMap (cPair cNat (cPair cNat (cPair cDesc (cPair cOrigin (cPair cNat (cPair cNat (cPair cNat (cPair cBool (cPair cBool (cPair cBool (cPair (cList cFaultRec) (cPair (cList cFaultRec) (cPair cNat (cPair (cOpt cNat) (cPair cNat cBool)))))))))))))))
  (fun x => ⟨x.1, x.2.1, x.2.2.1, x.2.2.2.1, x.2.2.2.2.1, x.2.2.2.2.2.1, x.2.2.2.2.2.2.1, x.2.2.2.2.2.2.2.1, x.2.2.2.2.2.2.2.2.1, x.2.2.2.2.2.2.2.2.2.1, x.2.2.2.2.2.2.2.2.2.2.1, x.2.2.2.2.2.2.2.2.2.2.2.1, x.2.2.2.2.2.2.2.2.2.2.2.2.1, x.2.2.2.2.2.2.2.2.2.2.2.2.2.1, x.2.2.2.2.2.2.2.2.2.2.2.2.2.2.1, x.2.2.2.2.2.2.2.2.2.2.2.2.2.2.2⟩)
  (fun x => (x.tenant, x.asid, x.desc, x.origin, x.made, x.madeAt, x.next, x.aborted, x.faulted, x.lost, x.fq, x.fwait, x.fseq, x.server, x.ident, x.finished))

/-- Codec of Task. -/
def cTask : Codec Task := cMap (cPair cNat (cPair (cList cNat) (cPair cBool (cPair cNat (cPair cNat (cPair cNat (cPair (cOpt (cPair cNat cBool)) cBool)))))))
  (fun x => ⟨x.1, x.2.1, x.2.2.1, x.2.2.2.1, x.2.2.2.2.1, x.2.2.2.2.2.1, x.2.2.2.2.2.2.1, x.2.2.2.2.2.2.2⟩)
  (fun x => (x.pred, x.succs, x.restart, x.cls, x.prio, x.desc, x.status, x.eligible))

/-- A graph loses the GRAPH_SUBMIT that it answers. -/
def cGraphOrigin : Codec GraphOrigin :=
  { enc := fun x => match x with
      | .host _ => [0]
      | .plan p => [1, p]
      | .imported => [0]
    dec := fun l => match l with
      | 0 :: t => some (.imported, t)
      | 1 :: p :: t => some (.plan p, t)
      | _ => none }

/-- Codec of Graph. -/
def cGraph : Codec Graph := cMap (cPair cNat (cPair cNat (cPair cGraphOrigin (cPair (cList (cPair cNat cTask)) (cList (cPair cNat cNat))))))
  (fun x => ⟨x.1, x.2.1, x.2.2.1, x.2.2.2.1, x.2.2.2.2⟩)
  (fun x => (x.tenant, x.base, x.origin, x.tasks, x.reissue))

/-- Codec of Gang. -/
def cGang : Codec Gang := cMap (cPair cNat (cPair cNat (cPair cNat (cList (cPair cNat cNat)))))
  (fun x => ⟨x.1, x.2.1, x.2.2.1, x.2.2.2⟩)
  (fun x => (x.launch, x.size, x.phase, x.next))

/-- Codec of Tile. -/
def cTile : Codec Tile := cMap (cPair cWords (cList cNat))
  (fun x => ⟨x.1, x.2⟩)
  (fun x => (x.words, x.poison))

/-- Codec of Named. -/
def cNamed : Codec Named := cMap (cPair cNat (cPair cNat (cPair cNat (cList cNat))))
  (fun x => ⟨x.1, x.2.1, x.2.2.1, x.2.2.2⟩)
  (fun x => (x.phase, x.need, x.got, x.wait))

/-- Codec of Coll. -/
def cColl : Codec Coll := cMap (cPair (cBv 64) (cPair cNat (cPair cNat (cList cNat))))
  (fun x => ⟨x.1, x.2.1, x.2.2.1, x.2.2.2⟩)
  (fun x => (x.shape, x.op, x.sub, x.slices))

/-- Codec of OSlot. -/
def cOSlot : Codec OSlot := cMap (cPair (cOpt cNat) cMem)
  (fun x => ⟨x.1, x.2⟩)
  (fun x => (x.holder, x.mem))

/-- Codec of LzSt. -/
def cLzSt : Codec LzSt := cEnum [.free, .opened, .reserved, .filling, .full, .torn] .free

/-- Codec of LzSlot. -/
def cLzSlot : Codec LzSlot := cMap (cPair cLzSt (cPair cNat (cPair cNat (cPair cNat (cPair cNat (cPair cNat (cPair cNat (cPair cNat (cPair cBool (cPair cNat (cPair cNat (cPair cNat (cPair cNat (cList cNat))))))))))))))
  (fun x => ⟨x.1, x.2.1, x.2.2.1, x.2.2.2.1, x.2.2.2.2.1, x.2.2.2.2.2.1, x.2.2.2.2.2.2.1, x.2.2.2.2.2.2.2.1, x.2.2.2.2.2.2.2.2.1, x.2.2.2.2.2.2.2.2.2.1, x.2.2.2.2.2.2.2.2.2.2.1, x.2.2.2.2.2.2.2.2.2.2.2.1, x.2.2.2.2.2.2.2.2.2.2.2.2.1, x.2.2.2.2.2.2.2.2.2.2.2.2.2⟩)
  (fun x => (x.st, x.wg, x.ctr, x.rid, x.target, x.area, x.dev, x.score, x.anyc, x.rdev, x.rcore, x.port, x.last, x.got))

/-- Codec of Chain. -/
def cChain : Codec Chain := cMap (cPair (cBv 64) (cPair cNat (cPair cNat (cPair cNat (cPair cNat (cPair cNat (cList cNat)))))))
  (fun x => ⟨x.1, x.2.1, x.2.2.1, x.2.2.2.1, x.2.2.2.2.1, x.2.2.2.2.2.1, x.2.2.2.2.2.2⟩)
  (fun x => (x.base, x.size, x.owner, x.head, x.tail, x.comp, x.done))

/-- Codec of Workgroup. -/
def cWorkgroup : Codec Workgroup := cMap (cPair cNat (cPair cNat (cPair cNat (cPair cNat (cPair cBool (cPair (cOpt cNat) (cPair (cOpt cNat) (cPair cNat (cPair cNat (cPair cMem (cPair (cList cNat) (cPair cNat (cPair (cList (cPair cNat cTile)) (cPair cNat (cPair (cList (cPair cNat cNat)) (cPair (cList (cPair cNat cNamed)) (cPair (cList (cPair cNat cColl)) (cPair (cList (cPair cNat cOSlot)) (cPair (cList (cPair cNat cLzSlot)) (cList (cPair cNat cChain)))))))))))))))))))))
  (fun x => ⟨x.1, x.2.1, x.2.2.1, x.2.2.2.1, x.2.2.2.2.1, x.2.2.2.2.2.1, x.2.2.2.2.2.2.1, x.2.2.2.2.2.2.2.1, x.2.2.2.2.2.2.2.2.1, x.2.2.2.2.2.2.2.2.2.1, x.2.2.2.2.2.2.2.2.2.2.1, x.2.2.2.2.2.2.2.2.2.2.2.1, x.2.2.2.2.2.2.2.2.2.2.2.2.1, x.2.2.2.2.2.2.2.2.2.2.2.2.2.1, x.2.2.2.2.2.2.2.2.2.2.2.2.2.2.1, x.2.2.2.2.2.2.2.2.2.2.2.2.2.2.2.1, x.2.2.2.2.2.2.2.2.2.2.2.2.2.2.2.2.1, x.2.2.2.2.2.2.2.2.2.2.2.2.2.2.2.2.2.1, x.2.2.2.2.2.2.2.2.2.2.2.2.2.2.2.2.2.2.1, x.2.2.2.2.2.2.2.2.2.2.2.2.2.2.2.2.2.2.2⟩)
  (fun x => (x.launch, x.lin, x.tenant, x.core, x.placed, x.handler, x.gang, x.threads, x.spadLen, x.spad, x.absent, x.nacc, x.tiles, x.phase, x.next, x.named, x.colls, x.slots, x.lz, x.chains))

/-- Codec of Site. -/
def cSite : Codec Site := cMap (cPair (cBv 64) (cPair cNat (cPair cNat cNat)))
  (fun x => ⟨x.1, x.2.1, x.2.2.1, x.2.2.2⟩)
  (fun x => (x.pc, x.coff, x.repi, x.tidlo))

/-- Codec of MemKind. -/
def cMemKind : Codec MemKind :=
  { enc := fun x => match x with
      | .load b => [0, b2n b]
      | .store => [1]
      | .atomic a => [2, a]
      | .reduce a => [3, a]
      | .xadd => [4]
      | .xread => [5]
      | .ticket a => [6, a]
    dec := fun l => match l with
      | 0 :: b :: t => some (.load (b != 0), t)
      | 1 :: t => some (.store, t)
      | 2 :: a :: t => some (.atomic a, t)
      | 3 :: a :: t => some (.reduce a, t)
      | 4 :: t => some (.xadd, t)
      | 5 :: t => some (.xread, t)
      | 6 :: a :: t => some (.ticket a, t)
      | _ => none }

/-- Codec of Space. -/
def cSpace : Codec Space := cEnum [.global, .scratch, .priv, .window] .global

/-- Codec of Acc. -/
def cAcc : Codec Acc := cMap (cPair cNat (cPair cNat (cPair cNat (cPair (cList (cBv 8)) (cPair (cList (cBv 8)) (cPair cBool (cPair cBool cBool)))))))
  (fun x => ⟨x.1, x.2.1, x.2.2.1, x.2.2.2.1, x.2.2.2.2.1, x.2.2.2.2.2.1, x.2.2.2.2.2.2.1, x.2.2.2.2.2.2.2⟩)
  (fun x => (x.lane, x.va, x.addr, x.data, x.got, x.bad, x.done, x.early))

/-- Codec of MemOp. -/
def cMemOp : Codec MemOp := cMap (cPair (cBv 32) (cPair cSite (cPair cMemKind (cPair cSpace (cPair cNat (cPair cNat (cPair cNat (cPair cNat (cPair cNat (cPair cNat (cPair cBool (cPair cNat (cPair cNat (cPair cBool (cPair cBool (cPair (cBv 32) (cPair (cList (cPair cNat cNat)) (cPair (cOpt cNat) (cPair (cList cAcc) (cPair (cBv 16) cBool))))))))))))))))))))
  (fun x => ⟨x.1, x.2.1, x.2.2.1, x.2.2.2.1, x.2.2.2.2.1, x.2.2.2.2.2.1, x.2.2.2.2.2.2.1, x.2.2.2.2.2.2.2.1, x.2.2.2.2.2.2.2.2.1, x.2.2.2.2.2.2.2.2.2.1, x.2.2.2.2.2.2.2.2.2.2.1, x.2.2.2.2.2.2.2.2.2.2.2.1, x.2.2.2.2.2.2.2.2.2.2.2.2.1, x.2.2.2.2.2.2.2.2.2.2.2.2.2.1, x.2.2.2.2.2.2.2.2.2.2.2.2.2.2.1, x.2.2.2.2.2.2.2.2.2.2.2.2.2.2.2.1, x.2.2.2.2.2.2.2.2.2.2.2.2.2.2.2.2.1, x.2.2.2.2.2.2.2.2.2.2.2.2.2.2.2.2.2.1, x.2.2.2.2.2.2.2.2.2.2.2.2.2.2.2.2.2.2.1, x.2.2.2.2.2.2.2.2.2.2.2.2.2.2.2.2.2.2.2.1, x.2.2.2.2.2.2.2.2.2.2.2.2.2.2.2.2.2.2.2.2⟩)
  (fun x => (x.word, x.site, x.kind, x.space, x.ctx, x.inst, x.launch, x.wg, x.core, x.flag, x.uni, x.size, x.sc, x.acq, x.rel, x.mood, x.dst, x.gdst, x.accs, x.landed, x.err))

/-- Codec of Cmd. -/
def cCmd : Codec Cmd := cMap (cPair (cBv 32) (cPair cSite (cPair cNat (cPair cNat (cPair cNat (cPair cNat (cPair cNat (cPair cNat (cPair cNat (cPair cNat (cPair (cOpt cNat) (cPair (cOpt (cPair cNat cNat)) (cPair (cBv 64) (cPair (cBv 64) (cPair (cBv 64) (cPair (cBv 32) (cPair cNat (cPair cBool (cPair cBool (cPair (cOpt cNat) (cPair (cBv 64) (cPair (cList cNat) (cPair cBool (cPair cBool (cPair cBool (cPair cBool (cPair cBool (cPair (cPair (cBv 64) (cPair (cBv 64) (cBv 64))) (cPair cNat (cPair (cList (cPair cNat cBool)) (cPair cNat (cPair (cList cNat) (cPair cNat (cPair cBool (cPair (cOpt cTile) (cPair (cList cNat) (cPair cNat (cPair cNat (cPair (cList (cPair cNat (cList (cBv 8)))) (cOpt cNat))))))))))))))))))))))))))))))))))))))))
  (fun x => ⟨x.1, x.2.1, x.2.2.1, x.2.2.2.1, x.2.2.2.2.1, x.2.2.2.2.2.1, x.2.2.2.2.2.2.1, x.2.2.2.2.2.2.2.1, x.2.2.2.2.2.2.2.2.1, x.2.2.2.2.2.2.2.2.2.1, x.2.2.2.2.2.2.2.2.2.2.1, x.2.2.2.2.2.2.2.2.2.2.2.1, x.2.2.2.2.2.2.2.2.2.2.2.2.1, x.2.2.2.2.2.2.2.2.2.2.2.2.2.1, x.2.2.2.2.2.2.2.2.2.2.2.2.2.2.1, x.2.2.2.2.2.2.2.2.2.2.2.2.2.2.2.1, x.2.2.2.2.2.2.2.2.2.2.2.2.2.2.2.2.1, x.2.2.2.2.2.2.2.2.2.2.2.2.2.2.2.2.2.1, x.2.2.2.2.2.2.2.2.2.2.2.2.2.2.2.2.2.2.1, x.2.2.2.2.2.2.2.2.2.2.2.2.2.2.2.2.2.2.2.1, x.2.2.2.2.2.2.2.2.2.2.2.2.2.2.2.2.2.2.2.2.1, x.2.2.2.2.2.2.2.2.2.2.2.2.2.2.2.2.2.2.2.2.2.1, x.2.2.2.2.2.2.2.2.2.2.2.2.2.2.2.2.2.2.2.2.2.2.1, x.2.2.2.2.2.2.2.2.2.2.2.2.2.2.2.2.2.2.2.2.2.2.2.1, x.2.2.2.2.2.2.2.2.2.2.2.2.2.2.2.2.2.2.2.2.2.2.2.2.1, x.2.2.2.2.2.2.2.2.2.2.2.2.2.2.2.2.2.2.2.2.2.2.2.2.2.1, x.2.2.2.2.2.2.2.2.2.2.2.2.2.2.2.2.2.2.2.2.2.2.2.2.2.2.1, x.2.2.2.2.2.2.2.2.2.2.2.2.2.2.2.2.2.2.2.2.2.2.2.2.2.2.2.1, x.2.2.2.2.2.2.2.2.2.2.2.2.2.2.2.2.2.2.2.2.2.2.2.2.2.2.2.2.1, x.2.2.2.2.2.2.2.2.2.2.2.2.2.2.2.2.2.2.2.2.2.2.2.2.2.2.2.2.2.1, x.2.2.2.2.2.2.2.2.2.2.2.2.2.2.2.2.2.2.2.2.2.2.2.2.2.2.2.2.2.2.1, x.2.2.2.2.2.2.2.2.2.2.2.2.2.2.2.2.2.2.2.2.2.2.2.2.2.2.2.2.2.2.2.1, x.2.2.2.2.2.2.2.2.2.2.2.2.2.2.2.2.2.2.2.2.2.2.2.2.2.2.2.2.2.2.2.2.1, x.2.2.2.2.2.2.2.2.2.2.2.2.2.2.2.2.2.2.2.2.2.2.2.2.2.2.2.2.2.2.2.2.2.1, x.2.2.2.2.2.2.2.2.2.2.2.2.2.2.2.2.2.2.2.2.2.2.2.2.2.2.2.2.2.2.2.2.2.2.1, x.2.2.2.2.2.2.2.2.2.2.2.2.2.2.2.2.2.2.2.2.2.2.2.2.2.2.2.2.2.2.2.2.2.2.2.1, x.2.2.2.2.2.2.2.2.2.2.2.2.2.2.2.2.2.2.2.2.2.2.2.2.2.2.2.2.2.2.2.2.2.2.2.2.1, x.2.2.2.2.2.2.2.2.2.2.2.2.2.2.2.2.2.2.2.2.2.2.2.2.2.2.2.2.2.2.2.2.2.2.2.2.2.1, x.2.2.2.2.2.2.2.2.2.2.2.2.2.2.2.2.2.2.2.2.2.2.2.2.2.2.2.2.2.2.2.2.2.2.2.2.2.2.1, x.2.2.2.2.2.2.2.2.2.2.2.2.2.2.2.2.2.2.2.2.2.2.2.2.2.2.2.2.2.2.2.2.2.2.2.2.2.2.2⟩)
  (fun x => (x.word, x.site, x.op, x.sub, x.ctx, x.inst, x.launch, x.wg, x.core, x.tenant, x.flag, x.chain, x.a, x.b, x.c, x.fmt, x.sc, x.acq, x.rel, x.resG, x.result, x.landed, x.started, x.paused, x.err, x.ended, x.failed, x.raw, x.lead, x.frames, x.pool, x.lines, x.phase, x.arrived, x.shadow, x.acked, x.since, x.tries, x.own, x.ready))

/-- Codec of Res. -/
def cRes : Codec Res := cEnum [.running, .held, .waiting, .ready, .opened, .joined, .parked] .running

/-- Codec of Store. -/
def cStore : Codec Store :=
  { enc := fun x => match x with
      | .none => [0]
      | .dugout b => [1, b]
      | .spill k => [2, k]
      | .image => [3]
      | .kept => [4]
      | .slot => [5]
    dec := fun l => match l with
      | 0 :: t => some (.none, t)
      | 1 :: b :: t => some (.dugout b, t)
      | 2 :: k :: t => some (.spill k, t)
      | 3 :: t => some (.image, t)
      | 4 :: t => some (.kept, t)
      | 5 :: t => some (.slot, t)
      | _ => none }

/-- Codec of Cause. -/
def cCause : Codec Cause := cEnum [.wait, .flagcap, .walk, .regs, .check, .spawn, .join, .preempt, .fault] .wait

/-- Codec of Want. -/
def cWant : Codec Want :=
  { enc := fun x => match x with
      | .none => [0]
      | .walk va => [1, va]
      | .check => [2]
      | .race l => 3 :: (cList cNat).enc l
    dec := fun l => match l with
      | 0 :: t => some (.none, t)
      | 1 :: va :: t => some (.walk va, t)
      | 2 :: t => some (.check, t)
      | 3 :: t => ((cList cNat).dec t).map fun r => (.race r.1, r.2)
      | _ => none }

/-- Codec of TrapCode. -/
def cTrapCode : Codec TrapCode := cEnum [.btgt, .illop, .illopnd, .pend, .unwr, .eccu, .fmtdiv, .illtype, .membr, .sloterr, .handle, .misalign, .spbound, .prot, .xlate, .mmrace, .cqov, .user] .btgt

/-- Codec of Rep. -/
def cRep : Codec Rep := cMap (cPair cNat (cPair cInt (cPair cInt cInt)))
  (fun x => ⟨x.1, x.2.1, x.2.2.1, x.2.2.2⟩)
  (fun x => (x.cnt, x.dD, x.dA, x.dB))

/-- A register: its 64 bytes as one number. -/
def cVReg : Codec VReg := cMap (cPair cNat (cPair cNat (cBv 16)))
  (fun x => ⟨x.1, Vector.ofFn fun i => BitVec.ofNat 32 (nfld x.2.1 (32 * i.val) 32), x.2.2⟩)
  (fun x => (x.tag, leNat (x.w.toList.flatMap fun w => natBytes 4 w.toNat), x.poison))

/-- Codec of Flag. -/
def cFlag : Codec Flag := cMap (cPair cNat cBool)
  (fun x => ⟨x.1, x.2⟩)
  (fun x => (x.count, x.err))

/-- Codec of Group. -/
def cGroup : Codec Group := cMap (cPair cNat (cPair cNat (cPair cNat (cPair cNat (cPair cNat (cPair cNat (cPair cNat (cPair cRes (cPair cStore (cPair cCause (cPair cNat (cPair (cBv 12) (cPair cNat (cPair cNat (cPair cWant (cPair cBool (cPair (cOpt (cPair cNat cTrapCode)) (cPair cBool (cPair (cVec 16 (cBv 12)) (cPair (cBv 64) (cPair cNat (cPair cNat (cPair (cOpt cRep) (cPair cNat (cPair cNat (cPair cNat (cPair (cBv 64) (cPair (cBv 32) (cPair (cBv 16) (cPair (cBv 16) (cPair (cBv 32) (cPair (cBv 32) (cPair (cVec 8 (cBv 16)) (cPair (cVec 32 (cBv 64)) (cPair (cBv 64) (cPair (cVec 64 (cOpt cVReg)) (cPair (cVec 12 cFlag) (cPair (cList cNat) (cPair cNat (cPair cBool (cPair (cBv 12) (cPair (cOpt cBool) (cBv 32)))))))))))))))))))))))))))))))))))))))))))
  (fun x => ⟨x.1, x.2.1, x.2.2.1, x.2.2.2.1, x.2.2.2.2.1, x.2.2.2.2.2.1, x.2.2.2.2.2.2.1, x.2.2.2.2.2.2.2.1, x.2.2.2.2.2.2.2.2.1, x.2.2.2.2.2.2.2.2.2.1, x.2.2.2.2.2.2.2.2.2.2.1, x.2.2.2.2.2.2.2.2.2.2.2.1, x.2.2.2.2.2.2.2.2.2.2.2.2.1, x.2.2.2.2.2.2.2.2.2.2.2.2.2.1, x.2.2.2.2.2.2.2.2.2.2.2.2.2.2.1, x.2.2.2.2.2.2.2.2.2.2.2.2.2.2.2.1, x.2.2.2.2.2.2.2.2.2.2.2.2.2.2.2.2.1, x.2.2.2.2.2.2.2.2.2.2.2.2.2.2.2.2.2.1, x.2.2.2.2.2.2.2.2.2.2.2.2.2.2.2.2.2.2.1, x.2.2.2.2.2.2.2.2.2.2.2.2.2.2.2.2.2.2.2.1, x.2.2.2.2.2.2.2.2.2.2.2.2.2.2.2.2.2.2.2.2.1, x.2.2.2.2.2.2.2.2.2.2.2.2.2.2.2.2.2.2.2.2.2.1, x.2.2.2.2.2.2.2.2.2.2.2.2.2.2.2.2.2.2.2.2.2.2.1, x.2.2.2.2.2.2.2.2.2.2.2.2.2.2.2.2.2.2.2.2.2.2.2.1, x.2.2.2.2.2.2.2.2.2.2.2.2.2.2.2.2.2.2.2.2.2.2.2.2.1, x.2.2.2.2.2.2.2.2.2.2.2.2.2.2.2.2.2.2.2.2.2.2.2.2.2.1, x.2.2.2.2.2.2.2.2.2.2.2.2.2.2.2.2.2.2.2.2.2.2.2.2.2.2.1, x.2.2.2.2.2.2.2.2.2.2.2.2.2.2.2.2.2.2.2.2.2.2.2.2.2.2.2.1, x.2.2.2.2.2.2.2.2.2.2.2.2.2.2.2.2.2.2.2.2.2.2.2.2.2.2.2.2.1, x.2.2.2.2.2.2.2.2.2.2.2.2.2.2.2.2.2.2.2.2.2.2.2.2.2.2.2.2.2.1, x.2.2.2.2.2.2.2.2.2.2.2.2.2.2.2.2.2.2.2.2.2.2.2.2.2.2.2.2.2.2.1, x.2.2.2.2.2.2.2.2.2.2.2.2.2.2.2.2.2.2.2.2.2.2.2.2.2.2.2.2.2.2.2.1, x.2.2.2.2.2.2.2.2.2.2.2.2.2.2.2.2.2.2.2.2.2.2.2.2.2.2.2.2.2.2.2.2.1, x.2.2.2.2.2.2.2.2.2.2.2.2.2.2.2.2.2.2.2.2.2.2.2.2.2.2.2.2.2.2.2.2.2.1, x.2.2.2.2.2.2.2.2.2.2.2.2.2.2.2.2.2.2.2.2.2.2.2.2.2.2.2.2.2.2.2.2.2.2.1, x.2.2.2.2.2.2.2.2.2.2.2.2.2.2.2.2.2.2.2.2.2.2.2.2.2.2.2.2.2.2.2.2.2.2.2.1, x.2.2.2.2.2.2.2.2.2.2.2.2.2.2.2.2.2.2.2.2.2.2.2.2.2.2.2.2.2.2.2.2.2.2.2.2.1, x.2.2.2.2.2.2.2.2.2.2.2.2.2.2.2.2.2.2.2.2.2.2.2.2.2.2.2.2.2.2.2.2.2.2.2.2.2.1, x.2.2.2.2.2.2.2.2.2.2.2.2.2.2.2.2.2.2.2.2.2.2.2.2.2.2.2.2.2.2.2.2.2.2.2.2.2.2.1, x.2.2.2.2.2.2.2.2.2.2.2.2.2.2.2.2.2.2.2.2.2.2.2.2.2.2.2.2.2.2.2.2.2.2.2.2.2.2.2.1, x.2.2.2.2.2.2.2.2.2.2.2.2.2.2.2.2.2.2.2.2.2.2.2.2.2.2.2.2.2.2.2.2.2.2.2.2.2.2.2.2.1, x.2.2.2.2.2.2.2.2.2.2.2.2.2.2.2.2.2.2.2.2.2.2.2.2.2.2.2.2.2.2.2.2.2.2.2.2.2.2.2.2.2.1, x.2.2.2.2.2.2.2.2.2.2.2.2.2.2.2.2.2.2.2.2.2.2.2.2.2.2.2.2.2.2.2.2.2.2.2.2.2.2.2.2.2.2⟩)
  (fun x => (x.inst, x.region, x.launch, x.wg, x.core, x.part, x.slot, x.res, x.store, x.cause, x.arg, x.waitm, x.readyAt, x.since, x.want, x.answered, x.walkFault, x.home, x.tids, x.pc, x.coff, x.repi, x.rep, x.setA, x.setB, x.len, x.pendV, x.pendG, x.exec, x.alive, x.mood, x.prog, x.p, x.g, x.gpoison, x.v, x.flags, x.cedes, x.hbKey, x.llSeen, x.engFlags, x.resume, x.liveg))

end Sys2Proof.Machine
end

