-- ==== Sys2Proof/Machine/Hash.lean ====
section
/-! DEFINITION. SHAKE256 (FIPS 202), which pfxh and the key derivations compute with (R200). The rotations and the round constants are
computed as the standard defines them, not listed. -/

namespace Sys2Proof.Machine

/-- The lane of column x and row y, both modulo 5. -/
def laneNo (x y : Nat) : Nat := x % 5 + 5 * (y % 5)

/-- The bytes of 64-bit lanes. -/
def laneBytes64 (a : List DWord) : List Byte := a.flatMap fun w => natBytes 8 w.toNat

/-- The parity of a column. -/
def columnParity (a : List DWord) (x : Nat) : DWord := (List.range 5).foldl (fun w y => w ^^^ a.getD (laneNo x y) 0) 0

/-- Step θ: each lane takes the parities of two neighbouring columns. -/
def stepTheta (a : List DWord) : List DWord :=
  a.mapIdx fun i w => w ^^^ columnParity a (i + 4) ^^^ (columnParity a (i + 1)).rotateLeft 1

/-- The n moves of ρ and π from move t at (x, y) on: the lane moved, where it goes, and by how much it turns, the triangular numbers. -/
def laneMoves : Nat → Nat → Nat → Nat → List (Nat × Nat × Nat)
  | 0, _, _, _ => []
  | n + 1, t, x, y =>
    let z := (2 * x + 3 * y) % 5
    (laneNo x y, laneNo y z, (t + 1) * (t + 2) / 2 % 64) :: laneMoves n (t + 1) y z

/-- Steps ρ and π: the 24 lanes other than the first move around one cycle that begins at (1, 0). -/
def stepRhoPi (a : List DWord) : List DWord :=
  (laneMoves 24 0 1 0).foldl (fun b m => b.set m.2.1 ((a.getD m.1 0).rotateLeft m.2.2)) a

/-- Step χ: each lane with the next two of its row. -/
def stepChi (a : List DWord) : List DWord :=
  a.mapIdx fun i w => w ^^^ (~~~ a.getD (laneNo (i + 1) (i / 5)) 0 &&& a.getD (laneNo (i + 2) (i / 5)) 0)

/-- The bits of the shift register that gives the round constants: x⁸ + x⁶ + x⁵ + x⁴ + 1, n of them from state r on. -/
def registerBits : Nat → Nat → List Nat
  | 0, _ => []
  | n + 1, r => r % 2 :: registerBits n (if 128 ≤ r then Nat.xor (2 * r) 0x171 else 2 * r)

/-- Step ι of each round: the seven register bits of round i at the places 2^j − 1 of the first lane. -/
def roundWords : List DWord :=
  let bits := registerBits 168 1
  (List.range 24).map fun i => (List.range 7).foldl (fun w j => w ||| BitVec.ofNat 64 (bits.getD (7 * i + j) 0 * 2 ^ (2 ^ j - 1))) 0

/-- The permutation: 24 rounds. -/
def permute (a : List DWord) : List DWord :=
  roundWords.foldl (fun b rc => (stepChi (stepRhoPi (stepTheta b))).modifyHead (· ^^^ rc)) a

/-- The bytes of one block go into the state, whose capacity stays, and the state is permuted. -/
def absorbBlock (a : List DWord) (bs : List Byte) : List DWord :=
  permute (a.mapIdx fun i w => if i < 17 then w ^^^ BitVec.ofNat 64 (leNat ((bs.drop (8 * i)).take 8)) else w)

/-- The message with SHAKE's suffix, padded to whole blocks of 136 bytes. -/
def shakePad (m : List Byte) : List Byte :=
  let n := 136 - m.length % 136
  if n = 1 then m ++ [0x9F#8] else m ++ [0x1F#8] ++ zeros (n - 2) ++ [0x80#8]

/-- n + 1 blocks of output. -/
def squeezeBlocks (a : List DWord) : Nat → List Byte
  | 0 => laneBytes64 (a.take 17)
  | n + 1 => laneBytes64 (a.take 17) ++ squeezeBlocks (permute a) n

/-- The first n bytes of SHAKE256 of a message. -/
def shake256 (m : List Byte) (n : Nat) : List Byte :=
  let p := shakePad m
  (squeezeBlocks ((blocksOf 136 (p.length / 136) p).foldl absorbBlock (List.replicate 25 0#64)) (n / 136)).take n

end Sys2Proof.Machine
end

