-- ==== Sys2Proof/Machine/Race.lean ====
section
/-! DEFINITION. The race detector's records: live stamps, conflicts and what a check writes (R297 to R300). -/

namespace Sys2Proof.Machine

/-- An empty stamp. -/
def Stamp.empty : Stamp := { mask := 0, region := 0, group := 0 }

/-- The record of a sector; an absent one has empty stamps and lies in its LLC line (R298). -/
def recOf (s : State) (sec : Nat) : SectorRec :=
  tgetD s.race sec { w := Stamp.empty, ra := Stamp.empty, rb := Stamp.empty, holder := none }

/-- A live stamp: not empty, its instance exists, and its region is the current one (R298). An instance has ended once its
group waits as a join part (R284). -/
def liveStamp (s : State) (x : Stamp) : Bool :=
  x.mask != 0 && s.groups.any fun e => decide (e.2.inst = x.group) && decide (e.2.region = x.region) && e.2.res != .joined

/-- The bytes of a sector that n bytes at a touch. -/
def sectorMask (a n : Nat) : BitVec 32 := BitVec.ofNat 32 ((2 ^ n - 1) * 2 ^ (a % 32))

/-- The stamp that an access conflicts with, W first, and whether it is W (R299). -/
def conflictOf (s : State) (inst : Nat) (isStore : Bool) (sec : Nat) (m : BitVec 32) : Option (Stamp × Bool) :=
  let r := recOf s sec
  let hit (x : Stamp) : Bool := liveStamp s x && x.group != inst && x.mask &&& m != 0
  if hit r.w then some (r.w, true)
  else if !isStore then none
  else if hit r.ra then some (r.ra, false)
  else if hit r.rb then some (r.rb, false)
  else none

/-- Bytes 64 to 127 of an MMRACE record (R393). -/
def raceExt (s : State) (x : Stamp) (isW : Bool) : Memory :=
  let base := mwriteN (mwriteN (mwriteN [] 64 8 x.group) 72 4 x.mask.toNat) 76 1 (b2n (!isW))
  match s.groups.find? fun e => e.2.inst = x.group with
  | some e => mwriteN (mwriteN (mwriteN base 77 1 1) 80 4 (launchId s e.2.launch)) 84 4 (wgLin s e.2.wg)
  | none => base

/-- A record after an access without conflict (R299). -/
def stampRec (s : State) (r : SectorRec) (inst region : Nat) (isStore : Bool) (m : BitVec 32) : SectorRec :=
  let own (x : Stamp) : Bool := liveStamp s x && decide (x.group = inst)
  let new : Stamp := { mask := m, region := region, group := inst }
  if isStore then
    if own r.w then { r with w := { r.w with mask := r.w.mask ||| m } } else { r with w := new }
  else if own r.ra then { r with ra := { r.ra with mask := r.ra.mask ||| m } }
  else if own r.rb then { r with rb := { r.rb with mask := r.rb.mask ||| m } }
  else if !liveStamp s r.ra then { r with ra := new }
  else if !liveStamp s r.rb then { r with rb := new }
  else { r with ra := r.rb, rb := new }

/-- Write the stamps of an access to sectors, of the bytes of each that any lane touches. -/
def stampAll (s : State) (g : Group) (isStore : Bool) (ms : Table (BitVec 32)) : State :=
  { s with race := ms.foldl (fun t e => tset t e.1 (stampRec s (recOf s e.1) g.inst g.region isStore e.2)) s.race }

end Sys2Proof.Machine
end

