-- ==== Sys2Proof/Machine/MemOps.lean ====
section
/-! DEFINITION. Opcodes 0x48 to 0x57 at issue: memory instructions, presence, fences, atomics, the register
window and prefetch (R160 to R175). Acceptance checks and what it enters in State.ops; completions are in MemEvents. -/

namespace Sys2Proof.Machine

/-! ## Acceptance (R88, R161) -/

/-- What the checks of one lane find (R161 step 2): its accesses, with the lane where the page of a global one has RT set; a trap,
with the virtual address where it is that of a word of private memory and not the lane's own; or an L1 TLB miss. -/
inductive LaneChk where
  | ok (as : List Acc) (rt : List Nat)
  | trap (t : TrapCode) (va : Option Nat)
  | walk (va : Nat)
deriving DecidableEq, Repr

/-- An access not yet performed. -/
def newAcc (l va addr : Nat) (data : List Byte) (early : Bool) : Acc :=
  { lane := l, va := va, addr := addr, data := data, got := [], bad := false, done := false, early := early }

/-- The checks of a global access of n bytes: alignment, bits [63:55], the fabric window, translation and
permission (R161, R68, R278). wr asks for W, fab permits the fabric window. -/
def globalLane (s : State) (g : Group) (wr fab : Bool) (n l : Nat) (va : DWord) (data : List Byte) : LaneChk :=
  let a := va.toNat
  if a % n ≠ 0 then .trap .misalign none
  else if 2 ^ 55 ≤ a then .trap .xlate none
  else if 2 ^ 54 ≤ a then if fab then .ok [newAcc l a a data false] [] else .trap .prot none
  else match tlbLook s g a with
    | .walkFault t => .trap t none
    | .miss => .walk a
    | .pa p rt w =>
      if wr && !w then .trap .prot none
      else .ok [newAcc l a p data (wr && (coreOf s g.core).l1.contains (p / 128))] (if rt then [l] else [])

/-- The checks of a scratchpad access (R69, R164). -/
def scratchLane (s : State) (g : Group) (n l : Nat) (off : DWord) (data : List Byte) : LaneChk :=
  let len := match tget s.wgs g.wg with
    | some w => w.spadLen
    | none => 0
  if off.toNat % n ≠ 0 then .trap .misalign none
  else if len < off.toNat + n then .trap .spbound none
  else .ok [newAcc l off.toNat off.toNat data false] []

/-- The virtual address of byte o of a thread's private memory (R69). -/
def privVa (d : Desc) (lin tid o : Nat) : Nat :=
  d.privA + lin * d.threads * d.priv + o / 4 * d.threads * 4 + tid * 4 + o % 4

/-- Put checks of parts together: the first that fails, or all accesses. -/
def joinChk : List LaneChk → LaneChk
  | [] => .ok [] []
  | .ok as _ :: t => match joinChk t with
    | .ok bs _ => .ok (as ++ bs) []
    | k => k
  | k :: _ => k

/-- The checks of a private access: alignment, bounds, then the translation of each 4-byte word (R69, R165). -/
def privLane (s : State) (g : Group) (wr : Bool) (n l : Nat) (off : DWord) (data : List Byte) : LaneChk :=
  let d := descOf s g.launch
  let o := off.toNat
  if o % n ≠ 0 then .trap .misalign none
  else if d.priv < o + n then .trap .prot none
  else
    let k := min n 4
    joinChk ((List.range (n / k)).map fun i =>
      let va := privVa d (wgLin s g.wg) (g.tids.getD l 0).toNat (o + k * i)
      match globalLane s g wr false k l (BitVec.ofNat 64 va) ((data.drop (k * i)).take k) with
      | .trap t _ => .trap t (some va)
      | x => x)

/-- The checks over lanes in order: what the lanes before the first that fails access, and that failure with its lane. -/
def lanesChk (f : Nat → LaneChk) : List Nat → List Acc × List Nat × Option (Nat × LaneChk)
  | [] => ([], [], none)
  | l :: t => match f l with
    | .ok as rt =>
      let r := lanesChk f t
      (as ++ r.1, rt ++ r.2.1, r.2.2)
    | k => ([], [], some (l, k))

/-- The sectors that accesses touch, ascending, each with the bytes any of their lanes touches (R299). -/
def sectorsOf (as : List Acc) (n : Nat) : Table (BitVec 32) :=
  as.foldl (fun t a => tset t (a.addr / 32) (tgetD t (a.addr / 32) 0 ||| sectorMask a.addr n)) []

/-- What the race check of an ld or st finds (R163, R299): records the L1 lacks, or a conflict, with the lane that names it. -/
inductive RaceChk where
  | ok
  | want (sectors : List Nat)
  | clash (lane : Nat) (ext : Memory)
deriving DecidableEq, Repr

/-- The race check of the lanes on RT pages, lane by lane (R161, R392): an access lies in one sector. DEDUCED (log 54): the first lane
whose own bytes meet a live stamp names the record, with the first such stamp in the order of R299. -/
def raceChk (s : State) (g : Group) (isStore : Bool) (as : List Acc) (n : Nat) : RaceChk :=
  let away (a : Acc) : Bool := (recOf s (a.addr / 32)).holder != some g.core
  let clash (a : Acc) : Option (Stamp × Bool) := conflictOf s g.inst isStore (a.addr / 32) (sectorMask a.addr n)
  match as.find? fun a => away a || (clash a).isSome with
  | none => .ok
  | some a =>
    if away a then .want (((sectorsOf as n).filter fun e => (recOf s e.1).holder != some g.core).map Prod.fst)
    else match clash a with
      | some (st, isW) => .clash a.lane (raceExt s st isW)
      | none => .ok

/-- Allocate v names that hold no register (R88, R92). -/
def allocV (g : Group) (tag : Nat) (ns : List Nat) : Group :=
  { g with v := g.v.mapIdx fun n r => if ns.contains n && r.isNone then some (freshReg tag) else r }

/-- What a memory instruction is, beside its lanes. -/
structure MemForm where
  word  : Word
  kind  : MemKind
  space : Space
  u     : Bool
  fs    : Bool
  size  : Nat
  sc    : Nat := 0
  acq   : Bool := false
  rel   : Bool := false
  wv    : List Nat := []
  gd    : Option Nat := none
  /-- ld and st: whether it is a store, for the race detector. -/
  race  : Option Bool := none
deriving DecidableEq, Repr

/-- The accepted instruction, with the register names its results go to. -/
def newOp (c : Nat) (g : Group) (f : MemForm) (as : List Acc) : MemOp :=
  { word := f.word, site := siteOf g, kind := f.kind, space := f.space, ctx := c, inst := g.inst, launch := g.launch, wg := g.wg,
    core := g.core, flag := flagSel g f.fs, uni := f.u, size := f.size, sc := f.sc, acq := f.acq, rel := f.rel,
    mood := g.mood, dst := f.wv.map fun n => (n, match g.v.getD n none with
      | some r => r.tag
      | none => 0)
    gdst := f.gd, accs := as, landed := 0, err := false }

/-- The instruction is accepted: destinations are allocated and marked, the flag counts, marks free, the region
closes for a release or acquire, and the race records of the sectors that lanes rt touch are written (R88, R297, R299). -/
def acceptMem (s : State) (c : Nat) (g : Group) (use : Use) (f : MemForm) (as : List Acc) (rt : List Nat) : Out :=
  let k := s.nextKey
  let here := f.space = .scratch && as.all fun a => !((linesOf a.addr f.size).any (absentOf s g.wg).contains)
  let as := if here then as.map (fun a => { a with early := true }) else as
  let s1 := match f.race with
    | some st => stampAll s g st (sectorsOf (as.filter fun a => rt.contains a.lane) f.size)
    | none => s
  let r := if f.acq || f.rel then closeRegion s1 g else (s1, g)
  let g1 := allocV r.2 k f.wv
  let g2 := addPend (incFlag { g1 with walkFault := none } (flagSel g f.fs)) f.wv f.gd.toList
  .next (putGroup { r.1 with nextKey := k + 1, ops := tset r.1.ops k (newOp c g1 f as) } c
    (bump (stepPast (freeMarks g2 use.marks f.wv))))

/-- The address of lane l, for a fault record. -/
def lanes (g : Group) (u : Bool) : List Nat := if u then [0] else lanesOf g.exec

/-- The common course of a memory instruction: form, the flag's count, ECCU, traps of its own, the lanes' checks in order,
registers, acceptance (R60, R87, R88, R161). addr gives the lane's address. With EXEC = 0 the vector form makes no access,
counts nothing and reads no operand; its names count for PEND all the same (R89, R90). -/
def memIssue (s : State) (c : Nat) (g : Group) (use : Use) (f : MemForm) (own : Option TrapCode)
    (addr : Nat → DWord) (lane : Nat → LaneChk) : Out :=
  let u := { use with ill := use.ill || noFlag g f.fs }
  if !f.u && g.exec = 0 then
    checked s c g u.unread (done s c (freeMarks (addPend g f.wv f.gd.toList) use.marks []))
  else accepted s c g u f.fs false (match own with
    | some t => .next (takeTrap s c g { code := t })
    | none =>
      let named (l : Nat) (t : TrapCode) (va : Option Nat) (ext : Memory) : Out :=
        .next (takeTrap s c g { code := t, lane := if f.u then none else some l, ext := ext
                                addr := (va.map fun a => BitVec.ofNat 64 a).getD (addr l) })
      let r := lanesChk lane (lanes g f.u)
      let rt := if featOn s 9 && f.race.isSome then r.2.1 else []
      match raceChk s g (f.race.getD false) (r.1.filter fun a => rt.contains a.lane) f.size, r.2.2 with
      | .clash l ext, _ => named l .mmrace none ext
      | .want secs, _ => .next (endWith s c g .check 0 (.race secs))
      | .ok, some (l, .trap t va) => named l t va []
      | .ok, some (_, .walk va) => .next (endWith s c g .walk 0 (.walk va))
      | .ok, _ => withRegs s c g f.wv (acceptMem s c g use f r.1 rt))

/-! ## Register operands (R76, R77) -/

/-- v names of an F-M access of n bytes. -/
def memNames (d n : Nat) : List Nat := namesFrom d (if n ≤ 4 then 1 else n / 4)

/-- ILLOPND of an F-M width: an odd pair, a quad not at a multiple of four, .128 with U = 1 (R76). -/
def widthNd (u : Bool) (d n : Nat) : Bool :=
  if u then decide (n = 16) else (decide (n = 8) && decide (d % 2 = 1)) || (decide (n = 16) && decide (d % 4 ≠ 0))

/-- Register use of F-M: base, index, and the data names read or written. A mark on a g name is ILLOP (R93). -/
def useM (g : Group) (u : Bool) (d : R6) (gb : BitVec 5) (ix : R6) (store ld li : Bool) (w : BitVec 3) : Use :=
  let n := widthBytes w
  let ns := memNames d.toNat n
  if u then
    { ill := ld || li || w = 7, nd := notG d || notG ix || widthNd u d.toNat n
      rg := [gb.toNat, ix.toNat] ++ (if store then [d.toNat] else []), wg := if store then [] else [d.toNat] }
  else
    { ill := w = 7, nd := widthNd u d.toNat n
      rv := ix.toNat :: (if store then ns else []), wv := if store then [] else ns, rg := [gb.toNat]
      marks := (if ld && store then ns else []) ++ (if li then [ix.toNat] else []), lanes := g.exec }

/-- The n bytes of store data of a lane, or of gD (R162). -/
def storeData (g : Group) (u : Bool) (d n l : Nat) : List Byte :=
  if u then natBytes n (readG g d).toNat
  else if n ≤ 4 then natBytes n (readV g d l).toNat
  else (memNames d n).flatMap fun r => natBytes 4 (readV g r l).toNat

/-- A load of a space. -/
def loadOp (u : Bool) (d : R6) (gb : BitVec 5) (ix : R6) (li sx fs : Bool) (w : BitVec 3) (word : Word) (sp : Space)
    (race : Option Bool) (lane : State → Group → Nat → Nat → DWord → LaneChk) (s : State) : Out :=
  onGroup s fun c g =>
    let n := widthBytes w
    let addr (l : Nat) : DWord := fmAddr g u gb ix sx n l
    memIssue s c g (useM g u d gb ix false false li w)
      { word := word, kind := .load (w = 0 || w = 2), space := sp, u := u, fs := fs, size := n, race := race
        wv := if u then [] else memNames d.toNat n, gd := if u then some d.toNat else none } none addr
      fun l => lane s g n l (addr l)

/-- A store to a space. -/
def storeOp (u : Bool) (d : R6) (gb : BitVec 5) (ix : R6) (ld li sx fs : Bool) (w : BitVec 3) (word : Word) (sp : Space)
    (race : Option Bool) (lane : State → Group → Nat → Nat → DWord → List Byte → LaneChk) (s : State) : Out :=
  onGroup s fun c g =>
    let n := widthBytes w
    let addr (l : Nat) : DWord := fmAddr g u gb ix sx n l
    memIssue s c g (useM g u d gb ix true ld li w)
      { word := word, kind := .store, space := sp, u := u, fs := fs, size := n, race := race } none addr
      fun l => lane s g n l (addr l) (storeData g u d.toNat n l)

/-- ld (R162, R163). -/
def execLd (u : Bool) (d : R6) (gb : BitVec 5) (ix : R6) (li sx fs : Bool) (w : BitVec 3) (s : State) : Out :=
  loadOp u d gb ix li sx fs w (wordOf (.ld u d gb ix li sx fs w)) .global (some false)
    (fun s g n l a => globalLane s g false true n l a []) s

/-- st (R162, R163). -/
def execSt (u : Bool) (d : R6) (gb : BitVec 5) (ix : R6) (ld li sx fs : Bool) (w : BitVec 3) (s : State) : Out :=
  storeOp u d gb ix ld li sx fs w (wordOf (.st u d gb ix ld li sx fs w)) .global (some true)
    (fun s g n l a b => globalLane s g true true n l a b) s

/-- lds (R164). -/
def execLds (u : Bool) (d : R6) (gb : BitVec 5) (ix : R6) (li sx fs : Bool) (w : BitVec 3) (s : State) : Out :=
  loadOp u d gb ix li sx fs w (wordOf (.lds u d gb ix li sx fs w)) .scratch none
    (fun s g n l a => scratchLane s g n l a []) s

/-- sts (R164). -/
def execSts (u : Bool) (d : R6) (gb : BitVec 5) (ix : R6) (ld li sx fs : Bool) (w : BitVec 3) (s : State) : Out :=
  storeOp u d gb ix ld li sx fs w (wordOf (.sts u d gb ix ld li sx fs w)) .scratch none scratchLane s

/-- ldp (R165). -/
def execLdp (d : R6) (gb : BitVec 5) (ix : R6) (li sx fs : Bool) (w : BitVec 3) (s : State) : Out :=
  loadOp false d gb ix li sx fs w (wordOf (.ldp d gb ix li sx fs w)) .priv none
    (fun s g n l a => privLane s g false n l a []) s

/-- stp (R165). -/
def execStp (d : R6) (gb : BitVec 5) (ix : R6) (ld li sx fs : Bool) (w : BitVec 3) (s : State) : Out :=
  storeOp false d gb ix ld li sx fs w (wordOf (.stp d gb ix ld li sx fs w)) .priv none
    (fun s g n l a b => privLane s g true n l a b) s

/-! ## Presence (R166) -/

/-- The scratchpad line of each acting lane, or the trap of the first offset outside the allocation. -/
def prsLines (s : State) (g : Group) (u : Bool) (gb : BitVec 5) (ix : R6) : List Acc × List Nat × Option (Nat × LaneChk) :=
  lanesChk (fun l => scratchLane s g 1 l (fmAddr g u gb ix false 1 l) []) (lanes g u)

/-- Register use of prs. -/
def usePrs (g : Group) (u : Bool) (gb : BitVec 5) (ix : R6) (li : Bool) : Use :=
  if u then { ill := li, nd := notG ix, rg := [gb.toNat, ix.toNat] }
  else { rv := [ix.toNat], rg := [gb.toNat], marks := if li then [ix.toNat] else [], lanes := g.exec }

/-- A presence instruction that takes effect at once on its lines: k receives the lines by lane. -/
def prsNow (u : Bool) (gb : BitVec 5) (ix : R6) (li nd : Bool) (k : State → Nat → Group → Use → List (Nat × Nat) → Out)
    (s : State) : Out :=
  onGroup s fun c g =>
    let use := usePrs g u gb ix li
    let all := { use with nd := use.nd || nd }
    checked s c g (if !u && g.exec = 0 then all.unread else all)
      (match prsLines s g u gb ix with
      | (as, _, none) => k s c g use (as.map fun a => (a.lane, a.addr / 128))
      | (_, _, some (l, _)) => .next (takeTrap s c g { code := .spbound, lane := if u then none else some l, addr := fmAddr g u gb ix false 1 l }))

/-- prs.test (R166). -/
def execPrsTest (u : Bool) (d : R6) (gb : BitVec 5) (ix : R6) (li : Bool) (s : State) : Out :=
  prsNow u gb ix li (decide (8 ≤ d.toNat)) (fun s c g use ls =>
    let has (l : Nat) : Bool := ls.any fun e => decide (e.1 = l) && !(absentOf s g.wg).contains e.2
    commitP s c g use d.toNat
      (if u then (if has 0 then BitVec.allOnes 16 else 0)
      else bits16 fun l => if g.exec.getLsbD l then has l else (readP g d.toNat).getLsbD l)) s

/-- prs.clr (R166). -/
def execPrsClr (u : Bool) (gb : BitVec 5) (ix : R6) (li : Bool) (s : State) : Out :=
  prsNow u gb ix li false (fun s c g use ls => done (setAbsent s g.wg (ls.map Prod.snd)) c (freeMarks g use.marks [])) s

/-- prs.set (R166). -/
def execPrsSet (u : Bool) (gb : BitVec 5) (ix : R6) (li : Bool) (s : State) : Out :=
  prsNow u gb ix li false (fun s c g use ls => done (setPresent s g.wg (ls.map Prod.snd)) c (freeMarks g use.marks [])) s

/-- prs.wait (R166): a command that completes when every line is present; with EXEC = 0 the vector form counts nothing (R87). -/
def execPrsWait (u : Bool) (gb : BitVec 5) (ix : R6) (li fs : Bool) (s : State) : Out :=
  onGroup s fun c g =>
    let use0 := usePrs g u gb ix li
    let use := { use0 with ill := use0.ill || noFlag g fs }
    if !u && g.exec = 0 then checked s c g use.unread (done s c (freeMarks (addPend g [] []) use.marks []))
    else accepted s c g use fs false (match prsLines s g u gb ix with
      | (as, _, none) =>
        let f := flagSel g fs
        let k := s.nextKey
        let ls := nsAddAll (as.map fun a => a.addr / 128) []
        let cmd := { newCmd s c g (wordOf (.prsWait u gb ix li fs)) f with
          landed := ls, started := !(ls.any (absentOf s g.wg).contains) }
        let g1 := freeMarks (addPend (incFlag g f) [] []) use.marks []
        .next (putGroup { s with nextKey := k + 1, cmds := tset s.cmds k cmd } c (bump (stepPast g1)))
      | (_, _, some (l, _)) => .next (takeTrap s c g { code := .spbound, lane := if u then none else some l, addr := fmAddr g u gb ix false 1 l }))

/-! ## Fences (R167) -/

/-- Accept a fence: a command that completes when its release side has; the region closes (R297). -/
def acceptFence (s : State) (c : Nat) (g : Group) (word : Word) (sub : Nat) (fs : Bool) (sc : BitVec 2) (acq rel : Bool) : Out :=
  let r := closeRegion s g
  let f := flagSel g fs
  let k := r.1.nextKey
  let cmd := { newCmd r.1 c g word f with sub := sub, sc := sc.toNat, acq := acq, rel := rel }
  .next (putGroup { r.1 with nextKey := k + 1, cmds := tset r.1.cmds k cmd } c (bump (stepPast (addPend (incFlag r.2 f) [] []))))

/-- fence (R167). -/
def execFence (fs : Bool) (sc : BitVec 2) (acq rel : Bool) (s : State) : Out :=
  onGroup s fun c g => accepted s c g { ill := noFlag g fs || (!acq && !rel) } fs false
    (acceptFence s c g (wordOf (.fence fs sc acq rel)) 0 fs sc acq rel)

/-- fence.sc (R167). -/
def execFenceSc (fs : Bool) (sc : BitVec 2) (s : State) : Out :=
  onGroup s fun c g => accepted s c g { ill := noFlag g fs } fs false
    (acceptFence s c g (wordOf (.fenceSc fs sc)) 1 fs sc true true)

/-! ## Atomics (R168 to R172) -/

/-- The address of F-A: base plus an unscaled index (R77, R161). -/
def faAddr (g : Group) (u : Bool) (gb : BitVec 5) (ix : R6) (l : Nat) : DWord := fmAddr g u gb ix false 1 l

/-- Whether an aop reads D, returns the old value, and is cas. -/
def aopReads (aop : Nat) : Bool := decide (2 ≤ aop)
def aopReturns (aop : Nat) : Bool := aop != 2 && aop != 3
def aopCas (aop : Nat) : Bool := aop == 13

/-- Register use of F-A. -/
def useA (g : Group) (u : Bool) (d : R6) (gb : BitVec 5) (ix : R6) (li ret : Bool) (aop : Nat) : Use :=
  let ds := if aopCas aop then [d.toNat, d.toNat + 1] else if aopReads aop then [d.toNat] else []
  let ws := if ret then [d.toNat] else []
  let odd := aopCas aop && decide (d.toNat % 2 = 1)
  if u then
    { ill := li || decide (14 ≤ aop), nd := notG d || notG ix || odd
      rg := [gb.toNat, ix.toNat] ++ ds, wg := ws }
  else
    { ill := decide (14 ≤ aop), nd := odd, rv := ix.toNat :: ds, wv := ws, rg := [gb.toNat]
      marks := if li then [ix.toNat] else [], lanes := g.exec }

/-- Operand bytes of an atomic: D, then D + 1 for cas. -/
def atomData (g : Group) (u : Bool) (d n l : Nat) : List Byte :=
  if u then natBytes n (readG g d).toNat ++ natBytes n (readG g (d + 1)).toNat
  else natBytes n (readV g d l).toNat ++ natBytes n (readV g (d + 1) l).toNat

/-- An atomic on a space. -/
def atomOp (u : Bool) (d : R6) (gb : BitVec 5) (ix : R6) (aop : Nat) (sc : Nat) (li ret bad : Bool) (word : Word)
    (kind : MemKind) (sp : Space) (s : State) : Out :=
  onGroup s fun c g =>
    let n := if u then 8 else 4
    let use := useA g u d gb ix li ret aop
    memIssue s c g { use with ill := use.ill || bad }
      { word := word, kind := kind, space := sp, u := u, fs := false, size := n, sc := sc
        acq := aop == 1, rel := aop == 3
        wv := if ret && !u then [d.toNat] else [], gd := if ret && u then some d.toNat else none } none
      (faAddr g u gb ix)
      fun l =>
        let data := atomData g u d.toNat n l
        if sp = .scratch then scratchLane s g n l (faAddr g u gb ix l) data
        else globalLane s g (1 < aop) false n l (faAddr g u gb ix l) data

/-- atom (R168). -/
def execAtom (u : Bool) (d : R6) (gb : BitVec 5) (ix : R6) (aop : BitVec 4) (sc : BitVec 2) (li : Bool) (s : State) : Out :=
  atomOp u d gb ix aop.toNat sc.toNat li (aopReturns aop.toNat) false (wordOf (.atom u d gb ix aop sc li))
    (.atomic aop.toNat) .global s

/-- atoms (R169). -/
def execAtoms (u : Bool) (d : R6) (gb : BitVec 5) (ix : R6) (aop : BitVec 4) (li : Bool) (s : State) : Out :=
  atomOp u d gb ix aop.toNat 0 li (aopReturns aop.toNat) false (wordOf (.atoms u d gb ix aop li)) (.atomic aop.toNat) .scratch s

/-- red (R170): aop 4 to 11 without a result. -/
def execRed (u : Bool) (d : R6) (gb : BitVec 5) (ix : R6) (aop : BitVec 4) (sc : BitVec 2) (li : Bool) (s : State) : Out :=
  atomOp u d gb ix aop.toNat sc.toNat li false (decide (aop.toNat < 4) || decide (11 < aop.toNat))
    (wordOf (.red u d gb ix aop sc li)) (.reduce aop.toNat) .global s

/-- ticket (R172). -/
def execTicket (d : R6) (gb : BitVec 5) (ix : R6) (sc : BitVec 2) (s : State) : Out :=
  onGroup s fun c g =>
    memIssue s c g { nd := notG d || notG ix, rg := [gb.toNat, ix.toNat, d.toNat], wg := [d.toNat] }
      { word := wordOf (.ticket d gb ix sc), kind := .ticket (nfld (readG g d.toNat).toNat 0 32), space := .global, u := true
        fs := false, size := 4, sc := sc.toNat, acq := true, rel := true, gd := some d.toNat } none
      (faAddr g true gb ix) fun l => globalLane s g true false 4 l (faAddr g true gb ix l) []

/-- The f32 operand of xacc.add, flushed under FTZ (R171). -/
def xaccData (g : Group) (d l : Nat) : List Byte :=
  natBytes 4 (flush fmtF32 (moodFtz g.mood) (readV g d l).toNat)

/-- ILLTYPE of xacc: TYPE must be f32 (R171). -/
def xaccType (g : Group) : Option TrapCode := if moodType g.mood = 0 then none else some .illtype

/-- xacc.add (R171). -/
def execXaccAdd (d : R6) (gb : BitVec 5) (ix : R6) (ld li sx fs : Bool) (s : State) : Out :=
  onGroup s fun c g =>
    let addr (l : Nat) : DWord := fmAddr g false gb ix sx 32 l
    memIssue s c g { rv := [ix.toNat, d.toNat], rg := [gb.toNat], lanes := g.exec
                     marks := (if ld then [d.toNat] else []) ++ if li then [ix.toNat] else [] }
      { word := wordOf (.xaccAdd d gb ix ld li sx fs), kind := .xadd, space := .global, u := false, fs := fs, size := 32, sc := 2 }
      (xaccType g) addr fun l => globalLane s g true false 32 l (addr l) (xaccData g d.toNat l)

/-- xacc.rd (R171). -/
def execXaccRd (d : R6) (gb : BitVec 5) (ix : R6) (li sx fs : Bool) (s : State) : Out :=
  onGroup s fun c g =>
    let addr (l : Nat) : DWord := fmAddr g false gb ix sx 32 l
    memIssue s c g { rv := [ix.toNat], wv := [d.toNat], rg := [gb.toNat], lanes := g.exec
                     marks := if li then [ix.toNat] else [] }
      { word := wordOf (.xaccRd d gb ix li sx fs), kind := .xread, space := .global, u := false, fs := fs, size := 32
        wv := [d.toNat] }
      (xaccType g) addr fun l => globalLane s g false false 32 l (addr l) []

/-! ## Register window (R70, R173, R174) -/

/-- The checks of a window access: alignment, XLATE outside a window, PROT for a store to a running target (R173, R174). -/
def windowLane (s : State) (g : Group) (wr : Bool) (n l : Nat) (va : DWord) (data : List Byte) : LaneChk :=
  if va.toNat % n ≠ 0 then .trap .misalign none
  else match windowTarget s (tenantOf s g.launch) va.toNat with
    | none => .trap .xlate none
    | some (tgt, _) =>
      if wr && !(match tgt with
        | some e => windowStopped s e.2
        | none => false) then .trap .prot none
      else .ok [newAcc l va.toNat va.toNat data false] []

/-- The width of ldw and stw: 100 is .32 and 101 is .64 (R160). -/
def winW (w : Bool) : BitVec 3 := if w then 5 else 4

/-- ldw (R173). -/
def execLdw (u : Bool) (d : R6) (gb : BitVec 5) (ix : R6) (li sx fs w : Bool) (s : State) : Out :=
  loadOp u d gb ix li sx fs (winW w) (wordOf (.ldw u d gb ix li sx fs w)) .window none
    (fun s g n l a => windowLane s g false n l a []) s

/-- stw (R174). -/
def execStw (u : Bool) (d : R6) (gb : BitVec 5) (ix : R6) (ld li sx fs w : Bool) (s : State) : Out :=
  storeOp u d gb ix ld li sx fs (winW w) (wordOf (.stw u d gb ix ld li sx fs w)) .window none
    (fun s g n l a b => windowLane s g true n l a b) s

/-! ## Prefetch (R175) -/

/-- pfch (R175): the lines that translate in the L1 TLB enter L1 with FS = 0; every other request is dropped. DESIGN CHOICE
(log 52): a width of .128 with U = 1 raises no ILLOPND, since a prefetch moves no data through a g register. -/
def execPfch (u : Bool) (gb : BitVec 5) (ix : R6) (li sx fs : Bool) (w : BitVec 3) (s : State) : Out :=
  onGroup s fun c g =>
    let n := widthBytes w
    let use : Use :=
      if u then { ill := li || w = 7, nd := notG ix, rg := [gb.toNat, ix.toNat] }
      else { ill := w = 7, rv := [ix.toNat], rg := [gb.toNat], marks := if li then [ix.toNat] else [], lanes := g.exec }
    let got : List Nat := (lanes g u).filterMap fun l =>
      let a := (fmAddr g u gb ix sx n l).toNat
      if 2 ^ 54 ≤ a then none
      else match tlbFind (coreOf s g.core).tlb (asidOf s g.launch) a with
        | some e => some ((e.pa + (a - e.va)) / 128)
        | none => none
    checked s c g (if !u && g.exec = 0 then use.unread else use) (done (if fs || got.isEmpty then s else got.foldl (fun t n => fillGlobal t g.core n) s) c
      (freeMarks g use.marks []))

end Sys2Proof.Machine
end

