-- ==== Sys2Proof/Machine/Gcm.lean ====
section
/-! DEFINITION. AES-256-GCM (FIPS 197, SP 800-38D), which seals packets, hand-off messages, wrapped keys and context images (R373,
R379, R407, R408). The substitution box and the round constants are computed as the standard defines them, not listed. -/

namespace Sys2Proof.Machine

/-! ## The field of 256 elements -/

/-- The double of an element. -/
def gf8Double (b : Byte) : Byte := (b <<< 1) ^^^ (if b.getLsbD 7 then 0x1B#8 else 0#8)

/-- A product, n bits of the second factor from bit i up still to come. -/
def gf8Mul (a b : Byte) (i : Nat) : Nat → Byte
  | 0 => 0
  | n + 1 => (if b.getLsbD i then a else 0) ^^^ gf8Mul (gf8Double a) b (i + 1) n

/-- The power 254, which is the inverse of an element that is not 0: the product of its powers 2, 4, …, 128. -/
def gf8Inv (a : Byte) : Byte :=
  let sq (x : Byte) : Byte := gf8Mul x x 0 8
  ((List.range 7).foldl (fun (e : Byte × Byte) _ => (sq e.1, gf8Mul e.2 (sq e.1) 0 8)) (a, 1#8)).2

/-- The substitution box. -/
def aesBox (a : Byte) : Byte :=
  let x := gf8Inv a
  x ^^^ x.rotateLeft 1 ^^^ x.rotateLeft 2 ^^^ x.rotateLeft 3 ^^^ x.rotateLeft 4 ^^^ 0x63#8

/-! ## The cipher -/

/-- Bytes added in the field. -/
def addBytes (x y : List Byte) : List Byte := List.zipWith (· ^^^ ·) x y

/-- The key schedule, four bytes for each word: n more words. -/
def aesExpand (ws : List (List Byte)) : Nat → List (List Byte)
  | 0 => ws
  | n + 1 =>
    let i := ws.length
    let prev := ws.getD (i - 1) []
    let turned := if i % 8 = 0 then
        addBytes ((prev.rotateLeft 1).map aesBox) [(List.range (i / 8 - 1)).foldl (fun r _ => gf8Double r) 1#8, 0, 0, 0]
      else if i % 8 = 4 then prev.map aesBox else prev
    aesExpand (ws ++ [addBytes (ws.getD (i - 8) []) turned]) n

/-- The key of round r: 16 bytes. -/
def aesRoundKey (ws : List (List Byte)) (r : Nat) : List Byte := ((ws.drop (4 * r)).take 4).flatten

/-- A block's rows turned: row r by r columns. -/
def aesShift (x : List Byte) : List Byte := (List.range 16).map fun i => x.getD ((5 * i) % 16) 0

/-- A block's columns mixed. -/
def aesMix (x : List Byte) : List Byte := (List.range 16).map fun i =>
  let at_ (k : Nat) : Byte := x.getD (i / 4 * 4 + (i + k) % 4) 0
  gf8Double (at_ 0) ^^^ gf8Double (at_ 1) ^^^ at_ 1 ^^^ at_ 2 ^^^ at_ 3

/-- One block of 16 bytes, encrypted. -/
def aesBlock (ws : List (List Byte)) (x : List Byte) : List Byte :=
  let inner := (List.range 13).foldl (fun b r => addBytes (aesMix (aesShift (b.map aesBox))) (aesRoundKey ws (r + 1))) (addBytes x (aesRoundKey ws 0))
  addBytes (aesShift (inner.map aesBox)) (aesRoundKey ws 14)

/-! ## Counter mode and the tag -/

/-- The n bytes of a number, the most significant first. -/
def bigBytes (n x : Nat) : List Byte := (natBytes n x).reverse

/-- Bytes with zeros up to a multiple of 16. -/
def pad16 (l : List Byte) : List Byte := l ++ zeros (roundUp l.length 16 - l.length)

/-- A product of the tag's field, whose elements begin with the coefficient of 1: n bits of the first factor still to come. -/
def ghashMul (x v : BitVec 128) : Nat → BitVec 128
  | 0 => 0
  | n + 1 => (if x.getLsbD n then v else 0) ^^^ ghashMul x ((v >>> 1) ^^^ (if v.getLsbD 0 then 0xE1#128 <<< 120 else 0)) n

/-- The bits of a block of 16 bytes, first byte highest. -/
def blockBits (b : List Byte) : BitVec 128 := BitVec.ofNat 128 (leNat b.reverse)

/-- The hash of the blocks of a text under a key. -/
def ghash (h : BitVec 128) (text : List Byte) : BitVec 128 :=
  (blocksOf 16 (text.length / 16) text).foldl (fun y b => ghashMul (y ^^^ blockBits b) h 128) 0

/-- The key's schedule. -/
def gcmKey (key : List Byte) : List (List Byte) := aesExpand (blocksOf 4 8 key) 52

/-- Block n of the stream of a nonce of 96 bits. -/
def gcmStream (ws : List (List Byte)) (nonce n : Nat) : List Byte := aesBlock ws (bigBytes 12 nonce ++ bigBytes 4 n)

/-- Bytes with the stream added: what encrypts them, and what decrypts them again. -/
def gcmCrypt (key : List Byte) (nonce : Nat) (text : List Byte) : List Byte :=
  let ws := gcmKey key
  addBytes text ((List.range (roundUp text.length 16 / 16)).flatMap fun i => gcmStream ws nonce (i + 2))

/-- The 16-byte tag of encrypted bytes and additional authenticated data. -/
def gcmTag (key : List Byte) (nonce : Nat) (aad cipher : List Byte) : List Byte :=
  let ws := gcmKey key
  let h := blockBits (aesBlock ws (zeros 16))
  let s := ghash h (pad16 aad ++ pad16 cipher ++ bigBytes 8 (8 * aad.length) ++ bigBytes 8 (8 * cipher.length))
  addBytes (bigBytes 16 s.toNat) (gcmStream ws nonce 1)

/-- AES-256-GCM: the encrypted bytes and the tag. -/
@[irreducible] def gcmSeal (key : List Byte) (nonce : Nat) (aad text : List Byte) : List Byte × List Byte :=
  let c := gcmCrypt key nonce text
  (c, gcmTag key nonce aad c)

/-- The bytes that were sealed; none where the tag fails. -/
@[irreducible] def gcmOpen (key : List Byte) (nonce : Nat) (aad cipher tag : List Byte) : Option (List Byte) :=
  if gcmTag key nonce aad cipher = tag then some (gcmCrypt key nonce cipher) else none

end Sys2Proof.Machine
end

