-- ==== Sys2Proof/Machine/Wire.lean ====
section
/-! DEFINITION. Fabric packets as they are built, routed and sent (R368 to R373): the address fields, the route
banks, sequence numbers, and what a router does with a packet it cannot forward. -/

namespace Sys2Proof.Machine

/-! ## Packet types and codes (R372) -/

def pktWrite : Nat := 0
def pktCatch : Nat := 1
def pktRead : Nat := 2
def pktReadData : Nat := 3
def pktAtomic : Nat := 4
def pktAtomReply : Nat := 5
def pktAck : Nat := 6
def pktNack : Nat := 7
def pktResv : Nat := 8
def pktResvReply : Nat := 9
def pktTorn : Nat := 10
def pktAbort : Nat := 11
def pktReduce : Nat := 12
def pktRedResult : Nat := 13
def pktKv : Nat := 14

def nackLinkdown : Nat := 1
def nackHops : Nat := 2
def nackNoroute : Nat := 3
def nackNoexport : Nat := 4
def nackProt : Nat := 5
def nackRefused : Nat := 6
def nackAuth : Nat := 7

/-- AF of WRITE, READ and ATOMIC: the sender's tenant and window offset [41:5]. -/
def afWindow (tenant off : Nat) : Nat := tenant * 2 ^ 37 + off / 32 % 2 ^ 37

/-- AF of CATCH, RESV, TORN and ABORT: reservation id, core, slot, area offset [23:5]. -/
def afCatch (rid core slot off : Nat) : Nat := rid * 2 ^ 33 + core * 2 ^ 25 + slot * 2 ^ 21 + off / 32 % 2 ^ 19 * 4

/-- AF of NACK. -/
def afNack (code seq : Nat) : Nat := code * 2 ^ 39 + seq

/-- AF of RESVREPLY. -/
def afResv (rid seq : Nat) : Nat := rid * 2 ^ 33 + seq

/-! ## Routes (R370, R371) -/

/-- The state of a route bank. -/
def bankSt (s : State) (b : Bool) : BankSt := if b then s.fab.bankSt[1] else s.fab.bankSt[0]

/-- The port that a bank routes a destination to, if the bank is not retired and its entry is valid. -/
def routePort (s : State) (b : Bool) (dst : Nat) : Option Nat :=
  if bankSt s b == .retired then none else (tget s.fab.banks (b2n b)).bind fun t => tget t dst

/-- Whether a port is up. -/
def portUp (s : State) (p : Nat) : Bool := s.fab.portsUp.getLsbD p

/-- The bank in force. -/
def injectBank (s : State) : Bool := s.fab.inject == some 1

/-- Put a packet on the way to its destination: the device's own packets turn back in its router (R68); for
others the code with which the router drops them, if it does. -/
def routeFault (s : State) (p : Packet) : Option Nat :=
  if p.dst = s.fab.devId then none
  else match routePort s p.bank p.dst with
    | none => some nackNoroute
    | some port => if portUp s port then none else some nackLinkdown

/-- A packet enters the router's buffers. -/
def buffer (s : State) (p : Packet) : State := { s with fab := { s.fab with wire := s.fab.wire ++ [p] } }

/-- The pair state of a peer; absent for the device itself before its first packet to itself. -/
def pairOf (s : State) (dev : Nat) : Pair := tgetD s.fab.pairs dev { key := [], next := 0, top := 0, got := [] }

/-- Take the next sequence number towards a device. -/
def takeSeq (s : State) (dev : Nat) : Nat × State :=
  let p := pairOf s dev
  (p.next, { s with fab := { s.fab with pairs := tset s.fab.pairs dev { p with next := p.next + 1 } } })

/-- Bytes padded to whole 32-byte steps, in which LEN counts (R372). -/
def pad32 (bs : List Byte) : List Byte := bs ++ zeros (roundUp bs.length 32 - bs.length)

/-! ## The header and the seal (R372, R373) -/

/-- The 128 bits of the header. -/
def packetHeader (p : Packet) : Nat :=
  p.type % 16 * 2 ^ 124 + b2n p.bank * 2 ^ 123 + p.hop % 8 * 2 ^ 120 + p.dst % 4096 * 2 ^ 108 + p.src % 4096 * 2 ^ 96 +
    p.af / 2 ^ 37 % 4096 * 2 ^ 84 + (p.payload.length + 31) / 32 % 256 * 2 ^ 76 + p.seq % 2 ^ 39 * 2 ^ 37 + p.af % 2 ^ 37

/-- The 96-bit nonce: 33 zero bits, SRC, DST, SEQ. -/
def packetNonce (p : Packet) : Nat := p.src % 4096 * 2 ^ 51 + p.dst % 4096 * 2 ^ 39 + p.seq % 2 ^ 39

/-- The header as authenticated: HOP and BANK read as 0. -/
def packetAad (p : Packet) : List Byte := natBytes 16 (packetHeader { p with hop := 0, bank := false })

/-- What the link carries of a payload, and the tag: encrypted for a confidential tenant, in clear and authenticated otherwise. -/
def packetSeal (key : List Byte) (p : Packet) : List Byte × List Byte :=
  if p.conf then gcmSeal key (packetNonce p) (packetAad p) p.payload
  else (p.payload, (gcmSeal key (packetNonce p) (packetAad p ++ p.payload) []).2)

/-- The bytes of a packet on a link: header, payload, tag. -/
def linkBytes (key : List Byte) (p : Packet) : List Byte := natBytes 16 (packetHeader p) ++ (packetSeal key p).1 ++ p.tag

/-- A packet with the tag under the pair's key. -/
def sealed (s : State) (p : Packet) : Packet := { p with tag := (packetSeal (pairOf s p.dst).key p).2 }

/-- Whether a tenant is confidential (R44). -/
def confidential (s : State) (t : Nat) : Bool := match tget s.tenants t with
  | some x => x.confid
  | none => false

/-- A packet of this device, sealed. -/
def mkPacket (s : State) (type dst af off : Nat) (payload : List Byte) (conf : Bool) (seq : Nat) (aux : Nat := 0) : Packet :=
  sealed s { type := type, bank := injectBank s, hop := 0, dst := dst, src := s.fab.devId, af := af, off := off, aux := aux, seq := seq,
             payload := payload, conf := conf, tag := [] }

/-- Whether a packet may be sent to a device: before the first flip nothing leaves the device, a peer needs a
key, and the pair's numbers must not run out (R370, R373). -/
def canSend (s : State) (dst : Nat) : Bool :=
  dst = s.fab.devId || (s.fab.inject.isSome && (match tget s.fab.pairs dst with
    | some p => !p.key.isEmpty && decide (p.next < 2 ^ 39)
    | none => false))

/-- Send a NACK for a packet to its source, if packets may be sent there; a NACK that cannot be routed is dropped, its own NACK
having no effect (R371, R373). -/
def sendNack (s : State) (p : Packet) (code : Nat) : State :=
  if !canSend s p.src then s
  else
    let r := takeSeq s p.src
    let n := mkPacket s pktNack p.src (afNack code p.seq) 0 [] false r.1 p.dst
    match routeFault r.2 n with
    | none => buffer r.2 n
    | some _ => { r.2 with fab := { r.2.fab with dropped := r.2.fab.dropped + 1 } }

/-- The router takes a packet: it buffers it, or drops it and sends a NACK to its source (R371, R373). -/
def route (s : State) (p : Packet) : State := match routeFault s p with
  | none => buffer s p
  | some code => sendNack { s with fab := { s.fab with dropped := s.fab.dropped + 1 } } p code

/-- Send a reply, if packets may be sent there: no acknowledgement is awaited (R369, R372, R373). A NACK says whose packet it answers
(log 18). -/
def sendReply (s : State) (type dst af off : Nat) (payload : List Byte) (conf : Bool) : State :=
  if !canSend s dst then s
  else
    let r := takeSeq s dst
    route r.2 (mkPacket s type dst af off payload conf r.1 (if type = pktNack then s.fab.devId else 0))

/-- Send a reply that is sent again until its receiver has it (R365, R376); the same reply to the same device keeps its number. One
that cannot be sent now waits (R373). -/
def sendNotice (s : State) (type dst af : Nat) : State :=
  match s.fab.notices.find? fun e => decide (e.1.type = type) && decide (e.1.dst = dst) && decide (e.1.af = af) with
  | some e => if canSend s dst then route s { e.1 with bank := injectBank s } else s
  | none =>
    if !canSend s dst then { s with fab := { s.fab with unsent := s.fab.unsent.filter (fun e => e != (type, dst, af)) ++ [(type, dst, af)] } }
    else
      let r := takeSeq s dst
      let p := mkPacket s type dst af 0 [] false r.1
      if dst = s.fab.devId then route r.2 p
      else route { r.2 with fab := { r.2.fab with notices := r.2.fab.notices ++ [(p, s.clk)] } } p

/-- The replies that could not be sent are sent, as far as they can be now (R365, R376). -/
def sendUnsent (s : State) : State :=
  s.fab.unsent.foldl (fun t e => sendNotice t e.1 e.2.1 e.2.2) { s with fab := { s.fab with unsent := [] } }

/-- A new key for a device (R373): the replies that were sent again under the old one are sent anew. -/
def renewNotices (s : State) (dev : Nat) : State :=
  let mine (e : Packet × Nat) : Bool := decide (e.1.dst = dev)
  sendUnsent { s with fab := { s.fab with
    notices := s.fab.notices.filter fun e => !mine e
    unsent := (s.fab.notices.filter mine).map (fun e => (e.1.type, e.1.dst, e.1.af)) ++ s.fab.unsent } }

/-- Send a request and await its acknowledgement. -/
def sendRequest (s : State) (type dst af off : Nat) (payload : List Byte) (conf : Bool) (cmd : Option Nat)
    (unit : Nat) (xfer : Option Nat) (aux : Nat := 0) : State :=
  let r := takeSeq s dst
  let p := mkPacket s type dst af off payload conf r.1 aux
  route { r.2 with fab := { r.2.fab with sent := r.2.fab.sent ++
    [{ pkt := p, cmd := cmd, unit := unit, xfer := xfer, at_ := s.clk, tries := 0 }] } } p

/-- Whether a packet of a command or memory instruction is on its way. -/
def inFlight (s : State) (cmd unit : Nat) : Bool := s.fab.sent.any fun x => x.cmd == some cmd && decide (x.unit = unit)

/-- The device and window offset of a fabric-window address (R68). -/
def winDev (va : Nat) : Nat := nfld va 42 12
def winOff (va : Nat) : Nat := nfld va 0 42

end Sys2Proof.Machine
end

