-- ==== Sys2Proof/Machine/MemEvents.lean ====
section
/-! DEFINITION. Completion of memory instructions (R20, R164, R168, R235, R271 to R274, R285 to R290): when an
access may be performed, what it reads and writes, where results land. -/

namespace Sys2Proof.Machine

/-! ## Order (R285, R287) -/

/-- Bytes of one access. -/
def accLen (o : MemOp) : Nat := if o.space = .priv then min o.size 4 else o.size

/-- Whether an instruction has an access not yet performed that overlaps n bytes at a. -/
def pendsOn (o : MemOp) (a n : Nat) : Bool := o.accs.any fun x => !x.done && overlaps x.addr (accLen o) a n

/-- Whether an access of an instruction may be performed: no earlier access of its group to a common byte is
outstanding, and, where it acts at the home slice, no earlier store of its core (R285, R287). -/
def accReady (s : State) (k : Nat) (o : MemOp) (x : Acc) (home : Bool) : Bool :=
  let n := accLen o
  s.ops.all fun e =>
    !(decide (e.1 < k) && decide (e.2.space = o.space) && pendsOn e.2 x.addr n &&
      (decide (e.2.ctx = o.ctx) || (home && decide (e.2.core = o.core) && isStoreOp e.2)))
    && !(decide (e.1 = k) && o.accs.any fun y => !y.done && decide (y.lane < x.lane) && overlaps y.addr n x.addr n)

/-- Stores of the core that a load sees before they commit (R271, R289): its own group's earlier ones, and others'
that have updated the L1 copy, up to the first later store of its own group to the same bytes. -/
def storesSeen (s : State) (k : Nat) (o : MemOp) (a n : Nat) : List Acc :=
  let all := s.ops.filter fun e => isStoreOp e.2 && decide (e.2.space = .global) && decide (e.2.core = o.core) && pendsOn e.2 a n
  (all.takeWhile fun e => !(decide (e.2.ctx = o.ctx) && decide (k < e.1))).flatMap fun e =>
    e.2.accs.filter fun y => !y.done && overlaps y.addr e.2.size a n && (y.early || decide (e.2.ctx = o.ctx))

/-- Bytes at a with the bytes of a store over them. -/
def overlay (bs : List Byte) (a : Nat) (y : Acc) : List Byte :=
  bs.mapIdx fun i b => if y.addr ≤ a + i ∧ a + i < y.addr + y.data.length then y.data.getD (a + i - y.addr) 0 else b

/-- Whether some line under n bytes at a is poisoned (R274). -/
def poisonedAt (s : State) (a n : Nat) : Bool := (linesOf a n).any s.badLines.contains

/-- Whether every scratchpad line under an access is present (R164). -/
def presentFor (s : State) (o : MemOp) (x : Acc) : Bool :=
  o.space != .scratch || x.early || !((linesOf x.addr o.size).any (absentOf s o.wg).contains)

/-- Private bytes as the core sees them: of the line in its L1, or memory (R271, R273). -/
def privBytes (s : State) (core a n : Nat) : List Byte := match tget (coreOf s core).priv (a / 128) with
  | some p => (p.data.drop (a % 128)).take n
  | none => mread s.mem a n

/-- The bytes that a load reads now, and whether they are poisoned. -/
def readAcc (s : State) (k : Nat) (o : MemOp) (x : Acc) : List Byte × Bool :=
  let n := accLen o
  match o.space with
  | .scratch => (mread (spadOf s o.wg) x.addr n, false)
  | .priv => (privBytes s o.core x.addr n, poisonedAt s x.addr n)
  | _ => ((storesSeen s k o x.addr n).foldl (fun bs y => overlay bs x.addr y) (mread s.mem x.addr n), poisonedAt s x.addr n)

/-! ## The register window (R70, R173, R174) -/

/-- The 4-byte word at an offset of a group's block, and whether it is poisoned. -/
def winRead (g : Group) (o : Nat) : Nat × Bool :=
  if o < 4096 then match g.v.getD (o / 64) none with
    | some r => if r.poison.getLsbD (o / 4 % 16) then (0, true) else ((r.w.getD (o / 4 % 16) 0).toNat, false)
    | none => (0, false)
  else if o < 4352 then
    let n := (o - 4096) / 8
    if g.gpoison.getLsbD (o / 4 % 128) then (0, true) else (nfld (g.g.getD n 0).toNat (o / 4 % 2 * 32) 32, false)
  else if o < 4368 then
    let n := (o - 4352) / 2
    ((g.p.getD n 0).toNat + 65536 * (g.p.getD (n + 1) 0).toNat, false)
  else if o = 4368 then (g.exec.toNat + 65536 * g.alive.toNat, false)
  else if o = 4372 then (g.mood.toNat, false)
  else if o = 4376 then (nfld g.pc.toNat 0 32, false)
  else if o = 4380 then (nfld g.pc.toNat 32 32, false)
  else (0, false)

/-- Half h of a 64-bit value replaced. -/
def setHalf (x : DWord) (h : Nat) (w : Word) : DWord :=
  if h = 0 then (x >>> 32 <<< 32) ||| w.setWidth 64 else (x.setWidth 32).setWidth 64 ||| (w.setWidth 64 <<< 32)

/-- Write a 4-byte word of a group's block; none where R174 writes nothing and reports an error. -/
def winWrite (g : Group) (o : Nat) (w : Word) : Option Group :=
  if o < 4096 then match g.v.getD (o / 64) none with
    | some r => some { g with v := g.v.setIfInBounds (o / 64) (some { r with
        w := r.w.setIfInBounds (o / 4 % 16) w, poison := r.poison &&& ~~~(BitVec.ofNat 16 (2 ^ (o / 4 % 16))) }) }
    | none => none
  else if o < 4352 then
    let n := (o - 4096) / 8
    if n = 0 then some g
    else some { g with g := g.g.setIfInBounds n (setHalf (g.g.getD n 0) (o / 4 % 2) w)
                       gpoison := g.gpoison &&& ~~~(BitVec.ofNat 64 (2 ^ (o / 4 % 128))) }
  else if o < 4368 then
    let n := (o - 4352) / 2
    some (writeP (writeP g n (w.setWidth 16)) (n + 1) ((w >>> 16).setWidth 16))
  else if o = 4368 then some { g with exec := w.setWidth 16 &&& g.alive }
  else if o = 4372 then if moodOk w then some { g with mood := w } else none
  else if o = 4376 then if w.toNat % 4 = 0 then some { g with pc := setHalf g.pc 0 w } else none
  else if o = 4380 then some { g with pc := setHalf g.pc 1 w }
  else some g

/-- Bytes that ldw reads at a window address (R173): zero where no group stands there. -/
def winBytes (s : State) (tenant va n : Nat) : List Byte × Bool :=
  match windowTarget s tenant va with
  | some (some e, o) =>
    let ws := (List.range (n / 4)).map fun i => winRead e.2 (o + 4 * i)
    (ws.flatMap fun w => natBytes 4 w.1, ws.any Prod.snd)
  | _ => (zeros n, false)

/-- stw takes effect: the group after it, or an error (R174). -/
def winStore (s : State) (tenant va : Nat) (bs : List Byte) : State × Bool :=
  match windowTarget s tenant va with
  | some (some e, o) =>
    match (List.range (bs.length / 4)).foldl (fun (g : Option Group) i =>
        g.bind fun h => winWrite h (o + 4 * i) (BitVec.ofNat 32 (leNat ((bs.drop (4 * i)).take 4)))) (some e.2) with
    | some g => (putGroup s e.1 g, false)
    | none => (s, true)
  | _ => (s, true)

/-! ## Performing loads -/

/-- Replace a memory instruction. -/
def putOp (s : State) (k : Nat) (o : MemOp) : State := { s with ops := tset s.ops k o }

/-- Replace the accesses of a lane that f accepts. -/
def mapAccs (o : MemOp) (f : Acc → Bool) (h : Acc → Acc) : MemOp :=
  { o with accs := o.accs.map fun x => if f x then h x else x }

/-- A cached load allocates the line of an access in L1 (R271). -/
def fillL1 (s : State) (o : MemOp) (a : Nat) : State := match o.space with
  | .global => fillGlobal s o.core (a / 128)
  | .priv => fillPrivate s o.core (a / 128)
  | _ => s

/-- A load reads the bytes of one lane, if it may: its data stand still from then on until they land. -/
def performLane (s : State) (k l : Nat) : State := match tget s.ops k with
  | none => s
  | some o =>
    let mine (x : Acc) : Bool := decide (x.lane = l) && !x.done && (o.space = .window || decide (x.addr < 2 ^ 54))
    let todo := o.accs.filter mine
    match o.kind with
    | .load _ =>
      if todo.all (fun x => accReady s k o x false && presentFor s o x) then
        let r (x : Acc) : List Byte × Bool :=
          if o.space = .window then winBytes s (tenantOf s o.launch) x.addr o.size else readAcc s k o x
        let o1 := mapAccs o mine fun x => { x with got := (r x).1, bad := (r x).2, done := true }
        todo.foldl (fun t x => fillL1 t o x.addr) (putOp s k o1)
      else s
    | _ => s

/-- An earlier transfer of the same group, or a lower lane's of the same instruction, that overlaps a fabric access (R162, R285, R375). -/
def fabricHeld (s : State) (k : Nat) (o : MemOp) (x : Acc) : Bool :=
  (s.ops.any fun e => decide (e.1 < k) && decide (e.2.ctx = o.ctx) && pendsOn e.2 x.addr o.size) ||
    (o.accs.any fun y => !y.done && decide (y.lane < x.lane) && overlaps y.addr o.size x.addr o.size) ||
    s.cmds.any fun e => decide (e.1 < k) && decide (e.2.ctx = o.ctx) && (
      (decide (e.2.op = 0x68) && overlaps e.2.b.toNat (nfld e.2.c.toNat 0 32) x.addr o.size) ||
      (decide (e.2.op = 0x69) && overlaps e.2.a.toNat (nfld e.2.c.toNat 0 32) x.addr o.size) ||
      (decide (e.2.op = 0x6A) && overlaps e.2.a.toNat 8 x.addr o.size))

/-- Barriers that waited for accesses, and resources, after an instruction has completed. -/
def afterOp (s : State) (w : Nat) : State := tryRelease (settle s w) w

/-- A memory instruction completes: its flag, then what waited for it. A fencing chiplet has no answer: the instruction stands until
the fence is complete (R387). -/
def endOp (s : State) (k : Nat) (o : MemOp) (err : Bool) (cls : Nat) : State :=
  if fenced s o.core then putOp s k o
  else afterOp (completeFlag { s with ops := tdel s.ops k } o.ctx o.launch o.wg o.site o.word o.flag err cls) o.wg

/-- A store has completed: the lines that its lanes have written whole lose their poison (R274). -/
def clearFull (s : State) (o : MemOp) : State :=
  if s.badLines.isEmpty || !isStoreOp o || o.space != .global then s
  else
    let whole (l : Nat) : Bool := (List.range 128).all fun b => o.accs.any fun x =>
      decide (x.addr ≤ 128 * l + b) && decide (128 * l + b < x.addr + x.data.length)
    { s with badLines := s.badLines.filter fun l => !whole l }

/-- Mark an access of a lane performed and complete the instruction with its last one. -/
def doneAcc (s : State) (k : Nat) (o : MemOp) (f : Acc → Bool) (err : Bool) (cls : Nat) : State :=
  let o0 := mapAccs o f fun x => { x with done := true }
  let o1 := { o0 with err := o.err || err }
  if o1.accs.all Acc.done then endOp (clearFull s o1) k o1 o1.err cls else putOp s k o1

/-- A fabric access of a lane has failed (R373): a store's instruction completes with its last access; a load's lanes still land. -/
def failAcc (s : State) (k : Nat) (o : MemOp) (lane : Nat) : State :=
  let f (y : Acc) : Bool := decide (y.lane = lane)
  if isStoreOp o then doneAcc s k o f true 2
  else putOp s k { mapAccs o f fun y => { y with done := true } with err := true }

/-- A fabric access leaves the device: READ for a load, WRITE for a store (R374, R375; log 17). With no way to send
it, it completes with an error (R370, R373). -/
def sendAcc (s : State) (k : Nat) (o : MemOp) (x : Acc) : State :=
  if inFlight s k x.lane || fabricHeld s k o x then s
  else
    let dst := winDev x.addr
    let off := winOff x.addr
    if canSend s dst then
      if isStoreOp o then
        sendRequest s pktWrite dst (afWindow (tenantOf s o.launch) off) (off % 32) (pad32 x.data)
          (confidential s (tenantOf s o.launch)) (some k) x.lane none x.data.length
      else
        sendRequest s pktRead dst (afWindow (tenantOf s o.launch) off) (off % 32) (pad32 (natBytes 4 o.size))
          (confidential s (tenantOf s o.launch)) (some k) x.lane none
    else failAcc s k o x.lane

/-- A lane's load is performed, or asks the fabric. -/
def performLoad (s : State) (k l : Nat) : State := match tget s.ops k with
  | none => s
  | some o => match o.kind with
    | .load _ => match o.accs.find? fun x => decide (x.lane = l) && !x.done && decide (2 ^ 54 ≤ x.addr) with
      | some x => sendAcc s k o x
      | none => performLane s k l
    | _ => s

/-! ## Landing (R235, R274) -/

/-- A value narrower than a word, extended as the width says (R76). -/
def extend (sgn : Bool) (n bits v : Nat) : Nat :=
  if sgn && decide (2 ^ (8 * n - 1) ≤ v) then v + 2 ^ bits - 2 ^ (8 * n) else v

/-- A word lands in a lane of a v name if the name still holds the register it was allocated and the thread lives (R235). -/
def landV (g : Group) (n tag l : Nat) (w : Word) (bad : Bool) : Group :=
  match g.v.getD n none with
  | some r =>
    if decide (r.tag = tag) && g.alive.getLsbD l then
      { g with v := g.v.setIfInBounds n (some { r with
          w := r.w.setIfInBounds l w
          poison := if bad then r.poison ||| BitVec.ofNat 16 (2 ^ l) else r.poison &&& ~~~(BitVec.ofNat 16 (2 ^ l)) }) }
    else g
  | none => g

/-- The bytes of a lane, a free value where a remote load failed (log 6). -/
def laneBytes (s : State) (o : MemOp) (l : Nat) : State × List Byte :=
  let bs := (o.accs.filter fun x => decide (x.lane = l)).flatMap Acc.got
  if bs.length < o.size then
    let r := takeFree s
    let r2 := takeFree r.2
    (r2.2, (natBytes 8 r.1.toNat ++ natBytes 8 r2.1.toNat).take o.size)
  else (s, bs)

/-- A g result lands, poisoned or not. -/
def landGP (s : State) (ctx n : Nat) (v : DWord) (bad : Bool) : State :=
  let s1 := landG s ctx n v
  if bad && n != 0 then modGroup s1 ctx fun g => { g with gpoison := g.gpoison ||| gWords n } else s1

/-- One lane's data land; a private access has a line, and its poison, for each word (R69, R274). -/
def landLane (s : State) (o : MemOp) (l : Nat) : State :=
  let r := laneBytes s o l
  let mine := (o.accs.filter fun x => decide (x.lane = l)).map Acc.bad
  let bad := mine.any id && o.space != .window
  let badAt (i : Nat) : Bool := if o.space = .priv then mine.getD i false else bad
  let sgn := match o.kind with
    | .load b => b
    | _ => false
  match o.gdst with
  | some n => landGP r.1 o.ctx n (BitVec.ofNat 64 (extend sgn o.size 64 (leNat r.2))) bad
  | none =>
    modGroup r.1 o.ctx fun g => (o.dst.zipIdx).foldl (fun h e =>
      let v := if o.size < 4 then extend sgn o.size 32 (leNat r.2) else leNat ((r.2.drop (4 * e.2)).take 4)
      landV h e.1.1 e.1.2 l (BitVec.ofNat 32 v) (badAt e.2)) g

/-- The class of an error for a LATE record: 2 for a remote failure, 1 for memory (R393). -/
def errClass (o : MemOp) : Nat := if o.err then 2 else 1

/-- The lanes an instruction accesses. -/
def opLanes (o : MemOp) : BitVec 16 := bits16 fun l => o.accs.any fun x => decide (x.lane = l)

/-- Land the lanes of a mask of a load; the last one completes the flag (R235). -/
def landLanes (s : State) (k : Nat) (m : BitVec 16) : State := match tget s.ops k with
  | none => s
  | some o =>
    let ls := lanesOf (m &&& opLanes o &&& ~~~o.landed)
    let s1 := ls.foldl (fun t l => performLoad t k l) s
    match tget s1.ops k with
    | none => s1
    | some o1 =>
      if ls.isEmpty || !(o1.accs.all fun x => x.done || !ls.contains x.lane) then s
      else
        let s2 := ls.foldl (fun t l => landLane t o1 l) s1
        let o2 := { o1 with landed := o1.landed ||| (m &&& opLanes o1) }
        if opLanes o2 &&& ~~~o2.landed = 0 then endOp s2 k o2 (o2.err || o2.accs.any Acc.bad) (errClass o2)
        else putOp s2 k o2

/-- LOAD_RESULT_LAND (R235). -/
def execLoadResultLand (op : Nat) (lanes : BitVec 16) (s : State) : Out := .next (match tget s.ops op with
  | some o => match o.kind with
    | .load _ => landLanes s op lanes
    | _ => s
  | none => s)

/-! ## Stores -/

/-- STORE_COMMIT (R20, R272): one lane of st commits at its home slice; one to the fabric window leaves the device;
one of stw is written. -/
def execStoreCommit (op lane : Nat) (s : State) : Out := .next (match tget s.ops op with
  | none => s
  | some o => match o.accs.find? fun x => decide (x.lane = lane) && !x.done with
    | none => s
    | some x =>
      if !isStoreOp o then s
      else match o.space with
        | .global =>
          if 2 ^ 54 ≤ x.addr then sendAcc s op o x
          else if accReady s op o x true then
            doneAcc (groupCommit s (some o.core) o.ctx x.addr x.data) op o (fun y => decide (y.lane = lane)) false 1
          else s
        | .window =>
          if accReady s op o x false then
            let r := winStore s (tenantOf s o.launch) x.addr x.data
            wakeHeld (doneAcc r.1 op o (fun y => decide (y.lane = lane)) r.2 2)
          else s
        | _ => s)

/-- A thread's store to private memory: the L1 line is allocated and its words are dirty (R165, R271); the store of a thread that has
ended leaves nothing (R111, R273). With no room in L1 the bytes go to memory. -/
def storePriv (s : State) (o : MemOp) (x : Acc) : State := match tget s.groups o.ctx with
  | none => s
  | some g =>
    if !g.alive.getLsbD x.lane then s
    else
      let line := x.addr / 128
      let s1 := fillPrivate s o.core line
      let k := coreOf s1 o.core
      match tget k.priv line with
      | none => commitBytes s1 (some o.core) x.addr x.data
      | some p =>
        let q : PrivLine := { data := p.data.take (x.addr % 128) ++ x.data ++ p.data.drop (x.addr % 128 + x.data.length)
                              dirty := tset p.dirty (x.addr % 128 / 4) (o.wg, (g.tids.getD x.lane 0).toNat) }
        setCore s1 o.core { k with priv := tset k.priv line q }

/-- SCRATCHPAD_STORE_COMPLETE (R164, R165): sts writes when every line it touches is present; stp writes its L1. -/
def execScratchpadStoreComplete (op : Nat) (s : State) : Out := .next (match tget s.ops op with
  | none => s
  | some o =>
    if !isStoreOp o then s
    else
      let ready := o.accs.all fun x => x.done || presentFor s o x && s.ops.all fun e =>
        !(decide (e.1 < op) && decide (e.2.ctx = o.ctx) && decide (e.2.space = o.space) && pendsOn e.2 x.addr (accLen o))
      if !ready then s
      else match o.space with
        | .scratch => endOp ((o.accs.filter fun x => !x.done).foldl (fun t x => groupSpad t o.ctx o.wg x.addr x.data) s) op o false 1
        | .priv => endOp (o.accs.foldl (fun t x => storePriv t o x) s) op o false 1
        | _ => s)

/-! ## Atomics (R168 to R172) -/

/-- The bytes an atomic works on. -/
def atomBytes (s : State) (o : MemOp) (x : Acc) : List Byte :=
  if o.space = .scratch then mread (spadOf s o.wg) x.addr o.size else mread s.mem x.addr o.size

/-- Write the result of an atomic at its home. -/
def atomWrite (s : State) (o : MemOp) (x : Acc) (bs : List Byte) : State :=
  if o.space = .scratch then groupSpad s o.ctx o.wg x.addr bs else groupCommit s (some o.core) o.ctx x.addr bs

/-- A result of an atomic lands in its lane or g register; none reaches a fencing chiplet (R387). -/
def landAtom (s : State) (o : MemOp) (l : Nat) (v : Nat) (bad : Bool) : State :=
  if fenced s o.core then s
  else match o.gdst, o.dst with
  | some n, _ => landGP s o.ctx n (BitVec.ofNat 64 v) bad
  | none, (n, tag) :: _ => modGroup s o.ctx fun g => landV g n tag l (BitVec.ofNat 32 v) bad
  | none, [] => s

/-- One lane's operation at its home: the state, and whether it reports an error. -/
def performAtom (s : State) (o : MemOp) (x : Acc) : State × Bool :=
  let bs := atomBytes s o x
  let old := leNat bs
  let n := o.size
  let bad := o.space != .scratch && poisonedAt s x.addr n
  match o.kind with
  | .atomic aop =>
    let new := aopNew aop n old (leNat (x.data.take n)) (leNat (x.data.drop n))
    (landAtom (if 2 ≤ aop then atomWrite s o x (natBytes n new) else s) o x.lane old bad, bad)
  | .reduce aop => (atomWrite s o x (natBytes n (aopNew aop n old (leNat (x.data.take n)) 0)), bad)
  | .ticket lim => (landAtom (atomWrite s o x (natBytes n (ticketNew old lim))) o x.lane old bad, bad)
  | .xadd =>
    let r := xaAdd (xaOfBytes bs) (leNat x.data)
    (atomWrite s o x (xaBytes r.1), r.2 || bad)
  | .xread =>
    (landAtom s o x.lane (finishVal fmtF32 (moodRound o.mood) (moodFtz o.mood) (moodSat o.mood) (xaVal (xaOfBytes bs))) bad, bad)
  | _ => (s, false)

/-- Whether an instruction is performed at a home slice as an atomic. -/
def isAtomOp (o : MemOp) : Bool := match o.kind with
  | .load _ => false
  | .store => false
  | _ => true

/-- Whether an atomic writes. -/
def atomWrites (o : MemOp) : Bool := match o.kind with
  | .atomic aop => decide (2 ≤ aop)
  | .xread => false
  | _ => true

/-- Whether a fence with REL that the group issued before an atomic that writes has not completed: the write follows it (R292). -/
def fenceOpen (s : State) (k : Nat) (o : MemOp) : Bool :=
  atomWrites o && s.cmds.any fun e => decide (e.1 < k) && decide (e.2.op = opFence) && e.2.rel && decide (e.2.ctx = o.ctx)

/-- The results of the lanes of an atoms that acted as their lines became present land (R169). -/
def landWoken (s : State) (o : MemOp) : State :=
  o.accs.foldl (fun t x => if x.got.isEmpty then t else landAtom t o x.lane (leNat x.got) false) s

/-- ATOMIC_PERFORM (R168): the next lane's operation, in ascending order; a release waits for the group's earlier
accesses (R290). -/
def execAtomicPerform (op : Nat) (s : State) : Out := .next (match tget s.ops op with
  | none => s
  | some o => match o.accs.find? fun x => !x.done with
    | none =>
      if isAtomOp o then doneAcc (landWoken s o) op o (fun _ => false) false 1 else s
    | some x =>
      if isAtomOp o && accReady s op o x true && presentFor s o x && !fenceOpen s op o && (!o.rel || releaseReady s o.ctx o.wg op o.sc) then
        let r := performAtom s o x
        let last := o.accs.all fun y => y.done || decide (y.lane = x.lane)
        doneAcc (if last then landWoken r.1 o else r.1) op o (fun y => decide (y.lane = x.lane)) r.2 1
      else s)

/-! ## Translation, checks and race records arriving (R163, R193, R281 to R283) -/

/-- The answer a group waits for has come. -/
def answer (s : State) (c : Nat) (f : Group → Group) : State :=
  modGroup s c fun g => f { g with answered := true }

/-- Fill a core's L1 TLB (R280). -/
def fillCore (s : State) (core victim : Nat) (e : TlbEntry) : State :=
  let k := coreOf s core
  setCore s core { k with tlb := tlbFill k.tlb 64 victim e }

/-- Whether a group waits for a walk that has been sent, or that waits to be. -/
def inWalk (s : State) (c : Nat) : Bool := s.walks.any (fun e => e.2.reqs.contains c) || s.walkq.any fun q => q.ctx = some c

/-- LLTLB_LOOKUP_DONE (R281, R282): a hit fills the L1 TLB; a miss sends a walk request. -/
def execLltlbLookupDone (ctx victim : Nat) (s : State) : Out := .next (match tget s.groups ctx with
  | none => s
  | some g => match g.want with
    | .walk va =>
      if g.answered || inWalk s ctx then s
      else
        let asid := asidOf s g.launch
        match chipFind s g.core asid va with
        | some e => answer (fillCore s g.core victim e) ctx id
        | none => sendWalk s { asid := asid, page := va / 65536, ctx := some ctx, chip := chipOf g.core }
    | _ => s)

/-- The result of a walk reaches one group that asked for it: its chiplet's and its core's TLB, or the fault (R282, R88); a fencing
chiplet receives none (R387). -/
def walkReaches (s : State) (page victim : Nat) (r : Option TlbEntry) (fault : TrapCode) (c : Nat) : State := match tget s.groups c with
  | none => s
  | some g =>
    if fenced s g.core then s
    else match r with
    | some e => answer (fillCore (fillChip s (chipOf g.core) victim e) g.core victim e) c id
    | none => answer s c fun h => { h with walkFault := some (page, fault) }

/-- What a finished walk gives those who asked for it (R282): each engine's chiplet, unless it fences, and each group. -/
def walkGives (s : State) (w : Walk) (victim : Nat) (r : Option TlbEntry) (fault : TrapCode) : State :=
  w.reqs.foldl (fun u c => walkReaches u w.page victim r fault c) (match r with
    | some e => w.chips.foldl (fun u k => if fenced u (64 * k) then u else fillChip u k victim e) s
    | none => s)

/-- WALK_COMPLETE (R282, R283): the walk fills the page-walk caches; with a larger leaf, every walk of the id inside it completes
with the same result; requests that waited for room enter. The tables are read as they stand now, so that a walk in flight
when a shootdown began gives the result of its second start. -/
def execWalkComplete (wk victim : Nat) (s : State) : Out := .next (match tget s.walks wk with
  | none => s
  | some w =>
    let r := walkCached s w.asid (w.page * 65536)
    let same (e : Nat × Walk) : Bool := decide (e.1 = wk) || (match r with
      | .page l => decide (e.2.asid = w.asid) && decide (l.va ≤ e.2.page * 65536) && decide (e.2.page * 65536 < l.va + l.size)
      | _ => false)
    let s1 := { cacheWalk s w.asid (w.page * 65536) r with walks := s.walks.filter fun e => !same e }
    let p : Option TlbEntry × State := match r with
      | .page l => (some (walkEnters s1 w.asid l).1, (walkEnters s1 w.asid l).2)
      | _ => (none, s1)
    let code : TrapCode := if r = .prot then .prot else .xlate
    admitWalks ((s.walks.filter same).foldl (fun t e => walkGives t e.2 victim p.1 code) p.2) s.walkq.length)

/-- CHECK_ANSWER (R193, R204). -/
def execCheckAnswer (ctx : Nat) (s : State) : Out := .next (match tget s.groups ctx with
  | some g => if g.want == .check && !g.answered then answer s ctx id else s
  | none => s)

/-- RACE_RECORDS_ARRIVE (R163, R298): the directory grants the records to the group's core. -/
def execRaceRecordsArrive (ctx : Nat) (s : State) : Out := .next (match tget s.groups ctx with
  | some g => match g.want with
    | .race secs =>
      if g.answered then s
      else answer { s with race := secs.foldl (fun t x => tset t x { recOf s x with holder := some g.core }) s.race } ctx id
    | _ => s
  | none => s)

/-! ## Errors (R242, R243, R274) -/

/-- REGISTER_ECC_ERROR (R242, R243). -/
def execRegisterEccError (ctx : Nat) (site : EccSite) (s : State) : Out := .next (match site, tget s.groups ctx with
  | .corrected, _ => { s with tele := { s.tele with corrected := s.tele.corrected + 1 } }
  | _, none => s
  | .vword n l, some g => match g.v.getD n.toNat none with
    | some r => putGroup s ctx { g with v := g.v.setIfInBounds n.toNat (some { r with
        poison := r.poison ||| BitVec.ofNat 16 (2 ^ l.toNat) }) }
    | none => s
  | .greg n hi, some g => if n = 0 then s else putGroup s ctx { g with gpoison := g.gpoison ||| BitVec.ofNat 64 (2 ^ (2 * n.toNat + b2n hi)) }
  | .recordHeader, some g => if inSlot g then s else headerError s ctx g)

/-- MEMORY_ECC_ERROR (R274): a line is poisoned. -/
def execMemoryEccError (line : Nat) (s : State) : Out := .next { s with badLines := nsAdd line s.badLines }

/-! ## What the caches give up (R271, R273, R280, R300) -/

/-- A TLB drops an entry: of a chiplet or of a core. -/
def dropTlb (s : State) (chip : Bool) (idx i : Nat) : State :=
  if chip then match s.chips[idx]? with
    | some k => { s with chips := s.chips.setIfInBounds idx { k with tlb := k.tlb.eraseIdx i } }
    | none => s
  else if thas s.cores idx then
    let k := coreOf s idx
    setCore s idx { k with tlb := k.tlb.eraseIdx i }
  else s

/-- A page-walk cache drops an entry. -/
def dropWalkEntry (s : State) (i : Nat) : State := { s with walkCache := s.walkCache.eraseIdx i }

/-- A race record is discarded with its line; TELEMETRY counts it (R300). -/
def dropRace (s : State) (sec : Nat) : State :=
  if thas s.race sec then { s with race := tdel s.race sec, tele := { s.tele with raceDrop := s.tele.raceDrop + 1 } } else s

end Sys2Proof.Machine
end

