-- ==== Sys2Proof/Machine/Engine.lean ====
section
/-! DEFINITION. What every engine, page and fabric instruction shares (R176 to R179, R193, R204, R302, R304):
issue, the acceptance checks, order on tiles and slots, engine faults, and what completion finds. -/

namespace Sys2Proof.Machine

/-! ## Acceptance checks -/

/-- What acceptance checks find: nothing, a trap, or a check that the base die has still to answer (R193, R204). -/
inductive EChk where
  | ok
  | trap (t : Trap)
  | wait
deriving DecidableEq, Repr

/-- The first of two checks that fails. -/
def EChk.then (a b : EChk) : EChk := match a with
  | .ok => b
  | x => x

/-- A trap when a condition holds. -/
def chkIf (b : Bool) (code : TrapCode) (addr : Nat) : EChk :=
  if b then .trap { code := code, addr := BitVec.ofNat 64 addr } else .ok

/-- The base die's answer is needed first (R193). -/
def chkAsk (answered : Bool) : EChk := if answered then .ok else .wait

/-- The workgroup's tenant, core, tiles and scratchpad bytes. -/
def wgTenant (s : State) (w : Nat) : Nat := match tget s.wgs w with
  | some x => x.tenant
  | none => 0
def wgCore (s : State) (w : Nat) : Nat := match tget s.wgs w with
  | some x => x.core
  | none => 0
def wgTiles (s : State) (w : Nat) : Nat := match tget s.wgs w with
  | some x => x.nacc
  | none => 0
def wgSpad (s : State) (w : Nat) : Nat := match tget s.wgs w with
  | some x => x.spadLen
  | none => 0

/-- SPBOUND for a scratchpad range. -/
def chkSpad (s : State) (w off n : Nat) : EChk := chkIf (decide (wgSpad s w < off + n)) .spbound off

/-- Whether an address lies in the fabric window: bit 54 is set (R68, R204). DESIGN CHOICE (log 52): bits [63:55] of a remote operand of
fput, fget or fatom are ignored, which no rule names. -/
def inWindow (a : DWord) : Bool := a.getLsbD 54

/-- PROT for a fabric-window address in a descriptor (R177). -/
def chkFab (a : DWord) : EChk := chkIf (inWindow a) .prot a.toNat

/-- The handle index, tenant, generation and bound of a handle (R193). -/
def hIdx (h : DWord) : Nat := nfld h.toNat 24 20
def hTenant (h : DWord) : Nat := nfld h.toNat 52 12
def hGen (h : DWord) : Nat := nfld h.toNat 44 8
def hBound (h : DWord) : Nat := nfld h.toNat 0 24

/-- A handle entry (R330): generation 1 after reset. -/
def handleAt (s : State) (i : Nat) : Handle :=
  tgetD s.handles i { st := 0, gen := 1, tenant := 0, pool := 0, c := 0, w := 0, bt := [], named := none }

/-- A handle word of a tenant as this device numbers it: a word that a CTX_IMPORT brought names the entry that took its place (R402;
log 56). -/
def wordIn (s : State) (tenant : Nat) (h : DWord) : DWord :=
  match s.handles.find? fun e => decide (e.2.tenant = tenant) && decide (e.2.named = some (hTenant h, hIdx h)) with
  | some e => BitVec.ofNat 64 (tenant * 2 ^ 52 + hGen h * 2 ^ 44 + e.1 * 2 ^ 24 + hBound h)
  | none => h

/-- A handle word as the tenant's programs know it. -/
def wordOut (s : State) (h : DWord) : DWord := match (handleAt s (hIdx h)).named with
  | some (t, i) => BitVec.ofNat 64 (t * 2 ^ 52 + hGen h * 2 ^ 44 + i * 2 ^ 24 + hBound h)
  | none => h

/-- The request that a tenant's programs name by an index (R402; log 56); a free one where they mean none by it. -/
def reqIn (s : State) (tenant i : Nat) : Nat :=
  match s.reqs.find? fun e => decide (e.2.tenant = tenant) && decide (e.2.named = some i) with
  | some e => e.1
  | none => match tget s.reqs i with
    | some r => if r.tenant = tenant && r.named.isSome then lowestGap (tkeys s.reqs) 0 else i
    | none => i

/-- The index by which a tenant's programs and records name a request. -/
def reqOut (s : State) (i : Nat) : Nat := ((tget s.reqs i).bind Request.named).getD i

/-- The operands A and B of a command with the handle word or the request index in them as this device numbers it: the page commands'
and the requests' (R193, R204). -/
def ownOperands (s : State) (tenant op : Nat) (a b : DWord) : DWord × DWord :=
  if op = 0x66 || op = 0x67 then (a, wordIn s tenant b)
  else if 0x73 ≤ op && op ≤ 0x76 then
    (BitVec.ofNat 64 (a.toNat - nfld a.toNat 0 14 + reqIn s tenant (nfld a.toNat 0 14) % 2 ^ 14), b)
  else if 0x60 ≤ op && op ≤ 0x64 then (wordIn s tenant a, b)
  else (a, b)

/-- HANDLE with its failing check (R393). -/
def handleTrap (h : DWord) (which : Nat) : Trap := { code := .handle, addr := h, ext := mwriteN [] 64 1 which }

/-- The tenant and generation tests of a handle (R193). -/
def chkHandle (s : State) (tenant : Nat) (h : DWord) : EChk :=
  let e := handleAt s (hIdx h)
  if hTenant h != e.tenant || hTenant h != tenant then .trap (handleTrap h 1)
  else if hGen h != e.gen then .trap (handleTrap h 2)
  else .ok

/-- The range test of a handle. -/
def chkRange (h : DWord) (bad : Bool) : EChk := if bad then .trap (handleTrap h 3) else .ok

/-! ## Issue -/

/-- What an F-E or F-X instruction is, with the values it reads. -/
structure EForm where
  word  : Word
  op    : Nat
  sub   : Nat := 0
  fs    : Bool := false
  sc    : Nat := 0
  acq   : Bool := false
  rel   : Bool := false
  a     : DWord := 0
  b     : DWord := 0
  c     : DWord := 0
  fmt   : Word := 0
  resG  : Option Nat := none
  /-- The feature without which the opcode is ILLOP (R41). -/
  feat  : Option Nat := none
  /-- fput, fget, fatom: ACQ or REL below sys is ILLOP (R204). -/
  sys   : Bool := false
  /-- The instruction does not issue yet (R179). -/
  hold  : Bool := false
deriving DecidableEq, Repr

/-- Source and result registers of an F-E instruction. -/
def useE (srcs : List Nat) (res : Option Nat) : Use := { rg := srcs, wg := res.toList }

/-- ILLOP of an F-E instruction: no flag, an idle scope, a feature not accepted, a scope below sys (R87, R176, R41, R204). -/
def illE (s : State) (g : Group) (f : EForm) : Bool :=
  noFlag g f.fs || (f.sc != 0 && !f.acq && !f.rel) || (match f.feat with
    | some b => !featOn s b
    | none => false) || (f.sys && (f.acq || f.rel) && f.sc != 3)

/-- The command store holds 1,024 commands per core (R302). -/
def storeFull (s : State) (core : Nat) : Bool :=
  decide (1024 ≤ (s.cmds.filter fun e => decide (e.2.core = core) && decide (0x58 ≤ e.2.op)).length)

/-- The command that an accepted instruction becomes. -/
def cmdOf (s : State) (c : Nat) (g : Group) (f : EForm) : Cmd :=
  let o := ownOperands s (tenantOf s g.launch) f.op f.a f.b
  { newCmd s c g f.word (flagSel g f.fs) with
    op := f.op, sub := f.sub, raw := (f.a, f.b, f.c), a := o.1, b := o.2, c := f.c, fmt := f.fmt, sc := f.sc, acq := f.acq, rel := f.rel, resG := f.resG }

/-- Accept a command: the flag counts, the region closes for ACQ or REL and the flag is marked (R297), and
enter does what the instruction does at acceptance. -/
def acceptE (s : State) (c : Nat) (g : Group) (f : EForm) (enter : State → Nat → Cmd → State) : State :=
  let r := if f.acq || f.rel then closeRegion s g else (s, g)
  let k := r.1.nextKey
  let fl := flagSel g f.fs
  let cmd := cmdOf r.1 c g f
  let g1 := addPend (incFlag { r.2 with answered := false } fl) [] f.resG.toList
  let g2 := if f.acq || f.rel then { g1 with engFlags := g1.engFlags ||| BitVec.ofNat 12 (2 ^ fl) } else g1
  enter (putGroup { r.1 with nextKey := k + 1, cmds := tset r.1.cmds k cmd } c (bump (stepPast g2))) k cmd

/-- Whether what acceptance checks find is ILLOPND. -/
def EChk.isNd : EChk → Bool
  | .trap t => t.code = .illopnd
  | _ => false

/-- The common course of an engine instruction at issue: form, the flag's count, acceptance checks with ECCU among them, the
store, acceptance (R60, R177, R242, R302, R392). A full store leaves the group as it is. -/
def engIssue (s : State) (c : Nat) (g : Group) (use : Use) (f : EForm) (chk : EChk) (enter : State → Nat → Cmd → State) : Out :=
  accepted s c g { use with ill := use.ill || illE s g f } f.fs chk.isNd (match chk with
    | .trap t => .next (takeTrap s c g t)
    | .wait => .next (endWith s c g .check 0 .check)
    | .ok => if f.hold || storeFull s g.core then .next s else .next (acceptE s c g f enter))

/-- Nothing more happens at acceptance. -/
def enterPlain (s : State) (_k : Nat) (_c : Cmd) : State := s

/-- Change the key's command. -/
def enterMod (f : Cmd → Cmd) (s : State) (k : Nat) (_c : Cmd) : State := modCmd s k f

/-! ## Order (R179) -/

/-- Source lines of a copy's slice: rows × row length in 128-byte units (R180, R184); and its destination lines, of which the
progress mark has a bit each, eight for each source line of copy.xa (R181, R183, R315). -/
def copyRows (c : Cmd) : Nat := if c.op = opCopyf then nfld c.c.toNat 42 6 + 1 else nfld c.c.toNat 40 8 + 1
def copyRowl (c : Cmd) : Nat := if c.op = opCopyf then 1 else nfld c.c.toNat 32 8 + 1
def copyXa (c : Cmd) : Bool := decide (c.op = 0x58) && decide (c.sub = 5)
def copyUnits (c : Cmd) : Nat := copyRows c * copyRowl c * (if copyXa c then 8 else 1)

/-- Whether the lines of a slice have all landed. -/
def linesDone (c : Cmd) : Bool := decide (c.landed.length = copyUnits c)

/-- ATYPE, BTYPE and CLR of a format word (R158, R186). -/
def fmtA (w : Nat) : Nat := nfld w 0 4
def fmtB (w : Nat) : Nat := nfld w 4 4
def fmtClr (w : Nat) : Bool := nbit w 8

/-- Whether a type is a dual-scale block type. -/
def isDsb (t : Nat) : Bool := t = 5 || t = 6

/-- The slots an mma reads: its operands and the exponent slots of dsb operands (R186). -/
def mmaSlots (sa sb fmt : Nat) : List Nat :=
  [sa, sb] ++ (if isDsb (fmtA fmt) then [sa + 1] else []) ++ (if isDsb (fmtB fmt) then [sb + 1] else [])

/-- The slots of a mask. -/
def maskSlots (m : Nat) : List Nat := (List.range 32).filter fun i => nbit m i

/-- Opcodes of this chapter by number (R176). -/
def opCopy : Nat := 0x58
def opMma : Nat := 0x5A
def opAccld : Nat := 0x5B
def opAccst : Nat := 0x5C
def opChain : Nat := 0x5E
def opSmpl : Nat := 0x71

/-- Slots a command reads, and writes. -/
def slotsRead (c : Cmd) : List Nat :=
  if c.op = opMma then mmaSlots c.b.toNat c.c.toNat c.fmt.toNat
  else if c.op = opCopyf then mmaSlots (nfld c.c.toNat 18 5) (nfld c.c.toNat 13 5) (nfld c.c.toNat 0 13)
  else []
def slotsWritten (c : Cmd) : List Nat :=
  if c.op = opCopyf || (c.op = opCopy && (c.sub = 2 || c.sub = 3)) then [nfld c.b.toNat 0 5] else []

/-- Tiles a command takes its place on. -/
def tilesOf (c : Cmd) : List Nat :=
  if c.op = opMma then [c.a.toNat]
  else if c.op = opCopyf then (if c.started then [copyfTile c] else [])
  else if c.op = opAccld || c.op = opAccst then [nfld c.a.toNat 0 5]
  else if c.op = opSmpl && c.sub ≤ 2 then nfld c.a.toNat 0 5 :: (if c.sub = 2 then [nfld c.a.toNat 8 5] else [])
  else []

/-- Whether two lists share an element. -/
def meets (a b : List Nat) : Bool := a.any b.contains

/-- Whether a command is first on its tiles (R179): its place is its leader's acceptance. -/
def tileFirst (s : State) (c : Cmd) : Bool :=
  !(s.cmds.any fun e => decide (e.2.wg = c.wg) && decide (e.2.lead < c.lead) && meets (tilesOf e.2) (tilesOf c))

/-- Whether a command reads its slots before a place in the acceptance order: the follow-on of a copyf has the place of its last
slice, and none before that is accepted (R179). -/
def readsBefore (k : Nat) (e : Nat × Cmd) : Bool :=
  if e.2.op = opCopyf then e.2.started && decide (e.2.lead < k) else decide (e.1 < k)

/-- Whether a command may start writing its slots: every earlier one on them has finished. -/
def slotsFree (s : State) (k : Nat) (c : Cmd) : Bool :=
  !(s.cmds.any fun e => decide (e.2.core = c.core) && decide (e.2.lead ≠ c.lead) &&
    ((readsBefore k e && meets (slotsRead e.2) (slotsWritten c)) || (decide (e.1 < k) && meets (slotsWritten e.2) (slotsWritten c))))

/-- Whether a command may start reading its slots: every earlier write to them has landed. -/
def slotsLanded (s : State) (k : Nat) (c : Cmd) : Bool :=
  !(s.cmds.any fun e => decide (e.2.core = c.core) && decide (e.1 < k) && decide (e.2.lead ≠ c.lead) &&
    meets (slotsWritten e.2) (slotsRead c) && !linesDone e.2)

/-- Whether every command accepted before a place has finished with some slots: a slice of a collective that is not complete keeps the
slots that it and its follow-on name (R190, R312). -/
def slotsDone (s : State) (k core : Nat) (ss : List Nat) : Bool :=
  !(s.cmds.any fun e => decide (e.2.core = core) && decide (e.1 < k) && meets (slotsRead e.2 ++ slotsWritten e.2) ss)

/-! ## Engine memory access (R177, R178, R183) -/

/-- Whether the writes of the issuing group before an acquiring command have taken effect (R294). -/
def acqReady (s : State) (k : Nat) (c : Cmd) : Bool :=
  !c.acq || s.ops.all fun e => !(decide (e.2.ctx = c.ctx) && decide (e.1 < k) && (isStoreOp e.2 || isAtomOp e.2))

/-- The fault of an access to one address, which a translation gives (R278). -/
def xlatFault (w : Bool) (va : Nat) : Xlat → Option (TrapCode × Nat)
  | .page l => if w && !l.w then some (.prot, va) else none
  | .prot => some (.prot, va)
  | .xlate => some (.xlate, va)

/-- The first fault of n bytes at a virtual address: XLATE or PROT, and where (R278). -/
def vfault (s : State) (asid va n : Nat) (w : Bool) : Option (TrapCode × Nat) :=
  firstSome (fun p : Nat × Nat => xlatFault w p.1 (walk s asid p.1)) (pieces va n (n / 65536 + 2))

/-- The first fault of n bytes for an engine of a core (R281). -/
def engXlat (s : State) (core asid va n : Nat) (w : Bool) : Option (TrapCode × Nat) :=
  firstSome (fun p : Nat × Nat => xlatFault w p.1 (engWalk s core asid p.1)) (pieces va n (n / 65536 + 2))

/-- A fault of writing the RESULT and STATUS of a chain's entry, or the completion word where the entry is the lowest that has
not completed (R307, R309). -/
def entryFault (s : State) (core : Nat) (x : Chain) (k : Nat) : Option (TrapCode × Nat) :=
  (engXlat s core (wgAsid s x.owner) (entryVa x k + 40) 12 true).or
    (if x.comp = k then engXlat s core (wgAsid s x.owner) x.base.toNat 8 true else none)

/-- Such a fault of the entry that a command is, if it is one. -/
def chainFault (s : State) (c : Cmd) : Option (TrapCode × Nat) := match c.chain with
  | none => none
  | some (ch, k) => match tget (coreOf s c.core).chains ch with
    | some x => entryFault s c.core x k
    | none => none

/-- Whether some of n bytes for an engine of a core lies in a poisoned line. -/
def engPoisoned (s : State) (core asid va n : Nat) : Bool :=
  !s.badLines.isEmpty && (pieces va n (n / 65536 + 2)).any fun p => match engPhys s core asid p.1 with
    | some pa => poisonedAt s pa p.2
    | none => false

/-- Whether some byte of a virtual range lies in a poisoned line. -/
def vpoisoned (s : State) (asid va n : Nat) : Bool :=
  !s.badLines.isEmpty && (pieces va n (n / 65536 + 2)).any fun p => match vphys s asid p.1 false false with
    | some pa => poisonedAt s pa p.2
    | none => false

/-- The address space of a command. -/
def cmdAsid (s : State) (c : Cmd) : Nat := asidOf s c.launch

/-- Whether scratchpad lines are present. -/
def spadPresent (s : State) (w off n : Nat) : Bool := !((linesOf off n).any (absentOf s w).contains)

/-- Scratchpad lines that a command had cleared have landed (R183, R270). -/
def landLines (s : State) (k w : Nat) (ls : List Nat) : State :=
  modCmd (setPresent s w ls) k fun d => { d with lines := d.lines.filter fun l => !ls.contains l }

/-- An engine fault: the command pauses with its marks and a record goes to its launch's queue (R177, R310, R393). -/
def engFault (s : State) (k : Nat) (code : TrapCode) (addr : Nat) : State := match tget s.cmds k with
  | none => s
  | some c =>
    let s1 := { s with cmds := tmap s.cmds fun _ d => if d.lead = c.lead && d.wg = c.wg then { d with paused := true } else d }
    let n := (s.cmds.filter fun e => e.2.lead = c.lead && e.2.wg = c.wg).foldl (fun n e => n + e.2.landed.length) 0
    let ext := mwriteN (mwriteN (mwriteN (mwriteN (mwriteN [] 64 4 c.word.toNat) 68 8 c.raw.1.toNat) 76 8 c.raw.2.1.toNat) 84 8 c.raw.2.2.toNat) 92 4 n
    let r : FaultRec := match c.chain with
      | none => { seq := 0, pc := c.site.pc, code := trapCode code, kind := 1, coff := c.site.coff, repi := c.site.repi
                  lane := none, chain := 0, addr := BitVec.ofNat 64 addr, va := addr, launch := c.launch, wglin := wgLin s c.wg
                  tidlo := c.site.tidlo, task := (descOf s c.launch).task, ext := ext, ctx := none, cmd := some k
                  heldAt := s.clk, fw := false }
      | some (ch, e) => { seq := 0, pc := 0, code := trapCode code, kind := 2, coff := 0, repi := 0, lane := none, chain := ch
                          addr := BitVec.ofNat 64 e, va := addr, launch := c.launch, wglin := wgLin s c.wg, tidlo := 0
                          task := (descOf s c.launch).task, ext := ext, ctx := none, cmd := some k, heldAt := s.clk, fw := false }
    enterRecord s1 c.launch r

/-- What the completion of a command finds. -/
inductive Fin where
  /-- It cannot complete yet. -/
  | wait
  /-- It has acted on the state and cannot complete yet. -/
  | later (s : State)
  /-- An engine fault pauses it. -/
  | fault (code : TrapCode) (addr : Nat)
  /-- It has taken effect on the state; whether with an error, and its result. -/
  | done (s : State) (err : Bool) (res : DWord)

/-- The bytes of its chain's entry and completion word that a completing command writes. -/
def chainSpans (s : State) (c : Cmd) : List (Nat × Nat × Nat) := match c.chain with
  | none => []
  | some (ch, k) => match tget (coreOf s c.core).chains ch with
    | some x => [(wgAsid s x.owner, entryVa x k + 40, 12), (wgAsid s x.owner, x.base.toNat, 8)]
    | none => []

/-- A command completes: that of a chain first waits for the walks that writing its RESULT, STATUS and completion word needs (R282),
and pauses where they cannot be written (R309). -/
def withEntry (s : State) (k : Nat) (c : Cmd) (t : State) : State :=
  let ps := chainSpans s c
  if ps.any fun p => engBlocked s c.core p.1 p.2.1 p.2.2 then ps.foldl (fun u p => engAsk u c.core p.1 p.2.1 p.2.2) s
  else match chainFault s c with
    | some (code, addr) => engFault s k code addr
    | none => t

/-- Carry a completion out (R178). -/
def finish (s : State) (k : Nat) (c : Cmd) (f : Fin) : State := match f with
  | .wait => s
  | .later s1 => s1
  | .fault code addr => engFault s k code addr
  | .done s1 err res => withEntry s k c (afterOp (endCmd (modCmd s1 k fun d => { d with result := res }) k err) c.wg)

/-- Complete every slice of a collective. -/
def endSlices (s : State) (c : Cmd) (err : Bool) : State :=
  afterOp ((slicesOf s c).foldl (fun t e => endCmd t e.1 err) s) c.wg

/-- A command that has failed completes with FLAGERR, once the release of every slice of its collective may take effect (R178). -/
def endFailed (s : State) (k : Nat) : State := match tget s.cmds k with
  | none => s
  | some c => if c.failed && !c.paused && slicesReady s c then withEntry s k c (endSlices s c true) else s

end Sys2Proof.Machine
end

