-- ==== Sys2Proof/Machine/Copy.lean ====
section
/-! DEFINITION. copy and copyf (R180 to R184): shape checks, collectives, and the landing of lines. -/

namespace Sys2Proof.Machine

/-! ## Geometry (R180, R181, R184) -/

/-- Sub-ops of copy. -/
def copySrcSpad (op sub : Nat) : Bool := if op = opCopyf then sub = 1 else sub = 1 || sub = 3 || sub = 6
def copyDstSpad (op sub : Nat) : Bool := op = opCopy && (sub = 0 || sub = 6)
def copyDstSlot (op sub : Nat) : Bool := op = opCopyf || sub = 2 || sub = 3

/-- Source row stride. -/
def copyStride (c : Cmd) : Nat := if c.op = opCopyf then 16 * nfld c.c.toNat 28 14 else nfld c.c.toNat 0 32

/-- NGRP and TAG. -/
def copyNgrp (c : Cmd) : Nat := nfld c.c.toNat 48 8
def copyTag (c : Cmd) : Nat := nfld c.c.toNat 56 8

/-- Source address or offset of the source line that destination line i of a slice takes its data from. -/
def copySrc (c : Cmd) (i : Nat) : Nat :=
  let j := if copyXa c then i / 8 else i
  c.a.toNat + j / copyRowl c * copyStride c + j % copyRowl c * 128

/-- Destination of line i: an address or offset; rows are contiguous. -/
def copyDst (c : Cmd) (i : Nat) : Nat := c.b.toNat + 128 * i

/-- Bytes from the first to the last source byte of a slice. -/
def copySpan (c : Cmd) : Nat := (copyRows c - 1) * copyStride c + copyRowl c * 128

/-! ## Acceptance (R177, R180 to R184) -/

/-- Whether a format word is valid (R186). -/
def fmtValid (w : Nat) : Bool :=
  let a := fmtA w
  let b := fmtB w
  let both (x y : Nat) : Bool := (a = x || a = y) && (b = x || b = y)
  decide (w < 2 ^ 13) && decide (nfld w 9 4 = 0) && (both 1 2 || both 3 4 || both 11 12 || both 5 5 || both 6 6)

/-- Whether a dsb operand stands in an odd slot (R186). -/
def dsbOdd (sa sb w : Nat) : Bool := (isDsb (fmtA w) && sa % 2 = 1) || (isDsb (fmtB w) && sb % 2 = 1)

/-- Whether a workgroup holds a slot of its core. -/
def holdsSlot (s : State) (w slot : Nat) : Bool := match tget (coreOf s (wgCore s w)).slots slot with
  | some o => o.holder = some w
  | none => false

/-- SLOTERR for slots not held (R312). -/
def chkSlots (s : State) (w : Nat) (ss : List Nat) : EChk := chkIf (!(ss.all (holdsSlot s w))) .sloterr 0

/-- The descriptor limits of a copy slice: ILLOPND (R180, R181, R184, R67). -/
def copyNd (s : State) (w : Nat) (c : Cmd) : Bool :=
  let slotW := c.b.toNat
  (copySrcSpad c.op c.sub && decide (2 ^ 32 ≤ c.a.toNat)) || (copyDstSpad c.op c.sub && decide (2 ^ 32 ≤ c.b.toNat)) ||
    decide (copyStride c % 16 ≠ 0) ||
    (copyDstSlot c.op c.sub && (decide (2 ^ 14 ≤ slotW) || decide (nfld slotW 5 3 ≠ 0) ||
      decide (64 < nfld slotW 8 6 + copyRows c) || decide (copyRowl c ≠ 1))) ||
    (c.op = opCopyf && (!([nfld c.c.toNat 18 5, nfld c.c.toNat 13 5].contains (nfld slotW 0 5)) ||
      decide (wgTiles s w ≤ copyfTile c) ||
      (fmtValid (nfld c.c.toNat 0 13) && dsbOdd (nfld c.c.toNat 18 5) (nfld c.c.toNat 13 5) (nfld c.c.toNat 0 13))))

/-- The acceptance checks of copy and copyf, in the order of R392. -/
def chkCopy (s : State) (w : Nat) (c : Cmd) : EChk :=
  (chkIf (copyNd s w c) .illopnd 0).then <|
  (chkIf (c.op = opCopyf && !fmtValid (nfld c.c.toNat 0 13)) .illtype 0).then <|
  (chkSlots s w (slotsWritten c ++ slotsRead c)).then <|
  (chkIf (decide (c.a.toNat % 16 ≠ 0)) .misalign c.a.toNat).then <|
  (chkIf (!copyDstSlot c.op c.sub && decide (c.b.toNat % 128 ≠ 0)) .misalign c.b.toNat).then <|
  (if copySrcSpad c.op c.sub then chkSpad s w c.a.toNat (copySpan c) else .ok).then <|
  (if copyDstSpad c.op c.sub then chkSpad s w c.b.toNat (128 * copyUnits c) else .ok).then <|
  (if copySrcSpad c.op c.sub then .ok else chkFab c.a).then <|
  (if copyDstSpad c.op c.sub || copyDstSlot c.op c.sub then .ok else chkFab c.b)

/-! ## Collectives (R182, R303) -/

/-- Whether a slice writes the scratchpad, and its lines there. -/
def copyLines (c : Cmd) : List Nat := if copyDstSpad c.op c.sub then linesOf c.b.toNat (128 * copyUnits c) else []

/-- A collective is complete and starts: its slices share the leader, the last of them, and the widest ACQ, REL and
scope; the tile of a copyf is shadow-copied (R182, R184). -/
def startColl (s : State) (w : Nat) (ks : List Nat) : State :=
  let cs := ks.filterMap fun k => tget s.cmds k
  let lead := ks.foldl max 0
  let shadow := (tget s.wgs w).bind fun x => (cs.find? fun c => decide (c.op = opCopyf)).map fun c =>
    tgetD x.tiles (copyfTile c) { words := [], poison := [] }
  ks.foldl (fun t k => modCmd t k fun c =>
    { c with started := true, lead := lead, acq := cs.any Cmd.acq, rel := cs.any Cmd.rel
             sc := (cs.map Cmd.sc).foldl max 0, shadow := if k = lead then shadow else none }) s

/-- A slice is accepted: it opens, joins, completes or cancels the collective of its TAG (R182), and clears the
presence bits of its destination lines (R183). -/
def enterCopy (s0 : State) (k : Nat) (c : Cmd) : State :=
  let ls := copyLines c
  let s := setAbsent (modCmd s0 k fun d => { d with lines := ls }) c.wg ls
  let tag := copyTag c
  let setColl (v : Option Coll) : State := { s with wgs := tmod s.wgs c.wg fun x =>
    { x with colls := match v with
        | some y => tset x.colls tag y
        | none => tdel x.colls tag } }
  match (tget s.wgs c.wg).bind fun x => tget x.colls tag with
  | none =>
    if copyNgrp c = 0 then startColl s c.wg [k]
    else setColl (some { shape := c.c, op := c.op, sub := c.sub, slices := [k] })
  | some x =>
    if x.shape = c.c && x.op = c.op && x.sub = c.sub then
      if x.slices.length = copyNgrp c then startColl (setColl none) c.wg (x.slices ++ [k])
      else setColl (some { x with slices := x.slices ++ [k] })
    else (x.slices ++ [k]).foldl (fun t j => endFailed (failMark t j) j) (setColl none)

/-! ## Landing (R183, R184) -/

/-- Write a row of an operand slot. -/
def writeSlot (s : State) (core slot row : Nat) (bs : List Byte) : State :=
  let k := coreOf s core
  let o := tgetD k.slots slot { holder := none, mem := [] }
  setCore s core { k with slots := tset k.slots slot { o with mem := mwrite o.mem (128 * row) bs } }

/-- Add 4 f32 elements into the XA256 words of a line: the state, and whether one saturated (R181, R171) or the line was
poisoned (R274). -/
def addXa (s : State) (core asid va : Nat) (bs : List Byte) : State × Bool :=
  (List.range 4).foldl (fun acc i =>
    let r := xaAdd (xaOfBytes (engBytes acc.1 core asid (va + 32 * i) 32)) (leNat ((bs.drop (4 * i)).take 4))
    (engCommit acc.1 core asid (va + 32 * i) (xaBytes r.1), acc.2 || r.2)) (s, engPoisoned s core asid va 128)

/-- The bytes of a source line, or why they cannot be read. -/
inductive Got where
  | wait
  | fault (code : TrapCode) (addr : Nat)
  | bytes (bs : List Byte) (bad : Bool)
deriving DecidableEq, Repr

/-- Read n bytes of a scratchpad offset, once present, or of a virtual address, for command k. -/
def engRead (s : State) (k : Nat) (c : Cmd) (spad : Bool) (a n : Nat) : Got :=
  if spad then if spadPresent s c.wg a n then .bytes (cmdSpad s k c a n) false else .wait
  else if engBlocked s c.core (cmdAsid s c) a n then .wait
  else match engXlat s c.core (cmdAsid s c) a n false with
    | some (code, va) => .fault code va
    | none => .bytes (cmdBytes s k c a n) (engPoisoned s c.core (cmdAsid s c) a n)

/-- A read that must wait asks the walker for what it waits for there (R282). -/
def engWait (s : State) (c : Cmd) (spad : Bool) (a n : Nat) : State :=
  if spad then s else engAsk s c.core (cmdAsid s c) a n

/-- A source of an engine command has been read: its translation is in the chiplet's TLB (R281). -/
def engSeen (s : State) (c : Cmd) (spad : Bool) (a n : Nat) : State :=
  if spad then s else engTouch s c.core (cmdAsid s c) a n

/-- Mark a line of a command landed. -/
def markLanded (s : State) (k i : Nat) (err : Bool) : State :=
  modCmd s k fun d => { d with landed := nsAdd i d.landed, err := d.err || err }

/-- The fault of a copyf's fetch gives its tile back from the shadow (R184, R314). -/
def restoreColl (s : State) (c : Cmd) : State :=
  if c.op = opCopyf then (slicesOf s c).foldl (fun t e => restoreTile t e.2 (copyfTile e.2)) s else s

/-- Line i of a slice lands at its destination; a line that has landed is never written again. -/
def landCopy (s : State) (k i : Nat) (c : Cmd) : State :=
  if !c.started || c.paused || c.failed || c.landed.contains i || decide (copyUnits c ≤ i) || !acqReady s k c
      || (copyDstSlot c.op c.sub && !slotsFree s k c) then s
  else match engRead s k c (copySrcSpad c.op c.sub) (copySrc c i) 128 with
    | .wait => engWait s c (copySrcSpad c.op c.sub) (copySrc c i) 128
    | .fault code va => engFault (restoreColl s c) k code va
    | .bytes bs bad =>
      let d := copyDst c i
      let s1 := engSeen s c (copySrcSpad c.op c.sub) (copySrc c i) 128
      if copyDstSlot c.op c.sub then
        markLanded (writeSlot s1 c.core (nfld c.b.toNat 0 5) (nfld c.b.toNat 8 6 + i) bs) k i bad
      else if copyDstSpad c.op c.sub then
        markLanded (landLines (writeSpad s1 c.wg d bs) k c.wg [d / 128]) k i bad
      else if engBlocked s1 c.core (cmdAsid s c) d 128 then engAsk s c.core (cmdAsid s c) d 128
      else match engXlat s1 c.core (cmdAsid s c) d 128 true with
        | some (code, va) => engFault s1 k code va
        | none =>
          if copyXa c then
            let r := addXa s1 c.core (cmdAsid s c) d ((bs.drop (16 * (i % 8))).take 16)
            markLanded r.1 k i (bad || r.2)
          else markLanded (engCommit s1 c.core (cmdAsid s c) d bs) k i bad

/-- A copy completes when the whole collective has landed (R182). -/
def endCopy (s : State) (k : Nat) (c : Cmd) : State :=
  let cs := slicesOf s c
  if c.started && !c.paused && slicesReady s c && cs.all fun e => linesDone e.2 then
    withEntry s k c (endSlices s c (cs.any fun e => e.2.err))
  else s

/-! ## The instructions -/

/-- Issue a copy or copyf. -/
def copyOp (op sub : Nat) (ga gb gc : BitVec 5) (fs : Bool) (sc : BitVec 2) (acq rel : Bool) (word : Word) (s : State) : Out :=
  onGroup s fun c g =>
    let f : EForm := { word := word, op := op, sub := sub, fs := fs, sc := sc.toNat, acq := acq, rel := rel
                       a := readG g ga.toNat, b := readG g gb.toNat, c := readG g gc.toNat }
    engIssue s c g (useE [ga.toNat, gb.toNat, gc.toNat] none) f (chkCopy s g.wg (cmdOf s c g f)) enterCopy

/-- copy.g2s (R181). -/
def execCopyG2s (ga gb gc : BitVec 5) (fs : Bool) (sc : BitVec 2) (acq rel : Bool) (s : State) : Out :=
  copyOp opCopy 0 ga gb gc fs sc acq rel (wordOf (.copyG2s ga gb gc fs sc acq rel)) s
/-- copy.s2g (R181). -/
def execCopyS2g (ga gb gc : BitVec 5) (fs : Bool) (sc : BitVec 2) (acq rel : Bool) (s : State) : Out :=
  copyOp opCopy 1 ga gb gc fs sc acq rel (wordOf (.copyS2g ga gb gc fs sc acq rel)) s
/-- copy.g2o (R181). -/
def execCopyG2o (ga gb gc : BitVec 5) (fs : Bool) (sc : BitVec 2) (acq rel : Bool) (s : State) : Out :=
  copyOp opCopy 2 ga gb gc fs sc acq rel (wordOf (.copyG2o ga gb gc fs sc acq rel)) s
/-- copy.s2o (R181). -/
def execCopyS2o (ga gb gc : BitVec 5) (fs : Bool) (sc : BitVec 2) (acq rel : Bool) (s : State) : Out :=
  copyOp opCopy 3 ga gb gc fs sc acq rel (wordOf (.copyS2o ga gb gc fs sc acq rel)) s
/-- copy.g2g (R181). -/
def execCopyG2g (ga gb gc : BitVec 5) (fs : Bool) (sc : BitVec 2) (acq rel : Bool) (s : State) : Out :=
  copyOp opCopy 4 ga gb gc fs sc acq rel (wordOf (.copyG2g ga gb gc fs sc acq rel)) s
/-- copy.xa (R181). -/
def execCopyXa (ga gb gc : BitVec 5) (fs : Bool) (sc : BitVec 2) (acq rel : Bool) (s : State) : Out :=
  copyOp opCopy 5 ga gb gc fs sc acq rel (wordOf (.copyXa ga gb gc fs sc acq rel)) s
/-- copy.s2s (R181). -/
def execCopyS2s (ga gb gc : BitVec 5) (fs : Bool) (sc : BitVec 2) (acq rel : Bool) (s : State) : Out :=
  copyOp opCopy 6 ga gb gc fs sc acq rel (wordOf (.copyS2s ga gb gc fs sc acq rel)) s
/-- copyf.g2o (R184). -/
def execCopyfG2o (ga gb gc : BitVec 5) (fs : Bool) (sc : BitVec 2) (acq rel : Bool) (s : State) : Out :=
  copyOp opCopyf 0 ga gb gc fs sc acq rel (wordOf (.copyfG2o ga gb gc fs sc acq rel)) s
/-- copyf.s2o (R184). -/
def execCopyfS2o (ga gb gc : BitVec 5) (fs : Bool) (sc : BitVec 2) (acq rel : Bool) (s : State) : Out :=
  copyOp opCopyf 1 ga gb gc fs sc acq rel (wordOf (.copyfS2o ga gb gc fs sc acq rel)) s

end Sys2Proof.Machine
end

