-- ==== Sys2Proof/Machine/Philox.lean ====
section
/-! DEFINITION. Philox4x32-10 (R205): ten rounds over four counter words under two key words. -/

namespace Sys2Proof.Machine

/-- The counter words. -/
structure Ctr4 where
  c0 : Nat
  c1 : Nat
  c2 : Nat
  c3 : Nat
deriving DecidableEq, Repr

/-- One round with key words k0 and k1. -/
def philoxRound (c : Ctr4) (k0 k1 : Nat) : Ctr4 :=
  let p0 := 0xD2511F53 * c.c0
  let p1 := 0xCD9E8D57 * c.c2
  { c0 := Nat.xor (Nat.xor (p1 / 2 ^ 32) c.c1) k0, c1 := p1 % 2 ^ 32
    c2 := Nat.xor (Nat.xor (p0 / 2 ^ 32) c.c3) k1, c3 := p0 % 2 ^ 32 }

/-- n rounds, the key words bumped after each. -/
def philoxRounds : Nat → Ctr4 → Nat → Nat → Ctr4
  | 0, c, _, _ => c
  | n + 1, c, k0, k1 => philoxRounds n (philoxRound c k0 k1) ((k0 + 0x9E3779B9) % 2 ^ 32) ((k1 + 0xBB67AE85) % 2 ^ 32)

/-- The four output words for a counter and a 64-bit key. -/
def philox (c0 c1 c2 c3 key : Nat) : Ctr4 :=
  philoxRounds 10 { c0 := c0 % 2 ^ 32, c1 := c1 % 2 ^ 32, c2 := c2 % 2 ^ 32, c3 := c3 % 2 ^ 32 } (nfld key 0 32) (nfld key 32 32)

end Sys2Proof.Machine
end

