-- ==== Sys2Proof/Machine/Format.lean ====
section
/-! DEFINITION. Opcodes 0x40 to 0x47: conversions, the Hadamard transform, block packing, format words
and dot products (R150 to R159, R257, R258). -/

namespace Sys2Proof.Machine

/-! ## cvt (R151, R152) -/

/-- Element width of a type code; none for dsb8 and dsb4 (R151). -/
def elemWidth (t : Nat) : Option Nat :=
  match t with
  | 0 => some 32
  | 1 => some 16
  | 2 => some 16
  | 3 => some 8
  | 4 => some 8
  | 7 => some 32
  | 8 => some 32
  | 9 => some 16
  | 10 => some 16
  | 11 => some 8
  | 12 => some 8
  | _ => none

/-- Whether a type code is an integer type (R63). -/
def isIntType (t : Nat) : Bool := decide (7 ≤ t)

/-- The range of an integer type at its element width (R124, R152). -/
def elemRange (t : Nat) : Int × Int :=
  match t with
  | 7 => (-2147483648, 2147483647)
  | 8 => (0, 4294967295)
  | 9 => (-32768, 32767)
  | 10 => (0, 65535)
  | 11 => (-128, 127)
  | _ => (0, 255)

/-- The integer an element holds. -/
def elemInt (t w x : Nat) : Int :=
  if t = 8 || t = 10 || t = 12 || decide (x < 2 ^ (w - 1)) then (x : Int) else (x : Int) - 2 ^ w

/-- A value rounded to an integer under a mode. -/
def toInteger (mode : Nat) (neg : Bool) (m : Nat) (e : Int) : Int :=
  let n : Int := roundMul mode neg m e 0
  if neg then -n else n

/-- Clamp to a range. -/
def clampTo (r : Int × Int) (x : Int) : Int := min (max x r.1) r.2

/-- A value to a float type: for e4m3 an infinite result is NaN, and ±448 under SAT (R152). -/
def convToFloat (m : Word) (f : Fmt) (v : FVal) : Nat :=
  if f.ieee || isNan v then finishVal f (moodRound m) (moodFtz m) (moodSat m) v
  else
    let neg := match v with
      | .inf s => s
      | .fin s _ _ => s
      | .nan => false
    let c := encodeVal f (moodRound m) v
    if c = nanCode f then (if moodSat m then signed f neg (maxCode f) else c) else flush f (moodFtz m) c

/-- Conv: one element of width ws from SRCTYPE to TYPE at width wd (R152). -/
def conv (m : Word) (ws wd x : Nat) : Nat :=
  let ts := moodSrc m
  let td := moodType m
  if isIntType ts then
    let v := elemInt ts ws x
    if isIntType td then
      (((if moodSat m then clampTo (elemRange td) v else v) % (2 ^ wd : Int)).toNat)
    else convToFloat m (fmtOfType td) (ofInt false v 0)
  else
    let v := finput m (fmtOfType ts) x
    if isIntType td then
      (match v with
        | .nan => 0
        | .inf s => (if s then (elemRange td).1 else (elemRange td).2)
        | .fin s k e => clampTo (elemRange td) (toInteger (moodRound m) s k (if 64 < e then 64 else e)) : Int) % (2 ^ wd : Int) |>.toNat
    else convToFloat m (fmtOfType td) v

/-- The ratio of the two widths. -/
def cvtRatio (ws wd : Nat) : Nat := if wd ≤ ws then ws / wd else wd / ws

/-- The word cvt writes (R151): narrowing merges into D. -/
def cvtWord (m : Word) (ws wd k : Nat) (a d : Word) : Word :=
  if wd < ws then
    BitVec.ofNat 32 ((List.range (32 / ws)).foldl (fun r i =>
      setFieldN r ((k * (32 / ws) + i) * wd) wd (conv m ws wd (nfld a.toNat (i * ws) ws))) d.toNat)
  else
    BitVec.ofNat 32 ((List.range (32 / wd)).foldl (fun r i =>
      r + conv m ws wd (nfld a.toNat ((k * (32 / wd) + i) * ws) ws) * 2 ^ (i * wd)) 0)
where
  setFieldN (w lo n v : Nat) : Nat := w - nfld w lo n * 2 ^ lo + v * 2 ^ lo

/-- cvt (R151): ILLTYPE, then ILLOPND for the part, then UNWR and ECCU of D where it narrows. -/
def execCvt (u : Bool) (d a : R6) (la : Bool) (part : BitVec 2) (s : State) : Out :=
  onGroup s fun c g =>
    let use := if u then useU d a 0 la false false false false else useV g d a 0 la false false false false
    checked s c g use
      (match elemWidth (moodSrc g.mood), elemWidth (moodType g.mood) with
      | some ws, some wd =>
        if cvtRatio ws wd ≤ part.toNat then .next (takeTrap s c g { code := .illopnd })
        else
          let rd : Use := if wd < ws then (if u then { rg := [d.toNat] } else { rv := [d.toNat], lanes := g.exec }) else {}
          checked s c g rd
            (if u then commitG s c g d.toNat ((cvtWord g.mood ws wd part.toNat ((readG g a.toNat).setWidth 32)
                ((readG g d.toNat).setWidth 32)).setWidth 64)
            else commitV s c g use d.toNat fun l => cvtWord g.mood ws wd part.toNat (readV g a.toNat l) (readV g d.toNat l))
      | _, _ => .next (takeTrap s c g { code := .illtype }))

/-! ## frnd, fscal (R153, R154) -/

/-- An element rounded to an integral value of its type, with its sign (R153). -/
def frndElem (m : Word) (f : Fmt) (x : Nat) : Nat :=
  match finput m f x with
  | .nan => nanCode f
  | .inf s => signed f s (infCode f)
  | .fin s k e => if 0 ≤ e then flush f (moodFtz m) x
                  else encodeVal f 1 (.fin s (roundMul (moodRound m) s k e 0) 0)

/-- frnd (R153). -/
def execFrnd (u : Bool) (d a : R6) (la : Bool) (s : State) : Out :=
  fop u d a 0 la false false false (fun m x y z => perElem (moodType m) (fun f p _ _ => frndElem m f p) x y z) s

/-- An element times 2^b; beyond ±4096 every format under- or overflows alike (R154). -/
def fscalElem (m : Word) (f : Fmt) (b : Int) (x : Nat) : Nat :=
  foutput m f (match finput m f x with
    | .fin s k e => .fin s k (e + min (max b (-4096)) 4096)
    | v => v)

/-- fscal (R154). -/
def execFscal (u : Bool) (d a b : R6) (la lb im : Bool) (s : State) : Out :=
  onGroup s fun c g =>
    let use := if u then useU d a b la lb im true false else useV g d a b la lb im true false
    checked s c g use
      (if 2 < moodType g.mood then .next (takeTrap s c g { code := .illtype })
      else
        let f (x : Word) (y : Word) : Word := perElem (moodType g.mood) (fun k p _ _ => fscalElem g.mood k y.toInt p) x 0 0
        if u then commitG s c g d.toNat ((f ((readG g a.toNat).setWidth 32) ((srcB64 g b im).setWidth 32)).setWidth 64)
        else commitV s c g use d.toNat fun l => f (readV g a.toNat l) (srcB32 g b im l))

/-! ## hadq (R155, R260) -/

/-- The 32 elements of a block in a pair (R155). -/
def blockVals (g : Group) (a : Nat) : List FVal :=
  (List.range 32).map fun j => finput g.mood fmtF32 (readV g (a + j % 2) (j / 2)).toNat

/-- The parity of the bits j and k share. -/
def parity (j k : Nat) : Bool := popc (BitVec.ofNat 32 j &&& BitVec.ofNat 32 k) % 2 == 1

/-- The signed sum of row k of the Hadamard matrix. -/
def hadRow (xs : List FVal) (k : Nat) : FVal :=
  ((List.range 32).zip xs).foldl (fun acc e => faddV 0 acc (if parity e.1 k then fneg e.2 else e.2)) (.fin false 0 0)

/-- A zero takes the plus sign, as RoundTo gives it (R256). -/
def plusZero (v : FVal) : FVal :=
  match v with
  | .fin _ 0 e => .fin false 0 e
  | v => v

/-- Negate the values whose bit of the sign word is 1. -/
def signFlip (w0 : Nat) (xs : List FVal) : List FVal := ((List.range 32).zip xs).map fun e => if nbit w0 e.1 then fneg e.2 else e.2

/-- The forward or inverse transform (R155). -/
def hadBlock (inv : Bool) (w0 : Nat) (xs : List FVal) : List FVal :=
  if inv then
    signFlip w0 ((List.range 32).map fun k => match hadRow xs k with
      | .fin s m e => .fin s m (e - 5)
      | v => v)
  else
    let ys := signFlip w0 xs
    (List.range 32).map (hadRow ys)

/-- hadq and hadq.inv (R155). With EXEC = 0 nothing is read or written; another EXEC than 0xFFFF is MEMBR. -/
def hadOp (inv : Bool) (d a b : R6) (la : Bool) (s : State) : Out :=
  onGroup s fun c g =>
    let av := namesFrom a.toNat 2
    let dv := namesFrom d.toNat 2
    let nd := decide (a.toNat % 2 = 1) || decide (d.toNat % 2 = 1) || decide (b.toNat % 2 = 1) || decide (30 < b.toNat)
    let use : Use := { nd := nd, rv := if g.exec = 0 then [] else av, wv := if g.exec = 0 then av ++ dv else dv
                       rg := if g.exec = 0 then [] else [b.toNat, b.toNat + 1]
                       wg := if g.exec = 0 then [b.toNat, b.toNat + 1] else []
                       marks := if la then av else [], lanes := g.exec }
    checked s c g use
      (if g.exec = 0 then done s c (freeMarks g use.marks [])
      else if moodType g.mood != 0 then .next (takeTrap s c g { code := .illtype })
      else if g.exec != 0xFFFF then .next (takeTrap s c g { code := .membr })
      else
        let w0 := (philox (nfld (readG g (b.toNat + 1)).toNat 0 32) 0 0 0 (readG g b.toNat).toNat).c0
        let ys := (hadBlock inv w0 (blockVals g a.toNat)).map fun v =>
          finishVal fmtF32 (moodRound g.mood) (moodFtz g.mood) (moodSat g.mood) (plusZero v)
        commitVM s c g use g.exec
          [(d.toNat, fun l => BitVec.ofNat 32 (ys.getD (2 * l) 0)), (d.toNat + 1, fun l => BitVec.ofNat 32 (ys.getD (2 * l + 1) 0))])

/-- hadq (R155). -/
def execHadq (d a b : R6) (la : Bool) (s : State) : Out := hadOp false d a b la s
/-- hadq.inv (R155). -/
def execHadqInv (d a b : R6) (la : Bool) (s : State) : Out := hadOp true d a b la s

/-! ## qpack, qunpk (R156, R157, R257) -/

/-- mmax, s and d of a block format: dsb8 or dsb4 (R156, R257). -/
def blockParams (t : Nat) : Nat × Nat × Nat := if t = 5 then (63, 5, 3) else (3, 1, 2)

/-- Round(|x| × 2^(127 + s - e)) for a finite magnitude (R156). -/
def quantAt (sh e m : Nat) (k : Int) : Nat := roundMul 0 false m k ((e : Int) - 127 - sh)

/-- A finite value's magnitude, 0 for the others. -/
def finMag (v : FVal) : Nat × Int :=
  match v with
  | .fin _ m e => (m, e)
  | _ => (0, 0)

/-- Whether one magnitude is below another. -/
def magLt (a b : Nat × Int) : Bool :=
  let q := min a.2 b.2
  decide (a.1 * 2 ^ (a.2 - q).toNat < b.1 * 2 ^ (b.2 - q).toNat)

/-- E0 of a block: the smallest e in [d, 255] at which the largest finite magnitude fits (R156). -/
def blockE0 (t : Nat) (xs : List FVal) : Nat :=
  let p := blockParams t
  let big := xs.foldl (fun b v => if magLt b (finMag v) then finMag v else b) (0, 0)
  ((rangeFrom p.2.2 (256 - p.2.2)).find? fun e => decide (quantAt p.2.1 e big.1 big.2 ≤ p.1)).getD 255

/-- The code of one element (R156): selector, sign, magnitude. -/
def packElem (t e0 : Nat) (v : FVal) : Nat :=
  let p := blockParams t
  let top := p.1 + 1
  match v with
  | .nan => 2 * top
  | .inf s => b2n s * top + p.1
  | .fin s m k =>
    let m1 := quantAt p.2.1 (e0 - p.2.2) m k
    if m1 ≤ p.1 then 2 * top + b2n s * top + m1
    else b2n s * top + quantAt p.2.1 e0 m k

/-- The lane words of a packed block (R156). -/
def packWords (t : Nat) (xs : List FVal) : List Nat :=
  let e0 := blockE0 t xs
  let d := (blockParams t).2.2
  let es := xs.map (packElem t e0)
  lanes16.map fun l =>
    (e0 - d) * 2 ^ 24 + e0 * 2 ^ 16 + es.getD (2 * l) 0 + es.getD (2 * l + 1) 0 * (if t = 5 then 256 else 16)

/-- qpack (R156). -/
def execQpack (d a : R6) (la : Bool) (s : State) : Out :=
  onGroup s fun c g =>
    let av := namesFrom a.toNat 2
    let use : Use := { nd := decide (a.toNat % 2 = 1), rv := if g.exec = 0 then [] else av
                       wv := if g.exec = 0 then av ++ [d.toNat] else [d.toNat], marks := if la then av else [], lanes := g.exec }
    checked s c g use
      (if g.exec = 0 then done s c (freeMarks g use.marks [])
      else if moodType g.mood != 5 && moodType g.mood != 6 then .next (takeTrap s c g { code := .illtype })
      else if g.exec != 0xFFFF then .next (takeTrap s c g { code := .membr })
      else
        let ws := packWords (moodType g.mood) (blockVals g a.toNat)
        commitV s c g use d.toNat fun l => BitVec.ofNat 32 (ws.getD l 0))

/-- The value of an element code with its two exponents (R157, R257). -/
def unpackElem (t e0 e1 x : Nat) : FVal :=
  let p := blockParams t
  let top := p.1 + 1
  let e := if x / (2 * top) % 2 = 1 then e1 else e0
  .fin (x / top % 2 == 1) (x % top) ((e : Int) - 127 - p.2.1)

/-- Element j, 0 or 1, of a lane word, as f32 under MOOD (R157). -/
def unpackWord (m : Word) (x : Word) (j : Nat) : Word :=
  let t := moodType m
  let w := if t = 5 then 8 else 4
  BitVec.ofNat 32 (foutput m fmtF32 (unpackElem t (nfld x.toNat 16 8) (nfld x.toNat 24 8) (nfld x.toNat (w * j) w)))

/-- qunpk (R157): each lane on its own, to the pair D, D + 1. -/
def execQunpk (d a : R6) (la : Bool) (s : State) : Out :=
  onGroup s fun c g =>
    let use : Use := { nd := decide (d.toNat % 2 = 1), rv := [a.toNat], wv := namesFrom d.toNat 2
                       marks := if la then [a.toNat] else [], lanes := g.exec }
    checked s c g use
      (if moodType g.mood != 5 && moodType g.mood != 6 then .next (takeTrap s c g { code := .illtype })
      else commitVM s c g use g.exec
        [(d.toNat, fun l => unpackWord g.mood (readV g a.toNat l) 0), (d.toNat + 1, fun l => unpackWord g.mood (readV g a.toNat l) 1)])

/-! ## fmtw, dot4 (R158, R159) -/

/-- The format word (R158). -/
def formatWord (m : Word) (b : R6) : Nat := 256 * nfld b.toNat 0 5 + 16 * moodSrc m + moodType m

/-- fmtw (R158): a negative immediate is ILLOP. -/
def execFmtw (u : Bool) (d b : R6) (s : State) : Out :=
  onGroup s fun c g =>
    if u then checked s c g { ill := b.getLsbD 5, nd := notG d, wg := [d.toNat] }
      (commitG s c g d.toNat (BitVec.ofNat 64 (formatWord g.mood b)))
    else
      let use : Use := { ill := b.getLsbD 5, wv := [d.toNat] }
      checked s c g use (commitV s c g use d.toNat fun _ => BitVec.ofNat 32 (formatWord g.mood b))

/-- The exact value of dot4, clamped to i32 or n32 at width n under SAT (R159). -/
def dot4Val {n : Nat} (m : Word) (a b d : BitVec n) : BitVec n :=
  let uns := moodType m = 12
  let el (x : BitVec n) (i : Nat) : Int :=
    let v := nfld x.toNat (8 * i) 8
    if uns || decide (v < 128) then (v : Int) else (v : Int) - 256
  let x := (if uns then (d.toNat : Int) else d.toInt) + (List.range 4).foldl (fun t i => t + el a i * el b i) 0
  let r : Int × Int := if uns then (0, 2 ^ n - 1) else (-(2 ^ (n - 1)), 2 ^ (n - 1) - 1)
  BitVec.ofInt n (if moodSat m then clampTo r x else x)

/-- dot4 (R159). -/
def execDot4 (u : Bool) (d a b : R6) (la lb : Bool) (s : State) : Out :=
  onGroup s fun c g =>
    let use := if u then useU d a b la lb false true true else useV g d a b la lb false true true
    checked s c g use
      (if moodType g.mood != 11 && moodType g.mood != 12 then .next (takeTrap s c g { code := .illtype })
      else if u then commitG s c g d.toNat (dot4Val g.mood (readG g a.toNat) (readG g b.toNat) (readG g d.toNat))
      else commitV s c g use d.toNat fun l => dot4Val g.mood (readV g a.toNat l) (readV g b.toNat l) (readV g d.toNat l))

end Sys2Proof.Machine
end

