-- ==== Sys2Proof/Machine/Matrix.lean ====
section
/-! DEFINITION. The matrix array (R185 to R188, R313, R314) and accumulator load and store (R189). -/

namespace Sys2Proof.Machine

/-! ## The product (R186, R187, R261) -/

/-- A product 0 × ∞ and a NaN element give NaN; the exact sum of values (R187): infinities of one sign give that
infinity, a zero sum is +0 unless every term is −0. -/
def exactSum (xs : List FVal) : FVal :=
  if xs.any isNan then .nan
  else
    let pos := xs.any (· == .inf false)
    let neg := xs.any (· == .inf true)
    if pos && neg then .nan else if pos then .inf false else if neg then .inf true
    else
      let q : Int := (xs.map fun v => match v with
        | .fin _ _ e => e
        | _ => 0).foldl min 0
      let t : Int := (xs.map fun v => match v with
        | .fin s m e => scaled s m e q
        | _ => 0).foldl (· + ·) 0
      ofInt (xs.all fun v => match v with
        | .fin s m _ => s && decide (m = 0)
        | _ => false) t q

/-- A row of an operand slot. -/
def slotRow (s : State) (core slot row : Nat) : List Byte := match tget (coreOf s core).slots slot with
  | some o => mread o.mem (128 * row) 128
  | none => zeros 128

/-- The K elements of a row as values (R186); ex is the same row of the exponent slot. -/
def rowVals (t : Nat) (row ex : List Byte) : List FVal :=
  let byte (l : List Byte) (i : Nat) : Nat := (l.getD i 0).toNat
  match t with
  | 1 => (List.range 64).map fun k => fval fmtF16 (byte row (2 * k) + 256 * byte row (2 * k + 1))
  | 2 => (List.range 64).map fun k => fval fmtBf16 (byte row (2 * k) + 256 * byte row (2 * k + 1))
  | 3 => (List.range 128).map fun k => fval fmtE4m3 (byte row k)
  | 4 => (List.range 128).map fun k => fval fmtE5m2 (byte row k)
  | 5 => (List.range 128).map fun k => unpackElem 5 (byte ex (2 * (k / 32))) (byte ex (2 * (k / 32) + 1)) (byte row k)
  | 6 => (List.range 256).map fun k =>
    unpackElem 6 (byte ex (2 * (k / 32))) (byte ex (2 * (k / 32) + 1)) (nfld (byte row (k / 2)) (4 * (k % 2)) 4)
  | 11 => (List.range 128).map fun k => ofInt false (sintN 1 (byte row k)) 0
  | _ => (List.range 128).map fun k => ofInt false (byte row k) 0

/-- Whether a format word's product is an integer one. -/
def fmtInt (w : Nat) : Bool := decide (11 ≤ fmtA w)

/-- An exact integer value. -/
def toIntVal (v : FVal) : Int := match v with
  | .fin s m e => scaled s m e 0
  | _ => 0

/-- One element of the tile after the product (R187): two roundings, or an integer sum modulo 2^32. -/
def mmaElem (fmt : Nat) (old : Word) (xs ys : List FVal) : Word :=
  let s := exactSum (List.zipWith fmulV xs ys)
  if fmtInt fmt then BitVec.ofInt 32 ((if fmtClr fmt then 0 else old.toInt) + toIntVal s)
  else
    let t := fval fmtF32 (encodeVal fmtF32 0 s)
    let o := if fmtClr fmt then .fin false 0 0 else fval fmtF32 old.toNat
    BitVec.ofNat 32 (encodeVal fmtF32 0 (faddV 0 o t))

/-- The tile after the product of two slots, and whether a poisoned word was read (R187, R314). -/
def mmaTile (s : State) (core sa sb fmt : Nat) (t : Tile) : Tile × Bool :=
  let rows (ty slot : Nat) : List (List FVal) := (List.range 64).map fun i =>
    rowVals ty (slotRow s core slot i) (if isDsb ty then slotRow s core (slot + 1) i else [])
  let a := rows (fmtA fmt) sa
  let b := rows (fmtB fmt) sb
  let ws := (List.range 4096).map fun n =>
    (n, mmaElem fmt (tgetD t.words n 0) (a.getD (n / 64) []) (b.getD (n % 64) []))
  ({ words := ws.filter fun e => e.2 != 0, poison := if fmtClr fmt then [] else t.poison }, !fmtClr fmt && !t.poison.isEmpty)

/-! ## mma (R185, R188, R313) -/

/-- The word that the active lanes agree on, if they do (R185). -/
def agreed (g : Group) (n : Nat) : Option Word :=
  let ws := (lanesOf g.exec).map fun l => readV g n l
  if ws.all fun w => w == ws.headD 0 then some (ws.headD 0) else none

/-- The acceptance checks of an mma (R185, R186, R308): tile, type, slots. -/
def chkMma (s : State) (w tile sa sb fmt : Nat) : EChk :=
  (chkIf (decide (wgTiles s w ≤ tile) || (fmtValid fmt && dsbOdd sa sb fmt)) .illopnd 0).then <|
  (chkIf (!fmtValid fmt) .illtype 0).then <|
  (chkSlots s w (mmaSlots sa sb fmt))

/-- mma (R185): with EXEC = 0 it reads nothing and only its flag completes; the tile must be allocated and the name count for
PEND all the same (R67, R89). -/
def execMma (acc sa sb vf : R6) (s : State) : Out :=
  onGroup s fun c g =>
    let word := wordOf (.mma acc sa sb vf)
    let base : EForm := { word := word, op := opMma }
    let bad := decide (32 ≤ acc.toNat) || decide (32 ≤ sa.toNat) || decide (32 ≤ sb.toNat)
    if g.exec = 0 then engIssue s c g { nd := bad, wv := [vf.toNat] } base
      (chkIf (decide (wgTiles s g.wg ≤ acc.toNat)) .illopnd 0) (enterMod fun d => { d with ended := true })
    else
      let use : Use := { nd := bad, rv := [vf.toNat], lanes := g.exec }
      match agreed g vf.toNat with
      | none => engIssue s c g use base
          ((chkIf (decide (wgTiles s g.wg ≤ acc.toNat)) .illopnd 0).then (.trap { code := .fmtdiv })) enterPlain
      | some w =>
        engIssue s c g use { base with a := acc.setWidth 64, b := sa.setWidth 64, c := sb.setWidth 64, fmt := w }
          (chkMma s g.wg acc.toNat sa.toNat sb.toNat w.toNat) enterPlain

/-- The product a command carries: tile, slots, format word. -/
def productOf (c : Cmd) : Nat × Nat × Nat × Nat :=
  if c.op = opCopyf then (copyfTile c, nfld c.c.toNat 18 5, nfld c.c.toNat 13 5, nfld c.c.toNat 0 13)
  else (c.a.toNat, c.b.toNat, c.c.toNat, c.fmt.toNat)

/-- A workgroup's tile. -/
def tileOf (s : State) (w t : Nat) : Tile := match tget s.wgs w with
  | some x => tgetD x.tiles t { words := [], poison := [] }
  | none => { words := [], poison := [] }

/-- Whether an mma, or the follow-on of the copyf that leads a collective, may run: operands landed, first on its tile. -/
def mmaReady (s : State) (k : Nat) (c : Cmd) : Bool :=
  (c.op = opMma || (c.op = opCopyf && decide (c.lead = k) && (slicesOf s c).all fun e => linesDone e.2)) &&
    !c.paused && !c.failed && !c.ended && slotsLanded s k c && tileFirst s c

/-- A tenant that PREEMPT stops starts nothing more (R398). -/
def stoppedT (s : State) (t : Nat) : Bool := match tget s.tenants t with
  | some x => x.park != .active
  | none => false

/-- Whether a product is ready to start. -/
def mayStart (s : State) (k : Nat) (c : Cmd) : Bool := mmaReady s k c && decide (c.phase = 0) && !stoppedT s c.tenant

/-- Each product notes when it became ready to start, as long as it is (R304). -/
def noteReady (s : State) : State :=
  let product (c : Cmd) : Bool := decide (c.op = opMma) || decide (c.op = opCopyf)
  if s.cmds.any fun e => product e.2 then
    { s with cmds := tmap s.cmds fun k c =>
        if product c then { c with ready := if mayStart s k c then c.ready.or (some s.clk) else none } else c }
  else s

/-- Whether a product is the one that its core's array takes next: of those ready to start, the one that became ready first, ties in
acceptance order (R304). -/
def nextProduct (s : State) (k : Nat) (c : Cmd) : Bool :=
  let at_ (d : Cmd) : Nat := d.ready.getD s.clk
  s.cmds.all fun e => !(decide (e.2.core = c.core) && mayStart s e.1 e.2 &&
    (decide (at_ e.2 < at_ c) || (decide (at_ e.2 = at_ c) && decide (e.1 < k))))

/-- MMA_START (R304, R313, R314): the array starts a product, whose tile is shadow-copied. -/
def execMmaStart (cmd : Nat) (s : State) : Out := .next (match tget s.cmds cmd with
  | none => s
  | some c =>
    if mayStart s cmd c && nextProduct s cmd c then
      modCmd s cmd fun d => { d with
        phase := 1, started := true, since := s.clk
        shadow := if d.shadow.isSome then d.shadow else some (tileOf s c.wg (productOf c).1) }
    else s)

/-- MMA_COMPLETE (R178, R188): every element is written and the flag completes, after the release of a copyf; with EXEC = 0 only the
flag. -/
def execMmaComplete (cmd : Nat) (s : State) : Out := .next (match tget s.cmds cmd with
  | none => s
  | some c =>
    if c.op = opMma && c.ended then afterOp (endCmd s cmd false) c.wg
    else if c.phase = 1 && mmaReady s cmd c && (c.op = opMma || slicesReady s c) then
      let p := productOf c
      let r := mmaTile s c.core p.2.1 p.2.2.1 p.2.2.2 (tileOf s c.wg p.1)
      let s1 := writeTile s c p.1 r.1
      withEntry s cmd c (if c.op = opCopyf then endSlices s1 c (r.2 || (slicesOf s c).any fun e => e.2.err)
        else afterOp (endCmd s1 cmd r.2) c.wg)
    else s)

/-- Words of the shadow of a command hold an uncorrectable error: they are poisoned where the tile is restored from it (R314). -/
def shadowError (s : State) (cmd : Nat) (words : NatSet) : State :=
  modCmd s cmd fun d => { d with shadow := d.shadow.map fun t => { t with poison := nsAddAll (words.filter fun i => decide (i < 4096)) t.poison } }

/-- SLOT_TILE_UNCORRECTABLE_ERROR (R188, R314): the tile is restored and the mma completes with FLAGERR, a copyf after its release. -/
def execSlotTileUncorrectableError (cmd : Nat) (s : State) : Out := .next (match tget s.cmds cmd with
  | none => s
  | some c =>
    if (c.op = opMma || c.op = opCopyf) && c.phase = 1 then
      let s1 := (slicesOf s c).foldl (fun t e => failMark t e.1) (restoreTile s c (productOf c).1)
      endFailed (modCmd s1 cmd fun d => { d with phase := 0 }) cmd
    else s)

/-! ## accld and accst (R189) -/

/-- Fields of the layout word. -/
def accStride (c : Cmd) : Nat := nfld c.c.toNat 0 32
def accType (c : Cmd) : Nat := nfld c.c.toNat 32 4
def accTile (c : Cmd) : Nat := nfld c.a.toNat 0 5

/-- Bytes of a row. -/
def accRow (c : Cmd) : Nat := if accType c = 0 then 256 else 128

/-- The acceptance checks of accld and accst. -/
def chkAcc (s : State) (w : Nat) (c : Cmd) : EChk :=
  let spad := decide (c.sub = 1)
  (chkIf (decide (32 ≤ c.a.toNat) || decide (wgTiles s w ≤ accTile c) || decide (2 ^ 36 ≤ c.c.toNat) || decide (2 < accType c) ||
    (c.op = opAccld && accType c != 0) || decide (accStride c % 16 ≠ 0) || decide (accStride c < accRow c) ||
    (spad && decide (2 ^ 32 ≤ c.b.toNat))) .illopnd 0).then <|
  (chkIf (decide (c.b.toNat % 16 ≠ 0)) .misalign c.b.toNat).then <|
  (if spad then chkSpad s w c.b.toNat (63 * accStride c + accRow c) else chkFab c.b)

/-- The scratchpad lines that row i of an accst touches. -/
def accLines (c : Cmd) (i : Nat) : List Nat := linesOf (c.b.toNat + i * accStride c) (accRow c)

/-- accst.s clears the presence bits of its lines (R270). -/
def enterAcc (s : State) (k : Nat) (c : Cmd) : State :=
  if c.op = opAccst && c.sub = 1 then
    let ls := nsAddAll ((List.range 64).flatMap (accLines c)) []
    setAbsent (modCmd s k fun d => { d with lines := ls }) c.wg ls
  else s

/-- The bytes that row i of a tile is stored as. -/
def accBytes (t : Tile) (ty i : Nat) : List Byte :=
  (List.range 64).flatMap fun j =>
    let w := tgetD t.words (64 * i + j) 0
    if ty = 0 then natBytes 4 w.toNat
    else natBytes 2 (encodeVal (if ty = 1 then fmtF16 else fmtBf16) 0 (fval fmtF32 w.toNat))

/-- A row of a tile loaded from its bytes; its poison goes (R314). -/
def loadRow (t : Tile) (i : Nat) (bs : List Byte) : Tile :=
  (List.range 64).foldl (fun u j =>
    let v := BitVec.ofNat 32 (leNat ((bs.drop (4 * j)).take 4))
    { words := if v = 0 then tdel u.words (64 * i + j) else tset u.words (64 * i + j) v
      poison := nsDel (64 * i + j) u.poison }) t

/-- The lines under n bytes at a physical address, where there is one, are poisoned. -/
def poisonLines (s : State) (pa : Option Nat) (n : Nat) : State := match pa with
  | some a => { s with badLines := nsAddAll (linesOf a n) s.badLines }
  | none => s

/-- Poisoned words of a stored row, sz bytes each from va on, poison the lines they lie in (R314). -/
def poisonWords (s : State) (core asid va sz : Nat) (js : List Nat) : State :=
  js.foldl (fun t j => poisonLines t (engPhys t core asid (va + sz * j)) sz) s

/-- Row i of an accld or accst moves; a row moves once (R189, R315). -/
def landAcc (s : State) (k i : Nat) (c : Cmd) : State :=
  if c.paused || c.failed || c.landed.contains i || decide (64 ≤ i) || !acqReady s k c || !tileFirst s c then s
  else
    let a := c.b.toNat + i * accStride c
    let t := tileOf s c.wg (accTile c)
    if c.op = opAccld then match engRead s k c (c.sub = 1) a 256 with
      | .wait => engWait s c (c.sub = 1) a 256
      | .fault code va => engFault s k code va
      | .bytes bs bad => markLanded (writeTile (engSeen s c (c.sub = 1) a 256) c (accTile c) (loadRow t i bs)) k i bad
    else
      let bs := accBytes t (accType c) i
      let bads := (List.range 64).filter fun j => t.poison.contains (64 * i + j)
      let bad := !bads.isEmpty
      if c.sub = 1 then
        let done := nsAdd i c.landed
        let left := (List.range 64).filter fun r => !done.contains r
        let ls := (accLines c i).filter fun l => !(left.any fun r => (accLines c r).contains l)
        markLanded (landLines (writeSpad s c.wg a bs) k c.wg ls) k i bad
      else if engBlocked s c.core (cmdAsid s c) a (accRow c) then engAsk s c.core (cmdAsid s c) a (accRow c)
      else match engXlat s c.core (cmdAsid s c) a (accRow c) true with
        | some (code, va) => engFault s k code va
        | none =>
          let s1 := engCommit s c.core (cmdAsid s c) a bs
          markLanded (poisonWords s1 c.core (cmdAsid s c) a (accRow c / 64) bads) k i bad

/-- accld and accst complete when every row has moved. -/
def finAcc (s : State) (c : Cmd) : Fin := if c.landed.length = 64 then .done s c.err 0 else .wait

/-- Issue an accld or accst. -/
def accOp (op sub : Nat) (ga gb gc : BitVec 5) (fs : Bool) (sc : BitVec 2) (acq rel : Bool) (word : Word) (s : State) : Out :=
  onGroup s fun c g =>
    let f : EForm := { word := word, op := op, sub := sub, fs := fs, sc := sc.toNat, acq := acq, rel := rel
                       a := readG g ga.toNat, b := readG g gb.toNat, c := readG g gc.toNat }
    engIssue s c g (useE [ga.toNat, gb.toNat, gc.toNat] none) f (chkAcc s g.wg (cmdOf s c g f)) enterAcc

/-- accld.g (R189). -/
def execAccldG (ga gb gc : BitVec 5) (fs : Bool) (sc : BitVec 2) (acq rel : Bool) (s : State) : Out :=
  accOp opAccld 0 ga gb gc fs sc acq rel (wordOf (.accldG ga gb gc fs sc acq rel)) s
/-- accld.s (R189). -/
def execAccldS (ga gb gc : BitVec 5) (fs : Bool) (sc : BitVec 2) (acq rel : Bool) (s : State) : Out :=
  accOp opAccld 1 ga gb gc fs sc acq rel (wordOf (.accldS ga gb gc fs sc acq rel)) s
/-- accst.g (R189). -/
def execAccstG (ga gb gc : BitVec 5) (fs : Bool) (sc : BitVec 2) (acq rel : Bool) (s : State) : Out :=
  accOp opAccst 0 ga gb gc fs sc acq rel (wordOf (.accstG ga gb gc fs sc acq rel)) s
/-- accst.s (R189). -/
def execAccstS (ga gb gc : BitVec 5) (fs : Bool) (sc : BitVec 2) (acq rel : Bool) (s : State) : Out :=
  accOp opAccst 1 ga gb gc fs sc acq rel (wordOf (.accstS ga gb gc fs sc acq rel)) s

end Sys2Proof.Machine
end

