-- ==== Sys2Proof/Machine/Slots.lean ====
section
/-! DEFINITION. slot, chain and seqw (R190 to R192, R305, R311, R312) at issue, and how they complete. -/

namespace Sys2Proof.Machine

/-! ## slot (R190) -/

/-- The mask of a slot instruction as slot numbers. -/
def slotMask (c : Cmd) : List Nat := maskSlots (c.a.toNat % 2 ^ 32)

/-- The slots a workgroup holds. -/
def heldSlots (s : State) (w : Nat) : List Nat := (List.range 32).filter (holdsSlot s w)

/-- Whether a slot of a core is held by no workgroup. -/
def slotIdle (s : State) (core i : Nat) : Bool := match tget (coreOf s core).slots i with
  | some o => o.holder.isNone
  | none => true

/-- Set or clear the holder of slots of a core. -/
def setHolder (s : State) (core : Nat) (ss : List Nat) (h : Option Nat) : State :=
  let k := coreOf s core
  setCore s core { k with slots := ss.foldl (fun t i => tset t i { tgetD t i { holder := none, mem := [] } with holder := h }) k.slots }

/-- Whether a claim may be granted: its slots are idle and no earlier claim of the core that waits shares one. -/
def claimReady (s : State) (k : Nat) (c : Cmd) : Bool :=
  (slotMask c).all (slotIdle s c.core) && !(s.cmds.any fun e =>
    decide (e.2.op = opSlot) && decide (e.2.sub = 0) && !e.2.started && decide (e.2.core = c.core) && decide (e.1 < k) &&
      meets (slotMask e.2) (slotMask c))

/-- A claim is granted whole; its flag completes once its release, if it has one, has taken effect. -/
def grantClaim (s : State) (k : Nat) (c : Cmd) : State :=
  let s1 := modCmd (setHolder s c.core (slotMask c) (some c.wg)) k fun d => { d with started := true }
  if relReady s k c then afterOp (endCmd s1 k false) c.wg else s1

/-- A claim of no slot completes at once. -/
def enterClaim (s : State) (k : Nat) (c : Cmd) : State := if c.a = 0 then grantClaim s k c else s

/-- SLOT_CLAIM_GRANT (R190). -/
def execSlotClaimGrant (cmd : Nat) (s : State) : Out := .next (match tget s.cmds cmd with
  | none => s
  | some c =>
    if decide (c.op = opSlot) && decide (c.sub = 0) && !c.started && claimReady s cmd c then grantClaim s cmd c else s)

/-- The completion of a slot instruction: a claim once granted, a release once its slots are done with; it gives up what its
workgroup still holds of them, since another release may have come first. -/
def finSlot (s : State) (k : Nat) (c : Cmd) : Fin :=
  if !relReady s k c then .wait
  else if c.sub = 0 then if c.started then .done s false 0 else .wait
  else if c.sub = 1 then
    if slotsDone s k c.core (slotMask c) then .done (setHolder s c.core ((slotMask c).filter (holdsSlot s c.wg)) none) false 0 else .wait
  else .done s false c.result

/-- The acceptance checks of slot, at issue and in a chain entry (R190, R312). -/
def chkSlotOp (s : State) (w sub : Nat) (a : DWord) : EChk :=
  if sub = 2 then .ok
  else (chkIf (decide (2 ^ 32 ≤ a.toNat)) .illopnd 0).then
    (if sub = 0 then chkIf ((maskSlots a.toNat).any (holdsSlot s w)) .sloterr 0 else chkSlots s w (maskSlots a.toNat))

/-- slot.claim (R190). -/
def execSlotClaim (ga : BitVec 5) (fs : Bool) (sc : BitVec 2) (acq rel : Bool) (s : State) : Out :=
  onGroup s fun c g =>
    let a := readG g ga.toNat
    let f : EForm := { word := wordOf (.slotClaim ga fs sc acq rel), op := opSlot, sub := 0, fs := fs, sc := sc.toNat
                       acq := acq, rel := rel, a := a }
    engIssue s c g (useE [ga.toNat] none) f (chkSlotOp s g.wg 0 a) enterClaim

/-- slot.rel (R190). -/
def execSlotRel (ga : BitVec 5) (fs : Bool) (sc : BitVec 2) (acq rel : Bool) (s : State) : Out :=
  onGroup s fun c g =>
    let a := readG g ga.toNat
    let f : EForm := { word := wordOf (.slotRel ga fs sc acq rel), op := opSlot, sub := 1, fs := fs, sc := sc.toNat
                       acq := acq, rel := rel, a := a }
    engIssue s c g (useE [ga.toNat] none) f (chkSlotOp s g.wg 1 a) enterPlain

/-- slot.held (R190): the mask as of acceptance. -/
def execSlotHeld (gc : BitVec 5) (fs : Bool) (sc : BitVec 2) (acq rel : Bool) (s : State) : Out :=
  onGroup s fun c g =>
    let f : EForm := { word := wordOf (.slotHeld gc fs sc acq rel), op := opSlot, sub := 2, fs := fs, sc := sc.toNat
                       acq := acq, rel := rel, resG := some gc.toNat }
    let held := heldSlots s g.wg
    engIssue s c g (useE [] (some gc.toNat)) f .ok (enterMod fun d => { d with result := BitVec.ofNat 64 (maskNat held) })

/-! ## chain and seqw (R191, R192, R305) -/

/-- The chain that gA names. -/
def chainNo (c : Cmd) : Nat := c.a.toNat % 4

/-- A chain of a core, if it is set. -/
def chainAt (s : State) (core ch : Nat) : Option Chain := tget (coreOf s core).chains ch

/-- Replace a chain. -/
def setChain (s : State) (core ch : Nat) (x : Chain) : State :=
  let k := coreOf s core
  setCore s core { k with chains := tset k.chains ch x }

/-- chain.set takes effect (R191): only on an idle chain; its owner is the issuing workgroup. -/
def finChainSet (s : State) (c : Cmd) : Fin :=
  let idle := match chainAt s c.core (chainNo c) with
    | some x => chainIdle x
    | none => true
  if !idle then .done s true 0
  else if engBlocked s c.core (cmdAsid s c) c.b.toNat 8 then .later (engAsk s c.core (cmdAsid s c) c.b.toNat 8)
  else match engXlat s c.core (cmdAsid s c) c.b.toNat 8 true with
    | some (code, va) => .fault code va
    | none =>
      let x : Chain := { base := c.b, size := 2 ^ (nfld c.c.toNat 0 4 + 4), owner := c.wg, head := 0, tail := 0, comp := 0, done := [] }
      .done (setChain (engCommit s c.core (cmdAsid s c) c.b.toNat (zeros 8)) c.core (chainNo c) x) false 0

/-- chain.adv takes effect (R191, R305): a tail that moves back or passes the head by more than the ring is an error. -/
def finChainAdv (s : State) (c : Cmd) : Fin := match chainAt s c.core (chainNo c) with
  | none => .done s true 0
  | some x =>
    let d := (c.b.toNat % 2 ^ 32 + 2 ^ 32 - x.tail % 2 ^ 32) % 2 ^ 32
    if x.owner ≠ c.wg ∨ 2 ^ 31 ≤ d ∨ x.head + x.size < x.tail + d then .done s true 0
    else .done (setChain s c.core (chainNo c) { x with tail := x.tail + d }) false 0

/-- The completion of a chain instruction. -/
def finChain (s : State) (k : Nat) (c : Cmd) : Fin :=
  if !relReady s k c then .wait else if c.sub = 0 then finChainSet s c else finChainAdv s c

/-- The completion word of a chain; 0 where it is unset. -/
def chainComp (s : State) (core ch : Nat) : Nat := match chainAt s core ch with
  | some x => x.comp
  | none => 0

/-- seqw completes when the completion word has reached its value (R192). -/
def finSeqw (s : State) (k : Nat) (c : Cmd) : Fin :=
  if decide (c.b.toNat ≤ chainComp s c.core (chainNo c)) && relReady s k c then .done s false 0 else .wait

/-- The acceptance checks of chain, at issue and in a chain entry. -/
def chkChainOp (sub : Nat) (a b : DWord) : EChk :=
  (chkIf (decide (4 ≤ a.toNat)) .illopnd 0).then
    (if sub = 0 then (chkIf (decide (b.toNat % 64 ≠ 0)) .misalign b.toNat).then (chkFab b) else .ok)

/-- chain.set (R191). -/
def execChainSet (ga gb gc : BitVec 5) (fs : Bool) (sc : BitVec 2) (acq rel : Bool) (s : State) : Out :=
  onGroup s fun c g =>
    let a := readG g ga.toNat
    let b := readG g gb.toNat
    let f : EForm := { word := wordOf (.chainSet ga gb gc fs sc acq rel), op := opChain, sub := 0, fs := fs, sc := sc.toNat
                       acq := acq, rel := rel, a := a, b := b, c := readG g gc.toNat }
    engIssue s c g (useE [ga.toNat, gb.toNat, gc.toNat] none) f (chkChainOp 0 a b) enterPlain

/-- chain.adv (R191). -/
def execChainAdv (ga gb : BitVec 5) (fs : Bool) (sc : BitVec 2) (acq rel : Bool) (s : State) : Out :=
  onGroup s fun c g =>
    let a := readG g ga.toNat
    let f : EForm := { word := wordOf (.chainAdv ga gb fs sc acq rel), op := opChain, sub := 1, fs := fs, sc := sc.toNat
                       acq := acq, rel := rel, a := a, b := readG g gb.toNat }
    engIssue s c g (useE [ga.toNat, gb.toNat] none) f (chkChainOp 1 a (readG g gb.toNat)) enterPlain

/-- seqw (R192): the chain is gA[1:0]. -/
def execSeqw (ga gb : BitVec 5) (fs : Bool) (sc : BitVec 2) (acq rel : Bool) (s : State) : Out :=
  onGroup s fun c g =>
    let a := readG g ga.toNat
    let f : EForm := { word := wordOf (.seqw ga gb fs sc acq rel), op := opSeqw, sub := 0, fs := fs, sc := sc.toNat
                       acq := acq, rel := rel, a := a, b := readG g gb.toNat }
    engIssue s c g (useE [ga.toNat, gb.toNat] none) f .ok enterPlain

end Sys2Proof.Machine
end

