-- ==== Sys2Proof/Machine/Pages.lean ====
section
/-! DEFINITION. Opcodes 0x60 to 0x67 (R193 to R202): the page engine's commands, and kvgat's lines. Frames are in
Frames, the events that move frames between tiers in PageEvents. -/

namespace Sys2Proof.Machine

def opKvgat : Nat := 0x60
def opKvapp : Nat := 0x61
def opKvpin : Nat := 0x62
def opKvfrk : Nat := 0x63
def opHdl : Nat := 0x64
def opPfxh : Nat := 0x65
def opPfxl : Nat := 0x66
def opPfxi : Nat := 0x67

/-! ## Places of a frame's bytes (R194, R319) -/

/-- Where bytes lie: in a tenant's address space, as the walker or as an engine of a core reaches it (R281), or at a physical
address. -/
inductive Loc where
  | va (core : Option Nat) (asid a : Nat)
  | pa (a : Nat)
deriving DecidableEq, Repr

/-- A place as an engine of a core reaches it (R281, R412). -/
def Loc.via (core : Nat) : Loc → Loc
  | .va _ asid a => .va (some core) asid a
  | .pa a => .pa a

/-- The first fault of n bytes at offset o of a place. -/
def locFault (s : State) (l : Loc) (o n : Nat) (w : Bool) : Option (TrapCode × Nat) := match l with
  | .va none asid a => vfault s asid (a + o) n w
  | .va (some core) asid a => engXlat s core asid (a + o) n w
  | .pa _ => none

/-- Whether n bytes at offset o of a place must wait for the walker, the state with what an engine asks of it, and with what its
translation leaves in the TLBs (R281, R282). -/
def locBlocked (s : State) (l : Loc) (o n : Nat) : Bool := match l with
  | .va (some core) asid a => engBlocked s core asid (a + o) n
  | _ => false
def locAsk (s : State) (l : Loc) (o n : Nat) : State := match l with
  | .va (some core) asid a => engAsk s core asid (a + o) n
  | _ => s
def locTouch (s : State) (l : Loc) (o n : Nat) : State := match l with
  | .va (some core) asid a => engTouch s core asid (a + o) n
  | _ => s

/-- n bytes at offset o of a place, and whether they are poisoned. -/
def locRead (s : State) (l : Loc) (o n : Nat) : List Byte × Bool := match l with
  | .va none asid a => ((vread s asid (a + o) n).getD [], vpoisoned s asid (a + o) n)
  | .va (some core) asid a => (engBytes s core asid (a + o) n, engPoisoned s core asid (a + o) n)
  | .pa a => (mread s.mem (a + o) n, poisonedAt s (a + o) n)

/-- n bytes at offset o of a place as command k reads them (R294), and whether they are poisoned. -/
def cmdLocRead (s : State) (k : Nat) (c : Cmd) (l : Loc) (o n : Nat) : List Byte × Bool := match l with
  | .va _ _ a => (cmdBytes s k c (a + o) n, (locRead s l o n).2)
  | .pa a => (cmdMem s k c (a + o) n, (locRead s l o n).2)

/-- Poison the lines under n bytes at a virtual address, which phys translates. -/
def poisonVirt (s : State) (phys : Nat → Option Nat) (va n : Nat) : State :=
  (pieces va n (n / 65536 + 2)).foldl (fun t p => poisonLines t (phys p.1) p.2) s

/-- Write bytes at offset o of a place, poisoned or not. -/
def locWrite (s : State) (l : Loc) (o : Nat) (bs : List Byte) (bad : Bool) : State := match l with
  | .va none asid a =>
    let t := commitVirt s none asid (a + o) bs
    if bad then poisonVirt t (fun va => vphys t asid va false false) (a + o) bs.length else t
  | .va (some core) asid a =>
    let t := engCommit s core asid (a + o) bs
    if bad then poisonVirt t (engPhys t core asid) (a + o) bs.length else t
  | .pa a =>
    let t := commitBytes s none (a + o) bs
    if bad then { t with badLines := nsAddAll (linesOf (a + o) bs.length) t.badLines } else t

/-- Copy n bytes from offset o of one place, which rd reads, to the same offset of another, 128 bytes at a time; poison goes along
(R323). -/
def locCopyBy (rd : State → Nat → Nat → List Byte × Bool) (s : State) (dst : Loc) (o n : Nat) : State :=
  (List.range ((n + 127) / 128)).foldl (fun t i =>
    let k := min 128 (n - 128 * i)
    let r := rd t (o + 128 * i) k
    locWrite t dst (o + 128 * i) r.1 r.2) s
def locCopy (s : State) (src dst : Loc) (o n : Nat) : State := locCopyBy (fun t a k => locRead t src a k) s dst o n

/-- The address space of a pool's tenant. -/
def poolAsid (s : State) (p : Pool) : Nat := match tget s.tenants p.tenant with
  | some t => t.asid
  | none => 0

/-- Layer l of a frame: in the slot it holds, or its tier-2 copy. -/
def frameLoc (s : State) (p : Pool) (f l : Nat) (tier2 : Bool) : Loc :=
  if tier2 then .pa (tier2Pa p f l) else .va none (poolAsid s p) (slotVa p (((frameOf p f).slot).getD f) l)

/-- Bytes of a K or V row (R194). -/
def rowBytes (p : Pool) : Nat := p.bp / (2 * p.p)

/-- Bytes of an element of a type. -/
def typeBytes (t : Nat) : Nat := (elemWidth t).getD 8 / 8

/-- A row converted from one type to another, RNE, FTZ = 0; as it stands where the command's type field is 15 (R195, R196). -/
def convRow (sat : Bool) (field ts td : Nat) (bs : List Byte) : List Byte :=
  if field = 15 then bs
  else
    let m : Word := BitVec.ofNat 32 (ts * 2 ^ 16 + b2n sat * 2 ^ 12 + td * 2 ^ 5)
    let ws := typeBytes ts
    (List.range (bs.length / ws)).flatMap fun i =>
      natBytes (typeBytes td) (conv m (8 * ws) (8 * typeBytes td) (leNat ((bs.drop (ws * i)).take ws)))

/-- Bytes of a row of the pool in another type; 15 is the pool's own. -/
def rowIn (p : Pool) (t : Nat) : Nat := if t = 15 then rowBytes p else rowBytes p / typeBytes p.etype * typeBytes t

/-! ## Fields and checks (R193 to R202) -/

/-- The iteration most recently formed; 0 before the first (R15, R344). -/
def lastIter (s : State) : Nat := (s.iterCtr - 1) % 2 ^ 32

/-- The current iteration of a command of a launch: the launch's own iteration, else the one most recently formed (R344). -/
def curIter (s : State) (l : Nat) : Nat :=
  let ofPlan (i : Nat) : Option Nat := (tget s.plans i).bind fun p => p.iter.map Iter.num
  let it : Option Nat := match (tget s.launches l).map Launch.origin with
    | some (.scorer p) => ofPlan p
    | some (.task g _) => match (tget s.graphs g).map Graph.origin with
      | some (.plan p) => ofPlan p
      | _ => none
    | _ => none
  it.getD (lastIter s)

/-- The handle a command names. -/
def handleOf (c : Cmd) : DWord := if c.op = opPfxl || c.op = opPfxi then c.b else c.a

/-- The handle's entry and its pool. -/
def poolAt (s : State) (h : DWord) : Option Pool := tget s.pools (handleAt s (hIdx h)).pool

/-- First position and count of kvgat's range word. -/
def gatFirst (c : Cmd) : Nat := nfld c.b.toNat 0 24
def gatCount (c : Cmd) : Nat := nfld c.b.toNat 24 16
def gatLayer (c : Cmd) : Nat := nfld c.b.toNat 40 16
/-- Offset, row stride and type of kvgat's destination word. -/
def gatOff (c : Cmd) : Nat := nfld c.c.toNat 0 32
def gatDrow (c : Cmd) : Nat := nfld c.c.toNat 32 20
def gatType (c : Cmd) : Nat := nfld c.c.toNat 52 4

/-- Position, offset, layer and source type of kvapp. -/
def appPos (c : Cmd) : Nat := nfld c.b.toNat 0 24
def appOff (c : Cmd) : Nat := nfld c.c.toNat 0 32
def appLayer (c : Cmd) : Nat := nfld c.c.toNat 32 16
def appType (c : Cmd) : Nat := nfld c.c.toNat 48 4

/-- First position and count of kvpin's range word. -/
def pinCount (c : Cmd) : Nat := nfld c.b.toNat 24 24

/-- A check that needs the handle's pool, once tenant and generation have passed. -/
def chkOnPool (s : State) (tenant : Nat) (h : DWord) (answered : Bool) (f : Handle → Pool → EChk) : EChk :=
  (chkAsk answered).then <| (chkHandle s tenant h).then <| match poolAt s h with
    | some p => f (handleAt s (hIdx h)) p
    | none => .trap (handleTrap h 1)

/-- The checks of kvgat (R194, R195). -/
def chkGat (s : State) (w tenant : Nat) (c : Cmd) (answered : Bool) : EChk :=
  let t := gatType c
  (chkIf (decide (gatCount c = 0) || decide (2 ^ 56 ≤ c.b.toNat) || decide (2 ^ 56 ≤ c.c.toNat) ||
    decide (gatDrow c % 16 ≠ 0) || (decide (5 ≤ t) && decide (t ≠ 15))) .illopnd 0).then <|
  chkOnPool s tenant c.a answered fun e p =>
    (chkIf (decide (p.layers ≤ gatLayer c) || decide (rowBytes p % 16 ≠ 0) || (isIntType p.etype && decide (t ≠ 15)) ||
      decide (gatDrow c < rowIn p t)) .illopnd 0).then <|
    (chkRange c.a (decide (min e.c (hBound c.a) < gatFirst c + gatCount c))).then <|
    (chkIf (decide (gatOff c % 128 ≠ 0)) .misalign (gatOff c)).then <|
    chkSpad s w (gatOff c) ((gatCount c - 1) * gatDrow c + rowIn p t)

/-- The checks of kvapp (R194, R196). -/
def chkApp (s : State) (w tenant : Nat) (c : Cmd) (answered : Bool) : EChk :=
  let t := appType c
  (chkIf (decide (nfld c.b.toNat 24 8 ≠ 0) || decide (2 ^ 52 ≤ c.c.toNat) || ((elemWidth t).isNone && decide (t ≠ 15))) .illopnd 0).then <|
  chkOnPool s tenant c.a answered fun e p =>
    (chkIf (decide (p.layers ≤ appLayer c) || decide (rowBytes p % 16 ≠ 0)) .illopnd 0).then <|
    (chkRange c.a (decide (appPos c < e.c) || decide (e.w < appPos c) || decide (hBound c.a ≤ appPos c))).then <|
    (chkIf (decide (appOff c % 16 ≠ 0)) .misalign (appOff c)).then <|
    chkSpad s w (appOff c) (2 * rowIn p t)

/-- The checks of kvpin (R197). -/
def chkPin (s : State) (tenant : Nat) (c : Cmd) (answered : Bool) : EChk :=
  (chkIf (decide (2 ^ 48 ≤ c.b.toNat) || decide (pinCount c = 0)) .illopnd 0).then <|
  chkOnPool s tenant c.a answered fun e _ =>
    chkRange c.a (decide (min e.w (hBound c.a) < appPos c + pinCount c))

/-- The checks of kvfrk and hdl (R198, R199). -/
def chkLen (s : State) (tenant : Nat) (c : Cmd) (answered : Bool) : EChk :=
  (chkIf (decide (2 ^ 24 ≤ c.b.toNat)) .illopnd 0).then <| chkOnPool s tenant c.a answered fun _ _ => .ok

/-- The checks of pfxh (R200). -/
def chkPfxh (s : State) (w : Nat) (c : Cmd) : EChk :=
  (chkIf (decide (2 ^ 32 ≤ c.b.toNat)) .illopnd 0).then <|
  (chkIf (decide (c.b.toNat % 4 ≠ 0)) .misalign c.b.toNat).then <| chkSpad s w c.b.toNat 64

/-- Hash table: first block and count of pfxl (block 0) and pfxi. -/
def pfxFirst (c : Cmd) : Nat := if c.op = opPfxl then 0 else nfld c.c.toNat 0 8
def pfxCount (c : Cmd) : Nat := if c.op = opPfxl then nfld c.c.toNat 0 8 else nfld c.c.toNat 8 8

/-- The scratchpad bytes that pfxl and pfxi read: offset and length. -/
def pfxBytes (c : Cmd) : Nat × Nat :=
  if c.op = opPfxl then (c.a.toNat, 72 * pfxCount c) else (c.a.toNat + 8 * pfxFirst c, 8 * pfxCount c)

/-- The checks of pfxl and pfxi (R201, R202). -/
def chkPfx (s : State) (w tenant : Nat) (c : Cmd) (answered : Bool) : EChk :=
  let n := pfxCount c
  (chkIf (decide (2 ^ 32 ≤ c.a.toNat) || decide (2 ^ (if c.op = opPfxl then 8 else 16) ≤ c.c.toNat) || decide (n = 0) ||
    decide (64 < n)) .illopnd 0).then <|
  chkOnPool s tenant c.b answered fun _ p =>
    (chkIf (decide (16 < p.p)) .illopnd 0).then <|
    (chkIf (decide (c.a.toNat % 8 ≠ 0)) .misalign c.a.toNat).then <|
    chkSpad s w (pfxBytes c).1 (pfxBytes c).2

/-- The acceptance checks of a page-engine command, at issue and in a chain entry. -/
def chkPage (s : State) (w tenant : Nat) (c : Cmd) (answered : Bool) : EChk :=
  if c.op = opKvgat then chkGat s w tenant c answered
  else if c.op = opKvapp then chkApp s w tenant c answered
  else if c.op = opKvpin then chkPin s tenant c answered
  else if c.op = opKvfrk || c.op = opHdl then chkLen s tenant c answered
  else if c.op = opPfxh then chkPfxh s w c
  else chkPfx s w tenant c answered

/-! ## Order (R179) -/

/-- Whether a command acts on the page engine's structures when it completes. -/
def pageCmd (c : Cmd) : Bool := decide (opKvapp ≤ c.op) && decide (c.op ≤ opPfxi) && c.op != opPfxh

/-- Whether two commands come from one group, or from one chain. -/
def sameSource (c d : Cmd) : Bool := match c.chain, d.chain with
  | none, none => decide (c.ctx = d.ctx)
  | some a, some b => decide (a.1 = b.1) && decide (c.core = d.core)
  | _, _ => false

/-- Whether every earlier command of the same source has reached the page engine. -/
def pageOrder (s : State) (k : Nat) (c : Cmd) : Bool :=
  !(s.cmds.any fun e => decide (e.1 < k) && pageCmd e.2 && sameSource c e.2)

/-! ## kvgat (R195, R326, R328) -/

/-- The lines that row t of a gather of rl-byte rows lands in. -/
def gatRow (c : Cmd) (rl t : Nat) : List Nat := linesOf (gatOff c + t * gatDrow c) rl

/-- A list without equal neighbours. -/
def dedupe : List Nat → List Nat
  | a :: b :: t => if a = b then dedupe (b :: t) else a :: dedupe (b :: t)
  | l => l

/-- The frames that a gather's range names. -/
def gatFrames (s : State) (c : Cmd) (p : Pool) : List Nat :=
  let n0 := gatFirst c / p.p
  let n1 := (gatFirst c + gatCount c - 1) / p.p
  (List.range (n1 - n0 + 1)).map fun i => (handleAt s (hIdx c.a)).bt.getD (n0 + i) 0

/-- Whether one more for each place of a list would take the count of some frame past 65,535: a list may name a frame several times
(R322). -/
def passLimit (fs : List Nat) (now : Nat → Nat) : Bool := fs.any fun f => decide (65535 < now f + fs.count f)

/-- Whether a gather would pin a frame past 65,535 (R322). DESIGN CHOICE (log 44): its acceptance waits until it would not. -/
def pinsFull (s : State) (c : Cmd) : Bool := match poolAt s c.a with
  | some p => decide (c.op = opKvgat) && passLimit (gatFrames s c p) fun f => (frameOf p f).pins
  | none => false

/-- Acceptance of a gather: it pins the frames of its range, notes which copy of each it reads, and clears its lines. -/
def enterGat (s : State) (k : Nat) (c : Cmd) : State := match poolAt s c.a with
  | none => s
  | some p =>
    let e := handleAt s (hIdx c.a)
    let fs := gatFrames s c p
    let src := fs.map fun f => (f, decide ((frameOf p f).st = .tier2) || decide ((frameOf p f).st = .fetching))
    let p1 := fs.foldl pinFrame p
    let ls := dedupe ((List.range (gatCount c)).flatMap (gatRow c (rowIn p (gatType c))))
    setAbsent (modCmd { s with pools := tset s.pools e.pool p1 } k fun d => { d with pool := e.pool, frames := src, lines := ls }) c.wg ls

/-- The rows of a gather that have bytes in a line. -/
def rowsIn (c : Cmd) (rl line : Nat) : List Nat :=
  let lo := 128 * line
  let d := gatDrow c
  let first := if lo + 1 ≤ gatOff c + rl then 0 else (lo - gatOff c - rl) / d + 1
  (rangeFrom first (128 / d + 2)).filter fun t =>
    decide (t < gatCount c) && decide (gatOff c + t * d < lo + 128) && decide (lo < gatOff c + t * d + rl)

/-- The place in c.frames of the frame of row t. -/
def rowFrame (p : Pool) (c : Cmd) (t : Nat) : Nat := (gatFirst c + t) / p.p - gatFirst c / p.p

/-- Where row t lies, and its offset there. -/
def rowLoc (s : State) (p : Pool) (c : Cmd) (t : Nat) : Loc × Nat :=
  let f := c.frames.getD (rowFrame p c t) (0, false)
  let q := (gatFirst c + t) % p.p
  ((frameLoc s p f.1 (gatLayer c) f.2).via c.core, (if c.sub = 0 then q else p.p + q) * rowBytes p)

/-- The part of a row's bytes that falls in a line is written. -/
def writeRow (s : State) (w off line : Nat) (bs : List Byte) : State :=
  let lo := max off (128 * line)
  writeSpad s w lo ((bs.drop (lo - off)).take (128 * line + 128 - lo))

/-- GATHER_LINE_LAND (R195): every byte of the gather in one destination line lands; a frame whose last row has landed
loses its pin, and its last access is the iteration of that moment. -/
def execGatherLineLand (cmd line : Nat) (s : State) : Out := .next (match tget s.cmds cmd with
  | none => s
  | some c => match tget s.pools c.pool with
    | none => s
    | some p =>
      if decide (c.op ≠ opKvgat) || c.paused || !c.lines.contains line || !acqReady s cmd c then s
      else
        let rl := rowIn p (gatType c)
        let rows := rowsIn c rl line
        let rb := rowBytes p
        if rows.any fun t => locBlocked s (rowLoc s p c t).1 (rowLoc s p c t).2 rb then
          rows.foldl (fun u t => locAsk u (rowLoc s p c t).1 (rowLoc s p c t).2 rb) s
        else match firstSome (fun t => let r := rowLoc s p c t; locFault s r.1 r.2 rb false) rows with
        | some (code, va) => engFault s cmd code va
        | none =>
          let src := rows.map fun t => (t, cmdLocRead s cmd c (rowLoc s p c t).1 (rowLoc s p c t).2 rb)
          let td := if gatType c = 15 then p.etype else gatType c
          let s0 := rows.foldl (fun u t => locTouch u (rowLoc s p c t).1 (rowLoc s p c t).2 rb) s
          let s1 := src.foldl (fun u e => writeRow u c.wg (gatOff c + e.1 * gatDrow c) line (convRow false (gatType c) p.etype td e.2.1)) s0
          let s2 := markLanded (landLines s1 cmd c.wg [line]) cmd line (src.any fun e => e.2.2)
          let left := nsDel line c.lines
          let gone := ((rows.map (rowFrame p c)).eraseDups).filter fun j =>
            !c.acked.contains j && !(left.any fun l => (rowsIn c rl l).any fun t => decide (rowFrame p c t = j))
          let last (r : Pool) (f : Nat) : Pool := unpinFrame (touch r f (curIter s c.launch)) f
          modCmd (modPool s2 c.pool fun q => gone.foldl (fun r j => last r (c.frames.getD j (0, false)).1) q) cmd fun d =>
            { d with acked := nsAddAll gone d.acked })

/-- Watermark (R324). -/
def watermark (p : Pool) : Nat := p.f / 8

/-- A fetch of a TIER2 frame starts, if it can hold a slot (R327). -/
def startFetch (p : Pool) (f : Nat) : Option Pool :=
  let x := frameOf p f
  let go (q : Pool) (h : Nat) : Option Pool := some (setFrame q f { x with st := .fetching, slot := some h })
  if x.st ≠ .tier2 then none
  else if f < p.f then if (slotHolder p f).isNone then go p f else none
  else match (lendable p).min? with
    | some h => go p h
    | none => match p.free with
      | h :: t => go { p with free := t } h
      | [] => none

/-- After a gather, each frame that it read from the tier-2 copy is promoted if the policy of R328 says so. -/
def promote (p : Pool) (fs : List Nat) : Pool :=
  fs.foldl (fun q f => if watermark q + 1 < available q && (decide (q.f ≤ f) || (slotHolder q f).isNone)
    then (startFetch q f).getD q else q) p

/-- A gather completes when every line has landed; the last access of its frames is the iteration of that moment (R268). -/
def finGat (s : State) (k : Nat) (c : Cmd) : Fin :=
  if c.lines.isEmpty && relReady s k c then
    let fs := sortBy id ((c.frames.filter Prod.snd).map Prod.fst)
    let seen (p : Pool) : Pool := c.frames.foldl (fun q f => touch q f.1 (curIter s c.launch)) p
    .done (modPool s c.pool fun p => promote (seen p) fs) c.err 0
  else .wait

/-! ## kvapp (R196, R321, R412) -/

/-- Whether AllocFrame waits for an eviction rather than report no frame (R321): one is in progress, or can start. -/
def allocWaits (p : Pool) : Bool := p.tier2.isSome && p.frames.any fun e =>
  decide (e.2.st = .evicting) || (decide (e.2.st = .resident) && decide (e.2.pins = 0) && decide (1 ≤ e.2.ref))

/-- Whether a fetch of a spare frame fails (R327). -/
def fetchFails (p : Pool) (f : Nat) : Bool :=
  decide (p.f ≤ f) && (lendable p).isEmpty && p.free.isEmpty && !(p.frames.any fun e =>
    decide (e.2.st = .resident) && decide (e.2.pins = 0) && decide (1 ≤ e.2.ref))

/-- An eviction of a frame that a kvapp writes or reads is abandoned (R196, R323). -/
def settleFrame (p : Pool) (f : Nat) : Pool := if (frameOf p f).st = .evicting then abandonEviction p f else p

/-- Whether a frame has to be fetched before a kvapp can use it. -/
def awayFrame (p : Pool) (f : Nat) : Bool := decide ((frameOf p f).st = .tier2) || decide ((frameOf p f).st = .fetching)

/-- What must stand before a kvapp writes, and the pool after what the page engine has done towards it (R196): it waits, no
frame is left, or the frames are RESIDENT, with the one that the kvapp has allocated, if it has one. -/
inductive AppPage where
  | wait (p : Pool)
  | none_ (p : Pool)
  | to (p : Pool) (own : Option Nat)
deriving DecidableEq, Repr

/-- Whether an append to page n takes a new frame: the page is not present, or its frame is shared (R196). -/
def appFresh (p : Pool) (h : Handle) (n : Nat) : Bool := match h.bt[n]? with
  | none => true
  | some f => decide (1 < (frameOf p f).ref)

/-- An append needs a frame that is away: it waits for the fetch, or the fetch fails and nothing is left (R327). -/
def appAway (p : Pool) (f : Nat) : AppPage :=
  if decide ((frameOf p f).st = .tier2) && fetchFails p f then .none_ p else .wait p

/-- A new frame for an append: the one allocated already, or the one that AllocFrame gives. -/
def appOwn (p : Pool) (now : Nat) (own : Option Nat) : AppPage := match own with
  | some g => if awayFrame p g then appAway p g else .to (settleFrame p g) own
  | none => match allocFrame p now with
    | some r => .to r.2 (some r.1)
    | none => if allocWaits p then .wait p else .none_ p

/-- The way to the frame that an append to page n of a handle writes. -/
def appPage (p : Pool) (h : Handle) (now n : Nat) (own : Option Nat) : AppPage :=
  if h.bt.length < n then .none_ p
  else match h.bt[n]? with
    | none => appOwn p now own
    | some f =>
      if awayFrame p f then appAway p f
      else if appFresh p h n then appOwn (settleFrame p f) now own else .to (settleFrame p f) own

/-- The pieces of a copy-on-write of m slots: K rows and V rows of each layer (layer, offset, length). -/
def cowParts (p : Pool) (m : Nat) : List (Nat × Nat × Nat) :=
  (List.range p.layers).flatMap fun l => [(l, 0, m * rowBytes p), (l, p.p * rowBytes p, m * rowBytes p)]

/-- The frame that an append to page n writes, the block table after it, and where it copies on write the frame it copies from
with the number of slots. -/
def appTarget (p : Pool) (h : Handle) (n : Nat) (own : Option Nat) : Nat × List Nat × Option (Nat × Nat) :=
  match h.bt[n]?, own with
  | some f, some g => if appFresh p h n then (g, h.bt.set n g, some (f, min (h.w - n * p.p) p.p)) else (f, h.bt, none)
  | some f, none => (f, h.bt, none)
  | none, some g => (g, h.bt ++ [g], none)
  | none, none => (0, h.bt, none)

/-- Where the bytes that an append copies lie. -/
def cowMoves (p : Pool) (copy : Option (Nat × Nat)) : List (Nat × Nat × Nat × Nat) := match copy with
  | none => []
  | some (g, m) => (cowParts p m).map fun e => (g, e)

/-- The bytes that an append reaches which writes frame f (R412): place, offset, length, and whether it writes them. -/
def appPlaces (s : State) (core : Nat) (p : Pool) (f q layer : Nat) (copy : Option (Nat × Nat)) : List (Loc × Nat × Nat × Bool) :=
  let rb := rowBytes p
  let at_ (g l : Nat) : Loc := (frameLoc s p g l false).via core
  ((cowMoves p copy).flatMap fun e => [(at_ e.1 e.2.1, e.2.2.1, e.2.2.2, false), (at_ f e.2.1, e.2.2.1, e.2.2.2, true)]) ++
    [(at_ f layer, q * rb, rb, true), (at_ f layer, (p.p + q) * rb, rb, true)]

/-- The first fault of an append (R412). -/
def appFault (s : State) (ps : List (Loc × Nat × Nat × Bool)) : Option (TrapCode × Nat) :=
  firstSome (fun e : Loc × Nat × Nat × Bool => locFault s e.1 e.2.1 e.2.2.1 e.2.2.2) ps

/-- An append's copy-on-write and its rows (R196), of command k: the state, of which p is the pool and h the handle. -/
def appWrite (s : State) (k : Nat) (c : Cmd) (now idx pos layer : Nat) (tok : Word) (krow vrow : List Byte) (p : Pool) (h : Handle)
    (own : Option Nat) : State :=
  let q := pos % p.p
  let t := appTarget p h (pos / p.p) own
  let at_ (g l : Nat) : Loc := (frameLoc s p g l false).via c.core
  let s1 := (cowMoves p t.2.2).foldl (fun u e =>
    locCopyBy (fun v o n => cmdLocRead v k c (at_ e.1 e.2.1) o n) u (at_ t.1 e.2.1) e.2.2.1 e.2.2.2) s
  let s2 := locWrite (locWrite s1 (at_ t.1 layer) (q * rowBytes p) krow false) (at_ t.1 layer) ((p.p + q) * rowBytes p) vrow false
  let p1 := match t.2.2 with
    | none => p
    | some (f, m) =>
      let u := setFrame p t.1 { frameOf p t.1 with filled := m, ids := (frameOf p f).ids.filter fun e => decide (e.1 < m) }
      decRef { u with ctr := { u.ctr with cow := u.ctr.cow + 1 } } f
  let isNew := decide (pos = h.w)
  let x := { frameOf p1 t.1 with lastacc := now }
  let y := if isNew then { x with ids := tset x.ids q tok, filled := max x.filled (q + 1) } else x
  { s2 with pools := tset s2.pools h.pool (setFrame p1 t.1 y)
            handles := tset s2.handles idx { h with bt := t.2.1, w := if isNew then h.w + 1 else h.w } }

/-- Whether a handle still names its entry. DESIGN CHOICE (log 52): tenant and generation are tested again at a command's turn, and a
handle released since its acceptance ends it with FLAGERR and no effect; R193 tests at acceptance. -/
def handleLive (s : State) (c : Cmd) : Bool := match chkHandle s c.tenant (handleOf c) with
  | .ok => true
  | _ => false

/-- The frame that a kvapp has allocated and not yet written: it keeps it over a fault (R412). -/
def ownFrame (c : Cmd) : Option Nat := c.frames.head?.map Prod.fst

/-- kvapp reaches the page engine, once its scratchpad bytes are present (R196). A fault pauses it with the frame it has
allocated (R412). -/
def finApp (s : State) (k : Nat) (c : Cmd) : Fin :=
  let idx := hIdx c.a
  let h := handleAt s idx
  match tget s.pools h.pool with
  | none => .done s true 0
  | some p =>
    let ts := if appType c = 15 then p.etype else appType c
    let n := rowIn p (appType c)
    let put (q : Pool) : State := { s with pools := tset s.pools h.pool q }
    if !spadPresent s c.wg (appOff c) (2 * n) then .wait
    else match appPage p h (curIter s c.launch) (appPos c / p.p) (ownFrame c) with
      | .wait q => .later (put q)
      | .none_ q => .done (put q) true 0
      | .to q own =>
        let s1 := modCmd (put q) k fun d => { d with pool := h.pool, frames := own.toList.map fun f => (f, false) }
        let t := appTarget q h (appPos c / p.p) own
        let ps := appPlaces s1 c.core q t.1 (appPos c % p.p) (appLayer c) t.2.2
        if ps.any fun e => locBlocked s1 e.1 e.2.1 e.2.2.1 then .later (ps.foldl (fun u e => locAsk u e.1 e.2.1 e.2.2.1) s1)
        else match appFault s1 ps with
        | some (code, va) => .later (engFault s1 k code va)
        | none =>
          let bs := cmdSpad s k c (appOff c) (2 * n)
          let s2 := appWrite (ps.foldl (fun u e => locTouch u e.1 e.2.1 e.2.2.1) s1) k c (curIter s c.launch) idx (appPos c) (appLayer c) (BitVec.ofNat 32 (nfld c.b.toNat 32 32))
            (convRow true (appType c) ts p.etype (bs.take n)) (convRow true (appType c) ts p.etype (bs.drop n)) q h own
          .done (if t.2.1.contains (own.getD (4 * p.f)) then modCmd s2 k fun d => { d with frames := [] } else s2) false 0

/-! ## kvpin, kvfrk, hdl (R197 to R199) -/

/-- kvpin (R197): each frame on its own; one that cannot change makes the command an error. -/
def finPin (s : State) (c : Cmd) : Fin := match poolAt s c.a with
  | none => .done s true 0
  | some p =>
    let e := handleAt s (hIdx c.a)
    let n0 := appPos c / p.p
    let n1 := (appPos c + pinCount c - 1) / p.p
    let r := (rangeFrom n0 (n1 - n0 + 1)).foldl (fun (acc : Pool × Bool) n => match e.bt[n]? with
      | none => (acc.1, true)
      | some f =>
        let x := frameOf acc.1 f
        if c.sub = 0 then if 65535 ≤ x.pins then (acc.1, true) else (pinFrame acc.1 f, acc.2)
        else if x.pins = 0 then (acc.1, true) else (unpinFrame acc.1 f, acc.2)) (p, false)
    .done { s with pools := tset s.pools e.pool r.1 } r.2 0

/-- The lowest free handle index that kvfrk may take (R330). -/
def freeHandle (s : State) : Option Nat :=
  let k := lowestGap ((s.handles.filter fun e => e.2.st != 0).map Prod.fst) 16384
  if k < 2 ^ 20 then some k else none

/-- A handle value (R193). -/
def handleWord (tenant gen idx bound : Nat) : DWord :=
  BitVec.ofNat 64 (tenant * 2 ^ 52 + gen * 2 ^ 44 + idx * 2 ^ 24 + bound)

/-- A fork of a handle onto an index: its entry and a refcount more on each shared frame; none when one would pass 65,535 (R198). -/
def forkHandle (s : State) (parent : Handle) (idx st c : Nat) : Option State := match tget s.pools parent.pool with
  | none => none
  | some p =>
    let fs := parent.bt.take ((c + p.p - 1) / p.p)
    if passLimit fs fun f => (frameOf p f).ref then none
    else
      let e := handleAt s idx
      some { s with
        pools := tset s.pools parent.pool (fs.foldl incRef p)
        handles := tset s.handles idx { e with st := st, tenant := parent.tenant, pool := parent.pool, c := c, w := c, bt := fs } }

/-- kvfrk (R198): a fork of the parent's committed state. -/
def finFrk (s : State) (c : Cmd) : Fin :=
  let e := handleAt s (hIdx c.a)
  let bound := nfld c.b.toNat 0 24
  match freeHandle s with
  | none => .done s true 0
  | some i =>
    if bound < e.c then .done s true 0
    else match forkHandle s e i 2 e.c with
      | none => .done s true 0
      | some s1 => .done s1 false (handleWord e.tenant (handleAt s i).gen i bound)

/-- Remove block-table entries from page n on: each frame loses one refcount (R199). -/
def dropPages (p : Pool) (bt : List Nat) (n : Nat) : Pool := (bt.drop n).foldl decRef p

/-- hdl.trunc to a length (R199). -/
def truncHandle (s : State) (idx x : Nat) : State :=
  let e := handleAt s idx
  match tget s.pools e.pool with
  | none => s
  | some p =>
    let n := (x + p.p - 1) / p.p
    let p1 := dropPages p e.bt n
    let last := (e.bt.take n).getLast?
    let p2 := match last with
      | some f =>
        let y := frameOf p1 f
        if n = 0 ∨ y.ref ≠ 1 then p1 else setFrame p1 f { y with filled := min y.filled (x - (n - 1) * p.p) }
      | none => p1
    { s with pools := tset s.pools e.pool p2, handles := tset s.handles idx { e with w := x, bt := e.bt.take n } }

/-- hdl (R199). -/
def finHdl (s : State) (c : Cmd) : Fin :=
  let i := hIdx c.a
  let e := handleAt s i
  let x := nfld c.b.toNat 0 24
  if c.sub = 0 then .done s false (BitVec.ofNat 64 (e.c + 2 ^ 24 * e.w + 2 ^ 48 * e.pool))
  else if x < e.c ∨ e.w < x then .done s true 0
  else if c.sub = 1 then .done { s with handles := tset s.handles i { e with c := x } } false 0
  else .done (truncHandle s i x) false 0

/-! ## The Playbook (R200 to R202, R332, R333) -/

/-- The salt of a tenant. -/
def saltOf (s : State) (t : Nat) : List Byte := match tget s.tenants t with
  | some x => x.salt
  | none => []

/-- The chained hash of a block (R200). -/
def blockHash (salt : List Byte) (prev : Nat) (ids : List Byte) : Nat :=
  leNat (shake256 (natBytes 8 prev ++ salt ++ ids) 8)

/-- pfxh (R200). -/
def finPfxh (s : State) (k : Nat) (c : Cmd) : Fin :=
  if spadPresent s c.wg c.b.toNat 64 then
    .done s false (BitVec.ofNat 64 (blockHash (saltOf s c.tenant) c.a.toNat (cmdSpad s k c c.b.toNat 64)))
  else .wait

/-- The Playbook indices of a tenant, lowest first. -/
def pbIndices (s : State) (t : Nat) : List Nat := match tget s.tenants t with
  | some x => x.slices.flatMap fun sl => rangeFrom (64 * sl) 64
  | none => []

/-- The tenant's entry with a hash and a pool. -/
def pbFind (s : State) (t hash pool : Nat) : Option (Nat × PbEntry) :=
  firstSome (fun i => match tget s.playbook i with
    | some e => if e.hash.toNat = hash ∧ e.pool = pool then some (i, e) else none
    | none => none) (pbIndices s t)

/-- Whether the token ids stored in an entry's frames are a block's ids (R333). -/
def pbMatches (p : Pool) (e : PbEntry) (ids : List Nat) : Bool :=
  (e.frames.zipIdx).all fun x =>
    let f := frameOf p x.1
    decide (f.filled = p.p) && (List.range p.p).all fun q => decide ((tgetD f.ids q 0).toNat = ids.getD (x.2 * p.p + q) 0)

/-- The blocks matched: n more from block k; the entries, and whether a collision ended the match. -/
def pfxMatch (s : State) (p : Pool) (t pool bound : Nat) (hash : Nat → Nat) (ids : Nat → List Nat) : Nat → Nat → List (Nat × PbEntry) × Bool
  | _, 0 => ([], false)
  | k, n + 1 =>
    if bound < 16 * (k + 1) then ([], false)
    else match pbFind s t (hash k) pool with
      | none => ([], false)
      | some e =>
        if pbMatches p e.2 (ids k) then
          let r := pfxMatch s p t pool bound hash ids (k + 1) n
          (e :: r.1, r.2)
        else ([], true)

/-- Whether each frame of an entry can take one more refcount and pin. -/
def pbRoom (p : Pool) (e : PbEntry) : Bool :=
  !passLimit e.frames (fun f => (frameOf p f).ref) && !passLimit e.frames fun f => (frameOf p f).pins

/-- pfxl (R201). -/
def finPfxl (s : State) (k : Nat) (c : Cmd) : Fin :=
  let b := pfxBytes c
  if !spadPresent s c.wg b.1 b.2 then .wait
  else
    let i := hIdx c.b
    let e := handleAt s i
    match tget s.pools e.pool with
    | none => .done s true 0
    | some p =>
      if e.w ≠ 0 then .done s true 0
      else
        let n := pfxCount c
        let m := cmdSpad s k c b.1 b.2
        let rd (o i : Nat) : Nat := leNat ((m.drop o).take i)
        let r := pfxMatch s p c.tenant e.pool (hBound c.b) (fun j => rd (8 * j) 8)
          (fun j => (List.range 16).map fun i => rd (8 * n + 64 * j + 4 * i) 4) 0 n
        let s1 := if r.2 then { s with tenants := tmod s.tenants c.tenant fun t => { t with collide := t.collide + 1 } } else s
        let go := r.1.foldl (fun (acc : Pool × List (Nat × PbEntry) × Bool) x =>
          if acc.2.2 || !pbRoom acc.1 x.2 then (acc.1, acc.2.1, true)
          else (x.2.frames.foldl (fun q f => pinFrame (incRef q f) f) acc.1, acc.2.1 ++ [x], false)) (p, [], false)
        let got := go.2.1
        .done { s1 with
          pools := tset s1.pools e.pool go.1
          playbook := got.foldl (fun t x => tset t x.1 { x.2 with lasthit := curIter s c.launch }) s1.playbook
          handles := tset s1.handles i { e with
            c := 16 * got.length, w := 16 * got.length, bt := e.bt ++ got.flatMap fun x => x.2.frames } }
          go.2.2 (BitVec.ofNat 64 got.length)

/-- The age of an iteration number (R325). -/
def ageOf (s : State) (v : Nat) : Nat := (lastIter s + 2 ^ 32 - v % 2 ^ 32) % 2 ^ 32

/-- An entry leaves the Playbook: its frames lose a refcount (R202). -/
def dropEntry (s : State) (i : Nat) : State := match tget s.playbook i with
  | none => s
  | some e => modPool { s with playbook := tdel s.playbook i } e.pool fun p => e.frames.foldl decRef p

/-- One block of pfxi: the state, and none when the insertion stops with an error; otherwise whether an entry was written. -/
def insertBlock (s : State) (now t idx hash j : Nat) : State × Option Bool :=
  let h := handleAt s idx
  match tget s.pools h.pool with
  | none => (s, none)
  | some p =>
    if h.c < 16 * (j + 1) then (s, none)
    else match pbFind s t hash h.pool with
      | some e => ({ s with playbook := tset s.playbook e.1 { e.2 with lasthit := now } }, some false)
      | none =>
        let per := 16 / p.p
        let fs := (h.bt.drop (j * per)).take per
        let is := pbIndices s t
        let place := (is.find? fun i => !thas s.playbook i).or
          (leastBy (fun i => match tget s.playbook i with
            | some e => 2 ^ 32 - ageOf s e.lasthit
            | none => 0) is)
        match place with
        | none => (s, none)
        | some i =>
          if passLimit fs fun f => (frameOf p f).ref then (s, none)
          else
            let s1 := dropEntry s i
            let e : PbEntry := { hash := BitVec.ofNat 64 hash, pool := h.pool, frames := fs, lasthit := now }
            (modPool { s1 with playbook := tset s1.playbook i e } h.pool fun q => fs.foldl incRef q, some true)

/-- Insert n blocks from block j: the state, how many were written, and whether it stopped with an error. -/
def insertBlocks (s : State) (now t idx : Nat) (hash : Nat → Nat) : Nat → Nat → Nat → State × Nat × Bool
  | _, 0, got => (s, got, false)
  | j, n + 1, got => match insertBlock s now t idx (hash j) j with
    | (s1, none) => (s1, got, true)
    | (s1, some w) => insertBlocks s1 now t idx hash (j + 1) n (got + b2n w)

/-- pfxi (R202). -/
def finPfxi (s : State) (k : Nat) (c : Cmd) : Fin :=
  let b := pfxBytes c
  if !spadPresent s c.wg b.1 b.2 then .wait
  else
    let m := cmdSpad s k c b.1 b.2
    let r := insertBlocks s (curIter s c.launch) c.tenant (hIdx c.b) (fun j => leNat ((m.drop (8 * (j - pfxFirst c))).take 8))
      (pfxFirst c) (pfxCount c) 0
    .done r.1 r.2.2 (BitVec.ofNat 64 r.2.1)

/-! ## Completion and issue -/

/-- A page command reaches the page engine, or a gather has landed. -/
def finPage (s : State) (k : Nat) (c : Cmd) : Fin :=
  if c.paused then .wait
  else if c.op = opKvgat then finGat s k c
  else if !(acqReady s k c && relReady s k c) then .wait
  else if c.op = opPfxh then finPfxh s k c
  else if !pageOrder s k c then .wait
  else if !handleLive s c then .done s true 0
  else if c.op = opKvapp then finApp s k c
  else if c.op = opKvpin then finPin s c
  else if c.op = opKvfrk then finFrk s c
  else if c.op = opHdl then finHdl s c
  else if c.op = opPfxl then finPfxl s k c
  else finPfxi s k c

/-- Issue a page-engine instruction; a gather waits for the group's earlier commands to reach the page engine (R179). -/
def pageOp (op sub feat : Nat) (ga gb gc : Option (BitVec 5)) (res : Option (BitVec 5)) (fs : Bool) (sc : BitVec 2)
    (acq rel : Bool) (word : Word) (s : State) : Out :=
  onGroup s fun c g =>
    let rd (r : Option (BitVec 5)) : DWord := match r with
      | some x => readG g x.toNat
      | none => 0
    let resN : Option Nat := res.map BitVec.toNat
    let f0 : EForm := { word := word, op := op, sub := sub, fs := fs, sc := sc.toNat, acq := acq, rel := rel, a := rd ga
                        b := rd gb, c := rd gc, resG := resN, feat := some feat }
    let cmd := cmdOf s c g f0
    let f := { f0 with hold := decide (op = opKvgat) && (!pageOrder s s.nextKey cmd || pinsFull s cmd) }
    engIssue s c g (useE (([ga, gb, gc].filterMap id).map BitVec.toNat) resN) f
      (chkPage s g.wg (tenantOf s g.launch) cmd g.answered) (if op = opKvgat then enterGat else enterPlain)

/-- kvgat.k (R195). -/
def execKvgatK (ga gb gc : BitVec 5) (fs : Bool) (sc : BitVec 2) (acq rel : Bool) (s : State) : Out :=
  pageOp opKvgat 0 1 (some ga) (some gb) (some gc) none fs sc acq rel (wordOf (.kvgatK ga gb gc fs sc acq rel)) s
/-- kvgat.v (R195). -/
def execKvgatV (ga gb gc : BitVec 5) (fs : Bool) (sc : BitVec 2) (acq rel : Bool) (s : State) : Out :=
  pageOp opKvgat 1 1 (some ga) (some gb) (some gc) none fs sc acq rel (wordOf (.kvgatV ga gb gc fs sc acq rel)) s
/-- kvapp (R196). -/
def execKvapp (ga gb gc : BitVec 5) (fs : Bool) (sc : BitVec 2) (acq rel : Bool) (s : State) : Out :=
  pageOp opKvapp 0 1 (some ga) (some gb) (some gc) none fs sc acq rel (wordOf (.kvapp ga gb gc fs sc acq rel)) s
/-- kvpin.pin (R197). -/
def execKvpinPin (ga gb : BitVec 5) (fs : Bool) (sc : BitVec 2) (acq rel : Bool) (s : State) : Out :=
  pageOp opKvpin 0 1 (some ga) (some gb) none none fs sc acq rel (wordOf (.kvpinPin ga gb fs sc acq rel)) s
/-- kvpin.unpin (R197). -/
def execKvpinUnpin (ga gb : BitVec 5) (fs : Bool) (sc : BitVec 2) (acq rel : Bool) (s : State) : Out :=
  pageOp opKvpin 1 1 (some ga) (some gb) none none fs sc acq rel (wordOf (.kvpinUnpin ga gb fs sc acq rel)) s
/-- kvfrk (R198). -/
def execKvfrk (ga gb gc : BitVec 5) (fs : Bool) (sc : BitVec 2) (acq rel : Bool) (s : State) : Out :=
  pageOp opKvfrk 0 1 (some ga) (some gb) none (some gc) fs sc acq rel (wordOf (.kvfrk ga gb gc fs sc acq rel)) s
/-- hdl.query (R199). -/
def execHdlQuery (ga gc : BitVec 5) (fs : Bool) (sc : BitVec 2) (acq rel : Bool) (s : State) : Out :=
  pageOp opHdl 0 1 (some ga) none none (some gc) fs sc acq rel (wordOf (.hdlQuery ga gc fs sc acq rel)) s
/-- hdl.commit (R199). -/
def execHdlCommit (ga gb : BitVec 5) (fs : Bool) (sc : BitVec 2) (acq rel : Bool) (s : State) : Out :=
  pageOp opHdl 1 1 (some ga) (some gb) none none fs sc acq rel (wordOf (.hdlCommit ga gb fs sc acq rel)) s
/-- hdl.trunc (R199). -/
def execHdlTrunc (ga gb : BitVec 5) (fs : Bool) (sc : BitVec 2) (acq rel : Bool) (s : State) : Out :=
  pageOp opHdl 2 1 (some ga) (some gb) none none fs sc acq rel (wordOf (.hdlTrunc ga gb fs sc acq rel)) s
/-- pfxh (R200). -/
def execPfxh (ga gb gc : BitVec 5) (fs : Bool) (sc : BitVec 2) (acq rel : Bool) (s : State) : Out :=
  pageOp opPfxh 0 3 (some ga) (some gb) none (some gc) fs sc acq rel (wordOf (.pfxh ga gb gc fs sc acq rel)) s
/-- pfxl (R201): gC is the count in and the result. -/
def execPfxl (ga gb gc : BitVec 5) (fs : Bool) (sc : BitVec 2) (acq rel : Bool) (s : State) : Out :=
  pageOp opPfxl 0 3 (some ga) (some gb) (some gc) (some gc) fs sc acq rel (wordOf (.pfxl ga gb gc fs sc acq rel)) s
/-- pfxi (R202): gC is the block range and the result. -/
def execPfxi (ga gb gc : BitVec 5) (fs : Bool) (sc : BitVec 2) (acq rel : Bool) (s : State) : Out :=
  pageOp opPfxi 0 3 (some ga) (some gb) (some gc) (some gc) fs sc acq rel (wordOf (.pfxi ga gb gc fs sc acq rel)) s

end Sys2Proof.Machine
end

