-- ==== Sys2Proof/Machine/Alarm.lean ====
section
/-! DEFINITION. Alarm levels and zeroisation (R404, R405), and the device's times in clk (R3). -/

namespace Sys2Proof.Machine

/-- Microseconds in clk: 1.2 GHz (R3, R27). -/
def usClk (n : Nat) : Nat := 1200 * n

/-- The alarm level (R404): bits 0 to 7 stand for sensors [15:8]; zeroisation stands for TEMPC held. -/
def alarmLevel (s : State) : Nat :=
  let b := s.sec.bits
  if s.sec.zeroised || b.getLsbD 0 || b.getLsbD 4 then 3
  else if b.getLsbD 1 || b.getLsbD 3 || b.getLsbD 7 then 2
  else if b != 0 then 1 else 0

/-- Zeroisation (R405): the key store's keys go, the salts among them. -/
def zeroise (s : State) : State :=
  { s with
    sec := { s.sec with zeroised := true, devKeys := false, imageKey := none }
    tenants := tmap s.tenants fun _ t => { t with salt := zeros 16 }
    fab := { s.fab with pairs := tmap s.fab.pairs fun _ p => { p with key := [] }, ue := [] } }

/-- What follows from a change of the sensors: a rise fires the trigger, level 3 zeroises. -/
def alarmRise (s0 s1 : State) : State :=
  let s2 := if alarmLevel s0 < alarmLevel s1 then fireSnap s1 3 else s1
  if alarmLevel s2 = 3 && !s2.sec.zeroised then zeroise s2 else s2

/-- A sensor reports. -/
def raiseAlarm (s : State) (bit : Nat) : State :=
  alarmRise s { s with sec := { s.sec with bits := s.sec.bits ||| BitVec.ofNat 8 (2 ^ bit) } }

/-- TEMPC has been held for 10 ms. -/
def raiseHeld (s : State) : State := if s.sec.zeroised then s else zeroise (if alarmLevel s < 3 then fireSnap s 3 else s)

/-- A fabric or scale-out tag fails: 1,024 within 1 s raise FABAUTH (R373, R379, R404). -/
def tagFail (s : State) : State :=
  let ts := (s.sec.tagFails ++ [s.clk]).drop (s.sec.tagFails.length + 1 - 1024)
  let s1 := { s with sec := { s.sec with tagFails := ts } }
  if 1024 ≤ ts.length ∧ s.clk ≤ ts.headD 0 + usClk 1000000 then raiseAlarm s1 6 else s1

end Sys2Proof.Machine
end

