-- ==== Sys2Proof/Machine/Queues.lean ====
section
/-! DEFINITION. The host's side of the device (R14, R15, R32 to R37): BAR0 registers, submission and completion
queues, host memory, and the token streams. -/

namespace Sys2Proof.Machine

/-! ## Host memory -/

/-- Read host memory. -/
def hostRead (s : State) (a n : Nat) : List Byte := mread s.hostMem a n

/-- Write host memory; at alarm level 3 nothing leaves the device (R405). -/
def hostWrite (s : State) (a : Nat) (bs : List Byte) : State :=
  if alarmLevel s = 3 then s else { s with hostMem := mwrite s.hostMem a bs }

/-! ## Queue pairs (R32 to R37) -/

/-- A queue pair after reset. -/
def QPair.reset : QPair :=
  { sqb := 0, cqb := 0, en := false, err := false, cqsz := 0, sqsz := 0, sqhead := 0, sqtail := 0, cqtail := 0, cqhead := 0
    phase := false, busy := false, stopped := false, bells := [], post := [] }

/-- The queue pair q of a function. -/
def qpOf (s : State) (fn q : Nat) : QPair := tgetD (tgetD s.queues fn []) q QPair.reset

/-- Replace a queue pair. -/
def setQp (s : State) (fn q : Nat) (p : QPair) : State := { s with queues := tset s.queues fn (tset (tgetD s.queues fn []) q p) }

/-- Entries of the submission and of the completion queue (R34). -/
def sqLen (p : QPair) : Nat := 16 * 2 ^ p.sqsz
def cqLen (p : QPair) : Nat := 16 * 2 ^ p.cqsz

/-- Whether a function and queue pair exist: virtual functions once SRIOV is locked (R32, R42). -/
def qpExists (s : State) (fn q : Nat) : Bool :=
  if fn = 0 then decide (q < 64) else decide (q < 8) && decide (fn ≤ s.fixed.vfs) && s.locked && featOn s 13

/-- The completion queue is full when the tail is one entry behind the head (R37). -/
def cqFull (p : QPair) : Bool := decide ((p.cqtail + 1) % cqLen p = p.cqhead)

/-- The 16 bytes of a completion entry (R37). -/
def entryBytes (q : Nat) (phase : Bool) (cid : BitVec 16) (sqhead status : Nat) (res : DWord) : List Byte :=
  natBytes 2 q ++ natBytes 2 (b2n phase + 2 * status) ++ natBytes 2 sqhead ++ natBytes 2 cid.toNat ++ natBytes 8 res.toNat

/-- The status of a command that an alarm refuses (R38, R39). -/
def stAlarm : Nat := 14

/-- Write one entry at the completion tail and signal the vector (R34, R37). At level 3 every command returns ALARM, and DMA to the host
carries nothing else: any other completion, one that waited for room among them, is not written (R405). -/
def writeEntry (s : State) (fn q : Nat) (cid : BitVec 16) (sqhead status : Nat) (res : DWord) : State :=
  let p := qpOf s fn q
  let t := p.cqtail + 1
  let wraps := decide (t = cqLen p)
  if s.sec.zeroised && status != stAlarm then s
  else
  let s1 := { s with hostMem := mwrite s.hostMem (p.cqb.toNat + 16 * p.cqtail) (entryBytes q p.phase cid sqhead status res)
                     msix := s.msix ++ [(fn, q)] }
  setQp s1 fn q { p with cqtail := if wraps then 0 else t, phase := if wraps then !p.phase else p.phase }

/-- Entries that waited are written while there is room, n of them at most. -/
def drainPosts (s : State) (fn q : Nat) : Nat → State
  | 0 => s
  | n + 1 =>
    let p := qpOf s fn q
    match p.post with
    | [] => s
    | e :: t => if cqFull p then s
      else drainPosts (writeEntry (setQp s fn q { p with post := t }) fn q e.1 e.2.1 e.2.2.1 e.2.2.2) fn q n

/-- Post a completion: at once, or after those that wait for room. A queue pair that is disabled, or has been since the command
was read, drops it. DESIGN CHOICE (log 5): R34 does not say. -/
def complete (s : State) (o : Owed) (status : Nat) (res : DWord) : State :=
  let p := qpOf s o.fn o.q
  if !p.en || decide (p.era ≠ o.era) then s
  else drainPosts (setQp s o.fn o.q { p with post := p.post ++ [(o.cid, o.sqhead, status, res)] }) o.fn o.q (p.post.length + 1)

/-- The status codes (R38). -/
def stOk : Nat := 0
def stBadop : Nat := 1
def stBadfield : Nat := 2
def stNofeat : Nat := 3
def stNotready : Nat := 4
def stLocked : Nat := 5
def stBadtenant : Nat := 6
def stNores : Nat := 7
def stBound : Nat := 8
def stBadstate : Nat := 9
def stNotfound : Nat := 10
def stBadaddr : Nat := 11
def stBadimage : Nat := 12
def stAuth : Nat := 13
def stFaulted : Nat := 15
def stLost : Nat := 16
def stAborted : Nat := 17
def stBusy : Nat := 18

/-! ## Registers (R32 to R35) -/

/-- DSTS (R33): 0 before RDY (R403). -/
def dsts (s : State) : Word :=
  if !s.rdy then 0
  else BitVec.ofNat 32 (1 + 16 * b2n s.fatal + 32 * b2n s.locked + 64 * alarmLevel s)

/-- QCTL as it reads (R34). -/
def qctl (p : QPair) : Word :=
  BitVec.ofNat 32 (2 ^ 31 * b2n p.en + 2 ^ 30 * b2n p.err + 2 ^ 20 * p.cqsz + 2 ^ 16 * p.sqsz)

/-- A 32-bit word of a register of a function's BAR0; doorbells and other offsets read 0. -/
def regWord (s : State) (fn off : Nat) : Word :=
  if off = 0 then dsts s
  else
    let q := (off - 0x1000) / 32
    let p := qpOf s fn q
    if off < 0x1000 || !qpExists s fn q then 0
    else match off % 32 with
      | 0 => p.sqb.setWidth 32
      | 4 => (p.sqb >>> 32).setWidth 32
      | 8 => p.cqb.setWidth 32
      | 12 => (p.cqb >>> 32).setWidth 32
      | 16 => qctl p
      | _ => 0

/-- A read of BAR0 of a width in bytes (R32): 32-bit and 64-bit aligned accesses; any other is dropped and returns zero. -/
def regRead (s : State) (fn off width : Nat) : DWord :=
  if width = 4 && off % 4 = 0 then (regWord s fn off).setWidth 64
  else if width = 8 && off % 8 = 0 then (regWord s fn off).setWidth 64 + (regWord s fn (off + 4)).setWidth 64 <<< 32
  else 0

/-- A doorbell fault (R34, R35). -/
def bellFault (p : QPair) : QPair := { p with err := true, stopped := true }

/-- The requests admitted through a doorbell write enter once its commands have been read (R10). -/
def ringOut (s : State) (fn q : Nat) : State :=
  { s with reqs := tmap s.reqs fun _ r => if r.bell = some (fn, q) then { r with bell := none } else r }

/-- SQTDB (R35). DESIGN CHOICE (log 52): a write to a pair whose EN is 0 is ignored and sets no ERR; one to an enabled pair that a
doorbell fault has stopped still moves the tail. -/
def writeSqtdb (s : State) (fn q v : Nat) : State :=
  let p := qpOf s fn q
  let n := v % 65536
  let len := sqLen p
  let more := (n + len - p.sqtail) % len
  if !s.rdy || !p.en || !qpExists s fn q || n = p.sqtail then s
  else if len ≤ n || len ≤ (p.sqtail + len - p.sqhead) % len + more then setQp s fn q (bellFault p)
  else setQp s fn q { p with sqtail := n, bells := p.bells ++ [more] }

/-- CQHDB (R35). DESIGN CHOICE (log 52): as SQTDB where EN is 0, and where a doorbell fault has stopped the pair. -/
def writeCqhdb (s : State) (fn q v : Nat) : State :=
  let p := qpOf s fn q
  let n := v % 65536
  let len := cqLen p
  if !s.rdy || !p.en || !qpExists s fn q then s
  else if len ≤ n || (p.cqtail + len - p.cqhead) % len < (n + len - p.cqhead) % len then setQp s fn q (bellFault p)
  else drainPosts (setQp s fn q { p with cqhead := n }) fn q (p.post.length + 1)

/-- QCTL (R34): ERR is cleared by writing 1; sizes are taken while EN is 0; EN from 0 to 1 starts the pair anew. A command that was
read before and is not finished still keeps the next one from being read (R40). -/
def writeQctl (s : State) (fn q v : Nat) : State :=
  let p0 := qpOf s fn q
  let p := if nbit v 30 then { p0 with err := false } else p0
  if !qpExists s fn q then s
  else if p.en then setQp s fn q (if nbit v 31 then p else { p with en := false })
  else
    let p1 := { p with cqsz := nfld v 20 4, sqsz := nfld v 16 4 }
    if !nbit v 31 then setQp s fn q p1
    else if 8 < p1.sqsz || 8 < p1.cqsz then setQp s fn q { p1 with err := true }
    else ringOut (setQp s fn q { p1 with
      en := true, sqhead := 0, sqtail := 0, cqtail := 0, cqhead := 0, phase := true, era := p1.era + 1
      stopped := p1.stopped && p1.err, bells := [], post := [] }) fn q

/-- A half of a 64-bit register replaced. -/
def setWord (x : DWord) (hi : Bool) (v : Nat) : DWord :=
  BitVec.ofNat 64 (if hi then x.toNat % 2 ^ 32 + 2 ^ 32 * (v % 2 ^ 32) else x.toNat / 2 ^ 32 * 2 ^ 32 + v % 2 ^ 32)

/-- A base address: bits [5:0] are reserved. -/
def maskBase (x : DWord) : DWord := BitVec.ofNat 64 (x.toNat / 64 * 64)

/-- A 32-bit write of a register offset (R32, R34). -/
def regWrite (s : State) (fn off v : Nat) : State :=
  let q := (off - 0x1000) / 32
  let p := qpOf s fn q
  if off < 0x1000 || !qpExists s fn q then s
  else if off % 32 = 0 || off % 32 = 4 then
    if p.en then s else setQp s fn q { p with sqb := maskBase (setWord p.sqb (decide (off % 32 = 4)) v) }
  else if off % 32 = 8 || off % 32 = 12 then
    if p.en then s else setQp s fn q { p with cqb := maskBase (setWord p.cqb (decide (off % 32 = 12)) v) }
  else if off % 32 = 16 then writeQctl s fn q v
  else if off % 32 = 24 then writeSqtdb s fn q v
  else if off % 32 = 28 then writeCqhdb s fn q v
  else s

/-- SQTDB_WRITE (R35). -/
def execSqtdbWrite (fn q : Nat) (val : Word) (s : State) : Out := .next (writeSqtdb s fn q val.toNat)

/-- CQHDB_WRITE (R35). -/
def execCqhdbWrite (fn q : Nat) (val : Word) (s : State) : Out := .next (writeCqhdb s fn q val.toNat)

/-- QUEUE_ENABLE (R34): a write of QCTL with EN = 1 while EN is 0. -/
def execQueueEnable (fn q : Nat) (val : Word) (s : State) : Out :=
  .next (if nbit val.toNat 31 && !(qpOf s fn q).en then writeQctl s fn q val.toNat else s)

/-- QUEUE_DISABLE (R34): a write of QCTL with EN = 0 while EN is 1. -/
def execQueueDisable (fn q : Nat) (val : Word) (s : State) : Out :=
  .next (if !nbit val.toNat 31 && (qpOf s fn q).en then writeQctl s fn q val.toNat else s)

/-- QCTL_ERR_CLEAR (R34): a write of QCTL with ERR = 1. -/
def execQctlErrClear (fn q : Nat) (val : Word) (s : State) : Out :=
  .next (if nbit val.toNat 30 then writeQctl s fn q val.toNat else s)

/-- REGISTER_WRITE (R32): 32-bit and 64-bit aligned accesses; any other is dropped. -/
def execRegisterWrite (fn off width : Nat) (val : DWord) (s : State) : Out :=
  .next (if width = 4 && off % 4 = 0 then regWrite s fn off (val.toNat % 2 ^ 32)
    else if width = 8 && off % 8 = 0 then regWrite (regWrite s fn off (val.toNat % 2 ^ 32)) fn (off + 4) (val.toNat / 2 ^ 32)
    else s)

/-! ## Reading a command (R35, R37, R39, R40) -/

/-- Whether the command at the head of a queue can be read. -/
def canRead (s : State) (fn q : Nat) : Bool :=
  let p := qpOf s fn q
  s.rdy && !s.fatal && qpExists s fn q && p.en && !p.err && !p.stopped && !p.busy && decide (p.sqhead ≠ p.sqtail) &&
    p.post.isEmpty && !cqFull p

/-- The 64 bytes at the head of a queue. -/
def headBytes (s : State) (fn q : Nat) : List Byte :=
  let p := qpOf s fn q
  hostRead s (p.sqb.toNat + 64 * p.sqhead) 64

/-- A command has been read: the head moves on; the last of a doorbell write lets its requests enter (R10). -/
def advanceHead (s : State) (fn q : Nat) : State :=
  let p := qpOf s fn q
  let s1 := setQp s fn q { p with sqhead := (p.sqhead + 1) % sqLen p
                                  bells := match p.bells with
                                    | [] => []
                                    | n :: t => if n ≤ 1 then t else (n - 1) :: t }
  s1

/-- Whether the command just read was the last of its doorbell write. -/
def bellDone (p : QPair) : Bool := match p.bells with
  | [] => true
  | n :: _ => decide (n ≤ 1)

/-- What a command is owed. -/
def owedTo (s : State) (c : HostCmd) : Owed :=
  let p := qpOf s c.fn c.q
  { fn := c.fn, q := c.q, cid := c.cid, sqhead := (p.sqhead + 1) % sqLen p, era := p.era }

/-! ## Token streams (R14, R15) -/

/-- Whether record prod may be written: prod − consumer count < N (R14). -/
def streamRoom (t : Tenant) : Bool := decide ((t.prod + 2 ^ 32 - t.cons % 2 ^ 32) % 2 ^ 32 < 2 ^ t.ringLog)

/-- The 128 bits of a record (R15). -/
def streamBits (iter req pos tok reason : Nat) (last : Bool) : Nat :=
  tok % 2 ^ 32 + 2 ^ 32 * (pos % 2 ^ 32) + 2 ^ 64 * (req % 65536) + 2 ^ 80 * (reason % 16) + 2 ^ 84 * b2n last + 2 ^ 96 * (iter % 2 ^ 32)

/-- Write one record, then the producer count as a release (R14). -/
def writeRecord (s : State) (tn : Nat) (bits : Nat) : State := match tget s.tenants tn with
  | none => s
  | some t =>
    let s1 := hostWrite s (t.ring + 64 + 16 * (t.prod % 2 ^ t.ringLog)) (natBytes 16 bits)
    let p := (t.prod + 1) % 2 ^ 32
    let s2 := hostWrite s1 t.ring (natBytes 4 p)
    { s2 with tenants := tset s2.tenants tn { t with prod := p } }

end Sys2Proof.Machine
end

