-- ==== Sys2Proof/Machine/Export.lean ====
section
/-! DEFINITION. A KV hand-off from the exporter's side (R353, R379): when it starts, what it sends, how it ends. -/

namespace Sys2Proof.Machine

/-- Change a request, if it exists. -/
def modReq (s : State) (i : Nat) (f : Request → Request) : State := { s with reqs := tmod s.reqs i f }

/-- The states in which KV_EXPORT is accepted (R353). -/
def exportable (st : ReqSt) : Bool := match st with
  | .decode => true
  | .spec => true
  | .paused => true
  | .done => true
  | _ => false

/-- A transfer is over: it leaves the table with its unacknowledged packets, and its command completes. -/
def endXfer (s : State) (k : Nat) (status : Nat) (res : DWord) : State := match tget s.fab.xfers k with
  | none => s
  | some x => complete { s with fab := { s.fab with xfers := tdel s.fab.xfers k
                                                    sent := s.fab.sent.filter fun y => y.xfer != some k } } x.owed status res

/-- An export fails: XPEND is cleared, the state is unchanged, the command completes ABORTED (R353, R379). -/
def failExport (s : State) (k : Nat) : State := match tget s.fab.xfers k with
  | none => s
  | some x => endXfer (modReq s x.req fun r => { r with exporting := none, xpend := false }) k stAborted 0

/-- The peer has acknowledged its import: EXPORTED (R340, R353). -/
def doneExport (s : State) (k : Nat) : State := match tget s.fab.xfers k with
  | none => s
  | some x => endXfer (modReq s x.req fun r => { r with exporting := none, xpend := false, st := .exported }) k stOk 0

/-- Whether messages can be sent to the peer: a key is held (R373, R379). -/
def canHand (s : State) (zoubry : Bool) (peer : Nat) : Bool :=
  if zoubry then canSend s peer else match tget s.fab.ue peer with
    | some k => !k.key.isEmpty
    | none => false

/-! ## Messages as bytes (R372, R379; log 20) -/

/-- Numbers of 8 bytes each. -/
def dwords (l : List Nat) : List Byte := l.flatMap (natBytes 8)

/-- Words as bytes. -/
def wordBytes (l : List Word) : List Byte := l.flatMap fun w => natBytes 4 w.toNat

/-- Bytes as words. -/
def bytesWords (n : Nat) (bs : List Byte) : List Word := (List.range n).map fun i => BitVec.ofNat 32 (leNat ((bs.drop (4 * i)).take 4))

/-- The bytes of a message. -/
def kvBytes : KvBody → List Byte
  | .imported => dwords [2]
  | .page f l bs ids => dwords [1, f, l, bs.length, ids.length] ++ bs ++ wordBytes ids
  | .manifest m =>
    dwords [0, m.tag, m.plen, m.committed, m.nextin.toNat, m.seed.toNat, m.streampos, m.temp.toNat, m.minp.toNat, m.prio, m.specc,
      m.maxnew, m.p, m.layers, m.bp, m.etype, m.stopctl.length, m.stoptok.length, m.stopseq.length] ++
      m.stopctl ++ wordBytes m.stoptok ++ wordBytes m.stopseq

/-- The message that bytes say, if any. -/
def kvParse (bs : List Byte) : Option KvBody :=
  let f (i : Nat) : Nat := leNat ((bs.drop (8 * i)).take 8)
  if f 0 = 2 then some .imported
  else if f 0 = 1 then
    let rest := bs.drop 40
    some (.page (f 1) (f 2) (rest.take (f 3)) (bytesWords (f 4) (rest.drop (f 3))))
  else if f 0 = 0 then
    let rest := bs.drop 152
    let toks := rest.drop (f 16)
    some (.manifest { tag := f 1, plen := f 2, committed := f 3, nextin := BitVec.ofNat 32 (f 4), seed := BitVec.ofNat 64 (f 5)
                      streampos := f 6, temp := BitVec.ofNat 32 (f 7), minp := BitVec.ofNat 32 (f 8), prio := f 9, specc := f 10
                      maxnew := f 11, p := f 12, layers := f 13, bp := f 14, etype := f 15, stopctl := rest.take (f 16)
                      stoptok := bytesWords (f 17) toks, stopseq := bytesWords (f 18) (toks.drop (4 * f 17)) })
  else none

/-- The number of a message within its transfer. -/
def kvNo : KvBody → Nat
  | .imported => 0
  | .manifest _ => 1
  | .page f l _ _ => 2 + f * 65536 + l

/-- The payloads of the KVXFER packets that carry a message: 32 bytes that name the piece, and up to 4,064 of the message. -/
def kvPieces (b : KvBody) : List (List Byte) :=
  let bs := kvBytes b
  (List.range ((bs.length + 4063) / 4064)).map fun i =>
    let part := (bs.drop (4064 * i)).take 4064
    let full := dwords [kvNo b, bs.length, 4064 * i, part.length] ++ part
    full ++ zeros (roundUp full.length 32 - full.length)

/-- The piece that a payload carries: the message's number and length, and the piece's offset and bytes. -/
def kvPiece (bs : List Byte) : Nat × Nat × Nat × List Byte :=
  let f (i : Nat) : Nat := leNat ((bs.drop (8 * i)).take 8)
  (f 0, f 1, f 2, (bs.drop 32).take (f 3))

/-- The tag of a scale-out message (R379): the nonce has 31 zero bits, the role and the counter; the header, which holds the transfer
tag, is the additional authenticated data, and the counter goes ahead of it in clear. -/
def ueSeal (key : List Byte) (role : Bool) (counter tag : Nat) (b : KvBody) : List Byte :=
  (gcmSeal key (b2n role * 2 ^ 64 + counter) (dwords [tag]) (kvBytes b)).2

/-- Send the KVXFER packets of a message as far as the peer can be sent to: the state, and whether all were sent (R373, R379). -/
def sendPieces (s : State) (y : KvXfer) (xfer : Option Nat) : List (List Byte) → State × Bool
  | [] => (s, true)
  | bs :: t =>
    if canSend s y.peer then
      sendPieces (sendRequest s pktKv y.peer (y.tag % 2 ^ 48) 0 bs (confidential s y.tenant) none 0 xfer) y xfer t
    else (s, false)

/-- Send one message of a hand-off: KVXFER packets, or a sealed message with the counter of its role (R379); and whether all of it was
sent. -/
def handOver (s : State) (y : KvXfer) (role : Bool) (xfer : Option Nat) (b : KvBody) : State × Bool :=
  if y.zoubry then sendPieces s y xfer (kvPieces b)
  else match tget s.fab.ue y.peer with
    | none => (s, false)
    | some k =>
      let peer := y.peer
      let n := if role then k.next else k.ack
      let m : UeMsg := { peer := peer, role := role, counter := n, mac := ueSeal k.key role n y.tag b, tag := y.tag, body := b }
      ({ s with fab := { s.fab with
          ue := tset s.fab.ue peer (if role then { k with next := k.next + 1 } else { k with ack := k.ack + 1 })
          ueOut := s.fab.ueOut ++ [m] } }, true)

/-- Send the messages of an export, as far as the peer can be sent to. -/
def handAll (s : State) (x : KvXfer) (k : Nat) : List KvBody → State × Bool
  | [] => (s, true)
  | b :: t =>
    let r := handOver s x true (some k) b
    if r.2 then handAll r.1 x k t else r

/-- The manifest of a request (R379). -/
def manifestOf (r : Request) (p : Pool) (tag : Nat) : KvManifest :=
  { tag := tag, plen := r.plen, committed := r.committed, nextin := r.nextin, seed := r.seed, streampos := r.streampos
    temp := r.temp, minp := r.minp, prio := r.prio, specc := r.specc, stopctl := r.stopctl, stoptok := r.stoptok
    stopseq := r.stopseq, maxnew := r.maxnew - (r.committed - r.plen), p := p.p, layers := p.layers, bp := p.bp, etype := p.etype }

/-- Where each layer page of a handle's committed frames lies: frame slot, layer, frame, and the place (R379). -/
def exportLocs (s : State) (p : Pool) (h : Handle) : List (Nat × Nat × Nat × Loc) :=
  ((h.bt.take ((h.c + p.p - 1) / p.p)).zipIdx).flatMap fun e => (List.range p.layers).map fun l =>
    let x := frameOf p e.1
    (e.2, l, e.1, frameLoc s p e.1 l (decide (x.st = .tier2) || decide (x.st = .fetching)))

/-- The message of one layer page with the frame's token ids. -/
def pageBody (s : State) (p : Pool) (e : Nat × Nat × Nat × Loc) : KvBody :=
  .page e.1 e.2.1 (locRead s e.2.2.2 0 p.bp).1 ((List.range p.p).map fun q => tgetD (frameOf p e.2.2.1).ids q 0)

/-- An export starts (R353, R379): XPEND is set and every message is sent; with no key for the peer, or with a page
that is not mapped, it ends ABORTED. -/
def startExport (s : State) (k : Nat) : State := match tget s.fab.xfers k with
  | none => s
  | some x => match tget s.reqs x.req with
    | none => failExport s k
    | some r =>
      let h := handleAt s (hIdx r.handle)
      match tget s.pools h.pool with
      | none => failExport s k
      | some p =>
        let s1 := modReq { s with fab := { s.fab with xfers := tset s.fab.xfers k { x with since := s.clk } } } x.req fun r =>
          { r with exporting := some k, wantExport := none, xpend := true }
        let ls := exportLocs s p h
        if !canHand s x.zoubry x.peer || ls.any fun e => (locFault s e.2.2.2 0 p.bp false).isSome then failExport s1 k
        else
          let sent := handAll s1 x k (KvBody.manifest (manifestOf r p x.tag) :: ls.map (pageBody s p))
          if sent.2 then sent.1 else failExport sent.1 k

end Sys2Proof.Machine
end

