-- ==== Sys2Proof/Machine/Fabric.lean ====
section
/-! DEFINITION. Opcodes 0x68 to 0x6F and 0x77 at issue (R204, R207 to R214), the packets their commands send, and the
reductions (R209 to R211, R378). What arriving packets do is in FabricEvents. -/

namespace Sys2Proof.Machine

def opFput : Nat := 0x68
def opFget : Nat := 0x69
def opFatom : Nat := 0x6A
def opFred : Nat := 0x6B
def opLzres : Nat := 0x6C
def opLzarm : Nat := 0x6D
def opLzrel : Nat := 0x6E
def opXred : Nat := 0x77

/-! ## Fields -/

/-- Bytes and area offset of the length word (R207). -/
def lenBytes (c : Cmd) : Nat := nfld c.c.toNat 0 32
def lenOff (c : Cmd) : Nat := nfld c.c.toNat 32 24

/-- Whether an fput goes to a catch slot. -/
def isCatch (c : Cmd) : Bool := decide (c.op = opFput) && decide (2 ≤ c.sub)

/-- Whether the local side of an fput or fget is the scratchpad. -/
def localSpad (c : Cmd) : Bool := if c.op = opFput then decide (c.sub = 1) || decide (c.sub = 2) else decide (c.sub = 1)

/-- The local operand of an fput or fget. -/
def localOperand (c : Cmd) : DWord := if c.op = opFput then c.a else c.b

/-- Bytes of a fatom (R208). -/
def fatomSize (c : Cmd) : Nat := if 16 ≤ c.sub then 8 else 4

/-- Device, core, slot and reservation id of a reservation word or slot word (R212). -/
def rwDev (w : DWord) : Nat := nfld w.toNat 0 12
def rwCore (w : DWord) : Nat := nfld w.toNat 12 8
def rwSlot (w : DWord) : Nat := nfld w.toNat 20 4
def rwId (w : DWord) : Nat := nfld w.toNat 24 16

/-- First device and rank count of a rank-set word (R209). -/
def rsFirst (w : DWord) : Nat := nfld w.toNat 0 12
def rsCount (w : DWord) : Nat := nfld w.toNat 12 12 + 1

/-- Destination offset of a reduction; records of fred, blocks of xred. -/
def redDst (c : Cmd) : Nat := nfld c.c.toNat 0 32
def redCount (c : Cmd) : Nat := if c.op = opFred then nfld c.c.toNat 32 8 + 1 else nfld c.c.toNat 32 16

/-- The operation: fred's own, nmax for xred.exp, iadd for xred.sum (R210, R211). -/
def redOp (c : Cmd) : Nat := if c.op = opFred then nfld c.c.toNat 40 4 else if c.sub = 0 then 2 else 1

/-- Bytes of a record of an operation. -/
def recBytes (op : Nat) : Nat := if op = 0 then 8 else 4

/-- Block type of xred: 5 dsb8, 6 dsb4. -/
def xredType (c : Cmd) : Nat := if nbit c.c.toNat 48 then 6 else 5

/-! ## Acceptance checks (R204, R207 to R212) -/

/-- The length word's limits. -/
def lenNd (c : Cmd) : Bool :=
  let n := lenBytes c
  decide (n % 32 ≠ 0) || decide (n = 0) || decide (2 ^ 31 < n) || decide (2 ^ 56 ≤ c.c.toNat) ||
    (if isCatch c then decide (lenOff c % 32 ≠ 0) else decide (2 ^ 32 ≤ c.c.toNat))

/-- The checks of fput and fget. DEDUCED (log 41): every operand of an fget, too, is a multiple of 32, or MISALIGN is raised; R207's table
states the multiple for the operands of fput alone. -/
def chkMove (s : State) (w : Nat) (c : Cmd) : EChk :=
  let l := localOperand c
  let remote := if c.op = opFput then c.b else c.a
  (chkIf (lenNd c || (if isCatch c then decide (2 ^ 40 ≤ c.b.toNat) else !inWindow remote) ||
    (localSpad c && decide (2 ^ 32 ≤ l.toNat))) .illopnd 0).then <|
  (chkIf (decide (l.toNat % 32 ≠ 0)) .misalign l.toNat).then <|
  (chkIf (!isCatch c && decide (remote.toNat % 32 ≠ 0)) .misalign remote.toNat).then <|
  (if localSpad c then chkSpad s w l.toNat (lenBytes c) else chkFab l)

/-- The checks of a rank-set word (R209). -/
def rankNd (s : State) (w : DWord) : Bool :=
  decide (nfld w.toNat 24 8 ≠ 0) || decide (s.fab.devId < rsFirst w) || decide (rsFirst w + rsCount w ≤ s.fab.devId) ||
    decide (2 ^ 12 < rsFirst w + rsCount w) || (!featOn s 6 && decide (1 < rsCount w))

/-- The checks of fred. DEDUCED (log 41): an offset that is not the stated multiple raises MISALIGN; R210 names no trap. -/
def chkFred (s : State) (w : Nat) (c : Cmd) : EChk :=
  let n := redCount c * recBytes (redOp c)
  (chkIf (decide (2 ^ 32 ≤ c.a.toNat) || decide (2 ^ 44 ≤ c.c.toNat) || decide (2 < redOp c) || rankNd s c.b) .illopnd 0).then <|
  (chkIf (decide (c.a.toNat % 8 ≠ 0)) .misalign c.a.toNat).then <|
  (chkIf (decide (redDst c % 8 ≠ 0)) .misalign (redDst c)).then <|
  (chkSpad s w c.a.toNat n).then (chkSpad s w (redDst c) n)

/-- The checks of xred. DEDUCED (log 41): an offset that is not the stated multiple raises MISALIGN; R211 names no trap. -/
def chkXred (s : State) (w : Nat) (c : Cmd) : EChk :=
  let n := redCount c
  (chkIf (decide (2 ^ 32 ≤ c.a.toNat) || decide (2 ^ 49 ≤ c.c.toNat) || decide (n = 0) || decide (1024 < n) || rankNd s c.b) .illopnd 0).then <|
  (chkIf (decide (c.a.toNat % 64 ≠ 0)) .misalign c.a.toNat).then <|
  (chkIf (decide (redDst c % 128 ≠ 0)) .misalign (redDst c)).then <|
  (chkSpad s w c.a.toNat (64 * n)).then (if c.sub = 0 then .ok else chkSpad s w (redDst c) (128 * n))

/-- The checks of lzarm. -/
def chkArm (s : State) (w : Nat) (c : Cmd) : EChk :=
  let off := nfld c.b.toNat 0 32
  let t := nfld c.b.toNat 32 24
  (chkIf (decide (16 ≤ c.a.toNat) || decide (2 ^ 56 ≤ c.b.toNat) || decide (t % 32 ≠ 0) || decide (2 ^ 21 ≤ c.c.toNat)) .illopnd 0).then <|
  (chkIf (decide (off % 128 ≠ 0)) .misalign off).then (chkSpad s w off t)

/-- The acceptance checks of a fabric command, at issue and in a chain entry. DESIGN CHOICE (log 52): a bit of gA [63:4] of lzrel or lzq
that is set raises ILLOPND; R214 names slot gA [3:0] alone. -/
def chkFabric (s : State) (w : Nat) (c : Cmd) : EChk :=
  if c.op = opFput || c.op = opFget then chkMove s w c
  else if c.op = opFatom then
    (chkIf (!inWindow c.a) .illopnd 0).then (chkIf (decide (c.a.toNat % fatomSize c ≠ 0)) .misalign c.a.toNat)
  else if c.op = opFred then chkFred s w c
  else if c.op = opXred then chkXred s w c
  else if c.op = opLzres then chkIf (decide (2 ^ 24 ≤ c.a.toNat)) .illopnd 0
  else if c.op = opLzarm then chkArm s w c
  else chkIf (decide (16 ≤ c.a.toNat)) .illopnd 0

/-! ## Failure and the abort of a catch transfer (R207, R208, R212, R373, R376) -/

/-- The requests of a command are no longer awaited. -/
def dropSent (s : State) (k : Nat) : State :=
  { s with fab := { s.fab with sent := s.fab.sent.filter fun x => x.cmd != some k } }

/-- The phase of a fabric command that has failed and has only to complete. -/
def phFailed : Nat := 3

/-- A fabric command fails: it completes with FLAGERR once its release allows; a fatom leaves gC, an lzres gives 0. -/
def failCmd (s : State) (k : Nat) (c : Cmd) : State :=
  let s1 := modCmd (dropSent s k) k fun d =>
    { d with resG := if c.op = opFatom then none else d.resG, result := 0, phase := phFailed, failed := true, paused := false }
  endFailed s1 k

/-- The phases of a catch transfer that aborts: every packet may still have been accepted, one has been refused, or its slot has turned
TORN and what became of some packets is not known. -/
def phAborts : Nat := 2
def phRefused : Nat := 4
def phTorn : Nat := 5

/-- Whether a catch transfer aborts. -/
def aborting (c : Cmd) : Bool := decide (c.phase = phAborts) || decide (c.phase = phRefused) || decide (c.phase = phTorn)

/-- The requests of a command are not sent again, but their acknowledgements still count (R365). -/
def spendSent (s : State) (k : Nat) : State :=
  { s with fab := { s.fab with sent := s.fab.sent.map fun x => if x.cmd = some k then { x with tries := 9 } else x } }

/-- The transfer of a command is aborted (R373). A catch transfer sends ABORT to its slot (R376): it ends with the TORN packet, with
the acknowledgement of its last packet, or by its timer; one whose slot has turned TORN ends at once. -/
def abortFabric (s : State) (k : Nat) (refused : Bool) : State := match tget s.cmds k with
  | none => dropSent s k
  | some c =>
    if isCatch c && decide (c.phase ≠ phTorn) && canSend s (rwDev c.b) then
      if aborting c then if refused then modCmd s k fun d => { d with phase := phRefused } else s
      else
        sendRequest (modCmd (spendSent s k) k fun d => { d with phase := if refused then phRefused else phAborts }) pktAbort (rwDev c.b)
          (afCatch (rwId c.b) (rwCore c.b) (rwSlot c.b) 0) 0 [] false none 0 none c.core
    else failCmd s k c

/-! ## Sending: fput, fget, fatom, lzres (R207, R208, R212, R375) -/

/-- The remote address of an fput or fget. -/
def remoteVa (c : Cmd) : Nat := (if c.op = opFput then c.b else c.a).toNat

/-- Bytes of the remote 4 KiB that lie before the transfer: packets end at multiples of 4 KiB of the window, so that none crosses into
another device's (R68). -/
def partBase (c : Cmd) : Nat := if isCatch c then 0 else remoteVa c % 4096

/-- Packets of at most 4 KiB. -/
def moveParts (c : Cmd) : Nat := (partBase c + lenBytes c + 4095) / 4096
/-- Where packet i begins in the transfer, and its bytes. -/
def partOff (c : Cmd) (i : Nat) : Nat := 4096 * i - partBase c
def partLen (c : Cmd) (i : Nat) : Nat := min (4096 * (i + 1) - partBase c) (lenBytes c) - partOff c i

/-- The window bytes a command names. -/
def remoteRange (c : Cmd) : Option (Nat × Nat) :=
  if c.op = opFput then if c.sub < 2 then some (c.b.toNat, lenBytes c) else none
  else if c.op = opFget then some (c.a.toNat, lenBytes c)
  else if c.op = opFatom then some (c.a.toNat, fatomSize c)
  else none

/-- An earlier transfer of the group instance, not yet acknowledged, that overlaps n window bytes at a (R375). -/
def windowHeld (s : State) (k : Nat) (c : Cmd) (a n : Nat) : Bool :=
  c.chain.isNone && (
    (s.ops.any fun e => decide (e.1 < k) && decide (e.2.inst = c.inst) && pendsOn e.2 a n) ||
    s.cmds.any fun e => decide (e.1 < k) && decide (e.2.inst = c.inst) && e.2.chain.isNone && (match remoteRange e.2 with
      | some r => overlaps r.1 r.2 a n
      | none => false))

/-- The release that stands before the first packet of an fput (R204). -/
def sendReady (s : State) (k : Nat) (c : Cmd) : Bool := acqReady s k c && (c.op != opFput || relReady s k c)

/-- Packet i of an fput leaves; what lies beyond the last device's window is a remote failure (R207). -/
def sendPut (s : State) (k i : Nat) (c : Cmd) : State :=
  let n := partLen c i
  match engRead s k c (localSpad c) (c.a.toNat + partOff c i) n with
  | .wait => s
  | .fault code va => engFault s k code va
  | .bytes bs bad =>
    if isCatch c then
      if canSend s (rwDev c.b) then
        markLanded (sendRequest s pktCatch (rwDev c.b) (afCatch (rwId c.b) (rwCore c.b) (rwSlot c.b) (lenOff c + partOff c i)) 0
          bs (confidential s c.tenant) (some k) i none c.core) k i bad
      else abortFabric s k true
    else
      let a := c.b.toNat + partOff c i
      if windowHeld s k c a n then s
      else if nbit a 54 && canSend s (winDev a) then
        markLanded (sendRequest s pktWrite (winDev a) (afWindow c.tenant (winOff a)) 0 bs (confidential s c.tenant) (some k) i none) k i bad
      else abortFabric s k true

/-- The request of packet i of an fget leaves. -/
def sendGet (s : State) (k i : Nat) (c : Cmd) : State :=
  let a := c.a.toNat + partOff c i
  if windowHeld s k c a (partLen c i) then s
  else if nbit a 54 && canSend s (winDev a) then
    markLanded (sendRequest s pktRead (winDev a) (afWindow c.tenant (winOff a)) 0 (natBytes 4 (partLen c i) ++ zeros 28)
      (confidential s c.tenant) (some k) i none) k i false
  else abortFabric s k true

/-- A fatom leaves (R372). -/
def sendAtomic (s : State) (k : Nat) (c : Cmd) : State :=
  let a := c.a.toNat
  if windowHeld s k c a (fatomSize c) then s
  else if canSend s (winDev a) then
    markLanded (sendRequest s pktAtomic (winDev a) (afWindow c.tenant (winOff a)) 0
      (natBytes 8 c.b.toNat ++ natBytes 8 c.c.toNat ++ natBytes 1 c.sub ++ natBytes 1 (a % 32) ++ zeros 14)
      (confidential s c.tenant) (some k) 0 none) k 0 false
  else abortFabric s k true

/-- An lzres leaves. -/
def sendResv (s : State) (k : Nat) (c : Cmd) : State :=
  if canSend s (rwDev c.a) then
    markLanded (sendRequest s pktResv (rwDev c.a) (afCatch 0 (rwCore c.a) (rwSlot c.a) 0) 0 [] false (some k) 0 none c.core) k 0 false
  else abortFabric s k true

/-! ## Reductions (R209 to R211, R378) -/

/-- Whether a tenant's reductions are formed at the root (R209). -/
def inNet (s : State) (t : Nat) : Bool := featOn s 7 && !confidential s t

/-- The parts a reduction's data are sent in: 512 records of xred.exp, 16 blocks of xred.sum. -/
def redParts (c : Cmd) : Nat :=
  if c.op = opFred then 1 else if c.sub = 0 then (redCount c + 511) / 512 else (redCount c + 15) / 16

/-- The name of part u of a command's reduction. -/
def redKey (c : Cmd) (u : Nat) : RedKey :=
  { tenant := c.tenant, ranks := c.b, red := c.c, unit := 4 * u + (if c.op = opFred then 0 else 1 + c.sub) }

/-- The blocks of part u of an xred. -/
def xredBlocks (c : Cmd) (u : Nat) : List Nat :=
  let n := if c.sub = 0 then 512 else 16
  (rangeFrom (n * u) n).filter fun b => decide (b < redCount c)

/-- Phase two of one block (R211): its 32 integers, and whether an exponent stands above the agreed one. -/
def xredVals (t : Nat) (b : List Byte) : List Int × Bool :=
  let byte (i : Nat) : Nat := (b.getD i 0).toNat
  let top := (blockParams t).1 + 1
  let a := byte 63
  let es := (List.range 32).map fun k =>
    let x := if t = 5 then byte (2 + k) else nfld (byte (2 + k / 2)) (4 * (k % 2)) 4
    let e := if x / (2 * top) % 2 = 1 then byte 1 else byte 0
    if a < e then ((0 : Int), true)
    else
      let r : Int := roundMul 0 (x / top % 2 == 1) (x % top) ((e : Int) - a + 8) 0
      (if x / top % 2 = 1 then -r else r, false)
  (es.map Prod.fst, es.any Prod.snd)

/-- This rank's contribution to part u, and whether it reports an error. -/
def redOwn (s : State) (k : Nat) (c : Cmd) (u : Nat) : List Byte × Bool :=
  let rd (o n : Nat) : List Byte := cmdSpad s k c (c.a.toNat + o) n
  if c.op = opFred then (rd 0 (redCount c * recBytes (redOp c)), false)
  else if c.sub = 0 then ((xredBlocks c u).flatMap fun b => natBytes 4 (leNat (rd (64 * b) 1)), false)
  else
    let vs := (xredBlocks c u).map fun b => xredVals (xredType c) (rd (64 * b) 64)
    (vs.flatMap fun v => v.1.flatMap fun x => natBytes 4 (BitVec.ofInt 32 x).toNat, vs.any Prod.snd)

/-- Whether the first record of argmax gives way to the second (R210): NaN below −∞, equal values to the lower index. Two NaNs of
one index stand in an order that the spec leaves open and that is one for all ranks (log 19). -/
def argLess (a b : Nat) : Bool :=
  let va := fval fmtF32 (a % 2 ^ 32)
  let vb := fval fmtF32 (b % 2 ^ 32)
  let lower := decide (b / 2 ^ 32 < a / 2 ^ 32)
  let ra := (Config.argRank (a % 2 ^ 32), a % 2 ^ 32)
  let rb := (Config.argRank (b % 2 ^ 32), b % 2 ^ 32)
  if isNan va then !isNan vb || lower || (decide (a / 2 ^ 32 = b / 2 ^ 32) && (decide (ra.1 < rb.1) || (decide (ra.1 = rb.1) && decide (ra.2 < rb.2))))
  else if isNan vb then false
  else flt true va vb || (!flt true vb va && lower)

/-- Two records combined. -/
def redPair (op a b : Nat) : Nat :=
  if op = 0 then (if argLess a b then b else a) else if op = 1 then (a + b) % 2 ^ 32 else max a b

/-- Two lists of records combined. -/
def redCombine (op : Nat) (a b : List Byte) : List Byte :=
  let n := recBytes op
  (List.range (a.length / n)).flatMap fun i =>
    natBytes n (redPair op (leNat ((a.drop (n * i)).take n)) (leNat ((b.drop (n * i)).take n)))

/-- The operation of a reduction by its name. -/
def keyOp (k : RedKey) : Nat := if k.unit % 4 = 0 then nfld k.red.toNat 40 4 else if k.unit % 4 = 1 then 2 else 1

/-- Bytes of a bitmap of ranks in a packet. -/
def bitmapLen (w : DWord) : Nat := roundUp ((rsCount w + 7) / 8) 32

/-- The payload of REDUCE and REDRESULT (log 19): the two words, tenant and part, the bitmap of ranks, the records. -/
def redPayload (k : RedKey) (ranks : NatSet) (data : List Byte) : List Byte :=
  pad32 (natBytes 8 k.ranks.toNat ++ natBytes 8 k.red.toNat ++ natBytes 4 k.tenant ++ natBytes 4 k.unit ++ natBytes 8 data.length ++
    natBytes (bitmapLen k.ranks) (maskNat ranks) ++ data)

/-- Read a payload: name, ranks, records. -/
def redParse (bs : List Byte) : RedKey × NatSet × List Byte :=
  let f (o n : Nat) : Nat := leNat ((bs.drop o).take n)
  let k : RedKey := { tenant := f 16 4, ranks := BitVec.ofNat 64 (f 0 8), red := BitVec.ofNat 64 (f 8 8), unit := f 20 4 }
  let b := bitmapLen k.ranks
  (k, (List.range (rsCount k.ranks)).filter (nbit (f 32 b)), (bs.drop (32 + b)).take (f 24 8))

/-- Send a REDUCE packet to a device, for a command or as an answer. -/
def sendReduce (s : State) (k : RedKey) (retx : Bool) (dst : Nat) (ranks : NatSet) (data : List Byte) (cmd : Option Nat) (unit : Nat) : State :=
  sendRequest s pktReduce dst (b2n retx) 0 (redPayload k ranks data) (confidential s k.tenant) cmd unit none

/-- Keep this rank's own contribution, which answers contributions sent again (R378). -/
def keepOwn (s : State) (f : Fold) : State := { s with fab := { s.fab with kept := s.fab.kept ++ [f] } }

/-- Whether every rank of a reduction is there. -/
def foldFull (f : Fold) : Bool := decide (f.got.length = rsCount f.key.ranks)

/-- Keep a result: those of the last 64 reductions of its rank set, with all their parts (R378). A rank's own contributions, which hold
that rank alone, stand beside them. -/
def keepFold (s : State) (f : Fold) : State :=
  let name (g : Fold) : RedKey := { g.key with unit := g.key.unit % 4 }
  let same (g : Fold) : Bool := foldFull g && decide (g.key.ranks.toNat % 2 ^ 32 = f.key.ranks.toNat % 2 ^ 32)
  let others := ((s.fab.kept.filter fun g => same g && name g != name f).map name).eraseDups
  let drop := others.take (others.length + 1 - 64)
  keepOwn { s with fab := { s.fab with kept := s.fab.kept.filter fun g => !(same g && drop.contains (name g)) } } f

/-- A result lands at the command of this rank (R210, R211), but for one of a chiplet that fences (R387). -/
def landRed (s : State) (key : RedKey) (data : List Byte) : State :=
  match s.cmds.find? fun e => (decide (e.2.op = opFred) || decide (e.2.op = opXred)) && redKey e.2 (key.unit / 4) == key with
  | none => s
  | some (k, c) =>
    let u := key.unit / 4
    if c.acked.contains u || c.failed || fenced s c.core then s
    else
      let s1 :=
        if c.op = opFred then landLines (writeSpad s c.wg (redDst c) data) k c.wg c.lines
        else if c.sub = 0 then (xredBlocks c u).zipIdx.foldl (fun t e =>
          writeSpad t c.wg (c.a.toNat + 64 * e.1 + 63) (natBytes 1 (leNat ((data.drop (4 * e.2)).take 4)))) s
        else writeSpad s c.wg (redDst c + 128 * 16 * u) data
      modCmd s1 k fun d => { d with acked := nsAdd u d.acked }

/-- The contributions of a reduction, folded in rank order (R209). -/
def foldParts (op : Nat) (parts : Table (List Byte)) : List Byte := match parts with
  | [] => []
  | e :: t => t.foldl (fun d x => redCombine op d x.2) e.2

/-- A reduction is complete: the root sends the result to every rank, or this rank's result lands (R378). -/
def foldDone (s : State) (f : Fold) : State :=
  if inNet s f.key.tenant then
    let s1 := keepFold s f
    (List.range (rsCount f.key.ranks)).foldl (fun t r =>
      let dev := rsFirst f.key.ranks + r
      if dev = t.fab.devId then landRed t f.key f.data
      else sendReply t pktRedResult dev 0 0 (redPayload f.key [r] f.data) false) s1
  else landRed s f.key f.data

/-- Take a contribution whose ranks are all new; others are discarded. Once every rank is there they are folded. -/
def foldIn (s : State) (key : RedKey) (ranks : NatSet) (data : List Byte) : State :=
  let old : Fold := (s.fab.folds.find? fun f => f.key == key).getD { key := key, got := [], data := [], parts := [] }
  if ranks.isEmpty || ranks.any old.got.contains then s
  else
    let f : Fold := { old with got := nsAddAll ranks old.got, parts := tset old.parts (ranks.headD 0) data }
    let rest := s.fab.folds.filter fun g => !(g.key == key)
    let s1 := { s with fab := { s.fab with folds := rest } }
    if foldFull f then foldDone s1 { f with data := foldParts (keyOp key) f.parts, parts := [] }
    else { s1 with fab := { s1.fab with folds := rest ++ [f] } }

/-- Whether two names of reductions are of one reduction, by their tenant and SEQ, and differ in a word (R209; log 19). -/
def redDiffers (a b : RedKey) : Bool :=
  decide (a.tenant = b.tenant) && decide (a.ranks.toNat / 2 ^ 32 = b.ranks.toNat / 2 ^ 32) &&
    (a.ranks != b.ranks || a.red != b.red)

/-- The ranks other than this device, as devices. -/
def otherRanks (s : State) (w : DWord) : List Nat := (rangeFrom (rsFirst w) (rsCount w)).filter fun d => d != s.fab.devId

/-- This rank sends its contribution to part u: to the root, or to every rank (R378). -/
def contribute (s : State) (k : Nat) (c : Cmd) (u : Nat) (retx : Bool) (data : List Byte) : State :=
  let key := redKey c u
  let me := [s.fab.devId - rsFirst c.b]
  if inNet s c.tenant then
    if s.fab.devId = rsFirst c.b then foldIn s key me data
    else sendReduce s key retx (rsFirst c.b) me data (some k) u
  else
    let s1 := (otherRanks s c.b).foldl (fun t d => sendReduce t key retx d me data (some k) u) s
    if retx then s1 else foldIn (keepOwn s1 { key := key, got := me, data := data, parts := [] }) key me data

/-- Whether every peer of a rank set can be sent to. -/
def redReach (s : State) (c : Cmd) : Bool :=
  (if inNet s c.tenant then [rsFirst c.b] else otherRanks s c.b).all (canSend s)

/-- Part u of a reduction leaves, once the lines it reads are present. -/
def sendRed (s : State) (k u : Nat) (c : Cmd) : State :=
  let n := if c.op = opFred then redCount c * recBytes (redOp c) else 64 * redCount c
  if !spadPresent s c.wg c.a.toNat n then s
  else if !redReach s c then failCmd s k c
  else
    let r := redOwn s k c u
    contribute (modCmd (markLanded s k u r.2) k fun d => { d with since := s.clk, own := tset d.own u r.1 }) k c u false r.1

/-- COPY_LINE_LAND of a fabric command: part i leaves, once. -/
def sendPart (s : State) (k i : Nat) (c : Cmd) : State :=
  if c.paused || c.failed || c.landed.contains i || decide (phAborts ≤ c.phase) || !sendReady s k c then s
  else if c.op = opFput then if i < moveParts c then sendPut s k i c else s
  else if c.op = opFget then if i < moveParts c then sendGet s k i c else s
  else if c.op = opFatom then if i = 0 then sendAtomic s k c else s
  else if c.op = opLzres then if i = 0 then sendResv s k c else s
  else if i < redParts c then sendRed s k i c else s

/-! ## Catch slots at the receiver's core (R212, R214) -/

/-- A catch slot (R366). -/
def lzAt (s : State) (core i : Nat) : LzSlot := tgetD (coreOf s core).lz i
  { st := .free, wg := 0, ctr := 0, rid := 0, target := 0, area := 0, dev := 0, score := 0, anyc := false, rdev := 0
    rcore := 0, port := 0, last := 0, got := [] }

/-- Replace a catch slot. -/
def setLz (s : State) (core i : Nat) (z : LzSlot) : State :=
  let k := coreOf s core
  setCore s core { k with lz := tset k.lz i z }

/-- Whether a workgroup holds a slot. -/
def holdsLz (z : LzSlot) (w : Nat) : Bool := z.st != .free && decide (z.wg = w)

/-- The lines of a slot's area. -/
def areaLines (z : LzSlot) : List Nat := linesOf z.area z.target

/-- The slot number of lzarm, lzrel and lzq. -/
def lzNo (c : Cmd) : Nat := c.a.toNat % 16

/-- Whether no earlier lzarm, lzrel or lzq.rd of the core on the slot is outstanding. -/
def lzOrder (s : State) (k : Nat) (c : Cmd) : Bool :=
  !(s.cmds.any fun e => decide (e.1 < k) && decide (e.2.core = c.core) && !e.2.started &&
    (decide (e.2.op = opLzarm) || decide (e.2.op = opLzrel) || (decide (e.2.op = opLzq) && decide (e.2.sub = 0))) &&
    decide (lzNo e.2 = lzNo c))

/-- A wait on a slot that is FULL, TORN or FREE ends: it is noted, and completes when its release allows. -/
def endLzWait (s : State) (k : Nat) (c : Cmd) : State :=
  let z := lzAt s c.core (lzNo c)
  if c.started || !lzOrder s k c || !(decide (z.st = .full) || decide (z.st = .torn) || decide (z.st = .free)) then s
  else
    let err := z.st != .full
    if relReady s k c then afterOp (endCmd s k err) c.wg else modCmd s k fun d => { d with started := true, err := err }

/-- End the waits on a slot. -/
def settleLz (s : State) (core slot : Nat) : State :=
  (cmdKeys s fun c => decide (c.op = opLzq) && decide (c.sub = 1) && decide (c.core = core) && decide (lzNo c = slot)).foldl
    (fun t k => match tget t.cmds k with
      | some c => endLzWait t k c
      | none => t) s

/-- lzarm on a FREE slot (R212). -/
def armLz (s : State) (k : Nat) (c : Cmd) : State :=
  let i := lzNo c
  let z := lzAt s c.core i
  if z.st ≠ .free then modCmd s k fun d => { d with started := true, err := true }
  else
    let rid := if z.rid = 65535 then 1 else z.rid + 1
    let t := nfld c.b.toNat 32 24
    let w := c.c.toNat
    let y : LzSlot := { z with
      st := if t = 0 then .full else .opened, wg := c.wg, ctr := 0, rid := rid, target := t, area := nfld c.b.toNat 0 32
      dev := nfld w 0 12, score := nfld w 12 8, anyc := nbit w 20, rdev := 0, rcore := 0, port := 0, last := s.clk, got := [] }
    setAbsent (modCmd (setLz s c.core i y) k fun d => { d with started := true }) c.wg (areaLines y)

/-- lzrel (R214). -/
def relLz (s : State) (k : Nat) (c : Cmd) : State :=
  let i := lzNo c
  let z := lzAt s c.core i
  if !holdsLz z c.wg then modCmd s k fun d => { d with started := true, err := true }
  else setPresent (modCmd (setLz s c.core i { z with st := .free, wg := 0 }) k fun d => { d with started := true }) c.wg (areaLines z)

/-- STATE of lzq.rd. -/
def lzCode : LzSt → Nat
  | .free => 0
  | .opened => 1
  | .reserved => 2
  | .filling => 3
  | .full => 4
  | .torn => 5

/-- lzq.rd (R214). -/
def readLz (s : State) (k : Nat) (c : Cmd) : State :=
  let z := lzAt s c.core (lzNo c)
  modCmd s k fun d => { d with started := true, result := BitVec.ofNat 64 (lzCode z.st + 2 ^ 8 * (z.ctr % 2 ^ 24) + 2 ^ 32 * z.rid) }

/-- lzarm, lzrel and lzq.rd take effect in their order on the slot; waits that were or become satisfied end. -/
def doLz (s : State) (k : Nat) (c : Cmd) : State :=
  let s0 := settleLz s c.core (lzNo c)
  settleLz (if c.op = opLzarm then armLz s0 k c else if c.op = opLzrel then relLz s0 k c else readLz s0 k c) c.core (lzNo c)

/-- At acceptance a wait that is already satisfied ends. -/
def enterWait (s : State) (_k : Nat) (c : Cmd) : State := if c.op = opLzq && c.sub = 1 then settleLz s c.core (lzNo c) else s

/-! ## Completion -/

/-- The completion of a fabric command whose parts have been answered. -/
def finFabric (s : State) (k : Nat) (c : Cmd) : Fin :=
  let all (n : Nat) : Bool := decide (c.acked.length = n)
  if c.paused || (aborting c && !all (moveParts c)) then .wait
  else if c.op = opFput then if all (moveParts c) then .done s c.err 0 else .wait
  else if !relReady s k c then .wait
  else if c.op = opFget then if all (moveParts c) then .done s c.err 0 else .wait
  else if c.op = opFatom || c.op = opLzres then if all 1 then .done s c.err c.result else .wait
  else if c.op = opFred || c.op = opXred then if all (redParts c) then .done s c.err 0 else .wait
  else if c.started then .done s c.err c.result
  else if decide (c.op = opLzq) && decide (c.sub = 1) then .wait
  else if !lzOrder s k c then .wait
  else
    let t := doLz s k c
    match tget t.cmds k with
    | some d => .done t d.err d.result
    | none => .wait

/-! ## Issue -/

/-- The devices whose windows a range of fabric addresses lies in. -/
def rangeDevs (a n : Nat) : List Nat := (([a, a + n - 1].filter fun x => nbit x 54).map winDev).eraseDups

/-- The devices that a command sends requests to. -/
def peersOf (s : State) (c : Cmd) : List Nat :=
  if isCatch c then [rwDev c.b]
  else if c.op = opFput || c.op = opFget then rangeDevs (remoteVa c) (lenBytes c)
  else if c.op = opFatom then [winDev c.a.toNat]
  else if c.op = opLzres then [rwDev c.a]
  else if c.op = opFred || c.op = opXred then (if inNet s c.tenant then [rsFirst c.b] else otherRanks s c.b)
  else []

/-- Whether a command would send a packet before the first flip: a reduction over more than one device does, its first rank's results
among them (R370). -/
def sendsEarly (s : State) (c : Cmd) : Bool :=
  s.fab.inject.isNone && (decide (c.op = opFred) || decide (c.op = opXred)) && decide (1 < rsCount c.b)

/-- The contributions stored here that belong to a command's reduction and differ from it in a word (R209). -/
def redStored (s : State) (c : Cmd) : List Fold :=
  if c.op = opFred || c.op = opXred then s.fab.folds.filter fun f => redDiffers (redKey c 0) f.key else []

/-- What a fabric command does at acceptance: it fails at once where a peer cannot be sent to (R370, R373), and a reduction where a
differing contribution has come before it (R209); fget.s and fred clear the presence of their destination lines (R207, R210). -/
def enterFabric (s : State) (k : Nat) (c : Cmd) : State :=
  let clash := redStored s c
  if sendsEarly s c || !((peersOf s c).all (canSend s)) then failCmd s k c
  else if !clash.isEmpty then failCmd { s with fab := { s.fab with folds := s.fab.folds.filter fun f => !clash.contains f } } k c
  else
    let ls := if c.op = opFget && c.sub = 1 then linesOf c.b.toNat (lenBytes c)
              else if c.op = opFred then linesOf (redDst c) (redCount c * recBytes (redOp c)) else []
    enterWait (if ls.isEmpty then s else setAbsent (modCmd s k fun d => { d with lines := ls }) c.wg ls) k c

/-- Sub-ops of fatom that are no operation: ILLOP (R208). -/
def fatomIll (op sub : Nat) : Bool := decide (op = opFatom) && [1, 3, 14, 15].contains (sub % 16)

/-- Issue a fabric instruction. -/
def fabOp (op sub : Nat) (ga gb gc : Option (BitVec 5)) (res : Option (BitVec 5)) (fs : Bool) (sc : BitVec 2)
    (acq rel : Bool) (word : Word) (s : State) : Out :=
  onGroup s fun c g =>
    let rd (r : Option (BitVec 5)) : DWord := match r with
      | some x => readG g x.toNat
      | none => 0
    let resN : Option Nat := res.map BitVec.toNat
    let f : EForm := { word := word, op := op, sub := sub, fs := fs, sc := sc.toNat, acq := acq, rel := rel, a := rd ga
                       b := rd gb, c := rd gc, resG := resN, feat := if op = opXred then none else some 6
                       sys := decide (op = opFput) || decide (op = opFget) || decide (op = opFatom) }
    let use := useE (([ga, gb, gc].filterMap id).map BitVec.toNat) resN
    engIssue s c g { use with ill := fatomIll op sub } f (chkFabric s g.wg (cmdOf s c g f)) enterFabric

/-- fput.g (R207). -/
def execFputG (ga gb gc : BitVec 5) (fs : Bool) (sc : BitVec 2) (acq rel : Bool) (s : State) : Out :=
  fabOp opFput 0 (some ga) (some gb) (some gc) none fs sc acq rel (wordOf (.fputG ga gb gc fs sc acq rel)) s
/-- fput.s (R207). -/
def execFputS (ga gb gc : BitVec 5) (fs : Bool) (sc : BitVec 2) (acq rel : Bool) (s : State) : Out :=
  fabOp opFput 1 (some ga) (some gb) (some gc) none fs sc acq rel (wordOf (.fputS ga gb gc fs sc acq rel)) s
/-- fput.lz (R207). -/
def execFputLz (ga gb gc : BitVec 5) (fs : Bool) (sc : BitVec 2) (acq rel : Bool) (s : State) : Out :=
  fabOp opFput 2 (some ga) (some gb) (some gc) none fs sc acq rel (wordOf (.fputLz ga gb gc fs sc acq rel)) s
/-- fput.lzg (R207). -/
def execFputLzg (ga gb gc : BitVec 5) (fs : Bool) (sc : BitVec 2) (acq rel : Bool) (s : State) : Out :=
  fabOp opFput 3 (some ga) (some gb) (some gc) none fs sc acq rel (wordOf (.fputLzg ga gb gc fs sc acq rel)) s
/-- fget.g (R207). -/
def execFgetG (ga gb gc : BitVec 5) (fs : Bool) (sc : BitVec 2) (acq rel : Bool) (s : State) : Out :=
  fabOp opFget 0 (some ga) (some gb) (some gc) none fs sc acq rel (wordOf (.fgetG ga gb gc fs sc acq rel)) s
/-- fget.s (R207). -/
def execFgetS (ga gb gc : BitVec 5) (fs : Bool) (sc : BitVec 2) (acq rel : Bool) (s : State) : Out :=
  fabOp opFget 1 (some ga) (some gb) (some gc) none fs sc acq rel (wordOf (.fgetS ga gb gc fs sc acq rel)) s
/-- fatom (R208): st returns nothing. -/
def execFatom (sub ga gb gc : BitVec 5) (fs : Bool) (sc : BitVec 2) (acq rel : Bool) (s : State) : Out :=
  fabOp opFatom sub.toNat (some ga) (some gb) (some gc) (if sub.toNat % 16 = 2 then none else some gc) fs sc acq rel
    (wordOf (.fatom sub ga gb gc fs sc acq rel)) s
/-- fred (R210). -/
def execFred (ga gb gc : BitVec 5) (fs : Bool) (sc : BitVec 2) (acq rel : Bool) (s : State) : Out :=
  fabOp opFred 0 (some ga) (some gb) (some gc) none fs sc acq rel (wordOf (.fred ga gb gc fs sc acq rel)) s
/-- lzres (R212). -/
def execLzres (ga gc : BitVec 5) (fs : Bool) (sc : BitVec 2) (acq rel : Bool) (s : State) : Out :=
  fabOp opLzres 0 (some ga) none none (some gc) fs sc acq rel (wordOf (.lzres ga gc fs sc acq rel)) s
/-- lzarm (R212). -/
def execLzarm (ga gb gc : BitVec 5) (fs : Bool) (sc : BitVec 2) (acq rel : Bool) (s : State) : Out :=
  fabOp opLzarm 0 (some ga) (some gb) (some gc) none fs sc acq rel (wordOf (.lzarm ga gb gc fs sc acq rel)) s
/-- lzrel (R214). -/
def execLzrel (ga : BitVec 5) (fs : Bool) (sc : BitVec 2) (acq rel : Bool) (s : State) : Out :=
  fabOp opLzrel 0 (some ga) none none none fs sc acq rel (wordOf (.lzrel ga fs sc acq rel)) s
/-- lzq.rd (R214). -/
def execLzqRd (ga gc : BitVec 5) (fs : Bool) (sc : BitVec 2) (acq rel : Bool) (s : State) : Out :=
  fabOp opLzq 0 (some ga) none none (some gc) fs sc acq rel (wordOf (.lzqRd ga gc fs sc acq rel)) s
/-- lzq.wait (R214). -/
def execLzqWait (ga : BitVec 5) (fs : Bool) (sc : BitVec 2) (acq rel : Bool) (s : State) : Out :=
  fabOp opLzq 1 (some ga) none none none fs sc acq rel (wordOf (.lzqWait ga fs sc acq rel)) s
/-- xred.exp (R211). -/
def execXredExp (ga gb gc : BitVec 5) (fs : Bool) (sc : BitVec 2) (acq rel : Bool) (s : State) : Out :=
  fabOp opXred 0 (some ga) (some gb) (some gc) none fs sc acq rel (wordOf (.xredExp ga gb gc fs sc acq rel)) s
/-- xred.sum (R211). -/
def execXredSum (ga gb gc : BitVec 5) (fs : Bool) (sc : BitVec 2) (acq rel : Bool) (s : State) : Out :=
  fabOp opXred 1 (some ga) (some gb) (some gc) none fs sc acq rel (wordOf (.xredSum ga gb gc fs sc acq rel)) s

end Sys2Proof.Machine
end

