-- ==== Sys2Proof/Machine/FabricEvents.lean ====
section
/-! DEFINITION. Packets that arrive, links that fail, and the fabric's timers (R369 to R378). KVXFER packets are in Handoff. -/

namespace Sys2Proof.Machine

/-! ## Receiving (R373) -/

/-- Whether a packet can be at this device now: a packet of its own lies in its buffers, another comes from a port that is up. -/
def arrives (s : State) (p : Packet) (port : Nat) : Bool :=
  if p.src = s.fab.devId then s.fab.wire.contains p else portUp s port && decide (port < 16)

/-- The router hands a packet over: it leaves the buffers. -/
def takePacket (s : State) (p : Packet) : State := { s with fab := { s.fab with wire := s.fab.wire.erase p } }

/-- A reply to a packet, sent again or for the first time. What answers a CATCH packet well is sent until its sender has it (R365). -/
def sendBack (s : State) (p : Packet) (r : Reply) : State :=
  if p.type = pktCatch ∧ r.type = pktAck then sendNotice s r.type p.src r.af else sendReply s r.type p.src r.af 0 r.payload p.conf

/-- Note a sequence number, and the reply that its packet drew; the window is the last 65,536. -/
def noteSeq (s : State) (p : Packet) (r : Option Reply) : State :=
  let x := pairOf s p.src
  let top := max x.top (p.seq + 1)
  let y := { x with top := top, got := (tset x.got p.seq r).filter fun e => decide (top ≤ e.1 + 65536) }
  { s with fab := { s.fab with pairs := tset s.fab.pairs p.src y } }

/-- Whether a packet's tag verifies under the pair's key; a device trusts its own packets. -/
def verified (s : State) (p : Packet) : Bool :=
  let key := (pairOf s p.src).key
  decide (p.src = s.fab.devId) || (!key.isEmpty && decide (p.tag = (packetSeal key p).2))

/-- A packet of a type reaches this device (R373): dropped under zeroisation, NACK AUTH for a bad tag, nothing below the
window, the old reply again for a duplicate; otherwise f acts, and its reply goes back. -/
def receive (type : Nat) (p : Packet) (port : Nat) (s : State) (f : State → State × Option Reply) : State :=
  if p.type ≠ type ∨ p.dst ≠ s.fab.devId ∨ arrives s p port = false then s
  else
    let s1 := takePacket s p
    if s1.sec.zeroised then s1
    else if !verified s1 p then tagFail (sendNack s1 p nackAuth)
    else
      let x := pairOf s1 p.src
      if p.seq + 65536 < x.top then s1
      else match tget x.got p.seq with
        | some (some r) => sendBack s1 p r
        | some none => s1
        | none =>
          let r := f s1
          let s2 := noteSeq r.1 p r.2
          match r.2 with
          | some y => sendBack s2 p y
          | none => s2

/-- Replies to a request. -/
def ackOf (p : Packet) : Reply := { type := pktAck, af := p.seq, payload := [] }
def nackOf (p : Packet) (code : Nat) : Reply := { type := pktNack, af := afNack code p.seq, payload := [] }

/-! ## Forwarding (R369, R371) -/

/-- PACKET_FORWARD: a packet for another device that arrives on a port, be it one of this device that has come back; one of the reserved
type is dropped and counted, whomever it is for (R372). -/
def execPacketForward (p : Packet) (port : Nat) (s : State) : Out := .next (
  if portUp s port = false ∨ s.sec.zeroised ∨ (p.dst = s.fab.devId ∧ p.type < 15) then s
  else if 15 ≤ p.type then { s with fab := { s.fab with dropped := s.fab.dropped + 1 } }
  else if 5 ≤ p.hop then sendNack { s with fab := { s.fab with dropped := s.fab.dropped + 1 } } p nackHops
  else route s { p with hop := p.hop + 1 })

/-! ## Remote memory (R374, R375) -/

/-- The export a request names, and the offset it gives; R374 finds none beyond the length. -/
def exportOf (s : State) (p : Packet) (off n : Nat) : Option Export :=
  s.fab.exports.find? fun e => decide (e.dev = p.src) && decide (e.ptenant = p.af / 2 ^ 37) && decide (off + n ≤ e.len)

/-- The window offset of a request. -/
def reqOff (p : Packet) : Nat := p.af % 2 ^ 37 * 32 + p.off

/-- The address space of a tenant. -/
def tenantAsid (s : State) (t : Nat) : Nat := match tget s.tenants t with
  | some x => x.asid
  | none => 0

/-- Act on n bytes of an exported window: NACK NOEXPORT, NACK PROT, or the action at the virtual address. -/
def onExport (s : State) (p : Packet) (off n : Nat) (w : Bool) (f : Nat → Nat → State × Option Reply) : State × Option Reply :=
  match exportOf s p off n with
  | none => (s, some (nackOf p nackNoexport))
  | some e =>
    let asid := tenantAsid s e.tenant
    match vfault s asid (e.base + off) n w with
    | some _ => (s, some (nackOf p nackProt))
    | none => f asid (e.base + off)

/-- The bytes that a WRITE stores: its payload, or as many as a narrow store has (log 17). -/
def writeBytes (p : Packet) : List Byte := if p.aux = 0 then p.payload else p.payload.take p.aux

/-- WRITE_PACKET (R375): the bytes commit before the ACK is sent. -/
def execWritePacket (p : Packet) (port : Nat) (s : State) : Out := .next (receive pktWrite p port s fun t =>
  onExport t p (reqOff p) (writeBytes p).length true fun asid va =>
    (commitVirt t none asid va (writeBytes p), some (ackOf p)))

/-- READ_PACKET (R375): READDATA with the bytes; a length above 4 KiB reads 4 KiB. -/
def execReadPacket (p : Packet) (port : Nat) (s : State) : Out := .next (receive pktRead p port s fun t =>
  let n := min 4096 (leNat (p.payload.take 4))
  onExport t p (reqOff p) n false fun asid va =>
    (t, some { type := pktReadData, af := p.seq, payload := pad32 ((vread t asid va n).getD []) }))

/-- ATOMIC_PACKET (R375): performed indivisibly; ATOMREPLY returns the old value. -/
def execAtomicPacket (p : Packet) (port : Nat) (s : State) : Out := .next (receive pktAtomic p port s fun t =>
  let f (o n : Nat) : Nat := leNat ((p.payload.drop o).take n)
  let sub := f 16 1
  let n := if 16 ≤ sub then 8 else 4
  let off := p.af % 2 ^ 37 * 32 + f 17 1 % 32
  onExport t p off n (2 ≤ sub % 16) fun asid va =>
    let old := (vreadN t asid va n).getD 0
    let new := aopNew (sub % 16) n old (f 0 n) (f 8 n)
    (if 2 ≤ sub % 16 then commitVirt t none asid va (natBytes n new) else t,
      some { type := pktAtomReply, af := p.seq, payload := pad32 (natBytes 8 old) }))

/-! ## Replies to this device's requests -/

/-- The request that a reply answers. -/
def sentFor (s : State) (dst seq type : Nat) : Option Sent :=
  s.fab.sent.find? fun x => decide (x.pkt.dst = dst) && decide (x.pkt.seq = seq) && (decide (x.pkt.type = type) || decide (type = pktAck))

/-- A request is no longer awaited. -/
def retire (s : State) (x : Sent) : State := { s with fab := { s.fab with sent := s.fab.sent.erase x } }

/-- A part of a command is acknowledged. -/
def ackPart (s : State) (k u : Nat) : State := modCmd s k fun d => { d with acked := nsAdd u d.acked, since := s.clk }

/-- A command whose answer has come completes, unless its release still waits. -/
def endAnswered (s : State) (k : Nat) : State := match tget s.cmds k with
  | none => s
  | some c => finish s k c (finFabric s k c)

/-- A request of a command or memory instruction has been carried out. The last acknowledgement of a catch transfer that aborts ends it
well (R365). -/
def acked (s : State) (x : Sent) : State :=
  let s1 := retire s x
  match x.cmd with
  | none => s1
  | some k => match tget s1.ops k with
    | some o => doneAcc s1 k o (fun y => decide (y.lane = x.unit)) false 2
    | none => match tget s1.cmds k with
      | some c =>
        if c.op = opFred || c.op = opXred then s1
        else if aborting c then endAnswered (ackPart s1 k x.unit) k else ackPart s1 k x.unit
      | none => s1

/-- ACK_PACKET (R373). -/
def execAckPacket (p : Packet) (port : Nat) (s : State) : Out := .next (receive pktAck p port s fun t =>
  (match sentFor t p.src (p.af % 2 ^ 39) pktAck with
    | some x => acked t x
    | none => t, none))

/-- The destination lines that are wholly landed once the parts in a list are. -/
def getLines (c : Cmd) (parts : List Nat) : List Nat :=
  c.lines.filter fun l => (List.range (moveParts c)).all fun i =>
    parts.contains i || !overlaps (c.b.toNat + partOff c i) (partLen c i) (128 * l) 128

/-- The data of part i of an fget land in local memory (R207); a local fault pauses the command at the part. Nothing lands on a chiplet
that fences (R387), or of a command that has failed. -/
def landGet (s : State) (k i : Nat) (c : Cmd) (bs : List Byte) : State :=
  let a := c.b.toNat + partOff c i
  let data := bs.take (partLen c i)
  if fenced s c.core || c.failed then s
  else if c.sub = 1 then
    let s1 := ackPart (writeSpad s c.wg a data) k i
    landLines s1 k c.wg (getLines c (nsAdd i c.acked))
  else match engXlat s c.core (cmdAsid s c) a data.length true with
    | some (code, va) => engFault (modCmd s k fun d => { d with landed := nsDel i d.landed }) k code va
    | none => ackPart (engCommit s c.core (cmdAsid s c) a data) k i

/-- The data of a lane's remote load arrive, but for a chiplet that fences (R387). -/
def landFar (s : State) (k : Nat) (o : MemOp) (lane : Nat) (bs : List Byte) : State :=
  if fenced s o.core then s
  else putOp s k (mapAccs o (fun x => decide (x.lane = lane)) fun x => { x with got := bs.take o.size, done := true })

/-- Where the data of a reply to an fget must wait for the walker (R282): the command's core and address space, address and length. -/
def getWaits (s : State) (p : Packet) (port : Nat) : Option (Nat × Nat × Nat × Nat) :=
  if p.type ≠ pktReadData ∨ p.dst ≠ s.fab.devId ∨ arrives s p port = false ∨ s.sec.zeroised ∨ !verified s p then none
  else (sentFor s p.src (p.af % 2 ^ 39) pktRead).bind fun x => x.cmd.bind fun k => (tget s.cmds k).bind fun c =>
    let a := c.b.toNat + partOff c x.unit
    let n := (p.payload.take (partLen c x.unit)).length
    if (tget s.ops k).isNone && c.sub ≠ 1 && engBlocked s c.core (cmdAsid s c) a n then some (c.core, cmdAsid s c, a, n) else none

/-- READDATA_PACKET (R372); a reply whose data must wait for a walk waits with them. -/
def execReaddataPacket (p : Packet) (port : Nat) (s : State) : Out := .next (match getWaits s p port with
  | some (core, asid, a, n) => engAsk s core asid a n
  | none => receive pktReadData p port s fun t =>
  (match sentFor t p.src (p.af % 2 ^ 39) pktRead with
    | none => t
    | some x =>
      let t1 := retire t x
      match x.cmd with
      | none => t1
      | some k => match tget t1.ops k, tget t1.cmds k with
        | some o, _ => landFar t1 k o x.unit p.payload
        | none, some c => landGet t1 k x.unit c p.payload
        | none, none => t1, none))

/-- ATOMREPLY_PACKET (R372): the old value, zero-extended from the operation's width; st has no result (R208, R307). -/
def execAtomreplyPacket (p : Packet) (port : Nat) (s : State) : Out := .next (receive pktAtomReply p port s fun t =>
  (match sentFor t p.src (p.af % 2 ^ 39) pktAtomic with
    | none => t
    | some x => match x.cmd with
      | none => retire t x
      | some k =>
        let t1 := modCmd (ackPart (retire t x) k 0) k fun d =>
          { d with result := if d.sub % 16 = 2 then 0 else BitVec.ofNat 64 (leNat (p.payload.take (fatomSize d))) }
        endAnswered t1 k, none))

/-- RESVREPLY_PACKET (R212): the reservation word, or 0 and FLAGERR when refused. -/
def execResvreplyPacket (p : Packet) (port : Nat) (s : State) : Out := .next (receive pktResvReply p port s fun t =>
  (match sentFor t p.src (p.af % 2 ^ 33) pktResv with
    | none => t
    | some x => match x.cmd with
      | none => retire t x
      | some k =>
        let rid := p.af / 2 ^ 33
        let t1 := modCmd (ackPart (retire t x) k 0) k fun d =>
          if rid = 0 then { d with err := true } else { d with result := BitVec.ofNat 64 (d.a.toNat % 2 ^ 24 + 2 ^ 24 * rid) }
        endAnswered t1 k, none))

/-- Send a request again with the bank in force (R371, R373). -/
def resend (s : State) (x : Sent) : State :=
  let p := { x.pkt with bank := injectBank s }
  route { s with fab := { s.fab with sent := s.fab.sent.map fun y => if y = x then { y with pkt := p, at_ := s.clk, tries := y.tries + 1 } else y } } p

/-- The transfer that a request belongs to is aborted (R373). -/
def abortSent (s : State) (x : Sent) (refused : Bool) : State :=
  match x.cmd, x.xfer with
  | some k, _ => (match tget s.ops k, tget s.cmds k with
    | some o, _ => failAcc (retire s x) k o x.unit
    | none, some c => if isCatch c && !refused then abortFabric s k false else abortFabric (retire s x) k refused
    | none, none => retire s x)
  | none, some i => failExport (retire s x) i
  | none, none => retire s x

/-- A request that was not delivered: again at most 8 times, then its transfer aborts; one of a catch transfer that aborts is not sent
again. -/
def again (s : State) (x : Sent) : State :=
  if x.tries < 8 then resend s x else if x.tries = 8 then abortSent s x false else s

/-- NACK_PACKET (R373). -/
def execNackPacket (p : Packet) (port : Nat) (s : State) : Out := .next (receive pktNack p port s fun t =>
  let code := p.af / 2 ^ 39 % 16
  (match sentFor t p.aux (p.af % 2 ^ 39) pktAck with
    | none => t
    | some x => if code = nackHops ∨ code = nackNoroute ∨ code = nackAuth then again t x else abortSent t x (code != nackLinkdown), none))

/-- A notice is sent again with the bank in force, 20 µs after its last sending (R365, R376). -/
def resendNotice (s : State) (e : Packet × Nat) : State :=
  let p := { e.1 with bank := injectBank s }
  if e.2 + usClk 20 ≤ s.clk && canSend s p.dst then
    route { s with fab := { s.fab with notices := s.fab.notices.map fun y => if y = e then (p, s.clk) else y } } p
  else s

/-- RETRANSMIT_TIMEOUT (R365, R373): 20 µs after its last sending. -/
def execRetransmitTimeout (dst seq : Nat) (s : State) : Out := .next (
  match s.fab.sent.find? fun x => decide (x.pkt.dst = dst) && decide (x.pkt.seq = seq) with
  | some x => if x.at_ + usClk 20 ≤ s.clk then again s x else s
  | none => match s.fab.notices.find? fun e => decide (e.1.dst = dst) && decide (e.1.seq = seq) with
    | some e => resendNotice s e
    | none => s)

/-! ## Catch slots (R212, R213, R376) -/

/-- A reserved slot turns TORN and tells the reserving core (R376). -/
def tearLz (s : State) (core i : Nat) : State :=
  let z := lzAt s core i
  if z.st = .reserved ∨ z.st = .filling then
    let s1 := sendNotice (setLz s core i { z with st := .torn }) pktTorn z.rdev (afCatch z.rid core i 0)
    settleLz s1 core i
  else s

/-- The port on which a packet has come: a packet of this device has turned back in its router, over no link (R68). -/
def portOf (s : State) (p : Packet) (port : Nat) : Nat := if p.src = s.fab.devId then 16 else port

/-- Reservation id, core and slot of an address field. -/
def afRid (p : Packet) : Nat := p.af / 2 ^ 33
def afCore (p : Packet) : Nat := p.af / 2 ^ 25 % 256
def afSlot (p : Packet) : Nat := p.af / 2 ^ 21 % 16

/-- A packet to a catch slot: nothing is delivered to a chiplet that fences, and one whose fence is complete refuses (R387). -/
def toSlot (type : Nat) (p : Packet) (port : Nat) (s : State) (f : State → State × Option Reply) : State :=
  match (s.chips[afCore p / 64]?).map Chip.st with
  | some .active => receive type p port s f
  | some .fencing => s
  | _ => receive type p port s fun t => (t, some (nackOf p nackRefused))

/-- RESV_PACKET (R212, R376). -/
def execResvPacket (p : Packet) (port : Nat) (s : State) : Out := .next (toSlot pktResv p port s fun t =>
  let z := lzAt t (afCore p) (afSlot p)
  if z.st = .opened && decide (z.dev = p.src) && (z.anyc || decide (z.score = p.aux)) then
    (setLz t (afCore p) (afSlot p) { z with st := .reserved, rdev := p.src, rcore := p.aux, port := portOf t p port, last := t.clk },
      some { type := pktResvReply, af := afResv z.rid p.seq, payload := [] })
  else (t, some { type := pktResvReply, af := afResv 0 p.seq, payload := [] }))

/-- The lines of an area whose bytes below T have all landed (R213). -/
def landedLines (z : LzSlot) : List Nat :=
  (areaLines z).filter fun l => (List.range 4).all fun i =>
    let o := 128 * l + 32 * i - z.area
    decide (z.target ≤ o) || z.got.contains (o / 32)

/-- CATCH_PACKET (R213). A refusal by a slot that is TORN repeats its notice (R376). -/
def execCatchPacket (p : Packet) (port : Nat) (s : State) : Out := .next (toSlot pktCatch p port s fun t =>
  let core := afCore p
  let i := afSlot p
  let z := lzAt t core i
  let off := p.af / 4 % 2 ^ 19 * 32
  let n := p.payload.length
  if decide (z.rid = afRid p) && (decide (z.st = .reserved) || decide (z.st = .filling)) && decide (z.rdev = p.src) &&
      decide (z.rcore = p.aux) && decide (off + n ≤ z.target) then
    let y := { z with st := if z.target ≤ z.ctr + n then .full else .filling, ctr := z.ctr + n, last := t.clk
                      got := nsAddAll (rangeFrom (off / 32) (n / 32)) z.got }
    let t1 := setPresent (setLz (writeSpad t z.wg (z.area + off) p.payload) core i y) z.wg (landedLines y)
    (settleLz t1 core i, some (ackOf p))
  else
    (if z.st = .torn ∧ z.rid = afRid p then sendNotice t pktTorn p.src (afCatch z.rid core i 0) else t,
      some (nackOf p nackRefused)))

/-- ABORT_PACKET (R376). -/
def execAbortPacket (p : Packet) (port : Nat) (s : State) : Out := .next (toSlot pktAbort p port s fun t =>
  let z := lzAt t (afCore p) (afSlot p)
  (if z.rid = afRid p then
    if z.st = .torn then sendNotice t pktTorn p.src (afCatch z.rid (afCore p) (afSlot p) 0) else tearLz t (afCore p) (afSlot p)
   else t, some (ackOf p)))

/-- Whether a command is an fput to the slot and reservation that a packet from the slot's device names. -/
def putsTo (p : Packet) (c : Cmd) : Bool :=
  isCatch c && decide (rwDev c.b = p.src) && decide (rwCore c.b = afCore p) && decide (rwSlot c.b = afSlot p) && decide (rwId c.b = afRid p)

/-- The slot of an fput has turned TORN (R365, R376): the fput completes with FLAGERR where a packet was not sent or was refused; where
all have been sent and none refused, what answers them says whether the slot has accepted every one (log 55). -/
def tearPut (s : State) (k : Nat) : State := match tget s.cmds k with
  | some c => if c.phase = phRefused ∨ c.landed.length < moveParts c then failCmd s k c else modCmd s k fun d => { d with phase := phTorn }
  | none => s

/-- TORN_PACKET (R365, R376): every fput of the reservation of which some packet has no acknowledgement. -/
def execTornPacket (p : Packet) (port : Nat) (s : State) : Out := .next (receive pktTorn p port s fun t =>
  ((cmdKeys t fun c => putsTo p c && !c.failed && decide (c.acked.length < moveParts c)).foldl tearPut t, none))

/-- LINK_DOWN (R373, R376): slots reserved over the port tear; buffered packets for it are dropped with NACK LINKDOWN. -/
def execLinkDown (port : Nat) (s : State) : Out := .next (
  if !portUp s port then s
  else
    let s1 := { s with fab := { s.fab with portsUp := s.fab.portsUp &&& ~~~(BitVec.ofNat 16 (2 ^ port)) } }
    let hit := s1.fab.wire.filter fun p => decide (p.dst ≠ s1.fab.devId) && decide (routePort s1 p.bank p.dst = some port)
    let s2 := hit.foldl (fun t p => sendNack { takePacket t p with fab := { (takePacket t p).fab with dropped := t.fab.dropped + 1 } } p nackLinkdown) s1
    s2.cores.foldl (fun t e => e.2.lz.foldl (fun u z => if z.2.port = port then tearLz u e.1 z.1 else u) t) s2)

/-- CATCH_SLOT_TIMEOUT (R376): 1 ms without an accepted CATCH packet. -/
def execCatchSlotTimeout (core slot : Nat) (s : State) : Out := .next (
  if (lzAt s core slot).last + usClk 1000 ≤ s.clk then tearLz s core slot else s)

/-- Whether a slot of this device may have accepted every packet of a transfer that aborts, though not every acknowledgement has come
(R365): all have been sent and none has been refused. -/
def mayBeFull (s : State) (c : Cmd) : Bool :=
  decide (rwDev c.b = s.fab.devId) && decide (c.phase ≠ phRefused) && decide (c.landed.length = moveParts c)

/-- Whether the time of a catch transfer that aborts is over: 2 ms after its last acknowledged packet, or its slot has turned TORN. -/
def abortDue (s : State) (c : Cmd) : Bool := decide (c.phase = phTorn) || decide (c.since + usClk 2000 ≤ s.clk)

/-- CATCH_ABORT_TIMEOUT (R376): 2 ms after the last acknowledged packet of a transfer that aborts, or its TORN packet has come. One to a slot of this device whose
packets may all have been accepted waits for their acknowledgements or for the TORN packet, which nothing loses on the way (R365); of
one to another device the entry itself says that the slot has not taken every packet (log 55). -/
def execCatchAbortTimeout (cmd : Nat) (s : State) : Out := .next (match tget s.cmds cmd with
  | some c => if isCatch c && aborting c && !mayBeFull s c && abortDue s c then failCmd s cmd c else s
  | none => s)

/-! ## Reductions (R209, R378) -/

/-- A contribution to a reduction that this rank runs with another word: both words name one SEQ (R209). -/
def redClash (s : State) (k : RedKey) : Option (Nat × Cmd) := s.cmds.find? fun e =>
  (decide (e.2.op = opFred) || decide (e.2.op = opXred)) && redDiffers (redKey e.2 0) k

/-- The kept entry of a reduction. -/
def keptOf (s : State) (k : RedKey) : Option Fold := s.fab.kept.find? fun f => f.key == k

/-- REDUCE_PACKET (R378): combined, folded or discarded; one that is sent again draws what its sender may lack. -/
def execReducePacket (p : Packet) (port : Nat) (s : State) : Out := .next (receive pktReduce p port s fun t =>
  let r := redParse p.payload
  let k := r.1
  let retx := nbit p.af 0
  let t1 := match redClash t k with
    | some e => failCmd t e.1 e.2
    | none =>
      if inNet t k.tenant then
        match keptOf t k with
        | some f => if retx then r.2.1.foldl (fun u j => sendReply u pktRedResult (rsFirst k.ranks + j) 0 0 (redPayload k [j] f.data) false) t else t
        | none => if t.fab.devId = rsFirst k.ranks then foldIn t k r.2.1 r.2.2 else t
      else
        let u := foldIn t k r.2.1 r.2.2
        match retx, keptOf u k with
        | true, some f => if canSend u p.src then sendReduce u k false p.src f.got f.data none 0 else u
        | _, _ => u
  (t1, some (ackOf p)))

/-- REDRESULT_PACKET (R378). -/
def execRedresultPacket (p : Packet) (port : Nat) (s : State) : Out := .next (receive pktRedResult p port s fun t =>
  let r := redParse p.payload
  (landRed t r.1 r.2.2, none))

/-- The contributions to parts of a reduction are sent again, as far as its peers can be sent to; where one cannot, the command fails
(R373). -/
def resendParts (s : State) (k : Nat) (c : Cmd) : List Nat → State
  | [] => s
  | u :: us => if redReach s c then resendParts (contribute s k c u true (tgetD c.own u [])) k c us else failCmd s k c

/-- REDUCE_RESEND_TIMEOUT (R378): 50 µs without a result; after 8 resends the command fails. -/
def execReduceResendTimeout (cmd : Nat) (s : State) : Out := .next (match tget s.cmds cmd with
  | none => s
  | some c =>
    let left := c.landed.filter fun u => !c.acked.contains u
    if !(decide (c.op = opFred) || decide (c.op = opXred)) || left.isEmpty || decide (s.clk < c.since + usClk 50) then s
    else if 8 ≤ c.tries then failCmd s cmd c
    else resendParts (modCmd s cmd fun d => { d with tries := d.tries + 1, since := s.clk }) cmd c left)

end Sys2Proof.Machine
end

