-- ==== Sys2Proof/Machine/PageEvents.lean ====
section
/-! DEFINITION. Evictions and fetches of page frames (R323, R324, R326, R327, R412). -/

namespace Sys2Proof.Machine

/-- The kvapp commands that have reached the page engine and need a frame fetched: the page they append to, or the frame they
have allocated (R196). -/
def fetchWants (s : State) (pool f : Nat) : List (Nat × Cmd) := s.cmds.filter fun e =>
  let c := e.2
  decide (c.op = opKvapp) && acqReady s e.1 c && relReady s e.1 c && pageOrder s e.1 c && handleLive s c &&
    (let h := handleAt s (hIdx c.a)
     decide (h.pool = pool) && (match tget s.pools pool with
      | some p => (h.bt[appPos c / p.p]? == some f || ownFrame c == some f) && spadPresent s c.wg (appOff c) (2 * rowIn p (appType c))
      | none => false))

/-- Those of them that wait for it; the others are paused. -/
def fetchWaiters (s : State) (pool f : Nat) : List (Nat × Cmd) := (fetchWants s pool f).filter fun e => !e.2.paused

/-- Frames in EVICTING. -/
def evictingCount (p : Pool) : Nat := (p.frames.filter fun e => e.2.st = .evicting).length

/-- Whether a frame may be evicted. -/
def evictable (x : Frame) : Bool := decide (x.st = .resident) && decide (x.pins = 0) && decide (1 ≤ x.ref)

/-- The victim of the next eviction (R324): a spare frame that holds the home slot of a frame waited for; otherwise,
at the watermark, the oldest evictable frame, ties to the lowest index. -/
def victimOf (s : State) (i : Nat) (p : Pool) : Option Nat :=
  let forced := firstSome (fun e : Nat × Frame =>
    if decide (e.2.st = .tier2) && decide (e.1 < p.f) && !(fetchWaiters s i e.1).isEmpty then
      match slotHolder p e.1 with
      | some g => if evictable (frameOf p g) then some g else none
      | none => none
    else none) p.frames
  match forced with
  | some g => some g
  | none =>
    if available p + evictingCount p ≤ watermark p then
      (leastBy (fun e : Nat × Frame => 2 ^ 32 - ageOf s e.2.lastacc) (p.frames.filter fun e => evictable e.2)).map Prod.fst
    else none

/-- EVICTION_START (R324). -/
def execEvictionStart (pool : Nat) (s : State) : Out := .next (match tget s.pools pool with
  | none => s
  | some p =>
    if p.tier2.isNone || p.halted then s
    else match victimOf s pool p with
      | some f => { s with pools := tset s.pools pool (setFrame p f { frameOf p f with st := .evicting, copied := false }) }
      | none => s)

/-- The first fault of a frame's layers in its slot (R412). -/
def frameFault (s : State) (p : Pool) (f : Nat) (w : Bool) : Option (TrapCode × Nat) :=
  firstSome (fun l => locFault s (frameLoc s p f l false) 0 p.bp w) (List.range p.layers)

/-- Copy all layers of a frame between its slot and its tier-2 copy. -/
def copyFrame (s : State) (p : Pool) (f : Nat) (toTier2 : Bool) : State :=
  (List.range p.layers).foldl (fun t l => locCopy t (frameLoc s p f l (!toTier2)) (frameLoc s p f l toTier2) 0 p.bp) s

/-- EVICTION_COPY_DONE (R323, R326): the copy is complete; it commits if no pin stands. A fault abandons it (R412). -/
def execEvictionCopyDone (pool frame : Nat) (s : State) : Out := .next (match tget s.pools pool with
  | none => s
  | some p =>
    let x := frameOf p frame
    if x.st ≠ .evicting ∨ x.copied then s
    else match frameFault s p frame false with
      | some _ => { s with pools := tset s.pools pool { abandonEviction p frame with halted := true } }
      | none => { copyFrame s p frame true with
          pools := tset s.pools pool (afterRelease (setFrame p frame { x with copied := true }) frame) })

/-- FETCH_START (R327): the fetch that an append waits for. -/
def execFetchStart (pool frame : Nat) (s : State) : Out := .next (match tget s.pools pool with
  | none => s
  | some p =>
    if (fetchWaiters s pool frame).isEmpty then s
    else match startFetch p frame with
      | some q => { s with pools := tset s.pools pool q }
      | none => s)

/-- FETCH_DONE (R323): the frame becomes RESIDENT. A fault is that of a kvapp that waits for it, which pauses, and whose fetch
goes on when it is resumed; a fetch that no kvapp wants is abandoned (R412). -/
def execFetchDone (pool frame : Nat) (s : State) : Out := .next (match tget s.pools pool with
  | none => s
  | some p =>
    let x := frameOf p frame
    if x.st ≠ .fetching then s
    else match frameFault s p frame true, fetchWants s pool frame with
      | some (code, va), _ :: _ => match fetchWaiters s pool frame with
        | (k, _) :: _ => engFault s k code va
        | [] => s
      | some _, [] => { s with pools := tset s.pools pool (giveSlot (setFrame p frame { x with st := .tier2 }) frame) }
      | none, _ =>
        let p1 := setFrame p frame { x with st := .resident }
        { copyFrame s p frame false with pools := tset s.pools pool { p1 with ctr := { p1.ctr with fetch := p1.ctr.fetch + 1 } } })

end Sys2Proof.Machine
end

