-- ==== Sys2Proof/Machine/Sampling.lean ====
section
/-! DEFINITION. Opcodes 0x70 to 0x73 (R205, R206, R215 to R218, R354 to R356): random words, sampling,
merging of partial samples, and the acceptance of drafts. -/

namespace Sys2Proof.Machine

/-! ## Random words (R205, R206) -/

/-- Uni of a word (R205). -/
def uniVal (w : Nat) : FVal := .fin false (2 * (w / 512) + 1) (-24)

/-- A value rounded to f32, RNE. -/
def r32 (v : FVal) : FVal := fval fmtF32 (encodeVal fmtF32 0 v)

/-- Gum of a word (R205): −ln(−ln(Uni)), rounded once. -/
def gumVal (w : Nat) : FVal :=
  r32 (refine (fun p =>
    let l := -(lnFix p (2 * (w / 512) + 1) (-24))
    let v := -(lnFix p l.toNat (-(p : Int)))
    agree fmtF32 0 (v - 2 ^ 46) (v + 2 ^ 46) (-p)) precisions)

/-- The result of a sub-op of rng from the output words (R206). -/
def rngOut (sub : Nat) (r : Ctr4) : Nat :=
  if sub = 0 then r.c0 else if sub = 1 then r.c1 else if sub = 2 then r.c2 else if sub = 3 then r.c3
  else encodeVal fmtF32 0 (if sub = 4 then uniVal r.c0 else gumVal r.c0)

/-- rng (R206). -/
def rngOp (sub : Nat) (u : Bool) (d a b : R6) (la : Bool) (s : State) : Out :=
  onGroup s fun c g =>
    let key := (readG g b.toNat).toNat
    let hi := (readG g (b.toNat + 1)).toNat
    let out (c0 c1 : Nat) : Nat := rngOut sub (philox c0 c1 (nfld hi 0 32) (nfld hi 32 32) key)
    let gs := [b.toNat, b.toNat + 1]
    let ndB := decide (30 < b.toNat)
    if u then
      checked s c g { ill := la || !featOn s 4, nd := ndB || notG a || notG d, rg := a.toNat :: gs, wg := [d.toNat] }
        (commitG s c g d.toNat (BitVec.ofNat 64 (out (nfld (readG g a.toNat).toNat 0 32) (nfld (readG g a.toNat).toNat 32 32))))
    else
      let av := namesFrom a.toNat 2
      let use : Use := { ill := !featOn s 4, nd := ndB || decide (a.toNat % 2 = 1), rv := av, wv := [d.toNat], rg := gs
                         marks := if la then av else [], lanes := g.exec }
      checked s c g use (commitV s c g use d.toNat fun l =>
        BitVec.ofNat 32 (out (readV g a.toNat l).toNat (readV g (a.toNat + 1) l).toNat))

/-- rng.w0 (R206). -/
def execRngW0 (u : Bool) (d a b : R6) (la : Bool) (s : State) : Out := rngOp 0 u d a b la s
/-- rng.w1 (R206). -/
def execRngW1 (u : Bool) (d a b : R6) (la : Bool) (s : State) : Out := rngOp 1 u d a b la s
/-- rng.w2 (R206). -/
def execRngW2 (u : Bool) (d a b : R6) (la : Bool) (s : State) : Out := rngOp 2 u d a b la s
/-- rng.w3 (R206). -/
def execRngW3 (u : Bool) (d a b : R6) (la : Bool) (s : State) : Out := rngOp 3 u d a b la s
/-- rng.uni (R206). -/
def execRngUni (u : Bool) (d a b : R6) (la : Bool) (s : State) : Out := rngOp 4 u d a b la s
/-- rng.gum (R206). -/
def execRngGum (u : Bool) (d a b : R6) (la : Bool) (s : State) : Out := rngOp 5 u d a b la s

/-! ## Penalties (R216) -/

/-- A penalty state: repetition, presence, frequency, and the entries (token, count). -/
structure Penalty where
  rep  : FVal
  pres : FVal
  freq : FVal
  ents : List (Nat × Nat)
deriving DecidableEq, Repr

/-- The first fault of reading a penalty state, for an engine of a core (R281). -/
def penFault (s : State) (core asid p : Nat) : Option (TrapCode × Nat) :=
  if p = 0 then none
  else (engXlat s core asid p 64 false).or (engXlat s core asid (p + 64) (8 * engN s core asid (p + 12) 4) false)

/-- The bytes of a penalty state that an engine of a core reads: addresses and lengths. -/
def penSpans (s : State) (core asid p : Nat) : List (Nat × Nat) :=
  if p = 0 then [] else [(p, 64), (p + 64, 8 * engN s core asid (p + 12) 4)]

/-- Whether reading a penalty state must wait for the walker, and the state with what is asked of it, and with what the reading
leaves in the TLBs (R281, R282). -/
def penBlocked (s : State) (core asid p : Nat) : Bool := (penSpans s core asid p).any fun e => engBlocked s core asid e.1 e.2
def penAsk (s : State) (core asid p : Nat) : State := (penSpans s core asid p).foldl (fun t e => engAsk t core asid e.1 e.2) s
def penTouch (s : State) (core asid p : Nat) : State := (penSpans s core asid p).foldl (fun t e => engTouch t core asid e.1 e.2) s

/-- The penalty state at a pointer, of which command k reads the bytes (R294); none for pointer 0. -/
def penaltyAt (s : State) (k : Nat) (c : Cmd) (p : Nat) : Option Penalty :=
  if p = 0 then none
  else
    let rd (o n : Nat) : Nat := leNat (cmdBytes s k c (p + o) n)
    some { rep := fval fmtF32 (rd 0 4), pres := fval fmtF32 (rd 4 4), freq := fval fmtF32 (rd 8 4)
           ents := (List.range (rd 12 4)).map fun k => (rd (64 + 8 * k) 4, rd (68 + 8 * k) 4) }

/-- Penalise (R216). DEDUCED (log 52): frequency × c is rounded by itself before it is subtracted. -/
def penalise (q : Option Penalty) (l : FVal) (x : Nat) : FVal := match q with
  | none => l
  | some p => match p.ents.find? fun e => e.1 = x with
    | none => l
    | some e =>
      if e.2 = 0 then l
      else
        let l1 := r32 (if flt false (.fin false 0 0) l then fdivV 64 l p.rep else fmulV l p.rep)
        let l2 := r32 (faddV 0 l1 (fneg p.pres))
        r32 (faddV 0 l2 (fneg (r32 (fmulV p.freq (.fin false e.2 0)))))

/-! ## smpl (R215, R355) -/

/-- A partial record: score and row maximum as f32 codes, and the index (R215). -/
structure SmpRec where
  score : Nat
  index : Nat
  rmax  : Nat
deriving DecidableEq, Repr

/-- The record in 16 bytes. -/
def smpOf (bs : List Byte) : SmpRec :=
  { score := leNat (bs.take 4), index := leNat ((bs.drop 4).take 4), rmax := leNat ((bs.drop 8).take 4) }

/-- Fold a score and index: the order of fred's argmax (R210, R356). -/
def foldScore (r : SmpRec) (score index : Nat) : SmpRec :=
  if argLess (r.score + 2 ^ 32 * r.index) (score + 2 ^ 32 * index) then { r with score := score, index := index } else r

/-- Fold a row maximum. -/
def foldMax (r : SmpRec) (l : Nat) : SmpRec := if argLess r.rmax l then { r with rmax := l } else r

/-- The f32 noise at a position and index: Gum of word 0 (R205). -/
def noise (seed : DWord) (pos x c2 : Nat) : FVal := gumVal (philox pos x c2 0 seed.toNat).c0

/-- The parameters of a row. -/
structure RowParams where
  vocab : Nat
  temp  : FVal
  minp  : FVal
  seed  : DWord
  pos   : Nat
  pen   : Option Penalty
deriving DecidableEq, Repr

/-- Column j of a row: index x, its logit, and for smpl.res the draft probability (R215). -/
def smplStep (sub : Nat) (q : RowParams) (r : SmpRec) (x : Nat) (l0 p2 : FVal) : SmpRec :=
  let take (s : FVal) : SmpRec := foldScore r (encodeVal fmtF32 0 s) x
  let zero : FVal := .fin false 0 0
  if decide (q.vocab ≤ x) || isNan l0 then r
  else if sub = 2 then
    let d := faddV 0 l0 (fneg p2)
    if !flt false zero d && !isNan d then r
    else take (r32 (faddV 0 (r32 (flnV fmtF32 0 d)) (noise q.seed q.pos x 2)))
  else
    let l := penalise q.pen l0 x
    if sub = 0 then foldMax r (encodeVal fmtF32 0 l)
    else if !flt false zero q.temp then take l
    else
      let th := r32 (faddV 0 (fval fmtF32 r.rmax) (r32 (fmulV q.temp (r32 (flnV fmtF32 0 q.minp)))))
      if flt false zero q.minp && flt true l th then r
      else take (r32 (faddV 0 (r32 (fdivV 64 l q.temp)) (noise q.seed q.pos x 0)))

/-- Fields of the tile word. -/
def smplTile (c : Cmd) : Nat := nfld c.a.toNat 0 5
def smplTile2 (c : Cmd) : Nat := nfld c.a.toNat 8 5
def smplRows (c : Cmd) : Nat := nfld c.a.toNat 16 6 + 1
def smplBase (c : Cmd) : Nat := nfld c.a.toNat 32 32

/-- The checks of smpl. -/
def chkSmpl (s : State) (w : Nat) (c : Cmd) : EChk :=
  let n := wgTiles s w
  (chkIf (decide (nfld c.a.toNat 5 3 ≠ 0) || decide (nfld c.a.toNat 13 3 ≠ 0) || decide (nfld c.a.toNat 22 10 ≠ 0) ||
    (decide (c.sub ≠ 2) && decide (smplTile2 c ≠ 0)) || decide (n ≤ smplTile c) || (decide (c.sub = 2) && decide (n ≤ smplTile2 c)) ||
    decide (2 ^ 32 ≤ c.b.toNat) || decide (2 ^ 32 ≤ c.c.toNat)) .illopnd 0).then <|
  (chkIf (decide (c.b.toNat % 8 ≠ 0)) .misalign c.b.toNat).then <|
  (chkIf (decide (c.c.toNat % 16 ≠ 0)) .misalign c.c.toNat).then <|
  (chkSpad s w c.b.toNat (8 * smplRows c)).then (chkSpad s w c.c.toNat (16 * smplRows c))

/-- Whether a temperature or min-p is one that makes smpl skip the row (R215, R355). -/
def badParam (w : Word) : Bool := let v := fval fmtF32 w.toNat; isNan v || flt false v (.fin false 0 0)

/-- The request of a row map entry that may be sampled. An entry whose prompt is still being copied is free to every program. -/
def rowReq (s : State) (tenant e : Nat) : Option Request := match tget s.reqs (reqIn s tenant (nfld e 0 14)) with
  | none => none
  | some r => if r.tenant ≠ tenant || r.loading || badParam r.temp || badParam r.minp then none else some r

/-- The vocabulary of a plan. -/
def planVocab (s : State) (p : Nat) : Nat := match tget s.plans p with
  | some x => x.vocab
  | none => 0

/-- The record of row i after smpl. -/
def smplRow (s : State) (k : Nat) (c : Cmd) (r : Request) (pos i : Nat) : SmpRec :=
  let q : RowParams := { vocab := planVocab s r.plan, temp := fval fmtF32 r.temp.toNat, minp := fval fmtF32 r.minp.toNat
                         seed := r.seed, pos := pos, pen := if c.sub = 2 then none else penaltyAt s k c r.penalty }
  let elt (t j : Nat) : FVal := fval fmtF32 (tgetD (tileOf s c.wg t).words (64 * i + j) 0).toNat
  (List.range 64).foldl (fun rc j => smplStep c.sub q rc (smplBase c + j) (elt (smplTile c) j) (elt (smplTile2 c) j))
    (smpOf (cmdSpad s k c (c.c.toNat + 16 * i) 16))

/-- The record from which sampling a row starts: scores and maximum −∞, no index (R215). -/
def recStart : SmpRec := { score := infCode fmtF32 + 2 ^ 31, index := 2 ^ 32 - 1, rmax := infCode fmtF32 + 2 ^ 31 }

/-- The token that the successor plan samples after a token (R9): at TEMP 0 without a penalty state the successor itself;
otherwise over the row of logits as smpl.max and smpl.smp do. -/
def romSample (s : State) (k : Nat) (c : Cmd) (r : Request) (vocab pos last : Nat) : Nat :=
  let next := (last + 1) % vocab
  let q : RowParams := { vocab := vocab, temp := fval fmtF32 r.temp.toNat, minp := fval fmtF32 r.minp.toNat, seed := r.seed
                         pos := pos, pen := penaltyAt s k c r.penalty }
  let logit (x : Nat) : FVal := if x = next then .fin false 16 0 else .fin false 0 0
  let pass (sub : Nat) (rc : SmpRec) : SmpRec :=
    (List.range vocab).foldl (fun rc x => smplStep sub q rc x (logit x) (.fin false 0 0)) rc
  if q.pen.isNone && !flt false (.fin false 0 0) q.temp then next
  else (pass 1 (if flt false (.fin false 0 0) q.minp then pass 0 recStart else recStart)).index

/-- The sub-op under which sstep samples a row of its own: request in a, last token and position in b, V in c (R9, R411). -/
def subRom : Nat := 31

/-- sstep's sampling takes effect: an error where smpl skips the row, an engine fault where the penalty state cannot be read. -/
def finRomSmpl (s : State) (k : Nat) (c : Cmd) : Fin := match rowReq s c.tenant (nfld c.a.toNat 0 14) with
  | none => .done s true 0
  | some r =>
    if c.c = 0 then .done s true 0
    else if penBlocked s c.core (cmdAsid s c) r.penalty then .later (penAsk s c.core (cmdAsid s c) r.penalty)
    else match penFault s c.core (cmdAsid s c) r.penalty with
      | some (code, va) => .fault code va
      | none => .done (penTouch s c.core (cmdAsid s c) r.penalty) false (BitVec.ofNat 64 (romSample s k c r c.c.toNat (nfld c.b.toNat 32 32) (nfld c.b.toNat 0 32)))

/-- smpl takes effect (R215). A poisoned element of a tile it reads makes the command an error. -/
def finSmpl (s : State) (k : Nat) (c : Cmd) : Fin :=
  let n := smplRows c
  if c.sub = subRom then finRomSmpl s k c
  else if !(acqReady s k c && relReady s k c && tileFirst s c && spadPresent s c.wg c.b.toNat (8 * n)
      && spadPresent s c.wg c.c.toNat (16 * n)) then .wait
  else
    let ents := (List.range n).filterMap fun i =>
      let e := leNat (cmdSpad s k c (c.b.toNat + 8 * i) 8)
      if nbit e 15 then some (i, e) else none
    let asid := cmdAsid s c
    let pens := if c.sub = 2 then [] else ents.filterMap fun x => (rowReq s c.tenant x.2).map Request.penalty
    if pens.any (penBlocked s c.core asid) then .later (pens.foldl (fun t p => penAsk t c.core asid p) s)
    else match firstSome (penFault s c.core asid) pens with
    | some (code, va) => .fault code va
    | none =>
      let poisoned (i : Nat) : Bool := (List.range 64).any fun j =>
        (tileOf s c.wg (smplTile c)).poison.contains (64 * i + j) ||
          (decide (c.sub = 2) && (tileOf s c.wg (smplTile2 c)).poison.contains (64 * i + j))
      let out := ents.foldl (fun (acc : State × Bool) x => match rowReq s c.tenant x.2 with
        | none => (acc.1, true)
        | some r =>
          let rc := smplRow acc.1 k c r (nfld x.2 32 32) x.1
          (writeSpad acc.1 c.wg (c.c.toNat + 16 * x.1) (natBytes 4 rc.score ++ natBytes 4 rc.index ++ natBytes 4 rc.rmax),
            acc.2 || poisoned x.1)) (pens.foldl (fun t p => penTouch t c.core asid p) s, false)
      .done out.1 out.2 0

/-- Issue a command of this family. -/
def smpOp (op sub : Nat) (ga gb gc : BitVec 5) (res : Option (BitVec 5)) (fs : Bool) (sc : BitVec 2) (acq rel : Bool)
    (word : Word) (chk : State → Group → Cmd → EChk) (s : State) : Out :=
  onGroup s fun c g =>
    let resN : Option Nat := res.map BitVec.toNat
    let f : EForm := { word := word, op := op, sub := sub, fs := fs, sc := sc.toNat, acq := acq, rel := rel, a := readG g ga.toNat
                       b := readG g gb.toNat, c := if res.isSome then 0 else readG g gc.toNat, resG := resN, feat := some 4 }
    engIssue s c g (useE ([ga.toNat, gb.toNat] ++ if res.isSome then [] else [gc.toNat]) resN) f (chk s g (cmdOf s c g f)) enterPlain

/-- smpl.max (R215). -/
def execSmplMax (ga gb gc : BitVec 5) (fs : Bool) (sc : BitVec 2) (acq rel : Bool) (s : State) : Out :=
  smpOp opSmpl 0 ga gb gc none fs sc acq rel (wordOf (.smplMax ga gb gc fs sc acq rel)) (fun s g c => chkSmpl s g.wg c) s
/-- smpl.smp (R215). -/
def execSmplSmp (ga gb gc : BitVec 5) (fs : Bool) (sc : BitVec 2) (acq rel : Bool) (s : State) : Out :=
  smpOp opSmpl 1 ga gb gc none fs sc acq rel (wordOf (.smplSmp ga gb gc fs sc acq rel)) (fun s g c => chkSmpl s g.wg c) s
/-- smpl.res (R215). -/
def execSmplRes (ga gb gc : BitVec 5) (fs : Bool) (sc : BitVec 2) (acq rel : Bool) (s : State) : Out :=
  smpOp opSmpl 2 ga gb gc none fs sc acq rel (wordOf (.smplRes ga gb gc fs sc acq rel)) (fun s g c => chkSmpl s g.wg c) s

/-! ## smrg (R217) -/

/-- Partials and rows of the merge word. -/
def mrgParts (c : Cmd) : Nat := nfld c.c.toNat 0 8 + 1
def mrgRows (c : Cmd) : Nat := nfld c.c.toNat 8 6 + 1

/-- The checks of smrg. -/
def chkSmrg (s : State) (w : Nat) (c : Cmd) : EChk :=
  (chkIf (decide (2 ^ 14 ≤ c.c.toNat) || decide (2 ^ 32 ≤ c.b.toNat)) .illopnd 0).then <|
  (chkIf (decide (c.a.toNat % 16 ≠ 0)) .misalign c.a.toNat).then <|
  (chkIf (decide (c.b.toNat % 16 ≠ 0)) .misalign c.b.toNat).then <|
  (chkSpad s w c.b.toNat (16 * mrgRows c)).then (chkFab c.a)

/-- A record folded with a partial. -/
def foldPart (r p : SmpRec) : SmpRec := foldMax (foldScore r p.score p.index) p.rmax

/-- smrg takes effect. -/
def finSmrg (s : State) (k : Nat) (c : Cmd) : Fin :=
  let n := mrgRows c
  let asid := cmdAsid s c
  let spans := (List.range (mrgParts c)).map fun p => c.a.toNat + 1024 * p
  if !(acqReady s k c && relReady s k c && spadPresent s c.wg c.b.toNat (16 * n)) then .wait
  else if spans.any fun a => engBlocked s c.core asid a (16 * n) then .later (spans.foldl (fun t a => engAsk t c.core asid a (16 * n)) s)
  else match firstSome (fun a => engXlat s c.core asid a (16 * n) false) spans with
    | some (code, va) => .fault code va
    | none =>
      let part (a i : Nat) : SmpRec := smpOf (cmdBytes s k c (a + 16 * i) 16)
      let s0 := spans.foldl (fun t a => engTouch t c.core asid a (16 * n)) s
      let s1 := (List.range n).foldl (fun t i =>
        let a := c.b.toNat + 16 * i
        let r := spans.foldl (fun r p => foldPart r (part p i)) (smpOf (cmdSpad t k c a 16))
        writeSpad t c.wg a (natBytes 4 r.score ++ natBytes 4 r.index ++ natBytes 4 r.rmax)) s0
      .done s1 (spans.any fun a => engPoisoned s c.core asid a (16 * n)) 0

/-- smrg (R217). -/
def execSmrg (ga gb gc : BitVec 5) (fs : Bool) (sc : BitVec 2) (acq rel : Bool) (s : State) : Out :=
  smpOp 0x72 0 ga gb gc none fs sc acq rel (wordOf (.smrg ga gb gc fs sc acq rel)) (fun s g c => chkSmrg s g.wg c) s

/-! ## Requests named by a command (R204) -/

/-- The request index of a request word. -/
def rqIdx (c : Cmd) : Nat := nfld c.a.toNat 0 14

/-- The check of a request: HANDLE when the entry is free or another tenant's. -/
def chkReq (s : State) (answered : Bool) (c : Cmd) : EChk := (chkAsk answered).then (match tget s.reqs (rqIdx c) with
  | none => .trap (handleTrap c.a 1)
  | some r => if r.tenant = c.tenant && !r.loading then .ok else .trap (handleTrap c.a 1))

/-- Whether a command acts on a request. -/
def reqCmd (c : Cmd) : Bool := decide (0x73 ≤ c.op) && decide (c.op ≤ 0x76)

/-- Commands of one group on one request take effect in acceptance order (R204). -/
def reqOrder (s : State) (k : Nat) (c : Cmd) : Bool :=
  !(s.cmds.any fun e => decide (e.1 < k) && reqCmd e.2 && decide (e.2.ctx = c.ctx) && decide (rqIdx e.2 = rqIdx c))

/-! ## acpt (R218) -/

/-- The checks of acpt. -/
def chkAcpt (s : State) (w : Nat) (answered : Bool) (c : Cmd) : EChk :=
  (chkIf (nbit c.a.toNat 14 || decide (2 ^ 48 ≤ c.a.toNat) || decide (2 ^ 32 ≤ c.b.toNat)) .illopnd 0).then <|
  (chkReq s answered c).then <|
  (chkIf (decide (c.b.toNat % 16 ≠ 0)) .misalign c.b.toNat).then (chkSpad s w c.b.toNat 16)

/-- Whether a tenant is DET only. -/
def tenantDet (s : State) (t : Nat) : Bool := match tget s.tenants t with
  | some x => x.det
  | none => false

/-- A probability that makes RATIO reject with an error: NaN, negative or above 1. -/
def badProb (v : FVal) : Bool := isNan v || flt false v (.fin false 0 0) || flt false (.fin false 1 0) v

/-- The verdict: accepted, and whether with an error. -/
def verdict (ratio : Bool) (seed : DWord) (pos w0 w1 q p : Nat) : Bool × Bool :=
  if !ratio then (decide (w0 = w1), false)
  else
    let vq := fval fmtF32 q
    let vp := fval fmtF32 p
    if badProb vq || badProb vp then (false, true)
    else (flt false (fmulV (uniVal (philox pos 0 1 0 seed.toNat).c0) vq) vp, false)

/-- acpt takes effect. -/
def finAcpt (s : State) (k : Nat) (c : Cmd) : Fin :=
  if !(acqReady s k c && relReady s k c && reqOrder s k c && spadPresent s c.wg c.b.toNat 16) then .wait
  else match tget s.reqs (rqIdx c) with
    | none => .done s true 0
    | some r =>
      let ratio := nbit c.a.toNat 15 && featOn s 5 && !tenantDet s c.tenant && !(descOf s c.launch).det
      let rd (o : Nat) : Nat := leNat (cmdSpad s k c (c.b.toNat + o) 4)
      let v := verdict ratio r.seed (nfld c.a.toNat 16 32) (rd 0) (rd 4) (rd 8) (rd 12)
      let s1 := if v.1 then modReq s (rqIdx c) fun x => { x with accepted := x.accepted + 1 } else s
      .done s1 v.2 (BitVec.ofNat 64 (b2n v.1 + 2 * b2n ratio))

/-- acpt (R218). -/
def execAcpt (ga gb gc : BitVec 5) (fs : Bool) (sc : BitVec 2) (acq rel : Bool) (s : State) : Out :=
  smpOp 0x73 0 ga gb gc (some gc) fs sc acq rel (wordOf (.acpt ga gb gc fs sc acq rel)) (fun s g c => chkAcpt s g.wg g.answered c) s

end Sys2Proof.Machine
end

