-- ==== Sys2Proof/Machine/Requests.lean ====
section
/-! DEFINITION. Opcodes 0x74 to 0x76 (R219 to R221) and what they share with the Umpire: the token stream's queue,
the end of a request, the commit, the penalty state and the bandit (R14, R216, R340, R363). -/

namespace Sys2Proof.Machine

/-! ## Streams that wait for room (R14, R220) -/

/-- A token has been emitted: it is pending, the cursor has moved, and its command completes. -/
def emitDone (s : State) (k : Nat) : State := match tget s.cmds k with
  | none => s
  | some c =>
    let reason := nfld c.c.toNat 0 4
    let s1 := modReq s (rqIdx c) fun r =>
      { r with pend := r.pend ++ [BitVec.ofNat 32 (nfld c.b.toNat 0 32)], cursor := r.cursor + 1
               last := if reason = 0 then r.last else some reason }
    afterOp (endCmd s1 k false) c.wg

/-- What follows the release of a record: its emit completes, the cancels it answers are posted (R49, R220). -/
def afterRecord (s : State) (r : StreamRec) : State :=
  let s1 := match r.cmd with
    | some k => emitDone s k
    | none => s
  r.post.foldl (fun t e => complete t e.1 e.2 0) s1

/-- Write the records that wait while there is room, n at most. -/
def drainStream (s : State) (tn : Nat) : Nat → State
  | 0 => s
  | n + 1 => match tget s.tenants tn with
    | none => s
    | some t => match t.queue with
      | [] => s
      | r :: q =>
        if streamRoom t then
          drainStream (afterRecord (writeRecord { s with tenants := tset s.tenants tn { t with queue := q } } tn r.bits) r) tn n
        else s

/-- Put a record on a tenant's stream. -/
def putStream (s : State) (tn : Nat) (r : StreamRec) : State := match tget s.tenants tn with
  | none => s
  | some t => drainStream { s with tenants := tset s.tenants tn { t with queue := t.queue ++ [r] } } tn (t.queue.length + 1)

/-- CONSUMER_COUNT_POLL (R14): while a record waits, the consumer count is read again. -/
def execConsumerCountPoll (tenant : Nat) (s : State) : Out := .next (match tget s.tenants tenant with
  | none => s
  | some t =>
    if t.queue.isEmpty ∨ alarmLevel s = 3 then s
    else drainStream { s with tenants := tset s.tenants tenant { t with cons := leNat (hostRead s (t.ring + 32) 4) } } tenant t.queue.length)

/-! ## The end of a request (R15, R49, R340) -/

/-- Next(R) (R340). -/
def nextSt (s : State) (r : Request) : ReqSt :=
  if (handleAt s (hIdx r.handle)).w < r.plen then .prefill else if r.specc ≠ 0 then .spec else .decode

/-- A request that was to be exported at its commit ends otherwise: KV_EXPORT returns BADSTATE. An export that runs when its request
fails with the iteration ends ABORTED, and the request does not become EXPORTED (R340, R353). -/
def dropWanted (s : State) (i : Nat) : State := match tget s.reqs i with
  | none => s
  | some r =>
    let s1 := match r.exporting with
      | some k => failExport s k
      | none => s
    match r.wantExport with
    | some k => modReq (endXfer s1 k stBadstate 0) i fun r => { r with wantExport := none }
    | none => s1

/-- A request enters CANCELLED or FAILED (R15, R340): one record with LAST = 1, and the cancels that wait on it are
posted after it with a status. A template that the running iteration was formed with and that no commit has taken goes. DEDUCED
(log 29): TMPL is as the last commit left it (R17). -/
def endReq (s : State) (i iter : Nat) (st : ReqSt) (reason : Nat) (post : List (Owed × Nat)) : State := match tget s.reqs i with
  | none => s
  | some r =>
    let s1 := modReq (dropWanted s i) i fun r =>
      { r with tmpl := if r.initer then r.oldTmpl else r.tmpl, st := st, reason := reason, initer := false, cancelp := false, pframe := false, pend := [], last := none
               accepted := 0, cursor := r.cursor + 1, comCursor := r.cursor + 1, cancels := [] }
    putStream s1 r.tenant { bits := streamBits iter (reqOut s i) 0 0 reason true, cmd := none, post := post }

/-- A request fails (R221): pending tokens are dropped, and a pending REQ_CANCEL completes with BADSTATE (R49). -/
def failReq (s : State) (i iter : Nat) : State := match tget s.reqs i with
  | none => s
  | some r => endReq s i iter .failed 5 (r.cancels.map fun o => (o, stBadstate))

/-- A request is cancelled (R49). -/
def cancelReq (s : State) (i iter : Nat) (extra : List Owed) : State := match tget s.reqs i with
  | none => s
  | some r => endReq s i iter .cancelled 4 ((r.cancels ++ extra).map fun o => (o, stOk))

/-! ## stop (R219) -/

/-- The words of stop sequence i. -/
def stopSeqAt (r : Request) (i : Nat) : List Word := (r.stopseq.drop (8 * i)).take ((r.stopctl.getD (2 + i) 0).toNat)

/-- Whether a list ends in another, not empty, one. -/
def endsIn (l t : List Word) : Bool := !t.isEmpty && decide (l.drop (l.length - t.length) = t)

/-- The end reason of a token (R13, R219). -/
def stopReason (r : Request) (tok : Word) : Nat :=
  let seq := r.toks ++ r.pend ++ [tok]
  if (r.stoptok.take ((r.stopctl.getD 0 0).toNat)).contains tok then 2
  else if (List.range 4).any fun i => nbit ((r.stopctl.getD 1 0).toNat) i && endsIn seq (stopSeqAt r i) then 3
  else if r.plen + r.maxnew ≤ r.committed + r.pend.length + 1 then 1 else 0

/-! ## Penalty upkeep (R216, R221) -/

/-- Count one token in ascending entries of at most cap; false when it finds no free entry. -/
def countTok (cap : Nat) (es : List (Nat × Nat)) (x : Nat) : List (Nat × Nat) × Bool :=
  if es.any fun e => e.1 = x then (es.map fun e => if e.1 = x then (e.1, (e.2 + 1) % 2 ^ 32) else e, true)
  else if cap ≤ es.length then (es, false)
  else (insertBy Prod.fst (x, 1) es, true)

/-- What counting tokens in a penalty state gives: a fault, or the state and whether a token found no entry. -/
def countToks (s : State) (core asid p : Nat) (toks : List Word) : Option (TrapCode × Nat) × State × Bool :=
  if p = 0 || toks.isEmpty then (none, s, false)
  else match penFault s core asid p with
    | some f => (some f, s, false)
    | none =>
      let rd (o : Nat) : Nat := engN s core asid (p + o) 4
      let es := (List.range (rd 12)).map fun k => (rd (64 + 8 * k), rd (68 + 8 * k))
      let r := toks.foldl (fun (acc : List (Nat × Nat) × Bool) x =>
        let q := countTok (rd 16) acc.1 x.toNat
        (q.1, acc.2 || !q.2)) (es, false)
      match (engXlat s core asid (p + 12) 4 true).or (engXlat s core asid (p + 64) (8 * r.1.length) true) with
      | some f => (some f, s, false)
      | none =>
        (none, engCommit (engCommit s core asid (p + 64) (r.1.flatMap fun e => natBytes 4 e.1 ++ natBytes 4 e.2)) core asid (p + 12)
          (natBytes 4 r.1.length), r.2)

/-! ## The bandit (R363) -/

/-- An arm that has taken no step. -/
def Arm.zero : Arm := { n := 0, s := 0, hist := [] }

/-- A value rounded to binary64, RNE. -/
def r64 (v : FVal) : FVal := fval fmtF64 (encodeVal fmtF64 0 v)

/-- An arm after a committed step of template j with a accepted drafts. -/
def armStep (x : Arm) (j a : Nat) : Arm :=
  let gain := r64 (fdivV 128 (.fin false (a + 1) 0) (.fin false (j + 2) 0))
  let b := min a 16
  { n := min (x.n + 1) (2 ^ 32 - 1)
    s := BitVec.ofNat 64 (encodeVal fmtF64 0 (faddV 0 (fval fmtF64 x.s.toNat) gain))
    hist := tset x.hist b (min (tgetD x.hist b 0 + 1) (2 ^ 32 - 1)) }

/-- The batch entry of a request in its plan's running iteration. -/
def batchOf (s : State) (r : Request) (i : Nat) : Option BatchEntry :=
  ((tget s.plans r.plan).bind Plan.iter).bind fun it => it.entries.find? fun e => e.req = i

/-- TMPL of a speculative entry: t − 2, or 0xFF for a step of one token (R360). -/
def entryTmpl (e : BatchEntry) : Nat := if e.t ≤ 1 then 0xFF else e.t - 2

/-- The step of a committed request counts for its plan, class and template. -/
def countStep (s : State) (r : Request) (i : Nat) : State := match batchOf s r i with
  | none => s
  | some e =>
    if e.kind ≠ 2 ∨ entryTmpl e = 0xFF then s
    else { s with plans := tmod s.plans r.plan fun p =>
      let arms := tgetD p.bandit r.specc []
      { p with bandit := tset p.bandit r.specc (tset arms (entryTmpl e) (armStep (tgetD arms (entryTmpl e) Arm.zero) (entryTmpl e) r.accepted)) } }

/-! ## rqst.commit (R221) -/

/-- C of a handle rises to x, as hdl.commit sets it. -/
def raiseC (s : State) (h x : Nat) : State := { s with handles := tmod s.handles h fun e => { e with c := max e.c (min x e.w) } }

/-- The commit of request i, its tokens already counted: lengths, handle, bandit, state, cancels, export. -/
def commitReq (s : State) (i iter : Nat) : State := match tget s.reqs i with
  | none => s
  | some r =>
    let len := r.committed + r.pend.length
    let s1 := countStep (raiseC s (hIdx r.handle) (len - 1)) r i
    let tm := match batchOf s r i with
      | some e => if e.kind = 2 then entryTmpl e else r.tmpl
      | none => r.tmpl
    let s2 := modReq s1 i fun r =>
      { r with committed := len, streampos := len, toks := r.toks ++ r.pend, nextin := r.pend.getLastD r.nextin, pend := []
               accepted := 0, initer := false, comCursor := r.cursor, tmpl := tm, last := none }
    match r.last with
    | some reason =>
      let s3 := modReq s2 i fun r => { r with st := .done, reason := reason, cancelp := false, cancels := [] }
      let s4 := r.cancels.foldl (fun t o => complete t o stBadstate 0) s3
      match r.wantExport with
      | some k => startExport s4 k
      | none => s4
    | none =>
      if r.cancelp then cancelReq s2 i iter []
      else
        let s3 := modReq s2 i fun r => { r with st := nextSt s2 r }
        match r.wantExport with
        | some k => startExport s3 k
        | none => s3

/-- rqst.commit takes effect. -/
def finCommit (s : State) (c : Cmd) : Fin := match tget s.reqs (rqIdx c) with
  | none => .done s true 0
  | some r =>
    if !r.initer then .done s true 0
    else if !r.pend.isEmpty && penBlocked s c.core (cmdAsid s c) r.penalty then .later (penAsk s c.core (cmdAsid s c) r.penalty)
    else match countToks s c.core (cmdAsid s c) r.penalty r.pend with
      | (some (code, va), _, _) => .fault code va
      | (none, s1, full) => .done (commitReq s1 (rqIdx c) (curIter s c.launch)) full 0

/-- The code of a state (R221). -/
def stCode : ReqSt → Nat
  | .queued => 0
  | .prefill => 1
  | .decode => 2
  | .spec => 3
  | .paused => 4
  | .done => 5
  | .cancelled => 6
  | .failed => 7
  | .exported => 8

/-- What rqst.query returns (R221). -/
def queryWord (r : Request) : DWord :=
  BitVec.ofNat 64 (r.committed % 2 ^ 24 + 2 ^ 24 * (r.pend.length % 256) + 2 ^ 32 * stCode r.st + 2 ^ 36 * r.reason)

/-! ## Completion -/

/-- stop and rqst take effect, in acceptance order on their request (R204). -/
def finReq (s : State) (k : Nat) (c : Cmd) : Fin :=
  if !(acqReady s k c && relReady s k c && reqOrder s k c) then .wait
  else match tget s.reqs (rqIdx c) with
    | none => .done s true 0
    | some r =>
      if c.op = 0x74 then .done s false (BitVec.ofNat 64 (stopReason r (BitVec.ofNat 32 (nfld c.b.toNat 0 32))))
      else if c.sub = 0 then finCommit s c
      else if c.sub = 1 then .done s false (queryWord r)
      else if r.initer then .done (failReq s (rqIdx c) (curIter s c.launch)) false 0
      else .done s true 0

/-- Whether an emit on the same request waits for room in the stream. -/
def emitQueued (s : State) (c : Cmd) : Bool :=
  s.cmds.any fun e => decide (e.2.op = 0x75) && e.2.started && decide (rqIdx e.2 = rqIdx c)

/-- Whether an emit accepted earlier at the tenant's stream has not yet taken its place there: records take ring places in the order
of acceptance, whatever their requests (R220). -/
def emitBefore (s : State) (k : Nat) (c : Cmd) : Bool :=
  s.cmds.any fun e => decide (e.2.op = 0x75) && !e.2.started && decide (e.1 < k) && decide (e.2.tenant = c.tenant)

/-- emit is accepted at the tenant's stream (R220): an error for a request outside the running iteration or after LAST;
otherwise its record takes the next place, and the command completes when it is written. -/
def runEmit (s : State) (k : Nat) (c : Cmd) : State :=
  if c.started || c.paused || emitQueued s c || emitBefore s k c || !(acqReady s k c && relReady s k c && reqOrder s k c) then s
  else match tget s.reqs (rqIdx c) with
    | none => finish s k c (.done s true 0)
    | some r =>
      if !r.initer || r.last.isSome then finish s k c (.done s true 0)
      else
        let reason := nfld c.c.toNat 0 4
        putStream (modCmd s k fun d => { d with started := true }) r.tenant
          { bits := streamBits (curIter s c.launch) (reqOut s (rqIdx c)) (r.committed + r.pend.length) (nfld c.b.toNat 0 32) reason (reason != 0)
            cmd := some k, post := [] }

/-! ## The instructions -/

/-- The acceptance checks of stop, emit and rqst, at issue and in a chain entry (R219 to R221). -/
def chkReqOp (s : State) (answered : Bool) (c : Cmd) : EChk :=
  let stop := decide (c.op = 0x74)
  let emit := decide (c.op = 0x75)
  (chkIf (decide (2 ^ 14 ≤ c.raw.1.toNat) || ((stop || emit) && decide (2 ^ 32 ≤ c.b.toNat)) || (emit && decide (3 < c.c.toNat))) .illopnd 0).then
    (chkReq s answered c)

/-- Issue stop, emit or rqst. -/
def reqOp (op sub : Nat) (ga : BitVec 5) (gb gc res : Option (BitVec 5)) (fs : Bool) (sc : BitVec 2) (acq rel : Bool)
    (word : Word) (s : State) : Out :=
  onGroup s fun c g =>
    let rd (r : Option (BitVec 5)) : DWord := match r with
      | some x => readG g x.toNat
      | none => 0
    let resN : Option Nat := res.map BitVec.toNat
    let f : EForm := { word := word, op := op, sub := sub, fs := fs, sc := sc.toNat, acq := acq, rel := rel, a := readG g ga.toNat
                       b := rd gb, c := rd gc, resG := resN, feat := some 4 }
    engIssue s c g (useE (ga.toNat :: ([gb, gc].filterMap id).map BitVec.toNat) resN) f (chkReqOp s g.answered (cmdOf s c g f)) enterPlain

/-- stop (R219). -/
def execStop (ga gb gc : BitVec 5) (fs : Bool) (sc : BitVec 2) (acq rel : Bool) (s : State) : Out :=
  reqOp 0x74 0 ga (some gb) none (some gc) fs sc acq rel (wordOf (.stop ga gb gc fs sc acq rel)) s
/-- emit (R220): a reason above 3 is ILLOPND. -/
def execEmit (ga gb gc : BitVec 5) (fs : Bool) (sc : BitVec 2) (acq rel : Bool) (s : State) : Out :=
  reqOp 0x75 0 ga (some gb) (some gc) none fs sc acq rel (wordOf (.emit ga gb gc fs sc acq rel)) s
/-- rqst.commit (R221). -/
def execRqstCommit (ga : BitVec 5) (fs : Bool) (sc : BitVec 2) (acq rel : Bool) (s : State) : Out :=
  reqOp 0x76 0 ga none none none fs sc acq rel (wordOf (.rqstCommit ga fs sc acq rel)) s
/-- rqst.query (R221). -/
def execRqstQuery (ga gc : BitVec 5) (fs : Bool) (sc : BitVec 2) (acq rel : Bool) (s : State) : Out :=
  reqOp 0x76 1 ga none none (some gc) fs sc acq rel (wordOf (.rqstQuery ga gc fs sc acq rel)) s
/-- rqst.fail (R221). -/
def execRqstFail (ga : BitVec 5) (fs : Bool) (sc : BitVec 2) (acq rel : Bool) (s : State) : Out :=
  reqOp 0x76 2 ga none none none fs sc acq rel (wordOf (.rqstFail ga fs sc acq rel)) s

end Sys2Proof.Machine
end

