-- ==== Sys2Proof/Machine/EngineEvents.lean ====
section
/-! DEFINITION. Engines at work: a line lands, a command completes, and the entries of command chains (R177, R178,
R183, R302 to R310). -/

namespace Sys2Proof.Machine

/-- Whether an opcode is a fabric command's (R203). -/
def fabricOp (op : Nat) : Bool := (decide (0x68 ≤ op) && decide (op ≤ 0x6F)) || decide (op = 0x77)

/-- Whether an opcode is a page-engine command's (R176). -/
def pageOpc (op : Nat) : Bool := decide (0x60 ≤ op) && decide (op ≤ 0x67)

/-- Whether a drain is 40 µs old, after which it waits for no fget (R398). -/
def drainDue (s : State) (since : Nat) : Bool := decide (since + usClk 40 ≤ s.clk)

/-- Whether a part of a fabric command may leave: those of accepted commands do while PREEMPT drains their tenant, those of an fget for
40 µs (R398). -/
def partLeaves (s : State) (c : Cmd) : Bool := match tget s.tenants c.tenant with
  | none => true
  | some x => match x.park with
    | .active => true
    | .draining since _ => !(decide (c.op = opFget) && drainDue s since)
    | _ => false

/-- COPY_LINE_LAND (R183): one line, row, packet or part of an engine command moves. -/
def execCopyLineLand (cmd line : Nat) (s : State) : Out := .next (match tget s.cmds cmd with
  | none => s
  | some c =>
    if fabricOp c.op then if partLeaves s c then sendPart s cmd line c else s
    else if stoppedT s c.tenant then s
    else if c.op = opCopy || c.op = opCopyf then landCopy s cmd line c
    else if c.op = opAccld || c.op = opAccst then landAcc s cmd line c
    else s)

/-- prs.wait completes when every line it names is present (R166). -/
def finPrs (s : State) (c : Cmd) : Fin :=
  if c.started || !(c.landed.any (absentOf s c.wg).contains) then .done s false 0 else .wait

/-- A fence completes when its release side has: the group's accesses and its earlier engine commands (R167, R290). With ACQ the group's
earlier atomics have read (R292); fence.sc waits besides for every earlier store of its core, which the group may have read ahead
of its commit (R289, R295). -/
def finFence (s : State) (k : Nat) (c : Cmd) : Fin :=
  let engines := s.cmds.any fun e => decide (e.1 < k) && decide (e.2.ctx = c.ctx) && decide (0x58 ≤ e.2.op) && e.2.chain.isNone
  let atoms := s.ops.any fun e => decide (e.1 < k) && decide (e.2.ctx = c.ctx) && isAtomOp e.2
  let seen := s.ops.any fun e => decide (e.1 < k) && decide (e.2.core = c.core) && isStoreOp e.2 && decide (e.2.space = .global)
  if relReady s k c && !(c.rel && engines) && !(c.acq && atoms) && !(decide (c.sub = 1) && seen) then .done s false 0 else .wait

/-- What the completion of a command finds, for the commands that complete one by one. -/
def finOf (s : State) (k : Nat) (c : Cmd) : Fin :=
  if c.paused then .wait
  else if c.op = opAccld || c.op = opAccst then if relReady s k c then finAcc s c else .wait
  else if c.op = opSlot then finSlot s k c
  else if c.op = opChain then if c.sub ≤ 1 then finChain s k c else .wait
  else if c.op = opSeqw then finSeqw s k c
  else if pageOpc c.op then finPage s k c
  else if fabricOp c.op then finFabric s k c
  else if c.op = opPrs then finPrs s c
  else if c.op = opFence then finFence s k c
  else if c.op = opSmpl then finSmpl s k c
  else if c.op = 0x72 then finSmrg s k c
  else if c.op = 0x73 then finAcpt s k c
  else if c.op = 0x74 || c.op = 0x76 then finReq s k c
  else .wait

/-- A command completes if it can: a copy with its collective, an emit with its record, any other by itself. -/
def completeCmd (s : State) (k : Nat) (c : Cmd) : State :=
  if c.failed then endFailed s k
  else if c.op = opCopy then endCopy s k c
  else if c.op = 0x75 then runEmit s k c
  else finish s k c (finOf s k c)

/-- ENGINE_COMPLETE (R178): of an issued command. -/
def execEngineComplete (cmd : Nat) (s : State) : Out := .next (match tget s.cmds cmd with
  | none => s
  | some c => if c.chain.isNone then completeCmd s cmd c else s)

/-! ## Chain entries (R305 to R310) -/

/-- A rejection reason (R307). -/
def reasonOf : TrapCode → Nat
  | .illopnd => 2
  | .sloterr => 3
  | .handle => 4
  | .misalign => 5
  | .spbound => 6
  | .prot => 7
  | .illtype => 8
  | _ => 1

/-- Reason of a check; 0 when it passes. -/
def chkReason : EChk → Nat
  | .ok => 0
  | .trap t => reasonOf t.code
  | .wait => 0

/-- The class of a chain: the opcodes its entries may hold (R306). -/
def chainTakes (ch op : Nat) : Bool :=
  if ch = 0 then op = opCopy || op = opCopyf
  else if ch = 1 then op = opMma || op = opAccld || op = opAccst
  else if ch = 2 then pageOpc op
  else op = opFput || op = opFget || op = opFatom

/-- Whether gC of a page or fabric word is named only as a result register (R307). -/
def resultOnlyC (op sub : Nat) : Bool :=
  op = opKvfrk || op = opHdl || op = opPfxh || (op = opFatom && sub % 16 != 13)

/-- The feature an opcode needs (R41). -/
def opFeature (op : Nat) : Option Nat :=
  if decide (0x60 ≤ op) && decide (op ≤ 0x64) then some 1
  else if decide (0x65 ≤ op) && decide (op ≤ 0x67) then some 3
  else if decide (0x68 ≤ op) && decide (op ≤ 0x6F) then some 6
  else none

/-- The entry's command: word and values; mma takes its tile and slots from the word (R307). -/
def entryCmd (s : State) (core ch k : Nat) (x : Chain) (m : List Byte) : Cmd :=
  let f (o n : Nat) : Nat := leNat ((m.drop o).take n)
  let w := f 0 4
  let op := nfld w 25 7
  let mma := decide (op = opMma)
  let l : Nat := match tget s.wgs x.owner with
    | some y => y.launch
    | none => 0
  let v (o lo : Nat) : DWord := BitVec.ofNat 64 (if mma then nfld w lo 6 else f o 8)
  let p := ownOperands s (tenantOf s l) op (v 8 18) (v 16 12)
  { word := BitVec.ofNat 32 w, site := { pc := 0, coff := 0, repi := 0, tidlo := 0 }, op := op, sub := if mma then 0 else nfld w 20 5
    ctx := 0, inst := 0, launch := l, wg := x.owner, core := core, tenant := tenantOf s l, flag := none, chain := some (ch, k)
    a := p.1, b := p.2, c := v 24 6, fmt := BitVec.ofNat 32 (f 4 4), sc := if mma then 0 else nfld w 2 2
    acq := !mma && nbit w 1, rel := !mma && nbit w 0, resG := none, result := 0, landed := [], started := false, paused := false
    err := false, ended := false, failed := false, raw := (BitVec.ofNat 64 (f 8 8), BitVec.ofNat 64 (f 16 8), BitVec.ofNat 64 (f 24 8))
    lead := s.nextKey, frames := [], pool := 0, lines := [], phase := 0, arrived := false
    shadow := none, acked := [], since := s.clk, tries := 0, own := [], ready := none }

/-- The checks that come first: the word decodes, replaced fields and reserved bits are zero, features, scopes (R307, R308). -/
def entryFormed (s : State) (m : List Byte) (c : Cmd) : Bool :=
  let f (o n : Nat) : Nat := leNat ((m.drop o).take n)
  let w := f 0 4
  (decodeWord (BitVec.ofNat 32 w)).isSome && !fatomIll c.op c.sub && decide (f 33 7 = 0) && decide (f 32 1 < 2) &&
    (if c.op = opMma then decide (nfld w 0 6 = 0)
     else decide (nfld w 5 15 = 0) && !nbit w 4 && decide (c.fmt = 0) && (c.sc = 0 || c.acq || c.rel)) &&
    (!resultOnlyC c.op c.sub || decide (c.c = 0)) &&
    (match opFeature c.op with
      | some b => featOn s b
      | none => true) &&
    !((c.op = opFput || c.op = opFget || c.op = opFatom) && (c.acq || c.rel) && decide (c.sc ≠ 3))

/-- The acceptance checks of an entry (R308), whatever chain holds it. -/
def entryChk (s : State) (c : Cmd) : EChk :=
  if c.op = opCopy || c.op = opCopyf then (chkIf (decide (copyNgrp c ≠ 0)) .illopnd 0).then (chkCopy s c.wg c)
  else if c.op = opMma then
    (chkIf (decide (32 ≤ c.a.toNat) || decide (32 ≤ c.b.toNat) || decide (32 ≤ c.c.toNat)) .illopnd 0).then <|
    (chkIf (decide (wgTiles s c.wg ≤ c.a.toNat) || (fmtValid c.fmt.toNat && dsbOdd c.b.toNat c.c.toNat c.fmt.toNat)) .illopnd 0).then <|
    (chkSlots s c.wg (if fmtValid c.fmt.toNat then mmaSlots c.b.toNat c.c.toNat c.fmt.toNat else [c.b.toNat, c.c.toNat])).then <|
    chkIf (!fmtValid c.fmt.toNat) .illtype 0
  else if c.op = opAccld || c.op = opAccst then chkAcc s c.wg c
  else if pageOpc c.op then chkPage s c.wg c.tenant c true
  else if fabricOp c.op then chkFabric s c.wg c
  else if c.op = opSlot then chkSlotOp s c.wg c.sub c.a
  else if c.op = opChain then chkChainOp c.sub c.a c.b
  else if c.op = opSmpl then chkSmpl s c.wg c
  else if c.op = 0x72 then chkSmrg s c.wg c
  else if c.op = 0x73 then chkAcpt s c.wg true c
  else if decide (0x74 ≤ c.op) && decide (c.op ≤ 0x76) then chkReqOp s true c
  else .ok

/-- Why an entry is rejected; 0 when it is accepted. -/
def entryReason (s : State) (ch : Nat) (m : List Byte) (c : Cmd) : Nat :=
  if !entryFormed s m c then 1
  else
    let r := chkReason (entryChk s c)
    if r ≠ 0 then r else if chainTakes ch c.op then 0 else 1

/-- What an accepted entry does at acceptance. -/
def enterEntry (s : State) (k : Nat) (c : Cmd) : State :=
  if c.op = opCopy || c.op = opCopyf then enterCopy s k c
  else if c.op = opAccst then enterAcc s k c
  else if c.op = opKvgat then enterGat s k c
  else if fabricOp c.op then enterFabric s k c
  else s

/-- The marks of an entry whose fetch faulted, and of a rejected one whose STATUS cannot be written: a paused command that holds its
place, of the second with the reason. -/
def opUnfetched : Nat := 9
def opRejected : Nat := 10

/-- The place of an entry in its chain is held by a command with one of these marks; m holds the entry's bytes, if they were read. -/
def holdEntry (s : State) (core ch k : Nat) (x : Chain) (m : List Byte) (mark reason : Nat) (code : TrapCode) (va : Nat) : State :=
  let c := { entryCmd s core ch k x m with op := opChain, sub := mark, phase := reason }
  let s1 := setChain { s with nextKey := s.nextKey + 1, cmds := tset s.cmds s.nextKey c } core ch { x with head := k + 1 }
  engFault s1 s.nextKey code va

/-- Take entry k, whose bytes can be read: rejected, held, or accepted. -/
def takeEntry (s0 : State) (core ch k : Nat) (x : Chain) : State :=
  if engBlocked s0 core (wgAsid s0 x.owner) (entryVa x k) 40 then engAsk s0 core (wgAsid s0 x.owner) (entryVa x k) 40
  else match engXlat s0 core (wgAsid s0 x.owner) (entryVa x k) 40 false with
  | some (code, va) => holdEntry s0 core ch k x [] opUnfetched 0 code va
  | none =>
    let m := engBytes s0 core (wgAsid s0 x.owner) (entryVa x k) 40
    let s := engTouch s0 core (wgAsid s0 x.owner) (entryVa x k) 40
    let c := entryCmd s core ch k x m
    let waits := nbit (m.getD 32 0).toNat 0 && decide (x.comp < k)
    if waits || (c.op = opKvgat && (!pageOrder s s.nextKey c || pinsFull s c)) then s0
    else
      let s1 := setChain s core ch { x with head := k + 1 }
      let r := entryReason s1 ch m c
      let outs := [(entryVa x k + 40, 12), (x.base.toNat, 8)]
      if r ≠ 0 && outs.any fun p => engBlocked s core (wgAsid s x.owner) p.1 p.2 then
        outs.foldl (fun t p => engAsk t core (wgAsid s x.owner) p.1 p.2) s0
      else if r ≠ 0 then match entryFault s core x k with
        | some (code, va) => holdEntry s core ch k x m opRejected r code va
        | none => afterOp (endEntry s1 core ch k 3 r 0) x.owner
      else enterEntry { s1 with nextKey := s1.nextKey + 1, cmds := tset s1.cmds s1.nextKey c } s1.nextKey c

/-- The entry of a chain that is to be fetched again: its command. -/
def unfetched (s : State) (core ch : Nat) : Option (Nat × Cmd) :=
  s.cmds.find? fun e => decide (e.2.op = opChain) && decide (e.2.sub = opUnfetched) && decide (e.2.core = core) &&
    (match e.2.chain with
      | some (j, _) => decide (j = ch)
      | none => false)

/-- CHAIN_ENTRY_TAKE (R308): the next entry below the tail, if the store has room; an entry whose fetch faulted is
fetched again once its command is resumed. -/
def execChainEntryTake (core chain : Nat) (s : State) : Out := .next (match chainAt s core chain with
  | none => s
  | some x =>
    if 4 ≤ chain || stoppedT s (wgTenant s x.owner) then s
    else match unfetched s core chain with
      | some (j, c) =>
        if c.paused then s
        else match c.chain with
          | some (_, k) => takeEntry (setChain { s with cmds := tdel s.cmds j } core chain { x with head := k }) core chain k { x with head := k }
          | none => s
      | none => if x.head < x.tail && !storeFull s core then takeEntry s core chain x.head x else s)

/-- A rejected entry that waits to write its STATUS completes, or pauses again: its bytes are read once (R309). -/
def endRejected (s : State) (k : Nat) (c : Cmd) : State := match c.chain with
  | none => s
  | some (ch, e) =>
    if c.paused then s
    else withEntry s k c (afterOp (endEntry { s with cmds := tdel s.cmds k } c.core ch e 3 c.phase 0) c.wg)

/-- CHAIN_ENTRY_COMPLETE (R309). -/
def execChainEntryComplete (cmd : Nat) (s : State) : Out := .next (match tget s.cmds cmd with
  | none => s
  | some c =>
    if c.chain.isNone then s
    else if c.op = opChain && c.sub = opRejected && !c.failed then endRejected s cmd c
    else completeCmd s cmd c)

end Sys2Proof.Machine
end

