-- ==== Sys2Proof/Machine/Issue.lean ====
section
/-! DEFINITION. Which word a running group issues next (R85, R95, R252): fetch, the stepped names of a
repeat, and the words that no row encodes. -/

namespace Sys2Proof.Machine

/-- What a group does at the word it has reached. -/
inductive Issue where
  | trap (t : Trap)
  | run (i : Instr)
deriving DecidableEq, Repr

/-- Whether a compute chiplet issues: ACTIVE only (R386), and not after zeroisation (R405). -/
def chipIssues (s : State) (core : Nat) : Bool := match s.chips[core / 64]? with
  | some k => decide (k.st = .active) && !s.sec.zeroised
  | none => false

/-- Whether a chiplet withholds this clock (R28). -/
def withheldNow (s : State) (core : Nat) : Bool := match s.chips[core / 64]? with
  | some k => decide (s.clk % windowClk % 64 < k.hold)
  | none => false

/-- Whether a tenant's work runs: not stopped by a PREEMPT (R398). -/
def tenantRuns (s : State) (t : Nat) : Bool := match tget s.tenants t with
  | some k => k.park == .active
  | none => true

/-- Whether the group may issue now (R28, R174, R230, R252). -/
def mayIssue (s : State) (c : Nat) (g : Group) : Bool :=
  decide (g.res = .running) && chipIssues s g.core && !withheldNow s g.core && tenantRuns s (tenantOf s g.launch) && !stwPending s c

/-- A name stepped by k iterations, none outside 0 to lim - 1 (R95). -/
def stepName (n : Nat) (k : Nat) (d : Int) (lim : Nat) : Option Nat :=
  let x := (n : Int) + k * d
  if 0 ≤ x && decide (x < lim) then some x.toNat else none

/-- A word with another value in an n-bit field. -/
def setField (w lo n v : Nat) : Nat := w - nfld w lo n * 2 ^ lo + v * 2 ^ lo

/-- The word of iteration k of a repeat (R95): D, A (the index of F-M) and B stepped. DESIGN CHOICE (log 52): a step on a field that the
repeated word does not use (B of a one-source word, D of pfch) steps the raw field, so that iteration 1 raises ILLOP for the non-zero
field, or ILLOPND where it falls below 0 (R95, R127). -/
def stepWord (w : Word) (r : Rep) (k : Nat) : Option Word :=
  let x := w.toNat
  let op := nfld x 25 7
  let u := nbit x 24
  let lim := if u then 32 else 64
  let one (lo : Nat) (d : Int) (y : Nat) : Option Nat :=
    if d = 0 then some y else (stepName (nfld x lo 6) k d lim).map (setField y lo 6)
  let res := if isFM op then (one 18 r.dD x).bind (one 7 r.dA)
    else if isFI op then one 18 r.dD x
    else (one 18 r.dD x).bind fun y => (one 12 r.dA y).bind (one 6 r.dB)
  res.map (BitVec.ofNat 32)

/-- The word of a branch, call or ret with its reserved bits cleared; any other word as it is (R75, R103). -/
def plainBranch (w : Word) : Word :=
  let op := nfld w.toNat 25 7
  if op = 3 || op = 9 then w &&& 0xFE1FFFFF
  else if 4 ≤ op && op ≤ 7 then w &&& 0xFFDFFFFF
  else if op = 10 then w &&& 0xFF03F000
  else w

/-- A word of no row raises ILLOP (R82); a control transfer of which a reserved field is set raises BTGT first where it goes to
no clause header (R98, R392). -/
def runOrIllop (s : State) (g : Group) (w : Word) : Issue := match decodeWord w with
  | some i => .run i
  | none => match decodeWord (plainBranch w) with
    | some i => .trap { code := if noHeader s g i then .btgt else .illop }
    | none => .trap { code := .illop }

/-- The trap of a body word that cannot be fetched: a walk's fault, or BTGT for a page that is not executable (R278). -/
def fetchTrap (s : State) (core asid : Nat) (va : DWord) : Trap := match fetchXlat s core asid va.toNat with
  | .page _ => { code := .btgt }
  | .prot => { code := .prot, addr := va }
  | .xlate => { code := .xlate, addr := va }

/-- What a running group issues: BTGT where a header must stand and does not (R85), a fetch fault at a body
word that cannot be fetched (R278), ILLOPND at an iteration whose names leave the file (R95). The first iteration is the word
as it stands. -/
def issueOf (s : State) (g : Group) : Issue :=
  let asid := asidOf s g.launch
  if g.coff = 0 then
    match fetchWord s g.core asid g.pc.toNat with
    | some w => if isHeaderWord w then runOrIllop s g w else .trap { code := .btgt }
    | none => .trap { code := .btgt }
  else if g.len = 0 then .trap { code := .btgt }
  else match fetchWord s g.core asid (wordAddr g).toNat with
    | none => .trap (fetchTrap s g.core asid (wordAddr g))
    | some w => match g.rep with
      | none => runOrIllop s g w
      | some r =>
        if g.repi = 0 then runOrIllop s g w
        else match decodeWord w with
          | none => .trap { code := .illop }
          | some _ => match stepWord w r g.repi with
            | none => .trap { code := .illopnd }
            | some y => runOrIllop s g y

end Sys2Proof.Machine
end

