-- ==== Sys2Proof/Machine/RomImage.lean ====
section
/-! DEFINITION. ROM image 0 (R51, R52, R411): its places, its bytes, and the code of its kernels. -/

namespace Sys2Proof.Machine

/-- Whether ranges of bytes are apart. -/
def apart (l : List (Nat × Nat)) : Bool := match l with
  | [] => true
  | e :: t => t.all (fun x => decide (e.2 = 0) || decide (x.2 = 0) || decide (e.1 + e.2 ≤ x.1) || decide (x.1 + x.2 ≤ e.1)) && apart t

/-- The places in ROM image 0 (R51, R52): code, data and kernel table, and the entries of sstep and sscore. -/
structure RomPlaces where
  code   : Nat
  codeSz : Nat
  data   : Nat
  dataSz : Nat
  table  : Nat
  step   : Nat
  score  : Nat
deriving DecidableEq, Repr

/-- The limits of R51 and R52 on the places. -/
def RomPlaces.ok (x : RomPlaces) : Bool :=
  let secs : List (Nat × Nat) := [(0, 64), (x.code, x.codeSz), (x.data, x.dataSz), (x.table, 128)]
  decide (x.code % 256 = 0) && decide (x.codeSz % 4 = 0) && decide (x.data % 64 = 0) && decide (x.table % 64 = 0) &&
    (secs.all fun e => decide (e.1 + e.2 ≤ 16384)) && apart secs && decide (x.step % 4 = 0) && decide (x.score % 4 = 0) &&
    decide (x.step < x.codeSz) && decide (x.score < x.codeSz) && decide (x.step ≠ x.score)

/-- The ROM's places: any that meet the limits (log 8). -/
def romPlaces : RomPlaces :=
  let f := Config.romPlaces
  let x : RomPlaces := { code := f 0, codeSz := f 1, data := f 2, dataSz := f 3, table := f 4, step := f 5, score := f 6 }
  if x.ok then x else { code := 256, codeSz := 8192, data := 12288, dataSz := 64, table := 64, step := 0, score := 4096 }

/-- The header of ROM image 0 (R51, R411). -/
def romHeader (x : RomPlaces) : List Byte :=
  natBytes 4 0x4C45554C ++ natBytes 2 1 ++ zeros 2 ++ natBytes 8 x.code ++ natBytes 8 x.codeSz ++ natBytes 8 x.data ++
    natBytes 8 x.dataSz ++ natBytes 8 x.table ++ natBytes 4 2 ++ zeros 12

/-- A kernel table entry of ROM image 0 (R52, R411): name, entry and scratchpad bytes. -/
def romEntry (name entry spad : Nat) : List Byte :=
  natBytes 32 name ++ natBytes 8 entry ++ natBytes 4 0x00040044 ++ natBytes 2 16 ++ natBytes 1 1 ++ natBytes 1 2 ++ natBytes 4 spad ++
    zeros 8 ++ natBytes 4 0xFFFFFFFF

/-- The kernel table of ROM image 0 (R411): sstep and sscore. -/
def romTable (x : RomPlaces) : List Byte := romEntry 0x7065747373 x.step 65536 ++ romEntry 0x65726F637373 x.score 0

/-- A byte of ROM image 0: what R51, R52 and R411 fix, else the ROM's own (log 8). -/
def romByte (x : RomPlaces) (n : Nat) : Byte :=
  if n < 64 then (romHeader x).getD n 0
  else if x.table ≤ n ∧ n < x.table + 128 then (romTable x).getD (n - x.table) 0
  else Config.romImageByte n

/-- The 16,384 bytes of ROM image 0. -/
def romImage : List Byte := (List.range 16384).map (romByte romPlaces)

/-- The code section of ROM image 0. -/
def romCode : List Byte := (romImage.drop romPlaces.code).take romPlaces.codeSz

end Sys2Proof.Machine
end

