-- ==== Sys2Proof/Machine/Launch.lean ====
section
/-! DEFINITION. Launches and graphs (R53 to R57, R244 to R250, R389): descriptors and their checks, task control
blocks, admission and placement, completion, and handler groups (R395 to R397). -/

namespace Sys2Proof.Machine

/-! ## Mappings (R54, R276, R277) -/

/-- The non-zero entries of a page table: index and entry. -/
def tableEntries (m : Memory) (pa : Nat) : List (Nat × Nat) :=
  (dedupKeys ((mslice m pa 65536).map fun e => e.1 / 8)).map fun i => (i, mreadN m (pa + 8 * i) 8)
where
  /-- Drop repeats of a rising list. -/
  dedupKeys : List Nat → List Nat
    | a :: b :: t => if a = b then dedupKeys (b :: t) else a :: dedupKeys (b :: t)
    | l => l

/-- The pages that a table maps, lvl levels above the last, from the address va on. -/
def tableLeaves (m : Memory) (pa va : Nat) : Nat → List Leaf
  | 0 => []
  | n + 1 =>
    let lvl := 3 - n
    let span := 2 ^ (16 + 13 * n)
    (tableEntries m pa).flatMap fun e =>
      let a := va + span * e.1
      if !pteFormed lvl e.2 then []
      else if nbit e.2 1 then [leafOf lvl a e.2]
      else tableLeaves m (ptePa e.2) a n

/-- Every page mapped in an address space, in ascending address. -/
def leavesOf (s : State) (asid : Nat) : List Leaf := match tget s.roots asid with
  | some r => (tableLeaves s.mem r 0 3).filter fun l => decide (l.va < 2 ^ 54)
  | none => []

/-- Whether a range touches a mapped page. -/
def touchesMap (s : State) (asid lo n : Nat) : Bool :=
  (leavesOf s asid).any fun l => decide (l.va < lo + n) && decide (lo < l.va + l.size)

/-- Whether a range lies wholly in mapped pages, writable where w asks it: n pieces of it left to check. -/
def coversMap (ls : List Leaf) (lo hi : Nat) (w : Bool) : Nat → Bool
  | 0 => false
  | k + 1 => decide (hi ≤ lo) || match ls.find? fun l => decide (l.va ≤ lo) && decide (lo < l.va + l.size) && (l.w || !w) with
    | some l => coversMap ls (l.va + l.size) hi w k
    | none => false

/-- Whether n bytes at lo lie wholly in mapped, writable pages. -/
def mappedW (s : State) (asid lo n : Nat) : Bool :=
  let ls := leavesOf s asid
  n = 0 || coversMap ls lo (lo + n) true (ls.length + 1)

/-! ## The launch descriptor (R53, R54) -/

/-- The fields of 256 descriptor bytes. -/
def parseDesc (m : List Byte) : Desc :=
  let f (o n : Nat) : Nat := leNat ((m.drop o).take n)
  { image := f 0 8, entry := f 8 8, pword := BitVec.ofNat 32 (f 16 4), threads := f 20 2, gang := f 22 1, cls := f 23 1 % 4
    det := nbit (f 23 1) 2, gx := f 24 4, gy := f 28 4, gz := f 32 4, prio := f 36 1 % 8, acc := f 37 1, spad := f 40 4
    priv := f 44 4, spillA := f 48 8, spillN := f 56 8, param := BitVec.ofNat 64 (f 64 8), trap := f 72 8
    task := BitVec.ofNat 64 (f 88 8), privA := f 96 8, winA := f 104 8 }

/-- Workgroups of a grid. -/
def gridOf (d : Desc) : Nat := d.gx * d.gy * d.gz

/-- Whether a PC lies in an image's code section, a multiple of 4. -/
def inCode (im : Image) (pc : Nat) : Bool :=
  decide (pc % 4 = 0) && decide (im.addr + im.codeOff ≤ pc) && decide (pc < im.addr + im.codeOff + im.codeSz)

/-- The limits of a partition word (R55). -/
def pwOk (w : Word) : Bool :=
  decide (nfld w.toNat 24 8 = 0) && decide (1 ≤ pwDug w) && decide (4 ≤ pwRf w) && decide (pwRf w ≤ 24) &&
    decide (pwRf w + pwSp w + pwAcc w + pwDug w ≤ 32)

/-- Bytes of the register window (R70). -/
def winBytesOf (d : Desc) : Nat := roundUp (gridOf d * 2 ^ 21) (2 ^ 42)

/-- The limits of R53 on the fields and reserved bytes. -/
def descOk (im : Image) (m : List Byte) (d : Desc) : Bool :=
  let f (o n : Nat) : Nat := leNat ((m.drop o).take n)
  inCode im d.entry && pwOk d.pword &&
    decide (16 ≤ d.threads) && decide (d.threads ≤ 4096) && decide (d.threads % 16 = 0) &&
    decide (1 ≤ d.gang) && decide (d.gang ≤ 16) && decide (d.cls ≠ 3) && decide (f 23 1 < 8) &&
    decide (1 ≤ gridOf d) && decide (gridOf d < 2 ^ 32) && decide (gridOf d % d.gang = 0) &&
    decide (f 36 1 < 8) && decide (d.acc ≤ 32) && decide (d.acc ≤ 4 * pwAcc d.pword) && decide (f 38 2 = 0) &&
    decide (d.spad % 128 = 0) && decide (d.spad ≤ 65536 * pwSp d.pword) && decide (d.priv % 4 = 0) && decide (d.priv ≤ 65536) &&
    decide (d.spillA % 64 = 0) && decide (d.spillN % 64 = 0) && (d.trap = 0 || inCode im d.trap) &&
    decide (f 80 2 < 4096) && decide (f 82 2 < 16384) && decide (f 84 4 = 0) &&
    (d.priv = 0 || decide (d.privA % 65536 = 0)) &&
    (d.winA = 0 || (decide (d.winA % 2 ^ 42 = 0) && decide (d.winA + winBytesOf d ≤ 2 ^ 54))) &&
    (m.drop 112).all fun b => b = 0

/-- The ranges of R54 item 5. -/
def descRanges (s : State) (asid : Nat) (d : Desc) : Bool :=
  mappedW s asid d.spillA d.spillN && mappedW s asid d.privA (gridOf d * d.threads * d.priv) &&
    (d.winA = 0 || !touchesMap s asid d.winA (winBytesOf d))

/-- Cores of chiplets that are present (R40). -/
def presentCores (s : State) : Nat := 64 * ((List.range 4).filter fun i => s.fixed.present.getLsbD i).length

/-- Workgroups that an empty core holds (R56). -/
def wgsPerCore (d : Desc) : Nat :=
  let byG := 256 / max 1 (d.threads / 16)
  let byS := if d.spad = 0 then byG else 65536 * pwSp d.pword / d.spad
  let byA := if d.acc = 0 then byG else min 32 (4 * pwAcc d.pword) / d.acc
  min byG (min byS byA)

/-- Whether a concurrent launch, or a gang, fits on an empty device (R54 item 6). -/
def fitsEmpty (s : State) (d : Desc) : Bool :=
  decide ((if d.cls = 0 then gridOf d else d.gang) ≤ presentCores s * wgsPerCore d)

/-- Bytes of a descriptor replaced at an offset: what a graph task, a scorer or an admission launch changes. -/
def patchDesc (off : Nat) (bs : List Byte) (m : List Byte) : List Byte := m.take off ++ bs ++ m.drop (off + bs.length)

/-- A graph task's class and priority in its descriptor (R244). -/
def taskDesc (cls prio : Nat) (m : List Byte) : List Byte :=
  patchDesc 36 (natBytes 1 prio) (patchDesc 23 [BitVec.ofNat 8 ((m.getD 23 0).toNat / 4 * 4 + cls)] m)

/-- The check of a descriptor (R54), once fix has changed it: its fields, or the first failure. DESIGN CHOICE (log 52): of two images
loaded at one destination for the tenant, the one of lowest id gives the code section. -/
def checkDesc (s : State) (tenant va : Nat) (fix : List Byte → List Byte) : Except Nat Desc :=
  match tget s.tenants tenant with
  | none => .error stBadtenant
  | some t =>
    if va % 64 ≠ 0 then .error stBadfield
    else match vread s t.asid va 256 with
      | none => .error stBadaddr
      | some m0 =>
        let m := fix m0
        let d := parseDesc m
        let f (o n : Nat) : Nat := leNat ((m.drop o).take n)
        if f 80 2 % 4096 ≠ tenant ∨ f 82 2 % 16384 ≠ t.asid then .error stBadtenant
        else match s.images.find? fun e => decide (e.2.tenant = tenant) && decide (e.2.addr = d.image) with
          | none => .error stBadimage
          | some (_, im) =>
            if !descOk im m d then .error stBadfield
            else if !descRanges s t.asid d then .error stBadaddr
            else if !fitsEmpty s d then .error stNores
            else .ok { d with det := d.det || t.det }

/-- Launches that the distributor holds, at most 4,096: made, given room, and not completed (R247). -/
def heldLaunches (s : State) : Nat := (s.launches.filter fun e => !e.2.finished).length - s.taskq.length

/-- Whether the distributor has room for a launch. -/
def roomForLaunch (s : State) : Bool := decide (heldLaunches s < 4096)

/-- A launch is made; where the distributor has no room for it, it waits behind those that wait already (R247). -/
def makeLaunch (s : State) (tenant : Nat) (d : Desc) (o : Origin) : State :=
  let k := s.nextKey
  let asid := match tget s.tenants tenant with
    | some t => t.asid
    | none => 0
  { s with nextKey := k + 1
           taskq := if roomForLaunch s then s.taskq else s.taskq ++ [k]
           launches := tset s.launches k
             { tenant := tenant, asid := asid, desc := d, origin := o, made := k, madeAt := s.clk, next := 0, aborted := false, faulted := false
               lost := false, fq := [], fwait := [], fseq := 0, server := none, ident := k, finished := false } }

/-! ## The ROM plan's areas and descriptors (R343, R411) -/

/-- Bytes of the batch area. -/
def batchBytes : Nat := 131136

/-- The areas of a ROM plan: its task control block at the start, its batch area, its token array, its parameter block. -/
def romBatch (p : Plan) : Nat := p.area + 64
def romToks (p : Plan) : Nat := p.area + 64 + batchBytes
def romParam (p : Plan) : Nat := p.area + 64 + batchBytes + 4 * p.budget

/-- Bytes of the areas of a ROM plan. -/
def romAreaBytes (budget : Nat) : Nat := roundUp (64 + batchBytes + 4 * budget + 16) 128

/-- The descriptor of sstep or sscore that the command processor builds: the kernel table's entry, the image given to MODEL_PLAN,
and the plan's parameter block. Every launch of a DET only tenant is DET (R44). DESIGN CHOICE (log 8): priority 0, and DET clear for any
other tenant. -/
def romDesc (s : State) (p : Plan) (entry spad gx : Nat) : Desc :=
  let base := match tget s.images p.image with
    | some i => i.addr
    | none => 0
  { image := base, entry := base + romPlaces.code + entry, pword := 0x00040044#32, threads := 16, gang := 1, cls := 2
    det := match tget s.tenants p.tenant with
      | some t => t.det
      | none => false
    gx := gx, gy := 1, gz := 1, prio := 0, acc := 0, spad := spad, priv := 0, spillA := 0, spillN := 0
    param := BitVec.ofNat 64 (romParam p), trap := 0, task := 0, privA := 0, winA := 0 }

/-- The ROM plan whose graph it is. -/
def romPlanOf (s : State) (o : GraphOrigin) : Option Plan := match o with
  | .plan i => (tget s.plans i).filter fun p => p.tmpl.isNone
  | _ => none

/-! ## Graphs (R244 to R246) -/

/-- A task control block as read: PRED, its successors, and the other fields; none where it breaks a rule of form. -/
structure Block where
  pred  : Nat
  succs : List Nat
  restart : Bool
  cls   : Nat
  prio  : Nat
  desc  : Nat
deriving DecidableEq, Repr

/-- The overflow list at an address: none when it cannot be read; its indices, or none when it breaks a rule. -/
def readOvf (s : State) (asid va : Nat) : Option (Option (List Nat)) :=
  if va = 0 then some (some [])
  else match vreadN s asid va 4 with
    | none => none
    | some n =>
      if n = 0 ∨ 2 ^ 24 ≤ n then some none
      else match vread s asid (va + 4) (4 * n) with
        | none => none
        | some bs =>
          let ws := (List.range n).map fun i => leNat ((bs.drop (4 * i)).take 4)
          if ws.all fun w => decide (w < 2 ^ 24) then some (some ws) else some none

/-- Read one block (R244, R245): none when it cannot be read; the block, or none when it breaks a rule. -/
def readBlock (s : State) (asid va : Nat) : Option (Option Block) :=
  match vread s asid va 64 with
  | none => none
  | some m =>
    let f (o n : Nat) : Nat := leNat ((m.drop o).take n)
    let ns := f 4 1
    let inl := (List.range (ns % 16)).map fun j => f (24 + 3 * j) 3
    if 12 < ns ∨ 2 ≤ f 5 1 ∨ 4 ≤ f 6 1 ∨ f 6 1 = 3 ∨ 8 ≤ f 7 1 ∨ f 8 8 % 64 ≠ 0 ∨ f 16 8 % 4 ≠ 0 then
      (readOvf s asid (f 16 8 / 4 * 4)).map fun _ => none
    else (readOvf s asid (f 16 8)).map fun o => o.map fun ovf =>
      { pred := f 0 4, succs := inl ++ ovf, restart := nbit (f 5 1) 0, cls := f 6 1, prio := f 7 1, desc := f 8 8 }

/-- Whether a successor relation without wrong indices has no cycle: remove tasks that nothing left names, n times. -/
def acyclic : Nat → List (Nat × List Nat) → Bool
  | _, [] => true
  | 0, _ => false
  | n + 1, l =>
    let named := l.flatMap Prod.snd
    let rest := l.filter fun e => named.contains e.1
    decide (rest.length < l.length) && acyclic n rest

/-- The check of a graph (R245): its blocks, or the failing status. -/
def checkGraph (s : State) (asid base n : Nat) : Except Nat (List Block) :=
  if n = 0 ∨ 2 ^ 24 ≤ n then .error stBadfield
  else
    let bs := (List.range n).map fun k => readBlock s asid (base + 64 * k)
    if bs.any Option.isNone then .error stBadaddr
    else
      let cs := bs.filterMap id
      if cs.any Option.isNone then .error stBadfield
      else
        let ks := cs.filterMap id
        let named := ks.flatMap Block.succs
        let preds := (ks.zipIdx).all fun e => decide (e.1.pred = (named.filter fun j => decide (j = e.2)).length)
        if (named.all fun j => decide (j < n)) && preds && acyclic n ((ks.zipIdx).map fun e => (e.2, e.1.succs)) then .ok ks
        else .error stBadfield

/-- The retirement logic's copies. -/
def tasksOf (ks : List Block) : Table Task :=
  (ks.zipIdx).map fun e => (e.2, { pred := e.1.pred, succs := e.1.succs, restart := e.1.restart, cls := e.1.cls, prio := e.1.prio
                                   desc := e.1.desc, status := none, eligible := false })

/-- Change a task. -/
def modTask (s : State) (g k : Nat) (f : Task → Task) : State :=
  { s with graphs := tmod s.graphs g fun x => { x with tasks := tmod x.tasks k f } }

/-- Write a word of block k of a graph; a ROM plan's block lies in memory that the firmware reserves (R343). -/
def writeBlock (s : State) (g k off v : Nat) : State := match tget s.graphs g with
  | none => s
  | some x => match romPlanOf s x.origin, tget s.tenants x.tenant with
    | some p, _ => commitBytes s none (p.area + off) (natBytes 4 v)
    | none, some t => commitVirt s none t.asid (x.base + 64 * k + off) (natBytes 4 v)
    | none, none => s

/-- A task of a graph. -/
def taskAt (s : State) (g k : Nat) : Option Task := (tget s.graphs g).bind fun x => tget x.tasks k

/-- A task retires with a status: STATUS is written (R244). -/
def markRetired (s : State) (g k status : Nat) (spread : Bool) : State :=
  writeBlock (modTask s g k fun t => { t with status := some (status, spread) }) g k 60 status

/-- Decrement PRED of a successor; the tasks that become eligible gather. -/
def decPred (s : State) (g : Nat) (acc : List Nat) (k : Nat) : State × List Nat := match taskAt s g k with
  | none => (s, acc)
  | some t =>
    let s1 := writeBlock (modTask s g k fun x => { x with pred := x.pred - 1 }) g k 0 (t.pred - 1)
    (s1, if t.pred = 1 then acc ++ [k] else acc)

/-- The tasks reachable from a list of tasks, n generations on. -/
def reachable (s : State) (g : Nat) : Nat → List Nat → NatSet → NatSet
  | 0, _, seen => seen
  | n + 1, fr, seen =>
    let next := (fr.flatMap fun k => match taskAt s g k with
      | some t => t.succs
      | none => []).filter fun k => !seen.contains k
    if next.isEmpty then seen else reachable s g n next (nsAddAll next seen)

/-- Retire a task (R246): the state and the tasks that become eligible, in ascending index. -/
def retireTask (s : State) (g k status : Nat) : State × List Nat := match taskAt s g k with
  | none => (s, [])
  | some t =>
    let s1 := markRetired s g k status false
    if status = stOk then
      let r := t.succs.foldl (fun acc j => decPred acc.1 g acc.2 j) (s1, [])
      (r.1, sortBy id r.2)
    else
      let n := match tget s.graphs g with
        | some x => x.tasks.length
        | none => 0
      ((reachable s g n [k] []).foldl (fun u j => match taskAt u g j with
        | some x => if x.status.isNone then markRetired u g j stAborted true else u
        | none => u) s1, [])

/-- The descriptor of a task that becomes eligible, checked (R54); a ROM plan's is the command processor's own. -/
def taskDescOf (s : State) (x : Graph) (t : Task) : Except Nat Desc := match romPlanOf s x.origin with
  | some p => .ok (romDesc s p romPlaces.step 65536 1)
  | none => checkDesc s x.tenant t.desc (taskDesc t.cls t.prio)

/-- Tasks become eligible in order: the descriptor of each is checked, and it is launched or retires with the failure; n more
steps (R54, R246, R247). -/
def enterTasks (s : State) (g : Nat) : Nat → List Nat → State
  | 0, _ => s
  | _, [] => s
  | n + 1, k :: ks =>
    let s0 := modTask s g k fun t => { t with eligible := true }
    match tget s0.graphs g, taskAt s0 g k with
    | some x, some t => match taskDescOf s0 x t with
      | .ok d => enterTasks (makeLaunch s0 x.tenant d (.task g k)) g n ks
      | .error st =>
        let r := retireTask s0 g k st
        enterTasks r.1 g n (sortBy id (ks ++ r.2))
    | _, _ => enterTasks s0 g n ks

/-- The launches of a graph's tasks that have entered in this clock, by key, with the index of the task. -/
def sameClock (s : State) (g : Nat) : List (Nat × Nat × Launch) :=
  s.launches.filterMap fun e => match e.2.origin with
    | .task h i => if h = g ∧ e.2.madeAt = s.clk ∧ e.2.next = 0 then some (e.1, i, e.2) else none
    | _ => none

/-- The tasks of a graph that became eligible in one clock, through whatever completions, stand in ascending index: the launch of the
lowest index takes the first of their keys, and with it the first place in the distributor's order and in the queue for room (R246). -/
def orderTasks (s : State) (g : Nat) : State :=
  let es := sameClock s g
  let ks := (es.map Prod.fst).zip (sortBy Prod.fst (es.map Prod.snd))
  { s with launches := ks.foldl (fun t e => tset t e.1 { e.2.2 with made := e.1, ident := e.1 }) s.launches }

/-- Whether every task of a graph has retired. -/
def graphOver (x : Graph) : Bool := x.tasks.all fun e => e.2.status.isSome

/-- Tasks retired with SUCCESS, and the graph's status (R246). -/
def graphResult (x : Graph) : Nat × Nat :=
  let ok := (x.tasks.filter fun e => e.2.status = some (stOk, false)).length
  let bad := x.tasks.find? fun e => match e.2.status with
    | some (st, spread) => st != stOk && !spread
    | none => false
  (ok, match bad with
    | some (_, t) => (t.status.getD (stOk, false)).1
    | none => stOk)

/-- A submitted graph whose tasks have all retired completes its GRAPH_SUBMIT; a plan's waits for the Umpire (R348). -/
def settleGraph (s : State) (g : Nat) : State := match tget s.graphs g with
  | none => s
  | some x => match x.origin with
    | .plan _ => s
    | .imported => if graphOver x then { s with graphs := tdel s.graphs g } else s
    | .host o =>
      if graphOver x then
        let r := graphResult x
        complete { s with graphs := tdel s.graphs g } o r.2 (BitVec.ofNat 64 r.1)
      else s

/-- Number of tasks of a graph. -/
def taskCount (s : State) (g : Nat) : Nat := match tget s.graphs g with
  | some x => x.tasks.length
  | none => 0

/-- A checked graph is submitted: the tasks whose PRED is 0 become eligible in ascending index (R245). -/
def submitGraph (s : State) (tenant base : Nat) (ks : List Block) (o : GraphOrigin) : State :=
  let g := s.nextKey
  let s1 := { s with nextKey := g + 1
                     graphs := tset s.graphs g { tenant := tenant, base := base, origin := o, tasks := tasksOf ks, reissue := [] } }
  settleGraph (orderTasks (enterTasks s1 g ks.length (((ks.zipIdx).filter fun e => e.1.pred = 0).map Prod.snd)) g) g

/-- A task's launch has completed, or its descriptor has failed. -/
def taskEnds (s : State) (g k status : Nat) : State :=
  let r := retireTask s g k status
  settleGraph (orderTasks (enterTasks r.1 g (taskCount s g) r.2) g) g

/-! ## Placement (R56, R250) -/

/-- A group of a workgroup as it starts (R57). -/
def startGroup (inst key : Nat) (launch wg core : Nat) (at_ : Place) (home : Nat) (pc : Nat) (param lin : DWord) (clk : Nat) : Group :=
  { inst := inst, region := 0, launch := launch, wg := wg, core := core, part := at_.part, slot := at_.slot, res := .running
    store := .none, cause := .wait, arg := 0, waitm := 0, readyAt := clk, since := clk, want := .none, answered := false
    walkFault := none, home := true, tids := vec16 fun l => BitVec.ofNat 12 (16 * home + l), pc := BitVec.ofNat 64 pc, coff := 0
    repi := 0, rep := none, setA := 15, setB := 15, len := 0, pendV := 0, pendG := 0, exec := BitVec.allOnes 16
    alive := BitVec.allOnes 16, mood := 0, prog := 0, p := Vector.replicate 8 0
    g := ((Vector.replicate 32 (0 : DWord)).setIfInBounds 1 param).setIfInBounds 2 lin, gpoison := 0
    v := Vector.replicate 64 none, flags := Vector.replicate 12 { count := 0, err := false }, cedes := [], hbKey := key
    llSeen := false, engFlags := 0, resume := none, liveg := 0 }

/-- Whether a core is empty (R56). -/
def coreEmpty (s : State) (core : Nat) : Bool :=
  !(s.wgs.any fun e => e.2.placed && decide (e.2.core = core)) && !(s.groups.any fun e => decide (e.2.core = core) && e.2.store != .image)

/-- Workgroups on a core. -/
def wgsOn (s : State) (core : Nat) : List (Nat × Workgroup) := s.wgs.filter fun e => e.2.placed && decide (e.2.core = core)

/-- Group slots in use on a core. -/
def slotsUsed (s : State) (core : Nat) : Nat :=
  (((s.groups.filter fun e => takesSlot e.2 && decide (e.2.core = core)).map fun e => (e.2.part, e.2.slot)).eraseDups).length

/-- Whether a core accepts a workgroup (R56, R386). -/
def coreAccepts (s : State) (core tenant : Nat) (pw : Word) (groups spad acc : Nat) : Bool :=
  let ws := wgsOn s core
  chipIssues s core &&
    (coreEmpty s core || (decide ((coreOf s core).pword = pw) && ws.all fun e => decide (e.2.tenant = tenant))) &&
    decide (slotsUsed s core + groups ≤ 256) &&
    decide (ws.foldl (fun n e => n + e.2.spadLen) 0 + spad ≤ 65536 * pwSp pw) &&
    decide (ws.foldl (fun n e => n + e.2.nacc) 0 + acc ≤ min 32 (4 * pwAcc pw))

/-- The core that placement chooses (R250): of the first nine that accept from the pointer on, the first of lowest score. -/
def chooseCore (s : State) (accepts : Nat → Bool) : Option Nat :=
  leastBy (fun c => (coreOf s c).score) ((((List.range 256).map fun i => (s.pointer + i) % 256).filter accepts).take 9)

/-- A free slot of a core: the one asked for, else the first. -/
def pickSlot (s : State) (core : Nat) (hint : Option Place) : Place :=
  let free (p : Place) : Bool := decide (p.part < 8) && decide (p.slot < 32) && !(s.groups.any fun e =>
    takesSlot e.2 && decide (e.2.core = core) && decide (e.2.part = p.part) && decide (e.2.slot = p.slot))
  let first : Place := (firstSome (fun q => let p : Place := { part := q / 32, slot := q % 32 }
    if free p then some p else none) (List.range 256)).getD { part := 0, slot := 0 }
  match hint with
  | some p => if free p then p else first
  | none => first

/-- A workgroup as it is placed (R57). -/
def startWg (launch lin tenant core threads spad acc : Nat) (handler gang : Option Nat) : Workgroup :=
  { launch := launch, lin := lin, tenant := tenant, core := core, placed := true, handler := handler, gang := gang, threads := threads
    spadLen := spad, spad := [], absent := [], nacc := acc, tiles := [], phase := 0, next := [], named := [], colls := []
    slots := [], lz := [], chains := [] }

/-- Put a workgroup on a core: partition word, workgroup, and its groups in free slots; the places left over. -/
def putWg (s : State) (core : Nat) (pw : Word) (w : Workgroup) (pc : Nat) (param lin : DWord) (init : Group → Group)
    (places : List Place) : State × List Place :=
  let k := s.nextKey
  let s1 := setCore { s with nextKey := k + 1, wgs := tset s.wgs k w, pointer := (core + 1) % 256 } core { coreOf s core with pword := pw }
  (List.range (w.threads / 16)).foldl (fun (acc : State × List Place) h =>
    let t := acc.1
    let g := init (startGroup t.nextInst t.nextKey w.launch k core (pickSlot t core acc.2.head?) h pc param lin t.clk)
    ({ t with nextKey := t.nextKey + 1, nextInst := t.nextInst + 1, groups := tset t.groups t.nextKey g }, acc.2.drop 1)) (s1, places)

/-- Place one workgroup of a launch, if some core accepts it. -/
def placeWg (s : State) (l : Nat) (k : Launch) (lin : Nat) (gang : Option Nat) (places : List Place) : Option (State × List Place) :=
  let d := k.desc
  (chooseCore s fun c => coreAccepts s c k.tenant d.pword (d.threads / 16) d.spad d.acc).map fun core =>
    putWg s core d.pword (startWg l lin k.tenant core d.threads d.spad d.acc none gang) d.entry d.param (BitVec.ofNat 64 lin) id places

/-- Place n workgroups from index lin on, in order, or none of them. -/
def placeRanks (s : State) (l : Nat) (k : Launch) (gang : Option Nat) (places : List Place) : Nat → Nat → Option (State × List Place)
  | _, 0 => some (s, places)
  | lin, n + 1 => match placeWg s l k lin gang places with
    | none => none
    | some r => placeRanks r.1 l k gang r.2 (lin + 1) n

/-- Open a gang of n workgroups; its key and the state after. -/
def openGang (s : State) (l n : Nat) : Nat × State :=
  (s.nextKey, { s with nextKey := s.nextKey + 1, gangs := tset s.gangs s.nextKey { launch := l, size := n, phase := 0, next := [] } })

/-- Place the next unit of a launch: a gang whole, which may be a gang of one workgroup (R112, R247, R249). -/
def placeUnit (s : State) (l : Nat) (k : Launch) (lin : Nat) (places : List Place) : Option (State × List Place) :=
  let r := openGang s l k.desc.gang
  placeRanks r.2 l k (some r.1) places lin k.desc.gang

/-- Place every unit that is left, or none (R248). -/
def placeAll (s : State) (l : Nat) (k : Launch) (places : List Place) : Nat → Nat → Option (State × List Place)
  | _, 0 => some (s, places)
  | lin, n + 1 => match placeUnit s l k lin places with
    | none => none
    | some r => placeAll r.1 l k r.2 (lin + k.desc.gang) n

/-- Whether a task's launch entered before this clock, so that the order of entry of its clock is settled (R246). DEDUCED (log 8): its
first unit is admitted in a later clock than the one it became eligible in. -/
def entered (s : State) (k : Launch) : Bool := match k.origin with
  | .task .. => decide (k.madeAt < s.clk)
  | _ => true

/-- Whether a launch has units to place and may. -/
def wantsUnits (s : State) (k : Launch) : Bool :=
  entered s k && !k.aborted && !k.lost && decide (k.next < gridOf k.desc) && tenantRuns s k.tenant

/-- Launches in the distributor's order: priority 7 first, then as they were made (R247). -/
def admitOrder (s : State) : List (Nat × Launch) :=
  sortBy (fun e => (7 - e.2.desc.prio) * 2 ^ 64 + e.2.made) (s.launches.filter fun e => wantsUnits s e.2 && !s.taskq.contains e.1)

/-- One admission step over launches in order; it stops at the first that cannot place its next unit (R247, R248). -/
def admitAll (s : State) (places : List Place) : List (Nat × Launch) → State
  | [] => s
  | (l, k) :: t =>
    let left := (gridOf k.desc - k.next) / max 1 k.desc.gang
    let r := if k.desc.cls = 0 then placeAll s l k places k.next left else placeUnit s l k k.next places
    match r with
    | none => s
    | some r =>
      let n := if k.desc.cls = 0 then gridOf k.desc else k.next + k.desc.gang
      admitAll (modLaunch r.1 l fun x => { x with next := n }) r.2 t

/-! ## Handler groups (R395) -/

/-- The record that is served next: the first that the firmware does not hold. -/
def nextRecord (k : Launch) : Option FaultRec := k.fq.find? fun r => !r.fw

/-- Whether a handler group is due. -/
def handlerDue (s : State) (k : Launch) : Bool :=
  decide (k.desc.trap ≠ 0) && !k.aborted && !k.lost && k.server.isNone && (nextRecord k).isSome && tenantRuns s k.tenant

/-- ADMISSION_STEP (R247): a handler group that is due goes ahead of every queued unit. -/
def execAdmissionStep (places : List Place) (s : State) : Out :=
  .next (if s.launches.any fun e => handlerDue s e.2 then s else admitAll s places (admitOrder s))

/-- The g registers of a handler group: g3 to g18 hold the record, g19 holds 0 (R395). -/
def handlerRegs (r : FaultRec) (g : Group) : Group :=
  { g with g := (List.range 16).foldl (fun v i =>
      v.setIfInBounds (3 + i) (BitVec.ofNat 64 (leNat (((faultBytes r).drop (8 * i)).take 8)))) g.g }

/-- HANDLER_START (R395). DESIGN CHOICE (log 52): the handler group is outside the grid and reads 0 in %wgx, %wgy, %wgz and %gang. -/
def execHandlerStart (id : Nat) (place : Place) (s : State) : Out := .next (match tget s.launches id with
  | none => s
  | some k => match nextRecord k with
    | none => s
    | some r =>
      if !handlerDue s k then s
      else match chooseCore s fun c => coreAccepts s c k.tenant k.desc.pword 1 0 0 with
        | none => s
        | some core =>
          let q := openGang s id 1
          let w := startWg id 0 k.tenant core 16 0 0 (some r.seq) (some q.1)
          let t := (putWg q.2 core k.desc.pword w k.desc.trap k.desc.param (BitVec.ofNat 64 (2 ^ 32 - 1)) (handlerRegs { r with launch := k.ident }) [place]).1
          modLaunch t id fun x => { x with server := some r.seq })

/-- FIRMWARE_DISPOSE (R397): the next record of a launch without a handler; a LATE record only stands in the queue. A launch that has been
aborted or lost starts no handler and holds nothing: a command of it that faults later is aborted, so that it completes (R246, R388). -/
def execFirmwareDispose (id : Nat) (s : State) : Out := .next (match tget s.launches id with
  | none => s
  | some k => match k.fq.find? fun r => !r.fw && r.kind != 3 with
    | none => s
    | some r =>
      let ends := k.aborted || k.lost
      if (k.desc.trap ≠ 0 ∧ ends = false) ∨ !tenantRuns s k.tenant then s
      else if holdsXlate r && !ends then
        holdRecord s id r
      else firmwareEnd (modLaunch s id fun x => dropRecord x r.seq) r)

/-- XLATE_HOLD_TIMEOUT (R397): held for 1 s. -/
def execXlateHoldTimeout (id seq : Nat) (s : State) : Out := .next (match tget s.launches id with
  | none => s
  | some k => match k.fq.find? fun r => r.fw && decide (r.seq = seq) with
    | none => s
    | some r =>
      if decide (r.heldAt + usClk 1000000 ≤ s.clk) && tenantRuns s k.tenant then firmwareEnd (modLaunch s id fun x => dropRecord x seq) r else s)

/-- A MEM_MAP with HOLD clear has completed: held records whose page is now mapped are resumed (R397). -/
def resumeHeld (s : State) (tenant : Nat) : State :=
  (s.launches.filter fun e => decide (e.2.tenant = tenant)).foldl (fun t e =>
    (e.2.fq.filter fun r => r.fw).foldl (fun u r =>
      match walk u e.2.asid r.va with
      | .page _ => doResume (modLaunch u e.1 fun x => dropRecord x r.seq) r false
      | _ => u) t) s

/-! ## Completion (R246, R388, R389) -/

/-- Whether a launch is over: every workgroup admitted unless it is aborted or lost, every group finished, every instruction and
command that its groups accepted complete. A chain that is still walked does not hold it (R246, R305). -/
def launchOver (s : State) (l : Nat) (k : Launch) : Bool :=
  !k.finished && (k.aborted || k.lost || decide (gridOf k.desc ≤ k.next)) && !(s.groups.any fun e => decide (e.2.launch = l)) &&
    !(s.ops.any fun e => decide (e.2.launch = l)) && !(s.cmds.any fun e => decide (e.2.launch = l) && e.2.chain.isNone)

/-- The status of a launch that is over. -/
def launchStatus (k : Launch) : Nat :=
  if k.lost then stLost else if k.faulted then stFaulted else if k.aborted then stAborted else stOk

/-- The same; every launch of a tenant that closes ends ABORTED (R45). -/
def endStatus (s : State) (k : Launch) : Nat := match (tget s.tenants k.tenant).bind Tenant.closing with
  | some _ => stAborted
  | none => launchStatus k

/-- A launch leaves the distributor, with its gangs, and the first launch that waits takes the room; what a chain still needs of it
stays (R247, R305). -/
def dropLaunch (s : State) (l : Nat) : State :=
  let q := s.taskq.filter (· != l)
  let s1 := dropOver { s with taskq := q, launches := tmod s.launches l fun k => { k with finished := true }
                              gangs := s.gangs.filter fun e => decide (e.2.launch ≠ l) }
  if roomForLaunch s1 then { s1 with taskq := q.tail } else s1

/-- Re-issues that a task has had. -/
def reissues (s : State) (g k : Nat) : Nat := match tget s.graphs g with
  | some x => tgetD x.reissue k 0
  | none => 0

/-- A task's launch is over: a lost one of a restartable task is made again, at most 3 times; any other retires (R389). -/
def taskOver (s : State) (l : Nat) (k : Launch) (g i : Nat) : State :=
  let s1 := dropLaunch s l
  let again := decide (endStatus s k = stLost) && decide (reissues s g i < 3) && (match taskAt s g i with
    | some t => t.restart
    | none => false)
  if again then
    makeLaunch { s1 with graphs := tmod s1.graphs g fun x => { x with reissue := tset x.reissue i (tgetD x.reissue i 0 + 1) } }
      k.tenant k.desc (.task g i)
  else taskEnds s1 g i (endStatus s k)

/-- LAUNCH_COMPLETE (R246): of a direct launch or a graph task; the Umpire's own launches end with its events. -/
def execLaunchComplete (id : Nat) (s : State) : Out := .next (match tget s.launches id with
  | none => s
  | some k =>
    if !launchOver s id k then s
    else match k.origin with
      | .direct o => complete (dropLaunch s id) o (endStatus s k) (BitVec.ofNat 64 k.ident)
      | .task g i => taskOver s id k g i
      | .imported => dropLaunch s id
      | _ => s)

end Sys2Proof.Machine
end

