-- ==== Sys2Proof/Machine/Mapping.lean ====
section
/-! DEFINITION. Physical memory that the firmware hands out, and the page tables it writes (R24, R46, R276, R277, R279). -/

namespace Sys2Proof.Machine

/-! ## The firmware allocator -/

/-- Base and length of a tier: LPDDR 6 or HBM4 (R24). -/
def tierBase (lp : Bool) : Nat := if lp then 2 ^ 40 else 0
def tierLen (s : State) (lp : Bool) : Nat := if lp then s.lpddr else s.hbm

/-- Whether n bytes at base are free memory of a tier. -/
def memFree (s : State) (lp : Bool) (n base : Nat) : Bool :=
  decide (tierBase lp ≤ base) && decide (base + n ≤ tierBase lp + tierLen s lp) &&
    s.taken.all fun e => decide (base + n ≤ e.1) || decide (e.1 + e.2 ≤ base)

/-- The lowest free aligned base of n bytes: the tier's start or the end of a piece in use. -/
def lowestMem (s : State) (lp : Bool) (n align : Nat) : Option Nat :=
  ((tierBase lp :: s.taken.map fun e => roundUp (e.1 + e.2) align).filter (memFree s lp n)).min?

/-- Bytes of memory are set to 0 wherever a copy stands; a line written whole loses its poison (R46, R272, R274). -/
def zeroMem (s : State) (pa n : Nat) : State :=
  let inside (l : Nat) : Bool := decide (pa ≤ 128 * l) && decide (128 * l + 128 ≤ pa + n)
  { s with mem := mclear s.mem pa n, badLines := s.badLines.filter fun l => !inside l
           cores := tmap s.cores fun _ k => { k with l1 := k.l1.filter fun l => !inside l
                                                     code := keepCode s (k.code.map Prod.fst |>.filter inside) k.code } }

/-- Take n bytes, aligned: where the schedule's choice says, if that is free, else the lowest; zeroed. -/
def takeMem (s : State) (pick : List Nat) (lp : Bool) (n align : Nat) : Option (Nat × List Nat × State) :=
  let b := match pick.head? with
    | some b => if decide (b % align = 0) && memFree s lp n b then some b else lowestMem s lp n align
    | none => lowestMem s lp n align
  b.map fun b => (b, pick.drop 1, zeroMem { s with taken := tset s.taken b n } b n)

/-- What is left of a piece in use once a range is given back. -/
def cutPiece (lo n : Nat) (e : Nat × Nat) : List (Nat × Nat) :=
  let keepLo := (e.1, min (e.1 + e.2) lo - e.1)
  let keepHi := (max e.1 (lo + n), e.1 + e.2 - max e.1 (lo + n))
  if e.1 + e.2 ≤ lo ∨ lo + n ≤ e.1 then [e] else [keepLo, keepHi].filter fun x => x.2 != 0

/-- Give memory back. -/
def giveMem (s : State) (lo n : Nat) : State := { s with taken := s.taken.flatMap (cutPiece lo n) }

/-- Give a list of ranges back. -/
def giveAll (s : State) (l : List (Nat × Nat)) : State := l.foldl (fun t e => giveMem t e.1 e.2) s

/-! ## Page tables (R276, R277) -/

/-- A page table takes 64 KiB of HBM4. -/
def newTable (s : State) (pick : List Nat) : Option (Nat × List Nat × State) := takeMem s pick false 65536 65536

/-- Write entry i of a table. -/
def setPte (s : State) (table i e : Nat) : State := { s with mem := mwriteN s.mem (table + 8 * i) 8 e }

/-- Entry i of a table. -/
def pteAt (s : State) (table i : Nat) : Nat := mreadN s.mem (table + 8 * i) 8

/-- The root of an address space, made if there is none. -/
def rootTable (s : State) (pick : List Nat) (asid : Nat) : Option (Nat × List Nat × State) := match tget s.roots asid with
  | some r => some (r, pick, s)
  | none => (newTable s pick).map fun r => (r.1, r.2.1, { r.2.2 with roots := tset r.2.2.roots asid r.1 })

/-- The table under entry i of a table, made if the entry is not valid. -/
def subTable (s : State) (pick : List Nat) (table i : Nat) : Option (Nat × List Nat × State) :=
  let e := pteAt s table i
  if nbit e 0 then some (ptePa e, pick, s)
  else (newTable s pick).map fun r => (r.1, r.2.1, setPte r.2.2 table i (r.1 + 1))

/-- Bits of a page size: 0 64 KiB, 1 512 MiB, 2 4 TiB (R43). -/
def sizeBits (z : Nat) : Nat := 16 + 13 * z

/-- Index of an address in the table that holds its pages of a size. -/
def pteIdx (va z : Nat) : Nat := va / 2 ^ sizeBits z % 8192

/-- The table that holds the entry of a page of size z, made where it is missing. -/
def tableFor (s : State) (pick : List Nat) (asid va z : Nat) : Option (Nat × List Nat × State) :=
  match rootTable s pick asid with
  | none => none
  | some (r, p, t) =>
    if z = 2 then some (r, p, t)
    else match subTable t p r (pteIdx va 2) with
      | none => none
      | some (r1, p1, t1) => if z = 1 then some (r1, p1, t1) else subTable t1 p1 r1 (pteIdx va 1)

/-- The attribute bits of a mapping: V, LEAF, W, X, RT, CH (R277). -/
def leafBits (w rt ch : Bool) : Nat := 1 + 2 + 4 * b2n w + 8 + 16 * b2n rt + 32 * b2n ch

/-- Map the page at va to the frame at pa; none where a table cannot be allocated. -/
def mapPage (s : State) (pick : List Nat) (asid z va pa bits : Nat) : Option (List Nat × State) :=
  (tableFor s pick asid va z).map fun r => (r.2.1, setPte r.2.2 r.1 (pteIdx va z) (pa + bits))

/-- The frames of n pages of a size, one by one; none on a shortage. -/
def takeFrames (s : State) (pick : List Nat) (lp : Bool) (size : Nat) : Nat → Option (List Nat × List Nat × State)
  | 0 => some ([], pick, s)
  | n + 1 => match takeMem s pick lp size size with
    | none => none
    | some (b, p, t) => (takeFrames t p lp size n).map fun r => (b :: r.1, r.2)

/-- Map a list of frames from va on. -/
def mapPages (s : State) (pick : List Nat) (asid z bits : Nat) : Nat → List Nat → Option State
  | _, [] => some s
  | va, f :: fs => match mapPage s pick asid z va f bits with
    | none => none
    | some (p, t) => mapPages t p asid z bits (va + 2 ^ sizeBits z) fs

/-- The four frames of each hint group of a list of 2 GiB pieces (R279). -/
def groupFrames (gs : List Nat) : List Nat := gs.flatMap fun g => (List.range 4).map fun i => g + 2 ^ 29 * i

/-- The pieces in use of hint groups, one for each frame. -/
def splitTaken (s : State) (gs : List Nat) : State :=
  gs.foldl (fun t g => { t with taken := (groupFrames [g]).foldl (fun u f => tset u f (2 ^ 29)) t.taken }) s

/-- Frames for a mapping, and whether they carry CH (R279): whole hint groups from contiguous memory where the hint asks and
the range and the memory allow, single frames otherwise. -/
def framesFor (s : State) (pick : List Nat) (lp : Bool) (z va n : Nat) (hint : Bool) : Option (List Nat × Bool × List Nat × State) :=
  let plain := (takeFrames s pick lp (2 ^ sizeBits z) n).map fun r => (r.1, false, r.2)
  if hint && decide (z = 1) && decide (va % 2 ^ 31 = 0) && decide (n % 4 = 0) then
    match takeFrames s pick lp (2 ^ 31) (n / 4) with
    | some r => some (groupFrames r.1, true, r.2.1, splitTaken r.2.2 r.1)
    | none => plain
  else plain

/-- Map n pages of size z from va on (R46); none on a shortage of frames or tables. -/
def mapRange (s : State) (pick : List Nat) (asid z va n : Nat) (lp rt hint ro : Bool) : Option State :=
  match framesFor s pick lp z va n hint with
  | none => none
  | some (fs, ch, p, t) => mapPages t p asid z (leafBits (!ro) rt ch) va fs

/-! ## Unmapping and splitting (R46) -/

/-- Size class of a page. -/
def leafClass (l : Leaf) : Nat := if l.size = 2 ^ 42 then 2 else if l.size = 2 ^ 29 then 1 else 0

/-- A table of the 8,192 smaller pages of a page, with its attributes; CH goes. -/
def splitBytes (l : Leaf) : List Byte :=
  (List.range 8192).flatMap fun i => natBytes 8 (l.pa + l.size / 8192 * i + leafBits l.w l.rt false - 8 * b2n (!l.x))

/-- Replace a large page by a table of smaller ones. -/
def splitLeaf (s : State) (pick : List Nat) (asid : Nat) (l : Leaf) : Option (List Nat × State) :=
  match newTable s pick with
  | none => none
  | some (t, p, s1) => (tableFor { s1 with mem := mwrite s1.mem t (splitBytes l) } p asid l.va (leafClass l)).map fun r =>
      (r.2.1, setPte r.2.2 r.1 (pteIdx l.va (leafClass l)) (t + 1))

/-- Split pages until none has the address b inside it, n times at most. -/
def splitAt (s : State) (pick : List Nat) (asid b : Nat) : Nat → Option (List Nat × State)
  | 0 => some (pick, s)
  | n + 1 => match walk s asid b with
    | .page l => if l.va = b then some (pick, s) else match splitLeaf s pick asid l with
      | none => none
      | some (p, t) => splitAt t p asid b n
    | _ => some (pick, s)

/-- The mapped pages that lie wholly in a range. -/
def leavesIn (s : State) (asid lo n : Nat) : List Leaf :=
  (leavesOf s asid).filter fun l => decide (lo ≤ l.va) && decide (l.va + l.size ≤ lo + n)

/-- Clear the entry of a page. -/
def clearPage (s : State) (asid : Nat) (l : Leaf) : State := match tableFor s [] asid l.va (leafClass l) with
  | some r => setPte r.2.2 r.1 (pteIdx l.va (leafClass l)) 0
  | none => s

/-- Unmap a range: the state, and the pages that were mapped; none where a split finds no memory for a table. -/
def unmapRange (s : State) (pick : List Nat) (asid lo n : Nat) : Option (State × List Leaf) :=
  match splitAt s pick asid lo 2 with
  | none => none
  | some (p, s1) => (splitAt s1 p asid (lo + n) 2).map fun r =>
      let ls := leavesIn r.2 asid lo n
      (ls.foldl (fun t l => clearPage t asid l) r.2, ls)

/-- The tables under a table, lvl levels above the last. -/
def tablesUnder (m : Memory) (pa : Nat) : Nat → List Nat
  | 0 => []
  | n + 1 => pa :: (tableEntries m pa).flatMap fun e =>
      if nbit e.2 0 && !nbit e.2 1 then tablesUnder m (ptePa e.2) n else []

/-- Every table of an address space. -/
def tablesOf (s : State) (asid : Nat) : List Nat := match tget s.roots asid with
  | some r => tablesUnder s.mem r 3
  | none => []

end Sys2Proof.Machine
end

