-- ==== Sys2Proof/Machine/Command.lean ====
section
/-! DEFINITION. The command processor (R39, R40): what every command goes through, and translation shootdowns (R390). -/

namespace Sys2Proof.Machine

/-! ## Reading a command (R39, R40) -/

/-- What a command's row fixes: PF only, device-level, accepted before FEAT_NEGOTIATE, the features it needs, and
whether a field of it breaks a rule (R39 items 3 to 6). -/
structure Rule where
  pf     : Bool := false
  device : Bool := false
  early  : Bool := false
  feats  : List Nat := []
  bad    : Bool := false
deriving DecidableEq, Repr

/-- What a command's own checks and effect give. -/
inductive Ans where
  /-- It fails and changes nothing. -/
  | fail (status : Nat)
  /-- It completes with SUCCESS. -/
  | ok (s : State) (res : DWord)
  /-- Its completion comes later, if it has not been posted. -/
  | later (s : State)

/-- The tenant a command names. -/
def tnOf (c : HostCmd) : Nat := c.tenant.toNat % 4096

/-- Whether a tenant is open and bound to a function; one that closes is not. -/
def tenantHere (s : State) (t fn : Nat) : Bool := match tget s.tenants t with
  | some x => decide (x.fn = fn) && x.closing.isNone
  | none => false

/-- The first failure of R39 items 2 to 6. -/
def preCheck (s : State) (c : HostCmd) (r : Rule) : Option Nat :=
  if alarmLevel s = 3 then some stAlarm
  else if (r.pf && c.fn != 0) || (if r.device then tnOf c != 0 else !tenantHere s (tnOf c) c.fn) then some stBadtenant
  else if !s.locked && !r.early then some stNotready
  else if r.feats.any fun b => !featOn s b then some stNofeat
  else if r.bad || c.rsv || decide (4096 ≤ c.tenant.toNat) then some stBadfield
  else none

/-- Whether a REQ_ADMIT of a queue still reads its prompt from the host. -/
def copiesPrompt (s : State) (fn q : Nat) : Bool := s.xfers.any fun e => (match e.2.job with
  | .prompt _ _ _ => true
  | _ => false) && decide (e.2.owed.fn = fn) && decide (e.2.owed.q = q)

/-- A command has been read, which made state t of state s: the requests of a doorbell write whose last command it is enter, once it has
been read with its prompt (R10). -/
def afterRead (s t : State) (fn q : Nat) : State :=
  if bellDone (qpOf s fn q) && !copiesPrompt t fn q then ringOut t fn q else t

/-- Read the command at the head of its queue: the checks, its effect, its completion, and the entry of the requests of
its doorbell write (R10, R39, R40). A queue that cannot be read stays as it is. -/
def runCommand (c : HostCmd) (r : Rule) (body : State → Owed → Ans) (s : State) : State :=
  if !canRead s c.fn c.q then s
  else
    let o := owedTo s c
    let s1 := advanceHead s c.fn c.q
    afterRead s (match preCheck s1 c r with
      | some st => complete s1 o st 0
      | none => match body s1 o with
        | .fail st => complete s1 o st 0
        | .ok t res => complete t o stOk res
        | .later t => t) c.fn c.q

/-- A command with an OPC outside the table (R39 item 1). -/
def badCommand (fn q : Nat) (s : State) : State :=
  if !canRead s fn q then s
  else
    let h := parseCommand fn q [] (headBytes s fn q)
    if opcKnown h.1 then s
    else afterRead s (complete (advanceHead s fn q) (owedTo s h.2) stBadop 0) fn q

/-- The queue of a command that is not deferred reads on only when its effect is complete (R40). -/
def setBusy (s : State) (o : Owed) (b : Bool) : State := setQp s o.fn o.q { qpOf s o.fn o.q with busy := b }

/-- Such a command completes. -/
def endBusy (s : State) (o : Owed) (status : Nat) (res : DWord) : State := complete (setBusy s o false) o status res

/-- Argument words that a row does not name are reserved (R39 item 6). -/
def noArgs (l : List DWord) : Bool := l.any fun w => w != 0

/-! ## Shootdowns (R390, R391) -/

/-- Whether a TLB entry maps part of a range. -/
def tlbMeets (asid lo hi : Nat) (e : TlbEntry) : Bool := decide (e.asid = asid) && decide (e.va < hi) && decide (lo < e.va + e.size)

/-- A chiplet's TLBs, and its cores', drop what maps part of a range. -/
def cleanTlbs (s : State) (chip asid lo hi : Nat) : State :=
  let clean (l : List TlbEntry) : List TlbEntry := l.filter fun e => !tlbMeets asid lo hi e
  { s with
    chips := s.chips.mapIdx fun i k => if i = chip then { k with tlb := clean k.tlb } else k
    cores := tmap s.cores fun c k => if c / 64 = chip then { k with tlb := clean k.tlb } else k }

/-- Whether an instruction is a load. -/
def isLoadOp (o : MemOp) : Bool := match o.kind with
  | .load _ => true
  | _ => false

/-- Whether an access of an accepted instruction that has not completed, a load's with the landing of its data, uses a translation of
the range that is no longer in force. -/
def oldAccess (s : State) (asid lo hi : Nat) (o : MemOp) : Bool :=
  (decide (o.space = .global) || decide (o.space = .priv)) && decide (asidOf s o.launch = asid) &&
    o.accs.any fun x => (!x.done || (isLoadOp o && !o.landed.getLsbD x.lane)) && decide (lo ≤ x.va) && decide (x.va < hi) && vphys s asid x.va false false != some x.addr

/-- A chiplet may acknowledge once its accesses with an old translation in the range have completed. -/
def mayAck (s : State) (chip asid lo hi : Nat) : Bool :=
  s.ops.all fun e => decide (e.2.core / 64 ≠ chip) || !oldAccess s asid lo hi e.2

/-- A MEM_MAP of a tenant has completed: its pools may choose victims again (R412), and held faults are disposed of (R397). -/
def mapDone (s : State) (tenant : Nat) (dispose : Bool) : State :=
  let s1 := { s with pools := tmap s.pools fun _ p => if p.tenant = tenant then { p with halted := false } else p }
  if dispose then resumeHeld s1 tenant else s1

/-- The last of a tenant: its id, its address space and its Playbook slices are free, and TENANT_CLOSE completes (R45). -/
def removeTenant (s : State) (tenant : Nat) (o : Owed) : State :=
  complete { s with tenants := tdel s.tenants tenant } o stOk 0

/-- A shootdown that every chiplet has acknowledged completes: frames go back, and the command completes. -/
def settleShoot (s : State) (k : Nat) : State := match tget s.shoots k with
  | none => s
  | some x =>
    if !x.chips.isEmpty then s
    else
      let s1 := giveAll { s with shoots := tdel s.shoots k } x.frames
      match x.owed with
      | some o => endBusy (mapDone s1 x.tenant x.dispose) o stOk x.result
      | none => match (tget s1.tenants x.tenant).bind Tenant.closing with
        | some o => removeTenant s1 x.tenant o
        | none => s1

/-- The race records of physical ranges whose pages are unmapped are discarded (R300). -/
def dropRaceIn (s : State) (l : List (Nat × Nat)) : State :=
  let hit (e : Nat × SectorRec) : Bool := l.any fun r => decide (r.1 ≤ 32 * e.1) && decide (32 * e.1 < r.1 + r.2)
  { s with race := s.race.filter fun e => !hit e, tele := { s.tele with raceDrop := s.tele.raceDrop + (s.race.filter hit).length } }

/-- Begin a shootdown: the page-walk caches drop what they hold of the range, and every chiplet in ACTIVE or
FENCING owes an acknowledgement. owed is none for TENANT_CLOSE. -/
def startShoot (s : State) (tenant asid lo hi : Nat) (frames : List (Nat × Nat)) (owed : Option Owed) (res : DWord)
    (dispose : Bool) : State :=
  let k := s.nextKey
  let cs := (List.range 4).filter fun i => match s.chips[i]? with
    | some c => decide (c.st = .active) || decide (c.st = .fencing)
    | none => false
  settleShoot { dropRaceIn s frames with
    nextKey := k + 1
    walkCache := uncache s.walkCache asid lo hi
    shoots := tset s.shoots k { asid := asid, lo := lo, hi := hi, chips := cs, frames := frames, owed := owed, result := res
                                tenant := tenant, dispose := dispose } } k

/-- SHOOTDOWN_ACK (R390). -/
def execShootdownAck (sd chip : Nat) (s : State) : Out := .next (match tget s.shoots sd with
  | none => s
  | some x =>
    if x.chips.contains chip && mayAck s chip x.asid x.lo x.hi then
      settleShoot { cleanTlbs s chip x.asid x.lo x.hi with shoots := tset s.shoots sd { x with chips := nsDel chip x.chips } } sd
    else s)

/-- A chiplet whose fence is complete counts as having acknowledged (R390 step 5, R391). -/
def fencedAcks (s : State) (chip : Nat) : State :=
  s.shoots.foldl (fun t e => settleShoot { t with shoots := tmod t.shoots e.1 fun x => { x with chips := nsDel chip x.chips } } e.1) s

end Sys2Proof.Machine
end

