-- ==== Sys2Proof/Machine/MemCmds.lean ====
section
/-! DEFINITION. Commands that map memory, load images and make pools (R46, R47, R51, R319, R381 to R383, R411). -/

namespace Sys2Proof.Machine

/-- The address space of the tenant a command names. -/
def cmdSpace (s : State) (c : HostCmd) : Nat := match tget s.tenants (tnOf c) with
  | some t => t.asid
  | none => 0

/-! ## MEM_MAP (R46) -/

/-- Whether the fields of MEM_MAP break a rule: size and count, alignment, the local range. -/
def mapBad (c : HostCmd) : Bool :=
  let n := c.a1.toNat
  let x := c.a2.toNat
  let z := if nbit x 6 then 0 else nfld x 0 2
  decide (256 ≤ x) || decide (2 ^ 24 < n) || noArgs [c.a3, c.a4, c.a5] ||
    (decide (n = 0) && (c.a0 != 0 || c.a2 != 0)) || (nbit x 6 && decide (nfld x 0 5 ≠ 0)) || decide (z = 3) ||
    decide (c.a0.toNat % 2 ^ sizeBits z ≠ 0) || decide (2 ^ 54 < c.a0.toNat + n * 2 ^ sizeBits z)

/-- The rule of MEM_MAP: tier 1 needs TIER2 (R41). -/
def mapRule (c : HostCmd) : Rule :=
  { feats := if nbit c.a2.toNat 2 && !nbit c.a2.toNat 6 then [2] else [], bad := mapBad c }

/-- MEM_MAP (R46). A count of 0 only disposes of held faults (R397). -/
def execMemMap (c : HostCmd) (s : State) : Out := .next (runCommand c (mapRule c)
  (fun t o =>
    let x := c.a2.toNat
    let n := c.a1.toNat
    let z := nfld x 0 2
    let asid := cmdSpace t c
    if n = 0 then .ok (mapDone t (tnOf c) true) 0
    else if touchesMap t asid c.a0.toNat (n * 2 ^ sizeBits z) then .fail stBadaddr
    else match mapRange t c.pick asid z c.a0.toNat n (nbit x 2) (nbit x 3) (nbit x 4) (nbit x 5) with
      | none => .fail stNores
      | some u => .later (startShoot (setBusy u o true) (tnOf c) asid c.a0.toNat (c.a0.toNat + n * 2 ^ sizeBits z) [] (some o)
          (BitVec.ofNat 64 n) (!nbit x 7))) s)

/-- MEM_MAP with unmap set (R46): frames go back once the shootdown is complete (R390). -/
def execMemMapUnmap (c : HostCmd) (s : State) : Out := .next (runCommand c (mapRule c)
  (fun t o =>
    let asid := cmdSpace t c
    let n := c.a1.toNat * 65536
    match unmapRange t c.pick asid c.a0.toNat n with
    | none => .fail stNores
    | some (u, ls) => .later (startShoot (setBusy u o true) (tnOf c) asid c.a0.toNat (c.a0.toNat + n)
        (ls.map fun l => (l.pa, l.size)) (some o) (BitVec.ofNat 64 (ls.foldl (fun k l => k + l.size / 65536) 0)) true)) s)

/-! ## IMAGE_LOAD (R47, R51, R381 to R383) -/

/-- Whether an image of n bytes keeps the rules of its header (R47, R51). -/
def imageOk (m : List Byte) (n : Nat) : Bool :=
  let f (o k : Nat) : Nat := leNat ((m.drop o).take k)
  let secs : List (Nat × Nat) := [(0, 64), (f 8 8, f 16 8), (f 24 8, f 32 8), (f 40 8, 64 * f 48 4)]
  decide (64 ≤ n) && decide (f 0 4 = 0x4C45554C) && decide (f 4 2 = 1) && decide (f 6 2 = 0) && decide (f 8 8 % 256 = 0) &&
    decide (f 16 8 % 4 = 0) && decide (f 24 8 % 64 = 0) && decide (f 40 8 % 64 = 0) && ((m.drop 52).take 12).all (fun b => b = 0) &&
    (secs.all fun e => decide (e.1 + e.2 ≤ n)) && apart secs

/-- The lowest id not in use from lo. -/
def lowestId {α : Type} (t : Table α) (lo : Nat) : Nat := lowestGap (tkeys t) lo

/-- Enter an image: its id, and the state (R47). -/
def addImage (s : State) (tenant dst : Nat) (m : List Byte) (rom : Bool) : Nat × State :=
  let f (o k : Nat) : Nat := leNat ((m.drop o).take k)
  let i := lowestId s.images 1
  (i, { s with images := tset s.images i { tenant := tenant, addr := dst, level := f 4 2, codeOff := f 8 8, codeSz := f 16 8, rom := rom } })

/-- IMAGE_LOAD with A0 [63] = 1 (R411). -/
def execImageLoadRom (c : HostCmd) (s : State) : Out := .next (runCommand c
  { bad := decide (nfld c.a0.toNat 8 55 ≠ 0) || c.a1 != 0 || noArgs [c.a3, c.a4, c.a5] }
  (fun t _ =>
    let asid := cmdSpace t c
    if nfld c.a0.toNat 0 8 ≠ 0 then .fail stNotfound
    else if !mappedW t asid c.a2.toNat 16384 then .fail stBadaddr
    else
      let r := addImage (commitVirt t none asid c.a2.toNat romImage) (tnOf c) c.a2.toNat romImage true
      .ok r.2 (BitVec.ofNat 64 r.1)) s)

/-! ## Copies of host memory (R381 to R383) -/

/-- The reads of n bytes at a host address from offset off on, k at most: each at most 512 bytes and within a 512-byte block of the
host (R381). -/
def cutReads (host n : Nat) : Nat → Nat → Table Nat
  | _, 0 => []
  | off, k + 1 =>
    if n ≤ off then []
    else
      let len := min (n - off) (512 - (host + off) % 512)
      (off, len) :: cutReads host n (off + len) k

/-- The pieces in which bytes at an offset of a destination reach its routes: cut at 2 KiB boundaries (R381), k at most. -/
def cutPieces (dst : Nat) : Nat → List Byte → Nat → List (Nat × List Byte)
  | _, _, 0 => []
  | off, bs, k + 1 =>
    if bs.isEmpty then []
    else
      let len := min bs.length (2048 - (dst + off) % 2048)
      (off, bs.take len) :: cutPieces dst (off + len) (bs.drop len) k

/-- The quadrant of a destination byte of a copy; none where it is not mapped. -/
def xferQuad (s : State) (x : Xfer) (off : Nat) : Option Nat :=
  if x.phys then some (quadOf (x.dst + off))
  else (vphys s (match tget s.tenants x.tenant with
    | some t => t.asid
    | none => 0) (x.dst + off) false false).map quadOf

/-- Write bytes of a copy at an offset of its destination. -/
def xferWrite (s : State) (x : Xfer) (off : Nat) (bs : List Byte) : State :=
  if x.phys then commitBytes s none (x.dst + off) bs
  else commitVirt s none (match tget s.tenants x.tenant with
    | some t => t.asid
    | none => 0) (x.dst + off) bs

/-- Replace a copy. -/
def setXfer (s : State) (k : Nat) (x : Xfer) : State := { s with xfers := tset s.xfers k x }

/-- Hand bytes at an offset to the routes of their pieces (R381). -/
def handPieces (s : State) (x : Xfer) (off : Nat) (bs : List Byte) : Xfer :=
  let ps := cutPieces x.dst off bs (bs.length / 2048 + 2)
  { x with pieces := x.pieces ++ ps, owing := nsAddAll (ps.filterMap fun p => xferQuad s x p.1) x.owing }

/-- Replace bytes that have arrived. -/
def putBytes (data : List Byte) (off : Nat) (bs : List Byte) : List Byte := data.take off ++ bs ++ data.drop (off + bs.length)

/-- Issue the reads of n bytes of a copy. -/
def askReads (s : State) (x : Xfer) (n : Nat) : Xfer := { x with reads := cutReads x.host n 0 (n / 512 + 2), since := s.clk }

/-- A copy of n bytes at a host address that asks for the first m of them; its command waits for it. -/
def startXfer (s : State) (o : Owed) (c : HostCmd) (job : XferJob) (host dst n m : Nat) (stage : XferStage) : State :=
  let x : Xfer := { owed := o, tenant := tnOf c, job := job, cmd := c, host := host, dst := dst, phys := false, data := zeros n
                    reads := [], since := 0, pieces := [], owing := [], stage := stage }
  setXfer { s with nextKey := s.nextKey + 1 } s.nextKey (askReads s x m)

/-- A copy of n bytes at a host address into HBM4 that the firmware reserves for it, all of them asked for; none on a shortage.
DESIGN CHOICE (log 24): where CTX_IMPORT and FW_PATCH put their bytes while they arrive. -/
def startStaged (s : State) (o : Owed) (c : HostCmd) (job : XferJob) (host n : Nat) : Option State :=
  (takeMem s c.pick false (roundUp n 128) 128).map fun r =>
    let k := r.2.2.nextKey
    let t := startXfer r.2.2 o { c with pick := r.2.1 } job host r.1 n n .body
    { t with xfers := tmod t.xfers k fun x => { x with phys := true } }

/-- IMAGE_LOAD from a host address (R47, R51, R382): its header is read first. -/
def execImageLoad (c : HostCmd) (s : State) : Out := .next (runCommand c { bad := noArgs [c.a3, c.a4, c.a5] }
  (fun t o =>
    let n := c.a1.toNat
    if n < 64 then .fail stBadimage
    else .later (startXfer (setBusy t o true) o c .image c.a0.toNat c.a2.toNat n 64 .header)) s)

/-! ## POOL_CREATE (R47, R319, R320) -/

/-- Fields of POOL_CREATE. -/
def poolF (c : HostCmd) : Nat := nfld c.a1.toNat 0 24
def poolP (c : HostCmd) : Nat := 2 ^ (nfld c.a1.toNat 24 3 + 2)
def poolL (c : HostCmd) : Nat := nfld c.a2.toNat 0 16
def poolBp (c : HostCmd) : Nat := nfld c.a2.toNat 16 32

/-- Whether they break a rule: P = 512, Bp, an element type without a width. -/
def poolBad (c : HostCmd) : Bool :=
  let e := c.a3.toNat
  decide (2 ^ 27 ≤ c.a1.toNat) || decide (2 ^ 48 ≤ c.a2.toNat) || decide (nfld c.a1.toNat 24 3 = 7) || decide (poolBp c % 128 ≠ 0) ||
    decide (12 < e) || decide (e = 5) || decide (e = 6) || noArgs [c.a4, c.a5]

/-- A pool as it is created: every frame FREE, frames 0 to F − 1 on the free list. -/
def newPool (c : HostCmd) (tier2 : Option Nat) : Pool :=
  { tenant := tnOf c, base := c.a0.toNat, f := poolF c, layers := poolL c, bp := poolBp c, p := poolP c, etype := c.a3.toNat
    tier2 := tier2, frames := [], free := List.range (poolF c)
    ctr := { alloc := 0, freed := 0, cow := 0, evict := 0, abandon := 0, fetch := 0 }, halted := false }

/-- POOL_CREATE. -/
def execPoolCreate (c : HostCmd) (s : State) : Out := .next (runCommand c { feats := [1], bad := poolBad c }
  (fun t _ =>
    let n := poolF c * poolL c * poolBp c
    let i := lowestId t.pools 0
    let add (u : State) (t2 : Option Nat) : Ans := .ok { u with pools := tset u.pools i (newPool c t2) } (BitVec.ofNat 64 i)
    if !mappedW t (cmdSpace t c) c.a0.toNat n then .fail stBadaddr
    else if !featOn t 2 then add t none
    else match takeMem t c.pick true (4 * n) 65536 with
      | none => .fail stNores
      | some (b, _, u) => add u (some b)) s)

end Sys2Proof.Machine
end

