-- ==== Sys2Proof/Machine/Plans.lean ====
section
/-! DEFINITION. Model plans, launches and graphs from the host, and the request commands (R11, R16, R17, R47 to R49,
R334, R338 to R343, R351, R352). -/

namespace Sys2Proof.Machine

/-! ## LAUNCH and GRAPH_SUBMIT (R54, R245, R247) -/

/-- LAUNCH: not read while the distributor holds 4,096 launches. -/
def execLaunch (c : HostCmd) (s : State) : Out := .next (
  if !roomForLaunch s then s
  else runCommand c { bad := decide (c.a0.toNat % 64 ≠ 0) || noArgs [c.a1, c.a2, c.a3, c.a4, c.a5] }
    (fun t o => match checkDesc t (tnOf c) c.a0.toNat id with
      | .error st => .fail st
      | .ok d => .later (makeLaunch t (tnOf c) d (.direct o))) s)

/-- GRAPH_SUBMIT (R245). -/
def execGraphSubmit (c : HostCmd) (s : State) : Out := .next (runCommand c
  { bad := decide (c.a0.toNat % 64 ≠ 0) || noArgs [c.a2, c.a3, c.a4, c.a5] }
  (fun t o => match checkGraph t (cmdSpace t c) c.a0.toNat c.a1.toNat with
    | .error st => .fail st
    | .ok ks => .later (submitGraph t (tnOf c) c.a0.toNat ks (.host o))) s)

/-! ## MODEL_PLAN (R342, R343, R411) -/

/-- Fields of MODEL_PLAN. -/
def planImage (c : HostCmd) : Nat := nfld c.a1.toNat 0 16
def planPool (c : HostCmd) : Nat := nfld c.a1.toNat 16 16
def planV (c : HostCmd) : Nat := nfld c.a2.toNat 0 32
def planBudget (c : HostCmd) : Nat := nfld c.a2.toNat 32 15

/-- Whether they break a rule. -/
def planBad (c : HostCmd) : Bool :=
  decide (2 ^ 32 ≤ c.a1.toNat) || decide (2 ^ 47 ≤ c.a2.toNat) || decide (planBudget c < 1) || decide (16384 < planBudget c) ||
    noArgs [c.a3, c.a4, c.a5]

/-- The image and the pool that a plan names (R47): the tenant's own. -/
def planParts (s : State) (c : HostCmd) : Option (Image × Pool) :=
  match tget s.images (planImage c), tget s.pools (planPool c) with
  | some i, some p => if i.tenant = tnOf c ∧ p.tenant = tnOf c then some (i, p) else none
  | _, _ => none

/-- Enter a plan (R47): the lowest free id from 1. -/
def addPlan (s : State) (c : HostCmd) (t : Option Tmpl) (area : Nat) : Ans :=
  let i := lowestId s.plans 1
  .ok { s with plans := tset s.plans i { tenant := tnOf c, image := planImage c, pool := planPool c, vocab := planV c
                                         budget := planBudget c, tmpl := t, area := area, bandit := [], iter := none } }
    (BitVec.ofNat 64 i)

/-- The template's fields; none where a reserved byte or a limit is broken. The prompt copies and request areas that PBASE and RAREA
place lie at multiples of 128 (R334). -/
def parseTmpl (m : List Byte) : Option Tmpl :=
  let f (o n : Nat) : Nat := leNat ((m.drop o).take n)
  let t : Tmpl := { graph := f 0 8, ntask := f 8 4, work := f 16 8, batch := f 24 8, toks := f 32 8, scorer := f 40 8
                    admKern := f 48 8, pbase := f 56 8, pcap := f 64 4, rarea := f 72 8 }
  if f 12 4 ≠ 0 ∨ f 68 4 ≠ 0 ∨ ((m.drop 80).any fun b => b != 0) ∨ t.ntask < 1 ∨ 2 ^ 24 ≤ t.ntask ∨ t.graph % 64 ≠ 0 ∨
    t.pcap % 128 ≠ 0 ∨ t.pcap < 256 ∨ t.pbase % 128 ≠ 0 ∨ t.rarea % 128 ≠ 0 then none else some t

/-- The areas of a template lie in mapped, writable memory. -/
def tmplMapped (s : State) (asid budget : Nat) (t : Tmpl) : Bool :=
  mappedW s asid t.work (64 * t.ntask) && mappedW s asid t.batch batchBytes && mappedW s asid t.toks (4 * budget) &&
    mappedW s asid t.pbase (16384 * t.pcap) && mappedW s asid t.rarea (2 ^ 24)

/-- MODEL_PLAN with a template (R342). -/
def execModelPlan (c : HostCmd) (s : State) : Out := .next (runCommand c
  { feats := [1], bad := planBad c || decide (c.a0.toNat % 64 ≠ 0) }
  (fun t _ =>
    let asid := cmdSpace t c
    if (planParts t c).isNone then .fail stNotfound
    else match vread t asid c.a0.toNat 256 with
      | none => .fail stBadaddr
      | some m => match parseTmpl m with
        | none => .fail stBadfield
        | some x =>
          if !tmplMapped t asid (planBudget c) x then .fail stBadaddr
          else match checkGraph t asid x.graph x.ntask with
            | .error st => .fail st
            | .ok _ => addPlan t c (some x) 0) s)

/-- The parameter block of the ROM kernels (R411). -/
def romBlock (p : Plan) : List Byte := natBytes 8 (romBatch p) ++ natBytes 4 p.vocab ++ zeros 4

/-- The parameter block of a ROM plan is written in its area. -/
def writeRomParam (s : State) (i : Nat) : State := match tget s.plans i with
  | some p => commitBytes s none (romParam p) (romBlock p)
  | none => s

/-- MODEL_PLAN with ROM plan 0 (R9, R47, R343, R411). -/
def execModelPlanRom (c : HostCmd) (s : State) : Out := .next (runCommand c
  { feats := [1], bad := planBad c || decide (nfld c.a0.toNat 8 55 ≠ 0) }
  (fun t _ =>
    if nfld c.a0.toNat 0 8 ≠ 0 then .fail stNotfound
    else if planV c < 2 ∨ 65536 < planV c then .fail stBadfield
    else match planParts t c with
      | none => .fail stNotfound
      | some (i, p) =>
        if p.bp % (2 * p.p) ≠ 0 ∨ rowBytes p % 16 ≠ 0 ∨ 32768 < rowBytes p then .fail stBadfield
        else if !i.rom then .fail stBadimage
        else match takeMem t c.pick false (romAreaBytes (planBudget c)) 128 with
          | none => .fail stNores
          | some (b, _, u) => match addPlan u c none b with
            | .ok v i => .ok (writeRomParam v i.toNat) i
            | x => x) s)

/-! ## REQ_ADMIT (R11, R48, R341) -/

/-- Whether an admission block breaks R48 or R358, or its penalty pointer R216. -/
def admitBad (m : List Byte) : Bool :=
  let f (o n : Nat) : Nat := leNat ((m.drop o).take n)
  decide (f 0 4 < 1) || decide (2 ^ 24 ≤ f 0 4) || decide (f 8 8 = 0 ∧ 64 < f 0 4) || decide (8 ≤ f 24 1) || decide (16 ≤ f 25 1) ||
    decide (8 < f 26 1) || decide (16 ≤ f 27 1) ||
    ((List.range 4).any fun i => nbit (f 27 1) i && (decide (f (36 + i) 1 < 1) || decide (8 < f (36 + i) 1))) ||
    decide (f 48 8 % 64 ≠ 0) || decide (f 56 8 ≠ 0) || ((m.drop 224).take 32).any fun b => b != 0

/-- The frames at hand in a pool (R346). -/
def atHand (p : Pool) : Nat :=
  available p + if p.tier2.isNone then 0 else (p.frames.filter fun e =>
    decide (e.2.st = .resident) && decide (e.2.pins = 0) && decide (1 ≤ e.2.ref)).length

/-- 32-bit words of bytes. -/
def wordsOf (bs : List Byte) (n : Nat) : List Word := (List.range n).map fun i => BitVec.ofNat 32 (leNat ((bs.drop (4 * i)).take 4))

/-- The lowest free request index (R11), but none by which an imported tenant's programs name another request (log 56). -/
def freeReq (s : State) : Option Nat :=
  let k := lowestGap (nsAddAll (s.reqs.filterMap fun e => e.2.named) (tkeys s.reqs)) 0
  if k < 16384 then some k else none

/-- A handle entry made for a request (R11, R330). -/
def ownHandle (s : State) (i tenant pool : Nat) : State :=
  { s with handles := tset s.handles i { handleAt s i with st := 1, tenant := tenant, pool := pool, c := 0, w := 0, bt := [], named := none } }

/-- The entry of a request as REQ_ADMIT sets it up (R341). -/
def admitEntry (s : State) (m : List Byte) (tenant plan fn q : Nat) (handle : DWord) (toks : List Word) (pcopy : Nat) : Request :=
  let f (o n : Nat) : Nat := leNat ((m.drop o).take n)
  let l := f 0 4
  { handle := handle, tenant := tenant, st := .prefill, reason := 0, initer := false, cancelp := false, dlmiss := false
    pframe := false, xpend := false, prio := f 24 1, plan := plan, specc := f 25 1, tmpl := 0, oldTmpl := 0, plen := l, maxnew := f 4 4
    committed := l, cursor := 0, nextin := toks.getLastD 0, seed := BitVec.ofNat 64 (f 16 8), streampos := l
    deadline := if f 40 8 = 0 then 0 else (s.clk / usClk 1 + f 40 8) % 2 ^ 64
    temp := BitVec.ofNat 32 (f 28 4), minp := BitVec.ofNat 32 (f 32 4), penalty := f 48 8, admseq := s.admSeq, iter := 0
    accepted := 0, stopctl := (m.drop 26).take 2 ++ (m.drop 36).take 4, stoptok := wordsOf (m.drop 64) 8
    stopseq := wordsOf (m.drop 96) 32, pcopy := pcopy, toks := toks, pend := [], last := none, bell := some (fn, q), pmem := none
    admission := none, cancels := [], exporting := none, wantExport := none, comCursor := 0, loading := false, named := none }

/-- The admission record (R334). -/
def admissionRecord (handle : DWord) (i l pcopy area : Nat) : List Byte :=
  natBytes 8 handle.toNat ++ natBytes 4 i ++ natBytes 4 l ++ natBytes 8 pcopy ++ natBytes 8 area ++ zeros 32

/-- The admission kernel of a request is launched (R334); a descriptor that fails R54 fails the request. -/
def startAdmission (s : State) (i : Nat) (r : Request) (x : Tmpl) : State :=
  let asid := match tget s.tenants r.tenant with
    | some t => t.asid
    | none => 0
  let area := x.rarea + 1024 * i
  let s1 := commitVirt s none asid area (zeros 960 ++ admissionRecord (wordOut s r.handle) (reqOut s i) r.plen r.pcopy area)
  match checkDesc s1 r.tenant x.admKern (patchDesc 64 (natBytes 8 (area + 960))) with
  | .ok d => modReq (makeLaunch s1 r.tenant d (.admission i)) i fun y => { y with st := .queued, admission := some s1.nextKey }
  | .error _ => failReq (modReq s1 i fun y => { y with st := .queued }) i (lastIter s1)

/-- The prompt with its padding to 128 bytes. -/
def padPrompt (raw : List Byte) : List Byte := raw ++ zeros (roundUp raw.length 128 - raw.length)

/-- What an admission comes to before its entry is made (R11, R48, R346): the request index and the plan, or the status. -/
def admitPre (s : State) (c : HostCmd) (m : List Byte) : Except Nat (Nat × Plan) :=
  let f (o n : Nat) : Nat := leNat ((m.drop o).take n)
  let l := f 0 4
  if admitBad m then .error stBadfield
  else match tget s.plans c.a1.toNat with
    | none => .error stNotfound
    | some p =>
      if p.tenant ≠ tnOf c then .error stNotfound
      else if decide (0xFFFFFF < l + f 4 4) || (match p.tmpl with
        | some x => decide (x.pcap < 4 * l)
        | none => false) then .error stBound
      else match freeReq s, tget s.pools p.pool with
        | some i, some q => if atHand q < (l + q.p - 1) / q.p then .error stNores else .ok (i, p)
        | _, _ => .error stNores

/-- The entry and the handle of an admitted request, and where its prompt copy lies: whether at a physical address, and which
(R11, R341, R343). None where a ROM plan's prompt finds no memory. -/
def enterReq (s : State) (c : HostCmd) (m raw : List Byte) (i : Nat) (p : Plan) : Option (State × Bool × Nat) :=
  let l := leNat (m.take 4)
  let bound := l + leNat ((m.drop 4).take 4)
  let h := handleWord (tnOf c) (handleAt s i).gen i bound
  let enter (u : State) (pcopy : Nat) (pmem : Option (Nat × Nat)) : State :=
    let r := { admitEntry u m (tnOf c) c.a1.toNat c.fn c.q h (wordsOf raw l) pcopy with pmem := pmem }
    ownHandle { u with reqs := tset u.reqs i r, admSeq := u.admSeq + 1 } i (tnOf c) p.pool
  match p.tmpl with
  | none => (takeMem s c.pick false (roundUp (4 * l) 128) 128).map fun r =>
      (enter r.2.2 0 (some (r.1, roundUp (4 * l) 128)), true, r.1)
  | some x => some (enter s (x.pbase + x.pcap * i) none, false, x.pbase + x.pcap * i)

/-- Its admission kernel, where the template has one, is launched (R334). -/
def startKernel (s : State) (i : Nat) (p : Plan) : State := match p.tmpl, tget s.reqs i with
  | some x, some r => if x.admKern = 0 then s else startAdmission s i r x
  | _, _ => s

/-- The prompt of a request, which has its entry from the moment its command is read, is read from the host (R341, R381). -/
def startPrompt (s : State) (o : Owed) (c : HostCmd) (i : Nat) (last : Bool) (host dst n : Nat) (phys : Bool) : State :=
  let k := s.nextKey
  let t := startXfer s o c (.prompt i last false) host dst n n .body
  { t with xfers := tmod t.xfers k fun x => { x with phys := phys } }

/-- REQ_ADMIT: a prompt that lies in the block is copied from it; any other is read from the host (R48, R381). Either way the command
is judged, and its entry made, at the moment it is read (R48, R341). -/
def execReqAdmit (c : HostCmd) (s : State) : Out := .next (runCommand c
  { feats := [4], bad := decide (c.a0.toNat % 64 ≠ 0) || decide (2 ^ 16 ≤ c.a1.toNat) || noArgs [c.a2, c.a3, c.a4, c.a5] }
  (fun t o =>
    let m := hostRead t c.a0.toNat 512
    let n := 4 * leNat (m.take 4)
    let a := leNat ((m.drop 8).take 8)
    match admitPre t c m with
    | .error st => .fail st
    | .ok (i, p) =>
      let raw := if a = 0 then (m.drop 256).take n else []
      match enterReq t c m raw i p with
      | none => .fail stNores
      | some (u, phys, at_) =>
        if a ≠ 0 then
          .later (startPrompt (setBusy (modReq u i fun r => { r with loading := true }) o true) o c i (bellDone (qpOf s c.fn c.q)) a at_ n phys)
        else
          let v := if phys then commitBytes u none at_ (padPrompt raw) else commitVirt u none (cmdSpace t c) at_ (padPrompt raw)
          .ok (startKernel v i p) (match tget u.reqs i with
            | some r => r.handle
            | none => 0)) s)

/-! ## REQ_CANCEL, REQ_FORK, REQ_QUERY (R16, R17, R49, R339, R351, R352) -/

/-- Whether a request has ended (R340). -/
def ended (st : ReqSt) : Bool := match st with
  | .done => true
  | .cancelled => true
  | .failed => true
  | .exported => true
  | _ => false

/-- The request a command names in A0, the tenant's own (R339). -/
def namedReq (s : State) (c : HostCmd) : Option (Nat × Request) := match tget s.reqs (reqIn s (tnOf c) c.a0.toNat) with
  | some r => if r.tenant = tnOf c && !r.loading then some (reqIn s (tnOf c) c.a0.toNat, r) else none
  | none => none

/-- Whether a tenant is PARKED, or on its way there (R398). -/
def preempted (s : State) (t : Nat) : Bool := match tget s.tenants t with
  | some x => x.park != .active
  | none => false

/-- REQ_CANCEL (R49, R351, R398). -/
def execReqCancel (c : HostCmd) (s : State) : Out := .next (runCommand c
  { feats := [4], bad := decide (2 ^ 14 ≤ c.a0.toNat) || noArgs [c.a1, c.a2, c.a3, c.a4, c.a5] }
  (fun t o => match namedReq t c with
    | none => .fail stNotfound
    | some (i, r) =>
      if r.xpend then .fail stBusy
      else if preempted t (tnOf c) && r.st != .queued && r.st != .paused then .fail stBusy
      else if ended r.st then .fail stBadstate
      else if r.initer then .later (modReq t i fun y => { y with cancelp := true, cancels := y.cancels ++ [o] })
      else .later (cancelReq t i (lastIter t) [o])) s)

/-- The 512 bytes of a request's entry with the handle word by which it is known, as the last commit left it (R17, R338). -/
def reqEntry (handle : DWord) (r : Request) : List Byte :=
  natBytes 8 handle.toNat ++ natBytes 2 r.tenant ++ natBytes 1 (stCode r.st + 16 * r.reason) ++
    natBytes 1 (r.prio + 8 * b2n r.xpend + 16 * b2n r.pframe + 32 * b2n r.dlmiss + 64 * b2n r.cancelp + 128 * b2n r.initer) ++
    natBytes 2 r.plan ++ natBytes 1 r.specc ++ natBytes 1 (if r.initer then r.oldTmpl else r.tmpl) ++ natBytes 4 r.plen ++ natBytes 4 r.maxnew ++
    natBytes 4 r.committed ++ zeros 4 ++ natBytes 4 r.comCursor ++ natBytes 4 r.nextin.toNat ++ natBytes 8 r.seed.toNat ++
    natBytes 8 r.streampos ++ natBytes 8 r.deadline ++ natBytes 4 r.temp.toNat ++ natBytes 4 r.minp.toNat ++
    natBytes 8 r.penalty ++ natBytes 8 r.admseq ++ natBytes 4 r.iter ++ zeros 4 ++ r.stopctl ++ zeros 26 ++
    r.stoptok.flatMap (fun w => natBytes 4 w.toNat) ++ r.stopseq.flatMap (fun w => natBytes 4 w.toNat) ++
    natBytes 8 r.pcopy ++ zeros 216

/-- The generation after a release: 255 wraps to 1 (R16). -/
def nextGen (g : Nat) : Nat := if g = 255 then 1 else g + 1

/-- A handle is released: its frames lose their refcounts and its generation moves on (R16, R330). -/
def releaseHandle (s : State) (i : Nat) : State :=
  let h := handleAt s i
  let s1 := modPool s h.pool fun p => dropPages p h.bt 0
  { s1 with handles := tset s1.handles i { h with st := 0, gen := nextGen h.gen, c := 0, w := 0, bt := [], named := none } }

/-- A request is released: its handle, its index, its prompt copy (R16, R343); an export of it ends ABORTED. -/
def releaseReq (s : State) (i : Nat) : State := match tget s.reqs i with
  | none => s
  | some r =>
    let s1 := match r.exporting with
      | some k => endXfer s k stAborted 0
      | none => s
    let s2 := releaseHandle { s1 with reqs := tdel s1.reqs i } (hIdx r.handle)
    match r.pmem with
    | some (b, n) => giveMem s2 b n
    | none => s2

/-- The rule of REQ_QUERY. -/
def queryRule (c : HostCmd) : Rule :=
  { feats := [4], bad := decide (2 ^ 14 ≤ c.a0.toNat) || decide (2 ≤ c.a1.toNat) || noArgs [c.a3, c.a4, c.a5] }

/-- REQ_QUERY (R17, R339). -/
def execReqQuery (c : HostCmd) (s : State) : Out := .next (runCommand c (queryRule c)
  (fun t _ => match namedReq t c with
    | none => .fail stNotfound
    | some (_, r) => .ok (hostWrite t c.a2.toNat (reqEntry (wordOut t r.handle) r)) 0) s)

/-- REQ_QUERY with RELEASE = 1 (R16, R339). -/
def execReqQueryRelease (c : HostCmd) (s : State) : Out := .next (runCommand c (queryRule c)
  (fun t _ => match namedReq t c with
    | none => .fail stNotfound
    | some (i, r) =>
      if !ended r.st then .fail stBadstate
      else .ok (releaseReq (hostWrite t c.a2.toNat (reqEntry (wordOut t r.handle) r)) i) 0) s)

/-- The states from which REQ_FORK is refused (R352). -/
def forkBad (st : ReqSt) : Bool := match st with
  | .queued => true
  | .prefill => true
  | .cancelled => true
  | .failed => true
  | .exported => true
  | _ => false

/-- The seed of a forked request (R352). -/
def forkSeed (r : Request) (child : Nat) (derived : Bool) : DWord :=
  if derived then BitVec.ofNat 64 (leNat (shake256 (natBytes 8 r.seed.toNat ++ natBytes 4 child ++ natBytes 4 r.committed) 8))
  else r.seed

/-- The first fault of reading a penalty state's header and entries (R216, R352). -/
def stateFault (s : State) (asid p : Nat) : Option (TrapCode × Nat) :=
  (vfault s asid p 64 false).or (vfault s asid (p + 64) (8 * (vreadN s asid (p + 12) 4).getD 0) false)

/-- Bytes of a penalty state: header and entries. -/
def penBytes (s : State) (asid p : Nat) : Nat := 64 + 8 * (vreadN s asid (p + 12) 4).getD 0

/-- The child's entry (R352): what R352 copies from the parent, the rest as an admission sets it. -/
def forkEntry (s : State) (r : Request) (h : DWord) (child maxnew pen : Nat) (derived : Bool) : Request :=
  { r with
    handle := h, reason := 0, initer := false, cancelp := false, pframe := false, xpend := false
    tmpl := 0, oldTmpl := 0, plen := r.committed, maxnew := maxnew, cursor := 0, seed := forkSeed r child derived, penalty := pen
    streampos := r.committed, admseq := s.admSeq, iter := 0, accepted := 0, pcopy := 0, pend := [], last := none, bell := none
    pmem := none, admission := none, cancels := [], exporting := none, wantExport := none, comCursor := 0, loading := false, named := none }

/-- REQ_FORK (R352). -/
def execReqFork (c : HostCmd) (s : State) : Out := .next (runCommand c
  { feats := [4], bad := decide (2 ^ 14 ≤ c.a0.toNat) || decide (2 ≤ c.a1.toNat) || decide (c.a3.toNat % 64 ≠ 0) || noArgs [c.a4, c.a5] }
  (fun t _ => match namedReq t c with
    | none => .fail stNotfound
    | some (_, r) =>
      let asid := cmdSpace t c
      let a3 := c.a3.toNat
      let bound := r.committed + c.a2.toNat
      if r.penalty = 0 ∧ a3 ≠ 0 then .fail stBadfield
      else if forkBad r.st then .fail stBadstate
      else if 0xFFFFFF < bound then .fail stBound
      else if a3 ≠ 0 ∧ ((stateFault t asid r.penalty).isSome ∨ !mappedW t asid a3 (penBytes t asid r.penalty)) then .fail stBadaddr
      else match freeReq t with
        | none => .fail stNores
        | some i =>
          let e := handleAt t (hIdx r.handle)
          match forkHandle t e i 1 e.c with
          | none => .fail stNores
          | some u =>
            let h := handleWord (tnOf c) (handleAt u i).gen i bound
            let u1 := if a3 = 0 then u
              else commitVirt u none asid a3 ((vread u asid r.penalty (penBytes u asid r.penalty)).getD [])
            let y := forkEntry u1 r h i c.a2.toNat a3 (nbit c.a1.toNat 0)
            let u2 := { u1 with reqs := tset u1.reqs i y, admSeq := u1.admSeq + 1 }
            .ok (modReq u2 i fun z => { z with st := nextSt u2 z }) h) s)

end Sys2Proof.Machine
end

