-- ==== Sys2Proof/Machine/Umpire.lean ====
section
/-! DEFINITION. The Umpire at work (R344 to R350, R359, R360, R363): an iteration forms, its graph and its scorer end; deadlines
pass and admission kernels complete. -/

namespace Sys2Proof.Machine

/-! ## Templates and the bandit's choice (R359, R360, R363) -/

/-- The widths w_1, w_2, … of the levels of template j (R359). -/
def tmplWidths (j : Nat) : List Nat :=
  if j ≤ 4 then List.replicate (j + 1) 1
  else ([[2, 1, 1, 1, 1], [2, 2, 1, 1, 1], [2, 2, 2, 1, 1], [3, 2, 2, 1, 1], [3, 3, 2, 1, 1], [3, 3, 2, 2, 1], [4, 3, 2, 2, 1],
    [4, 3, 3, 2, 1], [4, 4, 3, 2, 1], [4, 4, 3, 2, 2], [4, 4, 4, 2, 2]] : List (List Nat)).getD (j - 5) []

/-- Levels of template j, and its draft nodes. -/
def tmplDepth (j : Nat) : Nat := (tmplWidths j).length
def tmplNodes (j : Nat) : Nat := (tmplWidths j).sum

/-- The first node of level k, its spine node, in the order of the slots (R359, R360). -/
def spineNode (j k : Nat) : Nat := ((tmplWidths j).take (k - 1)).sum

/-- The level of node i: 1 and up. -/
def nodeLevel (j i : Nat) : Nat := ((List.range (tmplDepth j)).filter fun k => decide (spineNode j (k + 1) ≤ i)).length

/-- The node that node i is a child of: the spine node of the level before; none for the root, NEXTIN at position W. -/
def nodeParent (j i : Nat) : Option Nat := if nodeLevel j i ≤ 1 then none else some (spineNode j (nodeLevel j i - 1))

/-- The position of node i. -/
def nodePos (w j i : Nat) : Nat := w + nodeLevel j i

/-- The value of an arm: S ÷ n + sqrt(2 ln N ÷ n), each step rounded to binary64. -/
def armValue (x : Arm) (total : Nat) : FVal :=
  let n : FVal := .fin false x.n 0
  let mean := r64 (fdivV 128 (fval fmtF64 x.s.toNat) n)
  let ln := r64 (flnV fmtF64 0 (.fin false total 0))
  r64 (faddV 0 mean (r64 (fsqrtV 128 (r64 (fdivV 128 (r64 (fmulV (.fin false 2 0) ln)) n)))))

/-- The greatest value from a list of arms; ties to the earlier. -/
def bestArm (l : List (Nat × FVal)) : Nat := match l with
  | [] => 0
  | a :: t => (t.foldl (fun b x => if flt false b.2 x.2 then x else b) a).1

/-- The template that the bandit of a plan and class selects. -/
def pickTmpl (p : Plan) (cls : Nat) : Nat :=
  let arms := tgetD p.bandit cls []
  let arm (j : Nat) : Arm := tgetD arms j Arm.zero
  match (List.range 16).find? fun j => (arm j).n = 0 with
  | some j => j
  | none =>
    let total := (List.range 16).foldl (fun n j => n + (arm j).n) 0
    bestArm ((List.range 16).map fun j => (j, armValue (arm j) total))

/-! ## Choosing requests (R344 to R346) -/

/-- Whether a request may take part in a formation (R344). -/
def eligible (r : Request) : Bool :=
  !r.initer && !r.xpend && !r.loading && r.bell.isNone && r.admission.isNone && (match r.st with
    | .prefill => true
    | .decode => true
    | .spec => true
    | .paused => r.pframe
    | _ => false)

/-- The eligible requests of a plan. -/
def eligibleOf (s : State) (plan : Nat) : List (Nat × Request) := s.reqs.filter fun e => decide (e.2.plan = plan) && eligible e.2

/-- Whether a plan is ready, its tenant not stopped by PREEMPT (R344, R398). -/
def planReady (s : State) (i : Nat) (p : Plan) : Bool := p.iter.isNone && tenantRuns s p.tenant && !(eligibleOf s i).isEmpty

/-- The plan that is formed next (R344). -/
def nextPlan (s : State) : Option Nat :=
  let l := (s.plans.filter fun e => planReady s e.1 e.2).map Prod.fst
  (l.find? fun i => decide (s.lastPlan < i)).or l.head?

/-- The selection order (R345): priority, then deadline with 0 last, then admission. -/
def selKey (r : Request) : Nat :=
  ((7 - r.prio) * 2 ^ 65 + if r.deadline = 0 then 2 ^ 64 else r.deadline) * 2 ^ 64 + r.admseq

/-- A request chosen: its index, entry, W, tokens, kind and SAMPLE. -/
structure Choice where
  req  : Nat
  r    : Request
  w    : Nat
  t    : Nat
  kind : Nat
  samp : Bool
deriving DecidableEq, Repr

/-- W of a request's handle. -/
def reqW (s : State) (r : Request) : Nat := (handleAt s (hIdx r.handle)).w

/-- Tokens that a speculative request takes with template j when some are left (R360). -/
def specTokens (s : State) (r : Request) (j left : Nat) : Nat :=
  if left < tmplNodes j + 1 ∨ hBound r.handle ≤ reqW s r + tmplDepth j then 1 else tmplNodes j + 1

/-- Choose one request if it fits: the choices and the tokens left (R345). -/
def chooseOne (s : State) (tmpl : Nat → Nat) (acc : List Choice × Nat) (e : Nat × Request) : List Choice × Nat :=
  let left := acc.2
  let r := e.2
  if left = 0 ∨ 4096 ≤ acc.1.length then acc
  else
    let w := reqW s r
    let add (t kind : Nat) (samp : Bool) : List Choice × Nat :=
      (acc.1 ++ [{ req := e.1, r := r, w := w, t := t, kind := kind, samp := samp }], left - t)
    match nextSt s r with
    | .prefill => let t := min (r.plen - w) left; add t 0 (decide (r.plen ≤ w + t))
    | .spec => add (specTokens s r (tmpl r.specc) left) 2 true
    | _ => add 1 1 true

/-- The two passes of a formation (R345). -/
def choose (s : State) (plan : Nat) (p : Plan) : List Choice :=
  let es := sortBy (fun e => selKey e.2) (eligibleOf s plan)
  let first := es.filter fun e => nextSt s e.2 != .prefill
  let second := es.filter fun e => nextSt s e.2 == .prefill
  (second.foldl (chooseOne s fun _ => 0) (first.foldl (chooseOne s (pickTmpl p)) ([], p.budget))).1

/-- Frames that a chosen request needs (R346). -/
def framesNeeded (s : State) (p : Pool) (c : Choice) : Nat :=
  let up (n : Nat) : Nat := (n + p.p - 1) / p.p
  let shared : Bool := match (handleAt s (hIdx c.r.handle)).bt[c.w / p.p]? with
    | some f => decide (1 < (frameOf p f).ref)
    | none => false
  up (c.w + c.t) - up c.w + b2n (decide (c.w % p.p ≠ 0) && shared)

/-- The chosen requests whose frames are at hand, and the others (R346). -/
def countFrames (s : State) (p : Pool) (l : List Choice) : List Choice × List Choice :=
  let r := l.foldl (fun (acc : (List Choice × List Choice) × Nat) c =>
    let n := framesNeeded s p c
    if atHand p < acc.2 + n then ((acc.1.1, acc.1.2 ++ [c]), acc.2) else ((acc.1.1 ++ [c], acc.1.2), acc.2 + n)) (([], []), 0)
  r.1

/-! ## The batch area (R347) -/

/-- The tokens of a prompt chunk: from the prompt copy; NEXTIN where a forked or imported request has none. None where the
copy cannot be read. -/
def chunkTokens (s : State) (asid : Nat) (c : Choice) : Option (List Word) :=
  let here (bs : List Byte) : List Word := wordsOf bs c.t
  match c.r.pmem with
  | some (b, _) => some (here (mread s.mem (b + 4 * c.w) (4 * c.t)))
  | none =>
    if c.r.pcopy ≠ 0 then (vread s asid (c.r.pcopy + 4 * c.w) (4 * c.t)).map here
    else some ((List.range c.t).map fun k => if c.w + k + 1 = c.r.committed then c.r.nextin else c.r.toks.getD (c.w + k) 0)

/-- The tokens of an entry. -/
def entryTokens (s : State) (asid : Nat) (c : Choice) : Option (List Word) :=
  if c.kind = 0 then chunkTokens s asid c
  else some (c.r.nextin :: List.replicate (c.t - 1) (BitVec.allOnes 32))

/-- The entries of a batch and their tokens. -/
def layEntries (s : State) (asid : Nat) (l : List Choice) : Option (List BatchEntry × List Word) :=
  l.foldl (fun acc c => match acc, entryTokens s asid c with
    | some (es, ts), some ws => some (es ++ [{ req := c.req, kind := c.kind, sample := c.samp, first := c.w, t := c.t
                                               tok := ts.length, handle := c.r.handle, sampled := 0 }], ts ++ ws)
    | _, _ => none) (some ([], []))

/-- Sequence groups. -/
def seqGroups (n : Nat) : Nat := (n + 15) / 16

/-- The 32 bytes of an entry. -/
def entryRow (e : BatchEntry) : List Byte :=
  natBytes 2 e.req ++ natBytes 1 e.kind ++ natBytes 1 (b2n e.sample) ++ natBytes 4 e.first ++ natBytes 4 e.t ++ natBytes 4 e.tok ++
    natBytes 8 e.handle.toNat ++ natBytes 4 e.sampled.toNat ++ zeros 4

/-- The batch area's bytes. -/
def batchImage (num plan toks total : Nat) (es : List BatchEntry) : List Byte :=
  natBytes 4 num ++ natBytes 2 plan ++ natBytes 2 es.length ++ natBytes 2 (seqGroups es.length) ++ zeros 2 ++ natBytes 4 total ++
    natBytes 8 toks ++ zeros 40 ++ es.flatMap entryRow

/-- The entries of a batch as the tenant's programs know their requests and handles. -/
def namedEntries (s : State) (es : List BatchEntry) : List BatchEntry :=
  es.map fun e => { e with req := reqOut s e.req, handle := wordOut s e.handle }

/-- The bytes of the token array. -/
def tokBytes (ts : List Word) : List Byte := ts.flatMap fun w => natBytes 4 w.toNat

/-! ## Formation (R344, R348) -/

/-- Each time the iteration number reaches a multiple of 2^30, old LASTACC and LASTHIT values are clamped (R325). -/
def clampAges (s : State) : State :=
  let now := lastIter s
  let lim := (now + 2 ^ 31) % 2 ^ 32
  let old (v : Nat) : Bool := decide (2 ^ 31 < ageOf s v)
  let frame (x : Frame) : Frame := if decide (x.st ≠ .free) && old x.lastacc then { x with lastacc := lim } else x
  if now % 2 ^ 30 ≠ 0 then s
  else { s with
    pools := tmap s.pools fun _ p => { p with frames := tmap p.frames fun _ x => frame x }
    playbook := tmap s.playbook fun _ e => if old e.lasthit then { e with lasthit := lim } else e }

/-- A chosen request joins the iteration (R340, R348); a speculative one takes its template (R360). -/
def joinIter (num : Nat) (s : State) (c : Choice) : State := modReq s c.req fun r =>
  { r with initer := true, iter := num, pframe := false, accepted := 0, oldTmpl := r.tmpl
           tmpl := if c.kind = 2 then (if c.t ≤ 1 then 0xFF else c.t - 2) else r.tmpl
           st := if r.st = .paused then nextSt s r else r.st }

/-- A request dropped for want of frames (R346). -/
def pauseReq (s : State) (c : Choice) : State := modReq s c.req fun r => { r with st := .paused, pframe := true }

/-- The requests of an iteration that which names fail, and the iteration is over (R348). -/
def overIter (s : State) (plan : Nat) (which : Request → Bool) : State := match (tget s.plans plan).bind Plan.iter with
  | none => s
  | some it =>
    let s1 := it.entries.foldl (fun t e => match tget t.reqs e.req with
      | some r => if which r && decide (r.handle = e.handle) then failReq t e.req it.num else t
      | none => t) s
    { s1 with plans := tmod s1.plans plan fun p => { p with iter := none } }

/-- The iteration's graph has not ended with SUCCESS: every request of it that has not ended fails (R340, R348). -/
def failIter (s : State) (plan : Nat) : State := overIter s plan fun r => !ended r.st

/-- The iteration's scorer has ended: every request still in the iteration fails. -/
def endIter (s : State) (plan : Nat) : State := overIter s plan fun r => r.initer

/-- Steps 2 and 3 of R348 for a template: the areas are written, GRAPH is copied to WORK, and WORK is submitted; an area that
cannot be read or written, or a block that breaks a rule, fails the iteration. -/
def submitIter (s : State) (plan : Nat) (p : Plan) (x : Tmpl) (it : Iter) : State :=
  let asid := tenantAsid s p.tenant
  let batch := batchImage it.num plan x.toks it.toks.length (namedEntries s it.entries)
  match vread s asid x.graph (64 * x.ntask) with
  | none => failIter s plan
  | some blocks =>
    if !(mappedW s asid x.work (64 * x.ntask) && mappedW s asid x.batch batch.length && mappedW s asid x.toks (4 * it.toks.length))
    then failIter s plan
    else
      let s1 := commitVirt (commitVirt (commitVirt s none asid x.batch batch) none asid x.toks (tokBytes it.toks)) none asid x.work blocks
      match checkGraph s1 asid x.work x.ntask with
      | .error _ => failIter s1 plan
      | .ok ks => submitGraph s1 p.tenant x.work ks (.plan plan)

/-- Steps 2 and 3 of R348 for a ROM plan (R343, R411): the areas are written where they lie, and the graph of the one task is
submitted. -/
def submitRom (s : State) (plan : Nat) (p : Plan) (it : Iter) : State :=
  let s1 := commitBytes s none (romBatch p) (batchImage it.num plan (romToks p) it.toks.length (namedEntries s it.entries))
  let s2 := commitBytes s1 none (romToks p) (tokBytes it.toks)
  submitGraph (commitBytes s2 none p.area (zeros 6 ++ natBytes 1 2 ++ zeros 57)) p.tenant p.area
    [{ pred := 0, succs := [], restart := false, cls := 2, prio := 0, desc := 0 }] (.plan plan)

/-- An iteration of chosen requests is instantiated (R347, R348). -/
def instantiate (s : State) (plan : Nat) (p : Plan) (l : List Choice) : State :=
  let num := s.iterCtr % 2 ^ 32
  let order := sortBy (fun c : Choice => c.r.committed * 2 ^ 14 + c.req) l
  let s1 := order.foldl (joinIter num) (clampAges { s with iterCtr := s.iterCtr + 1 })
  let mk (es : List BatchEntry) (ts : List Word) : Iter := { num := num, entries := es, toks := ts, scoring := false }
  let put (t : State) (it : Iter) : State := { t with plans := tmod t.plans plan fun q => { q with iter := some it } }
  match layEntries s1 (tenantAsid s1 p.tenant) order with
  | none => failIter (put s1 (mk (order.map fun c => { req := c.req, kind := c.kind, sample := c.samp, first := c.w, t := c.t
                                                       tok := 0, handle := c.r.handle, sampled := 0 }) [])) plan
  | some (es, ts) =>
    let it := mk es ts
    let s2 := put s1 it
    match p.tmpl with
    | some x => submitIter s2 plan p x it
    | none => submitRom s2 plan p it

/-- ITERATION_FORM (R344): of the plan that is next. A formation that keeps no request takes no number (R346). -/
def execIterationForm (plan : Nat) (s : State) : Out := .next (
  if nextPlan s ≠ some plan then s
  else match tget s.plans plan with
    | none => s
    | some p => match tget s.pools p.pool with
      | none => s
      | some q =>
        let r := countFrames s q (choose s plan p)
        let s1 := r.2.foldl pauseReq { s with lastPlan := plan }
        if r.1.isEmpty then s1 else instantiate s1 plan p r.1)

/-! ## The graph and the scorer end (R348) -/

/-- The graph of a plan's iteration. -/
def graphOfPlan (s : State) (plan : Nat) : Option (Nat × Graph) := s.graphs.find? fun e => decide (e.2.origin = .plan plan)

/-- The scorer's descriptor: the template's with grid x the number of sequence groups, or sscore's (R348, R411). -/
def scorerDesc (s : State) (p : Plan) (n : Nat) : Except Nat Desc := match p.tmpl with
  | some x => checkDesc s p.tenant x.scorer (patchDesc 24 (natBytes 4 n))
  | none => .ok (romDesc s p romPlaces.score 0 n)

/-- The scorer is launched with one workgroup of 16 threads for each sequence group; a descriptor that fails R54 fails the
iteration. -/
def launchScorer (s : State) (plan : Nat) (p : Plan) (it : Iter) : State := match scorerDesc s p (seqGroups it.entries.length) with
  | .error _ => failIter s plan
  | .ok d =>
    if d.threads ≠ 16 then failIter s plan
    else makeLaunch { s with plans := tmod s.plans plan fun q => { q with iter := some { it with scoring := true } } } p.tenant d (.scorer plan)

/-- ITERATION_GRAPH_COMPLETE (R348). -/
def execIterationGraphComplete (plan : Nat) (s : State) : Out := .next (match tget s.plans plan with
  | none => s
  | some p => match p.iter, graphOfPlan s plan with
    | some it, some (g, gr) =>
      if it.scoring || !graphOver gr then s
      else
        let s1 := { s with graphs := tdel s.graphs g }
        if (graphResult gr).2 = stOk then launchScorer s1 plan p it else failIter s1 plan
    | _, _ => s)

/-- The scorer launch of a plan. -/
def scorerOf (s : State) (plan : Nat) : Option (Nat × Launch) :=
  s.launches.find? fun e => decide (e.2.origin = .scorer plan) && !e.2.finished

/-- ITERATION_COMPLETE (R348). -/
def execIterationComplete (plan : Nat) (s : State) : Out := .next (match scorerOf s plan with
  | none => s
  | some (l, k) => if launchOver s l k then endIter (dropLaunch s l) plan else s)

/-! ## Deadlines and admission kernels (R334, R341, R350) -/

/-- A request whose deadline has passed before it ended gets DLMISS and is counted once (R350). -/
def passDeadline (s : State) (req : Nat) : State := match tget s.reqs req with
  | none => s
  | some r =>
    if r.deadline = 0 ∨ r.dlmiss ∨ ended r.st ∨ s.clk ≤ usClk r.deadline then s
    else modReq { s with tele := { s.tele with dlMiss := s.tele.dlMiss + 1 } } req fun r => { r with dlmiss := true }

/-- Every deadline that has passed, at the instant it passes: after the clocks that an entry of the schedule lets pass. -/
def passDeadlines (s : State) : State := (s.reqs.map Prod.fst).foldl passDeadline s

/-- DEADLINE_PASS (R350). -/
def execDeadlinePass (req : Nat) (s : State) : Out := .next (passDeadline s req)

/-- The admission kernel left W at or beyond the prompt: C and W go down to L − 1 (R341). -/
def settlePrompt (s : State) (r : Request) : State :=
  let i := hIdx r.handle
  if reqW s r < r.plen then s
  else truncHandle { s with handles := tmod s.handles i fun h => { h with c := min h.c (r.plen - 1) } } i (r.plen - 1)

/-- ADMISSION_KERNEL_COMPLETE (R334, R340, R351). -/
def execAdmissionKernelComplete (req : Nat) (s : State) : Out := .next (
  match s.launches.find? fun e => decide (e.2.origin = .admission req) && launchOver s e.1 e.2 with
  | none => s
  | some (l, k) =>
    let s1 := dropLaunch s l
    match tget s1.reqs req with
    | none => s1
    | some r =>
      if r.admission ≠ some l then s1
      else
        let s2 := modReq s1 req fun r => { r with admission := none }
        if r.st ≠ .queued then s2
        else if endStatus s k = stOk then modReq (settlePrompt s2 r) req fun r => { r with st := .prefill }
        else failReq s2 req (lastIter s2))

end Sys2Proof.Machine
end

