-- ==== Sys2Proof/Machine/Tenants.lean ====
section
/-! DEFINITION. TENANT_OPEN and TENANT_CLOSE (R44, R45, R405). -/

namespace Sys2Proof.Machine

/-! ## TENANT_OPEN (R43, R44) -/

/-- Fields of A1. -/
def openLog (c : HostCmd) : Nat := nfld c.a1.toNat 0 4
def openSlices (c : HostCmd) : Nat := nfld c.a1.toNat 8 8
def openConfid (c : HostCmd) : Bool := nbit c.a1.toNat 16
def openDet (c : HostCmd) : Bool := nbit c.a1.toNat 17
def openFn (c : HostCmd) : Nat := nfld c.a1.toNat 24 6

/-- Its rule: features that its fields need, alignment, ranges, reserved bits. -/
def openRule (c : HostCmd) : Rule :=
  { pf := true, device := true
    feats := (if openSlices c ≠ 0 then [3] else []) ++ (if openConfid c then [11] else []) ++ (if openFn c ≠ 0 then [13] else [])
    bad := decide (c.a0.toNat % 64 ≠ 0) || decide (12 < openLog c) || decide (nfld c.a1.toNat 4 4 ≠ 0) ||
      decide (nfld c.a1.toNat 18 6 ≠ 0) || decide (2 ^ 30 ≤ c.a1.toNat) || decide (32 < openFn c) || noArgs [c.a2, c.a3, c.a4, c.a5] }

/-- The free Playbook slices (R332). -/
def freeSlices (s : State) : List Nat := (List.range 256).filter fun i => !(s.tenants.any fun e => e.2.slices.contains i)

/-- The lowest free tenant outside a list, and the lowest free address-space id (R44). -/
def freeTenant (s : State) (but : List Nat) : Nat := lowestGap (nsAddAll but (tkeys s.tenants)) 1
def freeAsid (s : State) : Nat := lowestGap (sortBy id (s.tenants.map fun e => e.2.asid)) 1

/-- Ids, the tenant's outside a list, and slices for a tenant that asks for n slices; none on a shortage. -/
def tenantIds (s : State) (but : List Nat) (n : Nat) : Option (Nat × Nat × List Nat) :=
  let sl := freeSlices s
  if 4096 ≤ freeTenant s but ∨ 16384 ≤ freeAsid s ∨ sl.length < n then none else some (freeTenant s but, freeAsid s, sl.take n)

/-- A tenant as it is opened. DESIGN CHOICE (log 52): the consumer count that the device holds until it first reads it is 0. -/
def newTenant (c : HostCmd) (asid : Nat) (slices : List Nat) (salt : List Byte) : Tenant :=
  { fn := openFn c, asid := asid, ring := c.a0.toNat, ringLog := openLog c + 4, confid := openConfid c, det := openDet c
    slices := slices, salt := salt, prod := 0, cons := 0, queue := [], collide := 0, park := .active, image := [], closing := none }

/-- TENANT_OPEN (R44, R404): its salt comes from the device's random source, a free value. -/
def execTenantOpen (c : HostCmd) (s : State) : Out := .next (runCommand c (openRule c)
  (fun t _ =>
    if openConfid c && decide (2 ≤ alarmLevel t) then .fail stAlarm
    else match tenantIds t [] (openSlices c) with
      | none => .fail stNores
      | some (i, asid, sl) =>
        let r := takeFree t
        let q := takeFree r.2
        .ok { q.2 with tenants := tset q.2.tenants i (newTenant c asid sl (natBytes 8 r.1.toNat ++ natBytes 8 q.1.toNat)) }
          (BitVec.ofNat 64 (i + 2 ^ 16 * asid))) s)

/-! ## TENANT_CLOSE (R45) -/

/-- A workgroup in a context image is dropped with its commands and their pins. -/
def dropParked (s : State) (w : Nat) : State :=
  let ks := s.cmds.filter fun e => decide (e.2.wg = w)
  let s1 := ks.foldl (fun t e => dropPins t e.2) s
  dropOver { s1 with cmds := s1.cmds.filter fun e => decide (e.2.wg ≠ w), ops := s1.ops.filter fun e => decide (e.2.wg ≠ w)
                     groups := s1.groups.filter fun e => decide (e.2.wg ≠ w), wgs := tdel s1.wgs w }

/-- A PREEMPT or RESUME in progress completes ABORTED, and a context image is dropped. -/
def endPark (s : State) (t : Nat) : State := match tget s.tenants t with
  | none => s
  | some x =>
    let s1 := match x.park with
      | .draining _ o => complete s o stAborted 0
      | .resuming o => endBusy s o stAborted 0
      | _ => s
    let s2 := { s1 with tenants := tmod s1.tenants t fun y => { y with park := .active, image := [] } }
    ((s2.wgs.filter fun e => decide (e.2.tenant = t) && !e.2.placed).map Prod.fst).foldl dropParked s2

/-- Hand-offs of a tenant's requests, and its imports, end ABORTED. -/
def endHandoffs (s : State) (t : Nat) : State :=
  (s.fab.xfers.filter fun e => decide (e.2.tenant = t)).foldl (fun u e =>
    if e.2.import_ then endXfer u e.1 stAborted 0 else failExport u e.1) s

/-- Requests that have not ended are cancelled as REQ_CANCEL does: at once, or CANCELP is set where an iteration runs them (R45,
R49); one whose prompt is still being copied, once it is admitted (promptDone). -/
def cancelAll (s : State) (t : Nat) : State := (s.reqs.filter fun e => decide (e.2.tenant = t)).foldl (fun u e =>
  if ended e.2.st || e.2.loading then u
  else if e.2.initer then modReq u e.1 fun r => { r with cancelp := true }
  else cancelReq u e.1 (lastIter u) []) s

/-- The iterations of a tenant's plans, whose graphs and scorers have been aborted, fail (R348). -/
def failPlans (s : State) (t : Nat) : State := ((s.plans.filter fun e => decide (e.2.tenant = t)).map Prod.fst).foldl failIter s

/-- Steps 1 and 2 of R45. -/
def closeWork (s : State) (t : Nat) (o : Owed) : State :=
  let s1 := endHandoffs (endPark { s with tenants := tmod s.tenants t fun x => { x with closing := some o } } t) t
  let s2 := cancelAll s1 t
  failPlans (((s2.launches.filter fun e => decide (e.2.tenant = t)).map Prod.fst).foldl (fun u l => abortLaunch u l false) s2) t

/-- The Umpire's own launches and graphs of a closing tenant leave once they are over. -/
def dropOwn (s : State) (t : Nat) : State :=
  let own (o : Origin) : Bool := match o with
    | .scorer _ => true
    | .admission _ => true
    | _ => false
  let ls := (s.launches.filter fun e => decide (e.2.tenant = t) && own e.2.origin && launchOver s e.1 e.2).map Prod.fst
  let s1 := ls.foldl dropLaunch s
  let planned (o : GraphOrigin) : Bool := match o with
    | .plan _ => true
    | _ => false
  { s1 with graphs := s1.graphs.filter fun e => !(decide (e.2.tenant = t) && planned e.2.origin && graphOver e.2) }

/-- Whether nothing of a tenant runs, waits or is owed any more. -/
def idle (s : State) (t : Nat) (x : Tenant) : Bool :=
  !(s.launches.any fun e => decide (e.2.tenant = t)) && !(s.graphs.any fun e => decide (e.2.tenant = t)) &&
    !(s.xfers.any fun e => decide (e.2.tenant = t)) && !(s.shoots.any fun e => decide (e.2.tenant = t)) &&
    !(s.fab.xfers.any fun e => decide (e.2.tenant = t)) && x.queue.isEmpty

/-- Memory of a pool's tier-2 area, and of a ROM plan's areas. -/
def poolMem (p : Pool) : List (Nat × Nat) := match p.tier2 with
  | some b => [(b, 4 * poolBytes p)]
  | none => []
def planMem (p : Plan) : List (Nat × Nat) := if p.tmpl.isNone then [(p.area, romAreaBytes p.budget)] else []

/-- Step 3 of R45: entries, handles, Playbook slices, pools, images and plans of a tenant go. -/
def releaseAll (s : State) (t : Nat) (x : Tenant) : State :=
  let s1 := ((s.reqs.filter fun e => decide (e.2.tenant = t)).map Prod.fst).foldl releaseReq s
  let s2 := ((s1.handles.filter fun e => decide (e.2.tenant = t) && decide (e.2.st ≠ 0)).map Prod.fst).foldl releaseHandle s1
  let s3 := (pbIndicesOf x).foldl dropEntry s2
  let mem := ((s3.pools.filter fun e => decide (e.2.tenant = t)).flatMap fun e => poolMem e.2) ++
    (s3.plans.filter fun e => decide (e.2.tenant = t)).flatMap fun e => planMem e.2
  { giveAll s3 mem with
    pools := s3.pools.filter fun e => decide (e.2.tenant ≠ t), images := s3.images.filter fun e => decide (e.2.tenant ≠ t)
    plans := s3.plans.filter fun e => decide (e.2.tenant ≠ t)
    fab := { s3.fab with exports := s3.fab.exports.filter fun e => decide (e.tenant ≠ t) } }
where
  /-- The Playbook indices of its slices. -/
  pbIndicesOf (x : Tenant) : List Nat := x.slices.flatMap fun i => rangeFrom (64 * i) 64

/-- Steps 3 and 4 of R45: everything is released, the mappings go, and the shootdown of the whole space begins. -/
def closeSpace (s : State) (t : Nat) (x : Tenant) : State :=
  let s1 := releaseAll s t x
  let pages := (leavesOf s1 x.asid).map fun l => (l.pa, l.size)
  let tables := (tablesOf s1 x.asid).map fun a => (a, 65536)
  startShoot { s1 with roots := tdel s1.roots x.asid } t x.asid 0 (2 ^ 54) (pages ++ tables) none 0 false

/-- A closing tenant goes on as far as it can. -/
def closeStep (s : State) (t : Nat) : State :=
  let s1 := dropOwn s t
  match tget s1.tenants t with
  | some x => if idle s1 t x then closeSpace s1 t x else s1
  | none => s1

/-- Every closing tenant goes on. -/
def settleClosing (s : State) : State := ((s.tenants.filter fun e => e.2.closing.isSome).map Prod.fst).foldl closeStep s

/-- TENANT_CLOSE (R45). -/
def execTenantClose (c : HostCmd) (s : State) : Out := .next (runCommand c
  { pf := true, bad := noArgs [c.a0, c.a1, c.a2, c.a3, c.a4, c.a5] }
  (fun t o => .later (closeStep (closeWork t (tnOf c) o) (tnOf c))) s)

end Sys2Proof.Machine
end

