-- ==== Sys2Proof/Machine/ContextImage.lean ====
section
/-! DEFINITION. The context image of a parked tenant and its KV directory (R322, R330 to R332, R399, R400, R408). -/

namespace Sys2Proof.Machine

/-! ## What an image holds (R399; log 11) -/

/-- Type 1: the tenant with its slices, its mappings (virtual base, count, size, attributes), images, pools, plans; and how far the
source's own numbering of launches, groups and the like had come (log 11). -/
structure CtxBase where
  tenant : Tenant
  maps   : List (Nat × Nat × Nat × Nat)
  images : Table Image
  pools  : Table Pool
  plans  : Table Plan
  keys   : Nat × Nat
deriving DecidableEq, Repr

/-- What follows the directory, for which neither the image's sections nor the directory's entries have room (log 11): the token ids
of frames (R322), the indices of the handles and the words that name them, the tier-2 copies (R319), the areas of ROM plans (R343) and
the committed tokens of requests. -/
structure CtxTail where
  ids    : List (Nat × Table (Table Word))
  hidx   : List (Nat × Nat × Nat)
  copies : List (Nat × Memory)
  areas  : List (Nat × Memory)
  seqs   : Table (List Word)
deriving DecidableEq, Repr

/-- Type 2: launches and graphs. -/
structure CtxWork where
  launches : Table Launch
  graphs   : Table Graph
  taskq    : List Nat
  gangs    : Table Gang
deriving DecidableEq, Repr

/-- Type 3: one workgroup or gang, with the memory instructions and commands that stand in it. -/
structure CtxUnit where
  wgs  : Table Workgroup
  ops  : Table MemOp
  cmds : Table Cmd
deriving DecidableEq, Repr

/-- Type 5: requests, bandit values, running iterations; and how many handles the directory has. -/
structure CtxUmpire where
  reqs  : Table Request
  arms  : List (Nat × Table (Table Arm))
  iters : List (Nat × Iter)
  hdls  : Nat
deriving DecidableEq, Repr

/-- An image. -/
structure Ctx where
  base   : CtxBase
  work   : CtxWork
  units  : List CtxUnit
  groups : Table Group
  ump    : CtxUmpire
deriving DecidableEq, Repr

def cTable {α : Type} (c : Codec α) : Codec (Table α) := cList (cPair cNat c)

/-- Codec of CtxBase. -/
def cCtxBase : Codec CtxBase := cMap
  (cPair cTenant (cPair (cList (cPair cNat (cPair cNat (cPair cNat cNat)))) (cPair (cTable cImage) (cPair (cTable cPool)
    (cPair (cTable cPlan) (cPair cNat cNat))))))
  (fun x => ⟨x.1, x.2.1, x.2.2.1, x.2.2.2.1, x.2.2.2.2.1, x.2.2.2.2.2⟩)
  (fun x => (x.tenant, x.maps, x.images, x.pools, x.plans, x.keys))

/-- Codec of CtxTail. -/
def cCtxTail : Codec CtxTail := cMap
  (cPair (cTable (cTable (cTable (cBv 32)))) (cPair (cList (cPair cNat (cPair cNat cNat))) (cPair (cTable cMem) (cPair (cTable cMem)
    (cTable (cList (cBv 32)))))))
  (fun x => ⟨x.1, x.2.1, x.2.2.1, x.2.2.2.1, x.2.2.2.2⟩) (fun x => (x.ids, x.hidx, x.copies, x.areas, x.seqs))

/-- Codec of CtxWork. -/
def cCtxWork : Codec CtxWork := cMap
  (cPair (cTable cLaunch) (cPair (cTable cGraph) (cPair (cList cNat) (cTable cGang))))
  (fun x => ⟨x.1, x.2.1, x.2.2.1, x.2.2.2⟩) (fun x => (x.launches, x.graphs, x.taskq, x.gangs))

/-- Codec of CtxUnit. -/
def cCtxUnit : Codec CtxUnit := cMap (cPair (cTable cWorkgroup) (cPair (cTable cMemOp) (cTable cCmd)))
  (fun x => ⟨x.1, x.2.1, x.2.2⟩) (fun x => (x.wgs, x.ops, x.cmds))

/-- Codec of CtxUmpire. -/
def cCtxUmpire : Codec CtxUmpire := cMap
  (cPair (cTable cRequest) (cPair (cTable (cTable (cTable cArm))) (cPair (cTable cIter) cNat)))
  (fun x => ⟨x.1, x.2.1, x.2.2.1, x.2.2.2⟩) (fun x => (x.reqs, x.arms, x.iters, x.hdls))

/-! ## Sections of workgroups (R399, R401) -/

/-- A workgroup joins the section of its gang, or starts one. -/
def joinSection (s : State) (acc : List (List Nat)) (w : Nat) : List (List Nat) :=
  let gangOf (k : Nat) : Option Nat := (tget s.wgs k).bind Workgroup.gang
  match acc.getLast?.bind List.head? with
  | some h => if (gangOf w).isSome && decide (gangOf h = gangOf w) then acc.dropLast ++ [acc.getLastD [] ++ [w]] else acc ++ [[w]]
  | none => acc ++ [[w]]

/-- The sections of a tenant's workgroups that are in no core, in launch order. -/
def sectionsOf (s : State) (t : Nat) : List (List Nat) :=
  let ws := s.wgs.filter fun e => decide (e.2.tenant = t) && !e.2.placed
  ((sortBy (fun e => e.2.launch * 2 ^ 33 + b2n e.2.handler.isSome * 2 ^ 32 + e.2.lin) ws).map Prod.fst).foldl (joinSection s) []

/-! ## Building an image -/

/-- The attributes of a page: W, X, RT. -/
def leafAttrs (l : Leaf) : Nat := b2n l.w + 2 * b2n l.x + 4 * b2n l.rt

/-- A request without what belongs to the source's host interface, and without its tokens. -/
def plainReq (r : Request) : Request :=
  { r with bell := none, cancels := [], cancelp := false, exporting := none, wantExport := none, xpend := false, toks := [] }

/-- A plan without its bandit and iteration. -/
def plainPlan (p : Plan) : Plan := { p with bandit := [], iter := none }

/-- A tenant without completions that only the source can post. -/
def plainTenant (x : Tenant) : Tenant := { x with queue := x.queue.map fun r => { r with post := [] }, park := .active, image := [], closing := none }

/-- Frames of a pool that the frame table names. -/
def frameCount (p : Pool) : Nat := if p.tier2.isSome then 4 * p.f else p.f

/-- The layers' bytes of a pool's tier-2 area. -/
def tier2Bytes (s : State) (p : Pool) : Memory := match p.tier2 with
  | some b => mslice s.mem b (4 * poolBytes p)
  | none => []

/-- The bytes of a ROM plan's areas (R343). -/
def areaBytes (s : State) (p : Plan) : Memory := if p.tmpl.isNone then mslice s.mem p.area (romAreaBytes p.budget) else []

/-- The handles of a tenant, in ascending index. -/
def handlesOf (s : State) (t : Nat) : Table Handle := s.handles.filter fun e => decide (e.2.tenant = t) && decide (e.2.st ≠ 0)

/-- The Umpire's section of a tenant. -/
def umpireOf (s : State) (t : Nat) : CtxUmpire :=
  let plans := s.plans.filter fun e => decide (e.2.tenant = t)
  { reqs := tmap (s.reqs.filter fun e => decide (e.2.tenant = t)) fun _ r => plainReq r, arms := plans.map fun e => (e.1, e.2.bandit)
    iters := plans.filterMap fun e => e.2.iter.map fun it => (e.1, it), hdls := (handlesOf s t).length }

/-- The image of a tenant. -/
def ctxOf (s : State) (t : Nat) (x : Tenant) : Ctx :=
  let mine (l : Nat) : Bool := decide (tenantOf s l = t)
  let pools := s.pools.filter fun e => decide (e.2.tenant = t)
  let plans := s.plans.filter fun e => decide (e.2.tenant = t)
  { base := { tenant := plainTenant x, maps := (leavesOf s x.asid).map fun l => (l.va, 1, l.size, leafAttrs l)
              images := s.images.filter fun e => decide (e.2.tenant = t), pools := tmap pools fun _ p => { p with frames := [] }
              plans := tmap plans fun _ p => plainPlan p, keys := (s.nextKey, s.nextInst) }
    work := { launches := s.launches.filter fun e => decide (e.2.tenant = t), graphs := s.graphs.filter fun e => decide (e.2.tenant = t)
              taskq := s.taskq.filter mine
              gangs := s.gangs.filter fun e => mine e.2.launch }
    units := (sectionsOf s t).map fun ws =>
      { wgs := s.wgs.filter fun e => ws.contains e.1, ops := s.ops.filter fun e => ws.contains e.2.wg
        cmds := s.cmds.filter fun e => ws.contains e.2.wg }
    groups := s.groups.filter fun e => mine e.2.launch
    ump := umpireOf s t }

/-- What follows the directory of a tenant. -/
def tailOf (s : State) (t : Nat) : CtxTail :=
  let pools := s.pools.filter fun e => decide (e.2.tenant = t)
  { ids := pools.map fun e => (e.1, e.2.frames.map fun f => (f.1, f.2.ids))
    hidx := (handlesOf s t).map fun e => (e.1, e.2.named.getD (t, e.1))
    copies := pools.map fun e => (e.1, tier2Bytes s e.2)
    areas := (s.plans.filter fun e => decide (e.2.tenant = t)).map fun e => (e.1, areaBytes s e.2)
    seqs := (s.reqs.filter fun e => decide (e.2.tenant = t)).map fun e => (e.1, e.2.toks) }

/-- The sections: type and bytes. -/
def sections (x : Ctx) : List (Nat × List Byte) :=
  [(1, natsBytes (cCtxBase.enc x.base)), (2, natsBytes (cCtxWork.enc x.work))] ++
    (x.units.map fun u => (3, natsBytes (cCtxUnit.enc u))) ++
    [(4, natsBytes ((cTable cGroup).enc x.groups)), (5, natsBytes (cCtxUmpire.enc x.ump))]

/-- The section table's entries, each section after the one before. -/
def sectionTable : Nat → List (Nat × List Byte) → List Byte
  | _, [] => []
  | o, e :: t => natBytes 4 e.1 ++ natBytes 4 e.2.length ++ natBytes 8 o ++ sectionTable (o + e.2.length) t

/-- Header, section table and sections (R399). -/
def imageBytes (s : State) (x : Tenant) (ss : List (Nat × List Byte)) : List Byte :=
  let body := ss.flatMap Prod.snd
  let first := 4096 + 16 * ss.length
  natBytes 4 0x5854434C ++ natBytes 2 1 ++ natBytes 2 1 ++ natBytes 8 (first + body.length) ++ natBytes 16 s.feats.toNat ++
    natBytes 2 (b2n x.confid + 2 * b2n x.det) ++ natBytes 2 0 ++ natBytes 4 ss.length ++ natBytes 8 4096 ++ zeros 4048 ++
    sectionTable first ss ++ body

/-- The committed sections, with the Umpire's as its table stands: REQ_CANCEL acts on it while the tenant is PARKED (R398). -/
def freshSections (s : State) (t : Nat) (ss : List (Nat × List Byte)) : List (Nat × List Byte) :=
  ss.map fun e => if e.1 = 5 then (5, natsBytes (cCtxUmpire.enc (umpireOf s t))) else e

/-! ## The KV directory (R322, R330 to R332, R399) -/

/-- Codes of a frame's state. -/
def frStates : List FrSt := [.free, .resident, .evicting, .tier2, .fetching]

/-- Whether a gather reads the tier-2 copy (R322). -/
def inTier2 (x : Frame) : Bool := decide (x.st = .tier2) || decide (x.st = .fetching)

/-- LOC of a frame: the physical address of layer 0 of the copy that TIER names. -/
def frameAddr (s : State) (p : Pool) (f : Nat) (x : Frame) : Nat :=
  if x.st = .free then 0 else match frameLoc s p f 0 (inTier2 x) with
    | .pa a => a
    | .va _ asid a => (vphys s asid a false false).getD 0

/-- A frame-table entry (R322). -/
def frameEntry (s : State) (p : Pool) (f : Nat) : List Byte :=
  let x := frameOf p f
  natBytes 32 (frameAddr s p f x / 128 % 2 ^ 45 * 2 ^ 7 + b2n x.slot.isSome * 2 ^ 142 + x.slot.getD 0 * 2 ^ 143 + b2n (inTier2 x) * 2 ^ 167 +
    frStates.idxOf x.st * 2 ^ 168 + x.filled * 2 ^ 171 + x.tenant * 2 ^ 180 + x.pins * 2 ^ 192 + x.ref * 2 ^ 208 + x.lastacc * 2 ^ 224)

/-- A handle entry (R330). -/
def handleEntry (h : Handle) : List Byte :=
  natBytes 16 (h.st * 2 ^ 42 + h.gen * 2 ^ 44 + h.tenant * 2 ^ 52 + h.pool * 2 ^ 64 + h.c * 2 ^ 80 + h.w * 2 ^ 104)

/-- A Playbook entry (R332); one not VALID is 0. -/
def pbEntryBytes (e : Option PbEntry) : List Byte := match e with
  | none => zeros 32
  | some e => natBytes 32 (e.hash.toNat + e.frames.getD 0 0 * 2 ^ 64 + e.frames.getD 1 0 * 2 ^ 90 + e.frames.getD 2 0 * 2 ^ 116 +
      e.frames.getD 3 0 * 2 ^ 142 + 2 ^ 207 + e.pool * 2 ^ 208 + e.lasthit * 2 ^ 224)

/-- The Playbook indices of a tenant's slices. -/
def sliceIndices (x : Tenant) : List Nat := x.slices.flatMap fun i => rangeFrom (64 * i) 64

/-- The directory: frames pool by pool, handles, their block tables, the Playbook. -/
def directory (s : State) (t : Nat) (x : Tenant) : List Byte :=
  ((s.pools.filter fun e => decide (e.2.tenant = t)).flatMap fun e => (List.range (frameCount e.2)).flatMap (frameEntry s e.2)) ++
    (handlesOf s t).flatMap (fun e => handleEntry e.2) ++ (handlesOf s t).flatMap (fun e => e.2.bt.flatMap (natBytes 4)) ++
    (sliceIndices x).flatMap fun i => pbEntryBytes (tget s.playbook i)

/-- What follows the directory, behind its length. -/
def tailBytes (s : State) (t : Nat) : List Byte :=
  let bs := natsBytes (cCtxTail.enc (tailOf s t))
  natBytes 8 bs.length ++ bs

/-! ## Sealing (R408) -/

/-- Bytes in chunks of n. -/
def chunksOf (n : Nat) (l : List Byte) : List (List Byte) := blocksOf n (l.length / n + 1) l |>.filter fun c => !c.isEmpty

/-- What follows the header, in 64 KiB chunks each encrypted and followed by its tag: chunk i under nonce i, with the header as
additional data. -/
def sealBody (key header body : List Byte) : List Byte :=
  ((chunksOf 65536 body).zipIdx).flatMap fun e =>
    let c := gcmSeal key e.2 header e.1
    c.1 ++ c.2

/-- What follows the header, opened; none where a tag fails. -/
def openBody (key header body : List Byte) : Option (List Byte) :=
  ((chunksOf 65552 body).zipIdx).foldl (fun acc e => match acc with
    | none => none
    | some l => (gcmOpen key e.2 header (e.1.take (e.1.length - 16)) (e.1.drop (e.1.length - 16))).map fun c => l ++ c) (some [])

/-! ## CTX_EXPORT (R399, R408) -/

/-- CTX_EXPORT: of a PARKED tenant, the committed image, the directory and what follows it. -/
def execCtxExport (c : HostCmd) (s : State) : Out := .next (runCommand c
  { pf := true, feats := [10], bad := noArgs [c.a2, c.a3, c.a4, c.a5] }
  (fun t _ => match tget t.tenants (tnOf c) with
    | none => .fail stBadtenant
    | some x => match x.park with
      | .parked ss =>
        if x.confid && t.sec.imageKey.isNone then .fail stNofeat
        else
          let img := imageBytes t x (freshSections t (tnOf c) ss)
          let body := img.drop 4096 ++ directory t (tnOf c) x ++ tailBytes t (tnOf c)
          let out := img.take 4096 ++ if x.confid then sealBody (t.sec.imageKey.getD []) (img.take 4096) body else body
          if c.a1.toNat < out.length then .fail stBound
          else .ok (hostWrite t c.a0.toNat out) (BitVec.ofNat 64 out.length)
      | _ => .fail stBadstate) s)

/-! ## Reading an image (R400) -/

/-- Whether a header may be imported: magic, version, level, features (R400). -/
def headOk (s : State) (m : List Byte) : Bool :=
  let f (o n : Nat) : Nat := leNat ((m.drop o).take n)
  decide (f 0 4 = 0x5854434C) && decide (f 4 2 = 1) && decide (f 6 2 = 1) && decide (f 16 16 &&& s.feats.toNat = f 16 16) &&
    decide (f 32 2 < 4) && decide (f 34 2 = 0) && decide (1 ≤ f 36 4) && decide (f 40 8 = 4096) && ((m.drop 48).take 4048).all fun b => b = 0

/-- The sections of an image: type and bytes; none where the table or a section passes the end. -/
def readSections (m : List Byte) : Option (List (Nat × List Byte)) :=
  let n := leNat ((m.drop 36).take 4)
  if m.length < 4096 + 16 * n then none
  else (List.range n).foldl (fun acc k =>
    let f (o w : Nat) : Nat := leNat ((m.drop (4096 + 16 * k + o)).take w)
    match acc with
    | none => none
    | some l => if 5 < f 0 4 ∨ f 0 4 = 0 ∨ m.length < f 8 8 + f 4 4 then none else some (l ++ [(f 0 4, (m.drop (f 8 8)).take (f 4 4))]))
    (some [])

/-- A value from a section's bytes. -/
def readSection {α : Type} (c : Codec α) (bs : List Byte) : Option α := match bytesNats bs.length bs with
  | none => none
  | some l => match c.dec l with
    | some (x, []) => some x
    | _ => none

/-- The one section of a type. -/
def sectionOf (l : List (Nat × List Byte)) (ty : Nat) : List Byte := (firstSome (fun e : Nat × List Byte => if e.1 = ty then some e.2 else none) l).getD []

/-- Every unit of a list of sections, in order. -/
def readUnits : List (Nat × List Byte) → Option (List CtxUnit)
  | [] => some []
  | e :: t => if e.1 ≠ 3 then readUnits t else match readSection cCtxUnit e.2, readUnits t with
    | some u, some us => some (u :: us)
    | _, _ => none

/-- An image from its bytes. -/
def readCtx (m : List Byte) : Option Ctx := match readSections m with
  | none => none
  | some l =>
    match readSection cCtxBase (sectionOf l 1), readSection cCtxWork (sectionOf l 2), readUnits l,
      readSection (cTable cGroup) (sectionOf l 4), readSection cCtxUmpire (sectionOf l 5) with
    | some b, some w, some u, some g, some p => some { base := b, work := w, units := u, groups := g, ump := p }
    | _, _, _, _, _ => none

/-! ## New numbers for old (R400) -/

/-- New ids for a tenant's objects: the old one where it is free, the lowest free one from lo otherwise. -/
def remap (used : List Nat) (lo : Nat) (olds : List Nat) : List (Nat × Nat) :=
  (olds.foldl (fun (acc : List (Nat × Nat) × NatSet) k =>
    let n := if acc.2.contains k then lowestGap (acc.2.filter fun j => decide (lo ≤ j)) lo else k
    (acc.1 ++ [(k, n)], nsAdd n acc.2)) ([], nsAddAll used [])).1

/-- The new number of an old one. -/
def renum (m : List (Nat × Nat)) (k : Nat) : Nat := (firstSome (fun e : Nat × Nat => if e.1 = k then some e.2 else none) m).getD k

/-- How an imported tenant's numbers change. -/
structure Renum where
  tn    : Nat
  asid  : Nat
  key   : Nat
  inst  : Nat
  adm   : Nat
  image : List (Nat × Nat)
  pool  : List (Nat × Nat)
  plan  : List (Nat × Nat)
  req   : List (Nat × Nat)
  hdl   : List (Nat × Nat)
  slice : List (Nat × Nat)
deriving DecidableEq, Repr

/-- A handle of the imported tenant. -/
def Renum.handle (r : Renum) (h : DWord) : DWord := handleWord r.tn (hGen h) (renum r.hdl (hIdx h)) (hBound h)

/-- A table under new keys. -/
def rekey {α : Type} (f : Nat → Nat) (g : α → α) (t : Table α) : Table α := t.foldl (fun u e => tset u (f e.1) (g e.2)) []

/-- A group, memory instruction, command, workgroup, launch and request under their new numbers. -/
def Renum.group (r : Renum) (g : Group) : Group :=
  { g with inst := g.inst + r.inst, launch := g.launch + r.key, wg := g.wg + r.key, hbKey := g.hbKey + r.key, core := 256
           v := g.v.map fun x => x.map fun y => { y with tag := y.tag + r.key } }
def Renum.op (r : Renum) (o : MemOp) : MemOp :=
  { o with ctx := o.ctx + r.key, inst := o.inst + r.inst, launch := o.launch + r.key, wg := o.wg + r.key, core := 256 }
def Renum.cmd (r : Renum) (c : Cmd) : Cmd :=
  { c with ctx := c.ctx + r.key, inst := c.inst + r.inst, launch := c.launch + r.key, wg := c.wg + r.key, lead := c.lead + r.key
           tenant := r.tn, core := 256, pool := renum r.pool c.pool }
def Renum.wg (r : Renum) (w : Workgroup) : Workgroup :=
  { w with launch := w.launch + r.key, tenant := r.tn, core := 256, placed := false, gang := w.gang.map (· + r.key)
           colls := tmap w.colls fun _ c => { c with slices := c.slices.map (· + r.key) }
           slots := tmap w.slots fun _ o => { o with holder := o.holder.map (· + r.key) }
           lz := tmap w.lz fun _ z => { z with wg := z.wg + r.key }
           chains := tmap w.chains fun _ c => { c with owner := c.owner + r.key } }
def Renum.fault (r : Renum) (q : FaultRec) : FaultRec :=
  { q with launch := q.launch + r.key, ctx := q.ctx.map (· + r.key), cmd := q.cmd.map (· + r.key) }
def Renum.launch (r : Renum) (k : Launch) : Launch :=
  let org : Origin := match k.origin with
    | .task g i => .task (g + r.key) i
    | .scorer p => .scorer (renum r.plan p)
    | .admission q => .admission (renum r.req q)
    | o => o
  { k with tenant := r.tn, asid := r.asid, made := k.made + r.key, madeAt := 0, origin := org, fq := k.fq.map r.fault, fwait := k.fwait.map r.fault }
def Renum.graph (r : Renum) (g : Graph) : Graph :=
  let org : GraphOrigin := match g.origin with
    | .plan p => .plan (renum r.plan p)
    | o => o
  { g with tenant := r.tn, origin := org }
def Renum.request (r : Renum) (q : Request) : Request :=
  { q with tenant := r.tn, plan := renum r.plan q.plan, handle := r.handle q.handle, admission := q.admission.map (· + r.key)
           admseq := q.admseq + r.adm }

/-- The index by which a request was known, where it has another now. -/
def Renum.named (r : Renum) (i : Nat) (q : Request) : Option Nat :=
  let n := q.named.getD i
  if n = renum r.req i then none else some n
def Renum.iter (r : Renum) (it : Iter) : Iter :=
  { it with entries := it.entries.map fun e => { e with req := renum r.req e.req, handle := r.handle e.handle } }

/-! ## The directory, read (R399, R400) -/

/-- A frame of the directory. -/
def readFrame (bs : List Byte) (tn : Nat) (ids : Table Word) : Frame :=
  let v := leNat bs
  { st := frStates.getD (nfld v 168 3) .free, ref := nfld v 208 16, pins := nfld v 192 16, tenant := if nfld v 180 12 = 0 then 0 else tn
    filled := nfld v 171 9, slot := if nbit v 142 then some (nfld v 143 24) else none, lastacc := nfld v 224 32, ids := ids, copied := false }

/-- Piece i of the directory's pieces of n bytes from offset o. -/
def pieceAt (d : List Byte) (o n i : Nat) : List Byte := (d.drop (o + n * i)).take n

/-- The frames of a pool. -/
def readFrames (d : List Byte) (o n tn : Nat) (ids : Table (Table Word)) : Table Frame :=
  ((List.range n).map fun i => (i, readFrame (pieceAt d o 32 i) tn (tgetD ids i []))).filter fun e => e.2 != Frame.none_

/-- The pools with their frames, from offset o of the directory. -/
def readPools (d : List Byte) (x : CtxTail) (tn : Nat) : Nat → Table Pool → Table Pool
  | _, [] => []
  | o, e :: t =>
    let n := frameCount e.2
    (e.1, { e.2 with frames := readFrames d o n tn (tgetD x.ids e.1 []) }) :: readPools d x tn (o + 32 * n) t

/-- Bytes of the frames. -/
def framesBytes (b : CtxBase) : Nat := b.pools.foldl (fun n e => n + 32 * frameCount e.2) 0

/-- A handle of the directory without its block table, and the table's length. -/
def readHandle (r : Renum) (b : CtxBase) (bs : List Byte) : Handle × Nat :=
  let v := leNat bs
  let p := nfld v 64 16
  let per := match tget b.pools p with
    | some q => q.p
    | none => 1
  ({ st := nfld v 42 2, gen := nfld v 44 8, tenant := r.tn, pool := renum r.pool p, c := nfld v 80 24, w := nfld v 104 24, bt := []
     named := none },
    (nfld v 104 24 + per - 1) / per)

/-- The handles, each with the words that name it and its block table, which start at offset o. -/
def readHandles (d : List Byte) (r : Renum) (b : CtxBase) (base : Nat) : Nat → Nat → List (Nat × Nat × Nat) → Table Handle
  | _, _, [] => []
  | i, o, k :: t =>
    let h := readHandle r b (pieceAt d base 16 i)
    (renum r.hdl k.1, { h.1 with bt := (List.range h.2).map fun j => leNat (pieceAt d o 4 j), named := some k.2 }) ::
      readHandles d r b base (i + 1) (o + 4 * h.2) t

/-- Positions of a handle of the directory as its W and its pool's P give the block table's length. -/
def tableLen (d : List Byte) (b : CtxBase) (i : Nat) : Nat :=
  let v := leNat (pieceAt d (framesBytes b) 16 i)
  let per := match tget b.pools (nfld v 64 16) with
    | some q => q.p
    | none => 1
  (nfld v 104 24 + per - 1) / per

/-- Bytes of the block tables of n handles. -/
def tablesBytes (d : List Byte) (b : CtxBase) (n : Nat) : Nat := (List.range n).foldl (fun k i => k + 4 * tableLen d b i) 0

/-- Where what follows the directory begins: after its frames, n handles, their block tables and the slices. -/
def tailAt (d : List Byte) (b : CtxBase) (n : Nat) : Nat :=
  framesBytes b + 16 * n + tablesBytes d b n + 32 * (sliceIndices b.tenant).length

/-- What follows the directory, read. -/
def readTail (d : List Byte) (x : Ctx) : Option CtxTail :=
  let e := d.drop (tailAt d x.base x.ump.hdls)
  readSection cCtxTail ((e.drop 8).take (leNat (e.take 8)))

/-- The valid Playbook entries, under their new indices. -/
def readPlaybook (d : List Byte) (r : Renum) (b : CtxBase) (o : Nat) : Table PbEntry :=
  ((sliceIndices b.tenant).zipIdx).filterMap fun e =>
    let v := leNat (pieceAt d o 32 e.2)
    let n := match tget b.pools (nfld v 208 16) with
      | some q => 16 / max 1 q.p
      | none => 0
    if !nbit v 207 then none
    else some (64 * renum r.slice (e.1 / 64) + e.1 % 64,
      { hash := BitVec.ofNat 64 (nfld v 0 64), pool := renum r.pool (nfld v 208 16)
        frames := (List.range n).map fun j => nfld v (64 + 26 * j) 26, lasthit := nfld v 224 32 })

/-! ## CTX_IMPORT (R400) -/

/-- Merge a table into another. -/
def tmerge {α : Type} (t u : Table α) : Table α := u.foldl (fun acc e => tset acc e.1 e.2) t

/-- The numbers that an import takes; none on a shortage. The tenant's is none that the image's handle words carry, so that no word has
two meanings. -/
def renumOf (s : State) (x : Ctx) (y : CtxTail) : Option Renum :=
  let old := (x.ump.reqs.map fun e => e.2.tenant) ++ y.hidx.map fun e => e.2.1
  match tenantIds s old x.base.tenant.slices.length with
  | none => none
  | some (tn, asid, sl) =>
    let req := remap (tkeys s.reqs) 0 (tkeys x.ump.reqs)
    let own := remap (tkeys (s.handles.filter fun e => e.2.st != 0)) 16384 ((y.hidx.map Prod.fst).filter fun k => decide (16384 ≤ k))
    if (req.any fun e => decide (16384 ≤ e.2)) || own.any fun e => decide (2 ^ 20 ≤ e.2) then none
    else some { tn := tn, asid := asid, key := s.nextKey, inst := s.nextInst, adm := s.admSeq
                image := remap (tkeys s.images) 1 (tkeys x.base.images), pool := remap (tkeys s.pools) 0 (tkeys x.base.pools)
                plan := remap (tkeys s.plans) 1 (tkeys x.base.plans), req := req, hdl := req ++ own, slice := x.base.tenant.slices.zip sl }

/-- Tier-2 areas of the pools, filled as the source's were; none on a shortage. -/
def importTier2 (s : State) (pick : List Nat) (x : CtxTail) : Table Pool → Option (Table Pool × List Nat × State)
  | [] => some ([], pick, s)
  | (i, p) :: t =>
    if p.tier2.isNone then (importTier2 s pick x t).map fun r => ((i, p) :: r.1, r.2)
    else match takeMem s pick true (4 * poolBytes p) 128 with
      | none => none
      | some (b, q, s1) =>
        let s2 := { s1 with mem := (tgetD x.copies i []).foldl (fun m e => mset m (b + e.1) e.2) s1.mem }
        (importTier2 s2 q x t).map fun r => ((i, { p with tier2 := some b }) :: r.1, r.2)

/-- Areas of the ROM plans, filled as the source's were but for the batch area's address; none on a shortage. -/
def importAreas (s : State) (pick : List Nat) (x : CtxTail) : Table Plan → Option (Table Plan × List Nat × State)
  | [] => some ([], pick, s)
  | (i, p) :: t =>
    if p.tmpl.isSome then (importAreas s pick x t).map fun r => ((i, p) :: r.1, r.2)
    else match takeMem s pick false (romAreaBytes p.budget) 128 with
      | none => none
      | some (b, q, s1) =>
        let y := { p with area := b }
        let m := (tgetD x.areas i []).foldl (fun m e => mset m (b + e.1) e.2) s1.mem
        (importAreas { s1 with mem := mwrite m (romParam y) (natBytes 8 (romBatch y)) } q x t).map fun r => ((i, y) :: r.1, r.2)

/-- Prompt copies of the ROM plans' requests; none on a shortage. -/
def importPrompts (s : State) (pick : List Nat) : Table Request → Option (Table Request × List Nat × State)
  | [] => some ([], pick, s)
  | (i, r) :: t => match r.pmem with
    | none => (importPrompts s pick t).map fun q => ((i, r) :: q.1, q.2)
    | some (_, n) => match takeMem s pick false n 128 with
      | none => none
      | some (b, q, s1) =>
        let s2 := { s1 with mem := mwrite s1.mem b (tokBytes (r.toks.take r.plen)) }
        (importPrompts s2 q t).map fun u => ((i, { r with pmem := some (b, n) }) :: u.1, u.2)

/-- A gang under its new numbers, the threads of its workgroups with them (R112). -/
def Renum.gang (r : Renum) (g : Gang) : Gang :=
  { g with launch := g.launch + r.key, next := rekey (fun i => i + 4096 * r.key) id g.next }

/-- The tenant of an image, PARKED under its new numbers. -/
def placeCtx (s : State) (x : Ctx) (y : CtxTail) (d : List Byte) (r : Renum) (pools : Table Pool) (plans : Table Plan)
    (reqs : Table Request) : State :=
  let k (i : Nat) : Nat := i + r.key
  let b := x.base
  let hbase := framesBytes b
  let tbase := hbase + 16 * y.hidx.length
  let arms (i : Nat) (p : Plan) : Plan := { p with
    tenant := r.tn, image := renum r.image p.image, pool := renum r.pool p.pool, bandit := tgetD x.ump.arms i []
    iter := (tget x.ump.iters i).map r.iter }
  { s with
    nextKey := s.nextKey + b.keys.1, nextInst := s.nextInst + b.keys.2
    admSeq := s.admSeq + (x.ump.reqs.foldl (fun m e => max m e.2.admseq) 0) + 1
    tenants := tset s.tenants r.tn { b.tenant with
      asid := r.asid, slices := nsAddAll (r.slice.map Prod.snd) [], park := .parked [], image := [], closing := none
      queue := b.tenant.queue.map fun q => { q with cmd := q.cmd.map k, post := [] } }
    images := tmerge s.images (rekey (renum r.image) (fun i => { i with tenant := r.tn }) b.images)
    pools := tmerge s.pools (rekey (renum r.pool) (fun p => { p with tenant := r.tn }) (readPools d y r.tn 0 pools))
    plans := tmerge s.plans (rekey (renum r.plan) id (tmap plans arms))
    handles := tmerge s.handles (readHandles d r b hbase 0 tbase y.hidx)
    playbook := tmerge s.playbook (readPlaybook d r b (tbase + tablesBytes d b y.hidx.length))
    reqs := tmerge s.reqs (rekey (renum r.req) r.request (tmap reqs fun i q => { q with named := r.named i q }))
    launches := tmerge s.launches (rekey k r.launch x.work.launches), graphs := tmerge s.graphs (rekey k r.graph x.work.graphs)
    taskq := s.taskq ++ x.work.taskq.map k
    gangs := tmerge s.gangs (rekey k r.gang x.work.gangs)
    wgs := tmerge s.wgs (rekey k r.wg (x.units.flatMap CtxUnit.wgs)), ops := tmerge s.ops (rekey k r.op (x.units.flatMap CtxUnit.ops))
    cmds := tmerge s.cmds (rekey k r.cmd (x.units.flatMap CtxUnit.cmds)), groups := tmerge s.groups (rekey k r.group x.groups) }

/-- The image of a tenant is committed: its sections (R398, R399). -/
def commitSections (s : State) (t : Nat) : State := match tget s.tenants t with
  | none => s
  | some x => { s with tenants := tset s.tenants t { x with park := .parked (sections (ctxOf s t x)) } }

/-- Open a tenant from an image and a directory; none on a shortage. -/
def importCtx (s : State) (pick : List Nat) (x : Ctx) (y : CtxTail) (d : List Byte) : Option (Nat × Nat × State) := match renumOf s x y with
  | none => none
  | some r => match importTier2 s pick y x.base.pools with
    | none => none
    | some (pools, q, s1) => match importAreas s1 q y x.base.plans with
      | none => none
      | some (plans, q1, s2) =>
        let reqs := tmap x.ump.reqs fun i q => { q with toks := tgetD y.seqs i [] }
        (importPrompts s2 q1 reqs).map fun u => (r.tn, r.asid, commitSections (placeCtx u.2.2 x y d r pools plans u.1) r.tn)

/-- What CTX_IMPORT read: the plain bytes, or the status that refuses them. -/
def plainImage (s : State) (m : List Byte) : Except Nat (List Byte) :=
  if m.length < 4096 ∨ !headOk s m then .error stBadimage
  else if !nbit (leNat ((m.drop 32).take 2)) 0 then .ok m
  else match s.sec.imageKey with
    | none => .error stNofeat
    | some key => match openBody key (m.take 4096) (m.drop 4096) with
      | none => .error stAuth
      | some b => .ok (m.take 4096 ++ b)

/-- An image has been read: the status, and the state and RESULT of its import (R400, R408). -/
def takeCtx (s : State) (pick : List Nat) (bs : List Byte) : Nat × State × DWord := match plainImage s bs with
  | .error st => (st, s, 0)
  | .ok m =>
    let n := leNat ((m.drop 8).take 8)
    if m.length < n then (stBadimage, s, 0)
    else match readCtx (m.take n) with
      | none => (stBadimage, s, 0)
      | some x => match readTail (m.drop n) x with
        | none => (stBadimage, s, 0)
        | some y => match importCtx s pick x y (m.drop n) with
          | none => (stNores, s, 0)
          | some (i, _, u) => (stOk, u, BitVec.ofNat 64 i)

/-- CTX_IMPORT (R381, R400, R408): the image is read from the host. -/
def execCtxImport (c : HostCmd) (s : State) : Out := .next (runCommand c
  { pf := true, device := true, feats := [10], bad := noArgs [c.a2, c.a3, c.a4, c.a5] }
  (fun t o =>
    if c.a1.toNat < 4096 then .fail stBadimage
    else match startStaged t o c .context c.a0.toNat c.a1.toNat with
      | none => .fail stNores
      | some u => .later u) s)

end Sys2Proof.Machine
end

