-- ==== Sys2Proof/Machine/Residency.lean ====
section
/-! DEFINITION. Records that relaunch into slots, and bins that time out (R226, R229, R236, R237, R239). -/

namespace Sys2Proof.Machine

/-- A core has 8 partitions of 32 slots (R25, R226). -/
def slotsOfPart : Nat := 32
def partsOfCore : Nat := 8

/-- Whether a slot is free. -/
def slotFree (s : State) (core part slot : Nat) : Bool :=
  s.groups.all fun e => !(takesSlot e.2 && decide (e.2.core = core) && decide (e.2.part = part) && decide (e.2.slot = slot))

/-- Registers a record needs free in the lane pipe: one more for cause REGS (R229, R236). -/
def recordNeeds (g : Group) : Nat := if g.cause = .regs then footprint g + 1 else footprint g

/-- Whether a slot can take a record. -/
def slotTakes (s : State) (g : Group) (part slot : Nat) : Bool :=
  decide (part < partsOfCore) && decide (slot < slotsOfPart) && slotFree s g.core part slot &&
    decide (recordNeeds g ≤ pipeFree s g.core part slot)

/-- The order in which ready records of a core relaunch (R236). -/
def readyBefore (s : State) (a b : Group) : Bool :=
  let la := [a.readyAt, launchId s a.launch, wgLin s a.wg, tidLo a]
  let lb := [b.readyAt, launchId s b.launch, wgLin s b.wg, tidLo b]
  decide (la < lb)

/-- Whether a record may relaunch at all: it is READY and stored, its chiplet runs and its tenant is not stopped (R234, R386, R398). -/
def mayRelaunch (s : State) (g : Group) : Bool :=
  decide (g.res = .ready) && chipIssues s g.core && tenantRuns s (tenantOf s g.launch) && g.store != .kept && g.store != .slot

/-! ## Records without a place (R234) -/

/-- The records that the Huddle or a join made without finding room take their places as soon as there is some (R234). -/
def placeKept (s : State) : State :=
  (s.groups.filter fun e => (e.2.store = .kept || e.2.store = .slot) && e.2.res != .opened).foldl (fun t e =>
    match tget t.groups e.1 with
    | some g => match placeRecord t e.1 { g with store := .none } with
      | some st => putGroup t e.1 { g with store := st }
      | none => t
    | none => t) s

/-- The fields of the header that a record with a clause offset reads again (R237). -/
def rereadHeader (s : State) (g : Group) : Group :=
  if g.coff = 0 then g
  else match fetchWord s g.core (asidOf s g.launch) g.pc.toNat with
    | some w =>
      if isHeaderWord w then
        let x := w.toNat
        { g with setA := nfld x 9 4, setB := nfld x 5 4, len := if nfld x 0 5 = 0 then 32 else nfld x 0 5 }
      else g
    | none => g

/-- RECORD_RELAUNCH (R236, R237): a ready record takes a slot, unless an earlier one could take some free slot; after a
pre-emption its region closes (R297). -/
def execRecordRelaunch (ctx part slot : Nat) (s : State) : Out := .next (match tget s.groups ctx with
  | none => s
  | some g =>
    let passed := s.groups.all fun e =>
      !(decide (e.2.core = g.core) && mayRelaunch s e.2 && readyBefore s e.2 g &&
        ((List.range partsOfCore).any fun p => (List.range slotsOfPart).any fun q => slotTakes s e.2 p q))
    if mayRelaunch s g && slotTakes s g part slot && passed then
      match reloadRecord s ctx g with
      | none => headerError s ctx g
      | some h =>
        let r := if g.cause = .preempt then closeRegion s h else (s, h)
        putGroup r.1 ctx (rereadHeader s { r.2 with res := .running, store := .none, liveg := 0, part := part, slot := slot })
    else s)

/-- HUDDLE_BIN_TIMEOUT (R239): 512 clk after a bin's first threads entered. -/
def execHuddleBinTimeout (ctx : Nat) (s : State) : Out := .next (match tget s.groups ctx with
  | some g => if decide (g.res = .opened) && decide (g.since + 512 ≤ s.clk) then emitBin s ctx g else s
  | none => s)

end Sys2Proof.Machine
end

