-- ==== Sys2Proof/Machine/Preempt.lean ====
section
/-! DEFINITION. PREEMPT, the drain, the commit of the context image, and RESUME (R398, R401). -/

namespace Sys2Proof.Machine

/-- Groups of a tenant. -/
def groupsOfTenant (s : State) (t : Nat) : List (Nat × Group) := s.groups.filter fun e => decide (tenantOf s e.2.launch = t)

/-- Change a tenant. -/
def modTenant (s : State) (t : Nat) (f : Tenant → Tenant) : State := { s with tenants := tmod s.tenants t f }

/-! ## Stop (R398 step 1) -/

/-- A group in a slot ends with cause PREEMPT or FAULT; its record goes to the dugout, the spill area or the image.
One that is held inside a repeat stays in it, so that its disposition still finds the iteration (R97, R396). -/
def parkGroup (s : State) (c : Nat) (g : Group) (cause : Cause) : State :=
  let g1 := { g with res := .waiting, cause := cause, arg := 0, want := .none, answered := false, since := s.clk,
                     rep := if cause = Cause.fault then g.rep else none }
  let g2 := asRecord s c g1
  putGroup s c { g2 with store := (placeRecord s c g2).getD .image }

/-- A group of the tenant stops: RUNNING and HELD groups end, bins are emitted. -/
def stopGroup (s : State) (e : Nat × Group) : State := match e.2.res with
  | .running => parkGroup s e.1 e.2 .preempt
  | .held => parkGroup s e.1 e.2 .fault
  | .opened => emitBin s e.1 e.2
  | _ => s

/-- PREEMPT (R398): of a tenant that runs. -/
def execPreempt (c : HostCmd) (s : State) : Out := .next (runCommand c
  { pf := true, feats := [10], bad := noArgs [c.a0, c.a1, c.a2, c.a3, c.a4, c.a5] }
  (fun t o =>
    if preempted t (tnOf c) then .fail stBadstate
    else
      let t1 := modTenant t (tnOf c) fun x => { x with park := .draining t.clk o }
      .later ((groupsOfTenant t1 (tnOf c)).foldl stopGroup t1)) s)

/-! ## Drain (R398 step 2) -/

/-- Unacknowledged packets of a tenant's commands are given up; the parts that they carried are to be asked for again. -/
def giveUp (s : State) (t : Nat) (f : Cmd → Bool) : State :=
  let mine (k : Nat) : Bool := match tget s.cmds k with
    | some c => decide (c.tenant = t) && f c
    | none => false
  { s with
    fab := { s.fab with sent := s.fab.sent.filter fun x => !(match x.cmd with
      | some k => mine k
      | none => false) }
    cmds := tmap s.cmds fun _ c => if decide (c.tenant = t) && f c && fabricOp c.op then { c with landed := c.acked } else c }

/-- PREEMPT_FABRIC_TIMEOUT (R398): an incomplete fget keeps its mark, an incomplete fatom completes with FLAGERR. -/
def execPreemptFabricTimeout (tenant : Nat) (s : State) : Out := .next (match tget s.tenants tenant with
  | none => s
  | some x => match x.park with
    | .draining since _ =>
      if !drainDue s since then s
      else
        let s1 := giveUp s tenant fun c => decide (c.op = opFget) || decide (c.op = opFatom)
        (s1.cmds.filter fun e => decide (e.2.tenant = tenant) && decide (e.2.op = opFatom)).foldl (fun t e => failCmd t e.1 e.2) s1
    | _ => s)

/-- Whether a memory instruction need not be waited for: nothing of it can act before a scratchpad line is present. -/
def waitsForLine (s : State) (o : MemOp) : Bool :=
  decide (o.space = .scratch) && o.accs.all fun x => x.done || (linesOf x.addr o.size).any (absentOf s o.wg).contains

/-- The scratchpad ranges that a command of the base die reads once they are present. -/
def readsSpad (s : State) (c : Cmd) : List (Nat × Nat) :=
  if c.op = opKvapp then (match tget s.pools (handleAt s (hIdx c.a)).pool with
    | some p => [(appOff c, 2 * rowIn p (appType c))]
    | none => [])
  else if c.op = opPfxh then [(c.b.toNat, 64)]
  else if c.op = opPfxl || c.op = opPfxi then [pfxBytes c]
  else if c.op = opFred then [(c.a.toNat, redCount c * recBytes (redOp c))]
  else if c.op = opXred then [(c.a.toNat, 64 * redCount c)]
  else if c.op = opSmpl && c.sub != subRom then [(c.b.toNat, 8 * smplRows c), (c.c.toNat, 16 * smplRows c)]
  else if c.op = 0x72 then [(c.b.toNat, 16 * mrgRows c)]
  else if c.op = 0x73 then [(c.b.toNat, 16)]
  else []

/-- Whether a part of an fput cannot leave: its lines are absent, or an earlier transfer to the same bytes is open. -/
def partWaits (s : State) (k : Nat) (c : Cmd) (i : Nat) : Bool :=
  c.landed.contains i || (localSpad c && !spadPresent s c.wg (c.a.toNat + partOff c i) (partLen c i)) ||
    (!isCatch c && windowHeld s k c (c.b.toNat + partOff c i) (partLen c i))

/-- Whether a command waits for what stopped groups or engines, or an earlier command that waits so, would do first: its acquire or
release, absent lines, a catch slot, its turn, or room in a stream. -/
def waitsOn (s : State) (k : Nat) (c : Cmd) : Bool :=
  !acqReady s k c || !relReady s k c || (readsSpad s c).any (fun r => !spadPresent s c.wg r.1 r.2) ||
    (decide (c.op = opFput) && !c.failed && decide (c.landed.length < moveParts c) && (List.range (moveParts c)).all (partWaits s k c)) ||
    (decide (c.op = opFatom) && windowHeld s k c c.a.toNat (fatomSize c)) ||
    (decide (c.op = opLzq) && decide (c.sub = 1) && !c.started) || ((decide (c.op = opLzarm) || decide (c.op = opLzrel) || decide (c.op = opLzq)) && !lzOrder s k c) ||
    (pageOpc c.op && !pageOrder s k c) || (decide (c.op = opSmpl) && !tileFirst s c) ||
    (decide (0x73 ≤ c.op) && decide (c.op ≤ 0x76) && (!reqOrder s k c || (decide (c.op = 0x75) && (c.started || emitQueued s c || emitBefore s k c))))

/-- Whether a command need not be waited for (R398): an engine's, which pauses with its marks, a paused one, an fget after 40 µs, and one
that waits for others, nothing of it being on its way. -/
def mayStay (s : State) (due : Bool) (k : Nat) (c : Cmd) : Bool :=
  decide (c.op < 0x60) || c.paused || (due && decide (c.op = opFget)) ||
    (waitsOn s k c && !aborting c && !s.fab.sent.any fun x => x.cmd == some k)

/-- Whether a tenant's drain has come far enough for the image. -/
def drained (s : State) (t since : Nat) : Bool :=
  let gs := (groupsOfTenant s t).map Prod.fst
  (s.ops.all fun e => decide (tenantOf s e.2.launch ≠ t) || waitsForLine s e.2) &&
    (s.cmds.all fun e => decide (e.2.tenant ≠ t) || mayStay s (drainDue s since) e.1 e.2) &&
    s.walks.all fun e => !(e.2.reqs.any gs.contains)

/-! ## The image (R398 step 3) -/

/-- A started mma or follow-on gives its tile back and stands as not started (R188, R314). -/
def unstart (s : State) (e : Nat × Cmd) : State :=
  let c := e.2
  if c.phase = 1 ∧ (c.op = opMma ∨ c.op = opCopyf) then
    modCmd (restoreTile s c (productOf c).1) e.1 fun d =>
      { d with phase := 0, started := decide (c.op = opCopyf), shadow := if c.op = opCopyf then d.shadow else none }
  else s

/-- Reserved catch slots of a workgroup turn TORN (R376). -/
def tearAll (s : State) (w : Nat) (x : Workgroup) : State :=
  ((coreOf s x.core).lz.filter fun e => decide (e.2.wg = w)).foldl (fun t e => tearLz t x.core e.1) s

/-- Every dirty private word of a workgroup's core is written back (R273). -/
def flushPrivate (s : State) (x : Workgroup) : State :=
  (coreOf s x.core).priv.foldl (fun t e => evictPrivate t x.core e.1) s

/-- A number that names no core. -/
def noCore : Nat := 256

/-- The slots of a core that no workgroup holds, those never written among them: they hold zeros (R311). -/
def idleSlots (s : State) (core : Nat) : Table OSlot :=
  ((List.range 32).map fun i => (i, tgetD (coreOf s core).slots i { holder := none, mem := [] })).filter fun e => e.2.holder.isNone

/-- A workgroup leaves its core with its slots, catch slots and chains, and with the contents of the slots that none held (R311). -/
def liftWg (s : State) (w : Nat) (idle : Table OSlot) : State := match tget s.wgs w with
  | none => s
  | some x =>
    let k := coreOf s x.core
    let mineS (o : OSlot) : Bool := decide (o.holder = some w)
    let mineL (z : LzSlot) : Bool := z.st != .free && decide (z.wg = w)
    let y := { x with placed := false, core := noCore, slots := tmerge idle (k.slots.filter fun e => mineS e.2)
                      lz := k.lz.filter fun e => mineL e.2, chains := k.chains.filter fun e => decide (e.2.owner = w) }
    let free (z : LzSlot) : LzSlot := { z with st := .free, wg := 0 }
    let k1 := { k with slots := tmap k.slots fun _ o => if mineS o then { o with holder := none } else o
                       lz := tmap k.lz fun _ z => if mineL z then free z else z
                       chains := k.chains.filter fun e => decide (e.2.owner ≠ w) }
    let s1 := setCore { s with wgs := tset s.wgs w y } x.core k1
    let away (g : Group) : Group := { g with core := noCore, store := match g.store with
      | .spill n => .spill n
      | _ => .image }
    clearIfEmpty { s1 with
      groups := tmap s1.groups fun _ g => if g.wg = w then away g else g
      ops := tmap s1.ops fun _ o => if o.wg = w then { o with core := noCore } else o
      cmds := tmap s1.cmds fun _ c => if c.wg = w then { c with core := noCore } else c } x.core

/-- The tenant's cores are emptied into the image, what a core's unheld slots hold once among them, and the tenant becomes PARKED. -/
def commitImage (s : State) (t : Nat) (o : Owed) : State :=
  let ws := s.wgs.filter fun e => decide (e.2.tenant = t) && e.2.placed
  let s1 := (s.cmds.filter fun e => decide (e.2.tenant = t)).foldl unstart (giveUp s t fun c => decide (c.op = opFget))
  let s2 := ws.foldl (fun u e => flushPrivate (tearAll u e.1 e.2) e.2) s1
  let first (e : Nat × Workgroup) : Bool := ((ws.find? fun x => decide (x.2.core = e.2.core)).map Prod.fst) == some e.1
  let s3 := ws.foldl (fun u e => liftWg u e.1 (if first e then idleSlots s2 e.2.core else [])) s2
  let s4 := commitSections s3 t
  match tget s4.tenants t with
  | some x => match x.park with
    | .parked ss => complete s4 o stOk (BitVec.ofNat 64 (imageBytes s4 x ss).length)
    | _ => s4
  | none => s4

/-- CONTEXT_IMAGE_COMMIT (R398). -/
def execContextImageCommit (tenant : Nat) (s : State) : Out := .next (match tget s.tenants tenant with
  | none => s
  | some x => match x.park with
    | .draining since o => if drained s tenant since then commitImage s tenant o else s
    | _ => s)

/-! ## RESUME (R401) -/

/-- A record becomes ready as its tenant resumes. -/
def wakeGroup (clk : Nat) (g : Group) : Group :=
  if g.res = .ready then { g with readyAt := clk }
  else if g.res = .waiting ∧ g.cause = .preempt then { g with res := .ready, readyAt := clk }
  else refresh clk g

/-- Every section is placed: records become ready, fault records are served again, and RESUME completes. -/
def finishResume (s : State) (t : Nat) (o : Owed) : State :=
  let mine (l : Nat) : Bool := decide (tenantOf s l = t)
  let s1 := modTenant s t fun x => { x with park := .active, image := [] }
  let s2 := { s1 with
    groups := tmap s1.groups fun _ g => if mine g.launch then wakeGroup s.clk g else g
    launches := tmap s1.launches fun _ k => if k.tenant = t then { k with fq := k.fq.map fun r => { r with heldAt := s.clk } } else k }
  endBusy s2 o stOk 0

/-- RESUME (R401). -/
def execResume (c : HostCmd) (s : State) : Out := .next (runCommand c
  { pf := true, feats := [10], bad := noArgs [c.a0, c.a1, c.a2, c.a3, c.a4, c.a5] }
  (fun t o => match tget t.tenants (tnOf c) with
    | none => .fail stBadtenant
    | some x => match x.park with
      | .parked _ =>
        let ss := sectionsOf t (tnOf c)
        let t1 := modTenant (setBusy t o true) (tnOf c) fun y => { y with park := .resuming o, image := ss }
        .later (if ss.isEmpty then finishResume t1 (tnOf c) o else t1)
      | _ => .fail stBadstate) s)

/-- Whether a core has a workgroup's numbered slots, catch slots and chains free. -/
def numbersFree (s : State) (core : Nat) (x : Workgroup) : Bool :=
  let k := coreOf s core
  (x.slots.all fun e => e.2.holder.isNone || match tget k.slots e.1 with
    | some o => o.holder.isNone
    | none => true) &&
    (x.lz.all fun e => decide ((lzAt s core e.1).st = .free)) && x.chains.all fun e => !thas k.chains e.1

/-- A slot with room for a held group's registers: the one asked for, else the first. -/
def heldSlot (s : State) (g : Group) (hint : Option Place) : Option Place :=
  let first := firstSome (fun q => if slotTakes s g (q / 32) (q % 32) then some ({ part := q / 32, slot := q % 32 } : Place) else none)
    (List.range 256)
  match hint with
  | some p => if slotTakes s g p.part p.slot then some p else first
  | none => first

/-- The groups of a workgroup that faulted return to HELD, spilled ones as their cells give them (R243); none where one finds no
slot. -/
def holdAgain (s : State) (places : List Place) : List (Nat × Group) → Option (State × List Place)
  | [] => some (s, places)
  | e :: t => match heldSlot s e.2 places.head? with
    | none => none
    | some p => match reloadRecord s e.1 e.2 with
      | none => holdAgain (headerError s e.1 e.2) places t
      | some g => holdAgain (putGroup s e.1 { g with res := .held, store := .none, liveg := 0, part := p.part, slot := p.slot }) (places.drop 1) t

/-- The slots of an image over those of a core: one that is saved unheld is restored unheld where the core's is (R311). -/
def mergeSlots (t l : Table OSlot) : Table OSlot :=
  l.foldl (fun u e => if e.2.holder.isNone && ((tget u e.1).bind OSlot.holder).isSome then u else tset u e.1 e.2) t

/-- A workgroup goes back onto a core. -/
def dropWg (s : State) (w core : Nat) (x : Workgroup) (pw : Word) : State :=
  let k := coreOf s core
  let k1 := { k with pword := pw, slots := mergeSlots k.slots x.slots, lz := tmerge k.lz x.lz, chains := tmerge k.chains x.chains }
  let s1 := setCore { s with wgs := tset s.wgs w { x with placed := true, core := core, slots := [], lz := [], chains := [] }
                             pointer := (core + 1) % 256 } core k1
  { s1 with
    groups := tmap s1.groups fun _ g => if g.wg = w then { g with core := core } else g
    ops := tmap s1.ops fun _ o => if o.wg = w then { o with core := core } else o
    cmds := tmap s1.cmds fun _ c => if c.wg = w then { c with core := core } else c }

/-- Restore a workgroup on a core that accepts it (R56, R250, R401). -/
def restoreWg (s : State) (places : List Place) (w : Nat) : Option (State × List Place) := match tget s.wgs w with
  | none => some (s, places)
  | some x =>
    let d := descOf s x.launch
    match chooseCore s fun c => coreAccepts s c x.tenant d.pword (x.threads / 16) x.spadLen x.nacc && numbersFree s c x with
    | none => none
    | some core =>
      let s1 := dropWg s w core x d.pword
      holdAgain s1 places ((groupsOf s1 w).filter fun e => decide (e.2.cause = .fault) && decide (e.2.res = .waiting))

/-- Restore the workgroups of a section, or none of them. -/
def restoreAll (s : State) (places : List Place) : List Nat → Option (State × List Place)
  | [] => some (s, places)
  | w :: t => match restoreWg s places w with
    | none => none
    | some r => restoreAll r.1 r.2 t

/-- SECTION_RESTORE (R401): the first section that is left. -/
def execSectionRestore (tenant sect : Nat) (places : List Place) (s : State) : Out := .next (match tget s.tenants tenant with
  | none => s
  | some x => match x.park, x.image with
    | .resuming o, ws :: rest =>
      if sect ≠ 0 then s
      else match restoreAll s places ws with
        | none => s
        | some r =>
          let s1 := modTenant r.1 tenant fun y => { y with image := rest }
          if rest.isEmpty then finishResume s1 tenant o else s1
    | _, _ => s)

end Sys2Proof.Machine
end

