-- ==== Sys2Proof/Machine/Chiplet.lean ====
section
/-! DEFINITION. Compute chiplets (R386 to R388): CHIPLET_RESET, faults, the fence and what is lost at it, reset and self-test. -/

namespace Sys2Proof.Machine

/-- The state of a chiplet; a number that names none is OFFLINE. -/
def chipState (s : State) (i : Nat) : ChipSt := match s.chips[i]? with
  | some k => k.st
  | none => .offline

/-- Change a chiplet. -/
def modChip (s : State) (i : Nat) (f : Chip → Chip) : State := { s with chips := s.chips.mapIdx fun j k => if j = i then f k else k }

/-- A chiplet starts to fence; the clocks that the running window has withheld on it count (R28). -/
def beginFence (s : State) (i : Nat) (o : Option Owed) : State :=
  modChip s i fun k => { k with st := .fencing, since := s.clk, waiter := o, withheld := k.withheld + heldSoFar s k }

/-- Whether a PREEMPT is in effect: of any tenant, until its RESUME has completed. -/
def anyPreempt (s : State) : Bool := s.tenants.any fun e => e.2.park != .active

/-- CHIPLET_RESET (R386). -/
def execChipletReset (c : HostCmd) (s : State) : Out := .next (runCommand c
  { pf := true, device := true, bad := decide (4 ≤ c.a0.toNat) || noArgs [c.a1, c.a2, c.a3, c.a4, c.a5] }
  (fun t o =>
    let i := c.a0.toNat
    if t.fixed.present.getLsbD i = false then .fail stBadstate
    else match chipState t i with
      | .fencing => .fail stBusy
      | .resetting => .fail stBusy
      | .selftest => .fail stBusy
      | _ => if anyPreempt t then .fail stBusy else .later (beginFence t i (some o))) s)

/-- CHIPLET_FAULT (R386): it posts no completion; TELEMETRY counts it. -/
def execChipletFault (chip : Nat) (s : State) : Out := .next (
  if chipState s chip = .active then
    beginFence { s with tele := { s.tele with chipFaults := s.tele.chipFaults + 1 } } chip none
  else s)

/-! ## The fence (R387, R388) -/

/-- Whether a core is on a chiplet. -/
def onChip (chip core : Nat) : Bool := decide (core / 64 = chip)

/-- Whether a launch has anything on a chiplet. -/
def touchesChip (s : State) (chip l : Nat) : Bool :=
  (s.wgs.any fun e => e.2.placed && decide (e.2.launch = l) && onChip chip e.2.core) ||
    (s.groups.any fun e => decide (e.2.launch = l) && onChip chip e.2.core) ||
    (s.ops.any fun e => decide (e.2.launch = l) && onChip chip e.2.core) ||
    s.cmds.any fun e => decide (e.2.launch = l) && onChip chip e.2.core

/-- The launches that a fence loses. -/
def lostLaunches (s : State) (chip : Nat) : List Nat := (s.launches.map Prod.fst).filter (touchesChip s chip)

/-- Everything on a chiplet is discarded: groups, accepted instructions with their pins and their unanswered requests, workgroups. -/
def discardChip (s : State) (chip : Nat) : State :=
  let s1 := (s.groups.filter fun e => onChip chip e.2.core).foldl (fun t e => removeGroup t e.1 e.2) s
  let s2 := (s1.cmds.filter fun e => onChip chip e.2.core).foldl (fun t e => dropPins t e.2) s1
  let gone (k : Nat) : Bool := (match tget s.cmds k with
    | some c => onChip chip c.core
    | none => false) || (match tget s.ops k with
    | some o => onChip chip o.core
    | none => false)
  { s2 with
    cmds := s2.cmds.filter fun e => !onChip chip e.2.core
    ops := s2.ops.filter fun e => !onChip chip e.2.core
    wgs := s2.wgs.filter fun e => !(e.2.placed && onChip chip e.2.core)
    fab := { s2.fab with sent := s2.fab.sent.filter fun x => !(match x.cmd with
      | some k => gone k
      | none => false) } }

/-- The cores of a chiplet lose their chains; the directory forgets their L1s, and their race records go (R272, R300, R310). -/
def clearCores (s : State) (chip : Nat) : State :=
  let held (e : Nat × SectorRec) : Bool := match e.2.holder with
    | some c => onChip chip c
    | none => false
  { s with
    cores := tmap s.cores fun c k => if onChip chip c then { k with
        pword := 0, l1 := [], priv := [], code := [], chains := [], slots := tmap k.slots fun _ o => { o with holder := none }
        lz := tmap k.lz fun _ z => { z with st := .free, wg := 0 } } else k
    race := s.race.filter fun e => !held e
    tele := { s.tele with raceDrop := s.tele.raceDrop + (s.race.filter held).length } }

/-- The record of a launch that a chiplet fault loses (R386): which instruction it names is not stated. -/
def lostRecord (s : State) (l : Nat) : FaultRec × State :=
  let a := takeFree s
  let b := takeFree a.2
  ({ lateRecord s l 0 { pc := a.1, coff := 0, repi := 0, tidlo := 0 } (b.1.setWidth 32) (nfld b.1.toNat 32 8) with wglin := 0 }, b.2)

/-- A launch is lost (R388): no unit is admitted any more, its fault queue empties, and what it has elsewhere is aborted. -/
def loseLaunch (fault : Bool) (s : State) (l : Nat) : State :=
  let s1 := modLaunch s l fun k => { k with lost := true, fq := [], fwait := [], server := none }
  let s2 := if fault then enterRecord (lostRecord s1 l).2 l (lostRecord s1 l).1 else s1
  let s3 := (s2.groups.filter fun e => decide (e.2.launch = l)).foldl (fun t e => dropGroup t e.1 e.2) s2
  let s4 := (cmdKeys s3 fun c => decide (c.launch = l) && c.paused).foldl abortCmd s3
  ((s4.wgs.filter fun e => decide (e.2.launch = l)).map Prod.fst).foldl afterEnd s4

/-- The fence is complete (R387 step 4, R388, R391): the chiplet resets. -/
def completeFence (s : State) (chip : Nat) : State :=
  let fault := match s.chips[chip]? with
    | some k => k.waiter.isNone
    | none => false
  let ls := lostLaunches s chip
  let s1 := clearCores (discardChip s chip) chip
  let s2 := ls.foldl (loseLaunch fault) s1
  fencedAcks (modChip s2 chip fun k => { k with st := .resetting, since := s.clk }) chip

/-- FENCE_DRAIN_COMPLETE (R386, R387). -/
def execFenceDrainComplete (chip : Nat) (s : State) : Out :=
  .next (if chipState s chip = .fencing then completeFence s chip else s)

/-- FENCE_TIMEOUT (R386): 20 µs after fencing began. -/
def execFenceTimeout (chip : Nat) (s : State) : Out := .next (match s.chips[chip]? with
  | some k => if decide (k.st = .fencing) && decide (k.since + usClk 20 ≤ s.clk) then completeFence s chip else s
  | none => s)

/-! ## Reset and self-test (R386) -/

/-- CHIPLET_RESET_DONE: every core is empty, and its TLBs with the chiplet's. The latched scores are the distributor's. -/
def execChipletResetDone (chip : Nat) (s : State) : Out := .next (
  if chipState s chip = .resetting then
    let s1 := { s with cores := tmap s.cores fun c k => if onChip chip c then { Core.empty with score := k.score } else k }
    modChip s1 chip fun k => { k with st := .selftest, since := s.clk, tlb := [] }
  else s)

/-- The CHIPLET_RESET that waits for a chiplet completes. -/
def answerReset (s : State) (chip status : Nat) : State := match (s.chips[chip]?).bind Chip.waiter with
  | some o => complete (modChip s chip fun k => { k with waiter := none }) o status 0
  | none => s

/-- SELFTEST_PASS: the chiplet is ACTIVE, at withhold level 0 (R28). -/
def execSelftestPass (chip : Nat) (s : State) : Out := .next (
  if s.rdy && decide (chipState s chip = .selftest) then
    answerReset (modChip s chip fun k => { k with st := .active, since := s.clk, hold := 0 }) chip stOk
  else s)

/-- SELFTEST_FAIL: the chiplet is OFFLINE. -/
def execSelftestFail (chip : Nat) (s : State) : Out := .next (
  if s.rdy && decide (chipState s chip = .selftest) then
    answerReset (modChip s chip fun k => { k with st := .offline, since := s.clk }) chip stLost
  else s)

end Sys2Proof.Machine
end

