-- ==== Sys2Proof/Machine/FabricCmds.lean ====
section
/-! DEFINITION. FABRIC_ROUTES (R370, R371, R374): the route banks and the export table. -/

namespace Sys2Proof.Machine

/-- The rule of steps 0 to 2: the table address and the step are the only arguments. -/
def routesRule (c : HostCmd) : Rule :=
  { pf := true, device := true, feats := [6]
    bad := decide (4 ≤ c.a1.toNat) || decide (c.a0.toNat % 64 ≠ 0) || noArgs [c.a2, c.a3, c.a4, c.a5] }

/-- The idle bank: the one not in force, bank 0 before the first flip. -/
def idleBank (s : State) : Bool := s.fab.inject == some 0

/-- Change the state of a bank. -/
def setBank (s : State) (b : Bool) (st : BankSt) : State :=
  { s with fab := { s.fab with bankSt := if b then s.fab.bankSt.set 1 st else s.fab.bankSt.set 0 st } }

/-- Entry i of a route table in the host's memory. -/
def routeEntry (bs : List Byte) (i : Nat) : Nat := leNat ((bs.drop (2 * i)).take 2)

/-- The entries of a table, destination and word, in order. -/
def routeEntries : Nat → List Byte → List (Nat × Nat)
  | i, a :: b :: t => (i, a.toNat + 256 * b.toNat) :: routeEntries (i + 1) t
  | _, _ => []

/-- Whether an entry breaks R370: a reserved bit, or a valid entry for the device itself. -/
def routeBad (own : Nat) (e : Nat × Nat) : Bool := decide (nfld e.2 4 11 ≠ 0) || (decide (e.1 = own) && nbit e.2 15)

/-- The routes of a table. -/
def routesOf (l : List (Nat × Nat)) : Table Nat := (l.filter fun e => nbit e.2 15).map fun e => (e.1, e.2 % 16)

/-- FABRIC_ROUTES step 0 (R370): load the idle bank. DESIGN CHOICE (log 47): BADADDR for a table that passes the end of the host's
addresses, since no rule says which table it is given for. -/
def execFabricRoutesLoad (c : HostCmd) (s : State) : Out := .next (runCommand c (routesRule c)
  (fun t _ =>
    let b := idleBank t
    let l := routeEntries 0 (hostRead t c.a0.toNat 8192)
    if bankSt t b ≠ .retired then .fail stBadstate
    else if 2 ^ 64 < c.a0.toNat + 8192 then .fail stBadaddr
    else if l.any (routeBad t.fab.devId) then .fail stBadfield
    else .ok (setBank { t with fab := { t.fab with banks := tset t.fab.banks (b2n b) (routesOf l) } } b .loaded)
      (BitVec.ofNat 64 (b2n b))) s)

/-- FABRIC_ROUTES step 1 (R370): flip. -/
def execFabricRoutesFlip (c : HostCmd) (s : State) : Out := .next (runCommand c (routesRule c)
  (fun t _ =>
    let b := idleBank t
    if bankSt t b ≠ .loaded then .fail stBadstate
    else
      let t1 := if t.fab.inject.isSome then setBank t (!b) .flippedOut else t
      let t2 := setBank t1 b .inForce
      .ok (sendUnsent { t2 with fab := { t2.fab with inject := some (b2n b) } }) (BitVec.ofNat 64 (b2n b))) s)

/-- The in-flight counter of a bank (R371): packets sent with it and not acknowledged, and packets of it in the buffers. -/
def bankCount (s : State) (b : Bool) : Nat :=
  (s.fab.sent.filter fun x => x.pkt.bank == b).length + (s.fab.wire.filter fun p => p.bank == b).length

/-- FABRIC_ROUTES step 2 (R370): retire the bank that was flipped out. -/
def execFabricRoutesRetire (c : HostCmd) (s : State) : Out := .next (runCommand c (routesRule c)
  (fun t _ =>
    let b := idleBank t
    if bankSt t b ≠ .flippedOut then .fail stBadstate
    else if bankCount t b ≠ 0 then .fail stBusy
    else .ok (setBank { t with fab := { t.fab with banks := tdel t.fab.banks (b2n b) } } b .retired) (BitVec.ofNat 64 (b2n b))) s)

/-- Whether step 3's arguments break R374. -/
def exportBad (c : HostCmd) : Bool :=
  decide (4 ≤ c.a1.toNat) || decide (c.a0.toNat % 65536 ≠ 0) || decide (c.a2.toNat % 65536 ≠ 0) || decide (2 ^ 42 < c.a2.toNat) ||
    decide (2 ^ 25 ≤ c.a3.toNat) || noArgs [c.a4, c.a5]

/-- FABRIC_ROUTES step 3 (R374, R391): an entry is made, in the place of one for the same peer and tenant, or taken away.
A removal ends with a shootdown of the tenant's address space over the window. -/
def execFabricRoutesExport (c : HostCmd) (s : State) : Out := .next (runCommand c
  { pf := true, feats := [6], bad := exportBad c }
  (fun t o =>
    let dev := nfld c.a3.toNat 0 12
    let pt := nfld c.a3.toNat 12 12
    let same (e : Export) : Bool := decide (e.dev = dev) && decide (e.ptenant = pt)
    if nbit c.a3.toNat 24 then
      match t.fab.exports.find? fun e => same e && decide (e.tenant = tnOf c) with
      | none => .fail stNotfound
      | some e =>
        let t1 := { t with fab := { t.fab with exports := t.fab.exports.filter fun e => !(same e && decide (e.tenant = tnOf c)) } }
        .later (startShoot (setBusy t1 o true) (tnOf c) (cmdSpace t c) e.base (e.base + e.len) [] (some o) 0 false)
    else
      let rest := t.fab.exports.filter fun e => !same e
      if 4096 ≤ rest.length then .fail stNores
      else
        let e : Export := { dev := dev, ptenant := pt, tenant := tnOf c, base := c.a0.toNat, len := c.a2.toNat }
        .ok { t with fab := { t.fab with exports := rest ++ [e] } } 0) s)

end Sys2Proof.Machine
end

