-- ==== Sys2Proof/Machine/Handoff.lean ====
section
/-! DEFINITION. KV hand-off (R353, R379, R380): KV_EXPORT and KV_IMPORT, their messages and their timers. -/

namespace Sys2Proof.Machine

/-! ## KV_EXPORT -/

/-- Whether its arguments break R379. -/
def kvExportBad (c : HostCmd) : Bool :=
  let a := c.a1.toNat
  decide (2 ^ 14 ≤ c.a0.toNat) || (if nbit a 63 then decide (nfld a 32 31 ≠ 0) else decide (4096 ≤ a)) || noArgs [c.a3, c.a4, c.a5]

/-- The transfer that KV_EXPORT makes. -/
def newExport (s : State) (c : HostCmd) (i : Nat) (r : Request) (o : Owed) : KvXfer :=
  { import_ := false, tenant := tnOf c, req := i, plan := r.plan, tag := c.a2.toNat, zoubry := !nbit c.a1.toNat 63
    peer := nfld c.a1.toNat 0 32, owed := o, since := s.clk, manifest := none, pages := [], frames := [] }

/-- KV_EXPORT (R353, R379): at once, or at the commit of the running iteration. Where nothing can be sent to the peer, before the
first flip or without a key, it is aborted at once (R370, R373, R379). -/
def execKvExport (c : HostCmd) (s : State) : Out := .next (runCommand c
  { feats := if nbit c.a1.toNat 63 then [8] else [], bad := kvExportBad c }
  (fun t o => match namedReq t c with
    | none => .fail stNotfound
    | some (i, r) =>
      if r.xpend || r.wantExport.isSome then .fail stBusy
      else if !exportable r.st then .fail stBadstate
      else if !canHand t (!nbit c.a1.toNat 63) (nfld c.a1.toNat 0 32) then .fail stAborted
      else
        let k := t.nextKey
        let t1 := { t with nextKey := k + 1, fab := { t.fab with xfers := tset t.fab.xfers k (newExport t c i r o) } }
        .later (if r.initer then modReq t1 i fun y => { y with wantExport := some k } else startExport t1 k)) s)

/-! ## What an import makes (R380) -/

/-- The transfer tag as the packets of a path carry it: 48 bits on Zoubry. -/
def kvTag (zoubry : Bool) (tag : Nat) : Nat := if zoubry then tag % 2 ^ 48 else tag

/-- Positions that an import holds: C = W = COMMITTED − 1. -/
def importLen (m : KvManifest) : Nat := m.committed - 1

/-- Frames of an import. -/
def importFrames (m : KvManifest) : Nat := (importLen m + m.p - 1) / m.p

/-- Allocate up to n frames more (R321). -/
def takePages (now : Nat) : Nat → Pool → List Nat → List Nat × Pool
  | 0, p, fs => (fs, p)
  | n + 1, p, fs => match allocFrame p now with
    | none => (fs, p)
    | some (f, q) => takePages now n q (fs ++ [f])

/-- The frames of an import that fails are as they were before it (R380). -/
def returnPages (p : Pool) (fs : List Nat) : Pool := fs.reverse.foldl (fun q f =>
  let x := frameOf q f
  let q1 := setFrame q f Frame.none_
  let q2 := { q1 with ctr := { q1.ctr with alloc := q1.ctr.alloc - 1 } }
  match x.slot with
  | some g => if g = f then { q2 with free := f :: q2.free } else slotGiven q2 g
  | none => if f < q2.f ∧ slotHolder q2 f = none then { q2 with free := f :: q2.free } else q2) p

/-- The token ids of frame slot e of an import, as its pages bring them: those below its filled count. -/
def importIds (x : KvXfer) (m : KvManifest) (e : Nat) : List Word :=
  ((tgetD x.pages (e * m.layers) ([], [])).2).take (min m.p (importLen m - m.p * e))

/-- Fill the entry of a frame of an import. -/
def fillFrame (p : Pool) (f : Nat) (ids : List Word) : Pool :=
  setFrame p f { frameOf p f with filled := ids.length, ids := ids.zipIdx.map fun w => (w.2, w.1) }

/-- The layer pages of an import: the place where the frame lies, and bytes. -/
def importPages (s : State) (p : Pool) (x : KvXfer) (m : KvManifest) (fs : List Nat) : List (Loc × List Byte) :=
  fs.zipIdx.flatMap fun e => (List.range m.layers).map fun l =>
    (frameLoc s p e.1 l (awayFrame p e.1), ((tgetD x.pages (e.2 * m.layers + l) ([], [])).1).take m.bp)

/-- The request entry of an import. -/
def importEntry (s : State) (x : KvXfer) (m : KvManifest) (h : DWord) (toks : List Word) : Request :=
  { handle := h, tenant := x.tenant, st := .prefill, reason := 0, initer := false, cancelp := false, dlmiss := false
    pframe := false, xpend := false, prio := m.prio, plan := x.plan, specc := m.specc, tmpl := 0, oldTmpl := 0, plen := m.plen
    maxnew := m.maxnew + (m.committed - m.plen), committed := m.committed, cursor := 0, nextin := m.nextin, seed := m.seed
    streampos := m.streampos, deadline := 0, temp := m.temp, minp := m.minp, penalty := 0, admseq := s.admSeq, iter := 0
    accepted := 0, stopctl := m.stopctl, stoptok := m.stoptok, stopseq := m.stopseq, pcopy := 0, toks := toks, pend := []
    last := none, bell := none, pmem := none, admission := none, cancels := [], exporting := none, wantExport := none
    comCursor := 0, loading := false, named := none }

/-- The positions an import needs: its bound (R332). -/
def importBound (m : KvManifest) : Nat := m.committed + m.maxnew

/-- An import fails: nothing is written, its frames go back, and nothing is acknowledged (R380). -/
def failImport (s : State) (k : Nat) (x : KvXfer) (st : Nat) : State :=
  let s1 := match (tget s.plans x.plan).map Plan.pool with
    | some i => modPool s i fun p => returnPages p x.frames
    | none => s
  endXfer s1 k st 0

/-- An import with all its frames and pages (R380): the pages and the frames' entries are written, the request is made, and the peer
has its acknowledgement. -/
def makeImport (s : State) (k : Nat) (x : KvXfer) (m : KvManifest) (pool i : Nat) (p : Pool) : State :=
  let q := x.frames.foldl settleFrame p
  let ps := importPages s q x m x.frames
  if ps.any fun e => (locFault s e.1 0 m.bp true).isSome then failImport s k x stBadaddr
  else
    let t := { s with pools := tset s.pools pool (x.frames.zipIdx.foldl (fun u e => fillFrame u e.1 (importIds x m e.2)) q) }
    let t1 := ps.foldl (fun u e => locWrite u e.1 0 e.2 false) t
    let h := handleWord x.tenant (handleAt t1 i).gen i (importBound m)
    let t2 := ownHandle t1 i x.tenant pool
    let n := importLen m
    let t3 := { t2 with handles := tmod t2.handles i fun e => { e with c := n, w := n, bt := x.frames } }
    let toks := ((List.range (importFrames m)).flatMap (importIds x m)) ++ [m.nextin]
    let r := importEntry t3 x m h toks
    let t4 := endXfer { t3 with reqs := tset t3.reqs i { r with st := nextSt t3 r }, admSeq := t3.admSeq + 1 } k stOk h
    if canHand t4 x.zoubry x.peer then (handOver t4 x false none .imported).1 else t4

/-- An import goes on once its last page has arrived: it takes its frames, waits where AllocFrame waits for an eviction (R321), and ends. -/
def settleImport (s : State) (k : Nat) : State := match tget s.fab.xfers k with
  | none => s
  | some x => match x.manifest with
    | none => s
    | some m =>
      let n := importFrames m
      if x.pages.length < n * m.layers then s
      else match tget s.plans x.plan with
        | none => failImport s k x stNotfound
        | some pl => match tget s.pools pl.pool, freeReq s with
          | some p, some i =>
            if 0xFFFFFF < importBound m then failImport s k x stBound
            else
              let r := takePages (lastIter s) (n - x.frames.length) p x.frames
              let y := { x with frames := r.1 }
              let s1 := { s with pools := tset s.pools pl.pool r.2, fab := { s.fab with xfers := tset s.fab.xfers k y } }
              if r.1.length = n then makeImport s1 k y m pl.pool i r.2
              else if allocWaits r.2 then s1
              else failImport s1 k y stNores
          | _, _ => failImport s k x stNores

/-- The imports that wait for frames try again. -/
def settleImports (s : State) : State :=
  ((s.fab.xfers.filter fun e => e.2.import_ && e.2.manifest.isSome).map Prod.fst).foldl settleImport s

/-- Whether a manifest does not fit the plan's pool (R380). -/
def importClash (s : State) (x : KvXfer) (m : KvManifest) : Bool :=
  match (tget s.plans x.plan).bind fun pl => tget s.pools pl.pool with
  | none => true
  | some p => decide (p.p ≠ m.p) || decide (p.layers ≠ m.layers) || decide (p.bp ≠ m.bp) || decide (p.etype ≠ m.etype)

/-! ## Messages as they arrive (R379) -/

/-- The transfer that a message is for: an export that its peer acknowledges, the import a manifest names, or the import a page joins. -/
def xferFor (s : State) (e : KvEarly) : Option (Nat × KvXfer) :=
  let same (x : KvXfer) : Bool := decide (kvTag e.zoubry x.tag = e.tag)
  let from_ (x : KvXfer) : Bool := same x && (x.zoubry == e.zoubry) && decide (x.peer = e.peer)
  match e.body with
  | .imported => s.fab.xfers.find? fun y => !y.2.import_ && from_ y.2
  | .manifest _ => s.fab.xfers.find? fun y => y.2.import_ && y.2.manifest.isNone && same y.2
  | .page _ _ _ _ => s.fab.xfers.find? fun y => y.2.import_ && y.2.manifest.isSome && from_ y.2

/-- A page of an import lands in its transfer. -/
def landPage (x : KvXfer) (f l : Nat) (bs : List Byte) (ids : List Word) : KvXfer := match x.manifest with
  | none => x
  | some m => if importFrames m ≤ f ∨ m.layers ≤ l then x else { x with pages := tset x.pages (f * m.layers + l) (bs, ids) }

/-- A message reaches its transfer; one that no transfer wants yet is kept. A manifest from a scale-out peer shows its import to be one
that needs UEHAND, whichever of the two came first (R41). -/
def deliverOne (s : State) (e : KvEarly) : State := match xferFor s e with
  | none => { s with fab := { s.fab with early := s.fab.early ++ [e] } }
  | some (k, x) => match e.body with
    | .imported => doneExport s k
    | .manifest m =>
      if !e.zoubry && !featOn s 8 then endXfer s k stNofeat 0
      else if importClash s x m then endXfer s k stBadfield 0
      else settleImport { s with fab := { s.fab with
        xfers := tset s.fab.xfers k { x with manifest := some m, zoubry := e.zoubry, peer := e.peer } } } k
    | .page f l bs ids => settleImport { s with fab := { s.fab with xfers := tset s.fab.xfers k (landPage x f l bs ids) } } k

/-- The kept messages are offered again, in the order of their arrival. -/
def replay (s : State) : State := s.fab.early.foldl deliverOne { s with fab := { s.fab with early := [] } }

/-- A message is delivered; a manifest may let pages in that came before it. -/
def deliver (s : State) (e : KvEarly) : State := replay (deliverOne s e)

/-- A piece of a message arrives: the message, once it is whole (log 20). -/
def joinPiece (s : State) (peer tag : Nat) (e : Nat × Nat × Nat × List Byte) : State × Option KvBody :=
  let same (x : KvPart) : Bool := decide (x.peer = peer) && decide (x.tag = tag) && decide (x.no = e.1)
  let old := (s.fab.parts.find? same).getD { peer := peer, tag := tag, no := e.1, total := e.2.1, got := [] }
  let x := { old with got := tset old.got e.2.2.1 e.2.2.2 }
  let rest := s.fab.parts.filter fun y => !same y
  let bs := x.got.flatMap Prod.snd
  if x.total ≤ bs.length then ({ s with fab := { s.fab with parts := rest } }, kvParse bs)
  else ({ s with fab := { s.fab with parts := rest ++ [x] } }, none)

/-- KVXFER_PACKET (R373, R379). -/
def execKvxferPacket (p : Packet) (port : Nat) (s : State) : Out := .next (receive pktKv p port s fun t =>
  let tag := p.af % 2 ^ 48
  let r := joinPiece t p.src tag (kvPiece p.payload)
  (match r.2 with
    | some b => deliver r.1 { zoubry := true, peer := p.src, tag := tag, body := b }
    | none => r.1, some (ackOf p)))

/-! ## KV_IMPORT -/

/-- KV_IMPORT (R47, R380): it waits for the manifest with its tag. -/
def execKvImport (c : HostCmd) (s : State) : Out := .next (runCommand c
  { bad := decide (65536 ≤ c.a1.toNat) || noArgs [c.a2, c.a3, c.a4, c.a5] }
  (fun t o => match tget t.plans c.a1.toNat with
    | none => .fail stNotfound
    | some p =>
      if p.tenant ≠ tnOf c then .fail stNotfound
      else
        let k := t.nextKey
        let x : KvXfer := { import_ := true, tenant := tnOf c, req := 0, plan := c.a1.toNat, tag := c.a0.toNat, zoubry := true
                            peer := 0, owed := o, since := t.clk, manifest := none, pages := [], frames := [] }
        .later (replay (replay { t with nextKey := k + 1, fab := { t.fab with xfers := tset t.fab.xfers k x } }))) s)

/-! ## Ultra Ethernet (R379) -/

/-- Whether a message of a role may carry a body: the exporter sends manifests and pages, the importer its acknowledgement. -/
def roleFits (role : Bool) (b : KvBody) : Bool := match b with
  | .imported => !role
  | _ => role

/-- Whether a counter is fresh: not seen, and within 65,536 of the highest. -/
def freshCtr (seen : List Nat) (n : Nat) : Bool := !seen.contains n && seen.all fun x => decide (x < n + 65536)

/-- Note a counter; the window is the last 65,536 values. -/
def noteCtr (seen : List Nat) (n : Nat) : List Nat :=
  let top := (n :: seen).foldl max 0
  (nsAdd n seen).filter fun x => decide (top < x + 65536)

/-- UE_MESSAGE (R379, R407): authenticated and applied once only. -/
def execUeMessage (m : UeMsg) (s : State) : Out := .next (match tget s.fab.ue m.peer with
  | none => s
  | some k =>
    let seen := if m.role then k.seenE else k.seenI
    if s.sec.zeroised || k.key.isEmpty then s
    else if m.mac ≠ ueSeal k.key m.role m.counter m.tag m.body then tagFail s
    else if !freshCtr seen m.counter || !roleFits m.role m.body then s
    else
      let k1 := if m.role then { k with seenE := noteCtr seen m.counter } else { k with seenI := noteCtr seen m.counter }
      let s1 := { s with fab := { s.fab with ue := tset s.fab.ue m.peer k1 } }
      deliver s1 { zoubry := false, peer := m.peer, tag := m.tag, body := m.body })

/-- UE_TRANSPORT_FAILURE (R379). -/
def execUeTransportFailure (xfer : Nat) (s : State) : Out := .next (match tget s.fab.xfers xfer with
  | some x => if !x.import_ && !x.zoubry then failExport s xfer else s
  | none => s)

/-! ## Timers -/

/-- KV_IMPORT_TIMEOUT (R380): no manifest within 10 s. -/
def execKvImportTimeout (xfer : Nat) (s : State) : Out := .next (match tget s.fab.xfers xfer with
  | some x => if x.import_ && x.manifest.isNone && decide (x.since + usClk 10000000 ≤ s.clk) then endXfer s xfer stNotfound 0 else s
  | none => s)

/-- Whether an export has been started. -/
def exportStarted (s : State) (k : Nat) (x : KvXfer) : Bool := ((tget s.reqs x.req).bind Request.exporting) == some k

/-- KV_EXPORT_TIMEOUT (R379): no acknowledgement within 10 s. -/
def execKvExportTimeout (xfer : Nat) (s : State) : Out := .next (match tget s.fab.xfers xfer with
  | some x => if !x.import_ && exportStarted s xfer x && decide (x.since + usClk 10000000 ≤ s.clk) then failExport s xfer else s
  | none => s)

end Sys2Proof.Machine
end

