-- ==== Sys2Proof/Machine/HostCmds.lean ====
section
/-! DEFINITION. Commands about the device: identity, features, patches, attestation, keys, alarms, snapshots, telemetry
(R41 to R43, R50, R404 to R410), and the alarm sensors. -/

namespace Sys2Proof.Machine

/-! ## Identity and features -/

/-- Chiplets in ACTIVE. -/
def activeChips (s : State) : Nat := (s.chips.toList.filter fun k => decide (k.st = .active)).length

/-- The identify structure (R40, R386). -/
def identify (s : State) : List Byte :=
  ([0x48, 0x4C, 0x4B, 0x2D, 0x4C, 0x39, 0x41, 0x00] : List Byte) ++ natBytes 2 1 ++ natBytes 2 (64 * activeChips s) ++
    natBytes 1 s.fixed.present.toNat ++ zeros 3 ++ natBytes 16 s.fixed.offered.toNat ++ natBytes 8 s.hbm ++ natBytes 8 s.lpddr ++
    natBytes 1 s.fixed.linkGen ++ natBytes 1 s.fixed.linkWidth ++ natBytes 2 (if s.locked && featOn s 13 then s.fixed.vfs else 0) ++
    natBytes 4 s.fixed.romVer ++ natBytes 4 (match s.patch with
      | some p => p.1
      | none => 0) ++ zeros 4036

/-- DEV_IDENT. -/
def execDevIdent (c : HostCmd) (s : State) : Out := .next (runCommand c
  { device := true, early := true, bad := decide (c.a0.toNat % 4096 ≠ 0) || noArgs [c.a1, c.a2, c.a3, c.a4, c.a5] }
  (fun t _ => .ok (hostWrite t c.a0.toNat (identify t)) 0) s)

/-- FEAT_NEGOTIATE (R42). -/
def execFeatNegotiate (c : HostCmd) (s : State) : Out := .next (runCommand c
  { pf := true, device := true, early := true, bad := noArgs [c.a2, c.a3, c.a4, c.a5] }
  (fun t _ =>
    let m : BitVec 128 := c.a1 ++ c.a0
    if t.locked then .fail stLocked
    else if !m.getLsbD 0 || m &&& ~~~t.fixed.offered != 0 then .fail stNofeat
    else .ok { t with locked := true, feats := m } 0) s)

/-! ## Patches and attestation (R50, R406) -/

/-- A patch signature fails: the sensors (R50, R404). -/
def sigFailed (s : State) : State :=
  let n := s.sec.sigFails + 1
  let s1 := raiseAlarm { s with sec := { s.sec with sigFails := n } } 5
  if 3 ≤ n then raiseAlarm s1 7 else s1

/-- A patch has been read: its status, the state and RESULT (R50). Another that was applied while it was read makes it the second. -/
def applyPatch (s : State) (m : List Byte) : Nat × State × DWord :=
  let f (o n : Nat) : Nat := leNat ((m.drop o).take n)
  let n := 64 + f 8 4
  if s.patch.isSome then (stBusy, s, 0)
  else if m.length < n || !Config.patchSignatureOk (m.take n) (m.drop n) then (stAuth, sigFailed s, 0)
  else if ((m.take 64).drop 12).any fun b => b != 0 then (stBadfield, s, 0)
  else if f 0 4 ≠ s.fixed.romVer ∨ f 4 4 ≤ s.fixed.minPatch then (stAuth, s, 0)
  else (stOk, { s with patch := some (f 4 4, m), fixed := { s.fixed with minPatch := f 4 4 } }, BitVec.ofNat 64 (f 4 4))

/-- FW_PATCH (R50, R381): the patch is read from the host. DEDUCED (log 24): NORES where no memory is free for its bytes. -/
def execFwPatch (c : HostCmd) (s : State) : Out := .next (runCommand c
  { pf := true, device := true, early := true, bad := noArgs [c.a2, c.a3, c.a4, c.a5] }
  (fun t o =>
    if t.locked then .fail stLocked
    else if t.patch.isSome then .fail stBusy
    else if c.a1 = 0 then let r := applyPatch t []; .later (complete r.2.1 o r.1 r.2.2)
    else match startStaged (setBusy t o true) o c .patch c.a0.toNat c.a1.toNat with
      | none => .fail stNores
      | some u => .later u) s)

/-- The report without its signature (R406). -/
def attestBody (s : State) (nonce : List Byte) : List Byte :=
  ([0x4C, 0x41, 0x54, 0x54] : List Byte) ++ nonce ++ natBytes 4 s.fixed.romVer ++ natBytes 4 (match s.patch with
    | some p => p.1
    | none => 0) ++ natBytes 4 s.fixed.minPatch ++ natBytes 16 s.feats.toNat ++ natBytes 1 (alarmLevel s) ++
    (match s.patch with
      | some p => shake256 p.2 31
      | none => zeros 31) ++ s.fixed.devFuse ++ (List.range 1184).map Config.kemPublicByte

/-- ATTEST (R404, R406). -/
def execAttest (c : HostCmd) (s : State) : Out := .next (runCommand c
  { pf := true, device := true, early := true, bad := decide (c.a1.toNat % 64 ≠ 0) || noArgs [c.a2, c.a3, c.a4, c.a5] }
  (fun t _ =>
    if 2 ≤ alarmLevel t then .fail stAlarm
    else
      let b := attestBody t (hostRead t c.a0.toNat 32)
      .ok (hostWrite t c.a1.toNat (b ++ (List.range 3309).map (Config.reportSignatureByte b))) 4621) s)

/-! ## Keys (R407) -/

/-- Whether A1 of KEY_LOAD breaks its layout. -/
def keyTargetBad (a : Nat) : Bool :=
  if nbit a 63 then decide (nfld a 0 63 ≠ 0) else if nbit a 62 then decide (nfld a 32 30 ≠ 0) else decide (nfld a 12 50 ≠ 0)

/-- Install a key. -/
def installKey (s : State) (a : Nat) (key : List Byte) : State :=
  if nbit a 63 then { s with sec := { s.sec with imageKey := some key } }
  else if nbit a 62 then
    let k : UeKey := { key := key, next := 0, ack := 0, seenE := [], seenI := [] }
    { s with fab := { s.fab with ue := tset s.fab.ue (nfld a 0 32) k } }
  else
    let p : Pair := { key := key, next := 0, top := 0, got := [] }
    renewNotices { s with fab := { s.fab with pairs := tset s.fab.pairs (nfld a 0 12) p } } (nfld a 0 12)

/-- The 32-byte key that 1,136 bytes deliver: an ML-KEM-768 ciphertext, the wrapped key and its AES-256-GCM tag; none where the tag
fails (R407). -/
def unwrapKey (m : List Byte) : Option (List Byte) :=
  gcmOpen (natBytes 32 (Config.kemSecret (m.take 1088)).toNat) Config.wrapNonce.toNat [] ((m.drop 1088).take 32) ((m.drop 1120).take 16)

/-- KEY_LOAD (R404, R407). -/
def execKeyLoad (c : HostCmd) (s : State) : Out := .next (runCommand c
  { pf := true, device := true, bad := keyTargetBad c.a1.toNat || noArgs [c.a2, c.a3, c.a4, c.a5] }
  (fun t _ =>
    let a := c.a1.toNat
    if 2 ≤ alarmLevel t then .fail stAlarm
    else match unwrapKey (hostRead t c.a0.toNat 1136) with
      | none => .fail stAuth
      | some key =>
        if !nbit a 63 && nbit a 62 && !thas t.fab.ue (nfld a 0 32) && decide (256 ≤ t.fab.ue.length) then .fail stNores
        else .ok (installKey t a key) 0) s)

/-! ## Alarms (R404, R405) -/

/-- RESULT of ALARM_STATUS: the level, and the sensor bits at [15:8]. -/
def alarmWord (s : State) : DWord := BitVec.ofNat 64 (alarmLevel s + 256 * s.sec.bits.toNat)

/-- ALARM_STATUS. -/
def alarmRule (c : HostCmd) : Rule :=
  { pf := true, device := true, early := true, bad := decide (2 ≤ c.a0.toNat) || noArgs [c.a1, c.a2, c.a3, c.a4, c.a5] }

/-- ALARM_STATUS (R404). -/
def execAlarmStatus (c : HostCmd) (s : State) : Out := .next (runCommand c (alarmRule c) (fun t _ => .ok t (alarmWord t)) s)

/-- ALARM_STATUS with A0 [0] = 1 (R404): TEMPW, SIGFAIL and FABAUTH are cleared while no level-2 or level-3 bit is set. -/
def execAlarmStatusClear (c : HostCmd) (s : State) : Out := .next (runCommand c (alarmRule c)
  (fun t _ => .ok (if alarmLevel t ≤ 1 then { t with sec := { t.sec with bits := t.sec.bits &&& 0x9B#8 } } else t) (alarmWord t)) s)

/-- The bit of a sensor. -/
def sensorBit : Sensor → Nat
  | .vglitch => 0
  | .clk => 1
  | .tempw => 2
  | .tempc => 3
  | .fuse => 4
  | .fabauth => 6

/-- ALARM_SENSOR (R404): TEMPC notes when it began. -/
def execAlarmSensor (sensor : Sensor) (s : State) : Out := .next (
  let s1 := match sensor with
    | .tempc => { s with sec := { s.sec with tempcAt := some (s.sec.tempcAt.getD s.clk) } }
    | _ => s
  raiseAlarm s1 (sensorBit sensor))

/-- TEMPC_HOLD_EXPIRY (R404): TEMPC held for 10 ms. -/
def execTempcHoldExpiry (s : State) : Out := .next (match s.sec.tempcAt with
  | some t => if t + usClk 10000 ≤ s.clk then raiseHeld s else s
  | none => s)

/-! ## Snapshots and telemetry (R409, R410, R43) -/

/-- SNAP_ARM (R409): the host source fires as the command is read. -/
def execSnapArm (c : HostCmd) (s : State) : Out := .next (runCommand c
  { pf := true, device := true, feats := if nbit c.a0.toNat 4 then [12] else []
    bad := decide (32 ≤ c.a0.toNat) || noArgs [c.a2, c.a3, c.a4, c.a5] }
  (fun t _ =>
    let m := BitVec.ofNat 5 c.a0.toNat
    .ok (fireSnap { t with sec := { t.sec with snap := { t.sec.snap with armed := m != 0, mask := m, classes := c.a1 } } } 1) 0) s)

/-- Those of the counters that are a block's: a chiplet's withheld clocks are among its own (R2, R28, R410). -/
def blockCounters (block : Nat) (cs : List Counter) : List Nat :=
  (cs.filter fun e => if e.1.head? = some 0 then decide (e.1 = [0, block - 8]) && decide (8 ≤ block) else Config.blockCounts block e.1).map Prod.snd

/-- The bytes of a block's snapshot (R410). -/
def snapBytes (block : Nat) (x : Latch) : List Byte :=
  let head := natBytes 8 x.clk ++ natBytes 1 x.src ++ natBytes 1 block ++ zeros 6
  if 8 ≤ block ∧ block < 12 ∧ x.active.getD (block - 8) false = false then head
  else (head ++ (blockCounters block x.counters).flatMap (natBytes 8)).take 4096

/-- SNAP_READ (R410). -/
def execSnapRead (c : HostCmd) (s : State) : Out := .next (runCommand c
  { pf := true, device := true, bad := noArgs [c.a2, c.a3, c.a4, c.a5] }
  (fun t _ =>
    if 14 < c.a1.toNat then .fail stNotfound
    else match t.sec.snap.latched with
      | none => .fail stBadstate
      | some x =>
        let b := snapBytes c.a1.toNat x
        .ok (hostWrite t c.a0.toNat b) (BitVec.ofNat 64 b.length)) s)

/-- SNAPSHOT_PIN (R409). -/
def execSnapshotPin (s : State) : Out := .next (fireSnap s 4)

/-- What TELEMETRY reports: every counter and every held XLATE's address for TENANT 0, else those of the tenant (R39, R43, R397). -/
def reported (s : State) (tn : Nat) : List Counter :=
  let all := counters s ++ s.tele.xlateHeld.zipIdx.map fun e => ([13, e.1.1, e.2], e.1.2)
  if tn = 0 then all else all.filter fun e => decide (8 ≤ e.1.headD 0) && decide (e.1.getD 1 0 = tn)

/-- TELEMETRY (R39, R43, R397). -/
def execTelemetry (c : HostCmd) (s : State) : Out := .next (runCommand c
  { pf := decide (tnOf c = 0), device := decide (tnOf c = 0), early := true, bad := noArgs [c.a1, c.a2, c.a3, c.a4, c.a5] }
  (fun t _ => .ok (hostWrite t c.a0.toNat ((List.range 4096).map (Config.telemetryByte (reported t (tnOf c)) (tnOf c)))) 0) s)

end Sys2Proof.Machine
end

