-- ==== Sys2Proof/Machine/Inbound.lean ====
section
/-! DEFINITION. Copies of host memory into the device at work (R381 to R383): reads complete, routes commit and acknowledge, and
what each command does with its bytes. -/

namespace Sys2Proof.Machine

/-- What a command gives back as its copy ends: CTX_IMPORT and FW_PATCH the memory that its bytes arrived in (log 24), a REQ_ADMIT that
fails the entry of its request. -/
def endStaging (s : State) (x : Xfer) (status : Nat) : State := match x.job with
  | .image => s
  | .prompt i _ _ => if status = stOk then s else releaseReq s i
  | .context => giveMem s x.dst (roundUp x.data.length 128)
  | .patch => giveMem s x.dst (roundUp x.data.length 128)

/-- The requests of a doorbell write enter once its last command, a REQ_ADMIT, has been read with its prompt (R10). -/
def enterBell (s : State) (x : Xfer) : State := match x.job with
  | .prompt _ last _ => if last && decide ((qpOf s x.owed.fn x.owed.q).era = x.owed.era) then ringOut s x.owed.fn x.owed.q else s
  | _ => s

/-- A copy is over: the command's completion; a queue that waited for it reads on (R40). -/
def dropXfer (s : State) (k : Nat) (x : Xfer) (status : Nat) (res : DWord) : State :=
  let s1 := enterBell (endStaging { s with xfers := tdel s.xfers k } x status) x
  match x.job with
  | .context => complete s1 x.owed status res
  | _ => endBusy s1 x.owed status res

/-- An image has been written whole: its id (R382 step 4). -/
def loadDone (s : State) (k : Nat) (x : Xfer) : State :=
  let r := addImage s x.tenant x.dst x.data false
  dropXfer r.2 k x stOk (BitVec.ofNat 64 r.1)

/-- IMAGE_LOAD goes on: its header is checked and 8 zero bytes go to the destination; then its bytes are read; after them bytes 0
to 7 are written; then it completes (R47, R51, R382). -/
def imageStep (s : State) (k : Nat) (x : Xfer) : State := match x.stage with
  | .header =>
    if !imageOk (x.data.take 64) x.data.length then dropXfer s k x stBadimage 0
    else if !mappedW s (cmdSpace s x.cmd) x.dst x.data.length then dropXfer s k x stBadaddr 0
    else setXfer s k { handPieces s x 0 (zeros 8) with stage := .zero }
  | .zero => setXfer s k { askReads s x x.data.length with stage := .body }
  | .body => setXfer s k { handPieces s x 0 (x.data.take 8) with stage := .final }
  | .final => loadDone s k x

/-- A prompt has been copied whole: the request is admitted (R11, R341). One whose tenant closes meanwhile is cancelled with the
others (R45). -/
def promptDone (s : State) (k i : Nat) (x : Xfer) (r : Request) : State :=
  let u := modReq s i fun r => { r with loading := false }
  let v := if ((tget s.tenants r.tenant).bind Tenant.closing).isSome then cancelReq u i (lastIter u) []
    else match tget u.plans r.plan with
      | some p => startKernel u i p
      | none => u
  dropXfer v k x stOk r.handle

/-- REQ_ADMIT goes on: with its prompt read, the tokens of the entry and the padding of the copy; once the routes have acknowledged
the copy, it is complete (R341, R381). -/
def promptStep (s : State) (k : Nat) (x : Xfer) (i : Nat) (last read : Bool) : State := match tget s.reqs i with
  | none => dropXfer s k x stAborted 0
  | some r =>
    if read then promptDone s k i x r
    else
      let toks := wordsOf x.data (x.data.length / 4)
      let u := modReq s i fun r => { r with toks := toks, nextin := toks.getLastD 0 }
      let y := { x with job := .prompt i last true, stage := .final }
      setXfer u k (handPieces u y x.data.length (zeros (roundUp x.data.length 128 - x.data.length)))

/-- A copy whose reads and writes so far are done goes on. -/
def xferGo (s : State) (k : Nat) (x : Xfer) : State := match x.job with
  | .image => imageStep s k x
  | .prompt i last read => promptStep s k x i last read
  | .context =>
    let r := takeCtx s x.cmd.pick x.data
    dropXfer r.2.1 k x r.1 r.2.2
  | .patch =>
    let r := applyPatch s x.data
    dropXfer r.2.1 k x r.1 r.2.2

/-- A copy goes on, n stages at most, while no read and no acknowledgement is outstanding. -/
def xferSteps (s : State) (k : Nat) : Nat → State
  | 0 => s
  | n + 1 => match tget s.xfers k with
    | none => s
    | some x => if x.reads.isEmpty && x.owing.isEmpty then xferSteps (xferGo s k x) k n else s

/-- A copy goes on as far as it can. -/
def xferStep (s : State) (k : Nat) : State := xferSteps s k 4

/-- What of a read's bytes goes to the routes as it arrives (R381): all of them; of an image, not those of its header and not bytes 0
to 7 of its body (R382). -/
def arrived (s : State) (x : Xfer) (off : Nat) (bs : List Byte) : Xfer := match x.job, x.stage with
  | .image, .body => handPieces s x (max off 8) (bs.drop (8 - off))
  | .image, _ => x
  | _, _ => handPieces s x off bs

/-- PCIE_READ_COMPLETION (R381): the read at offset chunk completes within 50 ms, with what host memory holds. -/
def execPcieReadCompletion (xfer chunk : Nat) (s : State) : Out := .next (match tget s.xfers xfer with
  | none => s
  | some x => match tget x.reads chunk with
    | none => s
    | some n =>
      if x.since + usClk 50000 < s.clk then s
      else
        let bs := hostRead s (x.host + chunk) n
        let y := { x with reads := tdel x.reads chunk, data := putBytes x.data chunk bs }
        xferStep (setXfer s xfer (arrived s y chunk bs)) xfer)

/-- ROUTE_ACK (R381): a route has committed every piece that it has received, and acknowledges. -/
def execRouteAck (xfer quad : Nat) (s : State) : Out := .next (match tget s.xfers xfer with
  | none => s
  | some x =>
    if !x.owing.contains quad then s
    else
      let mine (p : Nat × List Byte) : Bool := decide (xferQuad s x p.1 = some quad)
      let t := (x.pieces.filter mine).foldl (fun u p => xferWrite u x p.1 p.2) s
      xferStep (setXfer t xfer { x with pieces := x.pieces.filter fun p => !mine p, owing := nsDel quad x.owing }) xfer)

/-- PCIE_READ_TIMEOUT (R383): a read returns an error status, or does not arrive; the copy stops. -/
def execPcieReadTimeout (xfer : Nat) (s : State) : Out := .next (match tget s.xfers xfer with
  | none => s
  | some x => if x.reads.isEmpty then s else dropXfer s xfer x stAborted 0)

end Sys2Proof.Machine
end

