-- ==== Sys2Proof/Machine/PackageEvents.lean ====
section
/-! DEFINITION. The package: power windows (R28), latched scores (R250), and a cold reset with its bring-up (R403). -/

namespace Sys2Proof.Machine

/-! ## Power windows (R28) -/

/-- The shares in watts: a compute chiplet, the base die, HBM4, LPDDR 6, the SerDes and PHYs, the module. -/
def shares : List Nat := [325, 350, 450, 80, 220, 2400]

/-- How a component's draw in milliwatts stands to its share in watts: 0 at most 95 % of it, 1 above that, 2 above the share. -/
def drawn (mw share : Nat) : Nat := if 1000 * share < mw then 2 else if 950 * share < mw then 1 else 0

/-- The most that a component which affects a chiplet drew, against its share. -/
def powerMost (r : PowerReading) (chip : Nat) : Nat :=
  (([r.chips.getD chip 0, r.base, r.hbm, r.lpddr, r.serdes, r.total].zip shares).map fun e => drawn e.1 e.2).foldl max 0

/-- A level at the end of a window. -/
def nextHold (h most : Nat) : Nat := if 2 ≤ most then min 48 (h + 4) else if most = 0 then h - 1 else h

/-- The score of a core from its sensors (R250). -/
def scoreOf (temp droop : Nat) : Nat := 4 * (temp - 80) + min droop 255

/-- Latch every core's score: a core whose sensors are not named reads 0 on both. -/
def latchScores (s : State) (l : List (Nat × Nat × Nat)) : State :=
  let s1 := { s with cores := tmap s.cores fun _ k => { k with score := 0 } }
  (l.filter fun e => decide (e.1 < 256)).foldl (fun t e => setCore t e.1 { coreOf t e.1 with score := scoreOf e.2.1 e.2.2 }) s1

/-- POWER_WINDOW_END (R28, R250): once for each window that has ended. What a chiplet that left ACTIVE inside the window had withheld
until then was counted as it left. -/
def execPowerWindowEnd (r : PowerReading) (s : State) : Out := .next (
  if s.clk < (s.windows + 1) * windowClk then s
  else latchScores { s with windows := s.windows + 1, chips := s.chips.mapIdx fun i k =>
      if k.st = .active then { k with hold := nextHold k.hold (powerMost r i), withheld := k.withheld + clocksHeld k.hold windowClk } else k }
    r.sensors)

/-! ## Cold reset (R403) -/

/-- Bits set in a mask. -/
def bitCount (n w : Nat) : Nat := ((List.range n).filter fun i => nbit w i).length

/-- A chiplet after step 4. -/
def bootChip (s : State) (r : ResetReport) (i : Nat) : Chip :=
  { Chip.reset with st := if s.fixed.present.getLsbD i && r.chipsOk.getLsbD i then .active else .offline }

/-- What a cold reset leaves before its steps have run: the fuses, the ROM, the schedule, the host's memory and the device
id stay; the counter of free values goes on. -/
def coldState (s : State) : State :=
  let z := State.reset
  { z with turns := s.turns, freeCtr := s.freeCtr, fixed := s.fixed, hostMem := s.hostMem, fab := { z.fab with devId := s.fab.devId } }

/-- COLD_RESET (R403): the reset, and steps 1 to 6 of the bring-up. A stack or package that fails gives 0 bytes; fuses or
keys that fail raise the level to 3. -/
def execColdReset (r : ResetReport) (s : State) : Out :=
  let z := coldState s
  let up := { z with
    hbm := 2 ^ 36 * bitCount 8 r.hbmOk.toNat
    lpddr := 2 ^ 37 * bitCount 12 r.lpddrOk.toNat
    chips := #v[bootChip s r 0, bootChip s r 1, bootChip s r 2, bootChip s r 3]
    fab := { z.fab with portsUp := r.portsOk }
    sec := { z.sec with devKeys := r.keysOk }
    rdy := true }
  .next (if r.fuseOk && r.keysOk then up else raiseAlarm up 4)

end Sys2Proof.Machine
end

