-- ==== Sys2Proof/Machine/Dispatch.lean ====
section
/-! DEFINITION. The dispatch: each instruction to its meaning. -/

namespace Sys2Proof.Machine

def exec (i : Instr) (s : State) : Host.Outcome State Fault Refusal :=
  match i with
  | .nop => Sys2Proof.Machine.execNop s
  | .mood u d imm => Sys2Proof.Machine.execMood u d imm s
  | .maskSet a => Sys2Proof.Machine.execMaskSet a s
  | .maskAnd a => Sys2Proof.Machine.execMaskAnd a s
  | .maskOr a => Sys2Proof.Machine.execMaskOr a s
  | .maskG a => Sys2Proof.Machine.execMaskG a s
  | .maskRd d => Sys2Proof.Machine.execMaskRd d s
  | .maskAlive => Sys2Proof.Machine.execMaskAlive s
  | .br off => Sys2Proof.Machine.execBr off s
  | .brAny p off => Sys2Proof.Machine.execBrAny p off s
  | .brAll p off => Sys2Proof.Machine.execBrAll p off s
  | .brNone p off => Sys2Proof.Machine.execBrNone p off s
  | .brDiv p off => Sys2Proof.Machine.execBrDiv p off s
  | .join => Sys2Proof.Machine.execJoin s
  | .call off => Sys2Proof.Machine.execCall off s
  | .ret a => Sys2Proof.Machine.execRet a s
  | .endThreads => Sys2Proof.Machine.execEndThreads s
  | .barWg => Sys2Proof.Machine.execBarWg s
  | .barGang => Sys2Proof.Machine.execBarGang s
  | .barArrive d => Sys2Proof.Machine.execBarArrive d s
  | .barWait a => Sys2Proof.Machine.execBarWait a s
  | .barNamed a b => Sys2Proof.Machine.execBarNamed a b s
  | .cede => Sys2Proof.Machine.execCede s
  | .trapUser imm => Sys2Proof.Machine.execTrapUser imm s
  | .sysCsrr d b => Sys2Proof.Machine.execSysCsrr d b s
  | .sysCsrw a b => Sys2Proof.Machine.execSysCsrw a b s
  | .sysLocq d a => Sys2Proof.Machine.execSysLocq d a s
  | .sysSnap => Sys2Proof.Machine.execSysSnap s
  | .sysClk d => Sys2Proof.Machine.execSysClk d s
  | .sysFlagerr d => Sys2Proof.Machine.execSysFlagerr d s
  | .iadd u d a b la lb im => Sys2Proof.Machine.execIadd u d a b la lb im s
  | .isub u d a b la lb im => Sys2Proof.Machine.execIsub u d a b la lb im s
  | .imul u d a b la lb im => Sys2Proof.Machine.execImul u d a b la lb im s
  | .imulh u d a b la lb im => Sys2Proof.Machine.execImulh u d a b la lb im s
  | .imad u d a b la lb im => Sys2Proof.Machine.execImad u d a b la lb im s
  | .idivQs u d a b la lb im => Sys2Proof.Machine.execIdivQs u d a b la lb im s
  | .idivQn u d a b la lb im => Sys2Proof.Machine.execIdivQn u d a b la lb im s
  | .idivRs u d a b la lb im => Sys2Proof.Machine.execIdivRs u d a b la lb im s
  | .idivRn u d a b la lb im => Sys2Proof.Machine.execIdivRn u d a b la lb im s
  | .imin u d a b la lb im => Sys2Proof.Machine.execImin u d a b la lb im s
  | .imax u d a b la lb im => Sys2Proof.Machine.execImax u d a b la lb im s
  | .iabs u d a la => Sys2Proof.Machine.execIabs u d a la s
  | .ineg u d a la => Sys2Proof.Machine.execIneg u d a la s
  | .bitAnd u d a b la lb im => Sys2Proof.Machine.execBitAnd u d a b la lb im s
  | .bitOr u d a b la lb im => Sys2Proof.Machine.execBitOr u d a b la lb im s
  | .bitXor u d a b la lb im => Sys2Proof.Machine.execBitXor u d a b la lb im s
  | .bitAndn u d a b la lb im => Sys2Proof.Machine.execBitAndn u d a b la lb im s
  | .shl u d a b la lb im => Sys2Proof.Machine.execShl u d a b la lb im s
  | .shrL u d a b la lb im => Sys2Proof.Machine.execShrL u d a b la lb im s
  | .shrA u d a b la lb im => Sys2Proof.Machine.execShrA u d a b la lb im s
  | .rotL u d a b la lb im => Sys2Proof.Machine.execRotL u d a b la lb im s
  | .rotR u d a b la lb im => Sys2Proof.Machine.execRotR u d a b la lb im s
  | .bitcPopc u d a la => Sys2Proof.Machine.execBitcPopc u d a la s
  | .bitcClz u d a la => Sys2Proof.Machine.execBitcClz u d a la s
  | .bitcCtz u d a la => Sys2Proof.Machine.execBitcCtz u d a la s
  | .bitcBrev u d a la => Sys2Proof.Machine.execBitcBrev u d a la s
  | .bfeN u d a b la lb => Sys2Proof.Machine.execBfeN u d a b la lb s
  | .bfeS u d a b la lb => Sys2Proof.Machine.execBfeS u d a b la lb s
  | .bfi u d a b la lb => Sys2Proof.Machine.execBfi u d a b la lb s
  | .icmpEq u d a b la lb im => Sys2Proof.Machine.execIcmpEq u d a b la lb im s
  | .icmpNe u d a b la lb im => Sys2Proof.Machine.execIcmpNe u d a b la lb im s
  | .icmpLt u d a b la lb im => Sys2Proof.Machine.execIcmpLt u d a b la lb im s
  | .icmpLe u d a b la lb im => Sys2Proof.Machine.execIcmpLe u d a b la lb im s
  | .icmpGt u d a b la lb im => Sys2Proof.Machine.execIcmpGt u d a b la lb im s
  | .icmpGe u d a b la lb im => Sys2Proof.Machine.execIcmpGe u d a b la lb im s
  | .sel u d a b la lb im pr => Sys2Proof.Machine.execSel u d a b la lb im pr s
  | .mov u d a la => Sys2Proof.Machine.execMov u d a la s
  | .movSpecial u d a => Sys2Proof.Machine.execMovSpecial u d a s
  | .movG d a => Sys2Proof.Machine.execMovG d a s
  | .plogAnd d a b => Sys2Proof.Machine.execPlogAnd d a b s
  | .plogOr d a b => Sys2Proof.Machine.execPlogOr d a b s
  | .plogXor d a b => Sys2Proof.Machine.execPlogXor d a b s
  | .plogAndn d a b => Sys2Proof.Machine.execPlogAndn d a b s
  | .plogNot d a => Sys2Proof.Machine.execPlogNot d a s
  | .plogFromg d a => Sys2Proof.Machine.execPlogFromg d a s
  | .plogTog d a => Sys2Proof.Machine.execPlogTog d a s
  | .ldi u d imm => Sys2Proof.Machine.execLdi u d imm s
  | .khi u d imm => Sys2Proof.Machine.execKhi u d imm s
  | .lea u d gb ix li sx w => Sys2Proof.Machine.execLea u d gb ix li sx w s
  | .shflIdx d a b la lb im => Sys2Proof.Machine.execShflIdx d a b la lb im s
  | .shflUp d a b la lb im => Sys2Proof.Machine.execShflUp d a b la lb im s
  | .shflDown d a b la lb im => Sys2Proof.Machine.execShflDown d a b la lb im s
  | .shflXor d a b la lb im => Sys2Proof.Machine.execShflXor d a b la lb im s
  | .voteAny d a => Sys2Proof.Machine.execVoteAny d a s
  | .voteAll d a => Sys2Proof.Machine.execVoteAll d a s
  | .voteBal d a => Sys2Proof.Machine.execVoteBal d a s
  | .voteEq d a la => Sys2Proof.Machine.execVoteEq d a la s
  | .lredIadd d a la => Sys2Proof.Machine.execLredIadd d a la s
  | .lredFadd d a la => Sys2Proof.Machine.execLredFadd d a la s
  | .lredMin d a la => Sys2Proof.Machine.execLredMin d a la s
  | .lredMax d a la => Sys2Proof.Machine.execLredMax d a la s
  | .lredAmax d a la => Sys2Proof.Machine.execLredAmax d a la s
  | .lredAnd d a la => Sys2Proof.Machine.execLredAnd d a la s
  | .lredOr d a la => Sys2Proof.Machine.execLredOr d a la s
  | .lredXor d a la => Sys2Proof.Machine.execLredXor d a la s
  | .lscanIadd d a la => Sys2Proof.Machine.execLscanIadd d a la s
  | .lscanFadd d a la => Sys2Proof.Machine.execLscanFadd d a la s
  | .lscanMin d a la => Sys2Proof.Machine.execLscanMin d a la s
  | .lscanMax d a la => Sys2Proof.Machine.execLscanMax d a la s
  | .lscanAnd d a la => Sys2Proof.Machine.execLscanAnd d a la s
  | .lscanOr d a la => Sys2Proof.Machine.execLscanOr d a la s
  | .lscanXor d a la => Sys2Proof.Machine.execLscanXor d a la s
  | .bcast d a b la => Sys2Proof.Machine.execBcast d a b la s
  | .bcastG d a b la => Sys2Proof.Machine.execBcastG d a b la s
  | .bcastFirst d a la => Sys2Proof.Machine.execBcastFirst d a la s
  | .bcastFirstg d a la => Sys2Proof.Machine.execBcastFirstg d a la s
  | .fadd u d a b la lb => Sys2Proof.Machine.execFadd u d a b la lb s
  | .fsub u d a b la lb => Sys2Proof.Machine.execFsub u d a b la lb s
  | .fmul u d a b la lb => Sys2Proof.Machine.execFmul u d a b la lb s
  | .ffma u d a b la lb => Sys2Proof.Machine.execFfma u d a b la lb s
  | .ffmaMs u d a b la lb => Sys2Proof.Machine.execFfmaMs u d a b la lb s
  | .ffmaNm u d a b la lb => Sys2Proof.Machine.execFfmaNm u d a b la lb s
  | .ffmaNms u d a b la lb => Sys2Proof.Machine.execFfmaNms u d a b la lb s
  | .fmin u d a b la lb => Sys2Proof.Machine.execFmin u d a b la lb s
  | .fmax u d a b la lb => Sys2Proof.Machine.execFmax u d a b la lb s
  | .fcmpEq u d a b la lb => Sys2Proof.Machine.execFcmpEq u d a b la lb s
  | .fcmpNe u d a b la lb => Sys2Proof.Machine.execFcmpNe u d a b la lb s
  | .fcmpLt u d a b la lb => Sys2Proof.Machine.execFcmpLt u d a b la lb s
  | .fcmpLe u d a b la lb => Sys2Proof.Machine.execFcmpLe u d a b la lb s
  | .fcmpGt u d a b la lb => Sys2Proof.Machine.execFcmpGt u d a b la lb s
  | .fcmpGe u d a b la lb => Sys2Proof.Machine.execFcmpGe u d a b la lb s
  | .fcmpUn u d a b la lb => Sys2Proof.Machine.execFcmpUn u d a b la lb s
  | .fcmpOr u d a b la lb => Sys2Proof.Machine.execFcmpOr u d a b la lb s
  | .fabs u d a la => Sys2Proof.Machine.execFabs u d a la s
  | .fneg u d a la => Sys2Proof.Machine.execFneg u d a la s
  | .frcp u d a la => Sys2Proof.Machine.execFrcp u d a la s
  | .fsqrt u d a la => Sys2Proof.Machine.execFsqrt u d a la s
  | .frsq u d a la => Sys2Proof.Machine.execFrsq u d a la s
  | .fexp u d a la => Sys2Proof.Machine.execFexp u d a la s
  | .fln u d a la => Sys2Proof.Machine.execFln u d a la s
  | .fexp2 u d a la => Sys2Proof.Machine.execFexp2 u d a la s
  | .flog2 u d a la => Sys2Proof.Machine.execFlog2 u d a la s
  | .cvt u d a la part => Sys2Proof.Machine.execCvt u d a la part s
  | .frnd u d a la => Sys2Proof.Machine.execFrnd u d a la s
  | .fscal u d a b la lb im => Sys2Proof.Machine.execFscal u d a b la lb im s
  | .hadq d a b la => Sys2Proof.Machine.execHadq d a b la s
  | .hadqInv d a b la => Sys2Proof.Machine.execHadqInv d a b la s
  | .qpack d a la => Sys2Proof.Machine.execQpack d a la s
  | .qunpk d a la => Sys2Proof.Machine.execQunpk d a la s
  | .fmtw u d b => Sys2Proof.Machine.execFmtw u d b s
  | .dot4 u d a b la lb => Sys2Proof.Machine.execDot4 u d a b la lb s
  | .ld u d gb ix li sx fs w => Sys2Proof.Machine.execLd u d gb ix li sx fs w s
  | .st u d gb ix ld li sx fs w => Sys2Proof.Machine.execSt u d gb ix ld li sx fs w s
  | .lds u d gb ix li sx fs w => Sys2Proof.Machine.execLds u d gb ix li sx fs w s
  | .sts u d gb ix ld li sx fs w => Sys2Proof.Machine.execSts u d gb ix ld li sx fs w s
  | .ldp d gb ix li sx fs w => Sys2Proof.Machine.execLdp d gb ix li sx fs w s
  | .stp d gb ix ld li sx fs w => Sys2Proof.Machine.execStp d gb ix ld li sx fs w s
  | .prsTest u d gb ix li => Sys2Proof.Machine.execPrsTest u d gb ix li s
  | .prsClr u gb ix li => Sys2Proof.Machine.execPrsClr u gb ix li s
  | .prsSet u gb ix li => Sys2Proof.Machine.execPrsSet u gb ix li s
  | .prsWait u gb ix li fs => Sys2Proof.Machine.execPrsWait u gb ix li fs s
  | .fence fs sc acq rel => Sys2Proof.Machine.execFence fs sc acq rel s
  | .fenceSc fs sc => Sys2Proof.Machine.execFenceSc fs sc s
  | .atom u d gb ix aop sc li => Sys2Proof.Machine.execAtom u d gb ix aop sc li s
  | .atoms u d gb ix aop li => Sys2Proof.Machine.execAtoms u d gb ix aop li s
  | .red u d gb ix aop sc li => Sys2Proof.Machine.execRed u d gb ix aop sc li s
  | .xaccAdd d gb ix ld li sx fs => Sys2Proof.Machine.execXaccAdd d gb ix ld li sx fs s
  | .xaccRd d gb ix li sx fs => Sys2Proof.Machine.execXaccRd d gb ix li sx fs s
  | .ticket d gb ix sc => Sys2Proof.Machine.execTicket d gb ix sc s
  | .ldw u d gb ix li sx fs w => Sys2Proof.Machine.execLdw u d gb ix li sx fs w s
  | .stw u d gb ix ld li sx fs w => Sys2Proof.Machine.execStw u d gb ix ld li sx fs w s
  | .pfch u gb ix li sx fs w => Sys2Proof.Machine.execPfch u gb ix li sx fs w s
  | .copyG2s ga gb gc fs sc acq rel => Sys2Proof.Machine.execCopyG2s ga gb gc fs sc acq rel s
  | .copyS2g ga gb gc fs sc acq rel => Sys2Proof.Machine.execCopyS2g ga gb gc fs sc acq rel s
  | .copyG2o ga gb gc fs sc acq rel => Sys2Proof.Machine.execCopyG2o ga gb gc fs sc acq rel s
  | .copyS2o ga gb gc fs sc acq rel => Sys2Proof.Machine.execCopyS2o ga gb gc fs sc acq rel s
  | .copyG2g ga gb gc fs sc acq rel => Sys2Proof.Machine.execCopyG2g ga gb gc fs sc acq rel s
  | .copyXa ga gb gc fs sc acq rel => Sys2Proof.Machine.execCopyXa ga gb gc fs sc acq rel s
  | .copyS2s ga gb gc fs sc acq rel => Sys2Proof.Machine.execCopyS2s ga gb gc fs sc acq rel s
  | .copyfG2o ga gb gc fs sc acq rel => Sys2Proof.Machine.execCopyfG2o ga gb gc fs sc acq rel s
  | .copyfS2o ga gb gc fs sc acq rel => Sys2Proof.Machine.execCopyfS2o ga gb gc fs sc acq rel s
  | .mma acc sa sb vf => Sys2Proof.Machine.execMma acc sa sb vf s
  | .accldG ga gb gc fs sc acq rel => Sys2Proof.Machine.execAccldG ga gb gc fs sc acq rel s
  | .accldS ga gb gc fs sc acq rel => Sys2Proof.Machine.execAccldS ga gb gc fs sc acq rel s
  | .accstG ga gb gc fs sc acq rel => Sys2Proof.Machine.execAccstG ga gb gc fs sc acq rel s
  | .accstS ga gb gc fs sc acq rel => Sys2Proof.Machine.execAccstS ga gb gc fs sc acq rel s
  | .slotClaim ga fs sc acq rel => Sys2Proof.Machine.execSlotClaim ga fs sc acq rel s
  | .slotRel ga fs sc acq rel => Sys2Proof.Machine.execSlotRel ga fs sc acq rel s
  | .slotHeld gc fs sc acq rel => Sys2Proof.Machine.execSlotHeld gc fs sc acq rel s
  | .chainSet ga gb gc fs sc acq rel => Sys2Proof.Machine.execChainSet ga gb gc fs sc acq rel s
  | .chainAdv ga gb fs sc acq rel => Sys2Proof.Machine.execChainAdv ga gb fs sc acq rel s
  | .seqw ga gb fs sc acq rel => Sys2Proof.Machine.execSeqw ga gb fs sc acq rel s
  | .kvgatK ga gb gc fs sc acq rel => Sys2Proof.Machine.execKvgatK ga gb gc fs sc acq rel s
  | .kvgatV ga gb gc fs sc acq rel => Sys2Proof.Machine.execKvgatV ga gb gc fs sc acq rel s
  | .kvapp ga gb gc fs sc acq rel => Sys2Proof.Machine.execKvapp ga gb gc fs sc acq rel s
  | .kvpinPin ga gb fs sc acq rel => Sys2Proof.Machine.execKvpinPin ga gb fs sc acq rel s
  | .kvpinUnpin ga gb fs sc acq rel => Sys2Proof.Machine.execKvpinUnpin ga gb fs sc acq rel s
  | .kvfrk ga gb gc fs sc acq rel => Sys2Proof.Machine.execKvfrk ga gb gc fs sc acq rel s
  | .hdlQuery ga gc fs sc acq rel => Sys2Proof.Machine.execHdlQuery ga gc fs sc acq rel s
  | .hdlCommit ga gb fs sc acq rel => Sys2Proof.Machine.execHdlCommit ga gb fs sc acq rel s
  | .hdlTrunc ga gb fs sc acq rel => Sys2Proof.Machine.execHdlTrunc ga gb fs sc acq rel s
  | .pfxh ga gb gc fs sc acq rel => Sys2Proof.Machine.execPfxh ga gb gc fs sc acq rel s
  | .pfxl ga gb gc fs sc acq rel => Sys2Proof.Machine.execPfxl ga gb gc fs sc acq rel s
  | .pfxi ga gb gc fs sc acq rel => Sys2Proof.Machine.execPfxi ga gb gc fs sc acq rel s
  | .fputG ga gb gc fs sc acq rel => Sys2Proof.Machine.execFputG ga gb gc fs sc acq rel s
  | .fputS ga gb gc fs sc acq rel => Sys2Proof.Machine.execFputS ga gb gc fs sc acq rel s
  | .fputLz ga gb gc fs sc acq rel => Sys2Proof.Machine.execFputLz ga gb gc fs sc acq rel s
  | .fputLzg ga gb gc fs sc acq rel => Sys2Proof.Machine.execFputLzg ga gb gc fs sc acq rel s
  | .fgetG ga gb gc fs sc acq rel => Sys2Proof.Machine.execFgetG ga gb gc fs sc acq rel s
  | .fgetS ga gb gc fs sc acq rel => Sys2Proof.Machine.execFgetS ga gb gc fs sc acq rel s
  | .fatom sub ga gb gc fs sc acq rel => Sys2Proof.Machine.execFatom sub ga gb gc fs sc acq rel s
  | .fred ga gb gc fs sc acq rel => Sys2Proof.Machine.execFred ga gb gc fs sc acq rel s
  | .lzres ga gc fs sc acq rel => Sys2Proof.Machine.execLzres ga gc fs sc acq rel s
  | .lzarm ga gb gc fs sc acq rel => Sys2Proof.Machine.execLzarm ga gb gc fs sc acq rel s
  | .lzrel ga fs sc acq rel => Sys2Proof.Machine.execLzrel ga fs sc acq rel s
  | .lzqRd ga gc fs sc acq rel => Sys2Proof.Machine.execLzqRd ga gc fs sc acq rel s
  | .lzqWait ga fs sc acq rel => Sys2Proof.Machine.execLzqWait ga fs sc acq rel s
  | .rngW0 u d a b la => Sys2Proof.Machine.execRngW0 u d a b la s
  | .rngW1 u d a b la => Sys2Proof.Machine.execRngW1 u d a b la s
  | .rngW2 u d a b la => Sys2Proof.Machine.execRngW2 u d a b la s
  | .rngW3 u d a b la => Sys2Proof.Machine.execRngW3 u d a b la s
  | .rngUni u d a b la => Sys2Proof.Machine.execRngUni u d a b la s
  | .rngGum u d a b la => Sys2Proof.Machine.execRngGum u d a b la s
  | .smplMax ga gb gc fs sc acq rel => Sys2Proof.Machine.execSmplMax ga gb gc fs sc acq rel s
  | .smplSmp ga gb gc fs sc acq rel => Sys2Proof.Machine.execSmplSmp ga gb gc fs sc acq rel s
  | .smplRes ga gb gc fs sc acq rel => Sys2Proof.Machine.execSmplRes ga gb gc fs sc acq rel s
  | .smrg ga gb gc fs sc acq rel => Sys2Proof.Machine.execSmrg ga gb gc fs sc acq rel s
  | .acpt ga gb gc fs sc acq rel => Sys2Proof.Machine.execAcpt ga gb gc fs sc acq rel s
  | .stop ga gb gc fs sc acq rel => Sys2Proof.Machine.execStop ga gb gc fs sc acq rel s
  | .emit ga gb gc fs sc acq rel => Sys2Proof.Machine.execEmit ga gb gc fs sc acq rel s
  | .rqstCommit ga fs sc acq rel => Sys2Proof.Machine.execRqstCommit ga fs sc acq rel s
  | .rqstQuery ga gc fs sc acq rel => Sys2Proof.Machine.execRqstQuery ga gc fs sc acq rel s
  | .rqstFail ga fs sc acq rel => Sys2Proof.Machine.execRqstFail ga fs sc acq rel s
  | .xredExp ga gb gc fs sc acq rel => Sys2Proof.Machine.execXredExp ga gb gc fs sc acq rel s
  | .xredSum ga gb gc fs sc acq rel => Sys2Proof.Machine.execXredSum ga gb gc fs sc acq rel s
  | .rep cnt dD dA dB => Sys2Proof.Machine.execRep cnt dD dA dB s
  | .clause wait setA setB len => Sys2Proof.Machine.execClause wait setA setB len s
  | .sqtdbWrite fn q val => Sys2Proof.Machine.execSqtdbWrite fn q val s
  | .cqhdbWrite fn q val => Sys2Proof.Machine.execCqhdbWrite fn q val s
  | .queueEnable fn q val => Sys2Proof.Machine.execQueueEnable fn q val s
  | .queueDisable fn q val => Sys2Proof.Machine.execQueueDisable fn q val s
  | .qctlErrClear fn q val => Sys2Proof.Machine.execQctlErrClear fn q val s
  | .registerWrite fn off width val => Sys2Proof.Machine.execRegisterWrite fn off width val s
  | .devIdent c => Sys2Proof.Machine.execDevIdent c s
  | .featNegotiate c => Sys2Proof.Machine.execFeatNegotiate c s
  | .tenantOpen c => Sys2Proof.Machine.execTenantOpen c s
  | .tenantClose c => Sys2Proof.Machine.execTenantClose c s
  | .memMap c => Sys2Proof.Machine.execMemMap c s
  | .memMapUnmap c => Sys2Proof.Machine.execMemMapUnmap c s
  | .imageLoad c => Sys2Proof.Machine.execImageLoad c s
  | .imageLoadRom c => Sys2Proof.Machine.execImageLoadRom c s
  | .poolCreate c => Sys2Proof.Machine.execPoolCreate c s
  | .modelPlan c => Sys2Proof.Machine.execModelPlan c s
  | .modelPlanRom c => Sys2Proof.Machine.execModelPlanRom c s
  | .reqAdmit c => Sys2Proof.Machine.execReqAdmit c s
  | .reqCancel c => Sys2Proof.Machine.execReqCancel c s
  | .reqFork c => Sys2Proof.Machine.execReqFork c s
  | .reqQuery c => Sys2Proof.Machine.execReqQuery c s
  | .reqQueryRelease c => Sys2Proof.Machine.execReqQueryRelease c s
  | .launch c => Sys2Proof.Machine.execLaunch c s
  | .graphSubmit c => Sys2Proof.Machine.execGraphSubmit c s
  | .preempt c => Sys2Proof.Machine.execPreempt c s
  | .ctxExport c => Sys2Proof.Machine.execCtxExport c s
  | .ctxImport c => Sys2Proof.Machine.execCtxImport c s
  | .resume c => Sys2Proof.Machine.execResume c s
  | .fabricRoutesLoad c => Sys2Proof.Machine.execFabricRoutesLoad c s
  | .fabricRoutesFlip c => Sys2Proof.Machine.execFabricRoutesFlip c s
  | .fabricRoutesRetire c => Sys2Proof.Machine.execFabricRoutesRetire c s
  | .fabricRoutesExport c => Sys2Proof.Machine.execFabricRoutesExport c s
  | .kvExport c => Sys2Proof.Machine.execKvExport c s
  | .kvImport c => Sys2Proof.Machine.execKvImport c s
  | .snapArm c => Sys2Proof.Machine.execSnapArm c s
  | .snapRead c => Sys2Proof.Machine.execSnapRead c s
  | .alarmStatus c => Sys2Proof.Machine.execAlarmStatus c s
  | .alarmStatusClear c => Sys2Proof.Machine.execAlarmStatusClear c s
  | .fwPatch c => Sys2Proof.Machine.execFwPatch c s
  | .attest c => Sys2Proof.Machine.execAttest c s
  | .keyLoad c => Sys2Proof.Machine.execKeyLoad c s
  | .chipletReset c => Sys2Proof.Machine.execChipletReset c s
  | .telemetry c => Sys2Proof.Machine.execTelemetry c s
  | .pcieReadCompletion xfer chunk => Sys2Proof.Machine.execPcieReadCompletion xfer chunk s
  | .routeAck xfer quad => Sys2Proof.Machine.execRouteAck xfer quad s
  | .pcieReadTimeout xfer => Sys2Proof.Machine.execPcieReadTimeout xfer s
  | .consumerCountPoll tenant => Sys2Proof.Machine.execConsumerCountPoll tenant s
  | .powerWindowEnd r => Sys2Proof.Machine.execPowerWindowEnd r s
  | .coldReset r => Sys2Proof.Machine.execColdReset r s
  | .chipletFault chip => Sys2Proof.Machine.execChipletFault chip s
  | .fenceDrainComplete chip => Sys2Proof.Machine.execFenceDrainComplete chip s
  | .fenceTimeout chip => Sys2Proof.Machine.execFenceTimeout chip s
  | .chipletResetDone chip => Sys2Proof.Machine.execChipletResetDone chip s
  | .selftestPass chip => Sys2Proof.Machine.execSelftestPass chip s
  | .selftestFail chip => Sys2Proof.Machine.execSelftestFail chip s
  | .alarmSensor sensor => Sys2Proof.Machine.execAlarmSensor sensor s
  | .tempcHoldExpiry => Sys2Proof.Machine.execTempcHoldExpiry s
  | .snapshotPin => Sys2Proof.Machine.execSnapshotPin s
  | .shootdownAck sd chip => Sys2Proof.Machine.execShootdownAck sd chip s
  | .recordRelaunch ctx part slot => Sys2Proof.Machine.execRecordRelaunch ctx part slot s
  | .loadResultLand op lanes => Sys2Proof.Machine.execLoadResultLand op lanes s
  | .storeCommit op lane => Sys2Proof.Machine.execStoreCommit op lane s
  | .atomicPerform op => Sys2Proof.Machine.execAtomicPerform op s
  | .lltlbLookupDone ctx victim => Sys2Proof.Machine.execLltlbLookupDone ctx victim s
  | .walkComplete walk victim => Sys2Proof.Machine.execWalkComplete walk victim s
  | .checkAnswer ctx => Sys2Proof.Machine.execCheckAnswer ctx s
  | .raceRecordsArrive ctx => Sys2Proof.Machine.execRaceRecordsArrive ctx s
  | .registerEccError ctx site => Sys2Proof.Machine.execRegisterEccError ctx site s
  | .memoryEccError line => Sys2Proof.Machine.execMemoryEccError line s
  | .huddleBinTimeout ctx => Sys2Proof.Machine.execHuddleBinTimeout ctx s
  | .admissionStep places => Sys2Proof.Machine.execAdmissionStep places s
  | .launchComplete id => Sys2Proof.Machine.execLaunchComplete id s
  | .handlerStart id place => Sys2Proof.Machine.execHandlerStart id place s
  | .firmwareDispose id => Sys2Proof.Machine.execFirmwareDispose id s
  | .xlateHoldTimeout id seq => Sys2Proof.Machine.execXlateHoldTimeout id seq s
  | .copyLineLand cmd line => Sys2Proof.Machine.execCopyLineLand cmd line s
  | .engineComplete cmd => Sys2Proof.Machine.execEngineComplete cmd s
  | .mmaStart cmd => Sys2Proof.Machine.execMmaStart cmd s
  | .mmaComplete cmd => Sys2Proof.Machine.execMmaComplete cmd s
  | .slotClaimGrant cmd => Sys2Proof.Machine.execSlotClaimGrant cmd s
  | .chainEntryTake core chain => Sys2Proof.Machine.execChainEntryTake core chain s
  | .chainEntryComplete cmd => Sys2Proof.Machine.execChainEntryComplete cmd s
  | .gatherLineLand cmd line => Sys2Proof.Machine.execGatherLineLand cmd line s
  | .evictionStart pool => Sys2Proof.Machine.execEvictionStart pool s
  | .evictionCopyDone pool frame => Sys2Proof.Machine.execEvictionCopyDone pool frame s
  | .fetchStart pool frame => Sys2Proof.Machine.execFetchStart pool frame s
  | .fetchDone pool frame => Sys2Proof.Machine.execFetchDone pool frame s
  | .iterationForm plan => Sys2Proof.Machine.execIterationForm plan s
  | .iterationGraphComplete plan => Sys2Proof.Machine.execIterationGraphComplete plan s
  | .iterationComplete plan => Sys2Proof.Machine.execIterationComplete plan s
  | .deadlinePass req => Sys2Proof.Machine.execDeadlinePass req s
  | .admissionKernelComplete req => Sys2Proof.Machine.execAdmissionKernelComplete req s
  | .packetForward p port => Sys2Proof.Machine.execPacketForward p port s
  | .writePacket p port => Sys2Proof.Machine.execWritePacket p port s
  | .catchPacket p port => Sys2Proof.Machine.execCatchPacket p port s
  | .readPacket p port => Sys2Proof.Machine.execReadPacket p port s
  | .readdataPacket p port => Sys2Proof.Machine.execReaddataPacket p port s
  | .atomicPacket p port => Sys2Proof.Machine.execAtomicPacket p port s
  | .atomreplyPacket p port => Sys2Proof.Machine.execAtomreplyPacket p port s
  | .ackPacket p port => Sys2Proof.Machine.execAckPacket p port s
  | .nackPacket p port => Sys2Proof.Machine.execNackPacket p port s
  | .resvPacket p port => Sys2Proof.Machine.execResvPacket p port s
  | .resvreplyPacket p port => Sys2Proof.Machine.execResvreplyPacket p port s
  | .tornPacket p port => Sys2Proof.Machine.execTornPacket p port s
  | .abortPacket p port => Sys2Proof.Machine.execAbortPacket p port s
  | .reducePacket p port => Sys2Proof.Machine.execReducePacket p port s
  | .redresultPacket p port => Sys2Proof.Machine.execRedresultPacket p port s
  | .kvxferPacket p port => Sys2Proof.Machine.execKvxferPacket p port s
  | .ueMessage m => Sys2Proof.Machine.execUeMessage m s
  | .ueTransportFailure xfer => Sys2Proof.Machine.execUeTransportFailure xfer s
  | .linkDown port => Sys2Proof.Machine.execLinkDown port s
  | .retransmitTimeout dst seq => Sys2Proof.Machine.execRetransmitTimeout dst seq s
  | .catchSlotTimeout core slot => Sys2Proof.Machine.execCatchSlotTimeout core slot s
  | .catchAbortTimeout cmd => Sys2Proof.Machine.execCatchAbortTimeout cmd s
  | .reduceResendTimeout cmd => Sys2Proof.Machine.execReduceResendTimeout cmd s
  | .kvImportTimeout xfer => Sys2Proof.Machine.execKvImportTimeout xfer s
  | .kvExportTimeout xfer => Sys2Proof.Machine.execKvExportTimeout xfer s
  | .preemptFabricTimeout tenant => Sys2Proof.Machine.execPreemptFabricTimeout tenant s
  | .contextImageCommit tenant => Sys2Proof.Machine.execContextImageCommit tenant s
  | .sectionRestore tenant sect places => Sys2Proof.Machine.execSectionRestore tenant sect places s
  | .slotTileUncorrectableError cmd => Sys2Proof.Machine.execSlotTileUncorrectableError cmd s
  | .scratchpadStoreComplete op => Sys2Proof.Machine.execScratchpadStoreComplete op s

end Sys2Proof.Machine
end

