-- ==== Sys2Proof/Machine/RomKernel.lean ====
section
/-! DEFINITION. The kernels of ROM image 0 (R9, R349, R411): a group that stands at the entry of sstep or sscore issues the
commands that the rule gives the kernel, one at a time, and waits for each; at the end it ends. The spec does not print their
instructions (log 8). -/

namespace Sys2Proof.Machine

/-! ## Where a kernel runs -/

/-- Whether a group stands at the entry of a ROM kernel whose code is still as it was loaded: false for sstep, true for sscore. -/
def romKernelAt (s : State) (g : Group) : Option Bool := match tget s.launches g.launch with
  | none => none
  | some k => match s.images.find? fun e => e.2.rom && decide (e.2.tenant = k.tenant) && decide (e.2.addr = k.desc.image) with
    | none => none
    | some (_, im) =>
      let base := im.addr + romPlaces.code
      let which : Option Bool := if g.pc.toNat = base + romPlaces.step then some false
        else if g.pc.toNat = base + romPlaces.score then some true else none
      if g.coff ≠ 0 ∨ which = none ∨ fetchWord s g.core k.asid g.pc.toNat = none then none
      else if vread s k.asid base romPlaces.codeSz = some romCode then which else none

/-- The ROM plan that made a launch: for its graph's task, or as its scorer. -/
def romPlanLaunch (s : State) (o : Origin) : Option Plan := match o with
  | .task g _ => (tget s.graphs g).bind fun x => romPlanOf s x.origin
  | .scorer p => romPlanOf s (.plan p)
  | _ => none

/-- The areas that a kernel works on (R347, R411). -/
structure RomView where
  batch : Loc
  toks  : Loc
  vocab : Nat
deriving DecidableEq, Repr

/-- What a kernel comes to at a read of memory: a value, or the precise trap of the access. -/
abbrev RomGot (α : Type) := Except (TrapCode × Nat) α

/-- A number of n bytes at offset o of a place. -/
def romGet (s : State) (l : Loc) (o n : Nat) : RomGot Nat := match locFault s l o n false with
  | some f => .error f
  | none => .ok (leNat (locRead s l o n).1)

/-- The areas that the parameter block names: a ROM plan's own lie in memory that the firmware reserves (R343), another launch's
where its parameter pointer says. -/
def romView (s : State) (g : Group) : RomGot RomView := match (tget s.launches g.launch).bind fun k => romPlanLaunch s k.origin with
  | some p => .ok { batch := .pa (romBatch p), toks := .pa (romToks p), vocab := leNat (mread s.mem (romParam p + 8) 4) }
  | none =>
    let asid := asidOf s g.launch
    let at_ (a : Nat) : Loc := .va (some g.core) asid a
    match romGet s (at_ (readG g 1).toNat) 0 8, romGet s (at_ (readG g 1).toNat) 8 4 with
    | .ok b, .ok v => match romGet s (at_ b) 16 8 with
      | .ok t => .ok { batch := at_ b, toks := at_ t, vocab := v }
      | .error f => .error f
    | .error f, _ => .error f
    | _, .error f => .error f

/-- Entry i of a batch area as a kernel reads it (R347); none past the last. -/
def romEntryAt (s : State) (v : RomView) (i : Nat) : RomGot (Option BatchEntry) := match romGet s v.batch 6 2 with
  | .error f => .error f
  | .ok n =>
    if n ≤ i then .ok none
    else match locFault s v.batch (64 + 32 * i) 32 false with
      | some f => .error f
      | none =>
        let rd (o k : Nat) : Nat := leNat (locRead s v.batch (64 + 32 * i + o) k).1
        .ok (some { req := nfld (rd 0 2) 0 14, kind := rd 2 1, sample := nbit (rd 3 1) 0, first := rd 4 4, t := rd 8 4
                    tok := rd 12 4, handle := BitVec.ofNat 64 (rd 16 8), sampled := BitVec.ofNat 32 (rd 24 4) })

/-! ## A kernel's registers -/

/-- Where a kernel stands: entry, token, layer, and which of its commands it waits for. The kernel's own registers g3 to g5 and g7
hold it, and g6 the result of its last command (log 8). -/
structure RomPlace where
  entry : Nat
  tok   : Nat
  layer : Nat
  stage : Nat
deriving DecidableEq, Repr

/-- The registers' values. -/
def romPlace (g : Group) : RomPlace :=
  { entry := (readG g 3).toNat, tok := (readG g 4).toNat, layer := (readG g 5).toNat, stage := (readG g 7).toNat }

/-- The group at a place, its flag clear. -/
def romAt (p : RomPlace) (g : Group) : Group :=
  let w (n v : Nat) (x : Group) : Group := writeG x n (BitVec.ofNat 64 v)
  let h := w 3 p.entry (w 4 p.tok (w 5 p.layer (w 7 p.stage g)))
  { h with flags := h.flags.setIfInBounds 0 { count := 0, err := false } }

/-- The group goes on at a place. -/
def romGo (s : State) (c : Nat) (g : Group) (p : RomPlace) : State := putGroup s c (romAt p g)

/-- The command that a kernel issues: opcode and sub-op, operands, result register. -/
structure RomCmd where
  op  : Nat
  sub : Nat
  a   : DWord
  b   : DWord := 0
  c   : DWord := 0
  res : Option Nat := none

/-- Issue a command on flag 0 (R176, R177), the group staying at the kernel's entry; before is what the kernel has stored for it.
The instruction word's fields below the opcode are free values, since the spec does not print the kernel. -/
def romIssue (s : State) (c : Nat) (g : Group) (p : RomPlace) (x : RomCmd) (chk : State → Cmd → EChk) (before : State → State) : State :=
  let w := takeFree s
  let f : EForm := { word := BitVec.ofNat 32 (x.op * 2 ^ 25 + w.1.toNat % 2 ^ 25), op := x.op, sub := x.sub, a := x.a, b := x.b, c := x.c, resG := x.res }
  let h := { romAt p g with setA := 0 }
  match chk s (cmdOf s c h f) with
  | .trap t => takeTrap s c g t
  | .wait => endWith s c g .check 0 .check
  | .ok =>
    if storeFull s g.core then s
    else modGroup (acceptE (before w.2) c h f enterPlain) c fun y =>
      { y with pc := g.pc, coff := 0, repi := 0, rep := none, setA := g.setA, pendG := g.pendG, llSeen := g.llSeen }

/-- Whether the kernel's last command ended with an error. -/
def romErr (g : Group) : Bool := (g.flags.getD 0 { count := 0, err := false }).err

/-- A request command (R204). -/
def romReq (s : State) (c : Nat) (g : Group) (p : RomPlace) (x : RomCmd) : State :=
  romIssue s c g p x (fun t d => chkReq t g.answered d) id

/-! ## sstep (R9, R411) -/

/-- The row of a token id that the successor plan appends (R9). -/
def romRow (rb tok : Nat) : List Byte := (natBytes 4 tok ++ zeros rb).take rb

/-- The tokens of an entry from which the successor plan takes the last consumed one, with the position after it. A draft slot that
holds V or above is an absent draft, which no token follows (R9, R360): the last present one of a speculative entry counts, at its
node's position (R359). -/
def romLast (s : State) (v : RomView) (e : BatchEntry) : RomGot (Nat × Nat) :=
  let slot (i : Nat) : Nat := leNat (locRead s v.toks (4 * (e.tok + i)) 4).1
  match locFault s v.toks (4 * e.tok) (4 * e.t) false with
  | some f => .error f
  | none =>
    if e.kind ≠ 2 then .ok (slot (e.t - 1), e.first + e.t)
    else match ((List.range e.t).filter fun i => decide (i = 0) || decide (slot i < v.vocab)).getLast? with
      | some 0 => .ok (slot 0, e.first + 1)
      | some (i + 1) => .ok (slot (i + 1), nodePos e.first (e.t - 2) i + 1)
      | none => .ok (slot 0, e.first + 1)

/-- sstep at an entry: the next row of K and V, or the token sampled, or the next entry. -/
def stepEntry (s : State) (c : Nat) (g : Group) (v : RomView) (p : RomPlace) (e : BatchEntry) : State :=
  let trap (f : TrapCode × Nat) : State := takeTrap s c g { code := f.1, addr := BitVec.ofNat 64 f.2 }
  let q := poolAt s (wordIn s (tenantOf s g.launch) e.handle)
  let layers := (q.map Pool.layers).getD 1
  if e.t ≤ p.tok then
    if !e.sample then romGo s c g { entry := p.entry + 1, tok := 0, layer := 0, stage := 0 }
    else match romLast s v e with
      | .error f => trap f
      | .ok (last, pos) => romIssue s c g { p with stage := 2 }
          { op := opSmpl, sub := subRom, a := BitVec.ofNat 64 e.req, b := BitVec.ofNat 64 (last + pos * 2 ^ 32), c := BitVec.ofNat 64 v.vocab, res := some 6 }
          (fun _ _ => .ok) id
  else if layers ≤ p.layer then romGo s c g { p with tok := p.tok + 1, layer := 0, stage := 0 }
  else match romGet s v.toks (4 * (e.tok + p.tok)) 4 with
    | .error f => trap f
    | .ok tok =>
      let row := romRow ((q.map rowBytes).getD 16) tok
      romIssue s c g { p with stage := 1 }
        { op := opKvapp, sub := 0, a := e.handle, b := BitVec.ofNat 64 (e.first + p.tok + tok * 2 ^ 32)
          c := BitVec.ofNat 64 (p.layer * 2 ^ 32 + 15 * 2 ^ 48) }
        (fun t d => chkPage t g.wg (tenantOf t g.launch) d g.answered) fun t => writeSpad t g.wg 0 (row ++ row)

/-- sstep goes on once its last command has completed: to the next layer after a row, to the entry's sampled-token field after a
sample. A request of which a command ended with an error fails (log 8). -/
def romStep (s : State) (c : Nat) (g : Group) (v : RomView) : State :=
  let p := romPlace g
  match romEntryAt s v p.entry with
  | .error f => takeTrap s c g { code := f.1, addr := BitVec.ofNat 64 f.2 }
  | .ok none => finishGroup s c g
  | .ok (some e) =>
    let next : RomPlace := { entry := p.entry + 1, tok := 0, layer := 0, stage := 0 }
    if p.stage = 0 then stepEntry s c g v p e
    else if p.stage = 3 then romGo s c g next
    else if romErr g then romReq s c g { p with stage := 3 } { op := 0x76, sub := 2, a := BitVec.ofNat 64 e.req }
    else if p.stage = 1 then romGo s c g { p with layer := p.layer + 1, stage := 0 }
    else match locFault s v.batch (64 + 32 * p.entry + 24) 4 true with
      | some f => takeTrap s c g { code := f.1, addr := BitVec.ofNat 64 f.2 }
      | none => romGo (locWrite s v.batch (64 + 32 * p.entry + 24) (natBytes 4 (readG g 6).toNat) false) c g next

/-! ## sscore (R349, R362, R411) -/

/-- The length that a speculative entry's handle is cut to: COMMITTED + pending − 1 (R362). -/
def cutLen (s : State) (tenant req : Nat) : Nat := match tget s.reqs (reqIn s tenant req) with
  | some r => r.committed + r.pend.length - 1
  | none => 0

/-- sscore of workgroup lin, entries 16 lin to 16 lin + 15 in lane order: stop, emit and rqst.commit, each waiting for the one
before; without SAMPLE rqst.commit only. A speculative entry of more than one token is cut to the token it emits before its commit:
the walk of R362 with every draft absent. -/
def romScore (s : State) (c : Nat) (g : Group) (v : RomView) (lin : Nat) : State :=
  let p := romPlace g
  match if 16 ≤ p.entry then .ok none else romEntryAt s v (16 * lin + p.entry) with
  | .error f => takeTrap s c g { code := f.1, addr := BitVec.ofNat 64 f.2 }
  | .ok none => finishGroup s c g
  | .ok (some e) =>
    let a := BitVec.ofNat 64 e.req
    let tok := e.sampled.setWidth 64
    let commit := romReq s c g { p with stage := 4 } { op := 0x76, sub := 0, a := a }
    if p.stage = 0 then
      if e.sample then romReq s c g { p with stage := 1 } { op := 0x74, sub := 0, a := a, b := tok, res := some 6 } else commit
    else if p.stage = 1 then romReq s c g { p with stage := 2 } { op := 0x75, sub := 0, a := a, b := tok, c := readG g 6 &&& 3 }
    else if p.stage = 2 && decide (e.kind = 2) && decide (1 < e.t) then
      romIssue s c g { p with stage := 3 } { op := opHdl, sub := 2, a := e.handle, b := BitVec.ofNat 64 (cutLen s (tenantOf s g.launch) e.req) }
        (fun t d => chkPage t g.wg (tenantOf t g.launch) d g.answered) id
    else if p.stage = 2 || p.stage = 3 then commit
    else romGo s c g { p with entry := p.entry + 1, stage := 0 }

/-- A group at the entry of a ROM kernel goes on with it; while its last command is pending it ends with a WAIT record (R231). -/
def romKernel (s : State) (c : Nat) (g : Group) (score : Bool) : State :=
  if flagCount g 0 ≠ 0 then endAs s c g { g with waitm := 1 } .wait 0 .none
  else match romView s g with
    | .error f => takeTrap s c g { code := f.1, addr := BitVec.ofNat 64 f.2 }
    | .ok v =>
      if score then romScore s c g v (wgLin s g.wg) else romStep s c g v

end Sys2Proof.Machine
end

