-- ==== Sys2Proof/Machine/Turns.lean ====
section
/-! DEFINITION. When an entry of the schedule can take place (log 1): commands as they stand in their queues, events of
chiplets that do not run, zeroisation (R387, R403, R405); and the entries that are not events. -/

namespace Sys2Proof.Machine

/-! ## Commands (R36, R39) -/

/-- Whether the command at the head of its queue is the instruction: its bytes and its queue are those of c. -/
def atHead (s : State) (i : Instr) (opc : Nat) (c : HostCmd) : Bool :=
  decide (parseCommand c.fn c.q c.pick (headBytes s c.fn c.q) = (opc, c)) && isCommand opc c i

/-! ## Events that stand still -/

/-- Whether an event is one of a zeroised device's own: it stops every core and engine, and drops what its ports receive (R405). -/
def runsZeroised : Instr → Bool
  | .sqtdbWrite _ _ _ => true
  | .cqhdbWrite _ _ _ => true
  | .queueEnable _ _ _ => true
  | .queueDisable _ _ _ => true
  | .qctlErrClear _ _ _ => true
  | .registerWrite _ _ _ _ => true
  | .coldReset _ => true
  | .alarmSensor _ => true
  | .tempcHoldExpiry => true
  | .snapshotPin => true
  | .packetForward _ _ => true
  | .writePacket _ _ => true
  | .catchPacket _ _ => true
  | .readPacket _ _ => true
  | .readdataPacket _ _ => true
  | .atomicPacket _ _ => true
  | .atomreplyPacket _ _ => true
  | .ackPacket _ _ => true
  | .nackPacket _ _ => true
  | .resvPacket _ _ => true
  | .resvreplyPacket _ _ => true
  | .tornPacket _ _ => true
  | .abortPacket _ _ => true
  | .reducePacket _ _ => true
  | .redresultPacket _ _ => true
  | .kvxferPacket _ _ => true
  | .ueMessage _ => true
  | _ => false

/-- Whether an event can happen before the bring-up has ended (R403). -/
def runsBeforeRdy : Instr → Bool
  | .queueEnable _ _ _ => true
  | .queueDisable _ _ _ => true
  | .qctlErrClear _ _ _ => true
  | .registerWrite _ _ _ _ => true
  | .sqtdbWrite _ _ _ => true
  | .cqhdbWrite _ _ _ => true
  | .coldReset _ => true
  | .alarmSensor _ => true
  | .tempcHoldExpiry => true
  | _ => false

/-- Whether the core of a command issues; a command that is gone stands on none. -/
def cmdRuns (s : State) (k : Nat) : Bool := match tget s.cmds k with
  | some c => chipIssues s c.core
  | none => true

/-- Whether the core of a group issues. -/
def groupRuns (s : State) (c : Nat) : Bool := match tget s.groups c with
  | some g => chipIssues s g.core || decide (g.core = noCore)
  | none => true

/-- Whether a command stands on a core: the commands of a context image stand on none, and nothing of them goes on (R398). -/
def cmdPlaced (s : State) (k : Nat) : Bool := match tget s.cmds k with
  | some c => decide (c.core ≠ noCore)
  | none => true

/-- Whether a memory instruction stands on a core. -/
def opPlaced (s : State) (k : Nat) : Bool := match tget s.ops k with
  | some o => decide (o.core ≠ noCore)
  | none => true

/-- Whether the chiplet of a memory instruction runs. -/
def opRuns (s : State) (k : Nat) : Bool := match tget s.ops k with
  | some o => chipIssues s o.core
  | none => true

/-- Whether an atomic stands where it may be performed: one on the scratchpad needs its core, one at a home slice may have been sent
before its chiplet began to fence. -/
def atomRuns (s : State) (k : Nat) : Bool := match tget s.ops k with
  | some o => decide (o.core ≠ noCore) && (decide (o.space ≠ .scratch) || chipIssues s o.core)
  | none => true

/-- Whether a chiplet's own events go on: what its cores and engines do stops with its fence, and no reply, invalidation, result or
answer is delivered to it (R387). Requests that it sent before are still performed, without their answers: those of the base die's
commands, of stores and of atomics. -/
def chipletRuns (s : State) : Instr → Bool
  | .huddleBinTimeout ctx => groupRuns s ctx
  | .registerEccError ctx _ => groupRuns s ctx
  | .mmaStart k => cmdRuns s k
  | .mmaComplete k => cmdRuns s k
  | .slotClaimGrant k => cmdRuns s k
  | .slotTileUncorrectableError k => cmdRuns s k
  | .chainEntryTake core _ => chipIssues s core
  | .chainEntryComplete k => cmdRuns s k
  | .catchSlotTimeout core _ => chipIssues s core
  | .copyLineLand k _ => cmdRuns s k
  | .gatherLineLand k _ => cmdRuns s k
  | .lltlbLookupDone ctx _ => groupRuns s ctx
  | .checkAnswer ctx => groupRuns s ctx
  | .raceRecordsArrive ctx => groupRuns s ctx
  | .shootdownAck _ chip => (s.chips[chip]?).map Chip.st != some .fencing
  | .catchAbortTimeout k => cmdPlaced s k
  | .reduceResendTimeout k => cmdPlaced s k
  | .loadResultLand k _ => opRuns s k
  | .storeCommit k _ => opPlaced s k
  | .atomicPerform k => atomRuns s k
  | .scratchpadStoreComplete k => opRuns s k
  | .engineComplete k => cmdRuns s k || (cmdPlaced s k && match tget s.cmds k with
    | some c => pageOpc c.op || (decide (0x73 ≤ c.op) && decide (c.op ≤ 0x76))
    | none => true)
  | _ => true

/-- Whether an event can take place. -/
def mayHappen (s : State) (i : Instr) : Bool :=
  (s.rdy || runsBeforeRdy i) && (!s.sec.zeroised || runsZeroised i) && chipletRuns s i

/-- Whether an entry of the schedule that names an instruction takes place: a command that stands at the head of its queue,
or an event that can happen; an encoded instruction is issued by its group, never by the schedule. -/
def takesPlace (s : State) (i : Instr) : Bool :=
  if (encodeWord i).isSome then false
  else match opcOf i with
    | some (opc, c) => atHead s i opc c
    | none => mayHappen s i

/-! ## Entries that are not instructions -/

/-- The links carry away the oldest packet for another device; a zeroised device sends nothing (R405). -/
def wireTake (s : State) : State := match s.fab.wire.find? fun p => decide (p.dst ≠ s.fab.devId) with
  | some p => if s.sec.zeroised then s else takePacket s p
  | none => s

/-- The Ultra Ethernet port carries away the oldest message. -/
def ueTake (s : State) : State :=
  if s.sec.zeroised then s else { s with fab := { s.fab with ueOut := s.fab.ueOut.drop 1 } }

/-- The notice with a number has reached its device: it is not sent again (R365). -/
def dropNotice (s : State) (dst seq : Nat) : State :=
  { s with fab := { s.fab with notices := s.fab.notices.filter fun e => !(decide (e.1.dst = dst) && decide (e.1.seq = seq)) } }

/-- Clocks pass, and with them deadlines (R350). -/
def elapse (s : State) (n : Nat) : State := passDeadlines { s with clk := s.clk + n }

/-- The host writes its own memory. -/
def hostStore (s : State) (a : Nat) (bs : List Byte) : State := { s with hostMem := mwrite s.hostMem a bs }

/-! ## One instruction at the machine's first step (log 7) -/

/-- The descriptor of the launch that withFetchWord makes. -/
def fetchDesc : Desc :=
  { Desc.zero with image := 0xF00, entry := 0x1000, pword := 0x00042118#32, threads := 16, acc := 8, spad := 262144 }

/-- The tenant of that launch. -/
def fetchTenant : Tenant :=
  { fn := 0, asid := 1, ring := 0, ringLog := 4, confid := false, det := false, slices := [], salt := zeros 16,
    prod := 0, cons := 0, queue := [], collide := 0, park := .active, image := [], closing := none }

/-- The launch. -/
def fetchLaunch : Launch :=
  { tenant := 1, asid := 1, desc := fetchDesc, origin := .direct { fn := 0, q := 0, cid := 0, sqhead := 0 }, made := 0,
    madeAt := 0, next := 1, aborted := false, faulted := false, lost := false, fq := [], fwait := [], fseq := 0, server := none,
    ident := 1, finished := false }

/-- Its one workgroup. -/
def fetchWg : Workgroup :=
  { launch := 1, lin := 0, tenant := 1, core := 0, placed := true, handler := none, gang := none, threads := 16,
    spadLen := 262144, spad := [], absent := [], nacc := 8, tiles := [], phase := 0, next := [], named := [],
    colls := [], slots := [], lz := [], chains := [] }

/-- Its one group as R57 starts it, at clause offset k of the clause at 0x1000. -/
def fetchGroup (k len : Nat) : Group :=
  { inst := 1, region := 0, launch := 1, wg := 1, core := 0, part := 0, slot := 0, res := .running, store := .none,
    cause := .wait, arg := 0, waitm := 0, readyAt := 0, since := 0, want := .none, answered := false, walkFault := none,
    home := true, tids := vec16 fun l => BitVec.ofNat 12 l, pc := 0x1000, coff := k, repi := 0, rep := none, setA := 0,
    setB := 1, len := len, pendV := 0, pendG := 0, exec := 0xFFFF, alive := 0xFFFF, mood := 0, prog := 0,
    p := Vector.replicate 8 0, g := Vector.replicate 32 0, gpoison := 0, v := Vector.replicate 64 none,
    flags := Vector.replicate 12 { count := 0, err := false }, cedes := [], hbKey := 0, llSeen := false, engFlags := 0, resume := none, liveg := 0 }

/-- The memory of that machine: a root and a level-2 table that map 512 MiB from virtual 0, executable
and writable, and at 0x1000 a clause of the word, or the word itself where it is a clause header. -/
def fetchMem (m : Memory) (w : Nat) : Memory :=
  let m1 := mwriteN (mwriteN m 0x10000 8 0x20001) 0x20000 8 0x2000000F
  if isHeaderWord (BitVec.ofNat 32 w) then mwriteN m1 0x20001000 4 w
  else if w / 2 ^ 25 = 0x7E then
    mwriteN (mwriteN (mwriteN (mwriteN m1 0x20001000 4 0xFE000022) 0x20001004 4 w) 0x20001008 4 0x22000000) 0x2000100C 4 0xFE000021
  else mwriteN (mwriteN (mwriteN m1 0x20001000 4 0xFE000021) 0x20001004 4 w) 0x20001008 4 0xFE000021

end Sys2Proof.Machine
end

