-- ==== Sys2Proof/Machine/Step.lean ====
section
/-! DEFINITION. One step of the device: the next entry of the schedule (log 1). -/

namespace Sys2Proof.Machine

/-- A tenant that closes is given up as soon as nothing of it is left (R45); an import that waits for frames tries again (R321). -/
def afterEvent (r : Host.Outcome State Fault Refusal) : Host.Outcome State Fault Refusal :=
  match r with
  | .next s => .next (settleImports (settleClosing s))
  | .fault f => .fault f
  | .refused x => .refused x

/-- A group issues the word it has reached, or runs the ROM kernel it stands at, once its page needs no walk that it must wait for. -/
def issueTurn (s : State) (c : Nat) : Host.Outcome State Fault Refusal :=
  match tget s.groups c with
  | none => .next s
  | some g =>
    if mayIssue s c g then
      if fetchBlocked s g.core (asidOf s g.launch) (wordAddr g).toNat then .next (engAsk s g.core (asidOf s g.launch) (wordAddr g).toNat 1)
      else match romKernelAt s g with
      | some k => afterEvent (.next (romKernel s c g k))
      | none => match issueOf s g with
        | .trap t => .next (takeTrap s c g t)
        | .run i => exec i { fetchFill s g.core (asidOf s g.launch) (wordAddr g).toNat with cur := some c }
    else .next s

/-- One entry of the schedule. -/
def runTurn (t : Turn) (s : State) : Host.Outcome State Fault Refusal :=
  match t with
  | .issue c => issueTurn s c
  | .event i => if takesPlace s i then afterEvent (exec i s) else .next s
  | .badCommand fn q => .next (badCommand fn q s)
  | .elapse n => .next (elapse s n)
  | .hostStore a bs => .next (hostStore s a bs)
  | .performLoad k l => .next (if opRuns s k then performLoad s k l else s)
  | .dropLine core line => .next (dropLine s core line)
  | .evictPrivate core line => .next (if chipIssues s core then evictPrivate s core line else s)
  | .dropCode core line => .next (dropCode s core line)
  | .shadowError k ws => .next (shadowError s k ws)
  | .dropTlb chip i e => .next (dropTlb s chip i e)
  | .dropWalkEntry i => .next (dropWalkEntry s i)
  | .dropRace sec => .next (dropRace s sec)
  | .wireTake => .next (wireTake s)
  | .ueTake => .next (ueTake s)
  | .noticeTaken dst seq => .next (dropNotice s dst seq)

/-- After an entry records without a place take one where there is room (R234), and each matrix product notes whether it is ready (R304). -/
def noted (r : Host.Outcome State Fault Refusal) : Host.Outcome State Fault Refusal :=
  match r with
  | .next s => .next (noteReady (placeKept s))
  | .fault f => .fault f
  | .refused x => .refused x

/-- One step: the schedule's next entry; with no entry one clock passes. -/
def step (s : State) : Host.Outcome State Fault Refusal :=
  match s.turns with
  | [] => .next (elapse s 1)
  | t :: rest => noted (runTurn t { s with turns := rest })

/-- The state in which the very next step fetches and runs the instruction with bits w: the loads,
negotiation and launch that bring a program to its first instruction, made at once (log 7). -/
def State.withFetchWord (s : State) (_nbits w : Nat) : State :=
  let x := w % 2 ^ 32
  let hdr := isHeaderWord (BitVec.ofNat 32 x)
  let chip : Chip := { Chip.reset with st := .active }
  { s with
    turns := .issue 1 :: s.turns, locked := true, rdy := true, feats := 0x3FFF#128, chips := #v[chip, chip, chip, chip]
    mem := fetchMem s.mem x, roots := tset s.roots 1 0x10000, tenants := tset s.tenants 1 fetchTenant
    cores := tset s.cores 0 { Core.empty with pword := fetchDesc.pword }
    launches := tset s.launches 1 fetchLaunch, wgs := tset s.wgs 1 fetchWg
    groups := tset s.groups 1 (fetchGroup (if hdr then 0 else 1) (if x / 2 ^ 25 = 0x7E then 2 else 1))
    nextKey := 2, nextInst := 2 }

end Sys2Proof.Machine
end

