-- ==== Sys2Proof/Safety.lean ====
section
/-! DEFINITION. What counts as a safe run, and the words that the statements are written in. -/

namespace Sys2Proof

/-- The machine takes a step. -/
def Steps (s : Machine.State) : Prop := ∃ t, Machine.step s = .next t

/-- From s, k steps are taken. -/
def RunsFor : Nat → Machine.State → Prop
  | 0, _ => True
  | k + 1, s => ∃ t, Machine.step s = .next t ∧ RunsFor k t

/-- A safe run never stops. -/
def Safe (s : Machine.State) : Prop := ∀ k, RunsFor k s

end Sys2Proof

namespace Sys2Proof.Claims

open Sys2Proof.Machine

/-! ## The words of the statements -/

/-- Group g, at key c, is the one whose word is being executed, and it is in a slot and not HELD (R226, R230). -/
def Issues (s : State) (c : Nat) (g : Group) : Prop := s.cur = some c ∧ tget s.groups c = some g ∧ g.res = .running

/-- v name n can be read in the lanes of m: no result is owed to it (PEND), it holds a register (UNWR), no word is poisoned (ECCU). -/
def CanReadV (g : Group) (m : BitVec 16) (n : Nat) : Prop :=
  g.pendV.getLsbD n = false ∧ ∃ r, g.v.getD n none = some r ∧ r.poison &&& m = 0

/-- v name n can be written: no result is owed to it. -/
def CanWriteV (g : Group) (n : Nat) : Prop := g.pendV.getLsbD n = false

/-- g name n exists and can be read. -/
def CanReadG (g : Group) (n : Nat) : Prop := n < 32 ∧ g.pendG.getLsbD n = false ∧ gBad g n = false

/-- g name n exists and can be written. -/
def CanWriteG (g : Group) (n : Nat) : Prop := n < 32 ∧ g.pendG.getLsbD n = false

/-- v name d holds a register, or the lane pipe has one free for it (R92, R228). -/
def HasRoom (s : State) (g : Group) (d : Nat) : Prop :=
  (g.v.getD d none).isSome = true ∨ 1 ≤ pipeFree s g.core g.part g.slot

/-- The outcome is a next state in which v name d holds f l in each lane l of m and is as before in the others (0 where it
held no register), the names freed lose their registers unless d is one, the group stands at its next word with one more
instruction counted, and nothing else of the machine is changed (R92, R93, R103). -/
def VecResult (s : State) (c : Nat) (g : Group) (o : Out) (d : Nat) (freed : List Nat) (m : BitVec 16) (f : Nat → Word) : Prop :=
  ∃ h n, o = .next { s with groups := tset s.groups c h, nextKey := n } ∧
    h = { bump (stepPast g) with v := h.v } ∧
    (∃ r, h.v.getD d none = some r ∧ r.poison &&& m = 0) ∧
    (∀ l < 16, readV h d l = if m.getLsbD l then f l else readV g d l) ∧
    ∀ k < 64, k ≠ d → h.v.getD k none = if freed.contains k then none else g.v.getD k none

/-- The outcome is a next state in which g name d reads x (g0 still 0), every other g name is as before, the v names freed
lose their registers, the group stands at its next word, and nothing else is changed (R58, R93). -/
def UniResult (s : State) (c : Nat) (g : Group) (o : Out) (d : Nat) (freed : List Nat) (x : DWord) : Prop :=
  ∃ h, o = .next { s with groups := tset s.groups c h } ∧
    h = { bump (stepPast g) with g := h.g, gpoison := h.gpoison, v := h.v } ∧
    (∀ k < 32, readG h k = if k = d ∧ d ≠ 0 then x else readG g k) ∧
    ∀ k < 64, h.v.getD k none = if freed.contains k then none else g.v.getD k none

/-- The outcome is a next state in which predicate d is x, every other predicate is as before, the v names freed lose
their registers, the group stands at its next word, and nothing else is changed. -/
def PredResult (s : State) (c : Nat) (g : Group) (o : Out) (d : Nat) (freed : List Nat) (x : BitVec 16) : Prop :=
  ∃ h, o = .next { s with groups := tset s.groups c h } ∧
    h = { bump (stepPast g) with p := h.p, v := h.v } ∧
    (∀ k < 8, readP h k = if k = d then x else readP g k) ∧
    ∀ k < 64, h.v.getD k none = if freed.contains k then none else g.v.getD k none

/-- The names that L marks free (R93). -/
def marked (la : Bool) (a : R6) (lb : Bool) (b : R6) : List Nat :=
  (if la then [a.toNat] else []) ++ if lb then [b.toNat] else []

/-- A vector instruction that reads A, B unless it is an immediate, and D where rd, and writes D, meets no form check. -/
def VecOperands (s : State) (g : Group) (d a b : R6) (lb im rd : Bool) : Prop :=
  (im = true → lb = false) ∧ CanReadV g g.exec a.toNat ∧ (im = false → CanReadV g g.exec b.toNat) ∧
    (rd = true → CanReadV g g.exec d.toNat) ∧ CanWriteV g d.toNat ∧ HasRoom s g d.toNat ∧ g.exec ≠ 0

/-- The same in the uniform form, whose g names cannot be marked. -/
def UniOperands (g : Group) (d a b : R6) (la lb im rd : Bool) : Prop :=
  la = false ∧ lb = false ∧ CanReadG g a.toNat ∧ (im = false → CanReadG g b.toNat) ∧ CanWriteG g d.toNat ∧
    (rd = true → CanReadG g d.toNat)

/-- B of the word: the register's lane or the 6-bit immediate sign-extended (R73). -/
def laneB (g : Group) (b : R6) (im : Bool) (l : Nat) : Word := if im then b.signExtend 32 else readV g b.toNat l
def uniB (g : Group) (b : R6) (im : Bool) : DWord := if im then b.signExtend 64 else readG g b.toNat

/-! ## Integer results (R122 to R130) -/

/-- An exact value clamped under SAT and kept modulo 2^n (R122, R124). -/
def clamp (m : Word) (n : Nat) (x : Int) : BitVec n := BitVec.ofInt n (saturate m n true x)

/-- An integer operation at width n: MOOD, A, B and D. -/
abbrev IntFn := (m : Word) → (n : Nat) → BitVec n → BitVec n → BitVec n → BitVec n

/-- Instructions of A and B, B perhaps an immediate; imad reads D too. -/
def intThree : List ((Bool → R6 → R6 → R6 → Bool → Bool → Bool → Instr) × Bool × IntFn) := [
  (.iadd, false, fun m n x y _ => clamp m n (ival m x + ival m y)),
  (.isub, false, fun m n x y _ => clamp m n (ival m x - ival m y)),
  (.imul, false, fun m n x y _ => clamp m n (ival m x * ival m y)),
  (.imad, true, fun m n x y z => clamp m n (ival m x * ival m y + ival m z)),
  (.imulh, false, fun m n x y _ => BitVec.ofInt n (Int.fdiv (ival m x * ival m y) (2 ^ n))),
  (.imin, false, fun m n x y _ => BitVec.ofInt n (min (ival m x) (ival m y))),
  (.imax, false, fun m n x y _ => BitVec.ofInt n (max (ival m x) (ival m y))),
  (.idivQs, false, fun _ n x y _ => if y = 0 then BitVec.allOnes n else BitVec.ofInt n (Int.tdiv x.toInt y.toInt)),
  (.idivQn, false, fun _ n x y _ => if y = 0 then BitVec.allOnes n else BitVec.ofNat n (x.toNat / y.toNat)),
  (.idivRs, false, fun _ n x y _ => if y = 0 then x else BitVec.ofInt n (Int.tmod x.toInt y.toInt)),
  (.idivRn, false, fun _ n x y _ => if y = 0 then x else BitVec.ofNat n (x.toNat % y.toNat)),
  (.bitAnd, false, fun _ _ x y _ => x &&& y), (.bitOr, false, fun _ _ x y _ => x ||| y),
  (.bitXor, false, fun _ _ x y _ => x ^^^ y), (.bitAndn, false, fun _ _ x y _ => x &&& ~~~y),
  (.shl, false, fun _ _ x y _ => x <<< y.toNat), (.shrL, false, fun _ _ x y _ => x >>> y.toNat),
  (.shrA, false, fun _ _ x y _ => x.sshiftRight y.toNat),
  (.rotL, false, fun _ n x y _ => x.rotateLeft (y.toNat % n)), (.rotR, false, fun _ n x y _ => x.rotateRight (y.toNat % n))]

/-- Instructions of A alone. -/
def intOne : List ((Bool → R6 → R6 → Bool → Instr) × ((m : Word) → (n : Nat) → BitVec n → BitVec n)) := [
  (.iabs, fun m n x => clamp m n (ival m x).natAbs), (.ineg, fun m n x => clamp m n (-ival m x)),
  (.bitcPopc, fun _ n x => BitVec.ofNat n ((List.range n).filter fun i => x.getLsbD i).length),
  (.bitcClz, fun _ n x => BitVec.ofNat n (clzN x)), (.bitcCtz, fun _ n x => BitVec.ofNat n (ctzN x)),
  (.bitcBrev, fun _ n x => BitVec.ofNat n (brevN x)), (.mov, fun _ _ x => x)]

/-- The field instructions of R130, at the offset and width that B holds. -/
def intField : List ((Bool → R6 → R6 → R6 → Bool → Bool → Instr) × Bool × IntFn) := [
  (.bfeN, false, fun _ n x y _ => BitVec.ofNat n (nfld x.toNat (fieldPos n y.toNat).1 (fieldPos n y.toNat).2)),
  (.bfeS, false, fun _ n x y _ =>
    BitVec.ofInt n (BitVec.ofNat (fieldPos n y.toNat).2 (nfld x.toNat (fieldPos n y.toNat).1 (fieldPos n y.toNat).2)).toInt),
  (.bfi, true, fun _ n x y z => BitVec.ofNat n (z.toNat - nfld z.toNat (fieldPos n y.toNat).1 (fieldPos n y.toNat).2 * 2 ^ (fieldPos n y.toNat).1
    + nfld x.toNat 0 (fieldPos n y.toNat).2 * 2 ^ (fieldPos n y.toNat).1))]

/-! ## Floating results (R143 to R159) -/

/-- A floating operation on a word under MOOD: A, B and D. -/
abbrev WordFn := (m : Word) → Word → Word → Word → Word

/-- Instructions of A and B; the ffma forms read D too. -/
def floatThree : List ((Bool → R6 → R6 → R6 → Bool → Bool → Instr) × Bool × WordFn) := [
  (.fadd, false, farith fun _ r x y _ => faddV r x y), (.fsub, false, farith fun _ r x y _ => faddV r x (fneg y)),
  (.fmul, false, farith fun _ _ x y _ => fmulV x y), (.ffma, true, farith fun _ r x y z => ffmaV r x y z),
  (.ffmaMs, true, farith fun _ r x y z => ffmaV r x y (fneg z)), (.ffmaNm, true, farith fun _ r x y z => ffmaV r (fneg x) y z),
  (.ffmaNms, true, farith fun _ r x y z => ffmaV r (fneg x) y (fneg z)),
  (.fmin, false, fun m x y z => perElem (moodType m) (fun f p q _ => fpick false (moodFtz m) f p q) x y z),
  (.fmax, false, fun m x y z => perElem (moodType m) (fun f p q _ => fpick true (moodFtz m) f p q) x y z)]

/-- Instructions of A alone. -/
def floatOne : List ((Bool → R6 → R6 → Bool → Instr) × (Word → Word → Word)) := [
  (.fabs, fun m x => x &&& ~~~(if moodType m = 0 then 0x80000000 else 0x80008000)),
  (.fneg, fun m x => x ^^^ (if moodType m = 0 then 0x80000000 else 0x80008000)),
  (.frcp, fun m x => farith (fun _ _ x _ _ => fdivV 40 (.fin false 1 0) x) m x 0 0),
  (.fsqrt, fun m x => farith (fun _ _ x _ _ => fsqrtV 40 x) m x 0 0), (.frsq, fun m x => farith (fun _ _ x _ _ => frsqV 40 x) m x 0 0),
  (.fexp, fun m x => farith (fun f r x _ _ => fexpV f r x) m x 0 0), (.fln, fun m x => farith (fun f r x _ _ => flnV f r x) m x 0 0),
  (.fexp2, fun m x => farith (fun f r x _ _ => fexp2V f r x) m x 0 0), (.flog2, fun m x => farith (fun f r x _ _ => flog2V f r x) m x 0 0),
  (.frnd, fun m x => perElem (moodType m) (fun f p _ _ => frndElem m f p) x 0 0)]

/-- Every element of A times 2 to the signed value B (R154). -/
def scaled (m : Word) (x y : Word) : Word := perElem (moodType m) (fun k p _ _ => fscalElem m k y.toInt p) x 0 0

/-! ## Comparison -/

/-- icmp: relations of the values under the MOOD type (R131). -/
def intRels : List ((Bool → R6 → R6 → R6 → Bool → Bool → Bool → Instr) × (Int → Int → Prop)) := [
  (.icmpEq, fun x y => x = y), (.icmpNe, fun x y => x ≠ y), (.icmpLt, fun x y => x < y), (.icmpLe, fun x y => x ≤ y),
  (.icmpGt, fun x y => x > y), (.icmpGe, fun x y => x ≥ y)]

/-- fcmp: relations of the values; every one but ne and un is false of a NaN (R147). -/
def floatRels : List ((Bool → R6 → R6 → R6 → Bool → Bool → Instr) × (FVal → FVal → Prop)) := [
  (.fcmpUn, fun x y => isNan x = true ∨ isNan y = true), (.fcmpOr, fun x y => isNan x = false ∧ isNan y = false),
  (.fcmpLt, fun x y => flt false x y = true), (.fcmpGt, fun x y => flt false y x = true),
  (.fcmpLe, fun x y => isNan x = false ∧ isNan y = false ∧ flt false y x = false),
  (.fcmpGe, fun x y => isNan x = false ∧ isNan y = false ∧ flt false x y = false),
  (.fcmpEq, fun x y => isNan x = false ∧ isNan y = false ∧ flt false x y = false ∧ flt false y x = false),
  (.fcmpNe, fun x y => ¬(isNan x = false ∧ isNan y = false ∧ flt false x y = false ∧ flt false y x = false))]

/-- A and B can be read in the active lanes, and no immediate is marked. -/
def VecReads (g : Group) (a b : R6) (lb im : Bool) : Prop :=
  (im = true → lb = false) ∧ CanReadV g g.exec a.toNat ∧ (im = false → CanReadV g g.exec b.toNat)

/-- The outcome writes predicate d: each active lane's bit says whether R holds there, the others keep theirs. -/
def LaneVerdict (s : State) (c : Nat) (g : Group) (o : Out) (d : Nat) (freed : List Nat) (R : Nat → Prop) : Prop :=
  ∃ x : BitVec 16, PredResult s c g o d freed x ∧
    ∀ l < 16, if g.exec.getLsbD l then (x.getLsbD l = true ↔ R l) else x.getLsbD l = (readP g d).getLsbD l

/-- The outcome writes all 16 bits of predicate d alike: whether R holds (R131). -/
def UniVerdict (s : State) (c : Nat) (g : Group) (o : Out) (d : Nat) (R : Prop) : Prop :=
  (R → PredResult s c g o d [] (BitVec.allOnes 16)) ∧ (¬R → PredResult s c g o d [] 0)

/-- The registers an instruction names can be read and written. -/
def Operands (g : Group) (lanes : BitVec 16) (rv wv rg wg : List Nat) : Prop :=
  (∀ n ∈ rv, CanReadV g lanes n) ∧ (∀ n ∈ wv, CanWriteV g n) ∧ (∀ n ∈ rg, CanReadG g n) ∧ ∀ n ∈ wg, CanWriteG g n

/-! ## Several results, predicates, cross-lane instructions -/

/-- The lane pipe has the registers that names still need (R92, R228). -/
def RoomFor (s : State) (g : Group) (ns : List Nat) : Prop :=
  (ns.filter fun n => (g.v.getD n none).isNone).length ≤ pipeFree s g.core g.part g.slot

/-- The outcome is a next state in which each listed v name holds its values in the lanes of m and is as before in the
others, the names freed lose their registers unless they are listed, the group stands at its next word, and nothing else of
the machine is changed. -/
def VecResults (s : State) (c : Nat) (g : Group) (o : Out) (ws : List (Nat × (Nat → Word))) (freed : List Nat) (m : BitVec 16) : Prop :=
  ∃ h n, o = .next { s with groups := tset s.groups c h, nextKey := n } ∧
    h = { bump (stepPast g) with v := h.v } ∧
    (∀ e ∈ ws, ∀ l < 16, readV h e.1 l = if m.getLsbD l then e.2 l else readV g e.1 l) ∧
    ∀ k < 64, k ∉ ws.map Prod.fst → h.v.getD k none = if freed.contains k then none else g.v.getD k none

/-- plog on two predicates; not reads one (R133). -/
def predOps : List ((R6 → R6 → R6 → Instr) × (BitVec 16 → BitVec 16 → BitVec 16)) := [
  (.plogAnd, fun x y => x &&& y), (.plogOr, fun x y => x ||| y), (.plogXor, fun x y => x ^^^ y),
  (.plogAndn, fun x y => x &&& ~~~y), (fun d a _ => .plogNot d a, fun x _ => ~~~x)]

/-- M of a cross-lane instruction lies within EXEC (R137). -/
def Members (g : Group) : Prop := memberMask g &&& ~~~g.exec = 0

/-- shfl: the lane that lane l receives from, given its B (R138). -/
def shuffles : List ((R6 → R6 → R6 → Bool → Bool → Bool → Instr) × (Nat → Word → Int)) := [
  (.shflIdx, fun _ x => (x.toNat % 16 : Nat)), (.shflUp, fun l x => (l : Int) - x.toNat),
  (.shflDown, fun l x => (l : Int) + x.toNat), (.shflXor, fun l x => (l ^^^ (x.toNat % 16) : Nat))]

/-- lred and lscan of one operation: the types it takes, and its value over A of some members in lane order (R140, R141). -/
def laneFolds : List ((R6 → R6 → Bool → Instr) × (R6 → R6 → Bool → Instr) × (Nat → Prop) × (Word → List Word → Word)) := [
  (.lredIadd, .lscanIadd, fun _ => True, fun m xs => clamp m 32 ((xs.map fun x => ival m x).sum)),
  (.lredMin, .lscanMin, fun t => t ≠ 1 ∧ t ≠ 2, fun m xs => foldVals (pickWord false m) xs),
  (.lredMax, .lscanMax, fun t => t ≠ 1 ∧ t ≠ 2, fun m xs => foldVals (pickWord true m) xs),
  (.lredAnd, .lscanAnd, fun _ => True, fun _ xs => foldVals (fun x y => x &&& y) xs),
  (.lredOr, .lscanOr, fun _ => True, fun _ xs => foldVals (fun x y => x ||| y) xs),
  (.lredXor, .lscanXor, fun _ => True, fun _ xs => foldVals (fun x y => x ^^^ y) xs)]

/-- The outcome sets the members' bits of predicate d alike, to whether R holds, and keeps the others (R139). -/
def MemberVerdict (s : State) (c : Nat) (g : Group) (o : Out) (d : Nat) (freed : List Nat) (R : Prop) : Prop :=
  ∃ x : BitVec 16, PredResult s c g o d freed x ∧
    ∀ l < 16, if (memberMask g).getLsbD l then (x.getLsbD l = true ↔ R) else x.getLsbD l = (readP g d).getLsbD l

/-- A value MOOD can hold: reserved bits 0, type codes below 13, rounding code below 5 (R62). -/
def LegalMood (m : Word) : Prop :=
  m.toNat < 2 ^ 20 ∧ m.toNat / 2 ^ 14 % 4 = 0 ∧ m.toNat / 2 ^ 5 % 16 < 13 ∧ m.toNat / 2 ^ 16 % 16 < 13 ∧ m.toNat / 2 ^ 9 % 8 < 5

/-- The outcome is a next state in which only the group at c is changed: to h. -/
def GroupBecomes (s : State) (c : Nat) (o : Out) (h : Group) : Prop := o = .next { s with groups := tset s.groups c h }

/-- The CSRs and what they read (R117). -/
def csrReads (s : State) (g : Group) : List (Nat × DWord) := [
  (0, g.mood.setWidth 64), (1, g.prog.setWidth 64), (2, flagst g), (3, g.alive.setWidth 64),
  (4, (coreOf s g.core).pword.setWidth 64), (5, s.feats.setWidth 64), (6, (s.feats >>> 64).setWidth 64),
  (7, BitVec.ofNat 64 (wgLin s g.wg))]

/-- rng: the instructions and their sub-op numbers (R206). -/
def randoms : List ((Bool → R6 → R6 → R6 → Bool → Instr) × Nat) := [
  (.rngW0, 0), (.rngW1, 1), (.rngW2, 2), (.rngW3, 3), (.rngUni, 4), (.rngGum, 5)]

/-- The output words at a two-word counter: the key stands in g B, and the other two counter words in g B + 1 (R206). -/
def randomWords (g : Group) (b : R6) (c0 c1 : Nat) : Ctr4 :=
  philox c0 c1 ((readG g (b.toNat + 1)).toNat % 2 ^ 32) ((readG g (b.toNat + 1)).toNat / 2 ^ 32) (readG g b.toNat).toNat

/-! ## Control -/

/-- A clause header stands at x (R107). -/
def HeaderAt (s : State) (g : Group) (x : DWord) : Prop :=
  ∃ w, fetchWord s g.core (asidOf s g.launch) x.toNat = some w ∧ w.toNat / 2 ^ 25 = 127

/-- The word executed is the last body word of its clause (R86). -/
def AtEnd (g : Group) : Prop := g.coff = g.len

/-- The outcome is a next state in which the group stands at the clause header at pc, one more instruction counted, and nothing else is changed. -/
def Goes (s : State) (c : Nat) (g : Group) (o : Out) (pc : DWord) : Prop :=
  GroupBecomes s c o (bump { g with pc := pc, coff := 0, repi := 0, rep := none })

/-- Some active thread has its bit of p set. -/
def SomeTaken (g : Group) (p : BitVec 3) : Prop := ∃ l < 16, g.exec.getLsbD l = true ∧ (readP g p.toNat).getLsbD l = true

/-- Every active thread has its bit of p set, and there is one. -/
def AllTaken (g : Group) (p : BitVec 3) : Prop := g.exec ≠ 0 ∧ ∀ l < 16, g.exec.getLsbD l = true → (readP g p.toNat).getLsbD l = true

/-- No flag of the group is pending. -/
def NothingPending (g : Group) : Prop := ∀ f < 12, flagCount g f = 0

/-- The header names flag f for the instruction, and its count can rise (R60, R87). -/
def FlagFree (g : Group) (fs : Bool) (f : Nat) : Prop := f = flagSel g fs ∧ f < 12 ∧ flagCount g f < 63

/-- The group after a long-latency instruction counted on flag f was accepted: the flag counts one more, the destinations
are marked, and it stands at its next word (R60, R88, R89). -/
def accepted (g : Group) (f : Nat) (wv wg : List Nat) : Group := bump (stepPast (addPend (incFlag g f) wv wg))

/-- The group after its region was closed, and the machine with it (R297). -/
def regionClosed (s : State) (g : Group) : State × Group := closeRegion s g

/-- The machine after a barrier instruction of the group, accepted with its sub-operation, result name and operands (R112, R113). -/
def barrierEntered (s : State) (c : Nat) (g : Group) (sub : Nat) (d : Option Nat) (a b : DWord) (word : Word) : State :=
  let r := regionClosed (emitBins s g.wg) g
  settle { r.1 with
    nextKey := r.1.nextKey + 1
    groups := tset r.1.groups c (accepted r.2 (flagSel g false) [] d.toList)
    cmds := tset r.1.cmds r.1.nextKey { newCmd r.1 c g word (flagSel g false) with
      sub := sub, a := a, b := b, resG := d, landed := nsAddAll (tidsOf g g.alive) [] } } g.wg

/-- The result of a walk reaches every group and every engine's chiplet that asked for one of the walks that end with it: the entry that enters
the TLBs, or the fault; then requests that waited for room enter the walker (R282). -/
def walkSent (s : State) (ws : Table Walk) (victim : Nat) (en : Option TlbEntry) (fault : TrapCode) (n : Nat) : State :=
  admitWalks (ws.foldl (fun t e => walkGives t e.2 victim en fault) s) n

/-- The record of a precise trap, with the lane and the bytes from 64 on that some codes have (R393). -/
def trapRecord (s : State) (c : Nat) (g : Group) (code : Nat) (addr : DWord) (lane : Option Nat) (ext : Memory) (seq : Nat) : FaultRec :=
  { seq := seq, pc := wordAddr g, code := code, kind := 0, coff := wordOff g, repi := g.repi, lane := lane, chain := 0, addr := addr,
    va := addr.toNat, launch := g.launch, wglin := wgLin s g.wg, tidlo := tidLo g, task := (descOf s g.launch).task, ext := ext,
    ctx := some c, cmd := none, heldAt := s.clk, fw := false }

/-- The group in its slot, HELD as it is (R230). -/
def heldNow (g : Group) : Group := { g with res := .held, store := .none, walkFault := none, liveg := 0 }

/-- The outcome is the entry into a precise trap: the group is HELD as it is, one record enters the launch's queue, and nothing
else is changed (R230, R392, R393). -/
def TrapsAt (s : State) (c : Nat) (g : Group) (o : Out) (code : Nat) (addr : DWord) (lane : Option Nat) (ext : Memory) : Prop :=
  ∀ k, tget s.launches g.launch = some k → k.fq.length < 64 → (∀ w, tget s.wgs g.wg = some w → w.handler = none) →
    s.sec.snap.classes.getLsbD code = false →
    o = .next { s with
      groups := tset s.groups c (heldNow g)
      launches := tset s.launches g.launch { k with fq := k.fq ++ [trapRecord s c g code addr lane ext k.fseq], fseq := k.fseq + 1 } }

/-- The same of a trap that names no lane. -/
def Traps (s : State) (c : Nat) (g : Group) (o : Out) (code : Nat) (addr : DWord) : Prop := TrapsAt s c g o code addr none []

/-- A header that is no ILLOP: A and B are flags or 15, and not one flag (R83). -/
def LegalHeader (setA setB : BitVec 4) : Prop :=
  (setA.toNat < 12 ∨ setA.toNat = 15) ∧ (setB.toNat < 12 ∨ setB.toNat = 15) ∧ (setA = setB → setA.toNat = 15)

/-- The group at the first body word of a clause (R84, R89). -/
def inClause (g : Group) (setA setB : BitVec 4) (len : BitVec 5) : Group :=
  { g with setA := setA.toNat, setB := setB.toNat, len := if len = 0 then 32 else len.toNat, coff := 1, repi := 0, rep := none,
           pendV := 0, pendG := 0, llSeen := false }

/-- The group as a WAIT record, not yet placed (R231, R232). -/
def waitsIn (s : State) (c : Nat) (g : Group) : Group :=
  asRecord s c { g with res := .waiting, cause := .wait, arg := 0, want := .none, answered := false, since := s.clk, rep := none }

/-- The lowest spill cell of a launch that no record is in (R234). -/
def LowestCell (s : State) (l k : Nat) : Prop :=
  k < (descOf s l).spillN / 4480 ∧ k ∉ cellsUsed s l ∧ ∀ j < k, j ∈ cellsUsed s l

/-- The outcome is that group g at key c ends with the WAIT record h: in as many 64-byte blocks of the dugout as it needs; with too few free, in
the lowest free spill cell of its launch, where its bytes are written; and with no cell free, CQOV on the group as it is, with cause 0 in byte 64 (R230,
R232, R234, R393). -/
def EndsWaiting (s : State) (c : Nat) (g : Group) (o : Out) (h : Group) : Prop :=
  ∀ n, n = recordSize s c h / 64 →
    (n ≤ dugoutFree s g.core → GroupBecomes s c o { h with store := .dugout n }) ∧
    (dugoutFree s g.core < n →
      (∀ k, LowestCell s g.launch k → o = .next (commitVirt { s with groups := tset s.groups c { h with store := .spill k } } none (asidOf s g.launch)
        (cellVa s g.launch k) (recordBytes s c { h with store := .spill k }))) ∧
      ((∀ k < (descOf s g.launch).spillN / 4480, k ∈ cellsUsed s g.launch) → Traps s c g o 15 0))

/-! ## Accepting memory instructions -/

/-- The address of F-M and F-A: the base plus the index, times n when scaled (R76, R77). -/
def memAddr (g : Group) (u : Bool) (gb : BitVec 5) (ix : R6) (scaled : Bool) (n l : Nat) : DWord :=
  readG g gb.toNat + (if u then readG g ix.toNat else (readV g ix.toNat l).setWidth 64) * (if scaled then BitVec.ofNat 64 n else 1)

/-- The bytes of a width code other than 7 (R76). -/
def widthOf (w : BitVec 3) : Nat := [1, 1, 2, 2, 4, 8, 16, 16].getD w.toNat 0

/-- The v names that hold n bytes of a lane from name d on. -/
def dataNames (d n : Nat) : List Nat := if n ≤ 4 then [d] else if n = 8 then [d, d + 1] else [d, d + 1, d + 2, d + 3]

/-- The lanes that act: lane 0 stands for the group in the uniform form. -/
def acting (g : Group) (u : Bool) : List Nat := if u then [0] else lanesOf g.exec

/-- The operands of an F-M load or store of n bytes can be read and written, and the form is legal (R76, R93). -/
def MemOperands (g : Group) (u : Bool) (d : R6) (gb : BitVec 5) (ix : R6) (store ld li : Bool) (n : Nat) : Prop :=
  if u then ld = false ∧ li = false ∧ n ≠ 16 ∧ CanReadG g gb.toNat ∧ CanReadG g ix.toNat ∧
    (if store then CanReadG g d.toNat else CanWriteG g d.toNat)
  else g.exec ≠ 0 ∧ (n = 8 → d.toNat % 2 = 0) ∧ (n = 16 → d.toNat % 4 = 0) ∧ CanReadG g gb.toNat ∧ CanReadV g g.exec ix.toNat ∧
    ∀ k ∈ dataNames d.toNat n, if store then CanReadV g g.exec k else CanWriteV g k

/-- The names that F-M marks free. -/
def memMarks (d n : Nat) (ix : R6) (ld li : Bool) : List Nat := (if ld then dataNames d n else []) ++ if li then [ix.toNat] else []

/-- The n bytes a lane stores, low byte first: of g name d, or of v names from d on (R162). -/
def laneBytes (g : Group) (u : Bool) (d n l : Nat) : List Byte :=
  if u then natBytes n (readG g d).toNat
  else if n ≤ 4 then natBytes n (readV g d l).toNat
  else (dataNames d n).flatMap fun k => natBytes 4 (readV g k l).toNat

/-- The group that a long-latency instruction leaves: the flag counts one more, destinations are allocated with words of 0 and
marked, the names freed lose their registers, and the group stands at its next word (R60, R88, R89, R92, R93). -/
def Counted (g h : Group) (tag f : Nat) (wv wg freed : List Nat) : Prop :=
  h = { accepted g f wv wg with walkFault := none, v := h.v } ∧
  ∀ k < 64, h.v.getD k none = if k ∈ freed ∧ k ∉ wv then none
    else if k ∈ wv ∧ g.v.getD k none = none then some (freshReg tag) else g.v.getD k none

/-- The outcome is the acceptance of a memory instruction: one entry of the operations in flight, made from the group, with the accesses as, and
the group counted; r is the machine and the group after the region was closed, where it is (R88, R161, R297). -/
def MemAccepted (c : Nat) (r : State × Group) (o : Out) (f : MemForm) (freed : List Nat) (as : List Acc) : Prop :=
  ∃ h, o = .next { r.1 with
      nextKey := r.1.nextKey + 1
      ops := tset r.1.ops r.1.nextKey (newOp c (allocV r.2 r.1.nextKey f.wv) f as)
      groups := tset r.1.groups c h } ∧
    Counted r.2 h r.1.nextKey (flagSel r.2 f.fs) f.wv f.gd.toList freed

/-- A global access of n bytes passes its checks and goes to pa: aligned; below 2^54 in a page that the core holds the translation of, with W for
a write; or, where fab, in the fabric window (R68, R161, R278). rt is the page's RT. -/
def GoesTo (s : State) (g : Group) (wr fab : Bool) (n : Nat) (va : DWord) (pa : Nat) (rt : Bool) : Prop :=
  va.toNat % n = 0 ∧
    ((va.toNat < 2 ^ 54 ∧ ∃ w, tlbLook s g va.toNat = .pa pa rt w ∧ (wr = true → w = true)) ∨
      (fab = true ∧ 2 ^ 54 ≤ va.toNat ∧ va.toNat < 2 ^ 55 ∧ pa = va.toNat ∧ rt = false))

/-- The access not yet performed; a write to a line of the core's L1 takes effect there at once (R88, R292). -/
def globalAcc (s : State) (g : Group) (wr : Bool) (l : Nat) (va : DWord) (pa : Nat) (data : List Byte) : Acc :=
  newAcc l va.toNat pa data (wr && decide (va.toNat < 2 ^ 54) && (coreOf s g.core).l1.contains (pa / 128))

/-- The accesses that the race detector looks at: of lanes whose page has RT set, with the feature on (R299). -/
def detected (s : State) (rt : Nat → Bool) (as : List Acc) : List Acc := if featOn s 9 then as.filter fun a => rt a.lane else []

/-- The race detector finds the record of every sector touched at the core, and no conflict with the bytes touched (R163, R299). -/
def RaceFree (s : State) (g : Group) (isStore : Bool) (n : Nat) (hot : List Acc) : Prop :=
  ∀ e ∈ sectorsOf hot n, (recOf s e.1).holder = some g.core ∧ conflictOf s g.inst isStore e.1 e.2 = none

/-- The machine after the checks of an ld or st: the sectors of its detected accesses are stamped (R299). -/
def stamped (s : State) (g : Group) (isStore : Bool) (n : Nat) (hot : List Acc) : State := stampAll s g isStore (sectorsOf hot n)

/-- The line that lane l of a prefetch asks for: the address is below 2^54, and the L1 TLB holds its translation (R175). -/
def asksFor (s : State) (g : Group) (a : Nat) : Option Nat :=
  if 2 ^ 54 ≤ a then none else (tlbFind (coreOf s g.core).tlb (asidOf s g.launch) a).map fun e => (e.pa + (a - e.va)) / 128

/-- The bytes of the workgroup's scratchpad. -/
def spadBytes (s : State) (g : Group) : Nat := match tget s.wgs g.wg with
  | some w => w.spadLen
  | none => 0

/-- The lines of a scratchpad access are present. -/
def LinesHere (s : State) (g : Group) (off n : Nat) : Prop := ∀ l ∈ linesOf off n, l ∉ absentOf s g.wg

/-- The accesses of a scratchpad instruction: when every line is present they take effect in order (R164, R292). -/
def ScratchAccs (s : State) (g : Group) (n : Nat) (ls : List Nat) (off : Nat → DWord) (data : Nat → List Byte) (as : List Acc) : Prop :=
  ∃ e : Bool, (e = true ↔ ∀ l ∈ ls, LinesHere s g (off l).toNat n) ∧
    as = ls.map fun l => newAcc l (off l).toNat (off l).toNat (data l) e

/-- The operands of an atomic on n bytes can be read and written: D from aop 2 on, D + 1 too for cas; the result in D (R168). -/
def AtomOperands (g : Group) (u : Bool) (d : R6) (gb : BitVec 5) (ix : R6) (aop : Nat) (ret li : Bool) : Prop :=
  (aop = 13 → d.toNat % 2 = 0) ∧ aop < 14 ∧ CanReadG g gb.toNat ∧
  if u then li = false ∧ CanReadG g ix.toNat ∧ d.toNat < 32 ∧ (2 ≤ aop → CanReadG g d.toNat) ∧ (aop = 13 → CanReadG g (d.toNat + 1)) ∧
    (ret = true → CanWriteG g d.toNat)
  else g.exec ≠ 0 ∧ CanReadV g g.exec ix.toNat ∧ (2 ≤ aop → CanReadV g g.exec d.toNat) ∧ (aop = 13 → CanReadV g g.exec (d.toNat + 1)) ∧
    (ret = true → CanWriteV g d.toNat)

/-- The two operands of a lane: D and D + 1, of 4 bytes, or of 8 in the uniform form. -/
def atomBytes (g : Group) (u : Bool) (d l : Nat) : List Byte :=
  if u then natBytes 8 (readG g d).toNat ++ natBytes 8 (readG g (d + 1)).toNat
  else natBytes 4 (readV g d l).toNat ++ natBytes 4 (readV g (d + 1) l).toNat

/-- The group and machine after a region that closes for acquire or release (R297). -/
def maybeClosed (b : Bool) (s : State) (g : Group) : State × Group := if b then regionClosed s g else (s, g)

/-- A command of the command store, from the issuing group. -/
def CmdAccepted (c : Nat) (r : State × Group) (o : Out) (f : Nat) (freed wg : List Nat) (cmd : Cmd) : Prop :=
  ∃ h, o = .next { r.1 with nextKey := r.1.nextKey + 1, cmds := tset r.1.cmds r.1.nextKey cmd, groups := tset r.1.groups c h } ∧
    h = { accepted r.2 f [] wg with v := h.v } ∧ ∀ k < 64, h.v.getD k none = if k ∈ freed then none else r.2.v.getD k none

/-! ## Accepting engine, page, fabric and request instructions -/

/-- An F-E instruction of three sources, by its fields. -/
abbrev EWord3 := BitVec 5 → BitVec 5 → BitVec 5 → Bool → BitVec 2 → Bool → Bool → Instr

/-- The registers of an F-E word can be read and written, the header names a flag that can count, a scope stands with ACQ or REL only, the opcode's
feature is accepted, an access to other devices is of scope sys, and the command store of the core has room (R41, R60, R87, R176, R204, R302). -/
def EngineReady (s : State) (g : Group) (srcs : List Nat) (f : EForm) : Prop :=
  (∀ n ∈ srcs, CanReadG g n) ∧ (∀ n ∈ f.resG.toList, CanWriteG g n) ∧ FlagFree g f.fs (flagSel g f.fs) ∧
    (f.sc = 0 ∨ f.acq = true ∨ f.rel = true) ∧ (∀ b ∈ f.feat.toList, featOn s b = true) ∧
    (f.sys = true → f.acq = true ∨ f.rel = true → f.sc = 3) ∧ storeFull s g.core = false

/-- The outcome is the acceptance of an engine command: one entry of the command store, the flag counted and noted as an engine's where the command
acquires or releases, the region closed there; then what the instruction does as it is accepted (R88, R177, R297, R302). -/
def EngineAccepted (s : State) (c : Nat) (g : Group) (o : Out) (f : EForm) (enter : State → Nat → Cmd → State) : Prop :=
  ∃ r h, r = maybeClosed (f.acq || f.rel) s g ∧
    h = { accepted { r.2 with answered := false } (flagSel g f.fs) [] f.resG.toList with
          engFlags := if f.acq || f.rel then g.engFlags ||| BitVec.ofNat 12 (2 ^ flagSel g f.fs) else g.engFlags } ∧
    o = .next (enter { r.1 with nextKey := r.1.nextKey + 1, cmds := tset r.1.cmds r.1.nextKey (cmdOf r.1 c g f), groups := tset r.1.groups c h }
      r.1.nextKey (cmdOf r.1 c g f))

/-- The F-E word with its operands: op, sub, result name, feature, and whether scope sys is asked. -/
def eform (g : Group) (i : Instr) (op sub : Nat) (ga gb gc : Option (BitVec 5)) (res : Option (BitVec 5)) (fs : Bool) (sc : BitVec 2) (acq rel : Bool)
    (feat : Option Nat) (sys : Bool) : EForm :=
  { word := wordOf i, op := op, sub := sub, fs := fs, sc := sc.toNat, acq := acq, rel := rel, a := (ga.map fun x => readG g x.toNat).getD 0,
    b := (gb.map fun x => readG g x.toNat).getD 0, c := (gc.map fun x => readG g x.toNat).getD 0, resG := res.map BitVec.toNat, feat := feat, sys := sys }

/-- A range of the workgroup's scratchpad. -/
def InSpad (s : State) (w off n : Nat) : Prop := off + n ≤ wgSpad s w

/-- Not a fabric-window address: bit 54 is 0 (R177, R204). -/
def OffWindow (a : Nat) : Prop := a / 2 ^ 54 % 2 = 0

/-- Operand slots a and b and format word f make a product (R186, R188): a valid pair of types, dual-scale operands in even slots, and every slot held. -/
def ProductLegal (s : State) (w a b f : Nat) : Prop :=
  ∃ x y, x = f % 2 ^ 4 ∧ y = f / 2 ^ 4 % 2 ^ 4 ∧ f < 2 ^ 9 ∧
    ((x ∈ [1, 2] ∧ y ∈ [1, 2]) ∨ (x ∈ [3, 4] ∧ y ∈ [3, 4]) ∨ (x ∈ [11, 12] ∧ y ∈ [11, 12]) ∨ (x = 5 ∧ y = 5) ∨ (x = 6 ∧ y = 6)) ∧
    (x = 5 ∨ x = 6 → a % 2 = 0 ∧ b % 2 = 0 ∧ holdsSlot s w (a + 1) = true ∧ holdsSlot s w (b + 1) = true) ∧
    holdsSlot s w a = true ∧ holdsSlot s w b = true

/-- copy and copyf: opcode and sub-op (R181, R184). -/
def copyForms : List (EWord3 × Nat × Nat) := [(.copyG2s, 0x58, 0), (.copyS2g, 0x58, 1), (.copyG2o, 0x58, 2), (.copyS2o, 0x58, 3), (.copyG2g, 0x58, 4),
  (.copyXa, 0x58, 5), (.copyS2s, 0x58, 6), (.copyfG2o, 0x59, 0), (.copyfS2o, 0x59, 1)]

/-- A slice within the limits of R180, R181 and R184: source a, destination b, shape c. -/
def CopyLegal (s : State) (w op sub a b c : Nat) : Prop :=
  ∃ rows rowl stride, (if op = 0x59 then rows = c / 2 ^ 42 % 2 ^ 6 + 1 ∧ rowl = 1 ∧ stride = 16 * (c / 2 ^ 28 % 2 ^ 14)
      else rows = c / 2 ^ 40 % 2 ^ 8 + 1 ∧ rowl = c / 2 ^ 32 % 2 ^ 8 + 1 ∧ stride = c % 2 ^ 32) ∧
    ∃ fromSpad toSpad toSlot : Bool, (fromSpad = true ↔ if op = 0x59 then sub = 1 else sub = 1 ∨ sub = 3 ∨ sub = 6) ∧
      (toSpad = true ↔ op = 0x58 ∧ (sub = 0 ∨ sub = 6)) ∧ (toSlot = true ↔ op = 0x59 ∨ sub = 2 ∨ sub = 3) ∧
    stride % 16 = 0 ∧ a % 16 = 0 ∧
    (if fromSpad then a < 2 ^ 32 ∧ InSpad s w a ((rows - 1) * stride + rowl * 128) else OffWindow a) ∧
    (if toSlot then b < 2 ^ 14 ∧ b / 2 ^ 5 % 2 ^ 3 = 0 ∧ b / 2 ^ 8 % 2 ^ 6 + rows ≤ 64 ∧ rowl = 1 ∧ holdsSlot s w (b % 2 ^ 5) = true
     else b % 128 = 0 ∧ if toSpad then b < 2 ^ 32 ∧ InSpad s w b (128 * (rows * rowl)) else OffWindow b) ∧
    (op = 0x59 → (b % 2 ^ 5 = c / 2 ^ 18 % 2 ^ 5 ∨ b % 2 ^ 5 = c / 2 ^ 13 % 2 ^ 5) ∧ c / 2 ^ 23 % 2 ^ 5 < wgTiles s w ∧ ProductLegal s w (c / 2 ^ 18 % 2 ^ 5) (c / 2 ^ 13 % 2 ^ 5) (c % 2 ^ 13))

/-- accld and accst (R189). -/
def accForms : List (EWord3 × Nat × Nat) := [(.accldG, 0x5B, 0), (.accldS, 0x5B, 1), (.accstG, 0x5C, 0), (.accstS, 0x5C, 1)]

/-- Tile a, matrix at b, layout c: stride, and f32, bf16 or f16 elements, f32 only to load (R189). -/
def AccLegal (s : State) (w op sub a b c : Nat) : Prop :=
  ∃ row, row = (if c / 2 ^ 32 % 2 ^ 4 = 0 then 256 else 128) ∧ a < 32 ∧ a < wgTiles s w ∧ c < 2 ^ 36 ∧ c / 2 ^ 32 % 2 ^ 4 ≤ 2 ∧
    (op = 0x5B → c / 2 ^ 32 % 2 ^ 4 = 0) ∧ c % 2 ^ 32 % 16 = 0 ∧ row ≤ c % 2 ^ 32 ∧ b % 16 = 0 ∧
    if sub = 1 then b < 2 ^ 32 ∧ InSpad s w b (63 * (c % 2 ^ 32) + row) else OffWindow b

/-- The handle is one of the tenant's, of the current generation; p is its pool (R193). -/
def HandleOk (s : State) (tn : Nat) (h : DWord) (p : Pool) : Prop :=
  hTenant h = (handleAt s (hIdx h)).tenant ∧ hTenant h = tn ∧ hGen h = (handleAt s (hIdx h)).gen ∧ poolAt s h = some p

/-- kvgat: handle a, range b, destination c (R194, R195). -/
def GatherLegal (s : State) (w tn : Nat) (h : DWord) (b c : Nat) : Prop :=
  ∃ p ty cnt drow, HandleOk s tn h p ∧ ty = c / 2 ^ 52 % 2 ^ 4 ∧ cnt = b / 2 ^ 24 % 2 ^ 16 ∧ drow = c / 2 ^ 32 % 2 ^ 20 ∧ cnt ≠ 0 ∧ b < 2 ^ 56 ∧ c < 2 ^ 56 ∧
    drow % 16 = 0 ∧ (ty < 5 ∨ ty = 15) ∧ b / 2 ^ 40 % 2 ^ 16 < p.layers ∧ rowBytes p % 16 = 0 ∧ (isIntType p.etype = true → ty = 15) ∧
    rowIn p ty ≤ drow ∧ b % 2 ^ 24 + cnt ≤ min (handleAt s (hIdx h)).c (hBound h) ∧ c % 2 ^ 32 % 128 = 0 ∧
    InSpad s w (c % 2 ^ 32) ((cnt - 1) * drow + rowIn p ty)

/-- kvapp: handle a, position b, source c (R194, R196). -/
def AppendLegal (s : State) (w tn : Nat) (h : DWord) (b c : Nat) : Prop :=
  ∃ p ty pos, HandleOk s tn h p ∧ ty = c / 2 ^ 48 % 2 ^ 4 ∧ pos = b % 2 ^ 24 ∧ b / 2 ^ 24 % 2 ^ 8 = 0 ∧ c < 2 ^ 52 ∧ ((elemWidth ty).isSome = true ∨ ty = 15) ∧
    c / 2 ^ 32 % 2 ^ 16 < p.layers ∧ rowBytes p % 16 = 0 ∧ (handleAt s (hIdx h)).c ≤ pos ∧ pos ≤ (handleAt s (hIdx h)).w ∧ pos < hBound h ∧
    c % 2 ^ 32 % 16 = 0 ∧ InSpad s w (c % 2 ^ 32) (2 * rowIn p ty)

/-- A rank set that holds the device (R209). -/
def RanksLegal (s : State) (w : Nat) : Prop :=
  ∃ n, n = w / 2 ^ 12 % 2 ^ 12 + 1 ∧ w / 2 ^ 24 % 2 ^ 8 = 0 ∧ w % 2 ^ 12 ≤ s.fab.devId ∧ s.fab.devId < w % 2 ^ 12 + n ∧ w % 2 ^ 12 + n ≤ 2 ^ 12 ∧
    (featOn s 6 = true ∨ n = 1)

/-- fput and fget: local operand l, remote operand r, length word c (R204, R207). -/
def MoveLegal (s : State) (w : Nat) (toCatch spad : Bool) (l r c : Nat) : Prop :=
  ∃ n, n = c % 2 ^ 32 ∧ n % 32 = 0 ∧ n ≠ 0 ∧ n ≤ 2 ^ 31 ∧ l % 32 = 0 ∧
    (if toCatch then c < 2 ^ 56 ∧ c / 2 ^ 32 % 2 ^ 24 % 32 = 0 ∧ r < 2 ^ 40 else c < 2 ^ 32 ∧ r / 2 ^ 54 % 2 = 1 ∧ r % 32 = 0) ∧
    if spad then l < 2 ^ 32 ∧ InSpad s w l n else OffWindow l

/-- fput and fget: opcode, sub-op, whether the far side is a catch slot, whether the near side is the scratchpad. -/
def moveForms : List (EWord3 × Nat × Nat × Bool × Bool) := [(.fputG, 0x68, 0, false, false), (.fputS, 0x68, 1, false, true), (.fputLz, 0x68, 2, true, true),
  (.fputLzg, 0x68, 3, true, false), (.fgetG, 0x69, 0, false, false), (.fgetS, 0x69, 1, false, true)]

/-- smpl: tile word a, row map b, records c; a second tile for smpl.res (R215). -/
def SampleLegal (s : State) (w sub a b c : Nat) : Prop :=
  a / 2 ^ 5 % 2 ^ 3 = 0 ∧ a / 2 ^ 13 % 2 ^ 3 = 0 ∧ a / 2 ^ 22 % 2 ^ 10 = 0 ∧ a % 2 ^ 5 < wgTiles s w ∧
    (if sub = 2 then a / 2 ^ 8 % 2 ^ 5 < wgTiles s w else a / 2 ^ 8 % 2 ^ 5 = 0) ∧ b < 2 ^ 32 ∧ c < 2 ^ 32 ∧ b % 8 = 0 ∧ c % 16 = 0 ∧
    InSpad s w b (8 * (a / 2 ^ 16 % 2 ^ 6 + 1)) ∧ InSpad s w c (16 * (a / 2 ^ 16 % 2 ^ 6 + 1))

/-- The request word names a request of the tenant whose prompt is not still being copied, and the base die has answered (R204). The index is
the one the tenant's programs know the request by (R402; log 56). -/
def RequestOk (s : State) (g : Group) (a : Nat) : Prop :=
  g.answered = true ∧ ∃ r, tget s.reqs (reqIn s (tenantOf s g.launch) (a % 2 ^ 14) % 2 ^ 14) = some r ∧ r.tenant = tenantOf s g.launch ∧
    r.loading = false

/-! ## Commands (R36 to R40) -/

/-- A command that can be read and that passes what its row asks (R39 items 2 to 5): the alarm level is not 3; the physical
function where the row says so; TENANT 0 for a device-level row, else an open tenant bound to the queue's function; the features
locked, or a row accepted before that; the row's features on; and no reserved bit of its first two words set. -/
def Passes (s : State) (c : HostCmd) (pf device early : Bool) (feats : List Nat) : Prop :=
  canRead s c.fn c.q = true ∧ alarmLevel s ≠ 3 ∧ (pf = true → c.fn = 0) ∧
  (device = true → tnOf c = 0) ∧ (device = false → ∃ x, tget s.tenants (tnOf c) = some x ∧ x.fn = c.fn ∧ x.closing = none) ∧
  (early = true ∨ s.locked = true) ∧ (∀ b ∈ feats, featOn s b = true) ∧ c.rsv = false ∧ c.tenant.toNat < 4096

/-- Argument words that a row does not name are 0 (R39 item 6). -/
def Unused (l : List DWord) : Prop := ∀ w ∈ l, w = 0

/-- The state once the command has been read: the head of its queue has moved on (R37). -/
def readOn (s : State) (c : HostCmd) : State := advanceHead s c.fn c.q

/-- A command is read, has the effect t, and posts nothing yet; the last command of a doorbell write lets the requests that came
with the write enter, unless a REQ_ADMIT of the queue still reads its prompt (R10). -/
def Deferred (s : State) (c : HostCmd) (o : Host.Outcome State Fault Refusal) (t : State) : Prop :=
  o = .next (if bellDone (qpOf s c.fn c.q) = true ∧ copiesPrompt t c.fn c.q = false then ringOut t c.fn c.q else t)

/-- A command is read, has the effect t, and then completes with a status and a RESULT. -/
def Completes (s : State) (c : HostCmd) (o : Host.Outcome State Fault Refusal) (t : State) (status : Nat) (res : DWord) : Prop :=
  Deferred s c o (complete t (owedTo s c) status res)

/-- A command fails: it completes with a status and changes nothing else (R39). -/
def Fails (s : State) (c : HostCmd) (o : Host.Outcome State Fault Refusal) (status : Nat) : Prop :=
  Completes s c o (readOn s c) status 0

/-- A little-endian field of bytes. -/
def leAt (m : List Byte) (o n : Nat) : Nat := leNat ((m.drop o).take n)

/-- Bytes of a patch that its header announces: 64 and the length in bytes 8 to 11 (R50). -/
def patchLen (m : List Byte) : Nat := 64 + leAt m 8 4

/-- A correctly signed patch for this ROM, newer than what the device keeps (R50). -/
def PatchGood (s : State) (m : List Byte) : Prop :=
  patchLen m ≤ m.length ∧ Config.patchSignatureOk (m.take (patchLen m)) (m.drop (patchLen m)) = true ∧ (∀ b ∈ (m.take 64).drop 12, b = 0) ∧
    leAt m 0 4 = s.fixed.romVer ∧ s.fixed.minPatch < leAt m 4 4

/-- What a row of the command table fixes (R39, R41): PF only, device-level, accepted before FEAT_NEGOTIATE, and the features needed. -/
structure CmdRow where
  pf     : HostCmd → Bool
  device : HostCmd → Bool
  early  : Bool
  feats  : HostCmd → List Nat

/-- Rows for commands of the device, of a tenant through the physical function, and of a tenant. -/
def devRow (early : Bool) (feats : HostCmd → List Nat) : CmdRow := ⟨fun _ => true, fun _ => true, early, feats⟩
def pfRow (feats : List Nat) : CmdRow := ⟨fun _ => true, fun _ => false, false, fun _ => feats⟩
def tenantRow (feats : HostCmd → List Nat) : CmdRow := ⟨fun _ => false, fun _ => false, false, feats⟩

/-- The features that fields of SNAP_ARM, TENANT_OPEN, MEM_MAP and KV_EXPORT need (R41). -/
def snapFeats (c : HostCmd) : List Nat := if nbit c.a0.toNat 4 then [12] else []
def openFeats (c : HostCmd) : List Nat :=
  (if openSlices c ≠ 0 then [3] else []) ++ (if openConfid c then [11] else []) ++ if openFn c ≠ 0 then [13] else []
def mapFeats (c : HostCmd) : List Nat := if nbit c.a2.toNat 2 && !nbit c.a2.toNat 6 then [2] else []
def exportFeats (c : HostCmd) : List Nat := if nbit c.a1.toNat 63 then [8] else []

/-- The command table, but for LAUNCH. -/
def HasRow (mk : HostCmd → Instr) (e : CmdRow) : Prop :=
  (mk, e) ∈ [((Instr.devIdent : HostCmd → Instr), (⟨fun _ => false, fun _ => true, true, fun _ => []⟩ : CmdRow)),
    (.featNegotiate, devRow true fun _ => []), (.fwPatch, devRow true fun _ => []), (.attest, devRow true fun _ => []),
    (.alarmStatus, devRow true fun _ => []), (.alarmStatusClear, devRow true fun _ => []), (.keyLoad, devRow false fun _ => []),
    (.snapRead, devRow false fun _ => []), (.chipletReset, devRow false fun _ => []), (.snapArm, devRow false snapFeats),
    (.telemetry, ⟨fun c => decide (tnOf c = 0), fun c => decide (tnOf c = 0), true, fun _ => []⟩),
    (.tenantOpen, devRow false openFeats), (.ctxImport, devRow false fun _ => [10]), (.fabricRoutesLoad, devRow false fun _ => [6]),
    (.fabricRoutesFlip, devRow false fun _ => [6]), (.fabricRoutesRetire, devRow false fun _ => [6])] ++
    [(.tenantClose, pfRow []), (.preempt, pfRow [10]), (.resume, pfRow [10]), (.ctxExport, pfRow [10]), (.fabricRoutesExport, pfRow [6]),
    (.memMap, tenantRow mapFeats), (.memMapUnmap, tenantRow mapFeats), (.imageLoad, tenantRow fun _ => []), (.imageLoadRom, tenantRow fun _ => []),
    (.poolCreate, tenantRow fun _ => [1]), (.modelPlan, tenantRow fun _ => [1]), (.modelPlanRom, tenantRow fun _ => [1]),
    (.reqAdmit, tenantRow fun _ => [4]), (.reqCancel, tenantRow fun _ => [4]), (.reqFork, tenantRow fun _ => [4]),
    (.reqQuery, tenantRow fun _ => [4]), (.reqQueryRelease, tenantRow fun _ => [4]), (.graphSubmit, tenantRow fun _ => []),
    (.kvImport, tenantRow fun _ => []), (.kvExport, tenantRow exportFeats)]

/-- The first of R39 items 2 to 6 that a command of a row fails; for item 6, the reserved bits of its first two words. -/
def firstFailure (s : State) (c : HostCmd) (e : CmdRow) : Option Nat :=
  if alarmLevel s = 3 then some stAlarm
  else if e.pf c = true ∧ c.fn ≠ 0 then some stBadtenant
  else if e.device c = true ∧ tnOf c ≠ 0 then some stBadtenant
  else if e.device c = false ∧ tenantHere s (tnOf c) c.fn = false then some stBadtenant
  else if s.locked = false ∧ e.early = false then some stNotready
  else if (e.feats c).any (fun b => !featOn s b) = true then some stNofeat
  else if c.rsv = true ∨ 4096 ≤ c.tenant.toNat then some stBadfield
  else none

/-! ## Packets (R369 to R378) -/

/-- The event in which a packet of each type arrives at its destination, but for the three that are for a catch slot. -/
def IsArrival (mk : Packet → Nat → Instr) (type : Nat) : Prop :=
  (mk, type) ∈ [((Instr.writePacket : Packet → Nat → Instr), 0), (.readPacket, 2), (.readdataPacket, 3), (.atomicPacket, 4), (.atomreplyPacket, 5),
    (.ackPacket, 6), (.nackPacket, 7), (.resvreplyPacket, 9), (.tornPacket, 10), (.reducePacket, 12), (.redresultPacket, 13), (.kvxferPacket, 14)]

/-- A packet of a type is here, for this device. -/
def Here (s : State) (type : Nat) (p : Packet) (port : Nat) : Prop := p.type = type ∧ p.dst = s.fab.devId ∧ arrives s p port = true

/-- It is acted on: its tag verifies, and its number is in the window and new (R373). -/
def Fresh (s : State) (type : Nat) (p : Packet) (port : Nat) : Prop :=
  Here s type p port ∧ s.sec.zeroised = false ∧ verified s p = true ∧ (pairOf s p.src).top ≤ p.seq + 65536 ∧ tget (pairOf s p.src).got p.seq = none

/-- A packet has the effect t, its number and its reply are noted, and the reply goes back. -/
def Received (p : Packet) (o : Host.Outcome State Fault Refusal) (t : State) (r : Option Reply) : Prop :=
  o = .next (match r with
    | some y => sendBack (noteSeq t p r) p y
    | none => noteSeq t p r)

/-- The chiplet of the core that a packet's catch slot is on runs. -/
def SlotRuns (s : State) (p : Packet) : Prop := ∃ k, s.chips[afCore p / 64]? = some k ∧ k.st = .active

/-- A request of this device is still awaited: of a memory instruction or of a command. -/
def Awaits (u : State) (p : Packet) (seq type : Nat) (x : Sent) (k : Nat) : Prop := sentFor u p.src seq type = some x ∧ x.cmd = some k


/-! ## Forms of a vector or uniform word that are checked alike -/

/-- A form of F-R: the word by U, D, A, B, LA, LB and the immediate bit; whether it has B, whether B may be an immediate, whether D is read, whether
D is a register (else a predicate), and the MOOD types it takes. -/
structure FRForm where
  word : Bool → R6 → R6 → R6 → Bool → Bool → Bool → Instr
  two  : Bool
  imm  : Bool
  rd   : Bool
  reg  : Bool
  ok   : Nat → Prop

/-- The integer, field, floating, comparison, selection and move instructions of R122 to R134, R143 to R149, R153, R154 and R159. -/
def frForms (pr : BitVec 3) : List FRForm :=
  intThree.map (fun e => ⟨e.1, true, true, e.2.1, true, fun _ => True⟩) ++
  intField.map (fun e => ⟨fun u d a b la lb _ => e.1 u d a b la lb, true, false, e.2.1, true, fun _ => True⟩) ++
  intOne.map (fun e => ⟨fun u d a _ la _ _ => e.1 u d a la, false, false, false, true, fun _ => True⟩) ++
  floatThree.map (fun e => ⟨fun u d a b la lb _ => e.1 u d a b la lb, true, false, e.2.1, true, fun t => t ≤ 2⟩) ++
  floatOne.map (fun e => ⟨fun u d a _ la _ _ => e.1 u d a la, false, false, false, true, fun t => t ≤ 2⟩) ++
  intRels.map (fun e => ⟨e.1, true, true, false, false, fun _ => True⟩) ++
  floatRels.map (fun e => ⟨fun u d a b la lb _ => e.1 u d a b la lb, true, false, false, false, fun t => t ≤ 2⟩) ++
  [⟨fun u d a b la lb im => .fscal u d a b la lb im, true, true, false, true, fun t => t ≤ 2⟩,
   ⟨fun u d a b la lb _ => .dot4 u d a b la lb, true, false, true, true, fun t => t = 11 ∨ t = 12⟩,
   ⟨fun u d a b la lb im => .sel u d a b la lb im pr, true, true, false, true, fun _ => True⟩]

/-- The names that a form reads, and those that a result may be owed to for PEND. -/
def FRForm.reads (e : FRForm) (d a b : R6) (im : Bool) : List R6 :=
  a :: ((if e.two && !im then [b] else []) ++ if e.rd then [d] else [])
def FRForm.names (e : FRForm) (d a b : R6) (im : Bool) : List R6 := e.reads d a b im ++ if e.reg then [d] else []

/-- The fields fit the form: an immediate only where it has one, and a predicate below 8. -/
def FRForm.Fits (e : FRForm) (d : R6) (im : Bool) : Prop := (im = true → e.imm = true) ∧ (e.reg = false → d.toNat < 8)

/-- The outcome is a next state in which only the names freed lose their registers, and the group stands at its next word. -/
def FreesOnly (s : State) (c : Nat) (g : Group) (o : Out) (freed : List Nat) : Prop :=
  ∃ h, GroupBecomes s c o h ∧ h = { bump (stepPast g) with v := h.v } ∧
    ∀ k < 64, h.v.getD k none = if freed.contains k then none else g.v.getD k none

end Sys2Proof.Claims
end

