-- ==== Sys2Proof/Certificates/Slice0/Obligations.lean ====
section
/-! DEFINITION. The statements about the model, for the provers: instructions, then the engines, commands and events, then decoding, the step and the reset. -/

open Sys2Proof Sys2Proof.Machine Sys2Proof.Claims

/-- R122 to R130, R134: each integer, bit and move instruction writes its 32-bit result to the active lanes of D, frees the
marked names, and changes nothing else. -/
def Obligations.IntegerVector : Prop :=
  (∀ e ∈ intThree, ∀ s c g d a b la lb im, Issues s c g → VecOperands s g d a b lb im e.2.1 →
    VecResult s c g (exec (e.1 false d a b la lb im) s) d.toNat (marked la a lb b) g.exec fun l =>
      e.2.2 g.mood 32 (readV g a.toNat l) (laneB g b im l) (readV g d.toNat l)) ∧
  (∀ e ∈ intField, ∀ s c g d a b la lb, Issues s c g → VecOperands s g d a b lb false e.2.1 →
    VecResult s c g (exec (e.1 false d a b la lb) s) d.toNat (marked la a lb b) g.exec fun l =>
      e.2.2 g.mood 32 (readV g a.toNat l) (readV g b.toNat l) (readV g d.toNat l)) ∧
  ∀ e ∈ intOne, ∀ s c g d a la, Issues s c g → VecOperands s g d a 0 false true false →
    VecResult s c g (exec (e.1 false d a la) s) d.toNat (marked la a false 0) g.exec fun l => e.2 g.mood 32 (readV g a.toNat l)

/-- The same in the uniform form, once at width 64. -/
def Obligations.IntegerUniform : Prop :=
  (∀ e ∈ intThree, ∀ s c g d a b la lb im, Issues s c g → UniOperands g d a b la lb im e.2.1 →
    UniResult s c g (exec (e.1 true d a b la lb im) s) d.toNat []
      (e.2.2 g.mood 64 (readG g a.toNat) (uniB g b im) (readG g d.toNat))) ∧
  (∀ e ∈ intField, ∀ s c g d a b la lb, Issues s c g → UniOperands g d a b la lb false e.2.1 →
    UniResult s c g (exec (e.1 true d a b la lb) s) d.toNat []
      (e.2.2 g.mood 64 (readG g a.toNat) (readG g b.toNat) (readG g d.toNat))) ∧
  ∀ e ∈ intOne, ∀ s c g d a la, Issues s c g → UniOperands g d a 0 la false true false →
    UniResult s c g (exec (e.1 true d a la) s) d.toNat [] (e.2 g.mood 64 (readG g a.toNat))

/-- R143 to R149, R153, R154, R159: with a floating MOOD type (8-bit integers for dot4) each instruction writes the rounded result
to the active lanes of D, frees the marked names, and changes nothing else. -/
def Obligations.FloatVector : Prop :=
  (∀ e ∈ floatThree, ∀ s c g d a b la lb, Issues s c g → VecOperands s g d a b lb false e.2.1 → moodType g.mood ≤ 2 →
    VecResult s c g (exec (e.1 false d a b la lb) s) d.toNat (marked la a lb b) g.exec fun l =>
      e.2.2 g.mood (readV g a.toNat l) (readV g b.toNat l) (readV g d.toNat l)) ∧
  (∀ e ∈ floatOne, ∀ s c g d a la, Issues s c g → VecOperands s g d a 0 false true false → moodType g.mood ≤ 2 →
    VecResult s c g (exec (e.1 false d a la) s) d.toNat (marked la a false 0) g.exec fun l => e.2 g.mood (readV g a.toNat l)) ∧
  (∀ s c g d a b la lb im, Issues s c g → VecOperands s g d a b lb im false → moodType g.mood ≤ 2 →
    VecResult s c g (exec (.fscal false d a b la lb im) s) d.toNat (marked la a lb b) g.exec fun l =>
      scaled g.mood (readV g a.toNat l) (laneB g b im l)) ∧
  ∀ s c g d a b la lb, Issues s c g → VecOperands s g d a b lb false true → moodType g.mood = 11 ∨ moodType g.mood = 12 →
    VecResult s c g (exec (.dot4 false d a b la lb) s) d.toNat (marked la a lb b) g.exec fun l =>
      dot4Val g.mood (readV g a.toNat l) (readV g b.toNat l) (readV g d.toNat l)

/-- The same in the uniform form: on bits [31:0], the upper half of the result being 0; dot4 at width 64. -/
def Obligations.FloatUniform : Prop :=
  (∀ e ∈ floatThree, ∀ s c g d a b la lb, Issues s c g → UniOperands g d a b la lb false e.2.1 → moodType g.mood ≤ 2 →
    UniResult s c g (exec (e.1 true d a b la lb) s) d.toNat []
      ((e.2.2 g.mood ((readG g a.toNat).setWidth 32) ((readG g b.toNat).setWidth 32) ((readG g d.toNat).setWidth 32)).setWidth 64)) ∧
  (∀ e ∈ floatOne, ∀ s c g d a la, Issues s c g → UniOperands g d a 0 la false true false → moodType g.mood ≤ 2 →
    UniResult s c g (exec (e.1 true d a la) s) d.toNat [] ((e.2 g.mood ((readG g a.toNat).setWidth 32)).setWidth 64)) ∧
  (∀ s c g d a b la lb im, Issues s c g → UniOperands g d a b la lb im false → moodType g.mood ≤ 2 →
    UniResult s c g (exec (.fscal true d a b la lb im) s) d.toNat []
      ((scaled g.mood ((readG g a.toNat).setWidth 32) ((uniB g b im).setWidth 32)).setWidth 64)) ∧
  ∀ s c g d a b la lb, Issues s c g → UniOperands g d a b la lb false true → moodType g.mood = 11 ∨ moodType g.mood = 12 →
    UniResult s c g (exec (.dot4 true d a b la lb) s) d.toNat []
      (dot4Val g.mood (readG g a.toNat) (readG g b.toNat) (readG g d.toNat))

/-- R131, R147: a comparison writes the verdict of each active lane to its bit of the predicate that the D field numbers. -/
def Obligations.CompareVector : Prop :=
  (∀ e ∈ intRels, ∀ s c g d a b la lb im, Issues s c g → VecReads g a b lb im → d.toNat < 8 →
    LaneVerdict s c g (exec (e.1 false d a b la lb im) s) d.toNat (marked la a lb b) fun l =>
      e.2 (ival g.mood (readV g a.toNat l)) (ival g.mood (laneB g b im l))) ∧
  ∀ e ∈ floatRels, ∀ s c g d a b la lb, Issues s c g → VecReads g a b lb false → d.toNat < 8 → moodType g.mood ≤ 2 →
    LaneVerdict s c g (exec (e.1 false d a b la lb) s) d.toNat (marked la a lb b) fun l =>
      e.2 (fcmpIn g.mood (readV g a.toNat l)) (fcmpIn g.mood (readV g b.toNat l))

/-- R131, R147: the uniform form writes all 16 bits of the predicate alike. -/
def Obligations.CompareUniform : Prop :=
  (∀ e ∈ intRels, ∀ s c g d a b im, Issues s c g → CanReadG g a.toNat → (im = false → CanReadG g b.toNat) → d.toNat < 8 →
    UniVerdict s c g (exec (e.1 true d a b false false im) s) d.toNat
      (e.2 (ival g.mood (readG g a.toNat)) (ival g.mood (uniB g b im)))) ∧
  ∀ e ∈ floatRels, ∀ s c g d a b, Issues s c g → CanReadG g a.toNat → CanReadG g b.toNat → d.toNat < 8 → moodType g.mood ≤ 2 →
    UniVerdict s c g (exec (e.1 true d a b false false) s) d.toNat
      (e.2 (fcmpIn g.mood ((readG g a.toNat).setWidth 32)) (fcmpIn g.mood ((readG g b.toNat).setWidth 32)))

/-- R132, R134 to R136, R158: selects, moves of specials and of g registers, constants, addresses and format words, in the vector form. -/
def Obligations.MovesVector : Prop :=
  (∀ s c g d a b la lb im pr, Issues s c g → VecOperands s g d a b lb im false →
    VecResult s c g (exec (.sel false d a b la lb im pr) s) d.toNat (marked la a lb b) g.exec fun l =>
      if (readP g pr.toNat).getLsbD l then readV g a.toNat l else laneB g b im l) ∧
  (∀ s c g d (a : R6), Issues s c g → CanWriteV g d.toNat → HasRoom s g d.toNat → g.exec ≠ 0 → a.toNat < 10 →
    VecResult s c g (exec (.movSpecial false d a) s) d.toNat [] g.exec fun l =>
      BitVec.ofNat 32 (if a.toNat < 3 then threadSpecial g a.toNat l else groupSpecial s g a.toNat)) ∧
  (∀ s c g d a, Issues s c g → CanReadG g a.toNat → CanWriteV g d.toNat → HasRoom s g d.toNat → g.exec ≠ 0 →
    VecResult s c g (exec (.movG d a) s) d.toNat [] g.exec fun _ => (readG g a.toNat).setWidth 32) ∧
  (∀ s c g d imm, Issues s c g → CanWriteV g d.toNat → HasRoom s g d.toNat → g.exec ≠ 0 →
    VecResult s c g (exec (.ldi false d imm) s) d.toNat [] g.exec fun _ => imm.signExtend 32) ∧
  (∀ s c g d imm, Issues s c g → CanReadV g g.exec d.toNat → g.exec ≠ 0 →
    VecResult s c g (exec (.khi false d imm) s) d.toNat [] g.exec fun l => readV g d.toNat l <<< 18 + imm.setWidth 32) ∧
  ∀ s c g d (b : R6), Issues s c g → CanWriteV g d.toNat → HasRoom s g d.toNat → g.exec ≠ 0 → b.toNat < 32 →
    VecResult s c g (exec (.fmtw false d b) s) d.toNat [] g.exec fun _ =>
      BitVec.ofNat 32 (256 * b.toNat + 16 * moodSrc g.mood + moodType g.mood)

/-- The same in the uniform form; thread specials have none. -/
def Obligations.MovesUniform : Prop :=
  (∀ s c g d a b im pr, Issues s c g → UniOperands g d a b false false im false →
    UniResult s c g (exec (.sel true d a b false false im pr) s) d.toNat []
      (if readP g pr.toNat = 0 then uniB g b im else readG g a.toNat)) ∧
  (∀ s c g d (a : R6), Issues s c g → CanWriteG g d.toNat → 3 ≤ a.toNat → a.toNat < 10 →
    UniResult s c g (exec (.movSpecial true d a) s) d.toNat [] (BitVec.ofNat 64 (groupSpecial s g a.toNat))) ∧
  (∀ s c g d imm, Issues s c g → CanWriteG g d.toNat →
    UniResult s c g (exec (.ldi true d imm) s) d.toNat [] (imm.signExtend 64)) ∧
  (∀ s c g d imm, Issues s c g → CanReadG g d.toNat →
    UniResult s c g (exec (.khi true d imm) s) d.toNat [] (readG g d.toNat <<< 18 + imm.setWidth 64)) ∧
  (∀ s c g d gb ix sx (w : BitVec 3), Issues s c g → CanReadG g gb.toNat → CanReadG g ix.toNat → CanWriteG g d.toNat →
    w ≠ 7 → (sx = false → w = 0) →
    UniResult s c g (exec (.lea true d gb ix false sx w) s) d.toNat []
      (readG g gb.toNat + readG g ix.toNat * BitVec.ofNat 64 (if sx then widthBytes w else 1))) ∧
  ∀ s c g d (b : R6), Issues s c g → CanWriteG g d.toNat → b.toNat < 32 →
    UniResult s c g (exec (.fmtw true d b) s) d.toNat [] (BitVec.ofNat 64 (256 * b.toNat + 16 * moodSrc g.mood + moodType g.mood))

/-- R133: plog writes all 16 bits of a predicate from two predicates, or from the low 16 bits of a g register; plog.tog moves a
predicate to a g register. EXEC does not matter. A word of plog with the wrong U or with an unused field set decodes to no instruction. -/
def Obligations.PredicateLogic : Prop :=
  (∀ e ∈ predOps, ∀ s c g (d a b : R6), Issues s c g → d.toNat < 8 → a.toNat < 8 → b.toNat < 8 →
    PredResult s c g (exec (e.1 d a b) s) d.toNat [] (e.2 (readP g a.toNat) (readP g b.toNat))) ∧
  (∀ s c g (d a : R6), Issues s c g → d.toNat < 8 → CanReadG g a.toNat →
    PredResult s c g (exec (.plogFromg d a) s) d.toNat [] ((readG g a.toNat).setWidth 16)) ∧
  (∀ s c g (d a : R6), Issues s c g → CanWriteG g d.toNat → a.toNat < 8 →
    UniResult s c g (exec (.plogTog d a) s) d.toNat [] ((readP g a.toNat).setWidth 64)) ∧
  ∀ w, fld w 25 7 = 0x27 → (decodeWord w).isSome = true →
    fld w 3 3 = 0 ∧ fld w 0 3 ≤ 6 ∧ (fld w 24 1 = 1 ↔ 5 ≤ fld w 0 3) ∧ (4 ≤ fld w 0 3 → fld w 6 6 = 0)

/-- R104 to R106, R118: nop, the writes of EXEC, which stay within the alive mask, and the writes of MOOD. -/
def Obligations.MaskAndMood : Prop :=
  ∀ s c g, Issues s c g →
    GroupBecomes s c (exec .nop s) (bump (stepPast g)) ∧
    (∀ a : R6, a.toNat < 8 →
      GroupBecomes s c (exec (.maskSet a) s) { bump (stepPast g) with exec := readP g a.toNat &&& g.alive } ∧
      GroupBecomes s c (exec (.maskAnd a) s) { bump (stepPast g) with exec := g.exec &&& readP g a.toNat &&& g.alive } ∧
      GroupBecomes s c (exec (.maskOr a) s) { bump (stepPast g) with exec := (g.exec ||| readP g a.toNat) &&& g.alive }) ∧
    (∀ a : R6, CanReadG g a.toNat →
      GroupBecomes s c (exec (.maskG a) s) { bump (stepPast g) with exec := (readG g a.toNat).setWidth 16 &&& g.alive }) ∧
    GroupBecomes s c (exec .maskAlive s) { bump (stepPast g) with exec := g.alive } ∧
    (∀ d : R6, CanWriteG g d.toNat → UniResult s c g (exec (.maskRd d) s) d.toNat [] (g.exec.setWidth 64)) ∧
    (∀ imm : BitVec 18, LegalMood (moodOfImm imm) →
      GroupBecomes s c (exec (.mood false 0 imm) s) { bump (stepPast g) with mood := moodOfImm imm } ∧
      ∀ d : R6, CanWriteG g d.toNat → ∃ h, GroupBecomes s c (exec (.mood true d imm) s) h ∧
        h = { bump (stepPast g) with mood := moodOfImm imm, g := h.g, gpoison := h.gpoison } ∧
        ∀ k < 32, readG h k = if k = d.toNat ∧ d.toNat ≠ 0 then g.mood.setWidth 64 else readG g k) ∧
    ∀ a : R6, CanReadG g a.toNat → (readG g a.toNat).toNat < 2 ^ 32 → LegalMood ((readG g a.toNat).setWidth 32) →
      GroupBecomes s c (exec (.sysCsrw a 0) s) { bump (stepPast g) with mood := (readG g a.toNat).setWidth 32 }

/-- R116, R117, R119 to R121: sys reads a CSR, the clock, the FLAGERR bits, which it clears, or the locality of an address; sys.snap
asserts source 0 of the common trigger. That PROG gives the count before the read counts itself is the model's reading (log 34). -/
def Obligations.SystemReads : Prop :=
  ∀ s c g, Issues s c g →
    (∀ d b : R6, CanWriteG g d.toNat → ∀ e ∈ csrReads s g, b.toNat = e.1 → UniResult s c g (exec (.sysCsrr d b) s) d.toNat [] e.2) ∧
    (∀ d : R6, CanWriteG g d.toNat → UniResult s c g (exec (.sysClk d) s) d.toNat [] (BitVec.ofNat 64 s.clk)) ∧
    (∀ d : R6, CanWriteG g d.toNat → ∃ h, GroupBecomes s c (exec (.sysFlagerr d) s) h ∧
      h = { bump (stepPast g) with g := h.g, gpoison := h.gpoison, flags := g.flags.map fun f => { f with err := false } } ∧
      ∀ k < 32, readG h k = if k = d.toNat ∧ d.toNat ≠ 0 then BitVec.ofNat 64 (errBits g) else readG g k) ∧
    (∀ d a : R6, CanWriteG g d.toNat → CanReadG g a.toNat →
      (2 ^ 55 ≤ (readG g a.toNat).toNat → UniResult s c g (exec (.sysLocq d a) s) d.toNat [] 0) ∧
      (2 ^ 54 ≤ (readG g a.toNat).toNat → (readG g a.toNat).toNat < 2 ^ 55 →
        UniResult s c g (exec (.sysLocq d a) s) d.toNat [] 0x20000) ∧
      ((readG g a.toNat).toNat < 2 ^ 54 →
        (∀ t, tlbLook s g (readG g a.toNat).toNat = .walkFault t →
          UniResult s c { g with walkFault := none } (exec (.sysLocq d a) s) d.toNat [] 0) ∧
        ∀ pa rt w, tlbLook s g (readG g a.toNat).toNat = .pa pa rt w →
          UniResult s c { g with walkFault := none } (exec (.sysLocq d a) s) d.toNat [] (localityWord g.core pa))) ∧
    (s.sec.snap.armed = false → s.sec.snap.latched = none → GroupBecomes s c (exec .sysSnap s) (bump (stepPast g))) ∧
    (s.sec.snap.armed = true → s.sec.snap.mask.getLsbD 0 = true → exec .sysSnap s = .next { s with
      sec := { s.sec with snap := { s.sec.snap with armed := false, latched := some { clk := s.clk, src := 0, counters := counters s, active := s.chips.toList.map fun k => decide (k.st = .active) } } }
      groups := tset s.groups c (bump (stepPast g)) })

/-- R138, R140 to R142: the cross-lane instructions with a vector result write every member lane of D. That a minimum or maximum of a single lane passes its value
through, unflushed and a NaN as it is, is the model's reading of R146 (log 39). -/
def Obligations.CrossLane : Prop :=
  (∀ e ∈ shuffles, ∀ s c g (d a b : R6) la lb im, Issues s c g → Members g → memberMask g ≠ 0 → (im = true → lb = false) →
    CanReadV g (memberMask g) a.toNat → (im = false → CanReadV g (memberMask g) b.toNat) → CanWriteV g d.toNat → RoomFor s g [d.toNat] →
    VecResults s c g (exec (e.1 d a b la lb im) s) [(d.toNat, fun l =>
      let j := e.2 l (laneB g b im l)
      if 0 ≤ j ∧ j < 16 ∧ (memberMask g).getLsbD j.toNat = true then readV g a.toNat j.toNat else readV g a.toNat l)]
      (marked la a lb b) (memberMask g)) ∧
  (∀ e ∈ laneFolds, ∀ s c g (d a : R6) la, Issues s c g → Members g → memberMask g ≠ 0 → CanReadV g (memberMask g) a.toNat →
    CanWriteV g d.toNat → RoomFor s g [d.toNat] → e.2.2.1 (moodType g.mood) →
    VecResults s c g (exec (e.1 d a la) s) [(d.toNat, fun _ => e.2.2.2 g.mood (memberVals g a (memberMask g)))] (marked la a false 0) (memberMask g) ∧
    VecResults s c g (exec (e.2.1 d a la) s) [(d.toNat, fun l => e.2.2.2 g.mood (memberVals g a (memberMask g &&& lowLanes (l + 1))))]
      (marked la a false 0) (memberMask g)) ∧
  (∀ s c g (d a : R6) la, Issues s c g → Members g → memberMask g ≠ 0 → CanReadV g (memberMask g) a.toNat → CanWriteV g d.toNat →
    RoomFor s g [d.toNat] →
    (moodType g.mood ≤ 2 →
      VecResults s c g (exec (.lredFadd d a la) s) [(d.toNat, fun _ => treeSum (faddWord g.mood)
        (lanes16.map fun l => if (memberMask g).getLsbD l then some (readV g a.toNat l) else none))] (marked la a false 0) (memberMask g) ∧
      VecResults s c g (exec (.lscanFadd d a la) s) [(d.toNat, fun l => foldVals (faddWord g.mood)
        (memberVals g a (memberMask g &&& lowLanes (l + 1))))] (marked la a false 0) (memberMask g)) ∧
    (moodType g.mood ≠ 1 → moodType g.mood ≠ 2 →
      VecResults s c g (exec (.lredAmax d a la) s) [(d.toNat, fun _ => BitVec.ofNat 32 (amaxLane g a (memberMask g)))]
        (marked la a false 0) (memberMask g)) ∧
    VecResults s c g (exec (.bcastFirst d a la) s) [(d.toNat, fun _ => readV g a.toNat (firstLane (memberMask g)))]
      (marked la a false 0) (memberMask g) ∧
    ∀ b : R6, b.toNat < 16 → (memberMask g).getLsbD b.toNat = true →
      VecResults s c g (exec (.bcast d a b la) s) [(d.toNat, fun _ => readV g a.toNat b.toNat)] (marked la a false 0) (memberMask g))

/-- R139, R142: votes on a predicate or on the A values of the members, and the broadcasts to a g register. -/
def Obligations.Votes : Prop :=
  ∀ s c g, Issues s c g → Members g →
    (∀ d a : R6, d.toNat < 8 → a.toNat < 8 →
      MemberVerdict s c g (exec (.voteAny d a) s) d.toNat [] (∃ l < 16, (memberMask g).getLsbD l = true ∧ (readP g a.toNat).getLsbD l = true) ∧
      MemberVerdict s c g (exec (.voteAll d a) s) d.toNat []
        (memberMask g ≠ 0 ∧ ∀ l < 16, (memberMask g).getLsbD l = true → (readP g a.toNat).getLsbD l = true)) ∧
    (∀ d a : R6, CanWriteG g d.toNat → a.toNat < 8 →
      UniResult s c g (exec (.voteBal d a) s) d.toNat [] ((readP g a.toNat &&& memberMask g).setWidth 64)) ∧
    (∀ (d a : R6) la, d.toNat < 8 → CanReadV g (memberMask g) a.toNat →
      MemberVerdict s c g (exec (.voteEq d a la) s) d.toNat (marked la a false 0)
        (∀ l < 16, ∀ k < 16, (memberMask g).getLsbD l = true → (memberMask g).getLsbD k = true → readV g a.toNat l = readV g a.toNat k)) ∧
    ∀ (d a : R6) la, CanWriteG g d.toNat → CanReadV g (memberMask g) a.toNat →
      UniResult s c g (exec (.bcastFirstg d a la) s) d.toNat (marked la a false 0)
        (if memberMask g = 0 then 0 else (readV g a.toNat (firstLane (memberMask g))).setWidth 64) ∧
      ∀ b : R6, b.toNat < 16 → (memberMask g).getLsbD b.toNat = true →
        UniResult s c g (exec (.bcastG d a b la) s) d.toNat (marked la a false 0) ((readV g a.toNat b.toNat).setWidth 64)

/-- R136, R151, R155 to R157, R205, R206: address pairs, conversion, the block transforms and packings, and random words. -/
def Obligations.FormatResults : Prop :=
  (∀ s c g (d : R6) gb ix li sx (w : BitVec 3), Issues s c g → CanReadG g gb.toNat → CanReadV g g.exec ix.toNat → d.toNat % 2 = 0 →
    CanWriteV g d.toNat → CanWriteV g (d.toNat + 1) → RoomFor s g [d.toNat, d.toNat + 1] → g.exec ≠ 0 → w ≠ 7 → (sx = false → w = 0) →
    VecResults s c g (exec (.lea false d gb ix li sx w) s)
      [(d.toNat, fun l => (readG g gb.toNat + (readV g ix.toNat l).setWidth 64 * BitVec.ofNat 64 (if sx then widthBytes w else 1)).setWidth 32),
       (d.toNat + 1, fun l => ((readG g gb.toNat + (readV g ix.toNat l).setWidth 64 * BitVec.ofNat 64 (if sx then widthBytes w else 1)) >>> 32).setWidth 32)]
      (marked li ix false 0) g.exec) ∧
  (∀ s c g (d a : R6) la (part : BitVec 2) ws wd, Issues s c g → elemWidth (moodSrc g.mood) = some ws → elemWidth (moodType g.mood) = some wd →
    part.toNat < cvtRatio ws wd →
    (CanReadV g g.exec a.toNat → CanWriteV g d.toNat → (wd < ws → CanReadV g g.exec d.toNat) → HasRoom s g d.toNat → g.exec ≠ 0 →
      VecResult s c g (exec (.cvt false d a la part) s) d.toNat (marked la a false 0) g.exec fun l =>
        cvtWord g.mood ws wd part.toNat (readV g a.toNat l) (readV g d.toNat l)) ∧
    (CanReadG g a.toNat → CanWriteG g d.toNat → (wd < ws → CanReadG g d.toNat) →
      UniResult s c g (exec (.cvt true d a false part) s) d.toNat []
        ((cvtWord g.mood ws wd part.toNat ((readG g a.toNat).setWidth 32) ((readG g d.toNat).setWidth 32)).setWidth 64))) ∧
  (∀ s c g (d a b : R6) la, Issues s c g → g.exec = 0xFFFF → moodType g.mood = 0 → a.toNat % 2 = 0 → d.toNat % 2 = 0 → b.toNat % 2 = 0 →
    CanReadV g g.exec a.toNat → CanReadV g g.exec (a.toNat + 1) → CanReadG g b.toNat → CanReadG g (b.toNat + 1) →
    CanWriteV g d.toNat → CanWriteV g (d.toNat + 1) → RoomFor s g [d.toNat, d.toNat + 1] →
    ∀ inv : Bool, ∀ ys : List Nat,
      ys = (hadBlock inv (philox (nfld (readG g (b.toNat + 1)).toNat 0 32) 0 0 0 (readG g b.toNat).toNat).c0 (blockVals g a.toNat)).map
        (fun v => finishVal fmtF32 (moodRound g.mood) (moodFtz g.mood) (moodSat g.mood) (plusZero v)) →
      VecResults s c g (exec (if inv then .hadqInv d a b la else .hadq d a b la) s)
        [(d.toNat, fun l => BitVec.ofNat 32 (ys.getD (2 * l) 0)), (d.toNat + 1, fun l => BitVec.ofNat 32 (ys.getD (2 * l + 1) 0))]
        (if la then [a.toNat, a.toNat + 1] else []) g.exec) ∧
  (∀ s c g (d a : R6) la, Issues s c g → moodType g.mood = 5 ∨ moodType g.mood = 6 → 
    (g.exec = 0xFFFF → a.toNat % 2 = 0 → CanReadV g g.exec a.toNat → CanReadV g g.exec (a.toNat + 1) → CanWriteV g d.toNat → HasRoom s g d.toNat →
      VecResult s c g (exec (.qpack d a la) s) d.toNat (if la then [a.toNat, a.toNat + 1] else []) g.exec fun l =>
        BitVec.ofNat 32 ((packWords (moodType g.mood) (blockVals g a.toNat)).getD l 0)) ∧
    (g.exec ≠ 0 → d.toNat % 2 = 0 → CanReadV g g.exec a.toNat → CanWriteV g d.toNat → CanWriteV g (d.toNat + 1) →
      RoomFor s g [d.toNat, d.toNat + 1] →
      VecResults s c g (exec (.qunpk d a la) s) [(d.toNat, fun l => unpackWord g.mood (readV g a.toNat l) 0),
        (d.toNat + 1, fun l => unpackWord g.mood (readV g a.toNat l) 1)] (marked la a false 0) g.exec)) ∧
  ∀ e ∈ randoms, ∀ s c g (d a b : R6) la, Issues s c g → featOn s 4 = true → CanReadG g b.toNat → CanReadG g (b.toNat + 1) →
    (a.toNat % 2 = 0 → CanReadV g g.exec a.toNat → CanReadV g g.exec (a.toNat + 1) → CanWriteV g d.toNat → HasRoom s g d.toNat → g.exec ≠ 0 →
      VecResult s c g (exec (e.1 false d a b la) s) d.toNat (if la then [a.toNat, a.toNat + 1] else []) g.exec fun l =>
        BitVec.ofNat 32 (rngOut e.2 (randomWords g b (readV g a.toNat l).toNat (readV g (a.toNat + 1) l).toNat))) ∧
    (CanReadG g a.toNat → CanWriteG g d.toNat →
      UniResult s c g (exec (e.1 true d a b false) s) d.toNat []
        (BitVec.ofNat 64 (rngOut e.2 (randomWords g b ((readG g a.toNat).toNat % 2 ^ 32) ((readG g a.toNat).toNat / 2 ^ 32)))))

/-- R107: the uniform branches, call and ret as the last body word, where a clause header stands at the destination; where none does, at the target of
one that is taken, at the following word of one that is not, or at the address that ret reads, BTGT is taken. -/
def Obligations.UniformBranches : Prop :=
  (∀ s c g, Issues s c g → AtEnd g →
    (∀ off, HeaderAt s g (wordAddr g + 4 * off.signExtend 64) →
      Goes s c g (exec (.br off) s) (wordAddr g + 4 * off.signExtend 64)) ∧
    (∀ p off dest,
      ((SomeTaken g p ∧ dest = wordAddr g + 4 * off.signExtend 64 ∨ ¬SomeTaken g p ∧ dest = wordAddr g + 4) → HeaderAt s g dest →
        Goes s c g (exec (.brAny p off) s) dest) ∧
      ((AllTaken g p ∧ dest = wordAddr g + 4 * off.signExtend 64 ∨ ¬AllTaken g p ∧ dest = wordAddr g + 4) → HeaderAt s g dest →
        Goes s c g (exec (.brAll p off) s) dest) ∧
      ((¬SomeTaken g p ∧ dest = wordAddr g + 4 * off.signExtend 64 ∨ SomeTaken g p ∧ dest = wordAddr g + 4) → HeaderAt s g dest →
        Goes s c g (exec (.brNone p off) s) dest)) ∧
    (∀ off, HeaderAt s g (wordAddr g + 4 * off.signExtend 64) → CanWriteG g 31 →
      ∃ h, GroupBecomes s c (exec (.call off) s) h ∧
        h = bump { g with pc := wordAddr g + 4 * off.signExtend 64, coff := 0, repi := 0, rep := none, g := h.g, gpoison := h.gpoison } ∧
        ∀ k < 32, readG h k = if k = 31 then wordAddr g + 4 else readG g k) ∧
    ∀ a : R6, CanReadG g a.toNat → HeaderAt s g (readG g a.toNat) → Goes s c g (exec (.ret a) s) (readG g a.toNat)) ∧
  (∀ s c g, Issues s c g → ∀ off, ¬HeaderAt s g (wordAddr g + 4 * off.signExtend 64) →
    Traps s c g (exec (.br off) s) 4 0 ∧ Traps s c g (exec (.call off) s) 4 0 ∧
    ∀ p, (SomeTaken g p → Traps s c g (exec (.brAny p off) s) 4 0) ∧ (AllTaken g p → Traps s c g (exec (.brAll p off) s) 4 0) ∧
      (¬SomeTaken g p → Traps s c g (exec (.brNone p off) s) 4 0)) ∧
  (∀ s c g, Issues s c g → ¬HeaderAt s g (wordAddr g + 4) → ∀ p off,
    (¬SomeTaken g p → Traps s c g (exec (.brAny p off) s) 4 0) ∧ (¬AllTaken g p → Traps s c g (exec (.brAll p off) s) 4 0) ∧
    (SomeTaken g p → Traps s c g (exec (.brNone p off) s) 4 0)) ∧
  ∀ s c g (a : R6), Issues s c g → a.toNat < 32 → ¬HeaderAt s g (readG g a.toNat) → Traps s c g (exec (.ret a) s) 4 0

/-- R108: br.div with nothing pending closes the region; the group goes on with the larger side, the not taken one on a tie,
and the other side goes to the Huddle. Where a word that some thread goes to is no clause header, BTGT is taken. -/
def Obligations.DivergentBranch : Prop :=
  ∀ s c g p off, Issues s c g → AtEnd g → g.llSeen = false → NothingPending g →
    ∀ t f, t = readP g p.toNat &&& g.exec → f = g.exec &&& ~~~t →
    (t = 0 → HeaderAt s g (wordAddr g + 4) →
      Goes (regionClosed s g).1 c (regionClosed s g).2 (exec (.brDiv p off) s) (wordAddr g + 4)) ∧
    (t ≠ 0 → f = 0 → HeaderAt s g (wordAddr g + 4 * off.signExtend 64) →
      Goes (regionClosed s g).1 c (regionClosed s g).2 (exec (.brDiv p off) s) (wordAddr g + 4 * off.signExtend 64)) ∧
    (t ≠ 0 → f ≠ 0 → HeaderAt s g (wordAddr g + 4) → HeaderAt s g (wordAddr g + 4 * off.signExtend 64) →
      ∀ m stay mpc jpc, (if popCount t ≤ popCount f then m = t ∧ stay = f ∧ mpc = wordAddr g + 4 * off.signExtend 64 ∧ jpc = wordAddr g + 4
          else m = f ∧ stay = t ∧ mpc = wordAddr g + 4 ∧ jpc = wordAddr g + 4 * off.signExtend 64) →
        Goes (spawn (regionClosed s g).1 (bump g) m mpc) c { (regionClosed s g).2 with alive := g.alive &&& ~~~m, exec := stay }
          (exec (.brDiv p off) s) jpc) ∧
    ((t = 0 ∨ f ≠ 0) ∧ ¬HeaderAt s g (wordAddr g + 4) ∨ t ≠ 0 ∧ ¬HeaderAt s g (wordAddr g + 4 * off.signExtend 64) →
      Traps s c g (exec (.brDiv p off) s) 4 0)

/-- R109, R111, R297: a join, which closes the region, at which the group holds all of its home group's threads; a join at which it does not; an end that leaves
threads alive; and an end that leaves none. -/
def Obligations.JoinAndEnd : Prop :=
  ∀ s c g, Issues s c g →
    (AtEnd g → NothingPending g → wholeHome s c g = true →
      Goes (regionClosed s g).1 c { (regionClosed s g).2 with exec := g.alive } (exec .join s) (wordAddr g + 4)) ∧
    (AtEnd g → NothingPending g → wholeHome s c g = false →
      exec .join s = .next (arriveJoin (regionClosed s g).1 c (bump (regionClosed s g).2) (wordAddr g + 4))) ∧
    (g.exec = 0 → GroupBecomes s c (exec .endThreads s) (bump (stepPast g))) ∧
    (g.exec ≠ 0 → g.alive &&& ~~~g.exec ≠ 0 → ∃ t h, t = dropPrivate (regionClosed s g).1 g.core g.wg (tidsOf g g.exec) ∧
      h = bump (stepPast { (regionClosed s g).2 with alive := g.alive &&& ~~~g.exec, exec := 0 }) ∧
      exec .endThreads s = .next (afterEnd { t with groups := tset t.groups c h } g.wg)) ∧
    (g.exec ≠ 0 → g.alive &&& ~~~g.exec = 0 → exec .endThreads s = .next (finishGroup (regionClosed s g).1 c (regionClosed s g).2))

/-- R112, R113: with a flag that the header names and that can count, and with operands that can be read and written, a barrier instruction
executes: it emits the workgroup's bins, closes the region, counts its flag and enters one command with its sub-operation, its operands and the
group's live threads; the workgroup's barriers are then brought up to date. -/
def Obligations.BarriersAccepted : Prop :=
  ∀ s c g, Issues s c g → FlagFree g false (flagSel g false) →
    exec .barWg s = .next (barrierEntered s c g 0 none 0 0 (wordOf .barWg)) ∧
    exec .barGang s = .next (barrierEntered s c g 1 none 0 0 (wordOf .barGang)) ∧
    (∀ d : R6, CanWriteG g d.toNat → exec (.barArrive d) s = .next (barrierEntered s c g 2 (some d.toNat) 0 0 (wordOf (.barArrive d)))) ∧
    (∀ a : R6, CanReadG g a.toNat →
      exec (.barWait a) s = .next (barrierEntered s c g 3 none (readG g a.toNat) 0 (wordOf (.barWait a)))) ∧
    ∀ a b : R6, CanReadG g a.toNat → CanReadG g b.toNat → (readG g a.toNat).toNat ≤ 15 → readG g b.toNat ≠ 0 →
      (readG g b.toNat).toNat ≤ wgThreads s g.wg →
      exec (.barNamed a b) s = .next (barrierEntered s c g 4 none (readG g a.toNat) (readG g b.toNat) (wordOf (.barNamed a b)))

/-- R114, R84, R231, R234: cede counts its flag until the next header; a header begins its clause once no flag it waits on is pending, closes the region when it
waits on a flag of an engine command with ACQ or REL, and else ends the group with a WAIT record: in the dugout, in a spill cell, or, with no room, in CQOV.
A header that waits on a flag of a cede completes that flag and ends the group all the same: its record waits while another of the flags is pending, and is ready
at once where none is. -/
def Obligations.ClauseHeaders : Prop :=
  ∀ s c g, Issues s c g →
    (∀ f, FlagFree g false f →
      GroupBecomes (regionClosed s g).1 c (exec .cede s)
        { accepted (regionClosed s g).2 f [] [] with cedes := (regionClosed s g).2.cedes ++ [f] }) ∧
    ∀ wait setA setB len, LegalHeader setA setB → g.coff = 0 →
      ((∀ f < 12, wait.getLsbD f = true → f ∉ g.cedes) →
        ((∀ f < 12, wait.getLsbD f = true → flagCount (endCedes g) f = 0) →
          (g.engFlags &&& wait = 0 → GroupBecomes s c (exec (.clause wait setA setB len) s)
            (inClause { endCedes g with hbKey := if wait = 0 then g.hbKey else s.nextKey } setA setB len)) ∧
          (g.engFlags &&& wait ≠ 0 → ∃ r, r = regionClosed s (inClause { endCedes g with hbKey := s.nextKey, engFlags := g.engFlags &&& ~~~wait } setA setB len) ∧
            GroupBecomes r.1 c (exec (.clause wait setA setB len) s) r.2)) ∧
        ((∃ f < 12, wait.getLsbD f = true ∧ 0 < flagCount (endCedes g) f) →
          EndsWaiting s c g (exec (.clause wait setA setB len) s) (waitsIn s c { g with waitm := wait }))) ∧
      ((∃ f < 12, wait.getLsbD f = true ∧ f ∈ g.cedes) → ∀ h, h = waitsIn s c { endCedes g with waitm := wait } →
        ((∃ f < 12, wait.getLsbD f = true ∧ 0 < flagCount (endCedes g) f) → EndsWaiting s c g (exec (.clause wait setA setB len) s) h) ∧
        ((∀ f < 12, wait.getLsbD f = true → flagCount (endCedes g) f = 0) →
          EndsWaiting s c g (exec (.clause wait setA setB len) s) { h with res := .ready, readyAt := s.clk }))

/-- R94 to R96: rep puts its counts and steps in force for the word after it; it issues nothing and is not counted. -/
def Obligations.RepeatPrefix : Prop :=
  ∀ s c g cnt dD dA dB w, Issues s c g → fetchWord s g.core (asidOf s g.launch) (wordAddr g + 4).toNat = some w →
    repIll g w.toNat dD dA dB = false →
    GroupBecomes s c (exec (.rep cnt dD dA dB) s)
      { g with rep := some { cnt := cnt.toNat, dD := dD.toInt, dA := dA.toInt, dB := dB.toInt } }

/-- R115, R174, R230, R392, R393, R395, R396: trap takes USER with its code in ADDR: the group is HELD as it is, and one record enters the launch's queue, or waits
with 64 in it; in a handler group the launch is killed instead. RESUME on a precise record runs the HELD group again in a new region: after USER at the next word,
after any other trap at the word that raised it; while an stw to the group is still to complete it only notes that, and the group runs once none is. trap 42 is
0x1C00_002A, and D and U are 0. -/
def Obligations.TrapAndReturn : Prop :=
  (∀ s c g imm, Issues s c g → ∀ k, tget s.launches g.launch = some k → ∀ r : Nat → FaultRec, r = trapRecord s c g 18 (imm.setWidth 64) none [] →
    ∀ t, t = { snapOnFault s 18 with
      groups := tset s.groups c (heldNow g)
      launches := tset s.launches g.launch (if k.fq.length < 64 then { k with fq := k.fq ++ [r k.fseq], fseq := k.fseq + 1 }
        else { k with fwait := k.fwait ++ [r 0] }) } →
    ((∀ w, tget s.wgs g.wg = some w → w.handler = none) → exec (.trapUser imm) s = .next t) ∧
    ∀ w, tget s.wgs g.wg = some w → w.handler.isSome = true → exec (.trapUser imm) s = .next (abortLaunch t g.launch true)) ∧
  decodeWord 0x1C00002A = some (.trapUser 42) ∧ (∀ w, fld w 25 7 = 0x0E → (decodeWord w).isSome = true → fld w 18 7 = 0) ∧
  ∀ s c g, tget s.groups c = some g → g.res = .held →
    (∀ r, r.kind = 0 → r.ctx = some c →
      (stwPending s c = false → g.region + 1 < 2 ^ 32 → GroupBecomes s c (.next (returnFromTrap s r))
        { (if r.code = 18 then stepPast g else g) with region := g.region + 1, res := .running, resume := none }) ∧
      (stwPending s c = true → GroupBecomes s c (.next (returnFromTrap s r)) { g with resume := some (decide (r.code = 18)) })) ∧
    ∀ past, g.resume = some past → s.groups.filter (fun e => e.2.resume.isSome) = [(c, g)] →
      (stwPending s c = true → wakeHeld s = s) ∧
      (stwPending s c = false → g.region + 1 < 2 ^ 32 → GroupBecomes s c (.next (wakeHeld s))
        { (if past = true then stepPast g else g) with region := g.region + 1, res := .running, resume := none })

/-- R89, R92, R93, R98, R242, R392: the traps of the operands of the integer, field, floating, comparison, selection and move instructions. In the vector form a mark on
an immediate is ILLOP; then a name that is owed a result takes PEND; then a source, D included where it is read, that holds no register takes UNWR; then a word
of one source that is poisoned in an active lane takes ECCU, with the register in byte 64 of the record and the lane. In the uniform form a mark is ILLOP, a number above 31
is ILLOPND, and then PEND and ECCU, with 64 added to the number. -/
def Obligations.OperandTraps : Prop :=
  ∀ pr, ∀ e ∈ frForms pr, ∀ s c g d a b la lb im, Issues s c g → e.Fits d im →
    (∀ o, o = exec (e.word false d a b la lb im) s →
      (im = true → lb = true → Traps s c g o 1 0) ∧
      ((im = true → lb = false) →
        ((∃ n ∈ e.names d a b im, g.pendV.getLsbD n.toNat = true) → Traps s c g o 5 0) ∧
        ((∀ n ∈ e.names d a b im, g.pendV.getLsbD n.toNat = false) →
          ((∃ n ∈ e.reads d a b im, g.v.getD n.toNat none = none) → Traps s c g o 6 0) ∧
          ∀ n ∈ e.reads d a b im, (∀ k ∈ e.reads d a b im, k ≠ n → CanReadV g g.exec k.toNat) → ∀ r, g.v.getD n.toNat none = some r →
            ∀ l < 16, g.exec.getLsbD l = true → r.poison.getLsbD l = true → (∀ j < l, g.exec.getLsbD j = true → r.poison.getLsbD j = false) →
              TrapsAt s c g o 16 0 (some l) (mwriteN [] 64 1 n.toNat)))) ∧
    ∀ o, o = exec (e.word true d a b la lb im) s →
      (la = true ∨ (e.two = true ∧ lb = true) → Traps s c g o 1 0) ∧
      (la = false → lb = false →
        ((∃ n ∈ e.names d a b im, 32 ≤ n.toNat) → Traps s c g o 2 0) ∧
        ((∀ n ∈ e.names d a b im, n.toNat < 32) →
          ((∃ n ∈ e.names d a b im, g.pendG.getLsbD n.toNat = true) → Traps s c g o 5 0) ∧
          ((∀ n ∈ e.names d a b im, g.pendG.getLsbD n.toNat = false) →
            ∀ n ∈ e.reads d a b im, (∀ k ∈ e.reads d a b im, k ≠ n → gBad g k.toNat = false) → gBad g n.toNat = true →
              TrapsAt s c g o 16 0 none (mwriteN [] 64 1 (64 + n.toNat)))))

/-- R103, R134 to R136, R151, R155 to R158: with EXEC = 0 an instruction of the integer, field, floating, comparison, selection, move, constant, address, conversion,
transform and packing families writes and allocates nothing; marked names free all the same. That a mark on a source that is also D frees the name then is the model's
choice (log 52). -/
def Obligations.EmptyMask : Prop :=
  ∀ s c g, Issues s c g → g.exec = 0 →
    (∀ pr, ∀ e ∈ frForms pr, ∀ d a b la lb im, e.Fits d im → (im = true → lb = false) → e.ok (moodType g.mood) →
      (∀ n ∈ e.reads d a b im, CanReadV g 0 n.toNat) → (e.reg = true → CanWriteV g d.toNat) →
      FreesOnly s c g (exec (e.word false d a b la lb im) s) (marked la a (e.two && lb) b)) ∧
    (∀ d : R6, CanWriteV g d.toNat →
      (∀ a : R6, a.toNat < 10 → FreesOnly s c g (exec (.movSpecial false d a) s) []) ∧
      (∀ a : R6, CanReadG g a.toNat → FreesOnly s c g (exec (.movG d a) s) []) ∧
      (∀ imm, FreesOnly s c g (exec (.ldi false d imm) s) [] ∧ (CanReadV g 0 d.toNat → FreesOnly s c g (exec (.khi false d imm) s) [])) ∧
      (∀ b : R6, b.toNat < 32 → FreesOnly s c g (exec (.fmtw false d b) s) []) ∧
      (∀ (a : R6) la (part : BitVec 2) ws wd, CanReadV g 0 a.toNat → elemWidth (moodSrc g.mood) = some ws → elemWidth (moodType g.mood) = some wd →
        part.toNat < cvtRatio ws wd → (wd < ws → CanReadV g 0 d.toNat) → FreesOnly s c g (exec (.cvt false d a la part) s) (marked la a false 0))) ∧
    (∀ (d : R6) gb ix li sx (w : BitVec 3), CanReadG g gb.toNat → CanReadV g 0 ix.toNat → d.toNat % 2 = 0 → CanWriteV g d.toNat → CanWriteV g (d.toNat + 1) →
      w ≠ 7 → (sx = false → w = 0) → FreesOnly s c g (exec (.lea false d gb ix li sx w) s) (marked li ix false 0)) ∧
    (∀ (d a b : R6) la, a.toNat % 2 = 0 → d.toNat % 2 = 0 → b.toNat % 2 = 0 → b.toNat < 32 → (∀ n ∈ [a.toNat, a.toNat + 1, d.toNat, d.toNat + 1], CanWriteV g n) →
      CanWriteG g b.toNat → CanWriteG g (b.toNat + 1) →
      FreesOnly s c g (exec (.hadq d a b la) s) (if la then [a.toNat, a.toNat + 1] else []) ∧
      FreesOnly s c g (exec (.hadqInv d a b la) s) (if la then [a.toNat, a.toNat + 1] else [])) ∧
    (∀ (d a : R6) la, a.toNat % 2 = 0 → (∀ n ∈ [a.toNat, a.toNat + 1, d.toNat], CanWriteV g n) →
      FreesOnly s c g (exec (.qpack d a la) s) (if la then [a.toNat, a.toNat + 1] else [])) ∧
    ∀ (d a : R6) la, moodType g.mood = 5 ∨ moodType g.mood = 6 → d.toNat % 2 = 0 → CanReadV g 0 a.toNat → CanWriteV g d.toNat → CanWriteV g (d.toNat + 1) →
      FreesOnly s c g (exec (.qunpk d a la) s) (marked la a false 0)

/-- R76, R161 to R163, R299: ld and st whose accesses pass every check are accepted. -/
def Obligations.GlobalAccess : Prop :=
  ∀ s c g (u : Bool) (d : R6) gb ix (ld li sx fs : Bool) w, Issues s c g → w ≠ 7 → FlagFree g fs (flagSel g fs) → ∀ n, n = widthOf w →
    ∀ (pa : Nat → Nat) (rt : Nat → Bool) (isStore : Bool), MemOperands g u d gb ix isStore ld li n →
    (∀ l ∈ acting g u, GoesTo s g isStore true n (memAddr g u gb ix sx n l) (pa l) (rt l)) →
    ∀ as, as = (acting g u).map (fun l =>
      globalAcc s g isStore l (memAddr g u gb ix sx n l) (pa l) (if isStore then laneBytes g u d.toNat n l else [])) →
    ∀ hot, hot = detected s rt as → RaceFree s g isStore n hot →
    (isStore = true → MemAccepted c (stamped s g true n hot, g) (exec (.st u d gb ix ld li sx fs w) s)
      { word := wordOf (.st u d gb ix ld li sx fs w), kind := .store, space := .global, u := u, fs := fs, size := n }
      (if u then [] else memMarks d.toNat n ix ld li) as) ∧
    (isStore = false → (u = false → RoomFor s g (dataNames d.toNat n)) →
      MemAccepted c (stamped s g false n hot, g) (exec (.ld u d gb ix li sx fs w) s)
        { word := wordOf (.ld u d gb ix li sx fs w), kind := .load (w = 0 || w = 2), space := .global, u := u, fs := fs, size := n,
          wv := if u then [] else dataNames d.toNat n, gd := if u then some d.toNat else none }
        (if li then [ix.toNat] else []) as)

/-- R69, R164, R165: lds and sts within the workgroup's scratchpad, and ldp and stp within the thread's private memory, are accepted; a private
access goes word by word. -/
def Obligations.LocalAccess : Prop :=
  ∀ s c g (u : Bool) (d : R6) gb ix (ld li sx fs : Bool) w, Issues s c g → w ≠ 7 → FlagFree g fs (flagSel g fs) → ∀ n, n = widthOf w →
    (∀ isStore, MemOperands g u d gb ix isStore ld li n →
      (∀ l ∈ acting g u, (memAddr g u gb ix sx n l).toNat % n = 0 ∧ (memAddr g u gb ix sx n l).toNat + n ≤ spadBytes s g) →
      ∃ as, ScratchAccs s g n (acting g u) (memAddr g u gb ix sx n) (fun l => if isStore then laneBytes g u d.toNat n l else []) as ∧
        (isStore = true → MemAccepted c (s, g) (exec (.sts u d gb ix ld li sx fs w) s)
          { word := wordOf (.sts u d gb ix ld li sx fs w), kind := .store, space := .scratch, u := u, fs := fs, size := n }
          (if u then [] else memMarks d.toNat n ix ld li) as) ∧
        (isStore = false → (u = false → RoomFor s g (dataNames d.toNat n)) →
          MemAccepted c (s, g) (exec (.lds u d gb ix li sx fs w) s)
            { word := wordOf (.lds u d gb ix li sx fs w), kind := .load (w = 0 || w = 2), space := .scratch, u := u, fs := fs, size := n,
              wv := if u then [] else dataNames d.toNat n, gd := if u then some d.toNat else none }
            (if li then [ix.toNat] else []) as)) ∧
    ∀ isStore (pa : Nat → Nat → Nat) (rt : Nat → Nat → Bool), MemOperands g false d gb ix isStore ld li n →
      ∀ lin tid : Nat → Nat, (∀ l, tid l = (g.tids.getD l 0).toNat) → ∀ off : Nat → Nat, (∀ l, off l = (memAddr g false gb ix sx n l).toNat) →
      ∀ k, k = min n 4 → ∀ va : Nat → Nat → DWord,
        (∀ l i, va l i = BitVec.ofNat 64 (privVa (descOf s g.launch) (wgLin s g.wg) (tid l) (off l + k * i))) →
      (∀ l ∈ lanesOf g.exec, off l % n = 0 ∧ off l + n ≤ (descOf s g.launch).priv ∧
        ∀ i < n / k, GoesTo s g isStore false k (va l i) (pa l i) (rt l i)) →
      ∀ as, as = (lanesOf g.exec).flatMap (fun l => (List.range (n / k)).map fun i =>
        globalAcc s g isStore l (va l i) (pa l i) (if isStore then ((laneBytes g false d.toNat n l).drop (k * i)).take k else [])) →
      (isStore = true → MemAccepted c (s, g) (exec (.stp d gb ix ld li sx fs w) s)
        { word := wordOf (.stp d gb ix ld li sx fs w), kind := .store, space := .priv, u := false, fs := fs, size := n }
        (memMarks d.toNat n ix ld li) as) ∧
      (isStore = false → RoomFor s g (dataNames d.toNat n) → MemAccepted c (s, g) (exec (.ldp d gb ix li sx fs w) s)
        { word := wordOf (.ldp d gb ix li sx fs w), kind := .load (w = 0 || w = 2), space := .priv, u := false, fs := fs, size := n,
          wv := dataNames d.toNat n } (if li then [ix.toNat] else []) as)

/-- R168 to R172: atom, atoms, red, ticket, xacc.add and xacc.rd whose accesses pass every check are accepted; aop 1 acquires and aop 3 releases,
and a ticket does both; the f32 operand of xacc.add is flushed under FTZ. -/
def Obligations.AtomicAccess : Prop :=
  ∀ s c g, Issues s c g →
    (∀ (u : Bool) (d : R6) gb ix (aop : BitVec 4) (sc : BitVec 2) (li : Bool), FlagFree g false (flagSel g false) →
      ∀ n, n = (if u then 8 else 4) → ∀ k, k = aop.toNat → ∀ ad : Nat → DWord, ad = memAddr g u gb ix false n →
      ∀ ret, AtomOperands g u d gb ix k ret li → (ret = true → u = false → RoomFor s g [d.toNat]) →
      ∀ fr : List Nat, fr = (if li then [ix.toNat] else []) → ∀ (wv : List Nat) gd, wv = (if ret && !u then [d.toNat] else []) →
      gd = (if ret && u then some d.toNat else none) →
      (∀ (pa : Nat → Nat) (rt : Nat → Bool), (∀ l ∈ acting g u, GoesTo s g (1 < k) false n (ad l) (pa l) (rt l)) →
        ∀ as, as = (acting g u).map (fun l => globalAcc s g (1 < k) l (ad l) (pa l) (atomBytes g u d.toNat l)) →
        ((ret = true ↔ k ≠ 2 ∧ k ≠ 3) → MemAccepted c (maybeClosed (k = 1 || k = 3) s g) (exec (.atom u d gb ix aop sc li) s)
          { word := wordOf (.atom u d gb ix aop sc li), kind := .atomic k, space := .global, u := u, fs := false, size := n,
            sc := sc.toNat, acq := k = 1, rel := k = 3, wv := wv, gd := gd } fr as) ∧
        (ret = false → 4 ≤ k → k ≤ 11 → MemAccepted c (s, g) (exec (.red u d gb ix aop sc li) s)
          { word := wordOf (.red u d gb ix aop sc li), kind := .reduce k, space := .global, u := u, fs := false, size := n,
            sc := sc.toNat } fr as)) ∧
      ((ret = true ↔ k ≠ 2 ∧ k ≠ 3) → (∀ l ∈ acting g u, (ad l).toNat % n = 0 ∧ (ad l).toNat + n ≤ spadBytes s g) →
        ∃ as, ScratchAccs s g n (acting g u) ad (atomBytes g u d.toNat) as ∧
          MemAccepted c (maybeClosed (k = 1 || k = 3) s g) (exec (.atoms u d gb ix aop li) s)
            { word := wordOf (.atoms u d gb ix aop li), kind := .atomic k, space := .scratch, u := u, fs := false, size := n,
              acq := k = 1, rel := k = 3, wv := wv, gd := gd } fr as)) ∧
    (∀ d gb ix sc pa rt, FlagFree g false (flagSel g false) → CanReadG g gb.toNat → CanReadG g ix.toNat → CanReadG g d.toNat →
      GoesTo s g true false 4 (memAddr g true gb ix false 4 0) pa rt →
      MemAccepted c (regionClosed s g) (exec (.ticket d gb ix sc) s)
        { word := wordOf (.ticket d gb ix sc), kind := .ticket ((readG g d.toNat).toNat % 2 ^ 32), space := .global, u := true, fs := false,
          size := 4, sc := sc.toNat, acq := true, rel := true, gd := some d.toNat }
        [] [globalAcc s g true 0 (memAddr g true gb ix false 4 0) pa []]) ∧
    ∀ (d : R6) gb (ix : R6) (li sx fs : Bool) (pa : Nat → Nat) (rt : Nat → Bool), FlagFree g fs (flagSel g fs) → g.exec ≠ 0 → g.mood.toNat / 2 ^ 5 % 16 = 0 → CanReadG g gb.toNat →
      CanReadV g g.exec ix.toNat →
      (CanReadV g g.exec d.toNat →
        (∀ l ∈ lanesOf g.exec, GoesTo s g true false 32 (memAddr g false gb ix sx 32 l) (pa l) (rt l)) →
        ∀ ld, MemAccepted c (s, g) (exec (.xaccAdd d gb ix ld li sx fs) s)
          { word := wordOf (.xaccAdd d gb ix ld li sx fs), kind := .xadd, space := .global, u := false, fs := fs, size := 32, sc := 2 }
          ((if ld then [d.toNat] else []) ++ if li then [ix.toNat] else [])
          ((lanesOf g.exec).map fun l => globalAcc s g true l (memAddr g false gb ix sx 32 l) (pa l)
            (natBytes 4 (flush fmtF32 (g.mood.getLsbD 13) (readV g d.toNat l).toNat)))) ∧
      (CanWriteV g d.toNat → RoomFor s g [d.toNat] →
        (∀ l ∈ lanesOf g.exec, GoesTo s g false false 32 (memAddr g false gb ix sx 32 l) (pa l) (rt l)) →
        MemAccepted c (s, g) (exec (.xaccRd d gb ix li sx fs) s)
          { word := wordOf (.xaccRd d gb ix li sx fs), kind := .xread, space := .global, u := false, fs := fs, size := 32, wv := [d.toNat] }
          (if li then [ix.toNat] else [])
          ((lanesOf g.exec).map fun l => globalAcc s g false l (memAddr g false gb ix sx 32 l) (pa l) []))

/-- R70, R173 to R175: ldw in a register window, and stw where the group that the address names is stopped, are accepted; pfch is dropped, or brings
the lines that translate into L1, and completes at once; where their sets have room, nothing else of the machine is changed. The model's choices: pfch .128 with U = 1
raises no trap (log 52), and which lines share a set of L1 (log 53). -/
def Obligations.WindowAccess : Prop :=
  ∀ s c g (u : Bool) (d : R6) gb ix (ld li sx fs w : Bool), Issues s c g →
    (FlagFree g fs (flagSel g fs) → ∀ n, n = (if w then 8 else 4) → ∀ ad : Nat → DWord, ad = memAddr g u gb ix sx n →
      (∀ l ∈ acting g u, (ad l).toNat % n = 0) →
      (MemOperands g u d gb ix false ld li n → (u = false → RoomFor s g (dataNames d.toNat n)) →
        (∀ l ∈ acting g u, ∃ x, windowTarget s (tenantOf s g.launch) (ad l).toNat = some x) →
        MemAccepted c (s, g) (exec (.ldw u d gb ix li sx fs w) s)
          { word := wordOf (.ldw u d gb ix li sx fs w), kind := .load false, space := .window, u := u, fs := fs, size := n,
            wv := if u then [] else dataNames d.toNat n, gd := if u then some d.toNat else none }
          (if li then [ix.toNat] else [])
          ((acting g u).map fun l => newAcc l (ad l).toNat (ad l).toNat [] false)) ∧
      (MemOperands g u d gb ix true ld li n →
        (∀ l ∈ acting g u, ∃ k h o, windowTarget s (tenantOf s g.launch) (ad l).toNat = some (some (k, h), o) ∧ windowStopped s h = true) →
        MemAccepted c (s, g) (exec (.stw u d gb ix ld li sx fs w) s)
          { word := wordOf (.stw u d gb ix ld li sx fs w), kind := .store, space := .window, u := u, fs := fs, size := n }
          (if u then [] else memMarks d.toNat n ix ld li)
          ((acting g u).map fun l => newAcc l (ad l).toNat (ad l).toNat (laneBytes g u d.toNat n l) false))) ∧
    ∀ wd : BitVec 3, wd ≠ 7 → CanReadG g gb.toNat → (if u then li = false ∧ CanReadG g ix.toNat else CanReadV g g.exec ix.toNat) →
      ∀ lines : List Nat, lines = (if fs then [] else (acting g u).filterMap fun l => asksFor s g (memAddr g u gb ix sx (widthOf wd) l).toNat) →
      ∀ t, t = lines.foldl (fun t n => fillGlobal t g.core n) s →
      (∃ h, exec (.pfch u gb ix li sx fs wd) s = .next { t with groups := tset t.groups c h } ∧ h = { bump (stepPast g) with v := h.v } ∧
        ∀ k < 64, h.v.getD k none = if li = true ∧ k = ix.toNat then none else g.v.getD k none) ∧
      ((∀ set, l1Ways (coreOf s g.core) set + (lines.filter fun n => decide (l1Set n = set)).length ≤ 16) →
        t = { s with cores := t.cores } ∧ (∀ k, coreOf t k = { coreOf s k with l1 := (coreOf t k).l1 }) ∧
        ∀ k ln, ln ∈ (coreOf t k).l1 ↔ ln ∈ (coreOf s k).l1 ∨ (k = g.core ∧ ln ∈ lines))

/-- R166, R167: prs.test answers for the lines of the lanes, prs.clr and prs.set change them at once, prs.wait is a command on them; fence and
fence.sc close the region and are commands. -/
def Obligations.PresenceAndFences : Prop :=
  ∀ s c g, Issues s c g →
    (∀ (u : Bool) (gb : BitVec 5) ix (li fs : Bool), CanReadG g gb.toNat → (if u then li = false ∧ CanReadG g ix.toNat else CanReadV g g.exec ix.toNat) →
      ∀ ln : Nat → Nat, (∀ l, ln l = (memAddr g u gb ix false 1 l).toNat / 128) →
      (∀ l ∈ acting g u, (memAddr g u gb ix false 1 l).toNat < spadBytes s g) →
      ∀ fr : List Nat, fr = (if li then [ix.toNat] else []) →
      (∀ d : R6, d.toNat < 8 →
        (u = true → UniVerdict s c g (exec (.prsTest u d gb ix li) s) d.toNat (ln 0 ∉ absentOf s g.wg)) ∧
        (u = false → LaneVerdict s c g (exec (.prsTest u d gb ix li) s) d.toNat fr fun l => ln l ∉ absentOf s g.wg)) ∧
      (∃ t h, exec (.prsClr u gb ix li) s = .next { t with groups := tset s.groups c h } ∧ t = { s with wgs := t.wgs } ∧
        h = { bump (stepPast g) with v := h.v } ∧ (∀ k < 64, h.v.getD k none = if k ∈ fr then none else g.v.getD k none) ∧
        ∀ x, x ∈ absentOf t g.wg ↔ (x ∈ absentOf s g.wg ∨ ((tget s.wgs g.wg).isSome = true ∧ ∃ l ∈ acting g u, x = ln l))) ∧
      (∃ t h, exec (.prsSet u gb ix li) s = .next { t with groups := tset s.groups c h } ∧ t = setPresent s g.wg ((acting g u).map ln) ∧
        h = { bump (stepPast g) with v := h.v } ∧ (∀ k < 64, h.v.getD k none = if k ∈ fr then none else g.v.getD k none) ∧
        (∀ x, x ∈ absentOf t g.wg ↔ (x ∈ absentOf s g.wg ∧ ∀ l ∈ acting g u, x ≠ ln l)) ∧
        ((∀ e ∈ s.ops, e.2.space = .scratch → e.2.wg ≠ g.wg) → t = { s with wgs := t.wgs })) ∧
      ((u = false → g.exec ≠ 0) → FlagFree g fs (flagSel g fs) →
        ∃ cmd, CmdAccepted c (s, g) (exec (.prsWait u gb ix li fs) s) (flagSel g fs) fr [] cmd ∧
          cmd = { newCmd s c g (wordOf (.prsWait u gb ix li fs)) (flagSel g fs) with landed := cmd.landed, started := cmd.started } ∧
          (∀ x, x ∈ cmd.landed ↔ ∃ l ∈ acting g u, x = ln l) ∧ (cmd.started = true ↔ ∀ l ∈ acting g u, ln l ∉ absentOf s g.wg))) ∧
    ∀ fs sc, FlagFree g fs (flagSel g fs) → ∀ r, r = regionClosed s g →
      (∀ acq rel, acq = true ∨ rel = true → CmdAccepted c r (exec (.fence fs sc acq rel) s) (flagSel g fs) [] []
        { newCmd r.1 c g (wordOf (.fence fs sc acq rel)) (flagSel g fs) with sc := sc.toNat, acq := acq, rel := rel }) ∧
      CmdAccepted c r (exec (.fenceSc fs sc) s) (flagSel g fs) [] []
        { newCmd r.1 c g (wordOf (.fenceSc fs sc)) (flagSel g fs) with sub := 1, sc := sc.toNat, acq := true, rel := true }

/-- R180 to R184: copy and copyf of a legal slice are accepted; the slice then joins the collective of its TAG, and the destination lines in the
scratchpad become absent. -/
def Obligations.CopiesAccepted : Prop :=
  ∀ e ∈ copyForms, ∀ s c g ga gb gc fs sc acq rel, Issues s c g →
    ∀ f, f = eform g (e.1 ga gb gc fs sc acq rel) e.2.1 e.2.2 (some ga) (some gb) (some gc) none fs sc acq rel none false →
    EngineReady s g [ga.toNat, gb.toNat, gc.toNat] f → CopyLegal s g.wg e.2.1 e.2.2 f.a.toNat f.b.toNat f.c.toNat →
    EngineAccepted s c g (exec (e.1 ga gb gc fs sc acq rel) s) f enterCopy

/-- R185, R186, R189: mma takes its format word from the lanes, which must agree, and with EXEC = 0 it is done as it is accepted; accld and accst of a
tile within NACC are accepted. -/
def Obligations.MatrixAccepted : Prop :=
  ∀ s c g, Issues s c g →
    (∀ acc sa sb vf : R6, acc.toNat < 32 → sa.toNat < 32 → sb.toNat < 32 →
      ∀ f : EForm, f = { word := wordOf (.mma acc sa sb vf), op := 0x5A } → EngineReady s g [] f →
      (g.exec = 0 → acc.toNat < wgTiles s g.wg → CanWriteV g vf.toNat → EngineAccepted s c g (exec (.mma acc sa sb vf) s) f fun t k _ => modCmd t k fun d => { d with ended := true }) ∧
      (g.exec ≠ 0 → CanReadV g g.exec vf.toNat → ∀ w, (∀ l ∈ lanesOf g.exec, readV g vf.toNat l = w) → acc.toNat < wgTiles s g.wg →
        ProductLegal s g.wg sa.toNat sb.toNat w.toNat →
        EngineAccepted s c g (exec (.mma acc sa sb vf) s)
          { f with a := acc.setWidth 64, b := sa.setWidth 64, c := sb.setWidth 64, fmt := w } fun t _ _ => t)) ∧
    ∀ e ∈ accForms, ∀ ga gb gc fs sc acq rel,
      ∀ f, f = eform g (e.1 ga gb gc fs sc acq rel) e.2.1 e.2.2 (some ga) (some gb) (some gc) none fs sc acq rel none false →
      EngineReady s g [ga.toNat, gb.toNat, gc.toNat] f → AccLegal s g.wg e.2.1 e.2.2 f.a.toNat f.b.toNat f.c.toNat →
      EngineAccepted s c g (exec (e.1 ga gb gc fs sc acq rel) s) f enterAcc

/-- R190 to R192: a claim of slots that the workgroup does not hold, a release of slots it holds, and slot.held, whose result is the slots held; chain.set
and chain.adv of chains 0 to 3, and seqw whatever chain gA[1:0] names. A claim of no slot is granted as it is accepted. -/
def Obligations.SlotsAndChains : Prop :=
  ∀ s c g ga gb gc fs sc acq rel, Issues s c g →
    (∀ f, f = eform g (.slotClaim ga fs sc acq rel) 0x5D 0 (some ga) none none none fs sc acq rel none false → EngineReady s g [ga.toNat] f →
      f.a.toNat < 2 ^ 32 → (∀ i < 32, f.a.getLsbD i = true → holdsSlot s g.wg i = false) →
      EngineAccepted s c g (exec (.slotClaim ga fs sc acq rel) s) f fun t k d => if d.a = 0 then grantClaim t k d else t) ∧
    (∀ f, f = eform g (.slotRel ga fs sc acq rel) 0x5D 1 (some ga) none none none fs sc acq rel none false → EngineReady s g [ga.toNat] f →
      f.a.toNat < 2 ^ 32 → (∀ i < 32, f.a.getLsbD i = true → holdsSlot s g.wg i = true) →
      EngineAccepted s c g (exec (.slotRel ga fs sc acq rel) s) f fun t _ _ => t) ∧
    (∀ f, f = eform g (.slotHeld gc fs sc acq rel) 0x5D 2 none none none (some gc) fs sc acq rel none false → EngineReady s g [] f →
      ∃ m : DWord, (∀ i < 64, m.getLsbD i = true ↔ i < 32 ∧ holdsSlot s g.wg i = true) ∧
        EngineAccepted s c g (exec (.slotHeld gc fs sc acq rel) s) f fun t k _ => modCmd t k fun d => { d with result := m }) ∧
    (∀ f, f = eform g (.chainSet ga gb gc fs sc acq rel) 0x5E 0 (some ga) (some gb) (some gc) none fs sc acq rel none false →
      EngineReady s g [ga.toNat, gb.toNat, gc.toNat] f → f.a.toNat < 4 → f.b.toNat % 64 = 0 → OffWindow f.b.toNat →
      EngineAccepted s c g (exec (.chainSet ga gb gc fs sc acq rel) s) f fun t _ _ => t) ∧
    (∀ f, f = eform g (.chainAdv ga gb fs sc acq rel) 0x5E 1 (some ga) (some gb) none none fs sc acq rel none false →
      EngineReady s g [ga.toNat, gb.toNat] f → f.a.toNat < 4 → EngineAccepted s c g (exec (.chainAdv ga gb fs sc acq rel) s) f fun t _ _ => t) ∧
    ∀ f, f = eform g (.seqw ga gb fs sc acq rel) 0x5F 0 (some ga) (some gb) none none fs sc acq rel none false →
      EngineReady s g [ga.toNat, gb.toNat] f → EngineAccepted s c g (exec (.seqw ga gb fs sc acq rel) s) f fun t _ _ => t

/-- R193 to R202, R41: the page engine's instructions on a handle of the tenant, whose check the base die has answered, are accepted; a gather waits for
the group's earlier page commands, then pins its frames and clears its lines as it is accepted. A handle word is the one the tenant's programs
know the handle by, own of it the word with this device's numbers, which differ only after a CTX_IMPORT (the model's choice, log 56). -/
def Obligations.PagesAccepted : Prop :=
  ∀ s c g ga gb gc fs sc acq rel, Issues s c g → ∀ tn, tn = tenantOf s g.launch → ∀ own, own = wordIn s tn →
    (∀ f, (∀ i sub, (i, sub) ∈ [((.kvgatK ga gb gc fs sc acq rel : Instr), 0), (.kvgatV ga gb gc fs sc acq rel, 1)] →
      f = eform g i 0x60 sub (some ga) (some gb) (some gc) none fs sc acq rel (some 1) false → EngineReady s g [ga.toNat, gb.toNat, gc.toNat] f →
      g.answered = true → GatherLegal s g.wg tn (own f.a) f.b.toNat f.c.toNat → pageOrder s s.nextKey (cmdOf s c g f) = true → pinsFull s (cmdOf s c g f) = false →
      EngineAccepted s c g (exec i s) f enterGat)) ∧
    (∀ f, f = eform g (.kvapp ga gb gc fs sc acq rel) 0x61 0 (some ga) (some gb) (some gc) none fs sc acq rel (some 1) false →
      EngineReady s g [ga.toNat, gb.toNat, gc.toNat] f → g.answered = true → AppendLegal s g.wg tn (own f.a) f.b.toNat f.c.toNat →
      EngineAccepted s c g (exec (.kvapp ga gb gc fs sc acq rel) s) f fun t _ _ => t) ∧
    (∀ f i sub, (i, sub) ∈ [((.kvpinPin ga gb fs sc acq rel : Instr), 0), (.kvpinUnpin ga gb fs sc acq rel, 1)] →
      f = eform g i 0x62 sub (some ga) (some gb) none none fs sc acq rel (some 1) false → EngineReady s g [ga.toNat, gb.toNat] f →
      g.answered = true → (∃ p, HandleOk s tn (own f.a) p) → f.b.toNat < 2 ^ 48 → f.b.toNat / 2 ^ 24 ≠ 0 →
      f.b.toNat % 2 ^ 24 + f.b.toNat / 2 ^ 24 ≤ min (handleAt s (hIdx (own f.a))).w (hBound (own f.a)) →
      EngineAccepted s c g (exec i s) f fun t _ _ => t) ∧
    (∀ f i op sub b res, (i, op, sub, b, res) ∈ [((.kvfrk ga gb gc fs sc acq rel : Instr), 0x63, 0, some gb, some gc),
        (.hdlQuery ga gc fs sc acq rel, 0x64, 0, none, some gc), (.hdlCommit ga gb fs sc acq rel, 0x64, 1, some gb, none),
        (.hdlTrunc ga gb fs sc acq rel, 0x64, 2, some gb, none)] →
      f = eform g i op sub (some ga) b none res fs sc acq rel (some 1) false → EngineReady s g (ga.toNat :: b.toList.map BitVec.toNat) f →
      g.answered = true → (∃ p, HandleOk s tn (own f.a) p) → f.b.toNat < 2 ^ 24 → EngineAccepted s c g (exec i s) f fun t _ _ => t) ∧
    (∀ f, f = eform g (.pfxh ga gb gc fs sc acq rel) 0x65 0 (some ga) (some gb) none (some gc) fs sc acq rel (some 3) false →
      EngineReady s g [ga.toNat, gb.toNat] f → f.b.toNat < 2 ^ 32 → f.b.toNat % 4 = 0 → InSpad s g.wg f.b.toNat 64 →
      EngineAccepted s c g (exec (.pfxh ga gb gc fs sc acq rel) s) f fun t _ _ => t) ∧
    ∀ f i op n o len, (i, op, n, o, len) ∈ [((.pfxl ga gb gc fs sc acq rel : Instr), 0x66, f.c.toNat, f.a.toNat, 72 * f.c.toNat),
        (.pfxi ga gb gc fs sc acq rel, 0x67, f.c.toNat / 2 ^ 8, f.a.toNat + 8 * (f.c.toNat % 2 ^ 8), 8 * (f.c.toNat / 2 ^ 8))] →
      f = eform g i op 0 (some ga) (some gb) (some gc) (some gc) fs sc acq rel (some 3) false → EngineReady s g [ga.toNat, gb.toNat, gc.toNat] f →
      g.answered = true → (∃ p, HandleOk s tn (own f.b) p ∧ p.p ≤ 16) → f.a.toNat < 2 ^ 32 → f.a.toNat % 8 = 0 → 0 < n → n ≤ 64 → InSpad s g.wg o len →
      EngineAccepted s c g (exec i s) f fun t _ _ => t

/-- R204, R207 to R214: the fabric's instructions are accepted; a command that no port leads to its peer for, and one whose lines become absent, do so as
they are accepted. -/
def Obligations.FabricAccepted : Prop :=
  ∀ s c g ga gb gc fs sc acq rel, Issues s c g →
    (∀ e ∈ moveForms, ∀ f, f = eform g (e.1 ga gb gc fs sc acq rel) e.2.1 e.2.2.1 (some ga) (some gb) (some gc) none fs sc acq rel (some 6) true →
      EngineReady s g [ga.toNat, gb.toNat, gc.toNat] f →
      (if e.2.1 = 0x68 then MoveLegal s g.wg e.2.2.2.1 e.2.2.2.2 f.a.toNat f.b.toNat f.c.toNat
        else MoveLegal s g.wg e.2.2.2.1 e.2.2.2.2 f.b.toNat f.a.toNat f.c.toNat) →
      EngineAccepted s c g (exec (e.1 ga gb gc fs sc acq rel) s) f enterFabric) ∧
    (∀ sub : BitVec 5, sub.toNat % 16 ∉ [1, 3, 14, 15] →
      ∀ f, f = eform g (.fatom sub ga gb gc fs sc acq rel) 0x6A sub.toNat (some ga) (some gb) (some gc)
        (if sub.toNat % 16 = 2 then none else some gc) fs sc acq rel (some 6) true →
      EngineReady s g [ga.toNat, gb.toNat, gc.toNat] f → f.a.toNat / 2 ^ 54 % 2 = 1 →
      f.a.toNat % (if 16 ≤ sub.toNat then 8 else 4) = 0 → EngineAccepted s c g (exec (.fatom sub ga gb gc fs sc acq rel) s) f enterFabric) ∧
    (∀ f, f = eform g (.fred ga gb gc fs sc acq rel) 0x6B 0 (some ga) (some gb) (some gc) none fs sc acq rel (some 6) false →
      EngineReady s g [ga.toNat, gb.toNat, gc.toNat] f → RanksLegal s f.b.toNat → f.a.toNat < 2 ^ 32 → f.c.toNat < 2 ^ 44 →
      f.c.toNat / 2 ^ 40 ≤ 2 → f.a.toNat % 8 = 0 → f.c.toNat % 8 = 0 →
      ∀ n, n = (f.c.toNat / 2 ^ 32 % 2 ^ 8 + 1) * (if f.c.toNat / 2 ^ 40 = 0 then 8 else 4) → InSpad s g.wg f.a.toNat n →
      InSpad s g.wg (f.c.toNat % 2 ^ 32) n → EngineAccepted s c g (exec (.fred ga gb gc fs sc acq rel) s) f enterFabric) ∧
    (∀ f, f = eform g (.lzres ga gc fs sc acq rel) 0x6C 0 (some ga) none none (some gc) fs sc acq rel (some 6) false → EngineReady s g [ga.toNat] f →
      f.a.toNat < 2 ^ 24 → EngineAccepted s c g (exec (.lzres ga gc fs sc acq rel) s) f enterFabric) ∧
    (∀ f, f = eform g (.lzarm ga gb gc fs sc acq rel) 0x6D 0 (some ga) (some gb) (some gc) none fs sc acq rel (some 6) false →
      EngineReady s g [ga.toNat, gb.toNat, gc.toNat] f → f.a.toNat < 16 → f.b.toNat < 2 ^ 56 → f.c.toNat < 2 ^ 21 → f.b.toNat / 2 ^ 32 % 32 = 0 →
      f.b.toNat % 2 ^ 32 % 128 = 0 → InSpad s g.wg (f.b.toNat % 2 ^ 32) (f.b.toNat / 2 ^ 32) →
      EngineAccepted s c g (exec (.lzarm ga gb gc fs sc acq rel) s) f enterFabric) ∧
    (∀ f i op sub res, (i, op, sub, res) ∈ [((.lzrel ga fs sc acq rel : Instr), 0x6E, 0, none), (.lzqRd ga gc fs sc acq rel, 0x6F, 0, some gc),
        (.lzqWait ga fs sc acq rel, 0x6F, 1, none)] →
      f = eform g i op sub (some ga) none none res fs sc acq rel (some 6) false → EngineReady s g [ga.toNat] f → f.a.toNat < 16 →
      EngineAccepted s c g (exec i s) f enterFabric) ∧
    ∀ f i sub, (i, sub) ∈ [((.xredExp ga gb gc fs sc acq rel : Instr), 0), (.xredSum ga gb gc fs sc acq rel, 1)] →
      f = eform g i 0x77 sub (some ga) (some gb) (some gc) none fs sc acq rel none false → EngineReady s g [ga.toNat, gb.toNat, gc.toNat] f →
      RanksLegal s f.b.toNat → f.a.toNat < 2 ^ 32 → f.c.toNat < 2 ^ 49 → ∀ n, n = f.c.toNat / 2 ^ 32 % 2 ^ 16 → 0 < n → n ≤ 1024 → f.a.toNat % 64 = 0 →
      f.c.toNat % 2 ^ 32 % 128 = 0 → InSpad s g.wg f.a.toNat (64 * n) → (sub = 1 → InSpad s g.wg (f.c.toNat % 2 ^ 32) (128 * n)) →
      EngineAccepted s c g (exec i s) f enterFabric

/-- R204, R215 to R221: the sampling and request instructions on legal operands, and on a request of the tenant whose check the base die has answered,
are accepted. The index that names a request is the one the tenant's programs know it by (the model's choice, log 56). -/
def Obligations.RequestsAccepted : Prop :=
  ∀ s c g ga gb gc fs sc acq rel, Issues s c g →
    (∀ f i sub, (i, sub) ∈ [((.smplMax ga gb gc fs sc acq rel : Instr), 0), (.smplSmp ga gb gc fs sc acq rel, 1), (.smplRes ga gb gc fs sc acq rel, 2)] →
      f = eform g i 0x71 sub (some ga) (some gb) (some gc) none fs sc acq rel (some 4) false → EngineReady s g [ga.toNat, gb.toNat, gc.toNat] f →
      SampleLegal s g.wg sub f.a.toNat f.b.toNat f.c.toNat → EngineAccepted s c g (exec i s) f fun t _ _ => t) ∧
    (∀ f, f = eform g (.smrg ga gb gc fs sc acq rel) 0x72 0 (some ga) (some gb) (some gc) none fs sc acq rel (some 4) false →
      EngineReady s g [ga.toNat, gb.toNat, gc.toNat] f → f.c.toNat < 2 ^ 14 → f.b.toNat < 2 ^ 32 → f.a.toNat % 16 = 0 → f.b.toNat % 16 = 0 →
      OffWindow f.a.toNat → InSpad s g.wg f.b.toNat (16 * (f.c.toNat / 2 ^ 8 + 1)) →
      EngineAccepted s c g (exec (.smrg ga gb gc fs sc acq rel) s) f fun t _ _ => t) ∧
    (∀ f, f = eform g (.acpt ga gb gc fs sc acq rel) 0x73 0 (some ga) (some gb) none (some gc) fs sc acq rel (some 4) false →
      EngineReady s g [ga.toNat, gb.toNat] f → RequestOk s g f.a.toNat → f.a.getLsbD 14 = false → f.a.toNat < 2 ^ 48 → f.b.toNat < 2 ^ 32 →
      f.b.toNat % 16 = 0 → InSpad s g.wg f.b.toNat 16 → EngineAccepted s c g (exec (.acpt ga gb gc fs sc acq rel) s) f fun t _ _ => t) ∧
    ∀ f i op sub b x res, (i, op, sub, b, x, res) ∈ [((.stop ga gb gc fs sc acq rel : Instr), 0x74, 0, some gb, none, some gc),
        (.emit ga gb gc fs sc acq rel, 0x75, 0, some gb, some gc, none), (.rqstCommit ga fs sc acq rel, 0x76, 0, none, none, none),
        (.rqstQuery ga gc fs sc acq rel, 0x76, 1, none, none, some gc), (.rqstFail ga fs sc acq rel, 0x76, 2, none, none, none)] →
      f = eform g i op sub (some ga) b x res fs sc acq rel (some 4) false →
      EngineReady s g (ga.toNat :: (b.toList ++ x.toList).map BitVec.toNat) f → RequestOk s g f.a.toNat → f.a.toNat < 2 ^ 14 → f.b.toNat < 2 ^ 32 →
      f.c.toNat ≤ 3 → EngineAccepted s c g (exec i s) f fun t _ _ => t

/-- R87, R176, R190, R191, R185, R192, R204: where acceptance checks fail the instruction traps: an idle scope is ILLOP, an opcode whose feature was not
accepted is ILLOP, a claim of a slot already held and a release of one not held are SLOTERR, lanes that disagree on a format are FMTDIV, a chain above 3 is
ILLOPND, and a ring not at a multiple of 64 is MISALIGN with its address, which trap it is being the model's reading (log 41). -/
def Obligations.EngineTraps : Prop :=
  ∀ s c g ga gb gc fs sc acq rel, Issues s c g → ∀ a, a = readG g ga.toNat →
    (sc ≠ 0 → ∀ e ∈ copyForms ++ accForms, Traps s c g (exec (e.1 ga gb gc fs sc false false) s) 1 0) ∧
    (featOn s 1 = false → Traps s c g (exec (.kvgatK ga gb gc fs sc acq rel) s) 1 0 ∧ Traps s c g (exec (.hdlQuery ga gc fs sc acq rel) s) 1 0) ∧
    (featOn s 6 = false → Traps s c g (exec (.fputG ga gb gc fs sc acq rel) s) 1 0 ∧ Traps s c g (exec (.lzres ga gc fs sc acq rel) s) 1 0) ∧
    (CanReadG g ga.toNat → FlagFree g fs (flagSel g fs) → sc = 0 ∨ acq = true ∨ rel = true →
      (a.toNat < 2 ^ 32 → (∃ i < 32, a.getLsbD i = true ∧ holdsSlot s g.wg i = true) → Traps s c g (exec (.slotClaim ga fs sc acq rel) s) 17 0) ∧
      (a.toNat < 2 ^ 32 → (∃ i < 32, a.getLsbD i = true ∧ holdsSlot s g.wg i = false) → Traps s c g (exec (.slotRel ga fs sc acq rel) s) 17 0) ∧
      (CanReadG g gb.toNat → 4 ≤ a.toNat → Traps s c g (exec (.chainAdv ga gb fs sc acq rel) s) 2 0) ∧
      (CanReadG g gb.toNat → CanReadG g gc.toNat → a.toNat < 4 → (readG g gb.toNat).toNat % 64 ≠ 0 →
        Traps s c g (exec (.chainSet ga gb gc fs sc acq rel) s) 7 (readG g gb.toNat))) ∧
    ∀ acc sa sb vf : R6, acc.toNat < wgTiles s g.wg → acc.toNat < 32 → sa.toNat < 32 → sb.toNat < 32 → FlagFree g false (flagSel g false) →
      CanReadV g g.exec vf.toNat → (∃ l ∈ lanesOf g.exec, ∃ k ∈ lanesOf g.exec, readV g vf.toNat l ≠ readV g vf.toNat k) →
      Traps s c g (exec (.mma acc sa sb vf) s) 12 0

/-- R40, R42, R43, R50, R386, R404, R406, R407, R409, R410: the commands about the device complete with SUCCESS and their effect; a second FEAT_NEGOTIATE is
LOCKED, features not offered are NOFEAT, a patch is read from host memory and then taken where it is good, with AUTH where its signature fails, and ATTEST at
alarm level 2 is ALARM. The model's choices: ALARM_STATUS with A0 [0] = 1 gives the level before it clears, a mask of 0 disarms SNAP_ARM, and FW_PATCH tests
LOCKED before BUSY and BUSY before the signature (log 25); a patch arrives in memory taken for it, with NORES where there is none (log 24); the free bytes of
reports, keys and counters are functions of Config (logs 9 and 10). -/
def Obligations.DeviceCommands : Prop :=
  ∀ s c u, u = readOn s c →
    (Passes s c false true true [] → c.a0.toNat % 4096 = 0 → Unused [c.a1, c.a2, c.a3, c.a4, c.a5] →
      Completes s c (exec (.devIdent c) s) (hostWrite u c.a0.toNat (identify u)) stOk 0) ∧
    (Passes s c true true true [] → Unused [c.a2, c.a3, c.a4, c.a5] → ∀ m : BitVec 128, m = c.a1 ++ c.a0 →
      (s.locked = false → m.getLsbD 0 = true → m &&& ~~~s.fixed.offered = 0 →
        Completes s c (exec (.featNegotiate c) s) { u with locked := true, feats := m } stOk 0) ∧
      (s.locked = true → Fails s c (exec (.featNegotiate c) s) stLocked) ∧
      (s.locked = false → m.getLsbD 0 = false ∨ m &&& ~~~s.fixed.offered ≠ 0 → Fails s c (exec (.featNegotiate c) s) stNofeat)) ∧
    (Passes s c true true true [] → Unused [c.a2, c.a3, c.a4, c.a5] →
      (s.locked = true → Fails s c (exec (.fwPatch c) s) stLocked) ∧
      (s.locked = false → s.patch.isSome = true → Fails s c (exec (.fwPatch c) s) stBusy) ∧
      (s.locked = false → s.patch = none → c.a1 ≠ 0 → ∀ o, o = startStaged (setBusy u (owedTo s c) true) (owedTo s c) c .patch c.a0.toNat c.a1.toNat →
        (∀ v, o = some v → Deferred s c (exec (.fwPatch c) s) v) ∧ (o = none → Fails s c (exec (.fwPatch c) s) stNores))) ∧
    (∀ m, (s.patch.isSome = true → applyPatch s m = (stBusy, s, 0)) ∧ (s.patch = none → PatchGood s m → applyPatch s m
        = (stOk, { s with patch := some (leAt m 4 4, m), fixed := { s.fixed with minPatch := leAt m 4 4 } }, BitVec.ofNat 64 (leAt m 4 4))) ∧
      (s.patch = none → m.length < patchLen m ∨ Config.patchSignatureOk (m.take (patchLen m)) (m.drop (patchLen m)) = false →
        ∀ v, v = raiseAlarm { s with sec := { s.sec with sigFails := s.sec.sigFails + 1 } } 5 →
        applyPatch s m = (stAuth, if 2 ≤ s.sec.sigFails then raiseAlarm v 7 else v, 0))) ∧
    (Passes s c true true true [] → Unused [c.a2, c.a3, c.a4, c.a5] → c.a1.toNat % 64 = 0 →
      (alarmLevel s < 2 → ∀ b, b = attestBody u (hostRead s c.a0.toNat 32) →
        Completes s c (exec (.attest c) s) (hostWrite u c.a1.toNat (b ++ (List.range 3309).map (Config.reportSignatureByte b))) stOk 4621) ∧
      (alarmLevel s = 2 → Fails s c (exec (.attest c) s) stAlarm)) ∧
    (Passes s c true true false [] → Unused [c.a2, c.a3, c.a4, c.a5] → alarmLevel s < 2 → keyTargetBad c.a1.toNat = false →
      ∀ key, unwrapKey (hostRead s c.a0.toNat 1136) = some key → s.fab.ue.length < 256 →
      Completes s c (exec (.keyLoad c) s) (installKey u c.a1.toNat key) stOk 0) ∧
    (Passes s c true true true [] → Unused [c.a1, c.a2, c.a3, c.a4, c.a5] → c.a0.toNat < 2 →
      Completes s c (exec (.alarmStatus c) s) u stOk (BitVec.ofNat 64 (alarmLevel s + 256 * s.sec.bits.toNat)) ∧
      Completes s c (exec (.alarmStatusClear c) s) (if alarmLevel s ≤ 1 then { u with sec := { u.sec with bits := u.sec.bits &&& 0x9B#8 } } else u)
        stOk (BitVec.ofNat 64 (alarmLevel s + 256 * s.sec.bits.toNat))) ∧
    (Passes s c true true false (snapFeats c) → Unused [c.a2, c.a3, c.a4, c.a5] → c.a0.toNat < 32 →
      ∀ v, v = { u with sec := { u.sec with snap := { u.sec.snap with armed := decide (c.a0.toNat ≠ 0), mask := BitVec.ofNat 5 c.a0.toNat, classes := c.a1 } } } →
      Completes s c (exec (.snapArm c) s) (fireSnap v 1) stOk 0) ∧
    (Passes s c true true false [] → Unused [c.a2, c.a3, c.a4, c.a5] → c.a1.toNat ≤ 14 →
      (∀ x, s.sec.snap.latched = some x → ∀ b, b = snapBytes c.a1.toNat x →
        Completes s c (exec (.snapRead c) s) (hostWrite u c.a0.toNat b) stOk (BitVec.ofNat 64 b.length)) ∧
      (s.sec.snap.latched = none → Fails s c (exec (.snapRead c) s) stBadstate)) ∧
    (Passes s c (decide (tnOf c = 0)) (decide (tnOf c = 0)) true [] → Unused [c.a1, c.a2, c.a3, c.a4, c.a5] →
      Completes s c (exec (.telemetry c) s)
        (hostWrite u c.a0.toNat ((List.range 4096).map (Config.telemetryByte (reported u (tnOf c)) (tnOf c)))) stOk 0) ∧
    (Passes s c true true false [] → Unused [c.a1, c.a2, c.a3, c.a4, c.a5] → ∀ i, i = c.a0.toNat → i < 4 → s.fixed.present.getLsbD i = true →
      chipState s i = .active ∨ chipState s i = .offline → (∀ e ∈ s.tenants, e.2.park = .active) →
      Deferred s c (exec (.chipletReset c) s) (beginFence u i (some (owedTo s c))))

/-- R44 to R47, R51, R382, R398 to R401, R411: the commands of a tenant's life, memory, images, pools and context, under conditions on the state and the
command's words. The model's choices: the salt is two free values (logs 6 and 22), a MEM_MAP that maps runs a shootdown (log 23), an image's sections are
coded as log 11 says and its bytes arrive in memory taken for them (log 24), and PREEMPT, RESUME, CTX_EXPORT and CTX_IMPORT end BADSTATE or NORES where
log 30 says. -/
def Obligations.TenantCommands : Prop :=
  ∀ s c u, u = readOn s c →
    (Passes s c true true false (openFeats c) → (openRule c).bad = false → (openConfid c = true → alarmLevel s < 2) → ∀ i asid sl, tenantIds s [] (openSlices c) = some (i, asid, sl) →
      ∀ a b : DWord, a = (takeFree u).1 → b = (takeFree (takeFree u).2).1 → ∀ v, v = (takeFree (takeFree u).2).2 →
      Completes s c (exec (.tenantOpen c) s)
        { v with tenants := tset s.tenants i (newTenant c asid sl (natBytes 8 a.toNat ++ natBytes 8 b.toNat)) } stOk (BitVec.ofNat 64 (i + 2 ^ 16 * asid))) ∧
    (Passes s c true false false [] → Unused [c.a0, c.a1, c.a2, c.a3, c.a4, c.a5] →
      Deferred s c (exec (.tenantClose c) s) (closeStep (closeWork u (tnOf c) (owedTo s c)) (tnOf c))) ∧
    (Passes s c false false false (mapFeats c) → mapBad c = false → ∀ n z x, n = c.a1.toNat → x = c.a2.toNat → z = nfld x 0 2 →
      ∀ asid, asid = cmdSpace s c →
      (n = 0 → Completes s c (exec (.memMap c) s) (mapDone u (tnOf c) true) stOk 0) ∧
      (n ≠ 0 → touchesMap s asid c.a0.toNat (n * 2 ^ sizeBits z) = true → Fails s c (exec (.memMap c) s) stBadaddr) ∧
      (n ≠ 0 → touchesMap s asid c.a0.toNat (n * 2 ^ sizeBits z) = false →
        ∀ v, mapRange u c.pick asid z c.a0.toNat n (nbit x 2) (nbit x 3) (nbit x 4) (nbit x 5) = some v →
        Deferred s c (exec (.memMap c) s) (startShoot (setBusy v (owedTo s c) true) (tnOf c) asid c.a0.toNat (c.a0.toNat + n * 2 ^ sizeBits z) []
          (some (owedTo s c)) (BitVec.ofNat 64 n) (!nbit x 7))) ∧
      ∀ v ls, unmapRange u c.pick asid c.a0.toNat (n * 65536) = some (v, ls) →
        Deferred s c (exec (.memMapUnmap c) s) (startShoot (setBusy v (owedTo s c) true) (tnOf c) asid c.a0.toNat (c.a0.toNat + n * 65536)
          (ls.map fun l => (l.pa, l.size)) (some (owedTo s c)) (BitVec.ofNat 64 (ls.foldl (fun k l => k + l.size / 65536) 0)) true)) ∧
    (Passes s c false false false [] → Unused [c.a3, c.a4, c.a5] → ∀ n, n = c.a1.toNat →
      (n < 64 → Fails s c (exec (.imageLoad c) s) stBadimage) ∧
      (64 ≤ n → Deferred s c (exec (.imageLoad c) s)
        (startXfer (setBusy u (owedTo s c) true) (owedTo s c) c .image c.a0.toNat c.a2.toNat n 64 .header))) ∧
    (Passes s c false false false [] → Unused [c.a1, c.a3, c.a4, c.a5] → c.a0.toNat % 2 ^ 63 < 2 ^ 8 →
      (c.a0.toNat % 2 ^ 8 ≠ 0 → Fails s c (exec (.imageLoadRom c) s) stNotfound) ∧
      (c.a0.toNat % 2 ^ 8 = 0 → mappedW s (cmdSpace s c) c.a2.toNat 16384 = true →
        ∀ r, r = addImage (commitVirt u none (cmdSpace s c) c.a2.toNat romImage) (tnOf c) c.a2.toNat romImage true →
        Completes s c (exec (.imageLoadRom c) s) r.2 stOk (BitVec.ofNat 64 r.1))) ∧
    (Passes s c false false false [1] → poolBad c = false → mappedW s (cmdSpace s c) c.a0.toNat (poolF c * poolL c * poolBp c) = true →
      ∀ i, i = lowestId s.pools 0 →
      (featOn s 2 = false → Completes s c (exec (.poolCreate c) s) { u with pools := tset u.pools i (newPool c none) } stOk (BitVec.ofNat 64 i)) ∧
      (featOn s 2 = true → ∀ b p v, takeMem u c.pick true (4 * (poolF c * poolL c * poolBp c)) 65536 = some (b, p, v) →
        Completes s c (exec (.poolCreate c) s) { v with pools := tset v.pools i (newPool c (some b)) } stOk (BitVec.ofNat 64 i))) ∧
    (Passes s c true false false [10] → Unused [c.a0, c.a1, c.a2, c.a3, c.a4, c.a5] → ∀ x, tget s.tenants (tnOf c) = some x →
      (x.park = .active → ∀ v, v = modTenant u (tnOf c) (fun y => { y with park := .draining s.clk (owedTo s c) }) →
        Deferred s c (exec (.preempt c) s) ((groupsOfTenant v (tnOf c)).foldl stopGroup v)) ∧
      (x.park ≠ .active → Fails s c (exec (.preempt c) s) stBadstate) ∧
      (∀ k, x.park = .parked k → ∀ ss v, ss = sectionsOf u (tnOf c) →
        v = modTenant (setBusy u (owedTo s c) true) (tnOf c) (fun y => { y with park := .resuming (owedTo s c), image := ss }) →
        Deferred s c (exec (.resume c) s) (if ss = [] then finishResume v (tnOf c) (owedTo s c) else v)) ∧
      (x.park = .active → Fails s c (exec (.resume c) s) stBadstate)) ∧
    (Passes s c true false false [10] → Unused [c.a2, c.a3, c.a4, c.a5] → ∀ x, tget s.tenants (tnOf c) = some x → ∀ ss, x.park = .parked ss →
      (x.confid = true → s.sec.imageKey = none → Fails s c (exec (.ctxExport c) s) stNofeat) ∧
      ((x.confid = true → s.sec.imageKey.isSome = true) → ∀ m h b out, m = imageBytes u x (freshSections u (tnOf c) ss) → h = m.take 4096 →
      b = m.drop 4096 ++ directory u (tnOf c) x ++ tailBytes u (tnOf c) → out = h ++ (if x.confid = true then sealBody (s.sec.imageKey.getD []) h b else b) →
      (out.length ≤ c.a1.toNat → Completes s c (exec (.ctxExport c) s) (hostWrite u c.a0.toNat out) stOk (BitVec.ofNat 64 out.length)) ∧
      (c.a1.toNat < out.length → Fails s c (exec (.ctxExport c) s) stBound))) ∧
    (Passes s c true true false [10] → Unused [c.a2, c.a3, c.a4, c.a5] →
      (c.a1.toNat < 4096 → Fails s c (exec (.ctxImport c) s) stBadimage) ∧
      (4096 ≤ c.a1.toNat → ∀ o, o = startStaged u (owedTo s c) c .context c.a0.toNat c.a1.toNat →
        (∀ v, o = some v → Deferred s c (exec (.ctxImport c) s) v) ∧ (o = none → Fails s c (exec (.ctxImport c) s) stNores))) ∧
    ∀ bs m n x y, plainImage s bs = .ok m → n = leAt m 8 8 → n ≤ m.length → readCtx (m.take n) = some x → readTail (m.drop n) x = some y →
      (∀ i asid v, importCtx s c.pick x y (m.drop n) = some (i, asid, v) → takeCtx s c.pick bs = (stOk, v, BitVec.ofNat 64 i)) ∧
      (importCtx s c.pick x y (m.drop n) = none → takeCtx s c.pick bs = (stNores, s, 0))

/-- R47 to R49, R54, R245, R339, R342, R343, R351 to R353, R370, R374, R379, R380: plans, requests, launches, graphs, hand-offs and routes from the host, under
conditions on the state and the command's words. A request is named by the index its tenant's programs know it by, which only a CTX_IMPORT makes another
than its own (log 56). The model's choices: a KV_EXPORT to a peer that nothing can be sent to ends ABORTED at once (log 20); an export entry replaces the
one of its device and peer tenant, and a route table that passes the end of the host's addresses is BADADDR (log 47). -/
def Obligations.RequestCommands : Prop :=
  ∀ s c u, u = readOn s c →
    (Passes s c false false false [1] → planBad c = false → ∀ i p, planParts s c = some (i, p) →
      (c.a0.toNat % 64 = 0 → ∀ m x ks, vread s (cmdSpace s c) c.a0.toNat 256 = some m → parseTmpl m = some x → tmplMapped s (cmdSpace s c) (planBudget c) x = true →
        checkGraph s (cmdSpace s c) x.graph x.ntask = .ok ks →
        ∃ v r, addPlan u c (some x) 0 = .ok v r ∧ Completes s c (exec (.modelPlan c) s) v stOk r) ∧
      (c.a0.toNat % 2 ^ 63 = 0 → 2 ≤ planV c → planV c ≤ 65536 → p.bp % (2 * p.p) = 0 → rowBytes p % 16 = 0 → rowBytes p ≤ 32768 → i.rom = true →
        ∀ b q v, takeMem u c.pick false (romAreaBytes (planBudget c)) 128 = some (b, q, v) →
        ∃ w r, addPlan v c none b = .ok w r ∧ Completes s c (exec (.modelPlanRom c) s) (writeRomParam w r.toNat) stOk r)) ∧
    (Passes s c false false false [4] → c.a0.toNat % 64 = 0 → c.a1.toNat < 2 ^ 16 → Unused [c.a2, c.a3, c.a4, c.a5] →
      ∀ m l, m = hostRead s c.a0.toNat 512 → l = leAt m 0 4 → admitBad m = false → ∀ p q, tget s.plans c.a1.toNat = some p → p.tenant = tnOf c →
      tget s.pools p.pool = some q → l + leAt m 4 4 ≤ 0xFFFFFF → (∀ x, p.tmpl = some x → 4 * l ≤ x.pcap) → (l + q.p - 1) / q.p ≤ atHand q →
      ∀ i, freeReq s = some i →
      ∀ raw, raw = (if leAt m 8 8 = 0 then (m.drop 256).take (4 * l) else []) →
      (enterReq u c m raw i p = none → Fails s c (exec (.reqAdmit c) s) stNores) ∧
      ∀ v phys a, enterReq u c m raw i p = some (v, phys, a) →
      (leAt m 8 8 ≠ 0 → ∀ w, w = setBusy (modReq v i fun r => { r with loading := true }) (owedTo s c) true →
        Deferred s c (exec (.reqAdmit c) s) (startPrompt w (owedTo s c) c i (bellDone (qpOf s c.fn c.q)) (leAt m 8 8) a (4 * l) phys)) ∧
      (leAt m 8 8 = 0 → ∀ r, tget v.reqs i = some r → Completes s c (exec (.reqAdmit c) s)
          (startKernel (if phys then commitBytes v none a (padPrompt raw) else commitVirt v none (cmdSpace s c) a (padPrompt raw)) i p) stOk r.handle)) ∧
    (Passes s c false false false [4] → c.a0.toNat < 2 ^ 14 → ∀ j, j = reqIn s (tnOf c) c.a0.toNat → ∀ r, tget s.reqs j = some r →
      r.tenant = tnOf c → r.loading = false →
      (Unused [c.a1, c.a2, c.a3, c.a4, c.a5] → ∀ busy, busy = (r.xpend || (preempted s (tnOf c) && r.st != .queued && r.st != .paused)) →
        (busy = true → Fails s c (exec (.reqCancel c) s) stBusy) ∧
        (busy = false → ended r.st = true → Fails s c (exec (.reqCancel c) s) stBadstate) ∧
        (busy = false → ended r.st = false → Deferred s c (exec (.reqCancel c) s)
          (if r.initer = true then modReq u j (fun y => { y with cancelp := true, cancels := y.cancels ++ [owedTo s c] })
          else cancelReq u j (lastIter u) [owedTo s c]))) ∧
      (Unused [c.a3, c.a4, c.a5] → c.a1.toNat < 2 → ∀ b, b = reqEntry (wordOut s r.handle) r →
        Completes s c (exec (.reqQuery c) s) (hostWrite u c.a2.toNat b) stOk 0 ∧
        (ended r.st = true → Completes s c (exec (.reqQueryRelease c) s) (releaseReq (hostWrite u c.a2.toNat b) j) stOk 0) ∧
        (ended r.st = false → Fails s c (exec (.reqQueryRelease c) s) stBadstate)) ∧
      (Unused [c.a4, c.a5] → c.a1.toNat < 2 → (r.penalty = 0 → c.a3 = 0) → c.a3.toNat % 64 = 0 →
        (c.a3 ≠ 0 → stateFault s (cmdSpace s c) r.penalty = none ∧ mappedW s (cmdSpace s c) c.a3.toNat (penBytes s (cmdSpace s c) r.penalty) = true) → forkBad r.st = false → r.committed + c.a2.toNat ≤ 0xFFFFFF →
        ∀ i, freeReq s = some i → ∀ e v, e = handleAt s (hIdx r.handle) → forkHandle u e i 1 e.c = some v →
        ∀ v', v' = (if c.a3 = 0 then v else commitVirt v none (cmdSpace s c) c.a3.toNat
          ((vread v (cmdSpace s c) r.penalty (penBytes v (cmdSpace s c) r.penalty)).getD [])) →
        ∀ h, h = handleWord (tnOf c) (handleAt v i).gen i (r.committed + c.a2.toNat) →
        ∀ w, w = { v' with reqs := tset v'.reqs i (forkEntry v' r h i c.a2.toNat c.a3.toNat (nbit c.a1.toNat 0)), admSeq := v'.admSeq + 1 } →
        Completes s c (exec (.reqFork c) s) (modReq w i fun z => { z with st := nextSt w z }) stOk h)) ∧
    (Passes s c false false false [] → c.a0.toNat % 64 = 0 →
      (Unused [c.a1, c.a2, c.a3, c.a4, c.a5] → roomForLaunch s = true → ∀ d, checkDesc s (tnOf c) c.a0.toNat id = .ok d →
        Deferred s c (exec (.launch c) s) (makeLaunch u (tnOf c) d (.direct (owedTo s c)))) ∧
      (Unused [c.a2, c.a3, c.a4, c.a5] → ∀ ks, checkGraph s (cmdSpace s c) c.a0.toNat c.a1.toNat = .ok ks →
        Deferred s c (exec (.graphSubmit c) s) (submitGraph u (tnOf c) c.a0.toNat ks (.host (owedTo s c))))) ∧
    (Passes s c false false false (if nbit c.a1.toNat 63 then [8] else []) → kvExportBad c = false → ∀ j, j = reqIn s (tnOf c) c.a0.toNat → ∀ r, tget s.reqs j = some r →
      r.tenant = tnOf c → r.loading = false → r.xpend = false → r.wantExport = none → exportable r.st = true →
      (canHand s (!c.a1.getLsbD 63) (c.a1.toNat % 2 ^ 32) = false → Fails s c (exec (.kvExport c) s) stAborted) ∧
      (canHand s (!c.a1.getLsbD 63) (c.a1.toNat % 2 ^ 32) = true → ∀ v, v = { u with nextKey := s.nextKey + 1, fab := { u.fab with xfers := tset u.fab.xfers s.nextKey (newExport u c j r (owedTo s c)) } } →
      Deferred s c (exec (.kvExport c) s) (if r.initer = true then modReq v j (fun y => { y with wantExport := some s.nextKey }) else startExport v s.nextKey))) ∧
    (Passes s c false false false [] → c.a1.toNat < 65536 → Unused [c.a2, c.a3, c.a4, c.a5] → ∀ p, tget s.plans c.a1.toNat = some p → p.tenant = tnOf c →
      ∀ x : KvXfer, x = { import_ := true, tenant := tnOf c, req := 0, plan := c.a1.toNat, tag := c.a0.toNat, zoubry := true, peer := 0, owed := owedTo s c, since := s.clk, manifest := none, pages := [], frames := [] } →
      Deferred s c (exec (.kvImport c) s)
        (replay (replay { u with nextKey := s.nextKey + 1, fab := { u.fab with xfers := tset u.fab.xfers s.nextKey x } }))) ∧
    (Passes s c true true false [6] → c.a1.toNat < 4 → c.a0.toNat % 64 = 0 → Unused [c.a2, c.a3, c.a4, c.a5] →
      ∀ b : Bool, b = decide (s.fab.inject = some 0) → ∀ k : Nat, k = (if b = true then 1 else 0) → ∀ l, l = routeEntries 0 (hostRead s c.a0.toNat 8192) →
      (bankSt s b = .retired → 2 ^ 64 < c.a0.toNat + 8192 → Fails s c (exec (.fabricRoutesLoad c) s) stBadaddr) ∧
      (bankSt s b = .retired → c.a0.toNat + 8192 ≤ 2 ^ 64 → l.all (fun e => !routeBad s.fab.devId e) = true →
        Completes s c (exec (.fabricRoutesLoad c) s) (setBank { u with fab := { u.fab with banks := tset u.fab.banks k (routesOf l) } } b .loaded) stOk (BitVec.ofNat 64 k)) ∧
      (bankSt s b = .loaded → ∀ v, v = setBank (if s.fab.inject.isSome then setBank u (!b) .flippedOut else u) b .inForce →
        Completes s c (exec (.fabricRoutesFlip c) s) (sendUnsent { v with fab := { v.fab with inject := some k } }) stOk (BitVec.ofNat 64 k)) ∧
      (bankSt s b = .flippedOut → bankCount s b = 0 →
        Completes s c (exec (.fabricRoutesRetire c) s) (setBank { u with fab := { u.fab with banks := tdel u.fab.banks k } } b .retired) stOk (BitVec.ofNat 64 k)) ∧
      (bankSt s b = .flippedOut → bankCount s b ≠ 0 → Fails s c (exec (.fabricRoutesRetire c) s) stBusy)) ∧
    (Passes s c true false false [6] → exportBad c = false → ∀ d p, d = c.a3.toNat % 2 ^ 12 → p = c.a3.toNat / 2 ^ 12 % 2 ^ 12 → 
      (c.a3.getLsbD 24 = false → ∀ rest, rest = s.fab.exports.filter (fun e => !(decide (e.dev = d) && decide (e.ptenant = p))) → rest.length < 4096 →
        Completes s c (exec (.fabricRoutesExport c) s)
        { u with fab := { u.fab with exports := rest ++ [{ dev := d, ptenant := p, tenant := tnOf c, base := c.a0.toNat, len := c.a2.toNat }] } } stOk 0) ∧
      (c.a3.getLsbD 24 = true → ∀ mine : Export → Bool, (∀ e, mine e = (decide (e.dev = d) && decide (e.ptenant = p) && decide (e.tenant = tnOf c))) →
        (s.fab.exports.find? mine = none → Fails s c (exec (.fabricRoutesExport c) s) stNotfound) ∧
        ∀ e, s.fab.exports.find? mine = some e →
          Deferred s c (exec (.fabricRoutesExport c) s) (startShoot
            (setBusy { u with fab := { u.fab with exports := u.fab.exports.filter fun e => !mine e } } (owedTo s c) true)
            (tnOf c) (cmdSpace s c) e.base (e.base + e.len) [] (some (owedTo s c)) 0 false)))

/-- R36, R39, R41: the checks of a command go in order: ALARM, BADTENANT, NOTREADY, NOFEAT, BADFIELD, and the first that fails is the status of a command
that changes nothing; a command in a queue that cannot be read stays there; LAUNCH is read only while the distributor has room; an OPC outside the table is BADOP.
TENANT_OPEN that names a function other than 0 needs SRIOV, else NOFEAT: the model's choice (log 22). -/
def Obligations.CommandChecks : Prop :=
  (∀ mk e, HasRow mk e → ∀ s c, (canRead s c.fn c.q = false → exec (mk c) s = .next s) ∧
    (canRead s c.fn c.q = true → ∀ st, firstFailure s c e = some st → Fails s c (exec (mk c) s) st)) ∧
  (∀ s c, (roomForLaunch s = false → exec (.launch c) s = .next s) ∧
    (roomForLaunch s = true → canRead s c.fn c.q = true → ∀ st, firstFailure s c (tenantRow fun _ => []) = some st → Fails s c (exec (.launch c) s) st)) ∧
  ∀ s fn q h c, canRead s fn q = true → c.fn = fn → c.q = q → parseCommand fn q [] (headBytes s fn q) = (h, c) → opcKnown h = false →
    Fails s c (.next (badCommand fn q s)) stBadop

/-- R32, R34, R35: a doorbell write moves the tail or the head of an enabled pair, counts the entries it brings, and is a doorbell fault where it goes past what
the queue holds; QCTL enables and disables a pair and clears ERR; a base is written while EN is 0, its bits 5 to 0 reading 0; a command that is being carried out
still keeps the queue; any other access is dropped, and a read that is dropped returns 0. The model's choices: the sizes of an enable that is refused stay,
and EN rising starts the pair with nothing owed from before (log 5); a doorbell acts on an enabled pair with ERR set too (log 52). -/
def Obligations.QueueRegisters : Prop :=
  ∀ s fn q p, qpExists s fn q = true → p = qpOf s fn q → ∀ w : Word, ∀ n, n = w.toNat % 65536 →
    (s.rdy = true → p.en = true → ∀ len more, len = 16 * 2 ^ p.sqsz → more = (n + len - p.sqtail) % len →
      (n = p.sqtail → exec (.sqtdbWrite fn q w) s = .next s) ∧
      (n ≠ p.sqtail → len ≤ n ∨ len ≤ (p.sqtail + len - p.sqhead) % len + more →
        exec (.sqtdbWrite fn q w) s = .next (setQp s fn q { p with err := true, stopped := true })) ∧
      (n ≠ p.sqtail → n < len → (p.sqtail + len - p.sqhead) % len + more < len →
        exec (.sqtdbWrite fn q w) s = .next (setQp s fn q { p with sqtail := n, bells := p.bells ++ [more] }))) ∧
    (s.rdy = true → p.en = true → ∀ len, len = 16 * 2 ^ p.cqsz →
      (len ≤ n ∨ (p.cqtail + len - p.cqhead) % len < (n + len - p.cqhead) % len →
        exec (.cqhdbWrite fn q w) s = .next (setQp s fn q { p with err := true, stopped := true })) ∧
      (n < len → (n + len - p.cqhead) % len ≤ (p.cqtail + len - p.cqhead) % len →
        exec (.cqhdbWrite fn q w) s = .next (drainPosts (setQp s fn q { p with cqhead := n }) fn q (p.post.length + 1)))) ∧
    (p.en = false → w.getLsbD 31 = true → ∀ e, e = { p with err := p.err && !w.getLsbD 30, sqsz := w.toNat / 2 ^ 16 % 16, cqsz := w.toNat / 2 ^ 20 % 16 } →
      (e.sqsz ≤ 8 → e.cqsz ≤ 8 → exec (.queueEnable fn q w) s = .next (ringOut (setQp s fn q { e with
        en := true, sqhead := 0, sqtail := 0, cqtail := 0, cqhead := 0, phase := true, era := e.era + 1, stopped := e.stopped && e.err, bells := [], post := [] }) fn q)) ∧
      (8 < e.sqsz ∨ 8 < e.cqsz → exec (.queueEnable fn q w) s = .next (setQp s fn q { e with err := true }))) ∧
    (p.en = true → w.getLsbD 31 = false → exec (.queueDisable fn q w) s = .next (setQp s fn q { p with en := false, err := p.err && !w.getLsbD 30 })) ∧
    (p.en = true → w.getLsbD 31 = true → w.getLsbD 30 = true → exec (.qctlErrClear fn q w) s = .next (setQp s fn q { p with err := false })) ∧
    (p.en = false → ∀ x : DWord,
      exec (.registerWrite fn (0x1000 + 32 * q) 8 x) s = .next (setQp s fn q { p with sqb := x &&& ~~~0x3F#64 }) ∧
      exec (.registerWrite fn (0x1000 + 32 * q + 8) 8 x) s = .next (setQp s fn q { p with cqb := x &&& ~~~0x3F#64 })) ∧
    (s.rdy = true → regRead s fn 0 4 = (dsts s).setWidth 64 ∧ regRead s fn (0x1000 + 32 * q) 8 = p.sqb ∧ regRead s fn (0x1000 + 32 * q + 8) 8 = p.cqb ∧
      regRead s fn (0x1000 + 32 * q + 16) 4 = (qctl p).setWidth 64) ∧
    (∀ off width, width ≠ 4 ∧ width ≠ 8 ∨ off % width ≠ 0 → regRead s fn off width = 0) ∧
    (∀ off width x, width ≠ 4 ∧ width ≠ 8 ∨ off % width ≠ 0 ∨ off < 0xFF8 → exec (.registerWrite fn off width x) s = .next s)

/-- R20, R164, R165, R168, R172, R235, R271 to R274, R285, R287: what the events of memory instructions do: an access that no earlier one holds up reads or writes
the bytes at its physical address; data land in a register that is still the one allocated, of a live thread; the last lane completes the flag. -/
def Obligations.MemoryPerformed : Prop :=
  (∀ s k o, tget s.ops k = some o →
    (∀ b l, o.kind = .load b → o.space = .global → (∀ x ∈ o.accs, x.lane = l → x.addr < 2 ^ 54) →
      (∀ x ∈ o.accs, x.lane = l → x.done = false → accReady s k o x false = true ∧ storesSeen s k o x.addr o.size = []) →
      performLoad s k l = (o.accs.filter fun x => decide (x.lane = l) && !x.done).foldl (fun t x => fillGlobal t o.core (x.addr / 128))
        (putOp s k { o with accs := o.accs.map fun x =>
          if x.lane = l ∧ x.done = false then { x with got := mread s.mem x.addr o.size, bad := poisonedAt s x.addr o.size, done := true } else x }) ∧
      ((∀ x ∈ o.accs, x.lane = l → x.done = false → x.addr / 128 ∈ (coreOf s o.core).l1) → (performLoad s k l).mem = s.mem)) ∧
    (∀ b m ls s1 o1, o.kind = .load b → ls = lanesOf (m &&& opLanes o &&& ~~~o.landed) → ls ≠ [] → s1 = ls.foldl (fun t l => performLoad t k l) s →
      tget s1.ops k = some o1 → (∀ x ∈ o1.accs, x.lane ∈ ls → x.done = true) →
      ∀ s2 o2, s2 = ls.foldl (fun t l => landLane t o1 l) s1 → o2 = { o1 with landed := o1.landed ||| (m &&& opLanes o1) } →
      exec (.loadResultLand k m) s = .next (if opLanes o2 &&& ~~~o2.landed = 0 then endOp s2 k o2 (o2.err || o2.accs.any Acc.bad) (errClass o2) else putOp s2 k o2)) ∧
    (∀ l x, isStoreOp o = true → o.accs.find? (fun x => decide (x.lane = l) && !x.done) = some x →
      (o.space = .global → x.addr < 2 ^ 54 → accReady s k o x true = true → exec (.storeCommit k l) s
        = .next (doneAcc (groupCommit s (some o.core) o.ctx x.addr x.data) k o (fun y => decide (y.lane = l)) false 1)) ∧
      (o.space = .global → 2 ^ 54 ≤ x.addr → exec (.storeCommit k l) s = .next (sendAcc s k o x)) ∧
      (o.space = .window → accReady s k o x false = true → ∀ r, r = winStore s (tenantOf s o.launch) x.addr x.data →
        exec (.storeCommit k l) s = .next (wakeHeld (doneAcc r.1 k o (fun y => decide (y.lane = l)) r.2 2)))) ∧
    (isStoreOp o = true → (∀ x ∈ o.accs, x.done = false → presentFor s o x = true ∧
        ∀ e ∈ s.ops, e.1 < k → e.2.ctx = o.ctx → e.2.space = o.space → pendsOn e.2 x.addr (accLen o) = false) →
      (o.space = .scratch → exec (.scratchpadStoreComplete k) s
        = .next (endOp ((o.accs.filter fun x => !x.done).foldl (fun t x => groupSpad t o.ctx o.wg x.addr x.data) s) k o false 1)) ∧
      (o.space = .priv → exec (.scratchpadStoreComplete k) s = .next (endOp (o.accs.foldl (fun t x => storePriv t o x) s) k o false 1))) ∧
    (∀ x, o.accs.find? (fun x => !x.done) = some x → isAtomOp o = true → accReady s k o x true = true → presentFor s o x = true →
      fenceOpen s k o = false → (o.rel = true → releaseReady s o.ctx o.wg k o.sc = true) → ∀ r, r = performAtom s o x →
      ∀ last, last = (o.accs.all fun y => y.done || decide (y.lane = x.lane)) →
      exec (.atomicPerform k) s = .next (doneAcc (if last = true then landWoken r.1 o else r.1) k o (fun y => decide (y.lane = x.lane)) r.2 1) ∧
      ∀ aop, o.kind = .reduce aop → o.space = .global → r = (groupCommit s (some o.core) o.ctx x.addr
        (natBytes o.size (aopNew aop o.size (leNat (mread s.mem x.addr o.size)) (leNat (x.data.take o.size)) 0)), poisonedAt s x.addr o.size)) ∧
    (isAtomOp o = true → o.accs.find? (fun x => !x.done) = none →
      exec (.atomicPerform k) s = .next (doneAcc (landWoken s o) k o (fun _ => false) false 1))) ∧
  (∀ s own ctx a bs, (groupCommit s own ctx a bs).mem = (commitBytes s own a bs).mem) ∧
  (∀ s own a bs x, mget (commitBytes s own a bs).mem x = if a ≤ x ∧ x < a + bs.length then bs.getD (x - a) 0 else mget s.mem x) ∧
  ∀ g n tag l w bad r, n < 64 → l < 16 → g.v.getD n none = some r →
    (r.tag = tag → g.alive.getLsbD l = true → readV (landV g n tag l w bad) n l = w ∧
      ∀ n' l', n' < 64 → l' < 16 → n' ≠ n ∨ l' ≠ l → readV (landV g n tag l w bad) n' l' = readV g n' l') ∧
    (r.tag ≠ tag ∨ g.alive.getLsbD l = false → landV g n tag l w bad = g)

/-- R163, R193, R242, R243, R274, R281 to R283, R298, R390: the answers that a group waits for come to it: a translation from the chiplet's TLB or by a walk that
joins, starts or, with 1,024 in flight, waits in order, whose result is that of the tables wherever the page-walk caches agree with them;
what a shootdown leaves in those (uncache) is exactly the entries outside its range; a check, race records; memory and
registers are poisoned; a chiplet acknowledges a shootdown once no access with an old translation is pending. The model's choices: what the page-walk caches
keep at a completed walk (log 16), that a full TLB gives up the entry the event names (log 53), and that a chiplet's acknowledgement is one event (log 23). -/
def Obligations.TranslationEvents : Prop :=
  (∀ s c g victim va, tget s.groups c = some g → g.want = .walk va → g.answered = false → inWalk s c = false →
    ∀ asid e, asid = asidOf s g.launch → e = chipFind s g.core asid va →
    (∀ t, e = some t → exec (.lltlbLookupDone c victim) s = .next (answer (fillCore s g.core victim t) c id)) ∧
    (e = none → ∀ w, w = s.walks.find? (fun w => decide (w.2.asid = asid) && decide (w.2.page = va / 65536)) →
      (∀ k x, w = some (k, x) → exec (.lltlbLookupDone c victim) s = .next { s with walks := tset s.walks k { x with reqs := nsAddAll [c] x.reqs } }) ∧
      (w = none → s.walks.length < 1024 → exec (.lltlbLookupDone c victim) s = .next { s with
        nextKey := s.nextKey + 1, walks := tset s.walks s.nextKey { asid := asid, page := va / 65536, reqs := [c], chips := [] } }) ∧
      (w = none → 1024 ≤ s.walks.length → exec (.lltlbLookupDone c victim) s = .next { s with walkq := s.walkq ++ [{ asid := asid, page := va / 65536, ctx := some c, chip := g.core / 64 }] }))) ∧
  (∀ s k w victim, tget s.walks k = some w → ∀ r, r = walkCached s w.asid (w.page * 65536) →
    ∀ same : Nat × Walk → Bool, (∀ e, same e = true ↔ e.1 = k ∨ ∃ l, r = .page l ∧ e.2.asid = w.asid ∧ l.va ≤ e.2.page * 65536 ∧ e.2.page * 65536 < l.va + l.size) →
    ∀ t, t = { cacheWalk s w.asid (w.page * 65536) r with walks := s.walks.filter fun e => !same e } →
    (∀ l, r = .page l → ∀ p, p = walkEnters t w.asid l →
      exec (.walkComplete k victim) s = .next (walkSent p.2 (s.walks.filter same) victim (some p.1) .xlate s.walkq.length)) ∧
    (r = .prot → exec (.walkComplete k victim) s = .next (walkSent t (s.walks.filter same) victim none .prot s.walkq.length)) ∧
    (r = .xlate → exec (.walkComplete k victim) s = .next (walkSent t (s.walks.filter same) victim none .xlate s.walkq.length))) ∧
  (∀ s asid va root, tget s.roots asid = some root → ∀ e1, e1 = mreadN s.mem (root + 8 * (va / 2 ^ 42 % 8192)) 8 →
    (∀ p, cachedEntry s.walkCache asid va 1 = some p → p = e1) →
    (∀ p, cachedEntry s.walkCache asid va 2 = some p → p = mreadN s.mem (ptePa e1 + 8 * (va / 2 ^ 29 % 8192)) 8) →
    walkCached s asid va = walk s asid va ∧ walkCached (cacheWalk s asid va (walkCached s asid va)) asid va = walk s asid va) ∧
  (∀ t asid lo hi e, e ∈ uncache t asid lo hi ↔ e ∈ t ∧ (e.asid ≠ asid ∨ hi ≤ e.index * 2 ^ levelBits e.level ∨ (e.index + 1) * 2 ^ levelBits e.level ≤ lo)) ∧
  (∀ s c g, tget s.groups c = some g → g.answered = false →
    (g.want = .check → exec (.checkAnswer c) s = .next (answer s c id)) ∧
    (∀ secs, g.want = .race secs → exec (.raceRecordsArrive c) s = .next (answer { s with race := secs.foldl (fun t x => tset t x { recOf s x with holder := some g.core }) s.race } c id))) ∧
  (∀ s c g, tget s.groups c = some g →
    exec (.registerEccError c .corrected) s = .next { s with tele := { s.tele with corrected := s.tele.corrected + 1 } } ∧
    (∀ n l r, g.v.getD n.toNat none = some r → exec (.registerEccError c (.vword n l)) s = .next (putGroup s c { g with
      v := g.v.setIfInBounds n.toNat (some { r with poison := r.poison ||| BitVec.ofNat 16 (2 ^ l.toNat) }) })) ∧
    (∀ n (hi : Bool), n ≠ 0 → exec (.registerEccError c (.greg n hi)) s
      = .next (putGroup s c { g with gpoison := g.gpoison ||| BitVec.ofNat 64 (2 ^ (2 * n.toNat + if hi then 1 else 0)) })) ∧
    (inSlot g = false → exec (.registerEccError c .recordHeader) s = .next (headerError s c g))) ∧
  (∀ s line, ∃ t, exec (.memoryEccError line) s = .next t ∧ (∀ l, l ∈ t.badLines ↔ l = line ∨ l ∈ s.badLines) ∧ t = { s with badLines := t.badLines }) ∧
  ∀ s sd x chip, tget s.shoots sd = some x → chip ∈ x.chips → mayAck s chip x.asid x.lo x.hi = true →
    exec (.shootdownAck sd chip) s = .next (settleShoot { cleanTlbs s chip x.asid x.lo x.hi with shoots := tset s.shoots sd { x with chips := nsDel chip x.chips } } sd)

/-- R226, R229, R236, R237, R239, R246 to R248, R389, R395, R397: when records relaunch, bins time out, units are admitted, handler groups start, the firmware
disposes of records, and launches complete. A record read from a spill
cell whose header is lost is discarded. A handler group that is due keeps units waiting; its group holds the record in g3 to g18 and 0 in g19. The model's choices (log 32): g2 of the handler group reads 0xFFFF_FFFF, the WGLIN of R393 for
what is outside the grid, and a direct launch completes with its id as RESULT. -/
def Obligations.ResidencyEvents : Prop :=
  (∀ s c g p q, tget s.groups c = some g → mayRelaunch s g = true → slotTakes s g p q = true →
    (∀ e ∈ s.groups, e.2.core = g.core → mayRelaunch s e.2 = true → readyBefore s e.2 g = true → ∀ p' < 8, ∀ q' < 32, slotTakes s e.2 p' q' = false) →
    (∀ h, reloadRecord s c g = some h → ∀ r, r = (if g.cause = .preempt then closeRegion s h else (s, h)) →
      exec (.recordRelaunch c p q) s = .next (putGroup r.1 c (rereadHeader s { r.2 with res := .running, store := .none, liveg := 0, part := p, slot := q }))) ∧
    (reloadRecord s c g = none → exec (.recordRelaunch c p q) s = .next (headerError s c g)) ∧
    ((∀ k, g.store ≠ .spill k) → reloadRecord s c g = some g)) ∧
  (∀ s c g, tget s.groups c = some g → g.res = .opened →
    (g.since + 512 ≤ s.clk → exec (.huddleBinTimeout c) s = .next (emitBin s c g)) ∧
    (s.clk < g.since + 512 → exec (.huddleBinTimeout c) s = .next s)) ∧
  (∀ s places, ((∃ e ∈ s.launches, handlerDue s e.2 = true) → exec (.admissionStep places) s = .next s) ∧
    ((∀ e ∈ s.launches, handlerDue s e.2 = false) → admitOrder s = [] → exec (.admissionStep places) s = .next s) ∧
    ∀ l k t, (∀ e ∈ s.launches, handlerDue s e.2 = false) → admitOrder s = (l, k) :: t →
      (k.desc.cls = 0 → ∀ r, placeAll s l k places k.next ((gridOf k.desc - k.next) / max 1 k.desc.gang) = some r →
        exec (.admissionStep places) s = .next (admitAll (modLaunch r.1 l fun x => { x with next := gridOf k.desc }) r.2 t)) ∧
      (k.desc.cls ≠ 0 → ∀ r, placeUnit s l k k.next places = some r →
        exec (.admissionStep places) s = .next (admitAll (modLaunch r.1 l fun x => { x with next := k.next + k.desc.gang }) r.2 t)) ∧
      (k.desc.cls ≠ 0 → placeUnit s l k k.next places = none → exec (.admissionStep places) s = .next s)) ∧
  (∀ s l k, tget s.launches l = some k →
    (∀ r core place, nextRecord k = some r → handlerDue s k = true → chooseCore s (fun c => coreAccepts s c k.tenant k.desc.pword 1 0 0) = some core →
      ∃ t : State, exec (.handlerStart l place) s = .next (modLaunch t l fun x => { x with server := some r.seq }) ∧
        (∃ w, tget t.wgs (s.nextKey + 1) = some w ∧ w.handler = some r.seq ∧ w.core = core ∧ w.threads = 16) ∧
        ∃ h, tget t.groups (s.nextKey + 2) = some h ∧ h.res = .running ∧ h.pc = BitVec.ofNat 64 k.desc.trap ∧ readG h 1 = k.desc.param ∧ readG h 2 = 0xFFFFFFFF#64 ∧
          (∀ i < 16, readG h (3 + i) = BitVec.ofNat 64 (leNat (((faultBytes { r with launch := k.ident }).drop (8 * i)).take 8))) ∧ readG h 19 = 0) ∧
    (∀ r, k.fq.find? (fun r => !r.fw && r.kind != 3) = some r → tenantRuns s k.tenant = true → ∀ ends : Bool, ends = (k.aborted || k.lost) →
      (ends = true ∨ (k.desc.trap = 0 ∧ holdsXlate r = false) → exec (.firmwareDispose l) s = .next (firmwareEnd (modLaunch s l fun x => dropRecord x r.seq) r)) ∧
      (ends = false → k.desc.trap = 0 → holdsXlate r = true →
        exec (.firmwareDispose l) s = .next (modLaunch { s with tele := { s.tele with xlateHeld := s.tele.xlateHeld ++ [(tenantOf s l, r.va)] } } l fun x =>
          { x with fq := x.fq.map fun q => if q.seq = r.seq then { q with fw := true, heldAt := s.clk } else q })) ∧
      (ends = false → k.desc.trap ≠ 0 → exec (.firmwareDispose l) s = .next s)) ∧
    (∀ n r, k.fq.find? (fun r => r.fw && decide (r.seq = n)) = some r → r.heldAt + 1200000000 ≤ s.clk → tenantRuns s k.tenant = true →
      exec (.xlateHoldTimeout l n) s = .next (firmwareEnd (modLaunch s l fun x => dropRecord x n) r)) ∧
    (launchOver s l k = false → exec (.launchComplete l) s = .next s) ∧
    (launchOver s l k = true →
      (∀ o, k.origin = .direct o → exec (.launchComplete l) s = .next (complete (dropLaunch s l) o (endStatus s k) (BitVec.ofNat 64 k.ident))) ∧
      (k.origin = .imported → exec (.launchComplete l) s = .next (dropLaunch s l)) ∧
      ∀ g i, k.origin = .task g i → exec (.launchComplete l) s = .next (taskOver s l k g i)))

/-- R177, R178, R183, R187, R188, R190, R195, R305 to R310, R313, R314: the engines' events: a line of a copy lands, an mma starts with a shadow of its tile and
then writes it, a claim is granted whole, a chain entry is taken and completes, and a command that can complete does: its result, its flag, and what waited.
An access that needs a walk which is in flight asks for it and waits. The model's choice (log 44): a fault of writing an entry's RESULT, STATUS or completion
word is an engine fault of that entry. -/
def Obligations.EngineEvents : Prop :=
  (∀ s k i c, tget s.cmds k = some c → stoppedT s c.tenant = false → c.op = 0x58 → c.started = true → c.paused = false → c.failed = false → i ∉ c.landed →
    i < copyUnits c → acqReady s k c = true → ∀ d, d = c.b.toNat + 128 * i →
    (∀ bs bad, c.sub = 0 → engRead s k c false (copySrc c i) 128 = .bytes bs bad →
      exec (.copyLineLand k i) s = .next (markLanded (landLines (writeSpad (engTouch s c.core (cmdAsid s c) (copySrc c i) 128) c.wg d bs) k c.wg [d / 128]) k i bad)) ∧
    (∀ bs bad, c.sub = 1 → engRead s k c true (copySrc c i) 128 = .bytes bs bad → engBlocked s c.core (cmdAsid s c) d 128 = false →
      (engXlat s c.core (cmdAsid s c) d 128 true = none → exec (.copyLineLand k i) s = .next (markLanded (engCommit s c.core (cmdAsid s c) d bs) k i bad)) ∧
      (∀ code va, engXlat s c.core (cmdAsid s c) d 128 true = some (code, va) → exec (.copyLineLand k i) s = .next (engFault s k code va))) ∧
    (c.sub = 0 → engRead s k c false (copySrc c i) 128 = .wait →
      exec (.copyLineLand k i) s = .next (engAsk s c.core (cmdAsid s c) (copySrc c i) 128)) ∧
    (∀ code va, c.sub = 0 → engRead s k c false (copySrc c i) 128 = .fault code va → exec (.copyLineLand k i) s = .next (engFault s k code va))) ∧
  (∀ s k c, tget s.cmds k = some c → c.chain = none → c.failed = true → exec (.engineComplete k) s = .next (endFailed s k)) ∧
  (∀ s k c, tget s.cmds k = some c → c.chain = none → c.failed = false → c.op ≠ 0x58 → c.op ≠ 0x75 →
    (∀ t err res, finOf s k c = .done t err res → exec (.engineComplete k) s = .next (afterOp (endCmd (modCmd t k fun d => { d with result := res }) k err) c.wg)) ∧
    (∀ code va, c.op ≠ 0x61 → finOf s k c = .fault code va → exec (.engineComplete k) s = .next (engFault s k code va)) ∧
    (∀ t, finOf s k c = .later t → exec (.engineComplete k) s = .next t) ∧
    (finOf s k c = .wait → exec (.engineComplete k) s = .next s)) ∧
  (∀ s k c, tget s.cmds k = some c → c.chain = none → c.failed = false → c.op = 0x58 → c.started = true → c.paused = false →
    (∀ e ∈ slicesOf s c, relReady s e.1 e.2 = true ∧ linesDone e.2 = true) →
    exec (.engineComplete k) s = .next (endSlices s c ((slicesOf s c).any fun e => e.2.err))) ∧
  (∀ s k c, tget s.cmds k = some c → c.op = 0x5A →
    (mmaReady s k c = true → c.phase = 0 → stoppedT s c.tenant = false → nextProduct s k c = true → exec (.mmaStart k) s = .next (modCmd s k fun d => { d with
      phase := 1, started := true, since := s.clk, shadow := if d.shadow.isSome then d.shadow else some (tileOf s c.wg c.a.toNat) })) ∧
    (mmaReady s k c = true → c.phase = 1 → c.chain = none → ∀ r, r = mmaTile s c.core c.b.toNat c.c.toNat c.fmt.toNat (tileOf s c.wg c.a.toNat) →
      exec (.mmaComplete k) s = .next (afterOp (endCmd (writeTile s c c.a.toNat r.1) k r.2) c.wg)) ∧
    (c.ended = true → exec (.mmaComplete k) s = .next (afterOp (endCmd s k false) c.wg))) ∧
  (∀ s k c, tget s.cmds k = some c → ∀ tile, c.op = 0x5A ∧ tile = c.a.toNat ∨ c.op = 0x59 ∧ tile = copyfTile c → c.phase = 1 →
    exec (.slotTileUncorrectableError k) s
      = .next (endFailed (modCmd ((slicesOf s c).foldl (fun t e => failMark t e.1) (restoreTile s c tile)) k fun d => { d with phase := 0 }) k)) ∧
  (∀ s k c, tget s.cmds k = some c → c.op = 0x5D → c.sub = 0 → c.started = false →
    (claimReady s k c = true → exec (.slotClaimGrant k) s = .next (grantClaim s k c)) ∧
    (claimReady s k c = false → exec (.slotClaimGrant k) s = .next s)) ∧
  (∀ s core ch x, chainAt s core ch = some x → ch < 4 → stoppedT s (wgTenant s x.owner) = false → unfetched s core ch = none →
    (x.head < x.tail → storeFull s core = false → exec (.chainEntryTake core ch) s = .next (takeEntry s core ch x.head x)) ∧
    (x.tail ≤ x.head → exec (.chainEntryTake core ch) s = .next s)) ∧
  (∀ s k c ch n x, tget s.cmds k = some c → c.chain = some (ch, n) → chainAt s c.core ch = some x → c.failed = false →
    ∀ u, (∃ t err res, finOf s k c = .done t err res ∧ u = afterOp (endCmd (modCmd t k fun d => { d with result := res }) k err) c.wg) ∨
      (c.op = 0x5E ∧ c.sub = 10 ∧ c.paused = false ∧ u = afterOp (endEntry { s with cmds := tdel s.cmds k } c.core ch n 3 c.phase 0) c.wg) →
    ∀ ps : List (Nat × Nat), ps = [(entryVa x n + 40, 12), (x.base.toNat, 8)] → ∀ id, id = wgAsid s x.owner →
    ((∃ p ∈ ps, engBlocked s c.core id p.1 p.2 = true) → exec (.chainEntryComplete k) s = .next (ps.foldl (fun v p => engAsk v c.core id p.1 p.2) s)) ∧
    ((∀ p ∈ ps, engBlocked s c.core id p.1 p.2 = false) →
      (entryFault s c.core x n = none → exec (.chainEntryComplete k) s = .next u) ∧
      ∀ code va, entryFault s c.core x n = some (code, va) → exec (.chainEntryComplete k) s = .next (engFault s k code va))) ∧
  ∀ s k line c p w, tget s.cmds k = some c → tget s.pools c.pool = some p → tget s.wgs c.wg = some w → c.op = 0x60 → c.paused = false → line ∈ c.lines →
    acqReady s k c = true → (∀ t ∈ rowsIn c (rowIn p (gatType c)) line, ∀ r, r = rowLoc s p c t →
      locBlocked s r.1 r.2 (rowBytes p) = false ∧ locFault s r.1 r.2 (rowBytes p) false = none) →
    ∃ t d, exec (.gatherLineLand k line) s = .next t ∧ line ∉ absentOf t c.wg ∧ t.mem = s.mem ∧ tget t.cmds k = some d ∧ line ∉ d.lines ∧ line ∈ d.landed

/-- R320, R323, R324, R326, R327, R412: the page engine's events. An eviction's victim turns EVICTING; when its copy is complete the frame turns TIER2 unless a pin
stands, and gives up its slot; a fetch starts for an append that waits and leaves the frame RESIDENT; a fault abandons an eviction. -/
def Obligations.FrameEvents : Prop :=
  ∀ s i p, tget s.pools i = some p →
    (p.tier2.isSome = true → p.halted = false →
      (∀ f, victimOf s i p = some f → exec (.evictionStart i) s = .next { s with pools := tset s.pools i (setFrame p f { frameOf p f with st := .evicting, copied := false }) }) ∧
      (victimOf s i p = none → exec (.evictionStart i) s = .next s)) ∧
    (p.tier2 = none ∨ p.halted = true → exec (.evictionStart i) s = .next s) ∧
    (∀ f x, x = frameOf p f → x.st = .evicting → x.copied = false →
      (∀ e, frameFault s p f false = some e → exec (.evictionCopyDone i f) s = .next { s with pools := tset s.pools i { abandonEviction p f with halted := true } }) ∧
      (frameFault s p f false = none → ∃ t q, exec (.evictionCopyDone i f) s = .next t ∧ t = { copyFrame s p f true with pools := tset s.pools i q } ∧
        (x.pins = 0 → x.ref ≠ 0 → (frameOf q f).st = .tier2 ∧ (frameOf q f).slot = none ∧ q.ctr = { p.ctr with evict := p.ctr.evict + 1 }) ∧
        (x.pins = 0 → x.ref = 0 → (frameOf q f).st = .free) ∧
        (x.pins ≠ 0 → frameOf q f = { x with copied := true } ∧ q.ctr = p.ctr))) ∧
    (∀ f, fetchWaiters s i f ≠ [] → ∀ q, startFetch p f = some q → exec (.fetchStart i f) s = .next { s with pools := tset s.pools i q }) ∧
    (∀ f, fetchWaiters s i f = [] → exec (.fetchStart i f) s = .next s) ∧
    ∀ f x, x = frameOf p f → x.st = .fetching →
      (frameFault s p f true = none → ∃ t q, exec (.fetchDone i f) s = .next t ∧ t = { copyFrame s p f false with pools := tset s.pools i q } ∧
        frameOf q f = { x with st := .resident } ∧ q.ctr = { p.ctr with fetch := p.ctr.fetch + 1 } ∧ ∀ j ≠ f, frameOf q j = frameOf p j) ∧
      (∀ code va k d r, frameFault s p f true = some (code, va) → fetchWaiters s i f = (k, d) :: r → exec (.fetchDone i f) s = .next (engFault s k code va)) ∧
      (frameFault s p f true ≠ none → fetchWants s i f = [] →
        exec (.fetchDone i f) s = .next { s with pools := tset s.pools i (giveSlot (setFrame p f { x with st := .tier2 }) f) })

/-- R14, R334, R340, R341, R344 to R351, R411: the Umpire's events: the next ready plan forms an iteration of the requests that keep their frames, its graph
completes and the scorer is launched, the scorer's end fails what is left; a deadline passes once; an admission kernel ends; a waiting stream is polled. The model's
readings (log 29): the plan formed last is remembered although every request was dropped, and a scorer descriptor that fails R54 or asks for other than 16 threads
fails the iteration's requests. -/
def Obligations.UmpireEvents : Prop :=
  (∀ s n p q, tget s.plans n = some p → tget s.pools p.pool = some q →
    (nextPlan s = some n → ∀ r, r = countFrames s q (choose s n p) → ∀ t, t = r.2.foldl pauseReq { s with lastPlan := n } →
      (r.1 = [] → exec (.iterationForm n) s = .next t) ∧ (r.1 ≠ [] → exec (.iterationForm n) s = .next (instantiate t n p r.1))) ∧
    (nextPlan s ≠ some n → exec (.iterationForm n) s = .next s)) ∧
  (∀ s n p it g gr, tget s.plans n = some p → p.iter = some it → it.scoring = false → graphOfPlan s n = some (g, gr) →
    ∀ u, u = { s with graphs := tdel s.graphs g } →
    (graphOver gr = false → exec (.iterationGraphComplete n) s = .next s) ∧
    (graphOver gr = true → (graphResult gr).2 ≠ 0 → exec (.iterationGraphComplete n) s = .next (failIter u n)) ∧
    (graphOver gr = true → (graphResult gr).2 = 0 →
      (∀ d, scorerDesc u p ((it.entries.length + 15) / 16) = .ok d → d.threads = 16 → exec (.iterationGraphComplete n) s = .next
        (makeLaunch { u with plans := tmod u.plans n fun q => { q with iter := some { it with scoring := true } } } p.tenant d (.scorer n))) ∧
      (∀ e, scorerDesc u p ((it.entries.length + 15) / 16) = .error e → exec (.iterationGraphComplete n) s = .next (failIter u n)))) ∧
  (∀ s n, (∀ l k, scorerOf s n = some (l, k) →
      (launchOver s l k = true → exec (.iterationComplete n) s = .next (endIter (dropLaunch s l) n)) ∧
      (launchOver s l k = false → exec (.iterationComplete n) s = .next s)) ∧
    (scorerOf s n = none → exec (.iterationComplete n) s = .next s)) ∧
  (∀ s i r, tget s.reqs i = some r → r.deadline ≠ 0 →
    (r.dlmiss = false → ended r.st = false → 1200 * r.deadline < s.clk →
      exec (.deadlinePass i) s = .next (modReq { s with tele := { s.tele with dlMiss := s.tele.dlMiss + 1 } } i fun r => { r with dlmiss := true })) ∧
    (r.dlmiss = true ∨ ended r.st = true ∨ s.clk ≤ 1200 * r.deadline → exec (.deadlinePass i) s = .next s)) ∧
  (∀ s i r, tget s.reqs i = some r → tget (passDeadlines s).reqs i
    = some (if r.deadline ≠ 0 ∧ ended r.st = false ∧ 1200 * r.deadline < s.clk then { r with dlmiss := true } else r)) ∧
  (∀ s i l k r, s.launches.find? (fun e => decide (e.2.origin = .admission i) && launchOver s e.1 e.2) = some (l, k) →
    ∀ t u, t = dropLaunch s l → tget t.reqs i = some r → r.admission = some l → r.st = .queued →
    u = modReq t i (fun r => { r with admission := none }) →
    (endStatus s k = 0 → exec (.admissionKernelComplete i) s = .next (modReq (settlePrompt u r) i fun r => { r with st := .prefill })) ∧
    (endStatus s k ≠ 0 → exec (.admissionKernelComplete i) s = .next (failReq u i (lastIter u)))) ∧
  ∀ s n t, tget s.tenants n = some t →
    (t.queue ≠ [] → alarmLevel s ≠ 3 → exec (.consumerCountPoll n) s
      = .next (drainStream { s with tenants := tset s.tenants n { t with cons := leNat (hostRead s (t.ring + 32) 4) } } n t.queue.length)) ∧
    (t.queue = [] → exec (.consumerCountPoll n) s = .next s)

/-- R371 to R374: what every packet for this device goes through: a zeroised device drops it, one whose tag fails draws NACK AUTH and counts, one below the
window is dropped, a duplicate draws the reply it drew before (that an fget's data wait for a walk of their destination's page, as R282 makes a copy wait, is the
model's reading); a packet for another device is forwarded, with one hop more, or dropped, at hop 5 or on a link that is down or unrouted (R369), and so is one of this
device that has come back; one of the reserved type is dropped and counted. A zeroised device drops what it receives (R405). -/
def Obligations.PacketChecks : Prop :=
  (∀ mk type s p port, IsArrival mk type → Here s type p port → ∀ u, u = takePacket s p →
    (s.sec.zeroised = true → exec (mk p port) s = .next u) ∧
    (s.sec.zeroised = false → verified s p = false → exec (mk p port) s = .next (tagFail (sendNack u p 7))) ∧
    (s.sec.zeroised = false → verified s p = true → (type = 3 → getWaits s p port = none) →
      (p.seq + 65536 < (pairOf s p.src).top → exec (mk p port) s = .next u) ∧
      ((pairOf s p.src).top ≤ p.seq + 65536 → ∀ r, tget (pairOf s p.src).got p.seq = some r →
        exec (mk p port) s = .next (match r with
          | some y => sendBack u p y
          | none => u)))) ∧
  (∀ s p port core asid a n, getWaits s p port = some (core, asid, a, n) → exec (.readdataPacket p port) s = .next (engAsk s core asid a n)) ∧
  (∀ mk type s p port, IsArrival mk type → p.type ≠ type ∨ p.dst ≠ s.fab.devId ∨ arrives s p port = false → exec (mk p port) s = .next s) ∧
  ∀ s p port, portUp s port = true → s.sec.zeroised = false → ∀ d, d = { s with fab := { s.fab with dropped := s.fab.dropped + 1 } } →
    (15 ≤ p.type → exec (.packetForward p port) s = .next d) ∧
    (p.dst = s.fab.devId → p.type < 15 → exec (.packetForward p port) s = .next s) ∧
    (p.dst ≠ s.fab.devId → p.type < 15 → 5 ≤ p.hop → exec (.packetForward p port) s = .next (sendNack d p 2)) ∧
    (p.dst ≠ s.fab.devId → p.type < 15 → p.hop < 5 → ∀ q, q = { p with hop := p.hop + 1 } →
      (∀ out, routePort s p.bank p.dst = some out → portUp s out = true → exec (.packetForward p port) s = .next (buffer s q)) ∧
      (∀ out, routePort s p.bank p.dst = some out → portUp s out = false → exec (.packetForward p port) s = .next (sendNack d q 1)) ∧
      (routePort s p.bank p.dst = none → exec (.packetForward p port) s = .next (sendNack d q 3)))

/-- R207 to R213, R365, R372 to R379: what a packet that passes the checks does: a WRITE commits its bytes before its ACK, a READ and an ATOMIC answer with what
memory holds, replies reach the request they answer, reservations and CATCH packets fill a catch slot, contributions fold. The model's choices among it are the
byte offset within the 32 bytes that AF counts (log 17), what Packet.aux gives besides (the sender's core, the sender of a NACKed packet, the bytes of a narrow store:
log 18), the layout of the REDUCE payload (log 19) and the KVXFER pieces (log 20). -/
def Obligations.PacketEffects : Prop :=
  ∀ s p port u, u = takePacket s p →
    (∀ (i : Instr) type w n, (i, type, w, n) ∈ [((.writePacket p port : Instr), 0, true, (writeBytes p).length), (.readPacket p port, 2, false, min 4096 (leNat (p.payload.take 4)))] →
      Fresh s type p port →
      (exportOf u p (reqOff p) n = none → Received p (exec i s) u (some { type := 7, af := 4 * 2 ^ 39 + p.seq, payload := [] })) ∧
      ∀ e asid va, exportOf u p (reqOff p) n = some e → asid = tenantAsid u e.tenant → va = e.base + reqOff p →
        (vfault u asid va n w ≠ none → Received p (exec i s) u (some { type := 7, af := 5 * 2 ^ 39 + p.seq, payload := [] })) ∧
        (vfault u asid va n w = none →
          (type = 0 → Received p (exec i s) (commitVirt u none asid va (writeBytes p)) (some { type := 6, af := p.seq, payload := [] })) ∧
          (type = 2 → Received p (exec i s) u (some { type := 3, af := p.seq, payload := pad32 ((vread u asid va n).getD []) })))) ∧
    (Fresh s 4 p port → ∀ sub n off e asid va, sub = leAt p.payload 16 1 → n = (if 16 ≤ sub then 8 else 4) → off = p.af % 2 ^ 37 * 32 + leAt p.payload 17 1 % 32 →
      exportOf u p off n = some e → asid = tenantAsid u e.tenant → va = e.base + off → vfault u asid va n (decide (2 ≤ sub % 16)) = none →
      ∀ old, old = (vreadN u asid va n).getD 0 → Received p (exec (.atomicPacket p port) s)
        (if 2 ≤ sub % 16 then commitVirt u none asid va (natBytes n (aopNew (sub % 16) n old (leAt p.payload 0 n) (leAt p.payload 8 n))) else u)
        (some { type := 5, af := p.seq, payload := pad32 (natBytes 8 old) })) ∧
    (∀ x k, Fresh s 3 p port → getWaits s p port = none → Awaits u p (p.af % 2 ^ 39) 2 x k →
      (∀ o, tget s.ops k = some o → Received p (exec (.readdataPacket p port) s) (landFar (retire u x) k o x.unit p.payload) none) ∧
      (∀ c, tget s.ops k = none → tget s.cmds k = some c → Received p (exec (.readdataPacket p port) s) (landGet (retire u x) k x.unit c p.payload) none)) ∧
    (∀ x k, Fresh s 5 p port → Awaits u p (p.af % 2 ^ 39) 4 x k → Received p (exec (.atomreplyPacket p port) s)
      (endAnswered (modCmd (ackPart (retire u x) k 0) k fun d =>
        { d with result := if d.sub % 16 = 2 then 0 else BitVec.ofNat 64 (leNat (p.payload.take (fatomSize d))) }) k) none) ∧
    (∀ x, Fresh s 6 p port → sentFor u p.src (p.af % 2 ^ 39) 6 = some x → Received p (exec (.ackPacket p port) s) (acked u x) none) ∧
    (∀ x, Fresh s 7 p port → sentFor u p.aux (p.af % 2 ^ 39) 6 = some x → ∀ code, code = p.af / 2 ^ 39 % 16 →
      Received p (exec (.nackPacket p port) s) (if code = 2 ∨ code = 3 ∨ code = 7 then again u x else abortSent u x (code != 1)) none) ∧
    (∀ x k, Fresh s 9 p port → Awaits u p (p.af % 2 ^ 33) 8 x k → Received p (exec (.resvreplyPacket p port) s)
      (endAnswered (modCmd (ackPart (retire u x) k 0) k fun d => if p.af / 2 ^ 33 = 0 then { d with err := true }
        else { d with result := BitVec.ofNat 64 (d.a.toNat % 2 ^ 24 + 2 ^ 24 * (p.af / 2 ^ 33)) }) k) none) ∧
    (Fresh s 8 p port → SlotRuns s p → ∀ z, z = lzAt u (afCore p) (afSlot p) →
      (z.st = .opened → z.dev = p.src → z.anyc = true ∨ z.score = p.aux → Received p (exec (.resvPacket p port) s)
        (setLz u (afCore p) (afSlot p) { z with st := .reserved, rdev := p.src, rcore := p.aux, port := portOf u p port, last := s.clk })
        (some { type := 9, af := z.rid * 2 ^ 33 + p.seq, payload := [] })) ∧
      (z.st ≠ .opened ∨ z.dev ≠ p.src ∨ (z.anyc = false ∧ z.score ≠ p.aux) →
        Received p (exec (.resvPacket p port) s) u (some { type := 9, af := p.seq, payload := [] }))) ∧
    (Fresh s 1 p port → SlotRuns s p → ∀ z off n, z = lzAt u (afCore p) (afSlot p) → off = p.af / 4 % 2 ^ 19 * 32 → n = p.payload.length →
      ∀ fits : Prop, (fits ↔ z.rid = afRid p ∧ (z.st = .reserved ∨ z.st = .filling) ∧ z.rdev = p.src ∧ z.rcore = p.aux ∧ off + n ≤ z.target) →
      (fits → ∀ y, y = { z with st := if z.target ≤ z.ctr + n then .full else .filling, ctr := z.ctr + n, last := s.clk, got := nsAddAll (rangeFrom (off / 32) (n / 32)) z.got } →
        Received p (exec (.catchPacket p port) s) (settleLz (setPresent (setLz (writeSpad u z.wg (z.area + off) p.payload) (afCore p) (afSlot p) y) z.wg (landedLines y))
          (afCore p) (afSlot p)) (some { type := 6, af := p.seq, payload := [] })) ∧
      (¬fits → z.st ≠ .torn ∨ z.rid ≠ afRid p → Received p (exec (.catchPacket p port) s) u (some { type := 7, af := 6 * 2 ^ 39 + p.seq, payload := [] })) ∧
      (z.st = .torn → z.rid = afRid p → Received p (exec (.catchPacket p port) s)
        (sendNotice u 10 p.src (afCatch z.rid (afCore p) (afSlot p) 0)) (some { type := 7, af := 6 * 2 ^ 39 + p.seq, payload := [] }))) ∧
    (Fresh s 11 p port → SlotRuns s p → ∀ z, z = lzAt u (afCore p) (afSlot p) →
      (z.rid = afRid p → z.st ≠ .torn → Received p (exec (.abortPacket p port) s) (tearLz u (afCore p) (afSlot p)) (some { type := 6, af := p.seq, payload := [] })) ∧
      (z.rid = afRid p → z.st = .torn → Received p (exec (.abortPacket p port) s)
        (sendNotice u 10 p.src (afCatch z.rid (afCore p) (afSlot p) 0)) (some { type := 6, af := p.seq, payload := [] })) ∧
      (z.rid ≠ afRid p → Received p (exec (.abortPacket p port) s) u (some { type := 6, af := p.seq, payload := [] }))) ∧
    (Fresh s 10 p port → Received p (exec (.tornPacket p port) s)
      ((cmdKeys u fun c => putsTo p c && !c.failed && decide (c.acked.length < moveParts c)).foldl tearPut u) none) ∧
    (∀ v k c, tget v.cmds k = some c →
      (c.phase = 4 ∨ c.landed.length < moveParts c → tearPut v k = failCmd v k c) ∧
      (c.phase ≠ 4 → moveParts c ≤ c.landed.length → tearPut v k = modCmd v k fun d => { d with phase := 5 })) ∧
    (Fresh s 12 p port → ∀ k js d, redParse p.payload = (k, js, d) →
      (redClash u k = none → inNet u k.tenant = false → nbit p.af 0 = false →
        Received p (exec (.reducePacket p port) s) (foldIn u k js d) (some { type := 6, af := p.seq, payload := [] })) ∧
      (∀ e, redClash u k = some e → Received p (exec (.reducePacket p port) s) (failCmd u e.1 e.2) (some { type := 6, af := p.seq, payload := [] }))) ∧
    (Fresh s 13 p port → ∀ k js d, redParse p.payload = (k, js, d) → Received p (exec (.redresultPacket p port) s) (landRed u k d) none) ∧
    (Fresh s 14 p port → ∀ v r, joinPiece u p.src (p.af % 2 ^ 48) (kvPiece p.payload) = (v, r) →
      (∀ b, r = some b → Received p (exec (.kvxferPacket p port) s)
        (deliver v { zoubry := true, peer := p.src, tag := p.af % 2 ^ 48, body := b }) (some { type := 6, af := p.seq, payload := [] })) ∧
      (r = none → Received p (exec (.kvxferPacket p port) s) v (some { type := 6, af := p.seq, payload := [] })))

/-- R373, R376, R378 to R380: the fabric's timers and links: a request unacknowledged for 20 µs goes again or aborts its transfer, a slot tears after 1 ms, an aborting
fput ends after 2 ms (log 55 says which of them waits for its acknowledgements), a rank resends after 50 µs, an import gives up at 10 s and an export too; a message is applied once; a link that fails tears what it carried. -/
def Obligations.FabricTimers : Prop :=
  (∀ s dst seq x, s.fab.sent.find? (fun x => decide (x.pkt.dst = dst) && decide (x.pkt.seq = seq)) = some x →
    (x.at_ + 24000 ≤ s.clk → x.tries < 8 → exec (.retransmitTimeout dst seq) s = .next (resend s x)) ∧
    (x.at_ + 24000 ≤ s.clk → x.tries = 8 → exec (.retransmitTimeout dst seq) s = .next (abortSent s x false)) ∧
    (s.clk < x.at_ + 24000 ∨ 8 < x.tries → exec (.retransmitTimeout dst seq) s = .next s)) ∧
  (∀ s dst seq e, s.fab.sent.find? (fun x => decide (x.pkt.dst = dst) && decide (x.pkt.seq = seq)) = none →
    s.fab.notices.find? (fun e => decide (e.1.dst = dst) && decide (e.1.seq = seq)) = some e →
    (e.2 + 24000 ≤ s.clk → canSend s e.1.dst = true → ∀ p, p = { e.1 with bank := injectBank s } → exec (.retransmitTimeout dst seq) s
      = .next (route { s with fab := { s.fab with notices := s.fab.notices.map fun y => if y = e then (p, s.clk) else y } } p)) ∧
    (s.clk < e.2 + 24000 ∨ canSend s e.1.dst = false → exec (.retransmitTimeout dst seq) s = .next s)) ∧
  (∀ s core i z, z = lzAt s core i →
    (z.last + 1200000 ≤ s.clk → z.st = .reserved ∨ z.st = .filling → exec (.catchSlotTimeout core i) s = .next (settleLz
      (sendNotice (setLz s core i { z with st := .torn }) 10 z.rdev (afCatch z.rid core i 0)) core i)) ∧
    (s.clk < z.last + 1200000 ∨ (z.st ≠ .reserved ∧ z.st ≠ .filling) → exec (.catchSlotTimeout core i) s = .next s)) ∧
  (∀ s k c, tget s.cmds k = some c → isCatch c = true → aborting c = true →
    (c.phase = 5 ∨ c.since + 2400000 ≤ s.clk → c.phase = 4 ∨ c.landed.length ≠ moveParts c ∨ rwDev c.b ≠ s.fab.devId →
      exec (.catchAbortTimeout k) s = .next (failCmd s k c)) ∧
    ((c.phase ≠ 5 ∧ s.clk < c.since + 2400000) ∨ (c.phase ≠ 4 ∧ c.landed.length = moveParts c ∧ rwDev c.b = s.fab.devId) → exec (.catchAbortTimeout k) s = .next s)) ∧
  (∀ s k c, tget s.cmds k = some c → c.op = 0x6B ∨ c.op = 0x77 → ∀ left, left = c.landed.filter (fun u => !c.acked.contains u) → left ≠ [] →
    (c.since + 60000 ≤ s.clk → c.tries < 8 → exec (.reduceResendTimeout k) s
      = .next (resendParts (modCmd s k fun d => { d with tries := d.tries + 1, since := s.clk }) k c left)) ∧
    (c.since + 60000 ≤ s.clk → 8 ≤ c.tries → exec (.reduceResendTimeout k) s = .next (failCmd s k c)) ∧
    (s.clk < c.since + 60000 → exec (.reduceResendTimeout k) s = .next s)) ∧
  (∀ s k x, tget s.fab.xfers k = some x →
    (x.import_ = true → x.manifest = none → x.since + 12000000000 ≤ s.clk → exec (.kvImportTimeout k) s = .next (endXfer s k 10 0)) ∧
    (x.import_ = true → x.manifest = none → s.clk < x.since + 12000000000 → exec (.kvImportTimeout k) s = .next s) ∧
    (x.import_ = false → exportStarted s k x = true → x.since + 12000000000 ≤ s.clk → exec (.kvExportTimeout k) s = .next (failExport s k)) ∧
    (x.import_ = false → x.zoubry = false → exec (.ueTransportFailure k) s = .next (failExport s k))) ∧
  (∀ s m k, tget s.fab.ue m.peer = some k → s.sec.zeroised = false → k.key ≠ [] →
    ∀ seen good, seen = (if m.role = true then k.seenE else k.seenI) → good = ueSeal k.key m.role m.counter m.tag m.body →
    (m.mac ≠ good → exec (.ueMessage m) s = .next (tagFail s)) ∧
    (m.mac = good → m.counter ∈ seen → exec (.ueMessage m) s = .next s) ∧
    (m.mac = good → m.counter ∉ seen → (∀ n ∈ seen, n < m.counter + 65536) → roleFits m.role m.body = true →
      ∀ k' t, k' = (if m.role = true then { k with seenE := noteCtr k.seenE m.counter } else { k with seenI := noteCtr k.seenI m.counter }) →
      t = { s with fab := { s.fab with ue := tset s.fab.ue m.peer k' } } →
      exec (.ueMessage m) s = .next (deliver t { zoubry := false, peer := m.peer, tag := m.tag, body := m.body }))) ∧
  (∀ s port, port < 16 → (s.fab.portsUp.getLsbD port = false → exec (.linkDown port) s = .next s) ∧
    (s.fab.portsUp.getLsbD port = true → ∀ d, d = { s with fab := { s.fab with portsUp := s.fab.portsUp &&& ~~~(BitVec.ofNat 16 (2 ^ port)) } } →
      ∀ lost, lost = d.fab.wire.filter (fun p => decide (p.dst ≠ d.fab.devId) && decide (routePort d p.bank p.dst = some port)) →
      ∀ t, t = lost.foldl (fun u p => sendNack { takePacket u p with fab := { (takePacket u p).fab with dropped := u.fab.dropped + 1 } } p 1) d →
      exec (.linkDown port) s = .next (t.cores.foldl (fun u e => e.2.lz.foldl (fun v z => if z.2.port = port then tearLz v e.1 z.1 else v) u) t)))

/-- R28, R250, R386, R387, R403 to R405, R409: a power window's end, a chiplet's fault, fence, reset and self-test, the alarm sensors, the snapshot pin and a cold reset.
A 1 ms window moves each active chiplet's level by its worst component; fences end when drained or after 20 µs; TEMPC counts as level 3 after 10 ms. The model's
readings: RDY is set although the keys failed, and an HBM4 stack or LPDDR6 package that fails shortens its tier (log 25); the sensors' powers are operands of the
window's end, compared here with the shares in milliwatts (log 26). -/
def Obligations.DeviceEvents : Prop :=
  (∀ s r, (s.clk < (s.windows + 1) * 1200000 → exec (.powerWindowEnd r) s = .next s) ∧
    ((s.windows + 1) * 1200000 ≤ s.clk → ∃ t, exec (.powerWindowEnd r) s = .next t ∧ t.windows = s.windows + 1 ∧
      ∀ i (hi : i < 4), t.chips[i] = if s.chips[i].st = .active then { s.chips[i] with
        hold := nextHold s.chips[i].hold (powerMost r i), withheld := s.chips[i].withheld + 18750 * s.chips[i].hold } else s.chips[i])) ∧
  (∀ r i, (2 ≤ powerMost r i ↔ 325000 < r.chips.getD i 0 ∨ 350000 < r.base ∨ 450000 < r.hbm ∨ 80000 < r.lpddr ∨ 220000 < r.serdes ∨ 2400000 < r.total) ∧
    (powerMost r i = 0 ↔ r.chips.getD i 0 ≤ 308750 ∧ r.base ≤ 332500 ∧ r.hbm ≤ 427500 ∧ r.lpddr ≤ 76000 ∧ r.serdes ≤ 209000 ∧ r.total ≤ 2280000)) ∧
  (∀ h most, nextHold h most = if 2 ≤ most then min 48 (h + 4) else if most = 0 then h - 1 else h) ∧
  (∀ s i, i < 4 →
    (chipState s i = .active → exec (.chipletFault i) s = .next (beginFence { s with tele := { s.tele with chipFaults := s.tele.chipFaults + 1 } } i none)) ∧
    (chipState s i ≠ .active → exec (.chipletFault i) s = .next s) ∧
    (chipState s i = .fencing → exec (.fenceDrainComplete i) s = .next (completeFence s i)) ∧
    (chipState s i ≠ .fencing → exec (.fenceDrainComplete i) s = .next s) ∧
    (∀ k, s.chips[i]? = some k → k.st = .fencing →
      (k.since + 24000 ≤ s.clk → exec (.fenceTimeout i) s = .next (completeFence s i)) ∧ (s.clk < k.since + 24000 → exec (.fenceTimeout i) s = .next s)) ∧
    (chipState s i = .resetting → ∃ t, exec (.chipletResetDone i) s = .next t ∧ chipState t i = .selftest ∧
      t.cores = tmap s.cores fun c k => if c / 64 = i then { Core.empty with score := k.score } else k) ∧
    (s.rdy = true → chipState s i = .selftest →
      exec (.selftestPass i) s = .next (answerReset (modChip s i fun k => { k with st := .active, since := s.clk, hold := 0 }) i 0) ∧
      exec (.selftestFail i) s = .next (answerReset (modChip s i fun k => { k with st := .offline, since := s.clk }) i 16))) ∧
  (∀ s x, ∃ t, exec (.alarmSensor x) s = .next t ∧ t.sec.bits = s.sec.bits ||| BitVec.ofNat 8 (2 ^ sensorBit x) ∧ alarmLevel s ≤ alarmLevel t ∧
    (alarmLevel t = 3 → t.sec.zeroised = true) ∧ (x = .vglitch ∨ x = .fuse → alarmLevel t = 3) ∧
    (x = .vglitch ∨ x = .fuse → s.sec.zeroised = false → t.sec.imageKey = none ∧ t.fab.ue = [] ∧ t.sec.devKeys = false)) ∧
  (∀ s, (∀ t, s.sec.tempcAt = some t → (t + 12000000 ≤ s.clk → exec .tempcHoldExpiry s = .next (raiseHeld s)) ∧ (s.clk < t + 12000000 → exec .tempcHoldExpiry s = .next s)) ∧
    (s.sec.tempcAt = none → exec .tempcHoldExpiry s = .next s) ∧ exec .snapshotPin s = .next (fireSnap s 4)) ∧
  ∀ s r, ∃ t, exec (.coldReset r) s = .next t ∧ t.turns = s.turns ∧ t.clk = 0 ∧ t.rdy = true ∧ t.locked = false ∧ t.feats = 0 ∧ t.queues = [] ∧ t.mem = [] ∧
    t.tenants = [] ∧ t.groups = [] ∧ t.launches = [] ∧ t.fixed = s.fixed ∧ t.hostMem = s.hostMem ∧ t.hbm = 2 ^ 36 * bitCount 8 r.hbmOk.toNat ∧
    t.lpddr = 2 ^ 37 * bitCount 12 r.lpddrOk.toNat ∧ t.fab.portsUp = r.portsOk ∧ (alarmLevel t = 3 ↔ r.fuseOk = false ∨ r.keysOk = false) ∧
    ∀ i < 4, chipState t i = if s.fixed.present.getLsbD i = true ∧ r.chipsOk.getLsbD i = true then .active else .offline

/-- R381 to R383, R398, R401: the events of a tenant's PREEMPT and RESUME and of an image load: 40 µs into the drain fatom fails, the image commits once the tenant has
drained, sections come back in order; reads complete, their bytes go to the routes at once, and routes commit their pieces and acknowledge; of an image 8 zero bytes go first and
bytes 0 to 7 last; a read that fails stops the copy. The model's readings: a read that fails ends every kind of copy with ABORTED, a completion that comes after 50 ms is
dropped, and the pieces of one quadrant commit in one event with its acknowledgement (log 24); the section restored next is number 0 of those left (log 30). -/
def Obligations.TenantEvents : Prop :=
  (∀ s n x since o, tget s.tenants n = some x → x.park = .draining since o →
    (s.clk < since + 48000 → exec (.preemptFabricTimeout n) s = .next s) ∧
    (since + 48000 ≤ s.clk → ∀ t, t = giveUp s n (fun c => decide (c.op = 0x69) || decide (c.op = 0x6A)) →
      exec (.preemptFabricTimeout n) s = .next ((t.cmds.filter fun e => decide (e.2.tenant = n) && decide (e.2.op = 0x6A)).foldl (fun u e => failCmd u e.1 e.2) t)) ∧
    (drained s n since = true → exec (.contextImageCommit n) s = .next (commitImage s n o)) ∧
    (drained s n since = false → exec (.contextImageCommit n) s = .next s)) ∧
  (∀ s n x o ws rest places, tget s.tenants n = some x → x.park = .resuming o → x.image = ws :: rest →
    (restoreAll s places ws = none → exec (.sectionRestore n 0 places) s = .next s) ∧
    (∀ r t, restoreAll s places ws = some r → t = modTenant r.1 n (fun y => { y with image := rest }) →
      exec (.sectionRestore n 0 places) s = .next (if rest = [] then finishResume t n o else t))) ∧
  (∀ s k x, tget s.xfers k = some x →
    (∀ off n, tget x.reads off = some n → s.clk ≤ x.since + 60000000 → ∀ bs y, bs = hostRead s (x.host + off) n →
      y = { x with reads := tdel x.reads off, data := putBytes x.data off bs } →
      exec (.pcieReadCompletion k off) s = .next (xferStep (setXfer s k (arrived s y off bs)) k)) ∧
    (∀ off, tget x.reads off = none ∨ x.since + 60000000 < s.clk → exec (.pcieReadCompletion k off) s = .next s) ∧
    (∀ q, q ∈ x.owing → exec (.routeAck k q) s = .next (xferStep (setXfer
      ((x.pieces.filter fun e => decide (xferQuad s x e.1 = some q)).foldl (fun u e => xferWrite u x e.1 e.2) s) k
      { x with pieces := x.pieces.filter fun e => !decide (xferQuad s x e.1 = some q), owing := nsDel q x.owing }) k)) ∧
    (∀ q, q ∉ x.owing → exec (.routeAck k q) s = .next s) ∧
    (x.reads ≠ [] → exec (.pcieReadTimeout k) s = .next (dropXfer s k x 17 0)) ∧
    (x.reads = [] → exec (.pcieReadTimeout k) s = .next s) ∧
    (x.reads ≠ [] ∨ x.owing ≠ [] → xferStep s k = s) ∧
    (x.reads = [] → x.owing = [] → xferStep s k = xferSteps (xferGo s k x) k 3) ∧
    (∀ off bs, arrived s x off bs = if x.job = .image then (if x.stage = .body then handPieces s x (max off 8) (bs.drop (8 - off)) else x) else handPieces s x off bs) ∧
    (x.job = .image →
      (x.stage = .header → imageOk (x.data.take 64) x.data.length = false → xferGo s k x = dropXfer s k x 12 0) ∧
      (x.stage = .header → imageOk (x.data.take 64) x.data.length = true → mappedW s (cmdSpace s x.cmd) x.dst x.data.length = false → xferGo s k x = dropXfer s k x 11 0) ∧
      (x.stage = .header → imageOk (x.data.take 64) x.data.length = true → mappedW s (cmdSpace s x.cmd) x.dst x.data.length = true →
        xferGo s k x = setXfer s k { handPieces s x 0 (zeros 8) with stage := .zero }) ∧
      (x.stage = .zero → xferGo s k x = setXfer s k { askReads s x x.data.length with stage := .body }) ∧
      (x.stage = .body → xferGo s k x = setXfer s k { handPieces s x 0 (x.data.take 8) with stage := .final }) ∧
      (x.stage = .final → xferGo s k x = loadDone s k x)) ∧
    (∀ i last r, x.job = .prompt i last true → tget s.reqs i = some r → xferGo s k x = promptDone s k i x r) ∧
    (x.job = .context → ∀ r, r = takeCtx s x.cmd.pick x.data → xferGo s k x = dropXfer r.2.1 k x r.1 r.2.2) ∧
    (x.job = .patch → ∀ r, r = applyPatch s x.data → xferGo s k x = dropXfer r.2.1 k x r.1 r.2.2))

/-- R73 to R79, R83, R94, R107, R113, R126, R168, R195, R207, R212: words that the spec writes out decode to the instructions it gives for them. -/
def Obligations.WordsDecode : Prop :=
  decodeWord 0x00000000 = some .nop ∧ decodeWord 0x10000000 = some .join ∧ decodeWord 0x16000000 = some .endThreads ∧ decodeWord 0x1A000000 = some .cede ∧
  decodeWord 0x200C1148 = some (.iadd false 3 1 5 false false true) ∧ decodeWord 0x211C7048 = some (.iadd true 7 7 1 false false true) ∧
  decodeWord 0x3E0820C9 = some (.shrA false 2 2 3 false false true) ∧ decodeWord 0x90104094 = some (.ld false 4 2 1 false true false 4) ∧
  decodeWord 0x9014609C = some (.ld false 5 3 1 false true true 4) ∧ decodeWord 0x921C80F4 = some (.st false 7 4 1 true true true false 4) ∧
  decodeWord 0x641C4170 = some (.fmul false 7 4 5 true true) ∧ decodeWord 0xFE008022 = some (.clause 4 0 1 2) ∧
  decodeWord 0xFE0061E3 = some (.clause 3 0 15 3) ∧ decodeWord 0xFC188800 = some (.rep 3 1 1 0) ∧ decodeWord 0x0E400003 = some (.brDiv 1 3) ∧
  decodeWord 0xB4080043 = some (.mma 2 0 1 3) ∧ decodeWord 0xDA0214C0 = some (.lzarm 4 5 6 false 0 false false) ∧
  decodeWord 0xC0010C8A = some (.kvgatK 2 3 4 false 2 true false) ∧ decodeWord 0xE8010C80 = some (.stop 2 3 4 false 0 false false)

/-- R71, R85, R98, R107, R278: a step on the word a running group has reached runs the instruction it decodes to; a word of no row is ILLOP, or BTGT where it is a branch
that goes to no header; a word that must be a clause header and is none is BTGT, and so is a body word of a page that is not executable; one that cannot be fetched is XLATE or
PROT at its address; a group that may not issue stays as it is, and one whose page needs a walk that must wait asks for it (R282). The model's readings (log 15): BTGT
comes before ILLOP at a branch word with a reserved field, and a body word of a page that is not mapped is XLATE. -/
def Obligations.StepRunsWord : Prop :=
  ∀ s u c rest g, s.turns = .issue c :: rest → u = { s with turns := rest } → tget u.groups c = some g →
    (mayIssue u c g = false → step s = noted (.next u)) ∧
    (∀ a, mayIssue u c g = true → a = asidOf u g.launch → fetchBlocked u g.core a (wordAddr g).toNat = true →
      step s = noted (.next (engAsk u g.core a (wordAddr g).toNat 1))) ∧
    (mayIssue u c g = true → romKernelAt u g = none → ∀ a v, a = asidOf u g.launch → fetchBlocked u g.core a (wordAddr g).toNat = false →
      v = { fetchFill u g.core a (wordAddr g).toNat with cur := some c } →
      ∀ f : DWord → Option Word, (∀ x, f x = fetchWord u g.core a x.toNat) → ∀ stop : Trap → Prop, (∀ t, stop t ↔ step s = noted (.next (takeTrap u c g t))) →
      (∀ w i, g.coff = 0 → f g.pc = some w → isHeaderWord w = true → decodeWord w = some i → step s = noted (exec i v)) ∧
      (∀ w, g.coff = 0 → f g.pc = some w → isHeaderWord w = false → stop { code := .btgt }) ∧
      (g.coff = 0 → f g.pc = none → stop { code := .btgt }) ∧
      (g.coff ≠ 0 → g.len ≠ 0 →
        (∀ w i, g.rep = none → f (wordAddr g) = some w → decodeWord w = some i → step s = noted (exec i v)) ∧
        (∀ w, g.rep = none → f (wordAddr g) = some w → decodeWord w = none → decodeWord (plainBranch w) = none → stop { code := .illop }) ∧
        (∀ w j, g.rep = none → f (wordAddr g) = some w → decodeWord w = none → decodeWord (plainBranch w) = some j →
          stop { code := if noHeader u g j then .btgt else .illop }) ∧
        (∀ w i r, g.rep = some r → g.repi = 0 → f (wordAddr g) = some w → decodeWord w = some i → step s = noted (exec i v)) ∧
        (∀ w x i r, g.rep = some r → g.repi ≠ 0 → f (wordAddr g) = some w → (decodeWord w).isSome = true → stepWord w r g.repi = some x → decodeWord x = some i →
          step s = noted (exec i v)) ∧
        (∀ w r, g.rep = some r → g.repi ≠ 0 → f (wordAddr g) = some w → (decodeWord w).isSome = true → stepWord w r g.repi = none → stop { code := .illopnd }) ∧
        (f (wordAddr g) = none → fetchXlat u g.core a (wordAddr g).toNat = .xlate → stop { code := .xlate, addr := wordAddr g }) ∧
        (f (wordAddr g) = none → fetchXlat u g.core a (wordAddr g).toNat = .prot → stop { code := .prot, addr := wordAddr g }) ∧
        (∀ l, f (wordAddr g) = none → fetchXlat u g.core a (wordAddr g).toNat = .page l → stop { code := .btgt })))

/-- R39, R252, R350, R413: with an event or a command next in the schedule, a step is that event, after which a closing tenant and the imports that wait go on; one that
cannot take place changes nothing but the schedule; with nothing next one clock passes, and with it deadlines. The schedule is the model's own (log 1). -/
def Obligations.StepRunsEvent : Prop :=
  (∀ s i rest u, s.turns = .event i :: rest → u = { s with turns := rest } →
    (takesPlace u i = true → ∀ t, exec i u = .next t → step s = noted (.next (settleImports (settleClosing t)))) ∧
    (takesPlace u i = false → step s = noted (.next u))) ∧
  (∀ s opc c i, encodeWord i = none → opcOf i = some (opc, c) → i.wf = true → parseCommand c.fn c.q c.pick (headBytes s c.fn c.q) = (opc, c) → takesPlace s i = true) ∧
  (∀ s, s.turns = [] → step s = .next (passDeadlines { s with clk := s.clk + 1 })) ∧
  (∀ s n rest, s.turns = .elapse n :: rest → step s = noted (.next (passDeadlines { s with turns := rest, clk := s.clk + n }))) ∧
  ∀ s a bs rest, s.turns = .hostStore a bs :: rest → step s = noted (.next { s with turns := rest, hostMem := mwrite s.hostMem a bs })

/-- R17, R33, R34, R42, R47, R371, R386, R403: after reset DSTS reads 0, no feature is locked, every queue pair is disabled with its registers 0, there are no tenants, launches,
groups or requests, the sequence of iterations and admissions starts anew, no route bank is in force and both are retired, and the alarm level is 0. That SQB and CQB
read 0 (log 5) and that the host's memory lists nothing (log 4) are the model's choices. -/
def Obligations.ResetState : Prop :=
  dsts State.reset = 0 ∧ State.reset.rdy = false ∧ State.reset.locked = false ∧ State.reset.feats = 0 ∧ State.reset.fatal = false ∧
  (∀ fn q, qpOf State.reset fn q = QPair.reset ∧ qctl (qpOf State.reset fn q) = 0 ∧ (qpOf State.reset fn q).sqb = 0 ∧ (qpOf State.reset fn q).cqb = 0) ∧
  State.reset.tenants = [] ∧ State.reset.launches = [] ∧ State.reset.groups = [] ∧ State.reset.wgs = [] ∧ State.reset.cmds = [] ∧ State.reset.reqs = [] ∧
  State.reset.fab.inject = none ∧ (∀ b, bankSt State.reset b = .retired) ∧ alarmLevel State.reset = 0 ∧ State.reset.mem = [] ∧ State.reset.hostMem = [] ∧
  (∀ a, mget State.reset.mem a = 0) ∧ State.reset.iterCtr = 0 ∧ State.reset.admSeq = 1

/-- The byte memories of the device and of the host keep their canonical form: addresses strictly rise and no byte listed is 0 (the model's own form, log 4). -/
def Obligations.ResetMemoryForm : Prop := Memory.wf State.reset.mem = true ∧ Memory.wf State.reset.hostMem = true

/-- From every state whose memories have the canonical form, a step leads to one whose memories have it (logs 4 and 12). -/
def Obligations.StepKeepsMemoryForm : Prop :=
  ∀ s t, Memory.wf s.mem = true → Memory.wf s.hostMem = true → step s = .next t → Memory.wf t.mem = true ∧ Memory.wf t.hostMem = true

/-- R71 to R79, R83, R94: decoding the word of an encoded instruction gives back the instruction with every operand, at every value that the encoding admits. -/
def Obligations.DecodeEncode : Prop :=
  ∀ i w, encodeWord i = some w → decodeWord w = some i ∧ decodeBytes (bytesOfWord w) = .ok (i, [])

/-- R72, R80, R82: a word that decodes has one meaning: the instruction is well formed, and its encoding is the word, so that every bit outside its fields is the fixed one. -/
def Obligations.EncodeDecode : Prop :=
  ∀ i w, decodeWord w = some i → i.wf = true ∧ encodeWord i = some w

/-- R36: the 64 bytes of a command carry its OPC, CID, TENANT and argument words at their places, and its reserved bytes are 0; reading them back gives the command;
a command whose reserved bytes or TENANT [15:12] are not 0 fails with BADFIELD where it passes the checks before that one. -/
def Obligations.CommandRoundTrip : Prop :=
  (∀ opc c, opc < 65536 → c.rsv = false → ∀ m, m = commandBytes opc c →
    m.length = 64 ∧ parseCommand c.fn c.q c.pick m = (opc, c) ∧
    leAt m 0 2 = opc ∧ leAt m 2 2 = 0 ∧ leAt m 4 2 = c.cid.toNat ∧ leAt m 6 2 = 0 ∧ leAt m 8 2 = c.tenant.toNat ∧ leAt m 10 6 = 0 ∧
    leAt m 16 8 = c.a0.toNat ∧ leAt m 24 8 = c.a1.toNat ∧ leAt m 32 8 = c.a2.toNat ∧ leAt m 40 8 = c.a3.toNat ∧ leAt m 48 8 = c.a4.toNat ∧ leAt m 56 8 = c.a5.toNat) ∧
  (∀ fn q pick m, (parseCommand fn q pick m).2.rsv = true ↔ leAt m 2 2 ≠ 0 ∨ leAt m 6 2 ≠ 0 ∨ leAt m 10 6 ≠ 0) ∧
  ∀ mk e, HasRow mk e → ∀ s c, canRead s c.fn c.q = true → (c.rsv = true ∨ 4096 ≤ c.tenant.toNat) →
    firstFailure s { c with rsv := false, tenant := c.tenant &&& 0xFFF } e = none → Fails s c (exec (mk c) s) stBadfield
end

