-- ==== Sys2Proof/Laws/Dispatch.lean ====
section
/-! SUPPORT. The dispatch, one instruction at a time. -/

namespace Sys2Proof.Machine

@[simp] theorem exec_nop (s : State) : exec .nop s = execNop s := rfl
@[simp] theorem exec_mood {u d imm} (s : State) : exec (.mood u d imm) s = execMood u d imm s := rfl
@[simp] theorem exec_maskSet {a} (s : State) : exec (.maskSet a) s = execMaskSet a s := rfl
@[simp] theorem exec_maskAnd {a} (s : State) : exec (.maskAnd a) s = execMaskAnd a s := rfl
@[simp] theorem exec_maskOr {a} (s : State) : exec (.maskOr a) s = execMaskOr a s := rfl
@[simp] theorem exec_maskG {a} (s : State) : exec (.maskG a) s = execMaskG a s := rfl
@[simp] theorem exec_maskRd {d} (s : State) : exec (.maskRd d) s = execMaskRd d s := rfl
@[simp] theorem exec_maskAlive (s : State) : exec .maskAlive s = execMaskAlive s := rfl
@[simp] theorem exec_br {off} (s : State) : exec (.br off) s = execBr off s := rfl
@[simp] theorem exec_brAny {p off} (s : State) : exec (.brAny p off) s = execBrAny p off s := rfl
@[simp] theorem exec_brAll {p off} (s : State) : exec (.brAll p off) s = execBrAll p off s := rfl
@[simp] theorem exec_brNone {p off} (s : State) : exec (.brNone p off) s = execBrNone p off s := rfl
@[simp] theorem exec_brDiv {p off} (s : State) : exec (.brDiv p off) s = execBrDiv p off s := rfl
@[simp] theorem exec_join (s : State) : exec .join s = execJoin s := rfl
@[simp] theorem exec_call {off} (s : State) : exec (.call off) s = execCall off s := rfl
@[simp] theorem exec_ret {a} (s : State) : exec (.ret a) s = execRet a s := rfl
@[simp] theorem exec_endThreads (s : State) : exec .endThreads s = execEndThreads s := rfl
@[simp] theorem exec_barWg (s : State) : exec .barWg s = execBarWg s := rfl
@[simp] theorem exec_barGang (s : State) : exec .barGang s = execBarGang s := rfl
@[simp] theorem exec_barArrive {d} (s : State) : exec (.barArrive d) s = execBarArrive d s := rfl
@[simp] theorem exec_barWait {a} (s : State) : exec (.barWait a) s = execBarWait a s := rfl
@[simp] theorem exec_barNamed {a b} (s : State) : exec (.barNamed a b) s = execBarNamed a b s := rfl
@[simp] theorem exec_cede (s : State) : exec .cede s = execCede s := rfl
@[simp] theorem exec_trapUser {imm} (s : State) : exec (.trapUser imm) s = execTrapUser imm s := rfl
@[simp] theorem exec_sysCsrr {d b} (s : State) : exec (.sysCsrr d b) s = execSysCsrr d b s := rfl
@[simp] theorem exec_sysCsrw {a b} (s : State) : exec (.sysCsrw a b) s = execSysCsrw a b s := rfl
@[simp] theorem exec_sysLocq {d a} (s : State) : exec (.sysLocq d a) s = execSysLocq d a s := rfl
@[simp] theorem exec_sysSnap (s : State) : exec .sysSnap s = execSysSnap s := rfl
@[simp] theorem exec_sysClk {d} (s : State) : exec (.sysClk d) s = execSysClk d s := rfl
@[simp] theorem exec_sysFlagerr {d} (s : State) : exec (.sysFlagerr d) s = execSysFlagerr d s := rfl
@[simp] theorem exec_iadd {u d a b la lb im} (s : State) : exec (.iadd u d a b la lb im) s = execIadd u d a b la lb im s := rfl
@[simp] theorem exec_isub {u d a b la lb im} (s : State) : exec (.isub u d a b la lb im) s = execIsub u d a b la lb im s := rfl
@[simp] theorem exec_imul {u d a b la lb im} (s : State) : exec (.imul u d a b la lb im) s = execImul u d a b la lb im s := rfl
@[simp] theorem exec_imulh {u d a b la lb im} (s : State) : exec (.imulh u d a b la lb im) s = execImulh u d a b la lb im s := rfl
@[simp] theorem exec_imad {u d a b la lb im} (s : State) : exec (.imad u d a b la lb im) s = execImad u d a b la lb im s := rfl
@[simp] theorem exec_idivQs {u d a b la lb im} (s : State) : exec (.idivQs u d a b la lb im) s = execIdivQs u d a b la lb im s := rfl
@[simp] theorem exec_idivQn {u d a b la lb im} (s : State) : exec (.idivQn u d a b la lb im) s = execIdivQn u d a b la lb im s := rfl
@[simp] theorem exec_idivRs {u d a b la lb im} (s : State) : exec (.idivRs u d a b la lb im) s = execIdivRs u d a b la lb im s := rfl
@[simp] theorem exec_idivRn {u d a b la lb im} (s : State) : exec (.idivRn u d a b la lb im) s = execIdivRn u d a b la lb im s := rfl
@[simp] theorem exec_imin {u d a b la lb im} (s : State) : exec (.imin u d a b la lb im) s = execImin u d a b la lb im s := rfl
@[simp] theorem exec_imax {u d a b la lb im} (s : State) : exec (.imax u d a b la lb im) s = execImax u d a b la lb im s := rfl
@[simp] theorem exec_iabs {u d a la} (s : State) : exec (.iabs u d a la) s = execIabs u d a la s := rfl
@[simp] theorem exec_ineg {u d a la} (s : State) : exec (.ineg u d a la) s = execIneg u d a la s := rfl
@[simp] theorem exec_bitAnd {u d a b la lb im} (s : State) : exec (.bitAnd u d a b la lb im) s = execBitAnd u d a b la lb im s := rfl
@[simp] theorem exec_bitOr {u d a b la lb im} (s : State) : exec (.bitOr u d a b la lb im) s = execBitOr u d a b la lb im s := rfl
@[simp] theorem exec_bitXor {u d a b la lb im} (s : State) : exec (.bitXor u d a b la lb im) s = execBitXor u d a b la lb im s := rfl
@[simp] theorem exec_bitAndn {u d a b la lb im} (s : State) : exec (.bitAndn u d a b la lb im) s = execBitAndn u d a b la lb im s := rfl
@[simp] theorem exec_shl {u d a b la lb im} (s : State) : exec (.shl u d a b la lb im) s = execShl u d a b la lb im s := rfl
@[simp] theorem exec_shrL {u d a b la lb im} (s : State) : exec (.shrL u d a b la lb im) s = execShrL u d a b la lb im s := rfl
@[simp] theorem exec_shrA {u d a b la lb im} (s : State) : exec (.shrA u d a b la lb im) s = execShrA u d a b la lb im s := rfl
@[simp] theorem exec_rotL {u d a b la lb im} (s : State) : exec (.rotL u d a b la lb im) s = execRotL u d a b la lb im s := rfl
@[simp] theorem exec_rotR {u d a b la lb im} (s : State) : exec (.rotR u d a b la lb im) s = execRotR u d a b la lb im s := rfl
@[simp] theorem exec_bitcPopc {u d a la} (s : State) : exec (.bitcPopc u d a la) s = execBitcPopc u d a la s := rfl
@[simp] theorem exec_bitcClz {u d a la} (s : State) : exec (.bitcClz u d a la) s = execBitcClz u d a la s := rfl
@[simp] theorem exec_bitcCtz {u d a la} (s : State) : exec (.bitcCtz u d a la) s = execBitcCtz u d a la s := rfl
@[simp] theorem exec_bitcBrev {u d a la} (s : State) : exec (.bitcBrev u d a la) s = execBitcBrev u d a la s := rfl
@[simp] theorem exec_bfeN {u d a b la lb} (s : State) : exec (.bfeN u d a b la lb) s = execBfeN u d a b la lb s := rfl
@[simp] theorem exec_bfeS {u d a b la lb} (s : State) : exec (.bfeS u d a b la lb) s = execBfeS u d a b la lb s := rfl
@[simp] theorem exec_bfi {u d a b la lb} (s : State) : exec (.bfi u d a b la lb) s = execBfi u d a b la lb s := rfl
@[simp] theorem exec_icmpEq {u d a b la lb im} (s : State) : exec (.icmpEq u d a b la lb im) s = execIcmpEq u d a b la lb im s := rfl
@[simp] theorem exec_icmpNe {u d a b la lb im} (s : State) : exec (.icmpNe u d a b la lb im) s = execIcmpNe u d a b la lb im s := rfl
@[simp] theorem exec_icmpLt {u d a b la lb im} (s : State) : exec (.icmpLt u d a b la lb im) s = execIcmpLt u d a b la lb im s := rfl
@[simp] theorem exec_icmpLe {u d a b la lb im} (s : State) : exec (.icmpLe u d a b la lb im) s = execIcmpLe u d a b la lb im s := rfl
@[simp] theorem exec_icmpGt {u d a b la lb im} (s : State) : exec (.icmpGt u d a b la lb im) s = execIcmpGt u d a b la lb im s := rfl
@[simp] theorem exec_icmpGe {u d a b la lb im} (s : State) : exec (.icmpGe u d a b la lb im) s = execIcmpGe u d a b la lb im s := rfl
@[simp] theorem exec_sel {u d a b la lb im pr} (s : State) : exec (.sel u d a b la lb im pr) s = execSel u d a b la lb im pr s := rfl
@[simp] theorem exec_mov {u d a la} (s : State) : exec (.mov u d a la) s = execMov u d a la s := rfl
@[simp] theorem exec_movSpecial {u d a} (s : State) : exec (.movSpecial u d a) s = execMovSpecial u d a s := rfl
@[simp] theorem exec_movG {d a} (s : State) : exec (.movG d a) s = execMovG d a s := rfl
@[simp] theorem exec_plogAnd {d a b} (s : State) : exec (.plogAnd d a b) s = execPlogAnd d a b s := rfl
@[simp] theorem exec_plogOr {d a b} (s : State) : exec (.plogOr d a b) s = execPlogOr d a b s := rfl
@[simp] theorem exec_plogXor {d a b} (s : State) : exec (.plogXor d a b) s = execPlogXor d a b s := rfl
@[simp] theorem exec_plogAndn {d a b} (s : State) : exec (.plogAndn d a b) s = execPlogAndn d a b s := rfl
@[simp] theorem exec_plogNot {d a} (s : State) : exec (.plogNot d a) s = execPlogNot d a s := rfl
@[simp] theorem exec_plogFromg {d a} (s : State) : exec (.plogFromg d a) s = execPlogFromg d a s := rfl
@[simp] theorem exec_plogTog {d a} (s : State) : exec (.plogTog d a) s = execPlogTog d a s := rfl
@[simp] theorem exec_ldi {u d imm} (s : State) : exec (.ldi u d imm) s = execLdi u d imm s := rfl
@[simp] theorem exec_khi {u d imm} (s : State) : exec (.khi u d imm) s = execKhi u d imm s := rfl
@[simp] theorem exec_lea {u d gb ix li sx w} (s : State) : exec (.lea u d gb ix li sx w) s = execLea u d gb ix li sx w s := rfl
@[simp] theorem exec_shflIdx {d a b la lb im} (s : State) : exec (.shflIdx d a b la lb im) s = execShflIdx d a b la lb im s := rfl
@[simp] theorem exec_shflUp {d a b la lb im} (s : State) : exec (.shflUp d a b la lb im) s = execShflUp d a b la lb im s := rfl
@[simp] theorem exec_shflDown {d a b la lb im} (s : State) : exec (.shflDown d a b la lb im) s = execShflDown d a b la lb im s := rfl
@[simp] theorem exec_shflXor {d a b la lb im} (s : State) : exec (.shflXor d a b la lb im) s = execShflXor d a b la lb im s := rfl
@[simp] theorem exec_voteAny {d a} (s : State) : exec (.voteAny d a) s = execVoteAny d a s := rfl
@[simp] theorem exec_voteAll {d a} (s : State) : exec (.voteAll d a) s = execVoteAll d a s := rfl
@[simp] theorem exec_voteBal {d a} (s : State) : exec (.voteBal d a) s = execVoteBal d a s := rfl
@[simp] theorem exec_voteEq {d a la} (s : State) : exec (.voteEq d a la) s = execVoteEq d a la s := rfl
@[simp] theorem exec_lredIadd {d a la} (s : State) : exec (.lredIadd d a la) s = execLredIadd d a la s := rfl
@[simp] theorem exec_lredFadd {d a la} (s : State) : exec (.lredFadd d a la) s = execLredFadd d a la s := rfl
@[simp] theorem exec_lredMin {d a la} (s : State) : exec (.lredMin d a la) s = execLredMin d a la s := rfl
@[simp] theorem exec_lredMax {d a la} (s : State) : exec (.lredMax d a la) s = execLredMax d a la s := rfl
@[simp] theorem exec_lredAmax {d a la} (s : State) : exec (.lredAmax d a la) s = execLredAmax d a la s := rfl
@[simp] theorem exec_lredAnd {d a la} (s : State) : exec (.lredAnd d a la) s = execLredAnd d a la s := rfl
@[simp] theorem exec_lredOr {d a la} (s : State) : exec (.lredOr d a la) s = execLredOr d a la s := rfl
@[simp] theorem exec_lredXor {d a la} (s : State) : exec (.lredXor d a la) s = execLredXor d a la s := rfl
@[simp] theorem exec_lscanIadd {d a la} (s : State) : exec (.lscanIadd d a la) s = execLscanIadd d a la s := rfl
@[simp] theorem exec_lscanFadd {d a la} (s : State) : exec (.lscanFadd d a la) s = execLscanFadd d a la s := rfl
@[simp] theorem exec_lscanMin {d a la} (s : State) : exec (.lscanMin d a la) s = execLscanMin d a la s := rfl
@[simp] theorem exec_lscanMax {d a la} (s : State) : exec (.lscanMax d a la) s = execLscanMax d a la s := rfl
@[simp] theorem exec_lscanAnd {d a la} (s : State) : exec (.lscanAnd d a la) s = execLscanAnd d a la s := rfl
@[simp] theorem exec_lscanOr {d a la} (s : State) : exec (.lscanOr d a la) s = execLscanOr d a la s := rfl
@[simp] theorem exec_lscanXor {d a la} (s : State) : exec (.lscanXor d a la) s = execLscanXor d a la s := rfl
@[simp] theorem exec_bcast {d a b la} (s : State) : exec (.bcast d a b la) s = execBcast d a b la s := rfl
@[simp] theorem exec_bcastG {d a b la} (s : State) : exec (.bcastG d a b la) s = execBcastG d a b la s := rfl
@[simp] theorem exec_bcastFirst {d a la} (s : State) : exec (.bcastFirst d a la) s = execBcastFirst d a la s := rfl
@[simp] theorem exec_bcastFirstg {d a la} (s : State) : exec (.bcastFirstg d a la) s = execBcastFirstg d a la s := rfl
@[simp] theorem exec_fadd {u d a b la lb} (s : State) : exec (.fadd u d a b la lb) s = execFadd u d a b la lb s := rfl
@[simp] theorem exec_fsub {u d a b la lb} (s : State) : exec (.fsub u d a b la lb) s = execFsub u d a b la lb s := rfl
@[simp] theorem exec_fmul {u d a b la lb} (s : State) : exec (.fmul u d a b la lb) s = execFmul u d a b la lb s := rfl
@[simp] theorem exec_ffma {u d a b la lb} (s : State) : exec (.ffma u d a b la lb) s = execFfma u d a b la lb s := rfl
@[simp] theorem exec_ffmaMs {u d a b la lb} (s : State) : exec (.ffmaMs u d a b la lb) s = execFfmaMs u d a b la lb s := rfl
@[simp] theorem exec_ffmaNm {u d a b la lb} (s : State) : exec (.ffmaNm u d a b la lb) s = execFfmaNm u d a b la lb s := rfl
@[simp] theorem exec_ffmaNms {u d a b la lb} (s : State) : exec (.ffmaNms u d a b la lb) s = execFfmaNms u d a b la lb s := rfl
@[simp] theorem exec_fmin {u d a b la lb} (s : State) : exec (.fmin u d a b la lb) s = execFmin u d a b la lb s := rfl
@[simp] theorem exec_fmax {u d a b la lb} (s : State) : exec (.fmax u d a b la lb) s = execFmax u d a b la lb s := rfl
@[simp] theorem exec_fcmpEq {u d a b la lb} (s : State) : exec (.fcmpEq u d a b la lb) s = execFcmpEq u d a b la lb s := rfl
@[simp] theorem exec_fcmpNe {u d a b la lb} (s : State) : exec (.fcmpNe u d a b la lb) s = execFcmpNe u d a b la lb s := rfl
@[simp] theorem exec_fcmpLt {u d a b la lb} (s : State) : exec (.fcmpLt u d a b la lb) s = execFcmpLt u d a b la lb s := rfl
@[simp] theorem exec_fcmpLe {u d a b la lb} (s : State) : exec (.fcmpLe u d a b la lb) s = execFcmpLe u d a b la lb s := rfl
@[simp] theorem exec_fcmpGt {u d a b la lb} (s : State) : exec (.fcmpGt u d a b la lb) s = execFcmpGt u d a b la lb s := rfl
@[simp] theorem exec_fcmpGe {u d a b la lb} (s : State) : exec (.fcmpGe u d a b la lb) s = execFcmpGe u d a b la lb s := rfl
@[simp] theorem exec_fcmpUn {u d a b la lb} (s : State) : exec (.fcmpUn u d a b la lb) s = execFcmpUn u d a b la lb s := rfl
@[simp] theorem exec_fcmpOr {u d a b la lb} (s : State) : exec (.fcmpOr u d a b la lb) s = execFcmpOr u d a b la lb s := rfl
@[simp] theorem exec_fabs {u d a la} (s : State) : exec (.fabs u d a la) s = execFabs u d a la s := rfl
@[simp] theorem exec_fneg {u d a la} (s : State) : exec (.fneg u d a la) s = execFneg u d a la s := rfl
@[simp] theorem exec_frcp {u d a la} (s : State) : exec (.frcp u d a la) s = execFrcp u d a la s := rfl
@[simp] theorem exec_fsqrt {u d a la} (s : State) : exec (.fsqrt u d a la) s = execFsqrt u d a la s := rfl
@[simp] theorem exec_frsq {u d a la} (s : State) : exec (.frsq u d a la) s = execFrsq u d a la s := rfl
@[simp] theorem exec_fexp {u d a la} (s : State) : exec (.fexp u d a la) s = execFexp u d a la s := rfl
@[simp] theorem exec_fln {u d a la} (s : State) : exec (.fln u d a la) s = execFln u d a la s := rfl
@[simp] theorem exec_fexp2 {u d a la} (s : State) : exec (.fexp2 u d a la) s = execFexp2 u d a la s := rfl
@[simp] theorem exec_flog2 {u d a la} (s : State) : exec (.flog2 u d a la) s = execFlog2 u d a la s := rfl
@[simp] theorem exec_cvt {u d a la part} (s : State) : exec (.cvt u d a la part) s = execCvt u d a la part s := rfl
@[simp] theorem exec_frnd {u d a la} (s : State) : exec (.frnd u d a la) s = execFrnd u d a la s := rfl
@[simp] theorem exec_fscal {u d a b la lb im} (s : State) : exec (.fscal u d a b la lb im) s = execFscal u d a b la lb im s := rfl
@[simp] theorem exec_hadq {d a b la} (s : State) : exec (.hadq d a b la) s = execHadq d a b la s := rfl
@[simp] theorem exec_hadqInv {d a b la} (s : State) : exec (.hadqInv d a b la) s = execHadqInv d a b la s := rfl
@[simp] theorem exec_qpack {d a la} (s : State) : exec (.qpack d a la) s = execQpack d a la s := rfl
@[simp] theorem exec_qunpk {d a la} (s : State) : exec (.qunpk d a la) s = execQunpk d a la s := rfl
@[simp] theorem exec_fmtw {u d b} (s : State) : exec (.fmtw u d b) s = execFmtw u d b s := rfl
@[simp] theorem exec_dot4 {u d a b la lb} (s : State) : exec (.dot4 u d a b la lb) s = execDot4 u d a b la lb s := rfl
@[simp] theorem exec_ld {u d gb ix li sx fs w} (s : State) : exec (.ld u d gb ix li sx fs w) s = execLd u d gb ix li sx fs w s := rfl
@[simp] theorem exec_st {u d gb ix ld li sx fs w} (s : State) : exec (.st u d gb ix ld li sx fs w) s = execSt u d gb ix ld li sx fs w s := rfl
@[simp] theorem exec_lds {u d gb ix li sx fs w} (s : State) : exec (.lds u d gb ix li sx fs w) s = execLds u d gb ix li sx fs w s := rfl
@[simp] theorem exec_sts {u d gb ix ld li sx fs w} (s : State) : exec (.sts u d gb ix ld li sx fs w) s = execSts u d gb ix ld li sx fs w s := rfl
@[simp] theorem exec_ldp {d gb ix li sx fs w} (s : State) : exec (.ldp d gb ix li sx fs w) s = execLdp d gb ix li sx fs w s := rfl
@[simp] theorem exec_stp {d gb ix ld li sx fs w} (s : State) : exec (.stp d gb ix ld li sx fs w) s = execStp d gb ix ld li sx fs w s := rfl
@[simp] theorem exec_prsTest {u d gb ix li} (s : State) : exec (.prsTest u d gb ix li) s = execPrsTest u d gb ix li s := rfl
@[simp] theorem exec_prsClr {u gb ix li} (s : State) : exec (.prsClr u gb ix li) s = execPrsClr u gb ix li s := rfl
@[simp] theorem exec_prsSet {u gb ix li} (s : State) : exec (.prsSet u gb ix li) s = execPrsSet u gb ix li s := rfl
@[simp] theorem exec_prsWait {u gb ix li fs} (s : State) : exec (.prsWait u gb ix li fs) s = execPrsWait u gb ix li fs s := rfl
@[simp] theorem exec_fence {fs sc acq rel} (s : State) : exec (.fence fs sc acq rel) s = execFence fs sc acq rel s := rfl
@[simp] theorem exec_fenceSc {fs sc} (s : State) : exec (.fenceSc fs sc) s = execFenceSc fs sc s := rfl
@[simp] theorem exec_atom {u d gb ix aop sc li} (s : State) : exec (.atom u d gb ix aop sc li) s = execAtom u d gb ix aop sc li s := rfl
@[simp] theorem exec_atoms {u d gb ix aop li} (s : State) : exec (.atoms u d gb ix aop li) s = execAtoms u d gb ix aop li s := rfl
@[simp] theorem exec_red {u d gb ix aop sc li} (s : State) : exec (.red u d gb ix aop sc li) s = execRed u d gb ix aop sc li s := rfl
@[simp] theorem exec_xaccAdd {d gb ix ld li sx fs} (s : State) : exec (.xaccAdd d gb ix ld li sx fs) s = execXaccAdd d gb ix ld li sx fs s := rfl
@[simp] theorem exec_xaccRd {d gb ix li sx fs} (s : State) : exec (.xaccRd d gb ix li sx fs) s = execXaccRd d gb ix li sx fs s := rfl
@[simp] theorem exec_ticket {d gb ix sc} (s : State) : exec (.ticket d gb ix sc) s = execTicket d gb ix sc s := rfl
@[simp] theorem exec_ldw {u d gb ix li sx fs w} (s : State) : exec (.ldw u d gb ix li sx fs w) s = execLdw u d gb ix li sx fs w s := rfl
@[simp] theorem exec_stw {u d gb ix ld li sx fs w} (s : State) : exec (.stw u d gb ix ld li sx fs w) s = execStw u d gb ix ld li sx fs w s := rfl
@[simp] theorem exec_pfch {u gb ix li sx fs w} (s : State) : exec (.pfch u gb ix li sx fs w) s = execPfch u gb ix li sx fs w s := rfl
@[simp] theorem exec_copyG2s {ga gb gc fs sc acq rel} (s : State) : exec (.copyG2s ga gb gc fs sc acq rel) s = execCopyG2s ga gb gc fs sc acq rel s := rfl
@[simp] theorem exec_copyS2g {ga gb gc fs sc acq rel} (s : State) : exec (.copyS2g ga gb gc fs sc acq rel) s = execCopyS2g ga gb gc fs sc acq rel s := rfl
@[simp] theorem exec_copyG2o {ga gb gc fs sc acq rel} (s : State) : exec (.copyG2o ga gb gc fs sc acq rel) s = execCopyG2o ga gb gc fs sc acq rel s := rfl
@[simp] theorem exec_copyS2o {ga gb gc fs sc acq rel} (s : State) : exec (.copyS2o ga gb gc fs sc acq rel) s = execCopyS2o ga gb gc fs sc acq rel s := rfl
@[simp] theorem exec_copyG2g {ga gb gc fs sc acq rel} (s : State) : exec (.copyG2g ga gb gc fs sc acq rel) s = execCopyG2g ga gb gc fs sc acq rel s := rfl
@[simp] theorem exec_copyXa {ga gb gc fs sc acq rel} (s : State) : exec (.copyXa ga gb gc fs sc acq rel) s = execCopyXa ga gb gc fs sc acq rel s := rfl
@[simp] theorem exec_copyS2s {ga gb gc fs sc acq rel} (s : State) : exec (.copyS2s ga gb gc fs sc acq rel) s = execCopyS2s ga gb gc fs sc acq rel s := rfl
@[simp] theorem exec_copyfG2o {ga gb gc fs sc acq rel} (s : State) : exec (.copyfG2o ga gb gc fs sc acq rel) s = execCopyfG2o ga gb gc fs sc acq rel s := rfl
@[simp] theorem exec_copyfS2o {ga gb gc fs sc acq rel} (s : State) : exec (.copyfS2o ga gb gc fs sc acq rel) s = execCopyfS2o ga gb gc fs sc acq rel s := rfl
@[simp] theorem exec_mma {acc sa sb vf} (s : State) : exec (.mma acc sa sb vf) s = execMma acc sa sb vf s := rfl
@[simp] theorem exec_accldG {ga gb gc fs sc acq rel} (s : State) : exec (.accldG ga gb gc fs sc acq rel) s = execAccldG ga gb gc fs sc acq rel s := rfl
@[simp] theorem exec_accldS {ga gb gc fs sc acq rel} (s : State) : exec (.accldS ga gb gc fs sc acq rel) s = execAccldS ga gb gc fs sc acq rel s := rfl
@[simp] theorem exec_accstG {ga gb gc fs sc acq rel} (s : State) : exec (.accstG ga gb gc fs sc acq rel) s = execAccstG ga gb gc fs sc acq rel s := rfl
@[simp] theorem exec_accstS {ga gb gc fs sc acq rel} (s : State) : exec (.accstS ga gb gc fs sc acq rel) s = execAccstS ga gb gc fs sc acq rel s := rfl
@[simp] theorem exec_slotClaim {ga fs sc acq rel} (s : State) : exec (.slotClaim ga fs sc acq rel) s = execSlotClaim ga fs sc acq rel s := rfl
@[simp] theorem exec_slotRel {ga fs sc acq rel} (s : State) : exec (.slotRel ga fs sc acq rel) s = execSlotRel ga fs sc acq rel s := rfl
@[simp] theorem exec_slotHeld {gc fs sc acq rel} (s : State) : exec (.slotHeld gc fs sc acq rel) s = execSlotHeld gc fs sc acq rel s := rfl
@[simp] theorem exec_chainSet {ga gb gc fs sc acq rel} (s : State) : exec (.chainSet ga gb gc fs sc acq rel) s = execChainSet ga gb gc fs sc acq rel s := rfl
@[simp] theorem exec_chainAdv {ga gb fs sc acq rel} (s : State) : exec (.chainAdv ga gb fs sc acq rel) s = execChainAdv ga gb fs sc acq rel s := rfl
@[simp] theorem exec_seqw {ga gb fs sc acq rel} (s : State) : exec (.seqw ga gb fs sc acq rel) s = execSeqw ga gb fs sc acq rel s := rfl
@[simp] theorem exec_kvgatK {ga gb gc fs sc acq rel} (s : State) : exec (.kvgatK ga gb gc fs sc acq rel) s = execKvgatK ga gb gc fs sc acq rel s := rfl
@[simp] theorem exec_kvgatV {ga gb gc fs sc acq rel} (s : State) : exec (.kvgatV ga gb gc fs sc acq rel) s = execKvgatV ga gb gc fs sc acq rel s := rfl
@[simp] theorem exec_kvapp {ga gb gc fs sc acq rel} (s : State) : exec (.kvapp ga gb gc fs sc acq rel) s = execKvapp ga gb gc fs sc acq rel s := rfl
@[simp] theorem exec_kvpinPin {ga gb fs sc acq rel} (s : State) : exec (.kvpinPin ga gb fs sc acq rel) s = execKvpinPin ga gb fs sc acq rel s := rfl
@[simp] theorem exec_kvpinUnpin {ga gb fs sc acq rel} (s : State) : exec (.kvpinUnpin ga gb fs sc acq rel) s = execKvpinUnpin ga gb fs sc acq rel s := rfl
@[simp] theorem exec_kvfrk {ga gb gc fs sc acq rel} (s : State) : exec (.kvfrk ga gb gc fs sc acq rel) s = execKvfrk ga gb gc fs sc acq rel s := rfl
@[simp] theorem exec_hdlQuery {ga gc fs sc acq rel} (s : State) : exec (.hdlQuery ga gc fs sc acq rel) s = execHdlQuery ga gc fs sc acq rel s := rfl
@[simp] theorem exec_hdlCommit {ga gb fs sc acq rel} (s : State) : exec (.hdlCommit ga gb fs sc acq rel) s = execHdlCommit ga gb fs sc acq rel s := rfl
@[simp] theorem exec_hdlTrunc {ga gb fs sc acq rel} (s : State) : exec (.hdlTrunc ga gb fs sc acq rel) s = execHdlTrunc ga gb fs sc acq rel s := rfl
@[simp] theorem exec_pfxh {ga gb gc fs sc acq rel} (s : State) : exec (.pfxh ga gb gc fs sc acq rel) s = execPfxh ga gb gc fs sc acq rel s := rfl
@[simp] theorem exec_pfxl {ga gb gc fs sc acq rel} (s : State) : exec (.pfxl ga gb gc fs sc acq rel) s = execPfxl ga gb gc fs sc acq rel s := rfl
@[simp] theorem exec_pfxi {ga gb gc fs sc acq rel} (s : State) : exec (.pfxi ga gb gc fs sc acq rel) s = execPfxi ga gb gc fs sc acq rel s := rfl
@[simp] theorem exec_fputG {ga gb gc fs sc acq rel} (s : State) : exec (.fputG ga gb gc fs sc acq rel) s = execFputG ga gb gc fs sc acq rel s := rfl
@[simp] theorem exec_fputS {ga gb gc fs sc acq rel} (s : State) : exec (.fputS ga gb gc fs sc acq rel) s = execFputS ga gb gc fs sc acq rel s := rfl
@[simp] theorem exec_fputLz {ga gb gc fs sc acq rel} (s : State) : exec (.fputLz ga gb gc fs sc acq rel) s = execFputLz ga gb gc fs sc acq rel s := rfl
@[simp] theorem exec_fputLzg {ga gb gc fs sc acq rel} (s : State) : exec (.fputLzg ga gb gc fs sc acq rel) s = execFputLzg ga gb gc fs sc acq rel s := rfl
@[simp] theorem exec_fgetG {ga gb gc fs sc acq rel} (s : State) : exec (.fgetG ga gb gc fs sc acq rel) s = execFgetG ga gb gc fs sc acq rel s := rfl
@[simp] theorem exec_fgetS {ga gb gc fs sc acq rel} (s : State) : exec (.fgetS ga gb gc fs sc acq rel) s = execFgetS ga gb gc fs sc acq rel s := rfl
@[simp] theorem exec_fatom {sub ga gb gc fs sc acq rel} (s : State) : exec (.fatom sub ga gb gc fs sc acq rel) s = execFatom sub ga gb gc fs sc acq rel s := rfl
@[simp] theorem exec_fred {ga gb gc fs sc acq rel} (s : State) : exec (.fred ga gb gc fs sc acq rel) s = execFred ga gb gc fs sc acq rel s := rfl
@[simp] theorem exec_lzres {ga gc fs sc acq rel} (s : State) : exec (.lzres ga gc fs sc acq rel) s = execLzres ga gc fs sc acq rel s := rfl
@[simp] theorem exec_lzarm {ga gb gc fs sc acq rel} (s : State) : exec (.lzarm ga gb gc fs sc acq rel) s = execLzarm ga gb gc fs sc acq rel s := rfl
@[simp] theorem exec_lzrel {ga fs sc acq rel} (s : State) : exec (.lzrel ga fs sc acq rel) s = execLzrel ga fs sc acq rel s := rfl
@[simp] theorem exec_lzqRd {ga gc fs sc acq rel} (s : State) : exec (.lzqRd ga gc fs sc acq rel) s = execLzqRd ga gc fs sc acq rel s := rfl
@[simp] theorem exec_lzqWait {ga fs sc acq rel} (s : State) : exec (.lzqWait ga fs sc acq rel) s = execLzqWait ga fs sc acq rel s := rfl
@[simp] theorem exec_rngW0 {u d a b la} (s : State) : exec (.rngW0 u d a b la) s = execRngW0 u d a b la s := rfl
@[simp] theorem exec_rngW1 {u d a b la} (s : State) : exec (.rngW1 u d a b la) s = execRngW1 u d a b la s := rfl
@[simp] theorem exec_rngW2 {u d a b la} (s : State) : exec (.rngW2 u d a b la) s = execRngW2 u d a b la s := rfl
@[simp] theorem exec_rngW3 {u d a b la} (s : State) : exec (.rngW3 u d a b la) s = execRngW3 u d a b la s := rfl
@[simp] theorem exec_rngUni {u d a b la} (s : State) : exec (.rngUni u d a b la) s = execRngUni u d a b la s := rfl
@[simp] theorem exec_rngGum {u d a b la} (s : State) : exec (.rngGum u d a b la) s = execRngGum u d a b la s := rfl
@[simp] theorem exec_smplMax {ga gb gc fs sc acq rel} (s : State) : exec (.smplMax ga gb gc fs sc acq rel) s = execSmplMax ga gb gc fs sc acq rel s := rfl
@[simp] theorem exec_smplSmp {ga gb gc fs sc acq rel} (s : State) : exec (.smplSmp ga gb gc fs sc acq rel) s = execSmplSmp ga gb gc fs sc acq rel s := rfl
@[simp] theorem exec_smplRes {ga gb gc fs sc acq rel} (s : State) : exec (.smplRes ga gb gc fs sc acq rel) s = execSmplRes ga gb gc fs sc acq rel s := rfl
@[simp] theorem exec_smrg {ga gb gc fs sc acq rel} (s : State) : exec (.smrg ga gb gc fs sc acq rel) s = execSmrg ga gb gc fs sc acq rel s := rfl
@[simp] theorem exec_acpt {ga gb gc fs sc acq rel} (s : State) : exec (.acpt ga gb gc fs sc acq rel) s = execAcpt ga gb gc fs sc acq rel s := rfl
@[simp] theorem exec_stop {ga gb gc fs sc acq rel} (s : State) : exec (.stop ga gb gc fs sc acq rel) s = execStop ga gb gc fs sc acq rel s := rfl
@[simp] theorem exec_emit {ga gb gc fs sc acq rel} (s : State) : exec (.emit ga gb gc fs sc acq rel) s = execEmit ga gb gc fs sc acq rel s := rfl
@[simp] theorem exec_rqstCommit {ga fs sc acq rel} (s : State) : exec (.rqstCommit ga fs sc acq rel) s = execRqstCommit ga fs sc acq rel s := rfl
@[simp] theorem exec_rqstQuery {ga gc fs sc acq rel} (s : State) : exec (.rqstQuery ga gc fs sc acq rel) s = execRqstQuery ga gc fs sc acq rel s := rfl
@[simp] theorem exec_rqstFail {ga fs sc acq rel} (s : State) : exec (.rqstFail ga fs sc acq rel) s = execRqstFail ga fs sc acq rel s := rfl
@[simp] theorem exec_xredExp {ga gb gc fs sc acq rel} (s : State) : exec (.xredExp ga gb gc fs sc acq rel) s = execXredExp ga gb gc fs sc acq rel s := rfl
@[simp] theorem exec_xredSum {ga gb gc fs sc acq rel} (s : State) : exec (.xredSum ga gb gc fs sc acq rel) s = execXredSum ga gb gc fs sc acq rel s := rfl
@[simp] theorem exec_rep {cnt dD dA dB} (s : State) : exec (.rep cnt dD dA dB) s = execRep cnt dD dA dB s := rfl
@[simp] theorem exec_clause {wait setA setB len} (s : State) : exec (.clause wait setA setB len) s = execClause wait setA setB len s := rfl
@[simp] theorem exec_sqtdbWrite {fn q val} (s : State) : exec (.sqtdbWrite fn q val) s = execSqtdbWrite fn q val s := rfl
@[simp] theorem exec_cqhdbWrite {fn q val} (s : State) : exec (.cqhdbWrite fn q val) s = execCqhdbWrite fn q val s := rfl
@[simp] theorem exec_queueEnable {fn q val} (s : State) : exec (.queueEnable fn q val) s = execQueueEnable fn q val s := rfl
@[simp] theorem exec_queueDisable {fn q val} (s : State) : exec (.queueDisable fn q val) s = execQueueDisable fn q val s := rfl
@[simp] theorem exec_qctlErrClear {fn q val} (s : State) : exec (.qctlErrClear fn q val) s = execQctlErrClear fn q val s := rfl
@[simp] theorem exec_registerWrite {fn off width val} (s : State) : exec (.registerWrite fn off width val) s = execRegisterWrite fn off width val s := rfl
@[simp] theorem exec_devIdent {c} (s : State) : exec (.devIdent c) s = execDevIdent c s := rfl
@[simp] theorem exec_featNegotiate {c} (s : State) : exec (.featNegotiate c) s = execFeatNegotiate c s := rfl
@[simp] theorem exec_tenantOpen {c} (s : State) : exec (.tenantOpen c) s = execTenantOpen c s := rfl
@[simp] theorem exec_tenantClose {c} (s : State) : exec (.tenantClose c) s = execTenantClose c s := rfl
@[simp] theorem exec_memMap {c} (s : State) : exec (.memMap c) s = execMemMap c s := rfl
@[simp] theorem exec_memMapUnmap {c} (s : State) : exec (.memMapUnmap c) s = execMemMapUnmap c s := rfl
@[simp] theorem exec_imageLoad {c} (s : State) : exec (.imageLoad c) s = execImageLoad c s := rfl
@[simp] theorem exec_imageLoadRom {c} (s : State) : exec (.imageLoadRom c) s = execImageLoadRom c s := rfl
@[simp] theorem exec_poolCreate {c} (s : State) : exec (.poolCreate c) s = execPoolCreate c s := rfl
@[simp] theorem exec_modelPlan {c} (s : State) : exec (.modelPlan c) s = execModelPlan c s := rfl
@[simp] theorem exec_modelPlanRom {c} (s : State) : exec (.modelPlanRom c) s = execModelPlanRom c s := rfl
@[simp] theorem exec_reqAdmit {c} (s : State) : exec (.reqAdmit c) s = execReqAdmit c s := rfl
@[simp] theorem exec_reqCancel {c} (s : State) : exec (.reqCancel c) s = execReqCancel c s := rfl
@[simp] theorem exec_reqFork {c} (s : State) : exec (.reqFork c) s = execReqFork c s := rfl
@[simp] theorem exec_reqQuery {c} (s : State) : exec (.reqQuery c) s = execReqQuery c s := rfl
@[simp] theorem exec_reqQueryRelease {c} (s : State) : exec (.reqQueryRelease c) s = execReqQueryRelease c s := rfl
@[simp] theorem exec_launch {c} (s : State) : exec (.launch c) s = execLaunch c s := rfl
@[simp] theorem exec_graphSubmit {c} (s : State) : exec (.graphSubmit c) s = execGraphSubmit c s := rfl
@[simp] theorem exec_preempt {c} (s : State) : exec (.preempt c) s = execPreempt c s := rfl
@[simp] theorem exec_ctxExport {c} (s : State) : exec (.ctxExport c) s = execCtxExport c s := rfl
@[simp] theorem exec_ctxImport {c} (s : State) : exec (.ctxImport c) s = execCtxImport c s := rfl
@[simp] theorem exec_resume {c} (s : State) : exec (.resume c) s = execResume c s := rfl
@[simp] theorem exec_fabricRoutesLoad {c} (s : State) : exec (.fabricRoutesLoad c) s = execFabricRoutesLoad c s := rfl
@[simp] theorem exec_fabricRoutesFlip {c} (s : State) : exec (.fabricRoutesFlip c) s = execFabricRoutesFlip c s := rfl
@[simp] theorem exec_fabricRoutesRetire {c} (s : State) : exec (.fabricRoutesRetire c) s = execFabricRoutesRetire c s := rfl
@[simp] theorem exec_fabricRoutesExport {c} (s : State) : exec (.fabricRoutesExport c) s = execFabricRoutesExport c s := rfl
@[simp] theorem exec_kvExport {c} (s : State) : exec (.kvExport c) s = execKvExport c s := rfl
@[simp] theorem exec_kvImport {c} (s : State) : exec (.kvImport c) s = execKvImport c s := rfl
@[simp] theorem exec_snapArm {c} (s : State) : exec (.snapArm c) s = execSnapArm c s := rfl
@[simp] theorem exec_snapRead {c} (s : State) : exec (.snapRead c) s = execSnapRead c s := rfl
@[simp] theorem exec_alarmStatus {c} (s : State) : exec (.alarmStatus c) s = execAlarmStatus c s := rfl
@[simp] theorem exec_alarmStatusClear {c} (s : State) : exec (.alarmStatusClear c) s = execAlarmStatusClear c s := rfl
@[simp] theorem exec_fwPatch {c} (s : State) : exec (.fwPatch c) s = execFwPatch c s := rfl
@[simp] theorem exec_attest {c} (s : State) : exec (.attest c) s = execAttest c s := rfl
@[simp] theorem exec_keyLoad {c} (s : State) : exec (.keyLoad c) s = execKeyLoad c s := rfl
@[simp] theorem exec_chipletReset {c} (s : State) : exec (.chipletReset c) s = execChipletReset c s := rfl
@[simp] theorem exec_telemetry {c} (s : State) : exec (.telemetry c) s = execTelemetry c s := rfl
@[simp] theorem exec_pcieReadCompletion {xfer chunk} (s : State) : exec (.pcieReadCompletion xfer chunk) s = execPcieReadCompletion xfer chunk s := rfl
@[simp] theorem exec_routeAck {xfer quad} (s : State) : exec (.routeAck xfer quad) s = execRouteAck xfer quad s := rfl
@[simp] theorem exec_pcieReadTimeout {xfer} (s : State) : exec (.pcieReadTimeout xfer) s = execPcieReadTimeout xfer s := rfl
@[simp] theorem exec_consumerCountPoll {tenant} (s : State) : exec (.consumerCountPoll tenant) s = execConsumerCountPoll tenant s := rfl
@[simp] theorem exec_powerWindowEnd {r} (s : State) : exec (.powerWindowEnd r) s = execPowerWindowEnd r s := rfl
@[simp] theorem exec_coldReset {r} (s : State) : exec (.coldReset r) s = execColdReset r s := rfl
@[simp] theorem exec_chipletFault {chip} (s : State) : exec (.chipletFault chip) s = execChipletFault chip s := rfl
@[simp] theorem exec_fenceDrainComplete {chip} (s : State) : exec (.fenceDrainComplete chip) s = execFenceDrainComplete chip s := rfl
@[simp] theorem exec_fenceTimeout {chip} (s : State) : exec (.fenceTimeout chip) s = execFenceTimeout chip s := rfl
@[simp] theorem exec_chipletResetDone {chip} (s : State) : exec (.chipletResetDone chip) s = execChipletResetDone chip s := rfl
@[simp] theorem exec_selftestPass {chip} (s : State) : exec (.selftestPass chip) s = execSelftestPass chip s := rfl
@[simp] theorem exec_selftestFail {chip} (s : State) : exec (.selftestFail chip) s = execSelftestFail chip s := rfl
@[simp] theorem exec_alarmSensor {sensor} (s : State) : exec (.alarmSensor sensor) s = execAlarmSensor sensor s := rfl
@[simp] theorem exec_tempcHoldExpiry (s : State) : exec .tempcHoldExpiry s = execTempcHoldExpiry s := rfl
@[simp] theorem exec_snapshotPin (s : State) : exec .snapshotPin s = execSnapshotPin s := rfl
@[simp] theorem exec_shootdownAck {sd chip} (s : State) : exec (.shootdownAck sd chip) s = execShootdownAck sd chip s := rfl
@[simp] theorem exec_recordRelaunch {ctx part slot} (s : State) : exec (.recordRelaunch ctx part slot) s = execRecordRelaunch ctx part slot s := rfl
@[simp] theorem exec_loadResultLand {op lanes} (s : State) : exec (.loadResultLand op lanes) s = execLoadResultLand op lanes s := rfl
@[simp] theorem exec_storeCommit {op lane} (s : State) : exec (.storeCommit op lane) s = execStoreCommit op lane s := rfl
@[simp] theorem exec_atomicPerform {op} (s : State) : exec (.atomicPerform op) s = execAtomicPerform op s := rfl
@[simp] theorem exec_lltlbLookupDone {ctx victim} (s : State) : exec (.lltlbLookupDone ctx victim) s = execLltlbLookupDone ctx victim s := rfl
@[simp] theorem exec_walkComplete {walk victim} (s : State) : exec (.walkComplete walk victim) s = execWalkComplete walk victim s := rfl
@[simp] theorem exec_checkAnswer {ctx} (s : State) : exec (.checkAnswer ctx) s = execCheckAnswer ctx s := rfl
@[simp] theorem exec_raceRecordsArrive {ctx} (s : State) : exec (.raceRecordsArrive ctx) s = execRaceRecordsArrive ctx s := rfl
@[simp] theorem exec_registerEccError {ctx site} (s : State) : exec (.registerEccError ctx site) s = execRegisterEccError ctx site s := rfl
@[simp] theorem exec_memoryEccError {line} (s : State) : exec (.memoryEccError line) s = execMemoryEccError line s := rfl
@[simp] theorem exec_huddleBinTimeout {ctx} (s : State) : exec (.huddleBinTimeout ctx) s = execHuddleBinTimeout ctx s := rfl
@[simp] theorem exec_admissionStep {places} (s : State) : exec (.admissionStep places) s = execAdmissionStep places s := rfl
@[simp] theorem exec_launchComplete {id} (s : State) : exec (.launchComplete id) s = execLaunchComplete id s := rfl
@[simp] theorem exec_handlerStart {id place} (s : State) : exec (.handlerStart id place) s = execHandlerStart id place s := rfl
@[simp] theorem exec_firmwareDispose {id} (s : State) : exec (.firmwareDispose id) s = execFirmwareDispose id s := rfl
@[simp] theorem exec_xlateHoldTimeout {id seq} (s : State) : exec (.xlateHoldTimeout id seq) s = execXlateHoldTimeout id seq s := rfl
@[simp] theorem exec_copyLineLand {cmd line} (s : State) : exec (.copyLineLand cmd line) s = execCopyLineLand cmd line s := rfl
@[simp] theorem exec_engineComplete {cmd} (s : State) : exec (.engineComplete cmd) s = execEngineComplete cmd s := rfl
@[simp] theorem exec_mmaStart {cmd} (s : State) : exec (.mmaStart cmd) s = execMmaStart cmd s := rfl
@[simp] theorem exec_mmaComplete {cmd} (s : State) : exec (.mmaComplete cmd) s = execMmaComplete cmd s := rfl
@[simp] theorem exec_slotClaimGrant {cmd} (s : State) : exec (.slotClaimGrant cmd) s = execSlotClaimGrant cmd s := rfl
@[simp] theorem exec_chainEntryTake {core chain} (s : State) : exec (.chainEntryTake core chain) s = execChainEntryTake core chain s := rfl
@[simp] theorem exec_chainEntryComplete {cmd} (s : State) : exec (.chainEntryComplete cmd) s = execChainEntryComplete cmd s := rfl
@[simp] theorem exec_gatherLineLand {cmd line} (s : State) : exec (.gatherLineLand cmd line) s = execGatherLineLand cmd line s := rfl
@[simp] theorem exec_evictionStart {pool} (s : State) : exec (.evictionStart pool) s = execEvictionStart pool s := rfl
@[simp] theorem exec_evictionCopyDone {pool frame} (s : State) : exec (.evictionCopyDone pool frame) s = execEvictionCopyDone pool frame s := rfl
@[simp] theorem exec_fetchStart {pool frame} (s : State) : exec (.fetchStart pool frame) s = execFetchStart pool frame s := rfl
@[simp] theorem exec_fetchDone {pool frame} (s : State) : exec (.fetchDone pool frame) s = execFetchDone pool frame s := rfl
@[simp] theorem exec_iterationForm {plan} (s : State) : exec (.iterationForm plan) s = execIterationForm plan s := rfl
@[simp] theorem exec_iterationGraphComplete {plan} (s : State) : exec (.iterationGraphComplete plan) s = execIterationGraphComplete plan s := rfl
@[simp] theorem exec_iterationComplete {plan} (s : State) : exec (.iterationComplete plan) s = execIterationComplete plan s := rfl
@[simp] theorem exec_deadlinePass {req} (s : State) : exec (.deadlinePass req) s = execDeadlinePass req s := rfl
@[simp] theorem exec_admissionKernelComplete {req} (s : State) : exec (.admissionKernelComplete req) s = execAdmissionKernelComplete req s := rfl
@[simp] theorem exec_packetForward {p port} (s : State) : exec (.packetForward p port) s = execPacketForward p port s := rfl
@[simp] theorem exec_writePacket {p port} (s : State) : exec (.writePacket p port) s = execWritePacket p port s := rfl
@[simp] theorem exec_catchPacket {p port} (s : State) : exec (.catchPacket p port) s = execCatchPacket p port s := rfl
@[simp] theorem exec_readPacket {p port} (s : State) : exec (.readPacket p port) s = execReadPacket p port s := rfl
@[simp] theorem exec_readdataPacket {p port} (s : State) : exec (.readdataPacket p port) s = execReaddataPacket p port s := rfl
@[simp] theorem exec_atomicPacket {p port} (s : State) : exec (.atomicPacket p port) s = execAtomicPacket p port s := rfl
@[simp] theorem exec_atomreplyPacket {p port} (s : State) : exec (.atomreplyPacket p port) s = execAtomreplyPacket p port s := rfl
@[simp] theorem exec_ackPacket {p port} (s : State) : exec (.ackPacket p port) s = execAckPacket p port s := rfl
@[simp] theorem exec_nackPacket {p port} (s : State) : exec (.nackPacket p port) s = execNackPacket p port s := rfl
@[simp] theorem exec_resvPacket {p port} (s : State) : exec (.resvPacket p port) s = execResvPacket p port s := rfl
@[simp] theorem exec_resvreplyPacket {p port} (s : State) : exec (.resvreplyPacket p port) s = execResvreplyPacket p port s := rfl
@[simp] theorem exec_tornPacket {p port} (s : State) : exec (.tornPacket p port) s = execTornPacket p port s := rfl
@[simp] theorem exec_abortPacket {p port} (s : State) : exec (.abortPacket p port) s = execAbortPacket p port s := rfl
@[simp] theorem exec_reducePacket {p port} (s : State) : exec (.reducePacket p port) s = execReducePacket p port s := rfl
@[simp] theorem exec_redresultPacket {p port} (s : State) : exec (.redresultPacket p port) s = execRedresultPacket p port s := rfl
@[simp] theorem exec_kvxferPacket {p port} (s : State) : exec (.kvxferPacket p port) s = execKvxferPacket p port s := rfl
@[simp] theorem exec_ueMessage {m} (s : State) : exec (.ueMessage m) s = execUeMessage m s := rfl
@[simp] theorem exec_ueTransportFailure {xfer} (s : State) : exec (.ueTransportFailure xfer) s = execUeTransportFailure xfer s := rfl
@[simp] theorem exec_linkDown {port} (s : State) : exec (.linkDown port) s = execLinkDown port s := rfl
@[simp] theorem exec_retransmitTimeout {dst seq} (s : State) : exec (.retransmitTimeout dst seq) s = execRetransmitTimeout dst seq s := rfl
@[simp] theorem exec_catchSlotTimeout {core slot} (s : State) : exec (.catchSlotTimeout core slot) s = execCatchSlotTimeout core slot s := rfl
@[simp] theorem exec_catchAbortTimeout {cmd} (s : State) : exec (.catchAbortTimeout cmd) s = execCatchAbortTimeout cmd s := rfl
@[simp] theorem exec_reduceResendTimeout {cmd} (s : State) : exec (.reduceResendTimeout cmd) s = execReduceResendTimeout cmd s := rfl
@[simp] theorem exec_kvImportTimeout {xfer} (s : State) : exec (.kvImportTimeout xfer) s = execKvImportTimeout xfer s := rfl
@[simp] theorem exec_kvExportTimeout {xfer} (s : State) : exec (.kvExportTimeout xfer) s = execKvExportTimeout xfer s := rfl
@[simp] theorem exec_preemptFabricTimeout {tenant} (s : State) : exec (.preemptFabricTimeout tenant) s = execPreemptFabricTimeout tenant s := rfl
@[simp] theorem exec_contextImageCommit {tenant} (s : State) : exec (.contextImageCommit tenant) s = execContextImageCommit tenant s := rfl
@[simp] theorem exec_sectionRestore {tenant sect places} (s : State) : exec (.sectionRestore tenant sect places) s = execSectionRestore tenant sect places s := rfl
@[simp] theorem exec_slotTileUncorrectableError {cmd} (s : State) : exec (.slotTileUncorrectableError cmd) s = execSlotTileUncorrectableError cmd s := rfl
@[simp] theorem exec_scratchpadStoreComplete {op} (s : State) : exec (.scratchpadStoreComplete op) s = execScratchpadStoreComplete op s := rfl

end Sys2Proof.Machine
end

