-- ==== Sys2Proof/Laws/State.lean ====
section
/-! SUPPORT. What the named updates of State leave in each of its fields. -/

namespace Sys2Proof.Machine

/-! ## setCore -/

@[simp] theorem setCore_turns (s : State) (c : Nat) (k : Core) : (setCore s c k).turns = s.turns := rfl
@[simp] theorem setCore_cur (s : State) (c : Nat) (k : Core) : (setCore s c k).cur = s.cur := rfl
@[simp] theorem setCore_clk (s : State) (c : Nat) (k : Core) : (setCore s c k).clk = s.clk := rfl
@[simp] theorem setCore_freeCtr (s : State) (c : Nat) (k : Core) : (setCore s c k).freeCtr = s.freeCtr := rfl
@[simp] theorem setCore_nextKey (s : State) (c : Nat) (k : Core) : (setCore s c k).nextKey = s.nextKey := rfl
@[simp] theorem setCore_nextInst (s : State) (c : Nat) (k : Core) : (setCore s c k).nextInst = s.nextInst := rfl
@[simp] theorem setCore_mem (s : State) (c : Nat) (k : Core) : (setCore s c k).mem = s.mem := rfl
@[simp] theorem setCore_badLines (s : State) (c : Nat) (k : Core) : (setCore s c k).badLines = s.badLines := rfl
@[simp] theorem setCore_taken (s : State) (c : Nat) (k : Core) : (setCore s c k).taken = s.taken := rfl
@[simp] theorem setCore_hbm (s : State) (c : Nat) (k : Core) : (setCore s c k).hbm = s.hbm := rfl
@[simp] theorem setCore_lpddr (s : State) (c : Nat) (k : Core) : (setCore s c k).lpddr = s.lpddr := rfl
@[simp] theorem setCore_fixed (s : State) (c : Nat) (k : Core) : (setCore s c k).fixed = s.fixed := rfl
@[simp] theorem setCore_chips (s : State) (c : Nat) (k : Core) : (setCore s c k).chips = s.chips := rfl
@[simp] theorem setCore_cores (s : State) (c : Nat) (k : Core) : (setCore s c k).cores = tset s.cores c k := rfl
@[simp] theorem setCore_pointer (s : State) (c : Nat) (k : Core) : (setCore s c k).pointer = s.pointer := rfl
@[simp] theorem setCore_windows (s : State) (c : Nat) (k : Core) : (setCore s c k).windows = s.windows := rfl
@[simp] theorem setCore_hostMem (s : State) (c : Nat) (k : Core) : (setCore s c k).hostMem = s.hostMem := rfl
@[simp] theorem setCore_rdy (s : State) (c : Nat) (k : Core) : (setCore s c k).rdy = s.rdy := rfl
@[simp] theorem setCore_fatal (s : State) (c : Nat) (k : Core) : (setCore s c k).fatal = s.fatal := rfl
@[simp] theorem setCore_locked (s : State) (c : Nat) (k : Core) : (setCore s c k).locked = s.locked := rfl
@[simp] theorem setCore_feats (s : State) (c : Nat) (k : Core) : (setCore s c k).feats = s.feats := rfl
@[simp] theorem setCore_queues (s : State) (c : Nat) (k : Core) : (setCore s c k).queues = s.queues := rfl
@[simp] theorem setCore_msix (s : State) (c : Nat) (k : Core) : (setCore s c k).msix = s.msix := rfl
@[simp] theorem setCore_patch (s : State) (c : Nat) (k : Core) : (setCore s c k).patch = s.patch := rfl
@[simp] theorem setCore_xfers (s : State) (c : Nat) (k : Core) : (setCore s c k).xfers = s.xfers := rfl
@[simp] theorem setCore_tenants (s : State) (c : Nat) (k : Core) : (setCore s c k).tenants = s.tenants := rfl
@[simp] theorem setCore_roots (s : State) (c : Nat) (k : Core) : (setCore s c k).roots = s.roots := rfl
@[simp] theorem setCore_images (s : State) (c : Nat) (k : Core) : (setCore s c k).images = s.images := rfl
@[simp] theorem setCore_pools (s : State) (c : Nat) (k : Core) : (setCore s c k).pools = s.pools := rfl
@[simp] theorem setCore_plans (s : State) (c : Nat) (k : Core) : (setCore s c k).plans = s.plans := rfl
@[simp] theorem setCore_handles (s : State) (c : Nat) (k : Core) : (setCore s c k).handles = s.handles := rfl
@[simp] theorem setCore_playbook (s : State) (c : Nat) (k : Core) : (setCore s c k).playbook = s.playbook := rfl
@[simp] theorem setCore_reqs (s : State) (c : Nat) (k : Core) : (setCore s c k).reqs = s.reqs := rfl
@[simp] theorem setCore_admSeq (s : State) (c : Nat) (k : Core) : (setCore s c k).admSeq = s.admSeq := rfl
@[simp] theorem setCore_iterCtr (s : State) (c : Nat) (k : Core) : (setCore s c k).iterCtr = s.iterCtr := rfl
@[simp] theorem setCore_lastPlan (s : State) (c : Nat) (k : Core) : (setCore s c k).lastPlan = s.lastPlan := rfl
@[simp] theorem setCore_launches (s : State) (c : Nat) (k : Core) : (setCore s c k).launches = s.launches := rfl
@[simp] theorem setCore_taskq (s : State) (c : Nat) (k : Core) : (setCore s c k).taskq = s.taskq := rfl
@[simp] theorem setCore_graphs (s : State) (c : Nat) (k : Core) : (setCore s c k).graphs = s.graphs := rfl
@[simp] theorem setCore_wgs (s : State) (c : Nat) (k : Core) : (setCore s c k).wgs = s.wgs := rfl
@[simp] theorem setCore_gangs (s : State) (c : Nat) (k : Core) : (setCore s c k).gangs = s.gangs := rfl
@[simp] theorem setCore_groups (s : State) (c : Nat) (k : Core) : (setCore s c k).groups = s.groups := rfl
@[simp] theorem setCore_ops (s : State) (c : Nat) (k : Core) : (setCore s c k).ops = s.ops := rfl
@[simp] theorem setCore_cmds (s : State) (c : Nat) (k : Core) : (setCore s c k).cmds = s.cmds := rfl
@[simp] theorem setCore_hide (s : State) (c : Nat) (k : Core) : (setCore s c k).hide = s.hide := rfl
@[simp] theorem setCore_walks (s : State) (c : Nat) (k : Core) : (setCore s c k).walks = s.walks := rfl
@[simp] theorem setCore_walkq (s : State) (c : Nat) (k : Core) : (setCore s c k).walkq = s.walkq := rfl
@[simp] theorem setCore_walkCache (s : State) (c : Nat) (k : Core) : (setCore s c k).walkCache = s.walkCache := rfl
@[simp] theorem setCore_shoots (s : State) (c : Nat) (k : Core) : (setCore s c k).shoots = s.shoots := rfl
@[simp] theorem setCore_race (s : State) (c : Nat) (k : Core) : (setCore s c k).race = s.race := rfl
@[simp] theorem setCore_fab (s : State) (c : Nat) (k : Core) : (setCore s c k).fab = s.fab := rfl
@[simp] theorem setCore_sec (s : State) (c : Nat) (k : Core) : (setCore s c k).sec = s.sec := rfl
@[simp] theorem setCore_tele (s : State) (c : Nat) (k : Core) : (setCore s c k).tele = s.tele := rfl

/-! ## modCmd -/

@[simp] theorem modCmd_turns (s : State) (k : Nat) (f : Cmd → Cmd) : (modCmd s k f).turns = s.turns := rfl
@[simp] theorem modCmd_cur (s : State) (k : Nat) (f : Cmd → Cmd) : (modCmd s k f).cur = s.cur := rfl
@[simp] theorem modCmd_clk (s : State) (k : Nat) (f : Cmd → Cmd) : (modCmd s k f).clk = s.clk := rfl
@[simp] theorem modCmd_freeCtr (s : State) (k : Nat) (f : Cmd → Cmd) : (modCmd s k f).freeCtr = s.freeCtr := rfl
@[simp] theorem modCmd_nextKey (s : State) (k : Nat) (f : Cmd → Cmd) : (modCmd s k f).nextKey = s.nextKey := rfl
@[simp] theorem modCmd_nextInst (s : State) (k : Nat) (f : Cmd → Cmd) : (modCmd s k f).nextInst = s.nextInst := rfl
@[simp] theorem modCmd_mem (s : State) (k : Nat) (f : Cmd → Cmd) : (modCmd s k f).mem = s.mem := rfl
@[simp] theorem modCmd_badLines (s : State) (k : Nat) (f : Cmd → Cmd) : (modCmd s k f).badLines = s.badLines := rfl
@[simp] theorem modCmd_taken (s : State) (k : Nat) (f : Cmd → Cmd) : (modCmd s k f).taken = s.taken := rfl
@[simp] theorem modCmd_hbm (s : State) (k : Nat) (f : Cmd → Cmd) : (modCmd s k f).hbm = s.hbm := rfl
@[simp] theorem modCmd_lpddr (s : State) (k : Nat) (f : Cmd → Cmd) : (modCmd s k f).lpddr = s.lpddr := rfl
@[simp] theorem modCmd_fixed (s : State) (k : Nat) (f : Cmd → Cmd) : (modCmd s k f).fixed = s.fixed := rfl
@[simp] theorem modCmd_chips (s : State) (k : Nat) (f : Cmd → Cmd) : (modCmd s k f).chips = s.chips := rfl
@[simp] theorem modCmd_cores (s : State) (k : Nat) (f : Cmd → Cmd) : (modCmd s k f).cores = s.cores := rfl
@[simp] theorem modCmd_pointer (s : State) (k : Nat) (f : Cmd → Cmd) : (modCmd s k f).pointer = s.pointer := rfl
@[simp] theorem modCmd_windows (s : State) (k : Nat) (f : Cmd → Cmd) : (modCmd s k f).windows = s.windows := rfl
@[simp] theorem modCmd_hostMem (s : State) (k : Nat) (f : Cmd → Cmd) : (modCmd s k f).hostMem = s.hostMem := rfl
@[simp] theorem modCmd_rdy (s : State) (k : Nat) (f : Cmd → Cmd) : (modCmd s k f).rdy = s.rdy := rfl
@[simp] theorem modCmd_fatal (s : State) (k : Nat) (f : Cmd → Cmd) : (modCmd s k f).fatal = s.fatal := rfl
@[simp] theorem modCmd_locked (s : State) (k : Nat) (f : Cmd → Cmd) : (modCmd s k f).locked = s.locked := rfl
@[simp] theorem modCmd_feats (s : State) (k : Nat) (f : Cmd → Cmd) : (modCmd s k f).feats = s.feats := rfl
@[simp] theorem modCmd_queues (s : State) (k : Nat) (f : Cmd → Cmd) : (modCmd s k f).queues = s.queues := rfl
@[simp] theorem modCmd_msix (s : State) (k : Nat) (f : Cmd → Cmd) : (modCmd s k f).msix = s.msix := rfl
@[simp] theorem modCmd_patch (s : State) (k : Nat) (f : Cmd → Cmd) : (modCmd s k f).patch = s.patch := rfl
@[simp] theorem modCmd_xfers (s : State) (k : Nat) (f : Cmd → Cmd) : (modCmd s k f).xfers = s.xfers := rfl
@[simp] theorem modCmd_tenants (s : State) (k : Nat) (f : Cmd → Cmd) : (modCmd s k f).tenants = s.tenants := rfl
@[simp] theorem modCmd_roots (s : State) (k : Nat) (f : Cmd → Cmd) : (modCmd s k f).roots = s.roots := rfl
@[simp] theorem modCmd_images (s : State) (k : Nat) (f : Cmd → Cmd) : (modCmd s k f).images = s.images := rfl
@[simp] theorem modCmd_pools (s : State) (k : Nat) (f : Cmd → Cmd) : (modCmd s k f).pools = s.pools := rfl
@[simp] theorem modCmd_plans (s : State) (k : Nat) (f : Cmd → Cmd) : (modCmd s k f).plans = s.plans := rfl
@[simp] theorem modCmd_handles (s : State) (k : Nat) (f : Cmd → Cmd) : (modCmd s k f).handles = s.handles := rfl
@[simp] theorem modCmd_playbook (s : State) (k : Nat) (f : Cmd → Cmd) : (modCmd s k f).playbook = s.playbook := rfl
@[simp] theorem modCmd_reqs (s : State) (k : Nat) (f : Cmd → Cmd) : (modCmd s k f).reqs = s.reqs := rfl
@[simp] theorem modCmd_admSeq (s : State) (k : Nat) (f : Cmd → Cmd) : (modCmd s k f).admSeq = s.admSeq := rfl
@[simp] theorem modCmd_iterCtr (s : State) (k : Nat) (f : Cmd → Cmd) : (modCmd s k f).iterCtr = s.iterCtr := rfl
@[simp] theorem modCmd_lastPlan (s : State) (k : Nat) (f : Cmd → Cmd) : (modCmd s k f).lastPlan = s.lastPlan := rfl
@[simp] theorem modCmd_launches (s : State) (k : Nat) (f : Cmd → Cmd) : (modCmd s k f).launches = s.launches := rfl
@[simp] theorem modCmd_taskq (s : State) (k : Nat) (f : Cmd → Cmd) : (modCmd s k f).taskq = s.taskq := rfl
@[simp] theorem modCmd_graphs (s : State) (k : Nat) (f : Cmd → Cmd) : (modCmd s k f).graphs = s.graphs := rfl
@[simp] theorem modCmd_wgs (s : State) (k : Nat) (f : Cmd → Cmd) : (modCmd s k f).wgs = s.wgs := rfl
@[simp] theorem modCmd_gangs (s : State) (k : Nat) (f : Cmd → Cmd) : (modCmd s k f).gangs = s.gangs := rfl
@[simp] theorem modCmd_groups (s : State) (k : Nat) (f : Cmd → Cmd) : (modCmd s k f).groups = s.groups := rfl
@[simp] theorem modCmd_ops (s : State) (k : Nat) (f : Cmd → Cmd) : (modCmd s k f).ops = s.ops := rfl
@[simp] theorem modCmd_cmds (s : State) (k : Nat) (f : Cmd → Cmd) : (modCmd s k f).cmds = tmod s.cmds k f := rfl
@[simp] theorem modCmd_hide (s : State) (k : Nat) (f : Cmd → Cmd) : (modCmd s k f).hide = s.hide := rfl
@[simp] theorem modCmd_walks (s : State) (k : Nat) (f : Cmd → Cmd) : (modCmd s k f).walks = s.walks := rfl
@[simp] theorem modCmd_walkq (s : State) (k : Nat) (f : Cmd → Cmd) : (modCmd s k f).walkq = s.walkq := rfl
@[simp] theorem modCmd_walkCache (s : State) (k : Nat) (f : Cmd → Cmd) : (modCmd s k f).walkCache = s.walkCache := rfl
@[simp] theorem modCmd_shoots (s : State) (k : Nat) (f : Cmd → Cmd) : (modCmd s k f).shoots = s.shoots := rfl
@[simp] theorem modCmd_race (s : State) (k : Nat) (f : Cmd → Cmd) : (modCmd s k f).race = s.race := rfl
@[simp] theorem modCmd_fab (s : State) (k : Nat) (f : Cmd → Cmd) : (modCmd s k f).fab = s.fab := rfl
@[simp] theorem modCmd_sec (s : State) (k : Nat) (f : Cmd → Cmd) : (modCmd s k f).sec = s.sec := rfl
@[simp] theorem modCmd_tele (s : State) (k : Nat) (f : Cmd → Cmd) : (modCmd s k f).tele = s.tele := rfl

/-! ## modLaunch -/

@[simp] theorem modLaunch_turns (s : State) (l : Nat) (f : Launch → Launch) : (modLaunch s l f).turns = s.turns := rfl
@[simp] theorem modLaunch_cur (s : State) (l : Nat) (f : Launch → Launch) : (modLaunch s l f).cur = s.cur := rfl
@[simp] theorem modLaunch_clk (s : State) (l : Nat) (f : Launch → Launch) : (modLaunch s l f).clk = s.clk := rfl
@[simp] theorem modLaunch_freeCtr (s : State) (l : Nat) (f : Launch → Launch) : (modLaunch s l f).freeCtr = s.freeCtr := rfl
@[simp] theorem modLaunch_nextKey (s : State) (l : Nat) (f : Launch → Launch) : (modLaunch s l f).nextKey = s.nextKey := rfl
@[simp] theorem modLaunch_nextInst (s : State) (l : Nat) (f : Launch → Launch) : (modLaunch s l f).nextInst = s.nextInst := rfl
@[simp] theorem modLaunch_mem (s : State) (l : Nat) (f : Launch → Launch) : (modLaunch s l f).mem = s.mem := rfl
@[simp] theorem modLaunch_badLines (s : State) (l : Nat) (f : Launch → Launch) : (modLaunch s l f).badLines = s.badLines := rfl
@[simp] theorem modLaunch_taken (s : State) (l : Nat) (f : Launch → Launch) : (modLaunch s l f).taken = s.taken := rfl
@[simp] theorem modLaunch_hbm (s : State) (l : Nat) (f : Launch → Launch) : (modLaunch s l f).hbm = s.hbm := rfl
@[simp] theorem modLaunch_lpddr (s : State) (l : Nat) (f : Launch → Launch) : (modLaunch s l f).lpddr = s.lpddr := rfl
@[simp] theorem modLaunch_fixed (s : State) (l : Nat) (f : Launch → Launch) : (modLaunch s l f).fixed = s.fixed := rfl
@[simp] theorem modLaunch_chips (s : State) (l : Nat) (f : Launch → Launch) : (modLaunch s l f).chips = s.chips := rfl
@[simp] theorem modLaunch_cores (s : State) (l : Nat) (f : Launch → Launch) : (modLaunch s l f).cores = s.cores := rfl
@[simp] theorem modLaunch_pointer (s : State) (l : Nat) (f : Launch → Launch) : (modLaunch s l f).pointer = s.pointer := rfl
@[simp] theorem modLaunch_windows (s : State) (l : Nat) (f : Launch → Launch) : (modLaunch s l f).windows = s.windows := rfl
@[simp] theorem modLaunch_hostMem (s : State) (l : Nat) (f : Launch → Launch) : (modLaunch s l f).hostMem = s.hostMem := rfl
@[simp] theorem modLaunch_rdy (s : State) (l : Nat) (f : Launch → Launch) : (modLaunch s l f).rdy = s.rdy := rfl
@[simp] theorem modLaunch_fatal (s : State) (l : Nat) (f : Launch → Launch) : (modLaunch s l f).fatal = s.fatal := rfl
@[simp] theorem modLaunch_locked (s : State) (l : Nat) (f : Launch → Launch) : (modLaunch s l f).locked = s.locked := rfl
@[simp] theorem modLaunch_feats (s : State) (l : Nat) (f : Launch → Launch) : (modLaunch s l f).feats = s.feats := rfl
@[simp] theorem modLaunch_queues (s : State) (l : Nat) (f : Launch → Launch) : (modLaunch s l f).queues = s.queues := rfl
@[simp] theorem modLaunch_msix (s : State) (l : Nat) (f : Launch → Launch) : (modLaunch s l f).msix = s.msix := rfl
@[simp] theorem modLaunch_patch (s : State) (l : Nat) (f : Launch → Launch) : (modLaunch s l f).patch = s.patch := rfl
@[simp] theorem modLaunch_xfers (s : State) (l : Nat) (f : Launch → Launch) : (modLaunch s l f).xfers = s.xfers := rfl
@[simp] theorem modLaunch_tenants (s : State) (l : Nat) (f : Launch → Launch) : (modLaunch s l f).tenants = s.tenants := rfl
@[simp] theorem modLaunch_roots (s : State) (l : Nat) (f : Launch → Launch) : (modLaunch s l f).roots = s.roots := rfl
@[simp] theorem modLaunch_images (s : State) (l : Nat) (f : Launch → Launch) : (modLaunch s l f).images = s.images := rfl
@[simp] theorem modLaunch_pools (s : State) (l : Nat) (f : Launch → Launch) : (modLaunch s l f).pools = s.pools := rfl
@[simp] theorem modLaunch_plans (s : State) (l : Nat) (f : Launch → Launch) : (modLaunch s l f).plans = s.plans := rfl
@[simp] theorem modLaunch_handles (s : State) (l : Nat) (f : Launch → Launch) : (modLaunch s l f).handles = s.handles := rfl
@[simp] theorem modLaunch_playbook (s : State) (l : Nat) (f : Launch → Launch) : (modLaunch s l f).playbook = s.playbook := rfl
@[simp] theorem modLaunch_reqs (s : State) (l : Nat) (f : Launch → Launch) : (modLaunch s l f).reqs = s.reqs := rfl
@[simp] theorem modLaunch_admSeq (s : State) (l : Nat) (f : Launch → Launch) : (modLaunch s l f).admSeq = s.admSeq := rfl
@[simp] theorem modLaunch_iterCtr (s : State) (l : Nat) (f : Launch → Launch) : (modLaunch s l f).iterCtr = s.iterCtr := rfl
@[simp] theorem modLaunch_lastPlan (s : State) (l : Nat) (f : Launch → Launch) : (modLaunch s l f).lastPlan = s.lastPlan := rfl
@[simp] theorem modLaunch_launches (s : State) (l : Nat) (f : Launch → Launch) : (modLaunch s l f).launches = tmod s.launches l f := rfl
@[simp] theorem modLaunch_taskq (s : State) (l : Nat) (f : Launch → Launch) : (modLaunch s l f).taskq = s.taskq := rfl
@[simp] theorem modLaunch_graphs (s : State) (l : Nat) (f : Launch → Launch) : (modLaunch s l f).graphs = s.graphs := rfl
@[simp] theorem modLaunch_wgs (s : State) (l : Nat) (f : Launch → Launch) : (modLaunch s l f).wgs = s.wgs := rfl
@[simp] theorem modLaunch_gangs (s : State) (l : Nat) (f : Launch → Launch) : (modLaunch s l f).gangs = s.gangs := rfl
@[simp] theorem modLaunch_groups (s : State) (l : Nat) (f : Launch → Launch) : (modLaunch s l f).groups = s.groups := rfl
@[simp] theorem modLaunch_ops (s : State) (l : Nat) (f : Launch → Launch) : (modLaunch s l f).ops = s.ops := rfl
@[simp] theorem modLaunch_cmds (s : State) (l : Nat) (f : Launch → Launch) : (modLaunch s l f).cmds = s.cmds := rfl
@[simp] theorem modLaunch_hide (s : State) (l : Nat) (f : Launch → Launch) : (modLaunch s l f).hide = s.hide := rfl
@[simp] theorem modLaunch_walks (s : State) (l : Nat) (f : Launch → Launch) : (modLaunch s l f).walks = s.walks := rfl
@[simp] theorem modLaunch_walkq (s : State) (l : Nat) (f : Launch → Launch) : (modLaunch s l f).walkq = s.walkq := rfl
@[simp] theorem modLaunch_walkCache (s : State) (l : Nat) (f : Launch → Launch) : (modLaunch s l f).walkCache = s.walkCache := rfl
@[simp] theorem modLaunch_shoots (s : State) (l : Nat) (f : Launch → Launch) : (modLaunch s l f).shoots = s.shoots := rfl
@[simp] theorem modLaunch_race (s : State) (l : Nat) (f : Launch → Launch) : (modLaunch s l f).race = s.race := rfl
@[simp] theorem modLaunch_fab (s : State) (l : Nat) (f : Launch → Launch) : (modLaunch s l f).fab = s.fab := rfl
@[simp] theorem modLaunch_sec (s : State) (l : Nat) (f : Launch → Launch) : (modLaunch s l f).sec = s.sec := rfl
@[simp] theorem modLaunch_tele (s : State) (l : Nat) (f : Launch → Launch) : (modLaunch s l f).tele = s.tele := rfl

/-! ## modReq -/

@[simp] theorem modReq_turns (s : State) (i : Nat) (f : Request → Request) : (modReq s i f).turns = s.turns := rfl
@[simp] theorem modReq_cur (s : State) (i : Nat) (f : Request → Request) : (modReq s i f).cur = s.cur := rfl
@[simp] theorem modReq_clk (s : State) (i : Nat) (f : Request → Request) : (modReq s i f).clk = s.clk := rfl
@[simp] theorem modReq_freeCtr (s : State) (i : Nat) (f : Request → Request) : (modReq s i f).freeCtr = s.freeCtr := rfl
@[simp] theorem modReq_nextKey (s : State) (i : Nat) (f : Request → Request) : (modReq s i f).nextKey = s.nextKey := rfl
@[simp] theorem modReq_nextInst (s : State) (i : Nat) (f : Request → Request) : (modReq s i f).nextInst = s.nextInst := rfl
@[simp] theorem modReq_mem (s : State) (i : Nat) (f : Request → Request) : (modReq s i f).mem = s.mem := rfl
@[simp] theorem modReq_badLines (s : State) (i : Nat) (f : Request → Request) : (modReq s i f).badLines = s.badLines := rfl
@[simp] theorem modReq_taken (s : State) (i : Nat) (f : Request → Request) : (modReq s i f).taken = s.taken := rfl
@[simp] theorem modReq_hbm (s : State) (i : Nat) (f : Request → Request) : (modReq s i f).hbm = s.hbm := rfl
@[simp] theorem modReq_lpddr (s : State) (i : Nat) (f : Request → Request) : (modReq s i f).lpddr = s.lpddr := rfl
@[simp] theorem modReq_fixed (s : State) (i : Nat) (f : Request → Request) : (modReq s i f).fixed = s.fixed := rfl
@[simp] theorem modReq_chips (s : State) (i : Nat) (f : Request → Request) : (modReq s i f).chips = s.chips := rfl
@[simp] theorem modReq_cores (s : State) (i : Nat) (f : Request → Request) : (modReq s i f).cores = s.cores := rfl
@[simp] theorem modReq_pointer (s : State) (i : Nat) (f : Request → Request) : (modReq s i f).pointer = s.pointer := rfl
@[simp] theorem modReq_windows (s : State) (i : Nat) (f : Request → Request) : (modReq s i f).windows = s.windows := rfl
@[simp] theorem modReq_hostMem (s : State) (i : Nat) (f : Request → Request) : (modReq s i f).hostMem = s.hostMem := rfl
@[simp] theorem modReq_rdy (s : State) (i : Nat) (f : Request → Request) : (modReq s i f).rdy = s.rdy := rfl
@[simp] theorem modReq_fatal (s : State) (i : Nat) (f : Request → Request) : (modReq s i f).fatal = s.fatal := rfl
@[simp] theorem modReq_locked (s : State) (i : Nat) (f : Request → Request) : (modReq s i f).locked = s.locked := rfl
@[simp] theorem modReq_feats (s : State) (i : Nat) (f : Request → Request) : (modReq s i f).feats = s.feats := rfl
@[simp] theorem modReq_queues (s : State) (i : Nat) (f : Request → Request) : (modReq s i f).queues = s.queues := rfl
@[simp] theorem modReq_msix (s : State) (i : Nat) (f : Request → Request) : (modReq s i f).msix = s.msix := rfl
@[simp] theorem modReq_patch (s : State) (i : Nat) (f : Request → Request) : (modReq s i f).patch = s.patch := rfl
@[simp] theorem modReq_xfers (s : State) (i : Nat) (f : Request → Request) : (modReq s i f).xfers = s.xfers := rfl
@[simp] theorem modReq_tenants (s : State) (i : Nat) (f : Request → Request) : (modReq s i f).tenants = s.tenants := rfl
@[simp] theorem modReq_roots (s : State) (i : Nat) (f : Request → Request) : (modReq s i f).roots = s.roots := rfl
@[simp] theorem modReq_images (s : State) (i : Nat) (f : Request → Request) : (modReq s i f).images = s.images := rfl
@[simp] theorem modReq_pools (s : State) (i : Nat) (f : Request → Request) : (modReq s i f).pools = s.pools := rfl
@[simp] theorem modReq_plans (s : State) (i : Nat) (f : Request → Request) : (modReq s i f).plans = s.plans := rfl
@[simp] theorem modReq_handles (s : State) (i : Nat) (f : Request → Request) : (modReq s i f).handles = s.handles := rfl
@[simp] theorem modReq_playbook (s : State) (i : Nat) (f : Request → Request) : (modReq s i f).playbook = s.playbook := rfl
@[simp] theorem modReq_reqs (s : State) (i : Nat) (f : Request → Request) : (modReq s i f).reqs = tmod s.reqs i f := rfl
@[simp] theorem modReq_admSeq (s : State) (i : Nat) (f : Request → Request) : (modReq s i f).admSeq = s.admSeq := rfl
@[simp] theorem modReq_iterCtr (s : State) (i : Nat) (f : Request → Request) : (modReq s i f).iterCtr = s.iterCtr := rfl
@[simp] theorem modReq_lastPlan (s : State) (i : Nat) (f : Request → Request) : (modReq s i f).lastPlan = s.lastPlan := rfl
@[simp] theorem modReq_launches (s : State) (i : Nat) (f : Request → Request) : (modReq s i f).launches = s.launches := rfl
@[simp] theorem modReq_taskq (s : State) (i : Nat) (f : Request → Request) : (modReq s i f).taskq = s.taskq := rfl
@[simp] theorem modReq_graphs (s : State) (i : Nat) (f : Request → Request) : (modReq s i f).graphs = s.graphs := rfl
@[simp] theorem modReq_wgs (s : State) (i : Nat) (f : Request → Request) : (modReq s i f).wgs = s.wgs := rfl
@[simp] theorem modReq_gangs (s : State) (i : Nat) (f : Request → Request) : (modReq s i f).gangs = s.gangs := rfl
@[simp] theorem modReq_groups (s : State) (i : Nat) (f : Request → Request) : (modReq s i f).groups = s.groups := rfl
@[simp] theorem modReq_ops (s : State) (i : Nat) (f : Request → Request) : (modReq s i f).ops = s.ops := rfl
@[simp] theorem modReq_cmds (s : State) (i : Nat) (f : Request → Request) : (modReq s i f).cmds = s.cmds := rfl
@[simp] theorem modReq_hide (s : State) (i : Nat) (f : Request → Request) : (modReq s i f).hide = s.hide := rfl
@[simp] theorem modReq_walks (s : State) (i : Nat) (f : Request → Request) : (modReq s i f).walks = s.walks := rfl
@[simp] theorem modReq_walkq (s : State) (i : Nat) (f : Request → Request) : (modReq s i f).walkq = s.walkq := rfl
@[simp] theorem modReq_walkCache (s : State) (i : Nat) (f : Request → Request) : (modReq s i f).walkCache = s.walkCache := rfl
@[simp] theorem modReq_shoots (s : State) (i : Nat) (f : Request → Request) : (modReq s i f).shoots = s.shoots := rfl
@[simp] theorem modReq_race (s : State) (i : Nat) (f : Request → Request) : (modReq s i f).race = s.race := rfl
@[simp] theorem modReq_fab (s : State) (i : Nat) (f : Request → Request) : (modReq s i f).fab = s.fab := rfl
@[simp] theorem modReq_sec (s : State) (i : Nat) (f : Request → Request) : (modReq s i f).sec = s.sec := rfl
@[simp] theorem modReq_tele (s : State) (i : Nat) (f : Request → Request) : (modReq s i f).tele = s.tele := rfl

/-! ## modPool -/

@[simp] theorem modPool_turns (s : State) (i : Nat) (h : Pool → Pool) : (modPool s i h).turns = s.turns := rfl
@[simp] theorem modPool_cur (s : State) (i : Nat) (h : Pool → Pool) : (modPool s i h).cur = s.cur := rfl
@[simp] theorem modPool_clk (s : State) (i : Nat) (h : Pool → Pool) : (modPool s i h).clk = s.clk := rfl
@[simp] theorem modPool_freeCtr (s : State) (i : Nat) (h : Pool → Pool) : (modPool s i h).freeCtr = s.freeCtr := rfl
@[simp] theorem modPool_nextKey (s : State) (i : Nat) (h : Pool → Pool) : (modPool s i h).nextKey = s.nextKey := rfl
@[simp] theorem modPool_nextInst (s : State) (i : Nat) (h : Pool → Pool) : (modPool s i h).nextInst = s.nextInst := rfl
@[simp] theorem modPool_mem (s : State) (i : Nat) (h : Pool → Pool) : (modPool s i h).mem = s.mem := rfl
@[simp] theorem modPool_badLines (s : State) (i : Nat) (h : Pool → Pool) : (modPool s i h).badLines = s.badLines := rfl
@[simp] theorem modPool_taken (s : State) (i : Nat) (h : Pool → Pool) : (modPool s i h).taken = s.taken := rfl
@[simp] theorem modPool_hbm (s : State) (i : Nat) (h : Pool → Pool) : (modPool s i h).hbm = s.hbm := rfl
@[simp] theorem modPool_lpddr (s : State) (i : Nat) (h : Pool → Pool) : (modPool s i h).lpddr = s.lpddr := rfl
@[simp] theorem modPool_fixed (s : State) (i : Nat) (h : Pool → Pool) : (modPool s i h).fixed = s.fixed := rfl
@[simp] theorem modPool_chips (s : State) (i : Nat) (h : Pool → Pool) : (modPool s i h).chips = s.chips := rfl
@[simp] theorem modPool_cores (s : State) (i : Nat) (h : Pool → Pool) : (modPool s i h).cores = s.cores := rfl
@[simp] theorem modPool_pointer (s : State) (i : Nat) (h : Pool → Pool) : (modPool s i h).pointer = s.pointer := rfl
@[simp] theorem modPool_windows (s : State) (i : Nat) (h : Pool → Pool) : (modPool s i h).windows = s.windows := rfl
@[simp] theorem modPool_hostMem (s : State) (i : Nat) (h : Pool → Pool) : (modPool s i h).hostMem = s.hostMem := rfl
@[simp] theorem modPool_rdy (s : State) (i : Nat) (h : Pool → Pool) : (modPool s i h).rdy = s.rdy := rfl
@[simp] theorem modPool_fatal (s : State) (i : Nat) (h : Pool → Pool) : (modPool s i h).fatal = s.fatal := rfl
@[simp] theorem modPool_locked (s : State) (i : Nat) (h : Pool → Pool) : (modPool s i h).locked = s.locked := rfl
@[simp] theorem modPool_feats (s : State) (i : Nat) (h : Pool → Pool) : (modPool s i h).feats = s.feats := rfl
@[simp] theorem modPool_queues (s : State) (i : Nat) (h : Pool → Pool) : (modPool s i h).queues = s.queues := rfl
@[simp] theorem modPool_msix (s : State) (i : Nat) (h : Pool → Pool) : (modPool s i h).msix = s.msix := rfl
@[simp] theorem modPool_patch (s : State) (i : Nat) (h : Pool → Pool) : (modPool s i h).patch = s.patch := rfl
@[simp] theorem modPool_xfers (s : State) (i : Nat) (h : Pool → Pool) : (modPool s i h).xfers = s.xfers := rfl
@[simp] theorem modPool_tenants (s : State) (i : Nat) (h : Pool → Pool) : (modPool s i h).tenants = s.tenants := rfl
@[simp] theorem modPool_roots (s : State) (i : Nat) (h : Pool → Pool) : (modPool s i h).roots = s.roots := rfl
@[simp] theorem modPool_images (s : State) (i : Nat) (h : Pool → Pool) : (modPool s i h).images = s.images := rfl
@[simp] theorem modPool_pools (s : State) (i : Nat) (h : Pool → Pool) : (modPool s i h).pools = tmod s.pools i h := rfl
@[simp] theorem modPool_plans (s : State) (i : Nat) (h : Pool → Pool) : (modPool s i h).plans = s.plans := rfl
@[simp] theorem modPool_handles (s : State) (i : Nat) (h : Pool → Pool) : (modPool s i h).handles = s.handles := rfl
@[simp] theorem modPool_playbook (s : State) (i : Nat) (h : Pool → Pool) : (modPool s i h).playbook = s.playbook := rfl
@[simp] theorem modPool_reqs (s : State) (i : Nat) (h : Pool → Pool) : (modPool s i h).reqs = s.reqs := rfl
@[simp] theorem modPool_admSeq (s : State) (i : Nat) (h : Pool → Pool) : (modPool s i h).admSeq = s.admSeq := rfl
@[simp] theorem modPool_iterCtr (s : State) (i : Nat) (h : Pool → Pool) : (modPool s i h).iterCtr = s.iterCtr := rfl
@[simp] theorem modPool_lastPlan (s : State) (i : Nat) (h : Pool → Pool) : (modPool s i h).lastPlan = s.lastPlan := rfl
@[simp] theorem modPool_launches (s : State) (i : Nat) (h : Pool → Pool) : (modPool s i h).launches = s.launches := rfl
@[simp] theorem modPool_taskq (s : State) (i : Nat) (h : Pool → Pool) : (modPool s i h).taskq = s.taskq := rfl
@[simp] theorem modPool_graphs (s : State) (i : Nat) (h : Pool → Pool) : (modPool s i h).graphs = s.graphs := rfl
@[simp] theorem modPool_wgs (s : State) (i : Nat) (h : Pool → Pool) : (modPool s i h).wgs = s.wgs := rfl
@[simp] theorem modPool_gangs (s : State) (i : Nat) (h : Pool → Pool) : (modPool s i h).gangs = s.gangs := rfl
@[simp] theorem modPool_groups (s : State) (i : Nat) (h : Pool → Pool) : (modPool s i h).groups = s.groups := rfl
@[simp] theorem modPool_ops (s : State) (i : Nat) (h : Pool → Pool) : (modPool s i h).ops = s.ops := rfl
@[simp] theorem modPool_cmds (s : State) (i : Nat) (h : Pool → Pool) : (modPool s i h).cmds = s.cmds := rfl
@[simp] theorem modPool_hide (s : State) (i : Nat) (h : Pool → Pool) : (modPool s i h).hide = s.hide := rfl
@[simp] theorem modPool_walks (s : State) (i : Nat) (h : Pool → Pool) : (modPool s i h).walks = s.walks := rfl
@[simp] theorem modPool_walkq (s : State) (i : Nat) (h : Pool → Pool) : (modPool s i h).walkq = s.walkq := rfl
@[simp] theorem modPool_walkCache (s : State) (i : Nat) (h : Pool → Pool) : (modPool s i h).walkCache = s.walkCache := rfl
@[simp] theorem modPool_shoots (s : State) (i : Nat) (h : Pool → Pool) : (modPool s i h).shoots = s.shoots := rfl
@[simp] theorem modPool_race (s : State) (i : Nat) (h : Pool → Pool) : (modPool s i h).race = s.race := rfl
@[simp] theorem modPool_fab (s : State) (i : Nat) (h : Pool → Pool) : (modPool s i h).fab = s.fab := rfl
@[simp] theorem modPool_sec (s : State) (i : Nat) (h : Pool → Pool) : (modPool s i h).sec = s.sec := rfl
@[simp] theorem modPool_tele (s : State) (i : Nat) (h : Pool → Pool) : (modPool s i h).tele = s.tele := rfl

/-! ## modTenant -/

@[simp] theorem modTenant_turns (s : State) (i : Nat) (f : Tenant → Tenant) : (modTenant s i f).turns = s.turns := rfl
@[simp] theorem modTenant_cur (s : State) (i : Nat) (f : Tenant → Tenant) : (modTenant s i f).cur = s.cur := rfl
@[simp] theorem modTenant_clk (s : State) (i : Nat) (f : Tenant → Tenant) : (modTenant s i f).clk = s.clk := rfl
@[simp] theorem modTenant_freeCtr (s : State) (i : Nat) (f : Tenant → Tenant) : (modTenant s i f).freeCtr = s.freeCtr := rfl
@[simp] theorem modTenant_nextKey (s : State) (i : Nat) (f : Tenant → Tenant) : (modTenant s i f).nextKey = s.nextKey := rfl
@[simp] theorem modTenant_nextInst (s : State) (i : Nat) (f : Tenant → Tenant) : (modTenant s i f).nextInst = s.nextInst := rfl
@[simp] theorem modTenant_mem (s : State) (i : Nat) (f : Tenant → Tenant) : (modTenant s i f).mem = s.mem := rfl
@[simp] theorem modTenant_badLines (s : State) (i : Nat) (f : Tenant → Tenant) : (modTenant s i f).badLines = s.badLines := rfl
@[simp] theorem modTenant_taken (s : State) (i : Nat) (f : Tenant → Tenant) : (modTenant s i f).taken = s.taken := rfl
@[simp] theorem modTenant_hbm (s : State) (i : Nat) (f : Tenant → Tenant) : (modTenant s i f).hbm = s.hbm := rfl
@[simp] theorem modTenant_lpddr (s : State) (i : Nat) (f : Tenant → Tenant) : (modTenant s i f).lpddr = s.lpddr := rfl
@[simp] theorem modTenant_fixed (s : State) (i : Nat) (f : Tenant → Tenant) : (modTenant s i f).fixed = s.fixed := rfl
@[simp] theorem modTenant_chips (s : State) (i : Nat) (f : Tenant → Tenant) : (modTenant s i f).chips = s.chips := rfl
@[simp] theorem modTenant_cores (s : State) (i : Nat) (f : Tenant → Tenant) : (modTenant s i f).cores = s.cores := rfl
@[simp] theorem modTenant_pointer (s : State) (i : Nat) (f : Tenant → Tenant) : (modTenant s i f).pointer = s.pointer := rfl
@[simp] theorem modTenant_windows (s : State) (i : Nat) (f : Tenant → Tenant) : (modTenant s i f).windows = s.windows := rfl
@[simp] theorem modTenant_hostMem (s : State) (i : Nat) (f : Tenant → Tenant) : (modTenant s i f).hostMem = s.hostMem := rfl
@[simp] theorem modTenant_rdy (s : State) (i : Nat) (f : Tenant → Tenant) : (modTenant s i f).rdy = s.rdy := rfl
@[simp] theorem modTenant_fatal (s : State) (i : Nat) (f : Tenant → Tenant) : (modTenant s i f).fatal = s.fatal := rfl
@[simp] theorem modTenant_locked (s : State) (i : Nat) (f : Tenant → Tenant) : (modTenant s i f).locked = s.locked := rfl
@[simp] theorem modTenant_feats (s : State) (i : Nat) (f : Tenant → Tenant) : (modTenant s i f).feats = s.feats := rfl
@[simp] theorem modTenant_queues (s : State) (i : Nat) (f : Tenant → Tenant) : (modTenant s i f).queues = s.queues := rfl
@[simp] theorem modTenant_msix (s : State) (i : Nat) (f : Tenant → Tenant) : (modTenant s i f).msix = s.msix := rfl
@[simp] theorem modTenant_patch (s : State) (i : Nat) (f : Tenant → Tenant) : (modTenant s i f).patch = s.patch := rfl
@[simp] theorem modTenant_xfers (s : State) (i : Nat) (f : Tenant → Tenant) : (modTenant s i f).xfers = s.xfers := rfl
@[simp] theorem modTenant_tenants (s : State) (i : Nat) (f : Tenant → Tenant) : (modTenant s i f).tenants = tmod s.tenants i f := rfl
@[simp] theorem modTenant_roots (s : State) (i : Nat) (f : Tenant → Tenant) : (modTenant s i f).roots = s.roots := rfl
@[simp] theorem modTenant_images (s : State) (i : Nat) (f : Tenant → Tenant) : (modTenant s i f).images = s.images := rfl
@[simp] theorem modTenant_pools (s : State) (i : Nat) (f : Tenant → Tenant) : (modTenant s i f).pools = s.pools := rfl
@[simp] theorem modTenant_plans (s : State) (i : Nat) (f : Tenant → Tenant) : (modTenant s i f).plans = s.plans := rfl
@[simp] theorem modTenant_handles (s : State) (i : Nat) (f : Tenant → Tenant) : (modTenant s i f).handles = s.handles := rfl
@[simp] theorem modTenant_playbook (s : State) (i : Nat) (f : Tenant → Tenant) : (modTenant s i f).playbook = s.playbook := rfl
@[simp] theorem modTenant_reqs (s : State) (i : Nat) (f : Tenant → Tenant) : (modTenant s i f).reqs = s.reqs := rfl
@[simp] theorem modTenant_admSeq (s : State) (i : Nat) (f : Tenant → Tenant) : (modTenant s i f).admSeq = s.admSeq := rfl
@[simp] theorem modTenant_iterCtr (s : State) (i : Nat) (f : Tenant → Tenant) : (modTenant s i f).iterCtr = s.iterCtr := rfl
@[simp] theorem modTenant_lastPlan (s : State) (i : Nat) (f : Tenant → Tenant) : (modTenant s i f).lastPlan = s.lastPlan := rfl
@[simp] theorem modTenant_launches (s : State) (i : Nat) (f : Tenant → Tenant) : (modTenant s i f).launches = s.launches := rfl
@[simp] theorem modTenant_taskq (s : State) (i : Nat) (f : Tenant → Tenant) : (modTenant s i f).taskq = s.taskq := rfl
@[simp] theorem modTenant_graphs (s : State) (i : Nat) (f : Tenant → Tenant) : (modTenant s i f).graphs = s.graphs := rfl
@[simp] theorem modTenant_wgs (s : State) (i : Nat) (f : Tenant → Tenant) : (modTenant s i f).wgs = s.wgs := rfl
@[simp] theorem modTenant_gangs (s : State) (i : Nat) (f : Tenant → Tenant) : (modTenant s i f).gangs = s.gangs := rfl
@[simp] theorem modTenant_groups (s : State) (i : Nat) (f : Tenant → Tenant) : (modTenant s i f).groups = s.groups := rfl
@[simp] theorem modTenant_ops (s : State) (i : Nat) (f : Tenant → Tenant) : (modTenant s i f).ops = s.ops := rfl
@[simp] theorem modTenant_cmds (s : State) (i : Nat) (f : Tenant → Tenant) : (modTenant s i f).cmds = s.cmds := rfl
@[simp] theorem modTenant_hide (s : State) (i : Nat) (f : Tenant → Tenant) : (modTenant s i f).hide = s.hide := rfl
@[simp] theorem modTenant_walks (s : State) (i : Nat) (f : Tenant → Tenant) : (modTenant s i f).walks = s.walks := rfl
@[simp] theorem modTenant_walkq (s : State) (i : Nat) (f : Tenant → Tenant) : (modTenant s i f).walkq = s.walkq := rfl
@[simp] theorem modTenant_walkCache (s : State) (i : Nat) (f : Tenant → Tenant) : (modTenant s i f).walkCache = s.walkCache := rfl
@[simp] theorem modTenant_shoots (s : State) (i : Nat) (f : Tenant → Tenant) : (modTenant s i f).shoots = s.shoots := rfl
@[simp] theorem modTenant_race (s : State) (i : Nat) (f : Tenant → Tenant) : (modTenant s i f).race = s.race := rfl
@[simp] theorem modTenant_fab (s : State) (i : Nat) (f : Tenant → Tenant) : (modTenant s i f).fab = s.fab := rfl
@[simp] theorem modTenant_sec (s : State) (i : Nat) (f : Tenant → Tenant) : (modTenant s i f).sec = s.sec := rfl
@[simp] theorem modTenant_tele (s : State) (i : Nat) (f : Tenant → Tenant) : (modTenant s i f).tele = s.tele := rfl

/-! ## putOp -/

@[simp] theorem putOp_turns (s : State) (k : Nat) (o : MemOp) : (putOp s k o).turns = s.turns := rfl
@[simp] theorem putOp_cur (s : State) (k : Nat) (o : MemOp) : (putOp s k o).cur = s.cur := rfl
@[simp] theorem putOp_clk (s : State) (k : Nat) (o : MemOp) : (putOp s k o).clk = s.clk := rfl
@[simp] theorem putOp_freeCtr (s : State) (k : Nat) (o : MemOp) : (putOp s k o).freeCtr = s.freeCtr := rfl
@[simp] theorem putOp_nextKey (s : State) (k : Nat) (o : MemOp) : (putOp s k o).nextKey = s.nextKey := rfl
@[simp] theorem putOp_nextInst (s : State) (k : Nat) (o : MemOp) : (putOp s k o).nextInst = s.nextInst := rfl
@[simp] theorem putOp_mem (s : State) (k : Nat) (o : MemOp) : (putOp s k o).mem = s.mem := rfl
@[simp] theorem putOp_badLines (s : State) (k : Nat) (o : MemOp) : (putOp s k o).badLines = s.badLines := rfl
@[simp] theorem putOp_taken (s : State) (k : Nat) (o : MemOp) : (putOp s k o).taken = s.taken := rfl
@[simp] theorem putOp_hbm (s : State) (k : Nat) (o : MemOp) : (putOp s k o).hbm = s.hbm := rfl
@[simp] theorem putOp_lpddr (s : State) (k : Nat) (o : MemOp) : (putOp s k o).lpddr = s.lpddr := rfl
@[simp] theorem putOp_fixed (s : State) (k : Nat) (o : MemOp) : (putOp s k o).fixed = s.fixed := rfl
@[simp] theorem putOp_chips (s : State) (k : Nat) (o : MemOp) : (putOp s k o).chips = s.chips := rfl
@[simp] theorem putOp_cores (s : State) (k : Nat) (o : MemOp) : (putOp s k o).cores = s.cores := rfl
@[simp] theorem putOp_pointer (s : State) (k : Nat) (o : MemOp) : (putOp s k o).pointer = s.pointer := rfl
@[simp] theorem putOp_windows (s : State) (k : Nat) (o : MemOp) : (putOp s k o).windows = s.windows := rfl
@[simp] theorem putOp_hostMem (s : State) (k : Nat) (o : MemOp) : (putOp s k o).hostMem = s.hostMem := rfl
@[simp] theorem putOp_rdy (s : State) (k : Nat) (o : MemOp) : (putOp s k o).rdy = s.rdy := rfl
@[simp] theorem putOp_fatal (s : State) (k : Nat) (o : MemOp) : (putOp s k o).fatal = s.fatal := rfl
@[simp] theorem putOp_locked (s : State) (k : Nat) (o : MemOp) : (putOp s k o).locked = s.locked := rfl
@[simp] theorem putOp_feats (s : State) (k : Nat) (o : MemOp) : (putOp s k o).feats = s.feats := rfl
@[simp] theorem putOp_queues (s : State) (k : Nat) (o : MemOp) : (putOp s k o).queues = s.queues := rfl
@[simp] theorem putOp_msix (s : State) (k : Nat) (o : MemOp) : (putOp s k o).msix = s.msix := rfl
@[simp] theorem putOp_patch (s : State) (k : Nat) (o : MemOp) : (putOp s k o).patch = s.patch := rfl
@[simp] theorem putOp_xfers (s : State) (k : Nat) (o : MemOp) : (putOp s k o).xfers = s.xfers := rfl
@[simp] theorem putOp_tenants (s : State) (k : Nat) (o : MemOp) : (putOp s k o).tenants = s.tenants := rfl
@[simp] theorem putOp_roots (s : State) (k : Nat) (o : MemOp) : (putOp s k o).roots = s.roots := rfl
@[simp] theorem putOp_images (s : State) (k : Nat) (o : MemOp) : (putOp s k o).images = s.images := rfl
@[simp] theorem putOp_pools (s : State) (k : Nat) (o : MemOp) : (putOp s k o).pools = s.pools := rfl
@[simp] theorem putOp_plans (s : State) (k : Nat) (o : MemOp) : (putOp s k o).plans = s.plans := rfl
@[simp] theorem putOp_handles (s : State) (k : Nat) (o : MemOp) : (putOp s k o).handles = s.handles := rfl
@[simp] theorem putOp_playbook (s : State) (k : Nat) (o : MemOp) : (putOp s k o).playbook = s.playbook := rfl
@[simp] theorem putOp_reqs (s : State) (k : Nat) (o : MemOp) : (putOp s k o).reqs = s.reqs := rfl
@[simp] theorem putOp_admSeq (s : State) (k : Nat) (o : MemOp) : (putOp s k o).admSeq = s.admSeq := rfl
@[simp] theorem putOp_iterCtr (s : State) (k : Nat) (o : MemOp) : (putOp s k o).iterCtr = s.iterCtr := rfl
@[simp] theorem putOp_lastPlan (s : State) (k : Nat) (o : MemOp) : (putOp s k o).lastPlan = s.lastPlan := rfl
@[simp] theorem putOp_launches (s : State) (k : Nat) (o : MemOp) : (putOp s k o).launches = s.launches := rfl
@[simp] theorem putOp_taskq (s : State) (k : Nat) (o : MemOp) : (putOp s k o).taskq = s.taskq := rfl
@[simp] theorem putOp_graphs (s : State) (k : Nat) (o : MemOp) : (putOp s k o).graphs = s.graphs := rfl
@[simp] theorem putOp_wgs (s : State) (k : Nat) (o : MemOp) : (putOp s k o).wgs = s.wgs := rfl
@[simp] theorem putOp_gangs (s : State) (k : Nat) (o : MemOp) : (putOp s k o).gangs = s.gangs := rfl
@[simp] theorem putOp_groups (s : State) (k : Nat) (o : MemOp) : (putOp s k o).groups = s.groups := rfl
@[simp] theorem putOp_ops (s : State) (k : Nat) (o : MemOp) : (putOp s k o).ops = tset s.ops k o := rfl
@[simp] theorem putOp_cmds (s : State) (k : Nat) (o : MemOp) : (putOp s k o).cmds = s.cmds := rfl
@[simp] theorem putOp_hide (s : State) (k : Nat) (o : MemOp) : (putOp s k o).hide = s.hide := rfl
@[simp] theorem putOp_walks (s : State) (k : Nat) (o : MemOp) : (putOp s k o).walks = s.walks := rfl
@[simp] theorem putOp_walkq (s : State) (k : Nat) (o : MemOp) : (putOp s k o).walkq = s.walkq := rfl
@[simp] theorem putOp_walkCache (s : State) (k : Nat) (o : MemOp) : (putOp s k o).walkCache = s.walkCache := rfl
@[simp] theorem putOp_shoots (s : State) (k : Nat) (o : MemOp) : (putOp s k o).shoots = s.shoots := rfl
@[simp] theorem putOp_race (s : State) (k : Nat) (o : MemOp) : (putOp s k o).race = s.race := rfl
@[simp] theorem putOp_fab (s : State) (k : Nat) (o : MemOp) : (putOp s k o).fab = s.fab := rfl
@[simp] theorem putOp_sec (s : State) (k : Nat) (o : MemOp) : (putOp s k o).sec = s.sec := rfl
@[simp] theorem putOp_tele (s : State) (k : Nat) (o : MemOp) : (putOp s k o).tele = s.tele := rfl

/-! ## hostStore -/

@[simp] theorem hostStore_turns (s : State) (a : Nat) (bs : List Byte) : (hostStore s a bs).turns = s.turns := rfl
@[simp] theorem hostStore_cur (s : State) (a : Nat) (bs : List Byte) : (hostStore s a bs).cur = s.cur := rfl
@[simp] theorem hostStore_clk (s : State) (a : Nat) (bs : List Byte) : (hostStore s a bs).clk = s.clk := rfl
@[simp] theorem hostStore_freeCtr (s : State) (a : Nat) (bs : List Byte) : (hostStore s a bs).freeCtr = s.freeCtr := rfl
@[simp] theorem hostStore_nextKey (s : State) (a : Nat) (bs : List Byte) : (hostStore s a bs).nextKey = s.nextKey := rfl
@[simp] theorem hostStore_nextInst (s : State) (a : Nat) (bs : List Byte) : (hostStore s a bs).nextInst = s.nextInst := rfl
@[simp] theorem hostStore_mem (s : State) (a : Nat) (bs : List Byte) : (hostStore s a bs).mem = s.mem := rfl
@[simp] theorem hostStore_badLines (s : State) (a : Nat) (bs : List Byte) : (hostStore s a bs).badLines = s.badLines := rfl
@[simp] theorem hostStore_taken (s : State) (a : Nat) (bs : List Byte) : (hostStore s a bs).taken = s.taken := rfl
@[simp] theorem hostStore_hbm (s : State) (a : Nat) (bs : List Byte) : (hostStore s a bs).hbm = s.hbm := rfl
@[simp] theorem hostStore_lpddr (s : State) (a : Nat) (bs : List Byte) : (hostStore s a bs).lpddr = s.lpddr := rfl
@[simp] theorem hostStore_fixed (s : State) (a : Nat) (bs : List Byte) : (hostStore s a bs).fixed = s.fixed := rfl
@[simp] theorem hostStore_chips (s : State) (a : Nat) (bs : List Byte) : (hostStore s a bs).chips = s.chips := rfl
@[simp] theorem hostStore_cores (s : State) (a : Nat) (bs : List Byte) : (hostStore s a bs).cores = s.cores := rfl
@[simp] theorem hostStore_pointer (s : State) (a : Nat) (bs : List Byte) : (hostStore s a bs).pointer = s.pointer := rfl
@[simp] theorem hostStore_windows (s : State) (a : Nat) (bs : List Byte) : (hostStore s a bs).windows = s.windows := rfl
@[simp] theorem hostStore_hostMem (s : State) (a : Nat) (bs : List Byte) : (hostStore s a bs).hostMem = mwrite s.hostMem a bs := rfl
@[simp] theorem hostStore_rdy (s : State) (a : Nat) (bs : List Byte) : (hostStore s a bs).rdy = s.rdy := rfl
@[simp] theorem hostStore_fatal (s : State) (a : Nat) (bs : List Byte) : (hostStore s a bs).fatal = s.fatal := rfl
@[simp] theorem hostStore_locked (s : State) (a : Nat) (bs : List Byte) : (hostStore s a bs).locked = s.locked := rfl
@[simp] theorem hostStore_feats (s : State) (a : Nat) (bs : List Byte) : (hostStore s a bs).feats = s.feats := rfl
@[simp] theorem hostStore_queues (s : State) (a : Nat) (bs : List Byte) : (hostStore s a bs).queues = s.queues := rfl
@[simp] theorem hostStore_msix (s : State) (a : Nat) (bs : List Byte) : (hostStore s a bs).msix = s.msix := rfl
@[simp] theorem hostStore_patch (s : State) (a : Nat) (bs : List Byte) : (hostStore s a bs).patch = s.patch := rfl
@[simp] theorem hostStore_xfers (s : State) (a : Nat) (bs : List Byte) : (hostStore s a bs).xfers = s.xfers := rfl
@[simp] theorem hostStore_tenants (s : State) (a : Nat) (bs : List Byte) : (hostStore s a bs).tenants = s.tenants := rfl
@[simp] theorem hostStore_roots (s : State) (a : Nat) (bs : List Byte) : (hostStore s a bs).roots = s.roots := rfl
@[simp] theorem hostStore_images (s : State) (a : Nat) (bs : List Byte) : (hostStore s a bs).images = s.images := rfl
@[simp] theorem hostStore_pools (s : State) (a : Nat) (bs : List Byte) : (hostStore s a bs).pools = s.pools := rfl
@[simp] theorem hostStore_plans (s : State) (a : Nat) (bs : List Byte) : (hostStore s a bs).plans = s.plans := rfl
@[simp] theorem hostStore_handles (s : State) (a : Nat) (bs : List Byte) : (hostStore s a bs).handles = s.handles := rfl
@[simp] theorem hostStore_playbook (s : State) (a : Nat) (bs : List Byte) : (hostStore s a bs).playbook = s.playbook := rfl
@[simp] theorem hostStore_reqs (s : State) (a : Nat) (bs : List Byte) : (hostStore s a bs).reqs = s.reqs := rfl
@[simp] theorem hostStore_admSeq (s : State) (a : Nat) (bs : List Byte) : (hostStore s a bs).admSeq = s.admSeq := rfl
@[simp] theorem hostStore_iterCtr (s : State) (a : Nat) (bs : List Byte) : (hostStore s a bs).iterCtr = s.iterCtr := rfl
@[simp] theorem hostStore_lastPlan (s : State) (a : Nat) (bs : List Byte) : (hostStore s a bs).lastPlan = s.lastPlan := rfl
@[simp] theorem hostStore_launches (s : State) (a : Nat) (bs : List Byte) : (hostStore s a bs).launches = s.launches := rfl
@[simp] theorem hostStore_taskq (s : State) (a : Nat) (bs : List Byte) : (hostStore s a bs).taskq = s.taskq := rfl
@[simp] theorem hostStore_graphs (s : State) (a : Nat) (bs : List Byte) : (hostStore s a bs).graphs = s.graphs := rfl
@[simp] theorem hostStore_wgs (s : State) (a : Nat) (bs : List Byte) : (hostStore s a bs).wgs = s.wgs := rfl
@[simp] theorem hostStore_gangs (s : State) (a : Nat) (bs : List Byte) : (hostStore s a bs).gangs = s.gangs := rfl
@[simp] theorem hostStore_groups (s : State) (a : Nat) (bs : List Byte) : (hostStore s a bs).groups = s.groups := rfl
@[simp] theorem hostStore_ops (s : State) (a : Nat) (bs : List Byte) : (hostStore s a bs).ops = s.ops := rfl
@[simp] theorem hostStore_cmds (s : State) (a : Nat) (bs : List Byte) : (hostStore s a bs).cmds = s.cmds := rfl
@[simp] theorem hostStore_hide (s : State) (a : Nat) (bs : List Byte) : (hostStore s a bs).hide = s.hide := rfl
@[simp] theorem hostStore_walks (s : State) (a : Nat) (bs : List Byte) : (hostStore s a bs).walks = s.walks := rfl
@[simp] theorem hostStore_walkq (s : State) (a : Nat) (bs : List Byte) : (hostStore s a bs).walkq = s.walkq := rfl
@[simp] theorem hostStore_walkCache (s : State) (a : Nat) (bs : List Byte) : (hostStore s a bs).walkCache = s.walkCache := rfl
@[simp] theorem hostStore_shoots (s : State) (a : Nat) (bs : List Byte) : (hostStore s a bs).shoots = s.shoots := rfl
@[simp] theorem hostStore_race (s : State) (a : Nat) (bs : List Byte) : (hostStore s a bs).race = s.race := rfl
@[simp] theorem hostStore_fab (s : State) (a : Nat) (bs : List Byte) : (hostStore s a bs).fab = s.fab := rfl
@[simp] theorem hostStore_sec (s : State) (a : Nat) (bs : List Byte) : (hostStore s a bs).sec = s.sec := rfl
@[simp] theorem hostStore_tele (s : State) (a : Nat) (bs : List Byte) : (hostStore s a bs).tele = s.tele := rfl

end Sys2Proof.Machine
end

