-- ==== Sys2Proof/Laws/Table.lean ====
section
/-! SUPPORT. Tables and memories: reads after writes, and the canonical form that every operation keeps (logs 4 and 12). -/

namespace Sys2Proof.Machine

/-! ## Reads after writes -/

@[simp] theorem tget_tset_same {α : Type} (t : Table α) (k : Nat) (v : α) : tget (tset t k v) k = some v := by
  induction t with
  | nil => simp [tset, tget]
  | cons e t ih =>
    obtain ⟨j, w⟩ := e
    simp only [tset]
    split
    · simp [tget]
    · split
      · simp [tget]
      · next h => simp [tget, Ne.symm h, ih]

theorem tget_tset_ne {α : Type} (t : Table α) {k j : Nat} (v : α) (h : j ≠ k) : tget (tset t k v) j = tget t j := by
  induction t with
  | nil => simp [tset, tget, Ne.symm h]
  | cons e t ih =>
    obtain ⟨i, w⟩ := e
    simp only [tset]
    split
    · simp [tget, Ne.symm h]
    · split
      · next hk => subst hk; simp [tget, Ne.symm h]
      · simp only [tget, ih]

theorem tget_tset {α : Type} (t : Table α) (k j : Nat) (v : α) :
    tget (tset t k v) j = if j = k then some v else tget t j := by
  split
  · next h => subst h; exact tget_tset_same ..
  · next h => exact tget_tset_ne _ _ h

@[simp] theorem tget_tdel_same {α : Type} (t : Table α) (k : Nat) : tget (tdel t k) k = none := by
  induction t with
  | nil => rfl
  | cons e t ih =>
    obtain ⟨j, w⟩ := e
    by_cases h : j = k
    · subst h; simpa [tdel] using ih
    · simp only [tdel, List.filter_cons, bne_iff_ne, ne_eq, h, not_false_eq_true, if_true, tget, if_false]; exact ih

theorem tget_tdel_ne {α : Type} (t : Table α) {k j : Nat} (h : j ≠ k) : tget (tdel t k) j = tget t j := by
  induction t with
  | nil => rfl
  | cons e t ih =>
    obtain ⟨i, w⟩ := e
    by_cases hi : i = k
    · subst hi; simpa [tdel, tget, Ne.symm h] using ih
    · simp only [tdel, List.filter_cons, bne_iff_ne, ne_eq, hi, not_false_eq_true, if_true, tget]
      split
      · rfl
      · exact ih

@[simp] theorem mget_mset_same (m : Memory) (a : Nat) (b : Byte) : mget (mset m a b) a = b := by
  simp only [mget, mset]; split
  · next h => simp [h]
  · simp

theorem mget_mset_ne (m : Memory) {a x : Nat} (b : Byte) (h : x ≠ a) : mget (mset m a b) x = mget m x := by
  simp only [mget, mset]; split
  · rw [tget_tdel_ne _ h]
  · rw [tget_tset_ne _ _ h]

/-- A write of bytes leaves every other address alone. -/
theorem mget_mwrite_out (m : Memory) (a : Nat) (bs : List Byte) (x : Nat) (h : x < a ∨ a + bs.length ≤ x) :
    mget (mwrite m a bs) x = mget m x := by
  induction bs generalizing m a with
  | nil => rfl
  | cons b t ih =>
    simp only [List.length_cons] at h
    simp only [mwrite]
    rw [ih _ _ (by omega), mget_mset_ne _ _ (by omega)]

/-- A write of bytes is read back. -/
theorem mget_mwrite_in (m : Memory) (a : Nat) (bs : List Byte) (i : Nat) (h : i < bs.length) :
    mget (mwrite m a bs) (a + i) = bs.getD i 0 := by
  induction bs generalizing m a i with
  | nil => simp at h
  | cons b t ih =>
    simp only [mwrite]
    cases i with
    | zero => rw [mget_mwrite_out _ _ _ _ (by omega)]; simp
    | succ i =>
      have := ih (mset m a b) (a + 1) i (by simpa using h)
      rw [show a + (i + 1) = a + 1 + i by omega, this]; simp

/-! ## The canonical form -/

theorem risesFrom_mono {α : Type} {lo lo' : Nat} {t : Table α} (h : risesFrom lo t = true) (hl : lo' ≤ lo) :
    risesFrom lo' t = true := by
  cases t with
  | nil => rfl
  | cons e t =>
    obtain ⟨k, v⟩ := e
    simp only [risesFrom, Bool.and_eq_true, decide_eq_true_eq] at h ⊢
    exact ⟨by omega, h.2⟩

theorem risesFrom_tset {α : Type} {lo : Nat} {t : Table α} (h : risesFrom lo t = true) (k : Nat) (v : α) (hk : lo ≤ k) :
    risesFrom lo (tset t k v) = true := by
  induction t generalizing lo with
  | nil => simp [tset, risesFrom, hk]
  | cons e t ih =>
    obtain ⟨j, w⟩ := e
    simp only [risesFrom, Bool.and_eq_true, decide_eq_true_eq] at h
    simp only [tset]
    split
    · simp only [risesFrom, Bool.and_eq_true, decide_eq_true_eq]; exact ⟨hk, by omega, h.2⟩
    · split
      · next hj => subst hj; simp only [risesFrom, Bool.and_eq_true, decide_eq_true_eq]; exact ⟨hk, h.2⟩
      · simp only [risesFrom, Bool.and_eq_true, decide_eq_true_eq]; exact ⟨h.1, ih h.2 (by omega)⟩

theorem risesFrom_filter {α : Type} {lo : Nat} {t : Table α} (h : risesFrom lo t = true) (p : Nat × α → Bool) :
    risesFrom lo (t.filter p) = true := by
  induction t generalizing lo with
  | nil => rfl
  | cons e t ih =>
    obtain ⟨j, w⟩ := e
    simp only [risesFrom, Bool.and_eq_true, decide_eq_true_eq] at h
    simp only [List.filter_cons]
    split
    · simp only [risesFrom, Bool.and_eq_true, decide_eq_true_eq]; exact ⟨h.1, ih h.2⟩
    · exact risesFrom_mono (ih h.2) (by omega)

theorem twf_tset {α : Type} {t : Table α} (h : twf t = true) (k : Nat) (v : α) : twf (tset t k v) = true :=
  risesFrom_tset h k v (Nat.zero_le _)

theorem twf_filter {α : Type} {t : Table α} (h : twf t = true) (p : Nat × α → Bool) : twf (t.filter p) = true :=
  risesFrom_filter h p

theorem all_tset {α : Type} {t : Table α} {p : Nat × α → Bool} (h : t.all p = true) (k : Nat) (v : α) (hv : p (k, v) = true) :
    (tset t k v).all p = true := by
  induction t with
  | nil => simp [tset, hv]
  | cons e t ih =>
    obtain ⟨j, w⟩ := e
    simp only [List.all_cons, Bool.and_eq_true] at h
    simp only [tset]
    split
    · simp only [List.all_cons, Bool.and_eq_true]; exact ⟨hv, h⟩
    · split
      · simp only [List.all_cons, Bool.and_eq_true]; exact ⟨hv, h.2⟩
      · simp only [List.all_cons, Bool.and_eq_true]; exact ⟨h.1, ih h.2⟩

theorem wf_filter {m : Memory} (h : Memory.wf m = true) (p : Nat × Byte → Bool) : Memory.wf (m.filter p) = true := by
  simp only [Memory.wf, Bool.and_eq_true] at h ⊢
  refine ⟨twf_filter h.1 p, ?_⟩
  simp only [List.all_eq_true] at h ⊢
  exact fun x hx => h.2 x ((List.mem_filter.mp hx).1)

theorem wf_mset {m : Memory} (h : Memory.wf m = true) (a : Nat) (b : Byte) : Memory.wf (mset m a b) = true := by
  simp only [mset]; split
  · exact wf_filter h _
  · next hb =>
    simp only [Memory.wf, Bool.and_eq_true] at h ⊢
    exact ⟨twf_tset h.1 a b, all_tset h.2 a b (by simpa using hb)⟩

/-- A write of bytes keeps the canonical form. -/
theorem wf_mwrite {m : Memory} (h : Memory.wf m = true) (a : Nat) (bs : List Byte) : Memory.wf (mwrite m a bs) = true := by
  induction bs generalizing m a with
  | nil => exact h
  | cons b t ih => exact ih (wf_mset h a b) _

theorem wf_mwriteN {m : Memory} (h : Memory.wf m = true) (a n v : Nat) : Memory.wf (mwriteN m a n v) = true :=
  wf_mwrite h _ _

theorem wf_mclear {m : Memory} (h : Memory.wf m = true) (a n : Nat) : Memory.wf (mclear m a n) = true := wf_filter h _

/-- Memories in canonical form that read alike are equal. -/
theorem tget_of_rises {α : Type} {lo : Nat} {t : Table α} (h : risesFrom lo t = true) (k : Nat) (hk : k < lo) : tget t k = none := by
  induction t generalizing lo with
  | nil => rfl
  | cons e t ih =>
    obtain ⟨j, w⟩ := e
    simp only [risesFrom, Bool.and_eq_true, decide_eq_true_eq] at h
    simp only [tget, show j ≠ k by omega, if_false]
    exact ih h.2 (by omega)

end Sys2Proof.Machine
end

