-- ==== Sys2Proof/Laws/Ops.lean ====
section
/-! SUPPORT. What the shared operations of a running group do: fetch of the running group, checks, stores of a group,
commits of vector, uniform and predicate results. -/

namespace Sys2Proof.Machine

/-! ## The running group -/

/-- An encoded instruction runs as the group that cur names. -/
theorem onGroup_run {s : State} {c : Nat} {g : Group} (h : s.cur = some c) (hg : tget s.groups c = some g)
    (hr : g.res = .running) (k : Nat → Group → Out) : onGroup s k = k c g := by
  simp [onGroup, h, hg, hr]

/-- An instruction whose form checks find nothing goes on. -/
theorem checked_ok {g : Group} {u : Use} (h : check g u = none) (s : State) (c : Nat) (k : Out) : checked s c g u k = k := by
  simp [checked, h]

/-- An instruction whose form checks find a trap takes it. -/
theorem checked_trap {g : Group} {u : Use} {t : Trap} (h : check g u = some t) (s : State) (c : Nat) (k : Out) :
    checked s c g u k = .next (takeTrap s c g t) := by
  simp [checked, h]

/-- A group in a slot is stored without a record. -/
theorem putGroup_slot {g : Group} (h : inSlot g = true) (s : State) (c : Nat) :
    putGroup s c g = { s with groups := tset s.groups c g } := by
  simp [putGroup, mirrorSpill, h]

theorem putGroup_running {g : Group} (h : g.res = .running) (s : State) (c : Nat) :
    putGroup s c g = { s with groups := tset s.groups c g } := putGroup_slot (by simp [inSlot, h]) s c

/-! ## Going on -/

@[simp] theorem bump_res (g : Group) : (bump g).res = g.res := rfl

@[simp] theorem stepPast_res (g : Group) : (stepPast g).res = g.res := by
  simp only [stepPast]; repeat' split
  all_goals rfl

/-- Going to the next word changes where a group stands, and nothing else. -/
theorem stepPast_frame (g : Group) : stepPast g =
    { g with pc := (stepPast g).pc, coff := (stepPast g).coff, repi := (stepPast g).repi, rep := (stepPast g).rep } := by
  simp only [stepPast]; repeat' split
  all_goals rfl

/-- Registers play no part in where the next word stands. -/
theorem step_v (g : Group) (v : Vector (Option VReg) 64) :
    bump (stepPast { g with v := v }) = { bump (stepPast g) with v := v } := by
  simp only [bump, stepPast]; repeat' split
  all_goals simp_all

theorem step_g (g : Group) (x : Vector DWord 32) (m : BitVec 64) (v : Vector (Option VReg) 64) :
    bump (stepPast { g with g := x, gpoison := m, v := v }) = { bump (stepPast g) with g := x, gpoison := m, v := v } := by
  simp only [bump, stepPast]; repeat' split
  all_goals simp_all

theorem step_p (g : Group) (p : Vector (BitVec 16) 8) (v : Vector (Option VReg) 64) :
    bump (stepPast { g with p := p, v := v }) = { bump (stepPast g) with p := p, v := v } := by
  simp only [bump, stepPast]; repeat' split
  all_goals simp_all

/-- The group of an instruction that commits. -/
theorem done_run {g : Group} (h : g.res = .running) (s : State) (c : Nat) :
    done s c g = .next { s with groups := tset s.groups c (bump (stepPast g)) } := by
  simp only [done]; rw [putGroup_running (by simp [h])]

/-- The group of a control transfer. -/
theorem goTo_run {g : Group} (h : g.res = .running) (s : State) (c : Nat) (pc : DWord) :
    goTo s c g pc = .next { s with groups := tset s.groups c (bump { g with pc := pc, coff := 0, repi := 0, rep := none }) } := by
  simp only [goTo]; rw [putGroup_running (by simp [h])]

/-! ## Registers -/

theorem getD_vset {α : Type} {n : Nat} (v : Vector α n) (i k : Nat) (x d : α) (hk : k < n) :
    (v.setIfInBounds i x).getD k d = if k = i then x else v.getD k d := by
  simp [Vector.getD, Array.getD, hk, Array.getElem_setIfInBounds, eq_comm]

theorem getD_mapIdx {α β : Type} {n : Nat} (v : Vector α n) (f : Nat → α → β) (k : Nat) (d : β) (e : α) (hk : k < n) :
    (v.mapIdx f).getD k d = f k (v.getD k e) := by
  simp [Vector.getD, Array.getD, hk]

@[simp] theorem readG_zero (g : Group) : readG g 0 = 0 := rfl

/-- A g register after a write: g0 ignores it. -/
theorem writeG_get (g : Group) (n k : Nat) (x : DWord) (hk : k < 32) :
    (writeG g n x).g.getD k 0 = if k = n ∧ n ≠ 0 then x else g.g.getD k 0 := by
  simp only [writeG]
  by_cases hn : n = 0
  · simp [hn]
  · simp only [hn, if_false, ne_eq, not_false_eq_true, and_true]
    exact getD_vset _ _ _ _ _ hk

/-- A write of a g register changes nothing else. -/
theorem writeG_frame (g : Group) (n : Nat) (x : DWord) :
    writeG g n x = { g with g := (writeG g n x).g, gpoison := (writeG g n x).gpoison } := by
  simp only [writeG]; split <;> rfl

theorem readG_writeG (g : Group) (n k : Nat) (x : DWord) (hk : k < 32) :
    readG (writeG g n x) k = if k = n ∧ n ≠ 0 then x else readG g k := by
  simp only [readG]
  by_cases h0 : k = 0
  · subst h0; by_cases hn : n = 0 <;> simp [hn, eq_comm]
  · rw [if_neg h0, if_neg h0, writeG_get _ _ _ _ hk]

/-- A predicate after a write. -/
theorem readP_writeP (g : Group) (n k : Nat) (x : BitVec 16) (hk : k < 8) :
    readP (writeP g n x) k = if k = n then x else readP g k := by
  exact getD_vset _ _ _ _ _ hk

theorem getD_vec16 {α : Type} (f : Nat → α) (d : α) (l : Nat) (h : l < 16) : (vec16 f).getD l d = f l := by
  rcases l with _ | _ | _ | _ | _ | _ | _ | _ | _ | _ | _ | _ | _ | _ | _ | _ | l <;> first | rfl | omega

/-! ## Writing a v register -/

/-- A write of a v register changes v and nothing else. -/
theorem writeV_frame (g : Group) (tag n : Nat) (m : BitVec 16) (f : Nat → Word) :
    writeV g tag n m f = { g with v := (writeV g tag n m f).v } := rfl

/-- The name written holds a register. -/
theorem writeV_some (g : Group) (tag n : Nat) (m : BitVec 16) (f : Nat → Word) (hn : n < 64) :
    ∃ r, (writeV g tag n m f).v.getD n none = some r ∧ r.poison &&& m = 0 := by
  simp only [writeV]
  rw [getD_vset _ _ _ _ _ hn, if_pos rfl]
  exact ⟨_, rfl, by simp only [BitVec.and_assoc, BitVec.not_and_self]; simp⟩

/-- The lanes of the mask receive the result; the others keep what they held, 0 in a register just allocated. -/
theorem readV_writeV_same (g : Group) (tag n : Nat) (m : BitVec 16) (f : Nat → Word) (hn : n < 64) (l : Nat) (hl : l < 16) :
    readV (writeV g tag n m f) n l = if m.getLsbD l then f l else readV g n l := by
  simp only [writeV, readV]
  rw [getD_vset _ _ _ _ _ hn, if_pos rfl]
  simp only
  rw [getD_vec16 _ _ _ hl]
  split
  · rfl
  · cases g.v.getD n none with
    | none => simp only [freshReg]; exact getD_vec16 _ _ _ hl
    | some r => rfl

/-- Every other name keeps its register. -/
theorem writeV_ne (g : Group) (tag n : Nat) (m : BitVec 16) (f : Nat → Word) (k : Nat) (hk : k < 64) (h : k ≠ n) :
    (writeV g tag n m f).v.getD k none = g.v.getD k none := by
  simp only [writeV]
  rw [getD_vset _ _ _ _ _ hk, if_neg h]

/-- Marked names that the instruction does not write lose their registers; every other name keeps its own. -/
theorem freeMarks_get (g : Group) (marks wv : List Nat) (k : Nat) (hk : k < 64) :
    (freeMarks g marks wv).v.getD k none = if marks.contains k && !wv.contains k then none else g.v.getD k none := by
  simp only [freeMarks]
  rw [getD_mapIdx _ _ _ _ none hk]

theorem freeMarks_frame (g : Group) (marks wv : List Nat) : freeMarks g marks wv = { g with v := (freeMarks g marks wv).v } := rfl

/-! ## Commits -/

/-- Room for the registers that the destinations need. -/
theorem withRegs_room {s : State} {c : Nat} {g : Group} {wv : List Nat} (h : needs g wv ≤ pipeFree s g.core g.part g.slot) (k : Out) :
    withRegs s c g wv k = k := by
  simp [withRegs, h]

/-- A vector result with room and a lane that acts. -/
theorem commitV_run {s : State} {c : Nat} {g : Group} (hr : g.res = .running) (he : g.exec ≠ 0) {d : Nat}
    (hn : needs g [d] ≤ pipeFree s g.core g.part g.slot) (u : Use) (f : Nat → Word) :
    commitV s c g u d f = .next { s with
      nextKey := s.nextKey + 1
      groups := tset s.groups c (bump (stepPast (freeMarks (writeV g s.nextKey d g.exec f) u.marks [d]))) } := by
  simp only [commitV, if_neg he]
  rw [withRegs_room hn, done_run (by exact hr)]

/-- A vector result with EXEC = 0: marks free and nothing is written. -/
theorem commitV_idle {s : State} {c : Nat} {g : Group} (hr : g.res = .running) (he : g.exec = 0) (u : Use) (d : Nat) (f : Nat → Word) :
    commitV s c g u d f = .next { s with groups := tset s.groups c (bump (stepPast (freeMarks g u.marks []))) } := by
  simp only [commitV, if_pos he]
  rw [done_run (by exact hr)]

/-- A uniform result. -/
theorem commitG_run {s : State} {c : Nat} {g : Group} (hr : g.res = .running) (d : Nat) (x : DWord) :
    commitG s c g d x = .next { s with groups := tset s.groups c (bump (stepPast (writeG g d x))) } := by
  simp only [commitG]
  rw [done_run (by rw [writeG_frame]; exact hr)]

/-- A predicate result. -/
theorem commitP_run {s : State} {c : Nat} {g : Group} (hr : g.res = .running) (u : Use) (n : Nat) (x : BitVec 16) :
    commitP s c g u n x = .next { s with groups := tset s.groups c (bump (stepPast (freeMarks (writeP g n x) u.marks []))) } := by
  simp only [commitP]
  rw [done_run (by exact hr)]

end Sys2Proof.Machine
end

