-- ==== Sys2Proof/Laws/PerInstr.lean ====
section
/-! SUPPORT. The family Codec: for each constructor, that its word decodes to it with every operand; a command or an event has no word. -/

namespace Sys2Proof.Laws

/-- The word of an instruction decodes to it (R71 to R79). -/
def Codec.Statement (i : Instr) : Prop := ∀ w, encodeWord i = some w → decodeWord w = some i

theorem word_toNat {n : Nat} {w : Word} (h : wrd n = w) (hn : n < 2 ^ 32) : w.toNat = n := by
  subst h; unfold wrd; rw [BitVec.toNat_ofNat]; exact Nat.mod_eq_of_lt hn

theorem fld_of {w : Word} {lo n v : Nat} (h : w.toNat / 2 ^ lo % 2 ^ n = v) : fld w lo n = v := h

theorem bits_of {w : Word} {lo n : Nat} {x : BitVec n} (h : w.toNat / 2 ^ lo % 2 ^ n = x.toNat) : bits w lo n = x :=
  BitVec.eq_of_toNat_eq (by simpa [bits] using h)

theorem bit_of {w : Word} {lo : Nat} {x : Bool} (h : w.toNat / 2 ^ lo % 2 = x.toNat) : bit w lo = x := by
  cases x <;> simp_all [bit, fld]

theorem decode_at_00 {w : Word} (h : fld w 25 7 = 0x00) : decodeWord w =
    if fld w 0 25 = 0 then some .nop
    else none := by
  rw [decodeWord, h]; rfl

theorem decode_at_01 {w : Word} (h : fld w 25 7 = 0x01) : decodeWord w =
    some (.mood (bit w 24) (bits w 18 6) (bits w 0 18)) := by
  rw [decodeWord, h]; rfl

theorem decode_at_02 {w : Word} (h : fld w 25 7 = 0x02) : decodeWord w =
    if fld w 18 7 = 0 ∧ fld w 0 12 = 0 then some (.maskSet (bits w 12 6))
    else if fld w 18 7 = 0 ∧ fld w 0 12 = 1 then some (.maskAnd (bits w 12 6))
    else if fld w 18 7 = 0 ∧ fld w 0 12 = 2 then some (.maskOr (bits w 12 6))
    else if fld w 18 7 = 64 ∧ fld w 0 12 = 3 then some (.maskG (bits w 12 6))
    else if fld w 24 1 = 1 ∧ fld w 0 18 = 4 then some (.maskRd (bits w 18 6))
    else if fld w 0 25 = 5 then some .maskAlive
    else none := by
  rw [decodeWord, h]; rfl

theorem decode_at_03 {w : Word} (h : fld w 25 7 = 0x03) : decodeWord w =
    if fld w 21 4 = 0 then some (.br (bits w 0 21))
    else none := by
  rw [decodeWord, h]; rfl

theorem decode_at_04 {w : Word} (h : fld w 25 7 = 0x04) : decodeWord w =
    if fld w 21 1 = 0 then some (.brAny (bits w 22 3) (bits w 0 21))
    else none := by
  rw [decodeWord, h]; rfl

theorem decode_at_05 {w : Word} (h : fld w 25 7 = 0x05) : decodeWord w =
    if fld w 21 1 = 0 then some (.brAll (bits w 22 3) (bits w 0 21))
    else none := by
  rw [decodeWord, h]; rfl

theorem decode_at_06 {w : Word} (h : fld w 25 7 = 0x06) : decodeWord w =
    if fld w 21 1 = 0 then some (.brNone (bits w 22 3) (bits w 0 21))
    else none := by
  rw [decodeWord, h]; rfl

theorem decode_at_07 {w : Word} (h : fld w 25 7 = 0x07) : decodeWord w =
    if fld w 21 1 = 0 then some (.brDiv (bits w 22 3) (bits w 0 21))
    else none := by
  rw [decodeWord, h]; rfl

theorem decode_at_08 {w : Word} (h : fld w 25 7 = 0x08) : decodeWord w =
    if fld w 0 25 = 0 then some .join
    else none := by
  rw [decodeWord, h]; rfl

theorem decode_at_09 {w : Word} (h : fld w 25 7 = 0x09) : decodeWord w =
    if fld w 21 4 = 0 then some (.call (bits w 0 21))
    else none := by
  rw [decodeWord, h]; rfl

theorem decode_at_0a {w : Word} (h : fld w 25 7 = 0x0A) : decodeWord w =
    if fld w 18 7 = 64 ∧ fld w 0 12 = 0 then some (.ret (bits w 12 6))
    else none := by
  rw [decodeWord, h]; rfl

theorem decode_at_0b {w : Word} (h : fld w 25 7 = 0x0B) : decodeWord w =
    if fld w 0 25 = 0 then some .endThreads
    else none := by
  rw [decodeWord, h]; rfl

theorem decode_at_0c {w : Word} (h : fld w 25 7 = 0x0C) : decodeWord w =
    if fld w 0 25 = 0 then some .barWg
    else if fld w 0 25 = 1 then some .barGang
    else if fld w 24 1 = 1 ∧ fld w 0 18 = 2 then some (.barArrive (bits w 18 6))
    else if fld w 18 7 = 64 ∧ fld w 0 12 = 3 then some (.barWait (bits w 12 6))
    else if fld w 18 7 = 64 ∧ fld w 0 6 = 4 then some (.barNamed (bits w 12 6) (bits w 6 6))
    else none := by
  rw [decodeWord, h]; rfl

theorem decode_at_0d {w : Word} (h : fld w 25 7 = 0x0D) : decodeWord w =
    if fld w 0 25 = 0 then some .cede
    else none := by
  rw [decodeWord, h]; rfl

theorem decode_at_0e {w : Word} (h : fld w 25 7 = 0x0E) : decodeWord w =
    if fld w 18 7 = 0 then some (.trapUser (bits w 0 18))
    else none := by
  rw [decodeWord, h]; rfl

theorem decode_at_0f {w : Word} (h : fld w 25 7 = 0x0F) : decodeWord w =
    if fld w 24 1 = 1 ∧ fld w 12 6 = 0 ∧ fld w 0 6 = 8 then some (.sysCsrr (bits w 18 6) (bits w 6 6))
    else if fld w 18 7 = 64 ∧ fld w 0 6 = 9 then some (.sysCsrw (bits w 12 6) (bits w 6 6))
    else if fld w 24 1 = 1 ∧ fld w 0 12 = 2 then some (.sysLocq (bits w 18 6) (bits w 12 6))
    else if fld w 0 25 = 3 then some .sysSnap
    else if fld w 24 1 = 1 ∧ fld w 0 18 = 4 then some (.sysClk (bits w 18 6))
    else if fld w 24 1 = 1 ∧ fld w 0 18 = 5 then some (.sysFlagerr (bits w 18 6))
    else none := by
  rw [decodeWord, h]; rfl

theorem decode_at_10 {w : Word} (h : fld w 25 7 = 0x10) : decodeWord w =
    if fld w 0 3 = 0 then some (.iadd (bit w 24) (bits w 18 6) (bits w 12 6) (bits w 6 6) (bit w 5) (bit w 4) (bit w 3))
    else none := by
  rw [decodeWord, h]; rfl

theorem decode_at_11 {w : Word} (h : fld w 25 7 = 0x11) : decodeWord w =
    if fld w 0 3 = 0 then some (.isub (bit w 24) (bits w 18 6) (bits w 12 6) (bits w 6 6) (bit w 5) (bit w 4) (bit w 3))
    else none := by
  rw [decodeWord, h]; rfl

theorem decode_at_12 {w : Word} (h : fld w 25 7 = 0x12) : decodeWord w =
    if fld w 0 3 = 0 then some (.imul (bit w 24) (bits w 18 6) (bits w 12 6) (bits w 6 6) (bit w 5) (bit w 4) (bit w 3))
    else none := by
  rw [decodeWord, h]; rfl

theorem decode_at_13 {w : Word} (h : fld w 25 7 = 0x13) : decodeWord w =
    if fld w 0 3 = 0 then some (.imulh (bit w 24) (bits w 18 6) (bits w 12 6) (bits w 6 6) (bit w 5) (bit w 4) (bit w 3))
    else none := by
  rw [decodeWord, h]; rfl

theorem decode_at_14 {w : Word} (h : fld w 25 7 = 0x14) : decodeWord w =
    if fld w 0 3 = 0 then some (.imad (bit w 24) (bits w 18 6) (bits w 12 6) (bits w 6 6) (bit w 5) (bit w 4) (bit w 3))
    else none := by
  rw [decodeWord, h]; rfl

theorem decode_at_15 {w : Word} (h : fld w 25 7 = 0x15) : decodeWord w =
    if fld w 0 3 = 0 then some (.idivQs (bit w 24) (bits w 18 6) (bits w 12 6) (bits w 6 6) (bit w 5) (bit w 4) (bit w 3))
    else if fld w 0 3 = 1 then some (.idivQn (bit w 24) (bits w 18 6) (bits w 12 6) (bits w 6 6) (bit w 5) (bit w 4) (bit w 3))
    else if fld w 0 3 = 2 then some (.idivRs (bit w 24) (bits w 18 6) (bits w 12 6) (bits w 6 6) (bit w 5) (bit w 4) (bit w 3))
    else if fld w 0 3 = 3 then some (.idivRn (bit w 24) (bits w 18 6) (bits w 12 6) (bits w 6 6) (bit w 5) (bit w 4) (bit w 3))
    else none := by
  rw [decodeWord, h]; rfl

theorem decode_at_16 {w : Word} (h : fld w 25 7 = 0x16) : decodeWord w =
    if fld w 0 3 = 0 then some (.imin (bit w 24) (bits w 18 6) (bits w 12 6) (bits w 6 6) (bit w 5) (bit w 4) (bit w 3))
    else none := by
  rw [decodeWord, h]; rfl

theorem decode_at_17 {w : Word} (h : fld w 25 7 = 0x17) : decodeWord w =
    if fld w 0 3 = 0 then some (.imax (bit w 24) (bits w 18 6) (bits w 12 6) (bits w 6 6) (bit w 5) (bit w 4) (bit w 3))
    else none := by
  rw [decodeWord, h]; rfl

theorem decode_at_18 {w : Word} (h : fld w 25 7 = 0x18) : decodeWord w =
    if fld w 6 6 = 0 ∧ fld w 0 5 = 0 then some (.iabs (bit w 24) (bits w 18 6) (bits w 12 6) (bit w 5))
    else none := by
  rw [decodeWord, h]; rfl

theorem decode_at_19 {w : Word} (h : fld w 25 7 = 0x19) : decodeWord w =
    if fld w 6 6 = 0 ∧ fld w 0 5 = 0 then some (.ineg (bit w 24) (bits w 18 6) (bits w 12 6) (bit w 5))
    else none := by
  rw [decodeWord, h]; rfl

theorem decode_at_1a {w : Word} (h : fld w 25 7 = 0x1A) : decodeWord w =
    if fld w 0 3 = 0 then some (.bitAnd (bit w 24) (bits w 18 6) (bits w 12 6) (bits w 6 6) (bit w 5) (bit w 4) (bit w 3))
    else none := by
  rw [decodeWord, h]; rfl

theorem decode_at_1b {w : Word} (h : fld w 25 7 = 0x1B) : decodeWord w =
    if fld w 0 3 = 0 then some (.bitOr (bit w 24) (bits w 18 6) (bits w 12 6) (bits w 6 6) (bit w 5) (bit w 4) (bit w 3))
    else none := by
  rw [decodeWord, h]; rfl

theorem decode_at_1c {w : Word} (h : fld w 25 7 = 0x1C) : decodeWord w =
    if fld w 0 3 = 0 then some (.bitXor (bit w 24) (bits w 18 6) (bits w 12 6) (bits w 6 6) (bit w 5) (bit w 4) (bit w 3))
    else none := by
  rw [decodeWord, h]; rfl

theorem decode_at_1d {w : Word} (h : fld w 25 7 = 0x1D) : decodeWord w =
    if fld w 0 3 = 0 then some (.bitAndn (bit w 24) (bits w 18 6) (bits w 12 6) (bits w 6 6) (bit w 5) (bit w 4) (bit w 3))
    else none := by
  rw [decodeWord, h]; rfl

theorem decode_at_1e {w : Word} (h : fld w 25 7 = 0x1E) : decodeWord w =
    if fld w 0 3 = 0 then some (.shl (bit w 24) (bits w 18 6) (bits w 12 6) (bits w 6 6) (bit w 5) (bit w 4) (bit w 3))
    else none := by
  rw [decodeWord, h]; rfl

theorem decode_at_1f {w : Word} (h : fld w 25 7 = 0x1F) : decodeWord w =
    if fld w 0 3 = 0 then some (.shrL (bit w 24) (bits w 18 6) (bits w 12 6) (bits w 6 6) (bit w 5) (bit w 4) (bit w 3))
    else if fld w 0 3 = 1 then some (.shrA (bit w 24) (bits w 18 6) (bits w 12 6) (bits w 6 6) (bit w 5) (bit w 4) (bit w 3))
    else none := by
  rw [decodeWord, h]; rfl

theorem decode_at_20 {w : Word} (h : fld w 25 7 = 0x20) : decodeWord w =
    if fld w 0 3 = 0 then some (.rotL (bit w 24) (bits w 18 6) (bits w 12 6) (bits w 6 6) (bit w 5) (bit w 4) (bit w 3))
    else if fld w 0 3 = 1 then some (.rotR (bit w 24) (bits w 18 6) (bits w 12 6) (bits w 6 6) (bit w 5) (bit w 4) (bit w 3))
    else none := by
  rw [decodeWord, h]; rfl

theorem decode_at_21 {w : Word} (h : fld w 25 7 = 0x21) : decodeWord w =
    if fld w 6 6 = 0 ∧ fld w 0 5 = 0 then some (.bitcPopc (bit w 24) (bits w 18 6) (bits w 12 6) (bit w 5))
    else if fld w 6 6 = 0 ∧ fld w 0 5 = 1 then some (.bitcClz (bit w 24) (bits w 18 6) (bits w 12 6) (bit w 5))
    else if fld w 6 6 = 0 ∧ fld w 0 5 = 2 then some (.bitcCtz (bit w 24) (bits w 18 6) (bits w 12 6) (bit w 5))
    else if fld w 6 6 = 0 ∧ fld w 0 5 = 3 then some (.bitcBrev (bit w 24) (bits w 18 6) (bits w 12 6) (bit w 5))
    else none := by
  rw [decodeWord, h]; rfl

theorem decode_at_22 {w : Word} (h : fld w 25 7 = 0x22) : decodeWord w =
    if fld w 0 4 = 0 then some (.bfeN (bit w 24) (bits w 18 6) (bits w 12 6) (bits w 6 6) (bit w 5) (bit w 4))
    else if fld w 0 4 = 1 then some (.bfeS (bit w 24) (bits w 18 6) (bits w 12 6) (bits w 6 6) (bit w 5) (bit w 4))
    else none := by
  rw [decodeWord, h]; rfl

theorem decode_at_23 {w : Word} (h : fld w 25 7 = 0x23) : decodeWord w =
    if fld w 0 4 = 0 then some (.bfi (bit w 24) (bits w 18 6) (bits w 12 6) (bits w 6 6) (bit w 5) (bit w 4))
    else none := by
  rw [decodeWord, h]; rfl

theorem decode_at_24 {w : Word} (h : fld w 25 7 = 0x24) : decodeWord w =
    if fld w 0 3 = 0 then some (.icmpEq (bit w 24) (bits w 18 6) (bits w 12 6) (bits w 6 6) (bit w 5) (bit w 4) (bit w 3))
    else if fld w 0 3 = 1 then some (.icmpNe (bit w 24) (bits w 18 6) (bits w 12 6) (bits w 6 6) (bit w 5) (bit w 4) (bit w 3))
    else if fld w 0 3 = 2 then some (.icmpLt (bit w 24) (bits w 18 6) (bits w 12 6) (bits w 6 6) (bit w 5) (bit w 4) (bit w 3))
    else if fld w 0 3 = 3 then some (.icmpLe (bit w 24) (bits w 18 6) (bits w 12 6) (bits w 6 6) (bit w 5) (bit w 4) (bit w 3))
    else if fld w 0 3 = 4 then some (.icmpGt (bit w 24) (bits w 18 6) (bits w 12 6) (bits w 6 6) (bit w 5) (bit w 4) (bit w 3))
    else if fld w 0 3 = 5 then some (.icmpGe (bit w 24) (bits w 18 6) (bits w 12 6) (bits w 6 6) (bit w 5) (bit w 4) (bit w 3))
    else none := by
  rw [decodeWord, h]; rfl

theorem decode_at_25 {w : Word} (h : fld w 25 7 = 0x25) : decodeWord w =
    some (.sel (bit w 24) (bits w 18 6) (bits w 12 6) (bits w 6 6) (bit w 5) (bit w 4) (bit w 3) (bits w 0 3)) := by
  rw [decodeWord, h]; rfl

theorem decode_at_26 {w : Word} (h : fld w 25 7 = 0x26) : decodeWord w =
    if fld w 6 6 = 0 ∧ fld w 0 5 = 0 then some (.mov (bit w 24) (bits w 18 6) (bits w 12 6) (bit w 5))
    else if fld w 0 12 = 1 then some (.movSpecial (bit w 24) (bits w 18 6) (bits w 12 6))
    else if fld w 24 1 = 0 ∧ fld w 0 12 = 2 then some (.movG (bits w 18 6) (bits w 12 6))
    else none := by
  rw [decodeWord, h]; rfl

theorem decode_at_27 {w : Word} (h : fld w 25 7 = 0x27) : decodeWord w =
    if fld w 24 1 = 0 ∧ fld w 0 6 = 0 then some (.plogAnd (bits w 18 6) (bits w 12 6) (bits w 6 6))
    else if fld w 24 1 = 0 ∧ fld w 0 6 = 1 then some (.plogOr (bits w 18 6) (bits w 12 6) (bits w 6 6))
    else if fld w 24 1 = 0 ∧ fld w 0 6 = 2 then some (.plogXor (bits w 18 6) (bits w 12 6) (bits w 6 6))
    else if fld w 24 1 = 0 ∧ fld w 0 6 = 3 then some (.plogAndn (bits w 18 6) (bits w 12 6) (bits w 6 6))
    else if fld w 24 1 = 0 ∧ fld w 0 12 = 4 then some (.plogNot (bits w 18 6) (bits w 12 6))
    else if fld w 24 1 = 1 ∧ fld w 0 12 = 5 then some (.plogFromg (bits w 18 6) (bits w 12 6))
    else if fld w 24 1 = 1 ∧ fld w 0 12 = 6 then some (.plogTog (bits w 18 6) (bits w 12 6))
    else none := by
  rw [decodeWord, h]; rfl

theorem decode_at_28 {w : Word} (h : fld w 25 7 = 0x28) : decodeWord w =
    some (.ldi (bit w 24) (bits w 18 6) (bits w 0 18)) := by
  rw [decodeWord, h]; rfl

theorem decode_at_29 {w : Word} (h : fld w 25 7 = 0x29) : decodeWord w =
    some (.khi (bit w 24) (bits w 18 6) (bits w 0 18)) := by
  rw [decodeWord, h]; rfl

theorem decode_at_2a {w : Word} (h : fld w 25 7 = 0x2A) : decodeWord w =
    if fld w 6 1 = 0 ∧ fld w 3 1 = 0 then some (.lea (bit w 24) (bits w 18 6) (bits w 13 5) (bits w 7 6) (bit w 5) (bit w 4) (bits w 0 3))
    else none := by
  rw [decodeWord, h]; rfl

theorem decode_at_2b {w : Word} (h : fld w 25 7 = 0x2B) : decodeWord w =
    if fld w 24 1 = 0 ∧ fld w 0 3 = 0 then some (.shflIdx (bits w 18 6) (bits w 12 6) (bits w 6 6) (bit w 5) (bit w 4) (bit w 3))
    else if fld w 24 1 = 0 ∧ fld w 0 3 = 1 then some (.shflUp (bits w 18 6) (bits w 12 6) (bits w 6 6) (bit w 5) (bit w 4) (bit w 3))
    else if fld w 24 1 = 0 ∧ fld w 0 3 = 2 then some (.shflDown (bits w 18 6) (bits w 12 6) (bits w 6 6) (bit w 5) (bit w 4) (bit w 3))
    else if fld w 24 1 = 0 ∧ fld w 0 3 = 3 then some (.shflXor (bits w 18 6) (bits w 12 6) (bits w 6 6) (bit w 5) (bit w 4) (bit w 3))
    else none := by
  rw [decodeWord, h]; rfl

theorem decode_at_2c {w : Word} (h : fld w 25 7 = 0x2C) : decodeWord w =
    if fld w 24 1 = 0 ∧ fld w 0 12 = 0 then some (.voteAny (bits w 18 6) (bits w 12 6))
    else if fld w 24 1 = 0 ∧ fld w 0 12 = 1 then some (.voteAll (bits w 18 6) (bits w 12 6))
    else if fld w 24 1 = 0 ∧ fld w 0 12 = 2 then some (.voteBal (bits w 18 6) (bits w 12 6))
    else if fld w 24 1 = 0 ∧ fld w 6 6 = 0 ∧ fld w 0 5 = 3 then some (.voteEq (bits w 18 6) (bits w 12 6) (bit w 5))
    else none := by
  rw [decodeWord, h]; rfl

theorem decode_at_2d {w : Word} (h : fld w 25 7 = 0x2D) : decodeWord w =
    if fld w 24 1 = 0 ∧ fld w 6 6 = 0 ∧ fld w 0 5 = 0 then some (.lredIadd (bits w 18 6) (bits w 12 6) (bit w 5))
    else if fld w 24 1 = 0 ∧ fld w 6 6 = 0 ∧ fld w 0 5 = 1 then some (.lredFadd (bits w 18 6) (bits w 12 6) (bit w 5))
    else if fld w 24 1 = 0 ∧ fld w 6 6 = 0 ∧ fld w 0 5 = 2 then some (.lredMin (bits w 18 6) (bits w 12 6) (bit w 5))
    else if fld w 24 1 = 0 ∧ fld w 6 6 = 0 ∧ fld w 0 5 = 3 then some (.lredMax (bits w 18 6) (bits w 12 6) (bit w 5))
    else if fld w 24 1 = 0 ∧ fld w 6 6 = 0 ∧ fld w 0 5 = 4 then some (.lredAmax (bits w 18 6) (bits w 12 6) (bit w 5))
    else if fld w 24 1 = 0 ∧ fld w 6 6 = 0 ∧ fld w 0 5 = 5 then some (.lredAnd (bits w 18 6) (bits w 12 6) (bit w 5))
    else if fld w 24 1 = 0 ∧ fld w 6 6 = 0 ∧ fld w 0 5 = 6 then some (.lredOr (bits w 18 6) (bits w 12 6) (bit w 5))
    else if fld w 24 1 = 0 ∧ fld w 6 6 = 0 ∧ fld w 0 5 = 7 then some (.lredXor (bits w 18 6) (bits w 12 6) (bit w 5))
    else none := by
  rw [decodeWord, h]; rfl

theorem decode_at_2e {w : Word} (h : fld w 25 7 = 0x2E) : decodeWord w =
    if fld w 24 1 = 0 ∧ fld w 6 6 = 0 ∧ fld w 0 5 = 0 then some (.lscanIadd (bits w 18 6) (bits w 12 6) (bit w 5))
    else if fld w 24 1 = 0 ∧ fld w 6 6 = 0 ∧ fld w 0 5 = 1 then some (.lscanFadd (bits w 18 6) (bits w 12 6) (bit w 5))
    else if fld w 24 1 = 0 ∧ fld w 6 6 = 0 ∧ fld w 0 5 = 2 then some (.lscanMin (bits w 18 6) (bits w 12 6) (bit w 5))
    else if fld w 24 1 = 0 ∧ fld w 6 6 = 0 ∧ fld w 0 5 = 3 then some (.lscanMax (bits w 18 6) (bits w 12 6) (bit w 5))
    else if fld w 24 1 = 0 ∧ fld w 6 6 = 0 ∧ fld w 0 5 = 4 then some (.lscanAnd (bits w 18 6) (bits w 12 6) (bit w 5))
    else if fld w 24 1 = 0 ∧ fld w 6 6 = 0 ∧ fld w 0 5 = 5 then some (.lscanOr (bits w 18 6) (bits w 12 6) (bit w 5))
    else if fld w 24 1 = 0 ∧ fld w 6 6 = 0 ∧ fld w 0 5 = 6 then some (.lscanXor (bits w 18 6) (bits w 12 6) (bit w 5))
    else none := by
  rw [decodeWord, h]; rfl

theorem decode_at_2f {w : Word} (h : fld w 25 7 = 0x2F) : decodeWord w =
    if fld w 24 1 = 0 ∧ fld w 0 5 = 8 then some (.bcast (bits w 18 6) (bits w 12 6) (bits w 6 6) (bit w 5))
    else if fld w 24 1 = 0 ∧ fld w 0 5 = 9 then some (.bcastG (bits w 18 6) (bits w 12 6) (bits w 6 6) (bit w 5))
    else if fld w 24 1 = 0 ∧ fld w 6 6 = 0 ∧ fld w 0 5 = 2 then some (.bcastFirst (bits w 18 6) (bits w 12 6) (bit w 5))
    else if fld w 24 1 = 0 ∧ fld w 6 6 = 0 ∧ fld w 0 5 = 3 then some (.bcastFirstg (bits w 18 6) (bits w 12 6) (bit w 5))
    else none := by
  rw [decodeWord, h]; rfl

theorem decode_at_30 {w : Word} (h : fld w 25 7 = 0x30) : decodeWord w =
    if fld w 0 4 = 0 then some (.fadd (bit w 24) (bits w 18 6) (bits w 12 6) (bits w 6 6) (bit w 5) (bit w 4))
    else none := by
  rw [decodeWord, h]; rfl

theorem decode_at_31 {w : Word} (h : fld w 25 7 = 0x31) : decodeWord w =
    if fld w 0 4 = 0 then some (.fsub (bit w 24) (bits w 18 6) (bits w 12 6) (bits w 6 6) (bit w 5) (bit w 4))
    else none := by
  rw [decodeWord, h]; rfl

theorem decode_at_32 {w : Word} (h : fld w 25 7 = 0x32) : decodeWord w =
    if fld w 0 4 = 0 then some (.fmul (bit w 24) (bits w 18 6) (bits w 12 6) (bits w 6 6) (bit w 5) (bit w 4))
    else none := by
  rw [decodeWord, h]; rfl

theorem decode_at_33 {w : Word} (h : fld w 25 7 = 0x33) : decodeWord w =
    if fld w 0 4 = 0 then some (.ffma (bit w 24) (bits w 18 6) (bits w 12 6) (bits w 6 6) (bit w 5) (bit w 4))
    else if fld w 0 4 = 1 then some (.ffmaMs (bit w 24) (bits w 18 6) (bits w 12 6) (bits w 6 6) (bit w 5) (bit w 4))
    else if fld w 0 4 = 2 then some (.ffmaNm (bit w 24) (bits w 18 6) (bits w 12 6) (bits w 6 6) (bit w 5) (bit w 4))
    else if fld w 0 4 = 3 then some (.ffmaNms (bit w 24) (bits w 18 6) (bits w 12 6) (bits w 6 6) (bit w 5) (bit w 4))
    else none := by
  rw [decodeWord, h]; rfl

theorem decode_at_34 {w : Word} (h : fld w 25 7 = 0x34) : decodeWord w =
    if fld w 0 4 = 0 then some (.fmin (bit w 24) (bits w 18 6) (bits w 12 6) (bits w 6 6) (bit w 5) (bit w 4))
    else none := by
  rw [decodeWord, h]; rfl

theorem decode_at_35 {w : Word} (h : fld w 25 7 = 0x35) : decodeWord w =
    if fld w 0 4 = 0 then some (.fmax (bit w 24) (bits w 18 6) (bits w 12 6) (bits w 6 6) (bit w 5) (bit w 4))
    else none := by
  rw [decodeWord, h]; rfl

theorem decode_at_36 {w : Word} (h : fld w 25 7 = 0x36) : decodeWord w =
    if fld w 0 4 = 0 then some (.fcmpEq (bit w 24) (bits w 18 6) (bits w 12 6) (bits w 6 6) (bit w 5) (bit w 4))
    else if fld w 0 4 = 1 then some (.fcmpNe (bit w 24) (bits w 18 6) (bits w 12 6) (bits w 6 6) (bit w 5) (bit w 4))
    else if fld w 0 4 = 2 then some (.fcmpLt (bit w 24) (bits w 18 6) (bits w 12 6) (bits w 6 6) (bit w 5) (bit w 4))
    else if fld w 0 4 = 3 then some (.fcmpLe (bit w 24) (bits w 18 6) (bits w 12 6) (bits w 6 6) (bit w 5) (bit w 4))
    else if fld w 0 4 = 4 then some (.fcmpGt (bit w 24) (bits w 18 6) (bits w 12 6) (bits w 6 6) (bit w 5) (bit w 4))
    else if fld w 0 4 = 5 then some (.fcmpGe (bit w 24) (bits w 18 6) (bits w 12 6) (bits w 6 6) (bit w 5) (bit w 4))
    else if fld w 0 4 = 6 then some (.fcmpUn (bit w 24) (bits w 18 6) (bits w 12 6) (bits w 6 6) (bit w 5) (bit w 4))
    else if fld w 0 4 = 7 then some (.fcmpOr (bit w 24) (bits w 18 6) (bits w 12 6) (bits w 6 6) (bit w 5) (bit w 4))
    else none := by
  rw [decodeWord, h]; rfl

theorem decode_at_37 {w : Word} (h : fld w 25 7 = 0x37) : decodeWord w =
    if fld w 6 6 = 0 ∧ fld w 0 5 = 0 then some (.fabs (bit w 24) (bits w 18 6) (bits w 12 6) (bit w 5))
    else none := by
  rw [decodeWord, h]; rfl

theorem decode_at_38 {w : Word} (h : fld w 25 7 = 0x38) : decodeWord w =
    if fld w 6 6 = 0 ∧ fld w 0 5 = 0 then some (.fneg (bit w 24) (bits w 18 6) (bits w 12 6) (bit w 5))
    else none := by
  rw [decodeWord, h]; rfl

theorem decode_at_39 {w : Word} (h : fld w 25 7 = 0x39) : decodeWord w =
    if fld w 6 6 = 0 ∧ fld w 0 5 = 0 then some (.frcp (bit w 24) (bits w 18 6) (bits w 12 6) (bit w 5))
    else none := by
  rw [decodeWord, h]; rfl

theorem decode_at_3a {w : Word} (h : fld w 25 7 = 0x3A) : decodeWord w =
    if fld w 6 6 = 0 ∧ fld w 0 5 = 0 then some (.fsqrt (bit w 24) (bits w 18 6) (bits w 12 6) (bit w 5))
    else none := by
  rw [decodeWord, h]; rfl

theorem decode_at_3b {w : Word} (h : fld w 25 7 = 0x3B) : decodeWord w =
    if fld w 6 6 = 0 ∧ fld w 0 5 = 0 then some (.frsq (bit w 24) (bits w 18 6) (bits w 12 6) (bit w 5))
    else none := by
  rw [decodeWord, h]; rfl

theorem decode_at_3c {w : Word} (h : fld w 25 7 = 0x3C) : decodeWord w =
    if fld w 6 6 = 0 ∧ fld w 0 5 = 0 then some (.fexp (bit w 24) (bits w 18 6) (bits w 12 6) (bit w 5))
    else none := by
  rw [decodeWord, h]; rfl

theorem decode_at_3d {w : Word} (h : fld w 25 7 = 0x3D) : decodeWord w =
    if fld w 6 6 = 0 ∧ fld w 0 5 = 0 then some (.fln (bit w 24) (bits w 18 6) (bits w 12 6) (bit w 5))
    else none := by
  rw [decodeWord, h]; rfl

theorem decode_at_3e {w : Word} (h : fld w 25 7 = 0x3E) : decodeWord w =
    if fld w 6 6 = 0 ∧ fld w 0 5 = 0 then some (.fexp2 (bit w 24) (bits w 18 6) (bits w 12 6) (bit w 5))
    else none := by
  rw [decodeWord, h]; rfl

theorem decode_at_3f {w : Word} (h : fld w 25 7 = 0x3F) : decodeWord w =
    if fld w 6 6 = 0 ∧ fld w 0 5 = 0 then some (.flog2 (bit w 24) (bits w 18 6) (bits w 12 6) (bit w 5))
    else none := by
  rw [decodeWord, h]; rfl

theorem decode_at_40 {w : Word} (h : fld w 25 7 = 0x40) : decodeWord w =
    if fld w 6 6 = 0 ∧ fld w 2 3 = 0 then some (.cvt (bit w 24) (bits w 18 6) (bits w 12 6) (bit w 5) (bits w 0 2))
    else none := by
  rw [decodeWord, h]; rfl

theorem decode_at_41 {w : Word} (h : fld w 25 7 = 0x41) : decodeWord w =
    if fld w 6 6 = 0 ∧ fld w 0 5 = 0 then some (.frnd (bit w 24) (bits w 18 6) (bits w 12 6) (bit w 5))
    else none := by
  rw [decodeWord, h]; rfl

theorem decode_at_42 {w : Word} (h : fld w 25 7 = 0x42) : decodeWord w =
    if fld w 0 3 = 0 then some (.fscal (bit w 24) (bits w 18 6) (bits w 12 6) (bits w 6 6) (bit w 5) (bit w 4) (bit w 3))
    else none := by
  rw [decodeWord, h]; rfl

theorem decode_at_43 {w : Word} (h : fld w 25 7 = 0x43) : decodeWord w =
    if fld w 24 1 = 0 ∧ fld w 0 5 = 0 then some (.hadq (bits w 18 6) (bits w 12 6) (bits w 6 6) (bit w 5))
    else if fld w 24 1 = 0 ∧ fld w 0 5 = 1 then some (.hadqInv (bits w 18 6) (bits w 12 6) (bits w 6 6) (bit w 5))
    else none := by
  rw [decodeWord, h]; rfl

theorem decode_at_44 {w : Word} (h : fld w 25 7 = 0x44) : decodeWord w =
    if fld w 24 1 = 0 ∧ fld w 6 6 = 0 ∧ fld w 0 5 = 0 then some (.qpack (bits w 18 6) (bits w 12 6) (bit w 5))
    else none := by
  rw [decodeWord, h]; rfl

theorem decode_at_45 {w : Word} (h : fld w 25 7 = 0x45) : decodeWord w =
    if fld w 24 1 = 0 ∧ fld w 6 6 = 0 ∧ fld w 0 5 = 0 then some (.qunpk (bits w 18 6) (bits w 12 6) (bit w 5))
    else none := by
  rw [decodeWord, h]; rfl

theorem decode_at_46 {w : Word} (h : fld w 25 7 = 0x46) : decodeWord w =
    if fld w 12 6 = 0 ∧ fld w 0 6 = 8 then some (.fmtw (bit w 24) (bits w 18 6) (bits w 6 6))
    else none := by
  rw [decodeWord, h]; rfl

theorem decode_at_47 {w : Word} (h : fld w 25 7 = 0x47) : decodeWord w =
    if fld w 0 4 = 0 then some (.dot4 (bit w 24) (bits w 18 6) (bits w 12 6) (bits w 6 6) (bit w 5) (bit w 4))
    else none := by
  rw [decodeWord, h]; rfl

theorem decode_at_48 {w : Word} (h : fld w 25 7 = 0x48) : decodeWord w =
    if fld w 6 1 = 0 then some (.ld (bit w 24) (bits w 18 6) (bits w 13 5) (bits w 7 6) (bit w 5) (bit w 4) (bit w 3) (bits w 0 3))
    else none := by
  rw [decodeWord, h]; rfl

theorem decode_at_49 {w : Word} (h : fld w 25 7 = 0x49) : decodeWord w =
    some (.st (bit w 24) (bits w 18 6) (bits w 13 5) (bits w 7 6) (bit w 6) (bit w 5) (bit w 4) (bit w 3) (bits w 0 3)) := by
  rw [decodeWord, h]; rfl

theorem decode_at_4a {w : Word} (h : fld w 25 7 = 0x4A) : decodeWord w =
    if fld w 6 1 = 0 then some (.lds (bit w 24) (bits w 18 6) (bits w 13 5) (bits w 7 6) (bit w 5) (bit w 4) (bit w 3) (bits w 0 3))
    else none := by
  rw [decodeWord, h]; rfl

theorem decode_at_4b {w : Word} (h : fld w 25 7 = 0x4B) : decodeWord w =
    some (.sts (bit w 24) (bits w 18 6) (bits w 13 5) (bits w 7 6) (bit w 6) (bit w 5) (bit w 4) (bit w 3) (bits w 0 3)) := by
  rw [decodeWord, h]; rfl

theorem decode_at_4c {w : Word} (h : fld w 25 7 = 0x4C) : decodeWord w =
    if fld w 24 1 = 0 ∧ fld w 6 1 = 0 then some (.ldp (bits w 18 6) (bits w 13 5) (bits w 7 6) (bit w 5) (bit w 4) (bit w 3) (bits w 0 3))
    else none := by
  rw [decodeWord, h]; rfl

theorem decode_at_4d {w : Word} (h : fld w 25 7 = 0x4D) : decodeWord w =
    if fld w 24 1 = 0 then some (.stp (bits w 18 6) (bits w 13 5) (bits w 7 6) (bit w 6) (bit w 5) (bit w 4) (bit w 3) (bits w 0 3))
    else none := by
  rw [decodeWord, h]; rfl

theorem decode_at_4e {w : Word} (h : fld w 25 7 = 0x4E) : decodeWord w =
    if fld w 6 1 = 0 ∧ fld w 0 5 = 0 then some (.prsTest (bit w 24) (bits w 18 6) (bits w 13 5) (bits w 7 6) (bit w 5))
    else if fld w 18 6 = 0 ∧ fld w 6 1 = 0 ∧ fld w 0 5 = 1 then some (.prsClr (bit w 24) (bits w 13 5) (bits w 7 6) (bit w 5))
    else if fld w 18 6 = 0 ∧ fld w 6 1 = 0 ∧ fld w 0 5 = 2 then some (.prsSet (bit w 24) (bits w 13 5) (bits w 7 6) (bit w 5))
    else if fld w 18 6 = 0 ∧ fld w 6 1 = 0 ∧ fld w 4 1 = 0 ∧ fld w 0 3 = 3 then some (.prsWait (bit w 24) (bits w 13 5) (bits w 7 6) (bit w 5) (bit w 3))
    else none := by
  rw [decodeWord, h]; rfl

theorem decode_at_4f {w : Word} (h : fld w 25 7 = 0x4F) : decodeWord w =
    if fld w 5 20 = 0 then some (.fence (bit w 4) (bits w 2 2) (bit w 1) (bit w 0))
    else if fld w 5 20 = 32768 ∧ fld w 0 2 = 3 then some (.fenceSc (bit w 4) (bits w 2 2))
    else none := by
  rw [decodeWord, h]; rfl

theorem decode_at_50 {w : Word} (h : fld w 25 7 = 0x50) : decodeWord w =
    some (.atom (bit w 24) (bits w 18 6) (bits w 13 5) (bits w 7 6) (bits w 3 4) (bits w 1 2) (bit w 0)) := by
  rw [decodeWord, h]; rfl

theorem decode_at_51 {w : Word} (h : fld w 25 7 = 0x51) : decodeWord w =
    if fld w 1 2 = 0 then some (.atoms (bit w 24) (bits w 18 6) (bits w 13 5) (bits w 7 6) (bits w 3 4) (bit w 0))
    else none := by
  rw [decodeWord, h]; rfl

theorem decode_at_52 {w : Word} (h : fld w 25 7 = 0x52) : decodeWord w =
    some (.red (bit w 24) (bits w 18 6) (bits w 13 5) (bits w 7 6) (bits w 3 4) (bits w 1 2) (bit w 0)) := by
  rw [decodeWord, h]; rfl

theorem decode_at_53 {w : Word} (h : fld w 25 7 = 0x53) : decodeWord w =
    if fld w 24 1 = 0 ∧ fld w 0 3 = 0 then some (.xaccAdd (bits w 18 6) (bits w 13 5) (bits w 7 6) (bit w 6) (bit w 5) (bit w 4) (bit w 3))
    else if fld w 24 1 = 0 ∧ fld w 6 1 = 0 ∧ fld w 0 3 = 1 then some (.xaccRd (bits w 18 6) (bits w 13 5) (bits w 7 6) (bit w 5) (bit w 4) (bit w 3))
    else none := by
  rw [decodeWord, h]; rfl

theorem decode_at_54 {w : Word} (h : fld w 25 7 = 0x54) : decodeWord w =
    if fld w 24 1 = 1 ∧ fld w 3 4 = 0 ∧ fld w 0 1 = 0 then some (.ticket (bits w 18 6) (bits w 13 5) (bits w 7 6) (bits w 1 2))
    else none := by
  rw [decodeWord, h]; rfl

theorem decode_at_55 {w : Word} (h : fld w 25 7 = 0x55) : decodeWord w =
    if fld w 6 1 = 0 ∧ fld w 1 2 = 2 then some (.ldw (bit w 24) (bits w 18 6) (bits w 13 5) (bits w 7 6) (bit w 5) (bit w 4) (bit w 3) (bit w 0))
    else none := by
  rw [decodeWord, h]; rfl

theorem decode_at_56 {w : Word} (h : fld w 25 7 = 0x56) : decodeWord w =
    if fld w 1 2 = 2 then some (.stw (bit w 24) (bits w 18 6) (bits w 13 5) (bits w 7 6) (bit w 6) (bit w 5) (bit w 4) (bit w 3) (bit w 0))
    else none := by
  rw [decodeWord, h]; rfl

theorem decode_at_57 {w : Word} (h : fld w 25 7 = 0x57) : decodeWord w =
    if fld w 18 6 = 0 ∧ fld w 6 1 = 0 then some (.pfch (bit w 24) (bits w 13 5) (bits w 7 6) (bit w 5) (bit w 4) (bit w 3) (bits w 0 3))
    else none := by
  rw [decodeWord, h]; rfl

theorem decode_at_58 {w : Word} (h : fld w 25 7 = 0x58) : decodeWord w =
    if fld w 20 5 = 0 then some (.copyG2s (bits w 15 5) (bits w 10 5) (bits w 5 5) (bit w 4) (bits w 2 2) (bit w 1) (bit w 0))
    else if fld w 20 5 = 1 then some (.copyS2g (bits w 15 5) (bits w 10 5) (bits w 5 5) (bit w 4) (bits w 2 2) (bit w 1) (bit w 0))
    else if fld w 20 5 = 2 then some (.copyG2o (bits w 15 5) (bits w 10 5) (bits w 5 5) (bit w 4) (bits w 2 2) (bit w 1) (bit w 0))
    else if fld w 20 5 = 3 then some (.copyS2o (bits w 15 5) (bits w 10 5) (bits w 5 5) (bit w 4) (bits w 2 2) (bit w 1) (bit w 0))
    else if fld w 20 5 = 4 then some (.copyG2g (bits w 15 5) (bits w 10 5) (bits w 5 5) (bit w 4) (bits w 2 2) (bit w 1) (bit w 0))
    else if fld w 20 5 = 5 then some (.copyXa (bits w 15 5) (bits w 10 5) (bits w 5 5) (bit w 4) (bits w 2 2) (bit w 1) (bit w 0))
    else if fld w 20 5 = 6 then some (.copyS2s (bits w 15 5) (bits w 10 5) (bits w 5 5) (bit w 4) (bits w 2 2) (bit w 1) (bit w 0))
    else none := by
  rw [decodeWord, h]; rfl

theorem decode_at_59 {w : Word} (h : fld w 25 7 = 0x59) : decodeWord w =
    if fld w 20 5 = 0 then some (.copyfG2o (bits w 15 5) (bits w 10 5) (bits w 5 5) (bit w 4) (bits w 2 2) (bit w 1) (bit w 0))
    else if fld w 20 5 = 1 then some (.copyfS2o (bits w 15 5) (bits w 10 5) (bits w 5 5) (bit w 4) (bits w 2 2) (bit w 1) (bit w 0))
    else none := by
  rw [decodeWord, h]; rfl

theorem decode_at_5a {w : Word} (h : fld w 25 7 = 0x5A) : decodeWord w =
    if fld w 24 1 = 0 then some (.mma (bits w 18 6) (bits w 12 6) (bits w 6 6) (bits w 0 6))
    else none := by
  rw [decodeWord, h]; rfl

theorem decode_at_5b {w : Word} (h : fld w 25 7 = 0x5B) : decodeWord w =
    if fld w 20 5 = 0 then some (.accldG (bits w 15 5) (bits w 10 5) (bits w 5 5) (bit w 4) (bits w 2 2) (bit w 1) (bit w 0))
    else if fld w 20 5 = 1 then some (.accldS (bits w 15 5) (bits w 10 5) (bits w 5 5) (bit w 4) (bits w 2 2) (bit w 1) (bit w 0))
    else none := by
  rw [decodeWord, h]; rfl

theorem decode_at_5c {w : Word} (h : fld w 25 7 = 0x5C) : decodeWord w =
    if fld w 20 5 = 0 then some (.accstG (bits w 15 5) (bits w 10 5) (bits w 5 5) (bit w 4) (bits w 2 2) (bit w 1) (bit w 0))
    else if fld w 20 5 = 1 then some (.accstS (bits w 15 5) (bits w 10 5) (bits w 5 5) (bit w 4) (bits w 2 2) (bit w 1) (bit w 0))
    else none := by
  rw [decodeWord, h]; rfl

theorem decode_at_5d {w : Word} (h : fld w 25 7 = 0x5D) : decodeWord w =
    if fld w 20 5 = 0 ∧ fld w 5 10 = 0 then some (.slotClaim (bits w 15 5) (bit w 4) (bits w 2 2) (bit w 1) (bit w 0))
    else if fld w 20 5 = 1 ∧ fld w 5 10 = 0 then some (.slotRel (bits w 15 5) (bit w 4) (bits w 2 2) (bit w 1) (bit w 0))
    else if fld w 10 15 = 2048 then some (.slotHeld (bits w 5 5) (bit w 4) (bits w 2 2) (bit w 1) (bit w 0))
    else none := by
  rw [decodeWord, h]; rfl

theorem decode_at_5e {w : Word} (h : fld w 25 7 = 0x5E) : decodeWord w =
    if fld w 20 5 = 0 then some (.chainSet (bits w 15 5) (bits w 10 5) (bits w 5 5) (bit w 4) (bits w 2 2) (bit w 1) (bit w 0))
    else if fld w 20 5 = 1 ∧ fld w 5 5 = 0 then some (.chainAdv (bits w 15 5) (bits w 10 5) (bit w 4) (bits w 2 2) (bit w 1) (bit w 0))
    else none := by
  rw [decodeWord, h]; rfl

theorem decode_at_5f {w : Word} (h : fld w 25 7 = 0x5F) : decodeWord w =
    if fld w 20 5 = 0 ∧ fld w 5 5 = 0 then some (.seqw (bits w 15 5) (bits w 10 5) (bit w 4) (bits w 2 2) (bit w 1) (bit w 0))
    else none := by
  rw [decodeWord, h]; rfl

theorem decode_at_60 {w : Word} (h : fld w 25 7 = 0x60) : decodeWord w =
    if fld w 20 5 = 0 then some (.kvgatK (bits w 15 5) (bits w 10 5) (bits w 5 5) (bit w 4) (bits w 2 2) (bit w 1) (bit w 0))
    else if fld w 20 5 = 1 then some (.kvgatV (bits w 15 5) (bits w 10 5) (bits w 5 5) (bit w 4) (bits w 2 2) (bit w 1) (bit w 0))
    else none := by
  rw [decodeWord, h]; rfl

theorem decode_at_61 {w : Word} (h : fld w 25 7 = 0x61) : decodeWord w =
    if fld w 20 5 = 0 then some (.kvapp (bits w 15 5) (bits w 10 5) (bits w 5 5) (bit w 4) (bits w 2 2) (bit w 1) (bit w 0))
    else none := by
  rw [decodeWord, h]; rfl

theorem decode_at_62 {w : Word} (h : fld w 25 7 = 0x62) : decodeWord w =
    if fld w 20 5 = 0 ∧ fld w 5 5 = 0 then some (.kvpinPin (bits w 15 5) (bits w 10 5) (bit w 4) (bits w 2 2) (bit w 1) (bit w 0))
    else if fld w 20 5 = 1 ∧ fld w 5 5 = 0 then some (.kvpinUnpin (bits w 15 5) (bits w 10 5) (bit w 4) (bits w 2 2) (bit w 1) (bit w 0))
    else none := by
  rw [decodeWord, h]; rfl

theorem decode_at_63 {w : Word} (h : fld w 25 7 = 0x63) : decodeWord w =
    if fld w 20 5 = 0 then some (.kvfrk (bits w 15 5) (bits w 10 5) (bits w 5 5) (bit w 4) (bits w 2 2) (bit w 1) (bit w 0))
    else none := by
  rw [decodeWord, h]; rfl

theorem decode_at_64 {w : Word} (h : fld w 25 7 = 0x64) : decodeWord w =
    if fld w 20 5 = 0 ∧ fld w 10 5 = 0 then some (.hdlQuery (bits w 15 5) (bits w 5 5) (bit w 4) (bits w 2 2) (bit w 1) (bit w 0))
    else if fld w 20 5 = 1 ∧ fld w 5 5 = 0 then some (.hdlCommit (bits w 15 5) (bits w 10 5) (bit w 4) (bits w 2 2) (bit w 1) (bit w 0))
    else if fld w 20 5 = 2 ∧ fld w 5 5 = 0 then some (.hdlTrunc (bits w 15 5) (bits w 10 5) (bit w 4) (bits w 2 2) (bit w 1) (bit w 0))
    else none := by
  rw [decodeWord, h]; rfl

theorem decode_at_65 {w : Word} (h : fld w 25 7 = 0x65) : decodeWord w =
    if fld w 20 5 = 0 then some (.pfxh (bits w 15 5) (bits w 10 5) (bits w 5 5) (bit w 4) (bits w 2 2) (bit w 1) (bit w 0))
    else none := by
  rw [decodeWord, h]; rfl

theorem decode_at_66 {w : Word} (h : fld w 25 7 = 0x66) : decodeWord w =
    if fld w 20 5 = 0 then some (.pfxl (bits w 15 5) (bits w 10 5) (bits w 5 5) (bit w 4) (bits w 2 2) (bit w 1) (bit w 0))
    else none := by
  rw [decodeWord, h]; rfl

theorem decode_at_67 {w : Word} (h : fld w 25 7 = 0x67) : decodeWord w =
    if fld w 20 5 = 0 then some (.pfxi (bits w 15 5) (bits w 10 5) (bits w 5 5) (bit w 4) (bits w 2 2) (bit w 1) (bit w 0))
    else none := by
  rw [decodeWord, h]; rfl

theorem decode_at_68 {w : Word} (h : fld w 25 7 = 0x68) : decodeWord w =
    if fld w 20 5 = 0 then some (.fputG (bits w 15 5) (bits w 10 5) (bits w 5 5) (bit w 4) (bits w 2 2) (bit w 1) (bit w 0))
    else if fld w 20 5 = 1 then some (.fputS (bits w 15 5) (bits w 10 5) (bits w 5 5) (bit w 4) (bits w 2 2) (bit w 1) (bit w 0))
    else if fld w 20 5 = 2 then some (.fputLz (bits w 15 5) (bits w 10 5) (bits w 5 5) (bit w 4) (bits w 2 2) (bit w 1) (bit w 0))
    else if fld w 20 5 = 3 then some (.fputLzg (bits w 15 5) (bits w 10 5) (bits w 5 5) (bit w 4) (bits w 2 2) (bit w 1) (bit w 0))
    else none := by
  rw [decodeWord, h]; rfl

theorem decode_at_69 {w : Word} (h : fld w 25 7 = 0x69) : decodeWord w =
    if fld w 20 5 = 0 then some (.fgetG (bits w 15 5) (bits w 10 5) (bits w 5 5) (bit w 4) (bits w 2 2) (bit w 1) (bit w 0))
    else if fld w 20 5 = 1 then some (.fgetS (bits w 15 5) (bits w 10 5) (bits w 5 5) (bit w 4) (bits w 2 2) (bit w 1) (bit w 0))
    else none := by
  rw [decodeWord, h]; rfl

theorem decode_at_6a {w : Word} (h : fld w 25 7 = 0x6A) : decodeWord w =
    some (.fatom (bits w 20 5) (bits w 15 5) (bits w 10 5) (bits w 5 5) (bit w 4) (bits w 2 2) (bit w 1) (bit w 0)) := by
  rw [decodeWord, h]; rfl

theorem decode_at_6b {w : Word} (h : fld w 25 7 = 0x6B) : decodeWord w =
    if fld w 20 5 = 0 then some (.fred (bits w 15 5) (bits w 10 5) (bits w 5 5) (bit w 4) (bits w 2 2) (bit w 1) (bit w 0))
    else none := by
  rw [decodeWord, h]; rfl

theorem decode_at_6c {w : Word} (h : fld w 25 7 = 0x6C) : decodeWord w =
    if fld w 20 5 = 0 ∧ fld w 10 5 = 0 then some (.lzres (bits w 15 5) (bits w 5 5) (bit w 4) (bits w 2 2) (bit w 1) (bit w 0))
    else none := by
  rw [decodeWord, h]; rfl

theorem decode_at_6d {w : Word} (h : fld w 25 7 = 0x6D) : decodeWord w =
    if fld w 20 5 = 0 then some (.lzarm (bits w 15 5) (bits w 10 5) (bits w 5 5) (bit w 4) (bits w 2 2) (bit w 1) (bit w 0))
    else none := by
  rw [decodeWord, h]; rfl

theorem decode_at_6e {w : Word} (h : fld w 25 7 = 0x6E) : decodeWord w =
    if fld w 20 5 = 0 ∧ fld w 5 10 = 0 then some (.lzrel (bits w 15 5) (bit w 4) (bits w 2 2) (bit w 1) (bit w 0))
    else none := by
  rw [decodeWord, h]; rfl

theorem decode_at_6f {w : Word} (h : fld w 25 7 = 0x6F) : decodeWord w =
    if fld w 20 5 = 0 ∧ fld w 10 5 = 0 then some (.lzqRd (bits w 15 5) (bits w 5 5) (bit w 4) (bits w 2 2) (bit w 1) (bit w 0))
    else if fld w 20 5 = 1 ∧ fld w 5 10 = 0 then some (.lzqWait (bits w 15 5) (bit w 4) (bits w 2 2) (bit w 1) (bit w 0))
    else none := by
  rw [decodeWord, h]; rfl

theorem decode_at_70 {w : Word} (h : fld w 25 7 = 0x70) : decodeWord w =
    if fld w 0 5 = 0 then some (.rngW0 (bit w 24) (bits w 18 6) (bits w 12 6) (bits w 6 6) (bit w 5))
    else if fld w 0 5 = 1 then some (.rngW1 (bit w 24) (bits w 18 6) (bits w 12 6) (bits w 6 6) (bit w 5))
    else if fld w 0 5 = 2 then some (.rngW2 (bit w 24) (bits w 18 6) (bits w 12 6) (bits w 6 6) (bit w 5))
    else if fld w 0 5 = 3 then some (.rngW3 (bit w 24) (bits w 18 6) (bits w 12 6) (bits w 6 6) (bit w 5))
    else if fld w 0 5 = 4 then some (.rngUni (bit w 24) (bits w 18 6) (bits w 12 6) (bits w 6 6) (bit w 5))
    else if fld w 0 5 = 5 then some (.rngGum (bit w 24) (bits w 18 6) (bits w 12 6) (bits w 6 6) (bit w 5))
    else none := by
  rw [decodeWord, h]; rfl

theorem decode_at_71 {w : Word} (h : fld w 25 7 = 0x71) : decodeWord w =
    if fld w 20 5 = 0 then some (.smplMax (bits w 15 5) (bits w 10 5) (bits w 5 5) (bit w 4) (bits w 2 2) (bit w 1) (bit w 0))
    else if fld w 20 5 = 1 then some (.smplSmp (bits w 15 5) (bits w 10 5) (bits w 5 5) (bit w 4) (bits w 2 2) (bit w 1) (bit w 0))
    else if fld w 20 5 = 2 then some (.smplRes (bits w 15 5) (bits w 10 5) (bits w 5 5) (bit w 4) (bits w 2 2) (bit w 1) (bit w 0))
    else none := by
  rw [decodeWord, h]; rfl

theorem decode_at_72 {w : Word} (h : fld w 25 7 = 0x72) : decodeWord w =
    if fld w 20 5 = 0 then some (.smrg (bits w 15 5) (bits w 10 5) (bits w 5 5) (bit w 4) (bits w 2 2) (bit w 1) (bit w 0))
    else none := by
  rw [decodeWord, h]; rfl

theorem decode_at_73 {w : Word} (h : fld w 25 7 = 0x73) : decodeWord w =
    if fld w 20 5 = 0 then some (.acpt (bits w 15 5) (bits w 10 5) (bits w 5 5) (bit w 4) (bits w 2 2) (bit w 1) (bit w 0))
    else none := by
  rw [decodeWord, h]; rfl

theorem decode_at_74 {w : Word} (h : fld w 25 7 = 0x74) : decodeWord w =
    if fld w 20 5 = 0 then some (.stop (bits w 15 5) (bits w 10 5) (bits w 5 5) (bit w 4) (bits w 2 2) (bit w 1) (bit w 0))
    else none := by
  rw [decodeWord, h]; rfl

theorem decode_at_75 {w : Word} (h : fld w 25 7 = 0x75) : decodeWord w =
    if fld w 20 5 = 0 then some (.emit (bits w 15 5) (bits w 10 5) (bits w 5 5) (bit w 4) (bits w 2 2) (bit w 1) (bit w 0))
    else none := by
  rw [decodeWord, h]; rfl

theorem decode_at_76 {w : Word} (h : fld w 25 7 = 0x76) : decodeWord w =
    if fld w 20 5 = 0 ∧ fld w 5 10 = 0 then some (.rqstCommit (bits w 15 5) (bit w 4) (bits w 2 2) (bit w 1) (bit w 0))
    else if fld w 20 5 = 1 ∧ fld w 10 5 = 0 then some (.rqstQuery (bits w 15 5) (bits w 5 5) (bit w 4) (bits w 2 2) (bit w 1) (bit w 0))
    else if fld w 20 5 = 2 ∧ fld w 5 10 = 0 then some (.rqstFail (bits w 15 5) (bit w 4) (bits w 2 2) (bit w 1) (bit w 0))
    else none := by
  rw [decodeWord, h]; rfl

theorem decode_at_77 {w : Word} (h : fld w 25 7 = 0x77) : decodeWord w =
    if fld w 20 5 = 0 then some (.xredExp (bits w 15 5) (bits w 10 5) (bits w 5 5) (bit w 4) (bits w 2 2) (bit w 1) (bit w 0))
    else if fld w 20 5 = 1 then some (.xredSum (bits w 15 5) (bits w 10 5) (bits w 5 5) (bit w 4) (bits w 2 2) (bit w 1) (bit w 0))
    else none := by
  rw [decodeWord, h]; rfl

theorem decode_at_7e {w : Word} (h : fld w 25 7 = 0x7E) : decodeWord w =
    if fld w 0 7 = 0 then some (.rep (bits w 19 6) (bits w 15 4) (bits w 11 4) (bits w 7 4))
    else none := by
  rw [decodeWord, h]; rfl

theorem decode_at_7f {w : Word} (h : fld w 25 7 = 0x7F) : decodeWord w =
    some (.clause (bits w 13 12) (bits w 9 4) (bits w 5 4) (bits w 0 5)) := by
  rw [decodeWord, h]; rfl

theorem layoutR {n : Nat} {w : Word} (h : wrd n = w) (op u d a b x y z t : Nat)
    (e : n = op * 2 ^ 25 + (u * 2 ^ 24 + (d * 2 ^ 18 + (a * 2 ^ 12 + (b * 2 ^ 6 + (x * 2 ^ 5 + (y * 2 ^ 4 + (z * 2 ^ 3 + t))))))))
    (ho : op < 2 ^ 7) (hu : u < 2) (hd : d < 2 ^ 6) (ha : a < 2 ^ 6) (hb : b < 2 ^ 6) (hx : x < 2) (hy : y < 2) (hz : z < 2) (ht : t < 2 ^ 3) :
    fld w 25 7 = op ∧ w.toNat / 2 ^ 24 % 2 = u ∧ w.toNat / 2 ^ 18 % 2 ^ 6 = d ∧ w.toNat / 2 ^ 12 % 2 ^ 6 = a ∧ w.toNat / 2 ^ 6 % 2 ^ 6 = b ∧
    w.toNat / 2 ^ 5 % 2 = x ∧ w.toNat / 2 ^ 4 % 2 = y ∧ w.toNat / 2 ^ 3 % 2 = z ∧ w.toNat / 2 ^ 0 % 2 ^ 3 = t ∧
    fld w 24 1 = u ∧ fld w 18 6 = d ∧ fld w 12 6 = a ∧ fld w 6 6 = b ∧ fld w 0 3 = t ∧ fld w 0 4 = z * 8 + t ∧ fld w 0 5 = y * 16 + z * 8 + t ∧
    fld w 0 6 = x * 32 + y * 16 + z * 8 + t ∧ fld w 0 12 = b * 64 + x * 32 + y * 16 + z * 8 + t ∧
    fld w 0 18 = a * 4096 + b * 64 + x * 32 + y * 16 + z * 8 + t ∧ fld w 18 7 = u * 64 + d := by
  have k := word_toNat h (by omega)
  refine ⟨fld_of ?_, ?_, ?_, ?_, ?_, ?_, ?_, ?_, ?_, fld_of ?_, fld_of ?_, fld_of ?_, fld_of ?_, fld_of ?_, fld_of ?_, fld_of ?_, fld_of ?_, fld_of ?_, fld_of ?_,
    fld_of ?_⟩ <;> omega

theorem layoutE {n : Nat} {w : Word} (h : wrd n = w) (op s a b c f q x y : Nat)
    (e : n = op * 2 ^ 25 + (s * 2 ^ 20 + (a * 2 ^ 15 + (b * 2 ^ 10 + (c * 2 ^ 5 + (f * 2 ^ 4 + (q * 2 ^ 2 + (x * 2 ^ 1 + y))))))))
    (ho : op < 2 ^ 7) (hs : s < 2 ^ 5) (ha : a < 2 ^ 5) (hb : b < 2 ^ 5) (hc : c < 2 ^ 5) (hf : f < 2) (hq : q < 2 ^ 2) (hx : x < 2) (hy : y < 2) :
    fld w 25 7 = op ∧ w.toNat / 2 ^ 20 % 2 ^ 5 = s ∧ w.toNat / 2 ^ 15 % 2 ^ 5 = a ∧ w.toNat / 2 ^ 10 % 2 ^ 5 = b ∧ w.toNat / 2 ^ 5 % 2 ^ 5 = c ∧
    w.toNat / 2 ^ 4 % 2 = f ∧ w.toNat / 2 ^ 2 % 2 ^ 2 = q ∧ w.toNat / 2 ^ 1 % 2 = x ∧ w.toNat / 2 ^ 0 % 2 = y ∧
    fld w 20 5 = s ∧ fld w 10 5 = b ∧ fld w 5 5 = c ∧ fld w 5 10 = b * 32 + c ∧ fld w 10 15 = s * 1024 + a * 32 + b ∧ fld w 10 10 = a * 32 + b := by
  have k := word_toNat h (by omega)
  refine ⟨fld_of ?_, ?_, ?_, ?_, ?_, ?_, ?_, ?_, ?_, fld_of ?_, fld_of ?_, fld_of ?_, fld_of ?_, fld_of ?_, fld_of ?_⟩ <;> omega
theorem Codec.nop : Statement (.nop) := by
  intro wd h; cases h; rfl
theorem Codec.mood (u : Bool) (d : BitVec 6) (imm : BitVec 18) : Statement (.mood u d imm) := by
  intro wd h
  have := u.toNat_lt; have := d.isLt; have := imm.isLt
  have e := word_toNat (Option.some.inj h) (by simp only [pk]; omega)
  simp only [pk] at e
  rw [decode_at_01 (fld_of (by omega))]
  have h0 := bit_of (w := wd) (lo := 24) (x := u) (by omega)
  have h1 := bits_of (w := wd) (lo := 18) (x := d) (by omega)
  have h2 := bits_of (w := wd) (lo := 0) (x := imm) (by omega)
  simp [h0, h1, h2]
theorem Codec.maskSet (a : BitVec 6) : Statement (.maskSet a) := by
  intro wd h
  have := a.isLt
  have e := word_toNat (Option.some.inj h) (by simp only [pk]; omega)
  simp only [pk] at e
  rw [decode_at_02 (fld_of (by omega))]
  have h0 := fld_of (w := wd) (lo := 18) (n := 7) (v := 0) (by omega)
  have h1 := fld_of (w := wd) (lo := 0) (n := 12) (v := 0) (by omega)
  have h2 := fld_of (w := wd) (lo := 24) (n := 1) (v := 0) (by omega)
  have h3 := fld_of (w := wd) (lo := 0) (n := 18) (v := a.toNat * 4096 + 0) (by omega)
  have h4 := fld_of (w := wd) (lo := 0) (n := 25) (v := a.toNat * 4096 + 0) (by omega)
  have h5 := bits_of (w := wd) (lo := 12) (x := a) (by omega)
  simp [h0, h1, h2, h3, h4, h5]
theorem Codec.maskAnd (a : BitVec 6) : Statement (.maskAnd a) := by
  intro wd h
  have := a.isLt
  have e := word_toNat (Option.some.inj h) (by simp only [pk]; omega)
  simp only [pk] at e
  rw [decode_at_02 (fld_of (by omega))]
  have h0 := fld_of (w := wd) (lo := 18) (n := 7) (v := 0) (by omega)
  have h1 := fld_of (w := wd) (lo := 0) (n := 12) (v := 1) (by omega)
  have h2 := fld_of (w := wd) (lo := 24) (n := 1) (v := 0) (by omega)
  have h3 := fld_of (w := wd) (lo := 0) (n := 18) (v := a.toNat * 4096 + 1) (by omega)
  have h4 := fld_of (w := wd) (lo := 0) (n := 25) (v := a.toNat * 4096 + 1) (by omega)
  have h5 := bits_of (w := wd) (lo := 12) (x := a) (by omega)
  simp [h0, h1, h2, h3, h4, h5]
theorem Codec.maskOr (a : BitVec 6) : Statement (.maskOr a) := by
  intro wd h
  have := a.isLt
  have e := word_toNat (Option.some.inj h) (by simp only [pk]; omega)
  simp only [pk] at e
  rw [decode_at_02 (fld_of (by omega))]
  have h0 := fld_of (w := wd) (lo := 18) (n := 7) (v := 0) (by omega)
  have h1 := fld_of (w := wd) (lo := 0) (n := 12) (v := 2) (by omega)
  have h2 := fld_of (w := wd) (lo := 24) (n := 1) (v := 0) (by omega)
  have h3 := fld_of (w := wd) (lo := 0) (n := 18) (v := a.toNat * 4096 + 2) (by omega)
  have h4 := fld_of (w := wd) (lo := 0) (n := 25) (v := a.toNat * 4096 + 2) (by omega)
  have h5 := bits_of (w := wd) (lo := 12) (x := a) (by omega)
  simp [h0, h1, h2, h3, h4, h5]
theorem Codec.maskG (a : BitVec 6) : Statement (.maskG a) := by
  intro wd h
  have := a.isLt
  have e := word_toNat (Option.some.inj h) (by simp only [pk]; omega)
  simp only [pk] at e
  rw [decode_at_02 (fld_of (by omega))]
  have h0 := fld_of (w := wd) (lo := 18) (n := 7) (v := 64) (by omega)
  have h1 := fld_of (w := wd) (lo := 0) (n := 12) (v := 3) (by omega)
  have h2 := fld_of (w := wd) (lo := 24) (n := 1) (v := 1) (by omega)
  have h3 := fld_of (w := wd) (lo := 0) (n := 18) (v := a.toNat * 4096 + 3) (by omega)
  have h4 := fld_of (w := wd) (lo := 0) (n := 25) (v := a.toNat * 4096 + 16777219) (by omega)
  have h5 := bits_of (w := wd) (lo := 12) (x := a) (by omega)
  simp [h0, h1, h2, h3, h4, h5]
theorem Codec.maskRd (d : BitVec 6) : Statement (.maskRd d) := by
  intro wd h
  have := d.isLt
  have e := word_toNat (Option.some.inj h) (by simp only [pk]; omega)
  simp only [pk] at e
  rw [decode_at_02 (fld_of (by omega))]
  have h0 := fld_of (w := wd) (lo := 18) (n := 7) (v := d.toNat * 1 + 64) (by omega)
  have h1 := fld_of (w := wd) (lo := 0) (n := 12) (v := 4) (by omega)
  have h2 := fld_of (w := wd) (lo := 24) (n := 1) (v := 1) (by omega)
  have h3 := fld_of (w := wd) (lo := 0) (n := 18) (v := 4) (by omega)
  have h4 := fld_of (w := wd) (lo := 0) (n := 25) (v := d.toNat * 262144 + 16777220) (by omega)
  have h5 := bits_of (w := wd) (lo := 18) (x := d) (by omega)
  simp [h0, h1, h2, h3, h4, h5]
theorem Codec.maskAlive : Statement (.maskAlive) := by
  intro wd h; cases h; rfl
theorem Codec.br (off : BitVec 21) : Statement (.br off) := by
  intro wd h
  have := off.isLt
  have e := word_toNat (Option.some.inj h) (by simp only [pk]; omega)
  simp only [pk] at e
  rw [decode_at_03 (fld_of (by omega))]
  have h0 := fld_of (w := wd) (lo := 21) (n := 4) (v := 0) (by omega)
  have h1 := bits_of (w := wd) (lo := 0) (x := off) (by omega)
  simp [h0, h1]
theorem Codec.brAny (p : BitVec 3) (off : BitVec 21) : Statement (.brAny p off) := by
  intro wd h
  have := p.isLt; have := off.isLt
  have e := word_toNat (Option.some.inj h) (by simp only [pk]; omega)
  simp only [pk] at e
  rw [decode_at_04 (fld_of (by omega))]
  have h0 := fld_of (w := wd) (lo := 21) (n := 1) (v := 0) (by omega)
  have h1 := bits_of (w := wd) (lo := 22) (x := p) (by omega)
  have h2 := bits_of (w := wd) (lo := 0) (x := off) (by omega)
  simp [h0, h1, h2]
theorem Codec.brAll (p : BitVec 3) (off : BitVec 21) : Statement (.brAll p off) := by
  intro wd h
  have := p.isLt; have := off.isLt
  have e := word_toNat (Option.some.inj h) (by simp only [pk]; omega)
  simp only [pk] at e
  rw [decode_at_05 (fld_of (by omega))]
  have h0 := fld_of (w := wd) (lo := 21) (n := 1) (v := 0) (by omega)
  have h1 := bits_of (w := wd) (lo := 22) (x := p) (by omega)
  have h2 := bits_of (w := wd) (lo := 0) (x := off) (by omega)
  simp [h0, h1, h2]
theorem Codec.brNone (p : BitVec 3) (off : BitVec 21) : Statement (.brNone p off) := by
  intro wd h
  have := p.isLt; have := off.isLt
  have e := word_toNat (Option.some.inj h) (by simp only [pk]; omega)
  simp only [pk] at e
  rw [decode_at_06 (fld_of (by omega))]
  have h0 := fld_of (w := wd) (lo := 21) (n := 1) (v := 0) (by omega)
  have h1 := bits_of (w := wd) (lo := 22) (x := p) (by omega)
  have h2 := bits_of (w := wd) (lo := 0) (x := off) (by omega)
  simp [h0, h1, h2]
theorem Codec.brDiv (p : BitVec 3) (off : BitVec 21) : Statement (.brDiv p off) := by
  intro wd h
  have := p.isLt; have := off.isLt
  have e := word_toNat (Option.some.inj h) (by simp only [pk]; omega)
  simp only [pk] at e
  rw [decode_at_07 (fld_of (by omega))]
  have h0 := fld_of (w := wd) (lo := 21) (n := 1) (v := 0) (by omega)
  have h1 := bits_of (w := wd) (lo := 22) (x := p) (by omega)
  have h2 := bits_of (w := wd) (lo := 0) (x := off) (by omega)
  simp [h0, h1, h2]
theorem Codec.join : Statement (.join) := by
  intro wd h; cases h; rfl
theorem Codec.call (off : BitVec 21) : Statement (.call off) := by
  intro wd h
  have := off.isLt
  have e := word_toNat (Option.some.inj h) (by simp only [pk]; omega)
  simp only [pk] at e
  rw [decode_at_09 (fld_of (by omega))]
  have h0 := fld_of (w := wd) (lo := 21) (n := 4) (v := 0) (by omega)
  have h1 := bits_of (w := wd) (lo := 0) (x := off) (by omega)
  simp [h0, h1]
theorem Codec.ret (a : BitVec 6) : Statement (.ret a) := by
  intro wd h
  obtain ⟨ho, -, -, f2, -, -, -, -, -, -, -, -, -, -, -, -, -, g8, -, g10⟩ := layoutR (Option.some.inj h) 10 1 0 a.toNat 0 0 0 0 0 (by simp only [pk]; omega) (by decide) (by decide) (by decide) a.isLt (by decide) (by decide) (by decide) (by decide) (by decide)
  rw [decode_at_0a ho]
  simp [bits_of (x := a) f2, g10, g8]
theorem Codec.endThreads : Statement (.endThreads) := by
  intro wd h; cases h; rfl
theorem Codec.barWg : Statement (.barWg) := by
  intro wd h; cases h; rfl
theorem Codec.barGang : Statement (.barGang) := by
  intro wd h; cases h; rfl
theorem Codec.barArrive (d : BitVec 6) : Statement (.barArrive d) := by
  intro wd h
  have := d.isLt
  have e := word_toNat (Option.some.inj h) (by simp only [pk]; omega)
  simp only [pk] at e
  rw [decode_at_0c (fld_of (by omega))]
  have h0 := fld_of (w := wd) (lo := 0) (n := 25) (v := d.toNat * 262144 + 16777218) (by omega)
  have h1 := fld_of (w := wd) (lo := 24) (n := 1) (v := 1) (by omega)
  have h2 := fld_of (w := wd) (lo := 0) (n := 18) (v := 2) (by omega)
  have h3 := fld_of (w := wd) (lo := 18) (n := 7) (v := d.toNat * 1 + 64) (by omega)
  have h4 := fld_of (w := wd) (lo := 0) (n := 12) (v := 2) (by omega)
  have h5 := fld_of (w := wd) (lo := 0) (n := 6) (v := 2) (by omega)
  have h6 := bits_of (w := wd) (lo := 18) (x := d) (by omega)
  simp [h0, h1, h2, h3, h4, h5, h6]
theorem Codec.barWait (a : BitVec 6) : Statement (.barWait a) := by
  intro wd h
  have := a.isLt
  have e := word_toNat (Option.some.inj h) (by simp only [pk]; omega)
  simp only [pk] at e
  rw [decode_at_0c (fld_of (by omega))]
  have h0 := fld_of (w := wd) (lo := 0) (n := 25) (v := a.toNat * 4096 + 16777219) (by omega)
  have h1 := fld_of (w := wd) (lo := 24) (n := 1) (v := 1) (by omega)
  have h2 := fld_of (w := wd) (lo := 0) (n := 18) (v := a.toNat * 4096 + 3) (by omega)
  have h3 := fld_of (w := wd) (lo := 18) (n := 7) (v := 64) (by omega)
  have h4 := fld_of (w := wd) (lo := 0) (n := 12) (v := 3) (by omega)
  have h5 := fld_of (w := wd) (lo := 0) (n := 6) (v := 3) (by omega)
  have h6 := bits_of (w := wd) (lo := 12) (x := a) (by omega)
  simp [h0, h1, h2, h3, h4, h5, h6]
theorem Codec.barNamed (a : BitVec 6) (b : BitVec 6) : Statement (.barNamed a b) := by
  intro wd h
  have := a.isLt; have := b.isLt
  have e := word_toNat (Option.some.inj h) (by simp only [pk]; omega)
  simp only [pk] at e
  rw [decode_at_0c (fld_of (by omega))]
  have h0 := fld_of (w := wd) (lo := 0) (n := 25) (v := a.toNat * 4096 + b.toNat * 64 + 16777220) (by omega)
  have h1 := fld_of (w := wd) (lo := 24) (n := 1) (v := 1) (by omega)
  have h2 := fld_of (w := wd) (lo := 0) (n := 18) (v := a.toNat * 4096 + b.toNat * 64 + 4) (by omega)
  have h3 := fld_of (w := wd) (lo := 18) (n := 7) (v := 64) (by omega)
  have h4 := fld_of (w := wd) (lo := 0) (n := 12) (v := b.toNat * 64 + 4) (by omega)
  have h5 := fld_of (w := wd) (lo := 0) (n := 6) (v := 4) (by omega)
  have h6 := bits_of (w := wd) (lo := 12) (x := a) (by omega)
  have h7 := bits_of (w := wd) (lo := 6) (x := b) (by omega)
  simp [h0, h1, h2, h3, h4, h5, h6, h7]
theorem Codec.cede : Statement (.cede) := by
  intro wd h; cases h; rfl
theorem Codec.trapUser (imm : BitVec 18) : Statement (.trapUser imm) := by
  intro wd h
  have := imm.isLt
  have e := word_toNat (Option.some.inj h) (by simp only [pk]; omega)
  simp only [pk] at e
  rw [decode_at_0e (fld_of (by omega))]
  have h0 := fld_of (w := wd) (lo := 18) (n := 7) (v := 0) (by omega)
  have h1 := bits_of (w := wd) (lo := 0) (x := imm) (by omega)
  simp [h0, h1]
theorem Codec.sysCsrr (d : BitVec 6) (b : BitVec 6) : Statement (.sysCsrr d b) := by
  intro wd h
  have := d.isLt; have := b.isLt
  have e := word_toNat (Option.some.inj h) (by simp only [pk]; omega)
  simp only [pk] at e
  rw [decode_at_0f (fld_of (by omega))]
  have h0 := fld_of (w := wd) (lo := 24) (n := 1) (v := 1) (by omega)
  have h1 := fld_of (w := wd) (lo := 12) (n := 6) (v := 0) (by omega)
  have h2 := fld_of (w := wd) (lo := 0) (n := 6) (v := 8) (by omega)
  have h3 := fld_of (w := wd) (lo := 18) (n := 7) (v := d.toNat * 1 + 64) (by omega)
  have h4 := fld_of (w := wd) (lo := 0) (n := 12) (v := b.toNat * 64 + 8) (by omega)
  have h5 := fld_of (w := wd) (lo := 0) (n := 25) (v := d.toNat * 262144 + b.toNat * 64 + 16777224) (by omega)
  have h6 := fld_of (w := wd) (lo := 0) (n := 18) (v := b.toNat * 64 + 8) (by omega)
  have h7 := bits_of (w := wd) (lo := 18) (x := d) (by omega)
  have h8 := bits_of (w := wd) (lo := 6) (x := b) (by omega)
  simp [h0, h1, h2, h3, h4, h5, h6, h7, h8]
theorem Codec.sysCsrw (a : BitVec 6) (b : BitVec 6) : Statement (.sysCsrw a b) := by
  intro wd h
  have := a.isLt; have := b.isLt
  have e := word_toNat (Option.some.inj h) (by simp only [pk]; omega)
  simp only [pk] at e
  rw [decode_at_0f (fld_of (by omega))]
  have h0 := fld_of (w := wd) (lo := 24) (n := 1) (v := 1) (by omega)
  have h1 := fld_of (w := wd) (lo := 12) (n := 6) (v := a.toNat * 1 + 0) (by omega)
  have h2 := fld_of (w := wd) (lo := 0) (n := 6) (v := 9) (by omega)
  have h3 := fld_of (w := wd) (lo := 18) (n := 7) (v := 64) (by omega)
  have h4 := fld_of (w := wd) (lo := 0) (n := 12) (v := b.toNat * 64 + 9) (by omega)
  have h5 := fld_of (w := wd) (lo := 0) (n := 25) (v := a.toNat * 4096 + b.toNat * 64 + 16777225) (by omega)
  have h6 := fld_of (w := wd) (lo := 0) (n := 18) (v := a.toNat * 4096 + b.toNat * 64 + 9) (by omega)
  have h7 := bits_of (w := wd) (lo := 12) (x := a) (by omega)
  have h8 := bits_of (w := wd) (lo := 6) (x := b) (by omega)
  simp [h0, h1, h2, h3, h4, h5, h6, h7, h8]
theorem Codec.sysLocq (d : BitVec 6) (a : BitVec 6) : Statement (.sysLocq d a) := by
  intro wd h
  have := d.isLt; have := a.isLt
  have e := word_toNat (Option.some.inj h) (by simp only [pk]; omega)
  simp only [pk] at e
  rw [decode_at_0f (fld_of (by omega))]
  have h0 := fld_of (w := wd) (lo := 24) (n := 1) (v := 1) (by omega)
  have h1 := fld_of (w := wd) (lo := 12) (n := 6) (v := a.toNat * 1 + 0) (by omega)
  have h2 := fld_of (w := wd) (lo := 0) (n := 6) (v := 2) (by omega)
  have h3 := fld_of (w := wd) (lo := 18) (n := 7) (v := d.toNat * 1 + 64) (by omega)
  have h4 := fld_of (w := wd) (lo := 0) (n := 12) (v := 2) (by omega)
  have h5 := fld_of (w := wd) (lo := 0) (n := 25) (v := d.toNat * 262144 + a.toNat * 4096 + 16777218) (by omega)
  have h6 := fld_of (w := wd) (lo := 0) (n := 18) (v := a.toNat * 4096 + 2) (by omega)
  have h7 := bits_of (w := wd) (lo := 18) (x := d) (by omega)
  have h8 := bits_of (w := wd) (lo := 12) (x := a) (by omega)
  simp [h0, h1, h2, h3, h4, h5, h6, h7, h8]
theorem Codec.sysSnap : Statement (.sysSnap) := by
  intro wd h; cases h; rfl
theorem Codec.sysClk (d : BitVec 6) : Statement (.sysClk d) := by
  intro wd h
  have := d.isLt
  have e := word_toNat (Option.some.inj h) (by simp only [pk]; omega)
  simp only [pk] at e
  rw [decode_at_0f (fld_of (by omega))]
  have h0 := fld_of (w := wd) (lo := 24) (n := 1) (v := 1) (by omega)
  have h1 := fld_of (w := wd) (lo := 12) (n := 6) (v := 0) (by omega)
  have h2 := fld_of (w := wd) (lo := 0) (n := 6) (v := 4) (by omega)
  have h3 := fld_of (w := wd) (lo := 18) (n := 7) (v := d.toNat * 1 + 64) (by omega)
  have h4 := fld_of (w := wd) (lo := 0) (n := 12) (v := 4) (by omega)
  have h5 := fld_of (w := wd) (lo := 0) (n := 25) (v := d.toNat * 262144 + 16777220) (by omega)
  have h6 := fld_of (w := wd) (lo := 0) (n := 18) (v := 4) (by omega)
  have h7 := bits_of (w := wd) (lo := 18) (x := d) (by omega)
  simp [h0, h1, h2, h3, h4, h5, h6, h7]
theorem Codec.sysFlagerr (d : BitVec 6) : Statement (.sysFlagerr d) := by
  intro wd h
  have := d.isLt
  have e := word_toNat (Option.some.inj h) (by simp only [pk]; omega)
  simp only [pk] at e
  rw [decode_at_0f (fld_of (by omega))]
  have h0 := fld_of (w := wd) (lo := 24) (n := 1) (v := 1) (by omega)
  have h1 := fld_of (w := wd) (lo := 12) (n := 6) (v := 0) (by omega)
  have h2 := fld_of (w := wd) (lo := 0) (n := 6) (v := 5) (by omega)
  have h3 := fld_of (w := wd) (lo := 18) (n := 7) (v := d.toNat * 1 + 64) (by omega)
  have h4 := fld_of (w := wd) (lo := 0) (n := 12) (v := 5) (by omega)
  have h5 := fld_of (w := wd) (lo := 0) (n := 25) (v := d.toNat * 262144 + 16777221) (by omega)
  have h6 := fld_of (w := wd) (lo := 0) (n := 18) (v := 5) (by omega)
  have h7 := bits_of (w := wd) (lo := 18) (x := d) (by omega)
  simp [h0, h1, h2, h3, h4, h5, h6, h7]
theorem Codec.iadd (u : Bool) (d : BitVec 6) (a : BitVec 6) (b : BitVec 6) (la : Bool) (lb : Bool) (im : Bool) : Statement (.iadd u d a b la lb im) := by
  intro wd h
  obtain ⟨ho, f0, f1, f2, f3, f4, f5, f6, -, -, -, -, -, g4, -⟩ := layoutR (Option.some.inj h) 16 u.toNat d.toNat a.toNat b.toNat la.toNat lb.toNat im.toNat 0 (by simp only [pk]; omega) (by decide) u.toNat_lt d.isLt a.isLt b.isLt la.toNat_lt lb.toNat_lt im.toNat_lt (by decide)
  rw [decode_at_10 ho]
  simp [bit_of (x := u) f0, bits_of (x := d) f1, bits_of (x := a) f2, bits_of (x := b) f3, bit_of (x := la) f4, bit_of (x := lb) f5, bit_of (x := im) f6, g4]
theorem Codec.isub (u : Bool) (d : BitVec 6) (a : BitVec 6) (b : BitVec 6) (la : Bool) (lb : Bool) (im : Bool) : Statement (.isub u d a b la lb im) := by
  intro wd h
  obtain ⟨ho, f0, f1, f2, f3, f4, f5, f6, -, -, -, -, -, g4, -⟩ := layoutR (Option.some.inj h) 17 u.toNat d.toNat a.toNat b.toNat la.toNat lb.toNat im.toNat 0 (by simp only [pk]; omega) (by decide) u.toNat_lt d.isLt a.isLt b.isLt la.toNat_lt lb.toNat_lt im.toNat_lt (by decide)
  rw [decode_at_11 ho]
  simp [bit_of (x := u) f0, bits_of (x := d) f1, bits_of (x := a) f2, bits_of (x := b) f3, bit_of (x := la) f4, bit_of (x := lb) f5, bit_of (x := im) f6, g4]
theorem Codec.imul (u : Bool) (d : BitVec 6) (a : BitVec 6) (b : BitVec 6) (la : Bool) (lb : Bool) (im : Bool) : Statement (.imul u d a b la lb im) := by
  intro wd h
  obtain ⟨ho, f0, f1, f2, f3, f4, f5, f6, -, -, -, -, -, g4, -⟩ := layoutR (Option.some.inj h) 18 u.toNat d.toNat a.toNat b.toNat la.toNat lb.toNat im.toNat 0 (by simp only [pk]; omega) (by decide) u.toNat_lt d.isLt a.isLt b.isLt la.toNat_lt lb.toNat_lt im.toNat_lt (by decide)
  rw [decode_at_12 ho]
  simp [bit_of (x := u) f0, bits_of (x := d) f1, bits_of (x := a) f2, bits_of (x := b) f3, bit_of (x := la) f4, bit_of (x := lb) f5, bit_of (x := im) f6, g4]
theorem Codec.imulh (u : Bool) (d : BitVec 6) (a : BitVec 6) (b : BitVec 6) (la : Bool) (lb : Bool) (im : Bool) : Statement (.imulh u d a b la lb im) := by
  intro wd h
  obtain ⟨ho, f0, f1, f2, f3, f4, f5, f6, -, -, -, -, -, g4, -⟩ := layoutR (Option.some.inj h) 19 u.toNat d.toNat a.toNat b.toNat la.toNat lb.toNat im.toNat 0 (by simp only [pk]; omega) (by decide) u.toNat_lt d.isLt a.isLt b.isLt la.toNat_lt lb.toNat_lt im.toNat_lt (by decide)
  rw [decode_at_13 ho]
  simp [bit_of (x := u) f0, bits_of (x := d) f1, bits_of (x := a) f2, bits_of (x := b) f3, bit_of (x := la) f4, bit_of (x := lb) f5, bit_of (x := im) f6, g4]
theorem Codec.imad (u : Bool) (d : BitVec 6) (a : BitVec 6) (b : BitVec 6) (la : Bool) (lb : Bool) (im : Bool) : Statement (.imad u d a b la lb im) := by
  intro wd h
  obtain ⟨ho, f0, f1, f2, f3, f4, f5, f6, -, -, -, -, -, g4, -⟩ := layoutR (Option.some.inj h) 20 u.toNat d.toNat a.toNat b.toNat la.toNat lb.toNat im.toNat 0 (by simp only [pk]; omega) (by decide) u.toNat_lt d.isLt a.isLt b.isLt la.toNat_lt lb.toNat_lt im.toNat_lt (by decide)
  rw [decode_at_14 ho]
  simp [bit_of (x := u) f0, bits_of (x := d) f1, bits_of (x := a) f2, bits_of (x := b) f3, bit_of (x := la) f4, bit_of (x := lb) f5, bit_of (x := im) f6, g4]
theorem Codec.idivQs (u : Bool) (d : BitVec 6) (a : BitVec 6) (b : BitVec 6) (la : Bool) (lb : Bool) (im : Bool) : Statement (.idivQs u d a b la lb im) := by
  intro wd h
  obtain ⟨ho, f0, f1, f2, f3, f4, f5, f6, -, -, -, -, -, g4, -⟩ := layoutR (Option.some.inj h) 21 u.toNat d.toNat a.toNat b.toNat la.toNat lb.toNat im.toNat 0 (by simp only [pk]; omega) (by decide) u.toNat_lt d.isLt a.isLt b.isLt la.toNat_lt lb.toNat_lt im.toNat_lt (by decide)
  rw [decode_at_15 ho]
  simp [bit_of (x := u) f0, bits_of (x := d) f1, bits_of (x := a) f2, bits_of (x := b) f3, bit_of (x := la) f4, bit_of (x := lb) f5, bit_of (x := im) f6, g4]
theorem Codec.idivQn (u : Bool) (d : BitVec 6) (a : BitVec 6) (b : BitVec 6) (la : Bool) (lb : Bool) (im : Bool) : Statement (.idivQn u d a b la lb im) := by
  intro wd h
  obtain ⟨ho, f0, f1, f2, f3, f4, f5, f6, -, -, -, -, -, g4, -⟩ := layoutR (Option.some.inj h) 21 u.toNat d.toNat a.toNat b.toNat la.toNat lb.toNat im.toNat 1 (by simp only [pk]; omega) (by decide) u.toNat_lt d.isLt a.isLt b.isLt la.toNat_lt lb.toNat_lt im.toNat_lt (by decide)
  rw [decode_at_15 ho]
  simp [bit_of (x := u) f0, bits_of (x := d) f1, bits_of (x := a) f2, bits_of (x := b) f3, bit_of (x := la) f4, bit_of (x := lb) f5, bit_of (x := im) f6, g4]
theorem Codec.idivRs (u : Bool) (d : BitVec 6) (a : BitVec 6) (b : BitVec 6) (la : Bool) (lb : Bool) (im : Bool) : Statement (.idivRs u d a b la lb im) := by
  intro wd h
  obtain ⟨ho, f0, f1, f2, f3, f4, f5, f6, -, -, -, -, -, g4, -⟩ := layoutR (Option.some.inj h) 21 u.toNat d.toNat a.toNat b.toNat la.toNat lb.toNat im.toNat 2 (by simp only [pk]; omega) (by decide) u.toNat_lt d.isLt a.isLt b.isLt la.toNat_lt lb.toNat_lt im.toNat_lt (by decide)
  rw [decode_at_15 ho]
  simp [bit_of (x := u) f0, bits_of (x := d) f1, bits_of (x := a) f2, bits_of (x := b) f3, bit_of (x := la) f4, bit_of (x := lb) f5, bit_of (x := im) f6, g4]
theorem Codec.idivRn (u : Bool) (d : BitVec 6) (a : BitVec 6) (b : BitVec 6) (la : Bool) (lb : Bool) (im : Bool) : Statement (.idivRn u d a b la lb im) := by
  intro wd h
  obtain ⟨ho, f0, f1, f2, f3, f4, f5, f6, -, -, -, -, -, g4, -⟩ := layoutR (Option.some.inj h) 21 u.toNat d.toNat a.toNat b.toNat la.toNat lb.toNat im.toNat 3 (by simp only [pk]; omega) (by decide) u.toNat_lt d.isLt a.isLt b.isLt la.toNat_lt lb.toNat_lt im.toNat_lt (by decide)
  rw [decode_at_15 ho]
  simp [bit_of (x := u) f0, bits_of (x := d) f1, bits_of (x := a) f2, bits_of (x := b) f3, bit_of (x := la) f4, bit_of (x := lb) f5, bit_of (x := im) f6, g4]
theorem Codec.imin (u : Bool) (d : BitVec 6) (a : BitVec 6) (b : BitVec 6) (la : Bool) (lb : Bool) (im : Bool) : Statement (.imin u d a b la lb im) := by
  intro wd h
  obtain ⟨ho, f0, f1, f2, f3, f4, f5, f6, -, -, -, -, -, g4, -⟩ := layoutR (Option.some.inj h) 22 u.toNat d.toNat a.toNat b.toNat la.toNat lb.toNat im.toNat 0 (by simp only [pk]; omega) (by decide) u.toNat_lt d.isLt a.isLt b.isLt la.toNat_lt lb.toNat_lt im.toNat_lt (by decide)
  rw [decode_at_16 ho]
  simp [bit_of (x := u) f0, bits_of (x := d) f1, bits_of (x := a) f2, bits_of (x := b) f3, bit_of (x := la) f4, bit_of (x := lb) f5, bit_of (x := im) f6, g4]
theorem Codec.imax (u : Bool) (d : BitVec 6) (a : BitVec 6) (b : BitVec 6) (la : Bool) (lb : Bool) (im : Bool) : Statement (.imax u d a b la lb im) := by
  intro wd h
  obtain ⟨ho, f0, f1, f2, f3, f4, f5, f6, -, -, -, -, -, g4, -⟩ := layoutR (Option.some.inj h) 23 u.toNat d.toNat a.toNat b.toNat la.toNat lb.toNat im.toNat 0 (by simp only [pk]; omega) (by decide) u.toNat_lt d.isLt a.isLt b.isLt la.toNat_lt lb.toNat_lt im.toNat_lt (by decide)
  rw [decode_at_17 ho]
  simp [bit_of (x := u) f0, bits_of (x := d) f1, bits_of (x := a) f2, bits_of (x := b) f3, bit_of (x := la) f4, bit_of (x := lb) f5, bit_of (x := im) f6, g4]
theorem Codec.iabs (u : Bool) (d : BitVec 6) (a : BitVec 6) (la : Bool) : Statement (.iabs u d a la) := by
  intro wd h
  obtain ⟨ho, f0, f1, f2, -, f4, -, -, -, -, -, -, g3, -, -, g6, -⟩ := layoutR (Option.some.inj h) 24 u.toNat d.toNat a.toNat 0 la.toNat 0 0 0 (by simp only [pk]; omega) (by decide) u.toNat_lt d.isLt a.isLt (by decide) la.toNat_lt (by decide) (by decide) (by decide)
  rw [decode_at_18 ho]
  simp [bit_of (x := u) f0, bits_of (x := d) f1, bits_of (x := a) f2, bit_of (x := la) f4, g3, g6]
theorem Codec.ineg (u : Bool) (d : BitVec 6) (a : BitVec 6) (la : Bool) : Statement (.ineg u d a la) := by
  intro wd h
  obtain ⟨ho, f0, f1, f2, -, f4, -, -, -, -, -, -, g3, -, -, g6, -⟩ := layoutR (Option.some.inj h) 25 u.toNat d.toNat a.toNat 0 la.toNat 0 0 0 (by simp only [pk]; omega) (by decide) u.toNat_lt d.isLt a.isLt (by decide) la.toNat_lt (by decide) (by decide) (by decide)
  rw [decode_at_19 ho]
  simp [bit_of (x := u) f0, bits_of (x := d) f1, bits_of (x := a) f2, bit_of (x := la) f4, g3, g6]
theorem Codec.bitAnd (u : Bool) (d : BitVec 6) (a : BitVec 6) (b : BitVec 6) (la : Bool) (lb : Bool) (im : Bool) : Statement (.bitAnd u d a b la lb im) := by
  intro wd h
  obtain ⟨ho, f0, f1, f2, f3, f4, f5, f6, -, -, -, -, -, g4, -⟩ := layoutR (Option.some.inj h) 26 u.toNat d.toNat a.toNat b.toNat la.toNat lb.toNat im.toNat 0 (by simp only [pk]; omega) (by decide) u.toNat_lt d.isLt a.isLt b.isLt la.toNat_lt lb.toNat_lt im.toNat_lt (by decide)
  rw [decode_at_1a ho]
  simp [bit_of (x := u) f0, bits_of (x := d) f1, bits_of (x := a) f2, bits_of (x := b) f3, bit_of (x := la) f4, bit_of (x := lb) f5, bit_of (x := im) f6, g4]
theorem Codec.bitOr (u : Bool) (d : BitVec 6) (a : BitVec 6) (b : BitVec 6) (la : Bool) (lb : Bool) (im : Bool) : Statement (.bitOr u d a b la lb im) := by
  intro wd h
  obtain ⟨ho, f0, f1, f2, f3, f4, f5, f6, -, -, -, -, -, g4, -⟩ := layoutR (Option.some.inj h) 27 u.toNat d.toNat a.toNat b.toNat la.toNat lb.toNat im.toNat 0 (by simp only [pk]; omega) (by decide) u.toNat_lt d.isLt a.isLt b.isLt la.toNat_lt lb.toNat_lt im.toNat_lt (by decide)
  rw [decode_at_1b ho]
  simp [bit_of (x := u) f0, bits_of (x := d) f1, bits_of (x := a) f2, bits_of (x := b) f3, bit_of (x := la) f4, bit_of (x := lb) f5, bit_of (x := im) f6, g4]
theorem Codec.bitXor (u : Bool) (d : BitVec 6) (a : BitVec 6) (b : BitVec 6) (la : Bool) (lb : Bool) (im : Bool) : Statement (.bitXor u d a b la lb im) := by
  intro wd h
  obtain ⟨ho, f0, f1, f2, f3, f4, f5, f6, -, -, -, -, -, g4, -⟩ := layoutR (Option.some.inj h) 28 u.toNat d.toNat a.toNat b.toNat la.toNat lb.toNat im.toNat 0 (by simp only [pk]; omega) (by decide) u.toNat_lt d.isLt a.isLt b.isLt la.toNat_lt lb.toNat_lt im.toNat_lt (by decide)
  rw [decode_at_1c ho]
  simp [bit_of (x := u) f0, bits_of (x := d) f1, bits_of (x := a) f2, bits_of (x := b) f3, bit_of (x := la) f4, bit_of (x := lb) f5, bit_of (x := im) f6, g4]
theorem Codec.bitAndn (u : Bool) (d : BitVec 6) (a : BitVec 6) (b : BitVec 6) (la : Bool) (lb : Bool) (im : Bool) : Statement (.bitAndn u d a b la lb im) := by
  intro wd h
  obtain ⟨ho, f0, f1, f2, f3, f4, f5, f6, -, -, -, -, -, g4, -⟩ := layoutR (Option.some.inj h) 29 u.toNat d.toNat a.toNat b.toNat la.toNat lb.toNat im.toNat 0 (by simp only [pk]; omega) (by decide) u.toNat_lt d.isLt a.isLt b.isLt la.toNat_lt lb.toNat_lt im.toNat_lt (by decide)
  rw [decode_at_1d ho]
  simp [bit_of (x := u) f0, bits_of (x := d) f1, bits_of (x := a) f2, bits_of (x := b) f3, bit_of (x := la) f4, bit_of (x := lb) f5, bit_of (x := im) f6, g4]
theorem Codec.shl (u : Bool) (d : BitVec 6) (a : BitVec 6) (b : BitVec 6) (la : Bool) (lb : Bool) (im : Bool) : Statement (.shl u d a b la lb im) := by
  intro wd h
  obtain ⟨ho, f0, f1, f2, f3, f4, f5, f6, -, -, -, -, -, g4, -⟩ := layoutR (Option.some.inj h) 30 u.toNat d.toNat a.toNat b.toNat la.toNat lb.toNat im.toNat 0 (by simp only [pk]; omega) (by decide) u.toNat_lt d.isLt a.isLt b.isLt la.toNat_lt lb.toNat_lt im.toNat_lt (by decide)
  rw [decode_at_1e ho]
  simp [bit_of (x := u) f0, bits_of (x := d) f1, bits_of (x := a) f2, bits_of (x := b) f3, bit_of (x := la) f4, bit_of (x := lb) f5, bit_of (x := im) f6, g4]
theorem Codec.shrL (u : Bool) (d : BitVec 6) (a : BitVec 6) (b : BitVec 6) (la : Bool) (lb : Bool) (im : Bool) : Statement (.shrL u d a b la lb im) := by
  intro wd h
  obtain ⟨ho, f0, f1, f2, f3, f4, f5, f6, -, -, -, -, -, g4, -⟩ := layoutR (Option.some.inj h) 31 u.toNat d.toNat a.toNat b.toNat la.toNat lb.toNat im.toNat 0 (by simp only [pk]; omega) (by decide) u.toNat_lt d.isLt a.isLt b.isLt la.toNat_lt lb.toNat_lt im.toNat_lt (by decide)
  rw [decode_at_1f ho]
  simp [bit_of (x := u) f0, bits_of (x := d) f1, bits_of (x := a) f2, bits_of (x := b) f3, bit_of (x := la) f4, bit_of (x := lb) f5, bit_of (x := im) f6, g4]
theorem Codec.shrA (u : Bool) (d : BitVec 6) (a : BitVec 6) (b : BitVec 6) (la : Bool) (lb : Bool) (im : Bool) : Statement (.shrA u d a b la lb im) := by
  intro wd h
  obtain ⟨ho, f0, f1, f2, f3, f4, f5, f6, -, -, -, -, -, g4, -⟩ := layoutR (Option.some.inj h) 31 u.toNat d.toNat a.toNat b.toNat la.toNat lb.toNat im.toNat 1 (by simp only [pk]; omega) (by decide) u.toNat_lt d.isLt a.isLt b.isLt la.toNat_lt lb.toNat_lt im.toNat_lt (by decide)
  rw [decode_at_1f ho]
  simp [bit_of (x := u) f0, bits_of (x := d) f1, bits_of (x := a) f2, bits_of (x := b) f3, bit_of (x := la) f4, bit_of (x := lb) f5, bit_of (x := im) f6, g4]
theorem Codec.rotL (u : Bool) (d : BitVec 6) (a : BitVec 6) (b : BitVec 6) (la : Bool) (lb : Bool) (im : Bool) : Statement (.rotL u d a b la lb im) := by
  intro wd h
  obtain ⟨ho, f0, f1, f2, f3, f4, f5, f6, -, -, -, -, -, g4, -⟩ := layoutR (Option.some.inj h) 32 u.toNat d.toNat a.toNat b.toNat la.toNat lb.toNat im.toNat 0 (by simp only [pk]; omega) (by decide) u.toNat_lt d.isLt a.isLt b.isLt la.toNat_lt lb.toNat_lt im.toNat_lt (by decide)
  rw [decode_at_20 ho]
  simp [bit_of (x := u) f0, bits_of (x := d) f1, bits_of (x := a) f2, bits_of (x := b) f3, bit_of (x := la) f4, bit_of (x := lb) f5, bit_of (x := im) f6, g4]
theorem Codec.rotR (u : Bool) (d : BitVec 6) (a : BitVec 6) (b : BitVec 6) (la : Bool) (lb : Bool) (im : Bool) : Statement (.rotR u d a b la lb im) := by
  intro wd h
  obtain ⟨ho, f0, f1, f2, f3, f4, f5, f6, -, -, -, -, -, g4, -⟩ := layoutR (Option.some.inj h) 32 u.toNat d.toNat a.toNat b.toNat la.toNat lb.toNat im.toNat 1 (by simp only [pk]; omega) (by decide) u.toNat_lt d.isLt a.isLt b.isLt la.toNat_lt lb.toNat_lt im.toNat_lt (by decide)
  rw [decode_at_20 ho]
  simp [bit_of (x := u) f0, bits_of (x := d) f1, bits_of (x := a) f2, bits_of (x := b) f3, bit_of (x := la) f4, bit_of (x := lb) f5, bit_of (x := im) f6, g4]
theorem Codec.bitcPopc (u : Bool) (d : BitVec 6) (a : BitVec 6) (la : Bool) : Statement (.bitcPopc u d a la) := by
  intro wd h
  obtain ⟨ho, f0, f1, f2, -, f4, -, -, -, -, -, -, g3, -, -, g6, -⟩ := layoutR (Option.some.inj h) 33 u.toNat d.toNat a.toNat 0 la.toNat 0 0 0 (by simp only [pk]; omega) (by decide) u.toNat_lt d.isLt a.isLt (by decide) la.toNat_lt (by decide) (by decide) (by decide)
  rw [decode_at_21 ho]
  simp [bit_of (x := u) f0, bits_of (x := d) f1, bits_of (x := a) f2, bit_of (x := la) f4, g3, g6]
theorem Codec.bitcClz (u : Bool) (d : BitVec 6) (a : BitVec 6) (la : Bool) : Statement (.bitcClz u d a la) := by
  intro wd h
  obtain ⟨ho, f0, f1, f2, -, f4, -, -, -, -, -, -, g3, -, -, g6, -⟩ := layoutR (Option.some.inj h) 33 u.toNat d.toNat a.toNat 0 la.toNat 0 0 1 (by simp only [pk]; omega) (by decide) u.toNat_lt d.isLt a.isLt (by decide) la.toNat_lt (by decide) (by decide) (by decide)
  rw [decode_at_21 ho]
  simp [bit_of (x := u) f0, bits_of (x := d) f1, bits_of (x := a) f2, bit_of (x := la) f4, g3, g6]
theorem Codec.bitcCtz (u : Bool) (d : BitVec 6) (a : BitVec 6) (la : Bool) : Statement (.bitcCtz u d a la) := by
  intro wd h
  obtain ⟨ho, f0, f1, f2, -, f4, -, -, -, -, -, -, g3, -, -, g6, -⟩ := layoutR (Option.some.inj h) 33 u.toNat d.toNat a.toNat 0 la.toNat 0 0 2 (by simp only [pk]; omega) (by decide) u.toNat_lt d.isLt a.isLt (by decide) la.toNat_lt (by decide) (by decide) (by decide)
  rw [decode_at_21 ho]
  simp [bit_of (x := u) f0, bits_of (x := d) f1, bits_of (x := a) f2, bit_of (x := la) f4, g3, g6]
theorem Codec.bitcBrev (u : Bool) (d : BitVec 6) (a : BitVec 6) (la : Bool) : Statement (.bitcBrev u d a la) := by
  intro wd h
  obtain ⟨ho, f0, f1, f2, -, f4, -, -, -, -, -, -, g3, -, -, g6, -⟩ := layoutR (Option.some.inj h) 33 u.toNat d.toNat a.toNat 0 la.toNat 0 0 3 (by simp only [pk]; omega) (by decide) u.toNat_lt d.isLt a.isLt (by decide) la.toNat_lt (by decide) (by decide) (by decide)
  rw [decode_at_21 ho]
  simp [bit_of (x := u) f0, bits_of (x := d) f1, bits_of (x := a) f2, bit_of (x := la) f4, g3, g6]
theorem Codec.bfeN (u : Bool) (d : BitVec 6) (a : BitVec 6) (b : BitVec 6) (la : Bool) (lb : Bool) : Statement (.bfeN u d a b la lb) := by
  intro wd h
  obtain ⟨ho, f0, f1, f2, f3, f4, f5, -, -, -, -, -, -, -, g5, -⟩ := layoutR (Option.some.inj h) 34 u.toNat d.toNat a.toNat b.toNat la.toNat lb.toNat 0 0 (by simp only [pk]; omega) (by decide) u.toNat_lt d.isLt a.isLt b.isLt la.toNat_lt lb.toNat_lt (by decide) (by decide)
  rw [decode_at_22 ho]
  simp [bit_of (x := u) f0, bits_of (x := d) f1, bits_of (x := a) f2, bits_of (x := b) f3, bit_of (x := la) f4, bit_of (x := lb) f5, g5]
theorem Codec.bfeS (u : Bool) (d : BitVec 6) (a : BitVec 6) (b : BitVec 6) (la : Bool) (lb : Bool) : Statement (.bfeS u d a b la lb) := by
  intro wd h
  obtain ⟨ho, f0, f1, f2, f3, f4, f5, -, -, -, -, -, -, -, g5, -⟩ := layoutR (Option.some.inj h) 34 u.toNat d.toNat a.toNat b.toNat la.toNat lb.toNat 0 1 (by simp only [pk]; omega) (by decide) u.toNat_lt d.isLt a.isLt b.isLt la.toNat_lt lb.toNat_lt (by decide) (by decide)
  rw [decode_at_22 ho]
  simp [bit_of (x := u) f0, bits_of (x := d) f1, bits_of (x := a) f2, bits_of (x := b) f3, bit_of (x := la) f4, bit_of (x := lb) f5, g5]
theorem Codec.bfi (u : Bool) (d : BitVec 6) (a : BitVec 6) (b : BitVec 6) (la : Bool) (lb : Bool) : Statement (.bfi u d a b la lb) := by
  intro wd h
  obtain ⟨ho, f0, f1, f2, f3, f4, f5, -, -, -, -, -, -, -, g5, -⟩ := layoutR (Option.some.inj h) 35 u.toNat d.toNat a.toNat b.toNat la.toNat lb.toNat 0 0 (by simp only [pk]; omega) (by decide) u.toNat_lt d.isLt a.isLt b.isLt la.toNat_lt lb.toNat_lt (by decide) (by decide)
  rw [decode_at_23 ho]
  simp [bit_of (x := u) f0, bits_of (x := d) f1, bits_of (x := a) f2, bits_of (x := b) f3, bit_of (x := la) f4, bit_of (x := lb) f5, g5]
theorem Codec.icmpEq (u : Bool) (d : BitVec 6) (a : BitVec 6) (b : BitVec 6) (la : Bool) (lb : Bool) (im : Bool) : Statement (.icmpEq u d a b la lb im) := by
  intro wd h
  obtain ⟨ho, f0, f1, f2, f3, f4, f5, f6, -, -, -, -, -, g4, -⟩ := layoutR (Option.some.inj h) 36 u.toNat d.toNat a.toNat b.toNat la.toNat lb.toNat im.toNat 0 (by simp only [pk]; omega) (by decide) u.toNat_lt d.isLt a.isLt b.isLt la.toNat_lt lb.toNat_lt im.toNat_lt (by decide)
  rw [decode_at_24 ho]
  simp [bit_of (x := u) f0, bits_of (x := d) f1, bits_of (x := a) f2, bits_of (x := b) f3, bit_of (x := la) f4, bit_of (x := lb) f5, bit_of (x := im) f6, g4]
theorem Codec.icmpNe (u : Bool) (d : BitVec 6) (a : BitVec 6) (b : BitVec 6) (la : Bool) (lb : Bool) (im : Bool) : Statement (.icmpNe u d a b la lb im) := by
  intro wd h
  obtain ⟨ho, f0, f1, f2, f3, f4, f5, f6, -, -, -, -, -, g4, -⟩ := layoutR (Option.some.inj h) 36 u.toNat d.toNat a.toNat b.toNat la.toNat lb.toNat im.toNat 1 (by simp only [pk]; omega) (by decide) u.toNat_lt d.isLt a.isLt b.isLt la.toNat_lt lb.toNat_lt im.toNat_lt (by decide)
  rw [decode_at_24 ho]
  simp [bit_of (x := u) f0, bits_of (x := d) f1, bits_of (x := a) f2, bits_of (x := b) f3, bit_of (x := la) f4, bit_of (x := lb) f5, bit_of (x := im) f6, g4]
theorem Codec.icmpLt (u : Bool) (d : BitVec 6) (a : BitVec 6) (b : BitVec 6) (la : Bool) (lb : Bool) (im : Bool) : Statement (.icmpLt u d a b la lb im) := by
  intro wd h
  obtain ⟨ho, f0, f1, f2, f3, f4, f5, f6, -, -, -, -, -, g4, -⟩ := layoutR (Option.some.inj h) 36 u.toNat d.toNat a.toNat b.toNat la.toNat lb.toNat im.toNat 2 (by simp only [pk]; omega) (by decide) u.toNat_lt d.isLt a.isLt b.isLt la.toNat_lt lb.toNat_lt im.toNat_lt (by decide)
  rw [decode_at_24 ho]
  simp [bit_of (x := u) f0, bits_of (x := d) f1, bits_of (x := a) f2, bits_of (x := b) f3, bit_of (x := la) f4, bit_of (x := lb) f5, bit_of (x := im) f6, g4]
theorem Codec.icmpLe (u : Bool) (d : BitVec 6) (a : BitVec 6) (b : BitVec 6) (la : Bool) (lb : Bool) (im : Bool) : Statement (.icmpLe u d a b la lb im) := by
  intro wd h
  obtain ⟨ho, f0, f1, f2, f3, f4, f5, f6, -, -, -, -, -, g4, -⟩ := layoutR (Option.some.inj h) 36 u.toNat d.toNat a.toNat b.toNat la.toNat lb.toNat im.toNat 3 (by simp only [pk]; omega) (by decide) u.toNat_lt d.isLt a.isLt b.isLt la.toNat_lt lb.toNat_lt im.toNat_lt (by decide)
  rw [decode_at_24 ho]
  simp [bit_of (x := u) f0, bits_of (x := d) f1, bits_of (x := a) f2, bits_of (x := b) f3, bit_of (x := la) f4, bit_of (x := lb) f5, bit_of (x := im) f6, g4]
theorem Codec.icmpGt (u : Bool) (d : BitVec 6) (a : BitVec 6) (b : BitVec 6) (la : Bool) (lb : Bool) (im : Bool) : Statement (.icmpGt u d a b la lb im) := by
  intro wd h
  obtain ⟨ho, f0, f1, f2, f3, f4, f5, f6, -, -, -, -, -, g4, -⟩ := layoutR (Option.some.inj h) 36 u.toNat d.toNat a.toNat b.toNat la.toNat lb.toNat im.toNat 4 (by simp only [pk]; omega) (by decide) u.toNat_lt d.isLt a.isLt b.isLt la.toNat_lt lb.toNat_lt im.toNat_lt (by decide)
  rw [decode_at_24 ho]
  simp [bit_of (x := u) f0, bits_of (x := d) f1, bits_of (x := a) f2, bits_of (x := b) f3, bit_of (x := la) f4, bit_of (x := lb) f5, bit_of (x := im) f6, g4]
theorem Codec.icmpGe (u : Bool) (d : BitVec 6) (a : BitVec 6) (b : BitVec 6) (la : Bool) (lb : Bool) (im : Bool) : Statement (.icmpGe u d a b la lb im) := by
  intro wd h
  obtain ⟨ho, f0, f1, f2, f3, f4, f5, f6, -, -, -, -, -, g4, -⟩ := layoutR (Option.some.inj h) 36 u.toNat d.toNat a.toNat b.toNat la.toNat lb.toNat im.toNat 5 (by simp only [pk]; omega) (by decide) u.toNat_lt d.isLt a.isLt b.isLt la.toNat_lt lb.toNat_lt im.toNat_lt (by decide)
  rw [decode_at_24 ho]
  simp [bit_of (x := u) f0, bits_of (x := d) f1, bits_of (x := a) f2, bits_of (x := b) f3, bit_of (x := la) f4, bit_of (x := lb) f5, bit_of (x := im) f6, g4]
theorem Codec.sel (u : Bool) (d : BitVec 6) (a : BitVec 6) (b : BitVec 6) (la : Bool) (lb : Bool) (im : Bool) (pr : BitVec 3) : Statement (.sel u d a b la lb im pr) := by
  intro wd h
  obtain ⟨ho, f0, f1, f2, f3, f4, f5, f6, f7, -⟩ := layoutR (Option.some.inj h) 37 u.toNat d.toNat a.toNat b.toNat la.toNat lb.toNat im.toNat pr.toNat (by simp only [pk]; omega) (by decide) u.toNat_lt d.isLt a.isLt b.isLt la.toNat_lt lb.toNat_lt im.toNat_lt pr.isLt
  rw [decode_at_25 ho]
  simp [bit_of (x := u) f0, bits_of (x := d) f1, bits_of (x := a) f2, bits_of (x := b) f3, bit_of (x := la) f4, bit_of (x := lb) f5, bit_of (x := im) f6, bits_of (x := pr) f7]
theorem Codec.mov (u : Bool) (d : BitVec 6) (a : BitVec 6) (la : Bool) : Statement (.mov u d a la) := by
  intro wd h
  obtain ⟨ho, f0, f1, f2, -, f4, -, -, -, g0, -, -, g3, -, -, g6, -, g8, -⟩ := layoutR (Option.some.inj h) 38 u.toNat d.toNat a.toNat 0 la.toNat 0 0 0 (by simp only [pk]; omega) (by decide) u.toNat_lt d.isLt a.isLt (by decide) la.toNat_lt (by decide) (by decide) (by decide)
  rw [decode_at_26 ho]
  simp [bit_of (x := u) f0, bits_of (x := d) f1, bits_of (x := a) f2, bit_of (x := la) f4, g3, g6, g8, g0]
theorem Codec.movSpecial (u : Bool) (d : BitVec 6) (a : BitVec 6) : Statement (.movSpecial u d a) := by
  intro wd h
  obtain ⟨ho, f0, f1, f2, -, -, -, -, -, g0, -, -, g3, -, -, g6, -, g8, -⟩ := layoutR (Option.some.inj h) 38 u.toNat d.toNat a.toNat 0 0 0 0 1 (by simp only [pk]; omega) (by decide) u.toNat_lt d.isLt a.isLt (by decide) (by decide) (by decide) (by decide) (by decide)
  rw [decode_at_26 ho]
  simp [bit_of (x := u) f0, bits_of (x := d) f1, bits_of (x := a) f2, g3, g6, g8, g0]
theorem Codec.movG (d : BitVec 6) (a : BitVec 6) : Statement (.movG d a) := by
  intro wd h
  obtain ⟨ho, -, f1, f2, -, -, -, -, -, g0, -, -, g3, -, -, g6, -, g8, -⟩ := layoutR (Option.some.inj h) 38 0 d.toNat a.toNat 0 0 0 0 2 (by simp only [pk]; omega) (by decide) (by decide) d.isLt a.isLt (by decide) (by decide) (by decide) (by decide) (by decide)
  rw [decode_at_26 ho]
  simp [bits_of (x := d) f1, bits_of (x := a) f2, g3, g6, g8, g0]
theorem Codec.plogAnd (d : BitVec 6) (a : BitVec 6) (b : BitVec 6) : Statement (.plogAnd d a b) := by
  intro wd h
  obtain ⟨ho, -, f1, f2, f3, -, -, -, -, g0, -, -, -, -, -, -, g7, g8, -⟩ := layoutR (Option.some.inj h) 39 0 d.toNat a.toNat b.toNat 0 0 0 0 (by simp only [pk]; omega) (by decide) (by decide) d.isLt a.isLt b.isLt (by decide) (by decide) (by decide) (by decide)
  rw [decode_at_27 ho]
  simp [bits_of (x := d) f1, bits_of (x := a) f2, bits_of (x := b) f3, g0, g7, g8]
theorem Codec.plogOr (d : BitVec 6) (a : BitVec 6) (b : BitVec 6) : Statement (.plogOr d a b) := by
  intro wd h
  obtain ⟨ho, -, f1, f2, f3, -, -, -, -, g0, -, -, -, -, -, -, g7, g8, -⟩ := layoutR (Option.some.inj h) 39 0 d.toNat a.toNat b.toNat 0 0 0 1 (by simp only [pk]; omega) (by decide) (by decide) d.isLt a.isLt b.isLt (by decide) (by decide) (by decide) (by decide)
  rw [decode_at_27 ho]
  simp [bits_of (x := d) f1, bits_of (x := a) f2, bits_of (x := b) f3, g0, g7, g8]
theorem Codec.plogXor (d : BitVec 6) (a : BitVec 6) (b : BitVec 6) : Statement (.plogXor d a b) := by
  intro wd h
  obtain ⟨ho, -, f1, f2, f3, -, -, -, -, g0, -, -, -, -, -, -, g7, g8, -⟩ := layoutR (Option.some.inj h) 39 0 d.toNat a.toNat b.toNat 0 0 0 2 (by simp only [pk]; omega) (by decide) (by decide) d.isLt a.isLt b.isLt (by decide) (by decide) (by decide) (by decide)
  rw [decode_at_27 ho]
  simp [bits_of (x := d) f1, bits_of (x := a) f2, bits_of (x := b) f3, g0, g7, g8]
theorem Codec.plogAndn (d : BitVec 6) (a : BitVec 6) (b : BitVec 6) : Statement (.plogAndn d a b) := by
  intro wd h
  obtain ⟨ho, -, f1, f2, f3, -, -, -, -, g0, -, -, -, -, -, -, g7, g8, -⟩ := layoutR (Option.some.inj h) 39 0 d.toNat a.toNat b.toNat 0 0 0 3 (by simp only [pk]; omega) (by decide) (by decide) d.isLt a.isLt b.isLt (by decide) (by decide) (by decide) (by decide)
  rw [decode_at_27 ho]
  simp [bits_of (x := d) f1, bits_of (x := a) f2, bits_of (x := b) f3, g0, g7, g8]
theorem Codec.plogNot (d : BitVec 6) (a : BitVec 6) : Statement (.plogNot d a) := by
  intro wd h
  obtain ⟨ho, -, f1, f2, -, -, -, -, -, g0, -, -, -, -, -, -, g7, g8, -⟩ := layoutR (Option.some.inj h) 39 0 d.toNat a.toNat 0 0 0 0 4 (by simp only [pk]; omega) (by decide) (by decide) d.isLt a.isLt (by decide) (by decide) (by decide) (by decide) (by decide)
  rw [decode_at_27 ho]
  simp [bits_of (x := d) f1, bits_of (x := a) f2, g0, g7, g8]
theorem Codec.plogFromg (d : BitVec 6) (a : BitVec 6) : Statement (.plogFromg d a) := by
  intro wd h
  obtain ⟨ho, -, f1, f2, -, -, -, -, -, g0, -, -, -, -, -, -, g7, g8, -⟩ := layoutR (Option.some.inj h) 39 1 d.toNat a.toNat 0 0 0 0 5 (by simp only [pk]; omega) (by decide) (by decide) d.isLt a.isLt (by decide) (by decide) (by decide) (by decide) (by decide)
  rw [decode_at_27 ho]
  simp [bits_of (x := d) f1, bits_of (x := a) f2, g0, g7, g8]
theorem Codec.plogTog (d : BitVec 6) (a : BitVec 6) : Statement (.plogTog d a) := by
  intro wd h
  obtain ⟨ho, -, f1, f2, -, -, -, -, -, g0, -, -, -, -, -, -, g7, g8, -⟩ := layoutR (Option.some.inj h) 39 1 d.toNat a.toNat 0 0 0 0 6 (by simp only [pk]; omega) (by decide) (by decide) d.isLt a.isLt (by decide) (by decide) (by decide) (by decide) (by decide)
  rw [decode_at_27 ho]
  simp [bits_of (x := d) f1, bits_of (x := a) f2, g0, g7, g8]
theorem Codec.ldi (u : Bool) (d : BitVec 6) (imm : BitVec 18) : Statement (.ldi u d imm) := by
  intro wd h
  have := u.toNat_lt; have := d.isLt; have := imm.isLt
  have e := word_toNat (Option.some.inj h) (by simp only [pk]; omega)
  simp only [pk] at e
  rw [decode_at_28 (fld_of (by omega))]
  have h0 := bit_of (w := wd) (lo := 24) (x := u) (by omega)
  have h1 := bits_of (w := wd) (lo := 18) (x := d) (by omega)
  have h2 := bits_of (w := wd) (lo := 0) (x := imm) (by omega)
  simp [h0, h1, h2]
theorem Codec.khi (u : Bool) (d : BitVec 6) (imm : BitVec 18) : Statement (.khi u d imm) := by
  intro wd h
  have := u.toNat_lt; have := d.isLt; have := imm.isLt
  have e := word_toNat (Option.some.inj h) (by simp only [pk]; omega)
  simp only [pk] at e
  rw [decode_at_29 (fld_of (by omega))]
  have h0 := bit_of (w := wd) (lo := 24) (x := u) (by omega)
  have h1 := bits_of (w := wd) (lo := 18) (x := d) (by omega)
  have h2 := bits_of (w := wd) (lo := 0) (x := imm) (by omega)
  simp [h0, h1, h2]
theorem Codec.lea (u : Bool) (d : BitVec 6) (gb : BitVec 5) (ix : BitVec 6) (li : Bool) (sx : Bool) (w : BitVec 3) : Statement (.lea u d gb ix li sx w) := by
  intro wd h
  have := u.toNat_lt; have := d.isLt; have := gb.isLt; have := ix.isLt; have := li.toNat_lt; have := sx.toNat_lt; have := w.isLt
  have e := word_toNat (Option.some.inj h) (by simp only [pk]; omega)
  simp only [pk] at e
  rw [decode_at_2a (fld_of (by omega))]
  have h0 := fld_of (w := wd) (lo := 6) (n := 1) (v := 0) (by omega)
  have h1 := fld_of (w := wd) (lo := 3) (n := 1) (v := 0) (by omega)
  have h2 := bit_of (w := wd) (lo := 24) (x := u) (by omega)
  have h3 := bits_of (w := wd) (lo := 18) (x := d) (by omega)
  have h4 := bits_of (w := wd) (lo := 13) (x := gb) (by omega)
  have h5 := bits_of (w := wd) (lo := 7) (x := ix) (by omega)
  have h6 := bit_of (w := wd) (lo := 5) (x := li) (by omega)
  have h7 := bit_of (w := wd) (lo := 4) (x := sx) (by omega)
  have h8 := bits_of (w := wd) (lo := 0) (x := w) (by omega)
  simp [h0, h1, h2, h3, h4, h5, h6, h7, h8]
theorem Codec.shflIdx (d : BitVec 6) (a : BitVec 6) (b : BitVec 6) (la : Bool) (lb : Bool) (im : Bool) : Statement (.shflIdx d a b la lb im) := by
  intro wd h
  obtain ⟨ho, -, f1, f2, f3, f4, f5, f6, -, g0, -, -, -, g4, -⟩ := layoutR (Option.some.inj h) 43 0 d.toNat a.toNat b.toNat la.toNat lb.toNat im.toNat 0 (by simp only [pk]; omega) (by decide) (by decide) d.isLt a.isLt b.isLt la.toNat_lt lb.toNat_lt im.toNat_lt (by decide)
  rw [decode_at_2b ho]
  simp [bits_of (x := d) f1, bits_of (x := a) f2, bits_of (x := b) f3, bit_of (x := la) f4, bit_of (x := lb) f5, bit_of (x := im) f6, g0, g4]
theorem Codec.shflUp (d : BitVec 6) (a : BitVec 6) (b : BitVec 6) (la : Bool) (lb : Bool) (im : Bool) : Statement (.shflUp d a b la lb im) := by
  intro wd h
  obtain ⟨ho, -, f1, f2, f3, f4, f5, f6, -, g0, -, -, -, g4, -⟩ := layoutR (Option.some.inj h) 43 0 d.toNat a.toNat b.toNat la.toNat lb.toNat im.toNat 1 (by simp only [pk]; omega) (by decide) (by decide) d.isLt a.isLt b.isLt la.toNat_lt lb.toNat_lt im.toNat_lt (by decide)
  rw [decode_at_2b ho]
  simp [bits_of (x := d) f1, bits_of (x := a) f2, bits_of (x := b) f3, bit_of (x := la) f4, bit_of (x := lb) f5, bit_of (x := im) f6, g0, g4]
theorem Codec.shflDown (d : BitVec 6) (a : BitVec 6) (b : BitVec 6) (la : Bool) (lb : Bool) (im : Bool) : Statement (.shflDown d a b la lb im) := by
  intro wd h
  obtain ⟨ho, -, f1, f2, f3, f4, f5, f6, -, g0, -, -, -, g4, -⟩ := layoutR (Option.some.inj h) 43 0 d.toNat a.toNat b.toNat la.toNat lb.toNat im.toNat 2 (by simp only [pk]; omega) (by decide) (by decide) d.isLt a.isLt b.isLt la.toNat_lt lb.toNat_lt im.toNat_lt (by decide)
  rw [decode_at_2b ho]
  simp [bits_of (x := d) f1, bits_of (x := a) f2, bits_of (x := b) f3, bit_of (x := la) f4, bit_of (x := lb) f5, bit_of (x := im) f6, g0, g4]
theorem Codec.shflXor (d : BitVec 6) (a : BitVec 6) (b : BitVec 6) (la : Bool) (lb : Bool) (im : Bool) : Statement (.shflXor d a b la lb im) := by
  intro wd h
  obtain ⟨ho, -, f1, f2, f3, f4, f5, f6, -, g0, -, -, -, g4, -⟩ := layoutR (Option.some.inj h) 43 0 d.toNat a.toNat b.toNat la.toNat lb.toNat im.toNat 3 (by simp only [pk]; omega) (by decide) (by decide) d.isLt a.isLt b.isLt la.toNat_lt lb.toNat_lt im.toNat_lt (by decide)
  rw [decode_at_2b ho]
  simp [bits_of (x := d) f1, bits_of (x := a) f2, bits_of (x := b) f3, bit_of (x := la) f4, bit_of (x := lb) f5, bit_of (x := im) f6, g0, g4]
theorem Codec.voteAny (d : BitVec 6) (a : BitVec 6) : Statement (.voteAny d a) := by
  intro wd h
  obtain ⟨ho, -, f1, f2, -, -, -, -, -, g0, -, -, g3, -, -, g6, -, g8, -⟩ := layoutR (Option.some.inj h) 44 0 d.toNat a.toNat 0 0 0 0 0 (by simp only [pk]; omega) (by decide) (by decide) d.isLt a.isLt (by decide) (by decide) (by decide) (by decide) (by decide)
  rw [decode_at_2c ho]
  simp [bits_of (x := d) f1, bits_of (x := a) f2, g0, g8, g3, g6]
theorem Codec.voteAll (d : BitVec 6) (a : BitVec 6) : Statement (.voteAll d a) := by
  intro wd h
  obtain ⟨ho, -, f1, f2, -, -, -, -, -, g0, -, -, g3, -, -, g6, -, g8, -⟩ := layoutR (Option.some.inj h) 44 0 d.toNat a.toNat 0 0 0 0 1 (by simp only [pk]; omega) (by decide) (by decide) d.isLt a.isLt (by decide) (by decide) (by decide) (by decide) (by decide)
  rw [decode_at_2c ho]
  simp [bits_of (x := d) f1, bits_of (x := a) f2, g0, g8, g3, g6]
theorem Codec.voteBal (d : BitVec 6) (a : BitVec 6) : Statement (.voteBal d a) := by
  intro wd h
  obtain ⟨ho, -, f1, f2, -, -, -, -, -, g0, -, -, g3, -, -, g6, -, g8, -⟩ := layoutR (Option.some.inj h) 44 0 d.toNat a.toNat 0 0 0 0 2 (by simp only [pk]; omega) (by decide) (by decide) d.isLt a.isLt (by decide) (by decide) (by decide) (by decide) (by decide)
  rw [decode_at_2c ho]
  simp [bits_of (x := d) f1, bits_of (x := a) f2, g0, g8, g3, g6]
theorem Codec.voteEq (d : BitVec 6) (a : BitVec 6) (la : Bool) : Statement (.voteEq d a la) := by
  intro wd h
  obtain ⟨ho, -, f1, f2, -, f4, -, -, -, g0, -, -, g3, -, -, g6, -, g8, -⟩ := layoutR (Option.some.inj h) 44 0 d.toNat a.toNat 0 la.toNat 0 0 3 (by simp only [pk]; omega) (by decide) (by decide) d.isLt a.isLt (by decide) la.toNat_lt (by decide) (by decide) (by decide)
  rw [decode_at_2c ho]
  simp [bits_of (x := d) f1, bits_of (x := a) f2, bit_of (x := la) f4, g0, g8, g3, g6]
theorem Codec.lredIadd (d : BitVec 6) (a : BitVec 6) (la : Bool) : Statement (.lredIadd d a la) := by
  intro wd h
  obtain ⟨ho, -, f1, f2, -, f4, -, -, -, g0, -, -, g3, -, -, g6, -⟩ := layoutR (Option.some.inj h) 45 0 d.toNat a.toNat 0 la.toNat 0 0 0 (by simp only [pk]; omega) (by decide) (by decide) d.isLt a.isLt (by decide) la.toNat_lt (by decide) (by decide) (by decide)
  rw [decode_at_2d ho]
  simp [bits_of (x := d) f1, bits_of (x := a) f2, bit_of (x := la) f4, g0, g3, g6]
theorem Codec.lredFadd (d : BitVec 6) (a : BitVec 6) (la : Bool) : Statement (.lredFadd d a la) := by
  intro wd h
  obtain ⟨ho, -, f1, f2, -, f4, -, -, -, g0, -, -, g3, -, -, g6, -⟩ := layoutR (Option.some.inj h) 45 0 d.toNat a.toNat 0 la.toNat 0 0 1 (by simp only [pk]; omega) (by decide) (by decide) d.isLt a.isLt (by decide) la.toNat_lt (by decide) (by decide) (by decide)
  rw [decode_at_2d ho]
  simp [bits_of (x := d) f1, bits_of (x := a) f2, bit_of (x := la) f4, g0, g3, g6]
theorem Codec.lredMin (d : BitVec 6) (a : BitVec 6) (la : Bool) : Statement (.lredMin d a la) := by
  intro wd h
  obtain ⟨ho, -, f1, f2, -, f4, -, -, -, g0, -, -, g3, -, -, g6, -⟩ := layoutR (Option.some.inj h) 45 0 d.toNat a.toNat 0 la.toNat 0 0 2 (by simp only [pk]; omega) (by decide) (by decide) d.isLt a.isLt (by decide) la.toNat_lt (by decide) (by decide) (by decide)
  rw [decode_at_2d ho]
  simp [bits_of (x := d) f1, bits_of (x := a) f2, bit_of (x := la) f4, g0, g3, g6]
theorem Codec.lredMax (d : BitVec 6) (a : BitVec 6) (la : Bool) : Statement (.lredMax d a la) := by
  intro wd h
  obtain ⟨ho, -, f1, f2, -, f4, -, -, -, g0, -, -, g3, -, -, g6, -⟩ := layoutR (Option.some.inj h) 45 0 d.toNat a.toNat 0 la.toNat 0 0 3 (by simp only [pk]; omega) (by decide) (by decide) d.isLt a.isLt (by decide) la.toNat_lt (by decide) (by decide) (by decide)
  rw [decode_at_2d ho]
  simp [bits_of (x := d) f1, bits_of (x := a) f2, bit_of (x := la) f4, g0, g3, g6]
theorem Codec.lredAmax (d : BitVec 6) (a : BitVec 6) (la : Bool) : Statement (.lredAmax d a la) := by
  intro wd h
  obtain ⟨ho, -, f1, f2, -, f4, -, -, -, g0, -, -, g3, -, -, g6, -⟩ := layoutR (Option.some.inj h) 45 0 d.toNat a.toNat 0 la.toNat 0 0 4 (by simp only [pk]; omega) (by decide) (by decide) d.isLt a.isLt (by decide) la.toNat_lt (by decide) (by decide) (by decide)
  rw [decode_at_2d ho]
  simp [bits_of (x := d) f1, bits_of (x := a) f2, bit_of (x := la) f4, g0, g3, g6]
theorem Codec.lredAnd (d : BitVec 6) (a : BitVec 6) (la : Bool) : Statement (.lredAnd d a la) := by
  intro wd h
  obtain ⟨ho, -, f1, f2, -, f4, -, -, -, g0, -, -, g3, -, -, g6, -⟩ := layoutR (Option.some.inj h) 45 0 d.toNat a.toNat 0 la.toNat 0 0 5 (by simp only [pk]; omega) (by decide) (by decide) d.isLt a.isLt (by decide) la.toNat_lt (by decide) (by decide) (by decide)
  rw [decode_at_2d ho]
  simp [bits_of (x := d) f1, bits_of (x := a) f2, bit_of (x := la) f4, g0, g3, g6]
theorem Codec.lredOr (d : BitVec 6) (a : BitVec 6) (la : Bool) : Statement (.lredOr d a la) := by
  intro wd h
  obtain ⟨ho, -, f1, f2, -, f4, -, -, -, g0, -, -, g3, -, -, g6, -⟩ := layoutR (Option.some.inj h) 45 0 d.toNat a.toNat 0 la.toNat 0 0 6 (by simp only [pk]; omega) (by decide) (by decide) d.isLt a.isLt (by decide) la.toNat_lt (by decide) (by decide) (by decide)
  rw [decode_at_2d ho]
  simp [bits_of (x := d) f1, bits_of (x := a) f2, bit_of (x := la) f4, g0, g3, g6]
theorem Codec.lredXor (d : BitVec 6) (a : BitVec 6) (la : Bool) : Statement (.lredXor d a la) := by
  intro wd h
  obtain ⟨ho, -, f1, f2, -, f4, -, -, -, g0, -, -, g3, -, -, g6, -⟩ := layoutR (Option.some.inj h) 45 0 d.toNat a.toNat 0 la.toNat 0 0 7 (by simp only [pk]; omega) (by decide) (by decide) d.isLt a.isLt (by decide) la.toNat_lt (by decide) (by decide) (by decide)
  rw [decode_at_2d ho]
  simp [bits_of (x := d) f1, bits_of (x := a) f2, bit_of (x := la) f4, g0, g3, g6]
theorem Codec.lscanIadd (d : BitVec 6) (a : BitVec 6) (la : Bool) : Statement (.lscanIadd d a la) := by
  intro wd h
  obtain ⟨ho, -, f1, f2, -, f4, -, -, -, g0, -, -, g3, -, -, g6, -⟩ := layoutR (Option.some.inj h) 46 0 d.toNat a.toNat 0 la.toNat 0 0 0 (by simp only [pk]; omega) (by decide) (by decide) d.isLt a.isLt (by decide) la.toNat_lt (by decide) (by decide) (by decide)
  rw [decode_at_2e ho]
  simp [bits_of (x := d) f1, bits_of (x := a) f2, bit_of (x := la) f4, g0, g3, g6]
theorem Codec.lscanFadd (d : BitVec 6) (a : BitVec 6) (la : Bool) : Statement (.lscanFadd d a la) := by
  intro wd h
  obtain ⟨ho, -, f1, f2, -, f4, -, -, -, g0, -, -, g3, -, -, g6, -⟩ := layoutR (Option.some.inj h) 46 0 d.toNat a.toNat 0 la.toNat 0 0 1 (by simp only [pk]; omega) (by decide) (by decide) d.isLt a.isLt (by decide) la.toNat_lt (by decide) (by decide) (by decide)
  rw [decode_at_2e ho]
  simp [bits_of (x := d) f1, bits_of (x := a) f2, bit_of (x := la) f4, g0, g3, g6]
theorem Codec.lscanMin (d : BitVec 6) (a : BitVec 6) (la : Bool) : Statement (.lscanMin d a la) := by
  intro wd h
  obtain ⟨ho, -, f1, f2, -, f4, -, -, -, g0, -, -, g3, -, -, g6, -⟩ := layoutR (Option.some.inj h) 46 0 d.toNat a.toNat 0 la.toNat 0 0 2 (by simp only [pk]; omega) (by decide) (by decide) d.isLt a.isLt (by decide) la.toNat_lt (by decide) (by decide) (by decide)
  rw [decode_at_2e ho]
  simp [bits_of (x := d) f1, bits_of (x := a) f2, bit_of (x := la) f4, g0, g3, g6]
theorem Codec.lscanMax (d : BitVec 6) (a : BitVec 6) (la : Bool) : Statement (.lscanMax d a la) := by
  intro wd h
  obtain ⟨ho, -, f1, f2, -, f4, -, -, -, g0, -, -, g3, -, -, g6, -⟩ := layoutR (Option.some.inj h) 46 0 d.toNat a.toNat 0 la.toNat 0 0 3 (by simp only [pk]; omega) (by decide) (by decide) d.isLt a.isLt (by decide) la.toNat_lt (by decide) (by decide) (by decide)
  rw [decode_at_2e ho]
  simp [bits_of (x := d) f1, bits_of (x := a) f2, bit_of (x := la) f4, g0, g3, g6]
theorem Codec.lscanAnd (d : BitVec 6) (a : BitVec 6) (la : Bool) : Statement (.lscanAnd d a la) := by
  intro wd h
  obtain ⟨ho, -, f1, f2, -, f4, -, -, -, g0, -, -, g3, -, -, g6, -⟩ := layoutR (Option.some.inj h) 46 0 d.toNat a.toNat 0 la.toNat 0 0 4 (by simp only [pk]; omega) (by decide) (by decide) d.isLt a.isLt (by decide) la.toNat_lt (by decide) (by decide) (by decide)
  rw [decode_at_2e ho]
  simp [bits_of (x := d) f1, bits_of (x := a) f2, bit_of (x := la) f4, g0, g3, g6]
theorem Codec.lscanOr (d : BitVec 6) (a : BitVec 6) (la : Bool) : Statement (.lscanOr d a la) := by
  intro wd h
  obtain ⟨ho, -, f1, f2, -, f4, -, -, -, g0, -, -, g3, -, -, g6, -⟩ := layoutR (Option.some.inj h) 46 0 d.toNat a.toNat 0 la.toNat 0 0 5 (by simp only [pk]; omega) (by decide) (by decide) d.isLt a.isLt (by decide) la.toNat_lt (by decide) (by decide) (by decide)
  rw [decode_at_2e ho]
  simp [bits_of (x := d) f1, bits_of (x := a) f2, bit_of (x := la) f4, g0, g3, g6]
theorem Codec.lscanXor (d : BitVec 6) (a : BitVec 6) (la : Bool) : Statement (.lscanXor d a la) := by
  intro wd h
  obtain ⟨ho, -, f1, f2, -, f4, -, -, -, g0, -, -, g3, -, -, g6, -⟩ := layoutR (Option.some.inj h) 46 0 d.toNat a.toNat 0 la.toNat 0 0 6 (by simp only [pk]; omega) (by decide) (by decide) d.isLt a.isLt (by decide) la.toNat_lt (by decide) (by decide) (by decide)
  rw [decode_at_2e ho]
  simp [bits_of (x := d) f1, bits_of (x := a) f2, bit_of (x := la) f4, g0, g3, g6]
theorem Codec.bcast (d : BitVec 6) (a : BitVec 6) (b : BitVec 6) (la : Bool) : Statement (.bcast d a b la) := by
  intro wd h
  obtain ⟨ho, -, f1, f2, f3, f4, -, -, -, g0, -, -, g3, -, -, g6, -⟩ := layoutR (Option.some.inj h) 47 0 d.toNat a.toNat b.toNat la.toNat 0 1 0 (by simp only [pk]; omega) (by decide) (by decide) d.isLt a.isLt b.isLt la.toNat_lt (by decide) (by decide) (by decide)
  rw [decode_at_2f ho]
  simp [bits_of (x := d) f1, bits_of (x := a) f2, bits_of (x := b) f3, bit_of (x := la) f4, g0, g6, g3]
theorem Codec.bcastG (d : BitVec 6) (a : BitVec 6) (b : BitVec 6) (la : Bool) : Statement (.bcastG d a b la) := by
  intro wd h
  obtain ⟨ho, -, f1, f2, f3, f4, -, -, -, g0, -, -, g3, -, -, g6, -⟩ := layoutR (Option.some.inj h) 47 0 d.toNat a.toNat b.toNat la.toNat 0 1 1 (by simp only [pk]; omega) (by decide) (by decide) d.isLt a.isLt b.isLt la.toNat_lt (by decide) (by decide) (by decide)
  rw [decode_at_2f ho]
  simp [bits_of (x := d) f1, bits_of (x := a) f2, bits_of (x := b) f3, bit_of (x := la) f4, g0, g6, g3]
theorem Codec.bcastFirst (d : BitVec 6) (a : BitVec 6) (la : Bool) : Statement (.bcastFirst d a la) := by
  intro wd h
  obtain ⟨ho, -, f1, f2, -, f4, -, -, -, g0, -, -, g3, -, -, g6, -⟩ := layoutR (Option.some.inj h) 47 0 d.toNat a.toNat 0 la.toNat 0 0 2 (by simp only [pk]; omega) (by decide) (by decide) d.isLt a.isLt (by decide) la.toNat_lt (by decide) (by decide) (by decide)
  rw [decode_at_2f ho]
  simp [bits_of (x := d) f1, bits_of (x := a) f2, bit_of (x := la) f4, g0, g6, g3]
theorem Codec.bcastFirstg (d : BitVec 6) (a : BitVec 6) (la : Bool) : Statement (.bcastFirstg d a la) := by
  intro wd h
  obtain ⟨ho, -, f1, f2, -, f4, -, -, -, g0, -, -, g3, -, -, g6, -⟩ := layoutR (Option.some.inj h) 47 0 d.toNat a.toNat 0 la.toNat 0 0 3 (by simp only [pk]; omega) (by decide) (by decide) d.isLt a.isLt (by decide) la.toNat_lt (by decide) (by decide) (by decide)
  rw [decode_at_2f ho]
  simp [bits_of (x := d) f1, bits_of (x := a) f2, bit_of (x := la) f4, g0, g6, g3]
theorem Codec.fadd (u : Bool) (d : BitVec 6) (a : BitVec 6) (b : BitVec 6) (la : Bool) (lb : Bool) : Statement (.fadd u d a b la lb) := by
  intro wd h
  obtain ⟨ho, f0, f1, f2, f3, f4, f5, -, -, -, -, -, -, -, g5, -⟩ := layoutR (Option.some.inj h) 48 u.toNat d.toNat a.toNat b.toNat la.toNat lb.toNat 0 0 (by simp only [pk]; omega) (by decide) u.toNat_lt d.isLt a.isLt b.isLt la.toNat_lt lb.toNat_lt (by decide) (by decide)
  rw [decode_at_30 ho]
  simp [bit_of (x := u) f0, bits_of (x := d) f1, bits_of (x := a) f2, bits_of (x := b) f3, bit_of (x := la) f4, bit_of (x := lb) f5, g5]
theorem Codec.fsub (u : Bool) (d : BitVec 6) (a : BitVec 6) (b : BitVec 6) (la : Bool) (lb : Bool) : Statement (.fsub u d a b la lb) := by
  intro wd h
  obtain ⟨ho, f0, f1, f2, f3, f4, f5, -, -, -, -, -, -, -, g5, -⟩ := layoutR (Option.some.inj h) 49 u.toNat d.toNat a.toNat b.toNat la.toNat lb.toNat 0 0 (by simp only [pk]; omega) (by decide) u.toNat_lt d.isLt a.isLt b.isLt la.toNat_lt lb.toNat_lt (by decide) (by decide)
  rw [decode_at_31 ho]
  simp [bit_of (x := u) f0, bits_of (x := d) f1, bits_of (x := a) f2, bits_of (x := b) f3, bit_of (x := la) f4, bit_of (x := lb) f5, g5]
theorem Codec.fmul (u : Bool) (d : BitVec 6) (a : BitVec 6) (b : BitVec 6) (la : Bool) (lb : Bool) : Statement (.fmul u d a b la lb) := by
  intro wd h
  obtain ⟨ho, f0, f1, f2, f3, f4, f5, -, -, -, -, -, -, -, g5, -⟩ := layoutR (Option.some.inj h) 50 u.toNat d.toNat a.toNat b.toNat la.toNat lb.toNat 0 0 (by simp only [pk]; omega) (by decide) u.toNat_lt d.isLt a.isLt b.isLt la.toNat_lt lb.toNat_lt (by decide) (by decide)
  rw [decode_at_32 ho]
  simp [bit_of (x := u) f0, bits_of (x := d) f1, bits_of (x := a) f2, bits_of (x := b) f3, bit_of (x := la) f4, bit_of (x := lb) f5, g5]
theorem Codec.ffma (u : Bool) (d : BitVec 6) (a : BitVec 6) (b : BitVec 6) (la : Bool) (lb : Bool) : Statement (.ffma u d a b la lb) := by
  intro wd h
  obtain ⟨ho, f0, f1, f2, f3, f4, f5, -, -, -, -, -, -, -, g5, -⟩ := layoutR (Option.some.inj h) 51 u.toNat d.toNat a.toNat b.toNat la.toNat lb.toNat 0 0 (by simp only [pk]; omega) (by decide) u.toNat_lt d.isLt a.isLt b.isLt la.toNat_lt lb.toNat_lt (by decide) (by decide)
  rw [decode_at_33 ho]
  simp [bit_of (x := u) f0, bits_of (x := d) f1, bits_of (x := a) f2, bits_of (x := b) f3, bit_of (x := la) f4, bit_of (x := lb) f5, g5]
theorem Codec.ffmaMs (u : Bool) (d : BitVec 6) (a : BitVec 6) (b : BitVec 6) (la : Bool) (lb : Bool) : Statement (.ffmaMs u d a b la lb) := by
  intro wd h
  obtain ⟨ho, f0, f1, f2, f3, f4, f5, -, -, -, -, -, -, -, g5, -⟩ := layoutR (Option.some.inj h) 51 u.toNat d.toNat a.toNat b.toNat la.toNat lb.toNat 0 1 (by simp only [pk]; omega) (by decide) u.toNat_lt d.isLt a.isLt b.isLt la.toNat_lt lb.toNat_lt (by decide) (by decide)
  rw [decode_at_33 ho]
  simp [bit_of (x := u) f0, bits_of (x := d) f1, bits_of (x := a) f2, bits_of (x := b) f3, bit_of (x := la) f4, bit_of (x := lb) f5, g5]
theorem Codec.ffmaNm (u : Bool) (d : BitVec 6) (a : BitVec 6) (b : BitVec 6) (la : Bool) (lb : Bool) : Statement (.ffmaNm u d a b la lb) := by
  intro wd h
  obtain ⟨ho, f0, f1, f2, f3, f4, f5, -, -, -, -, -, -, -, g5, -⟩ := layoutR (Option.some.inj h) 51 u.toNat d.toNat a.toNat b.toNat la.toNat lb.toNat 0 2 (by simp only [pk]; omega) (by decide) u.toNat_lt d.isLt a.isLt b.isLt la.toNat_lt lb.toNat_lt (by decide) (by decide)
  rw [decode_at_33 ho]
  simp [bit_of (x := u) f0, bits_of (x := d) f1, bits_of (x := a) f2, bits_of (x := b) f3, bit_of (x := la) f4, bit_of (x := lb) f5, g5]
theorem Codec.ffmaNms (u : Bool) (d : BitVec 6) (a : BitVec 6) (b : BitVec 6) (la : Bool) (lb : Bool) : Statement (.ffmaNms u d a b la lb) := by
  intro wd h
  obtain ⟨ho, f0, f1, f2, f3, f4, f5, -, -, -, -, -, -, -, g5, -⟩ := layoutR (Option.some.inj h) 51 u.toNat d.toNat a.toNat b.toNat la.toNat lb.toNat 0 3 (by simp only [pk]; omega) (by decide) u.toNat_lt d.isLt a.isLt b.isLt la.toNat_lt lb.toNat_lt (by decide) (by decide)
  rw [decode_at_33 ho]
  simp [bit_of (x := u) f0, bits_of (x := d) f1, bits_of (x := a) f2, bits_of (x := b) f3, bit_of (x := la) f4, bit_of (x := lb) f5, g5]
theorem Codec.fmin (u : Bool) (d : BitVec 6) (a : BitVec 6) (b : BitVec 6) (la : Bool) (lb : Bool) : Statement (.fmin u d a b la lb) := by
  intro wd h
  obtain ⟨ho, f0, f1, f2, f3, f4, f5, -, -, -, -, -, -, -, g5, -⟩ := layoutR (Option.some.inj h) 52 u.toNat d.toNat a.toNat b.toNat la.toNat lb.toNat 0 0 (by simp only [pk]; omega) (by decide) u.toNat_lt d.isLt a.isLt b.isLt la.toNat_lt lb.toNat_lt (by decide) (by decide)
  rw [decode_at_34 ho]
  simp [bit_of (x := u) f0, bits_of (x := d) f1, bits_of (x := a) f2, bits_of (x := b) f3, bit_of (x := la) f4, bit_of (x := lb) f5, g5]
theorem Codec.fmax (u : Bool) (d : BitVec 6) (a : BitVec 6) (b : BitVec 6) (la : Bool) (lb : Bool) : Statement (.fmax u d a b la lb) := by
  intro wd h
  obtain ⟨ho, f0, f1, f2, f3, f4, f5, -, -, -, -, -, -, -, g5, -⟩ := layoutR (Option.some.inj h) 53 u.toNat d.toNat a.toNat b.toNat la.toNat lb.toNat 0 0 (by simp only [pk]; omega) (by decide) u.toNat_lt d.isLt a.isLt b.isLt la.toNat_lt lb.toNat_lt (by decide) (by decide)
  rw [decode_at_35 ho]
  simp [bit_of (x := u) f0, bits_of (x := d) f1, bits_of (x := a) f2, bits_of (x := b) f3, bit_of (x := la) f4, bit_of (x := lb) f5, g5]
theorem Codec.fcmpEq (u : Bool) (d : BitVec 6) (a : BitVec 6) (b : BitVec 6) (la : Bool) (lb : Bool) : Statement (.fcmpEq u d a b la lb) := by
  intro wd h
  obtain ⟨ho, f0, f1, f2, f3, f4, f5, -, -, -, -, -, -, -, g5, -⟩ := layoutR (Option.some.inj h) 54 u.toNat d.toNat a.toNat b.toNat la.toNat lb.toNat 0 0 (by simp only [pk]; omega) (by decide) u.toNat_lt d.isLt a.isLt b.isLt la.toNat_lt lb.toNat_lt (by decide) (by decide)
  rw [decode_at_36 ho]
  simp [bit_of (x := u) f0, bits_of (x := d) f1, bits_of (x := a) f2, bits_of (x := b) f3, bit_of (x := la) f4, bit_of (x := lb) f5, g5]
theorem Codec.fcmpNe (u : Bool) (d : BitVec 6) (a : BitVec 6) (b : BitVec 6) (la : Bool) (lb : Bool) : Statement (.fcmpNe u d a b la lb) := by
  intro wd h
  obtain ⟨ho, f0, f1, f2, f3, f4, f5, -, -, -, -, -, -, -, g5, -⟩ := layoutR (Option.some.inj h) 54 u.toNat d.toNat a.toNat b.toNat la.toNat lb.toNat 0 1 (by simp only [pk]; omega) (by decide) u.toNat_lt d.isLt a.isLt b.isLt la.toNat_lt lb.toNat_lt (by decide) (by decide)
  rw [decode_at_36 ho]
  simp [bit_of (x := u) f0, bits_of (x := d) f1, bits_of (x := a) f2, bits_of (x := b) f3, bit_of (x := la) f4, bit_of (x := lb) f5, g5]
theorem Codec.fcmpLt (u : Bool) (d : BitVec 6) (a : BitVec 6) (b : BitVec 6) (la : Bool) (lb : Bool) : Statement (.fcmpLt u d a b la lb) := by
  intro wd h
  obtain ⟨ho, f0, f1, f2, f3, f4, f5, -, -, -, -, -, -, -, g5, -⟩ := layoutR (Option.some.inj h) 54 u.toNat d.toNat a.toNat b.toNat la.toNat lb.toNat 0 2 (by simp only [pk]; omega) (by decide) u.toNat_lt d.isLt a.isLt b.isLt la.toNat_lt lb.toNat_lt (by decide) (by decide)
  rw [decode_at_36 ho]
  simp [bit_of (x := u) f0, bits_of (x := d) f1, bits_of (x := a) f2, bits_of (x := b) f3, bit_of (x := la) f4, bit_of (x := lb) f5, g5]
theorem Codec.fcmpLe (u : Bool) (d : BitVec 6) (a : BitVec 6) (b : BitVec 6) (la : Bool) (lb : Bool) : Statement (.fcmpLe u d a b la lb) := by
  intro wd h
  obtain ⟨ho, f0, f1, f2, f3, f4, f5, -, -, -, -, -, -, -, g5, -⟩ := layoutR (Option.some.inj h) 54 u.toNat d.toNat a.toNat b.toNat la.toNat lb.toNat 0 3 (by simp only [pk]; omega) (by decide) u.toNat_lt d.isLt a.isLt b.isLt la.toNat_lt lb.toNat_lt (by decide) (by decide)
  rw [decode_at_36 ho]
  simp [bit_of (x := u) f0, bits_of (x := d) f1, bits_of (x := a) f2, bits_of (x := b) f3, bit_of (x := la) f4, bit_of (x := lb) f5, g5]
theorem Codec.fcmpGt (u : Bool) (d : BitVec 6) (a : BitVec 6) (b : BitVec 6) (la : Bool) (lb : Bool) : Statement (.fcmpGt u d a b la lb) := by
  intro wd h
  obtain ⟨ho, f0, f1, f2, f3, f4, f5, -, -, -, -, -, -, -, g5, -⟩ := layoutR (Option.some.inj h) 54 u.toNat d.toNat a.toNat b.toNat la.toNat lb.toNat 0 4 (by simp only [pk]; omega) (by decide) u.toNat_lt d.isLt a.isLt b.isLt la.toNat_lt lb.toNat_lt (by decide) (by decide)
  rw [decode_at_36 ho]
  simp [bit_of (x := u) f0, bits_of (x := d) f1, bits_of (x := a) f2, bits_of (x := b) f3, bit_of (x := la) f4, bit_of (x := lb) f5, g5]
theorem Codec.fcmpGe (u : Bool) (d : BitVec 6) (a : BitVec 6) (b : BitVec 6) (la : Bool) (lb : Bool) : Statement (.fcmpGe u d a b la lb) := by
  intro wd h
  obtain ⟨ho, f0, f1, f2, f3, f4, f5, -, -, -, -, -, -, -, g5, -⟩ := layoutR (Option.some.inj h) 54 u.toNat d.toNat a.toNat b.toNat la.toNat lb.toNat 0 5 (by simp only [pk]; omega) (by decide) u.toNat_lt d.isLt a.isLt b.isLt la.toNat_lt lb.toNat_lt (by decide) (by decide)
  rw [decode_at_36 ho]
  simp [bit_of (x := u) f0, bits_of (x := d) f1, bits_of (x := a) f2, bits_of (x := b) f3, bit_of (x := la) f4, bit_of (x := lb) f5, g5]
theorem Codec.fcmpUn (u : Bool) (d : BitVec 6) (a : BitVec 6) (b : BitVec 6) (la : Bool) (lb : Bool) : Statement (.fcmpUn u d a b la lb) := by
  intro wd h
  obtain ⟨ho, f0, f1, f2, f3, f4, f5, -, -, -, -, -, -, -, g5, -⟩ := layoutR (Option.some.inj h) 54 u.toNat d.toNat a.toNat b.toNat la.toNat lb.toNat 0 6 (by simp only [pk]; omega) (by decide) u.toNat_lt d.isLt a.isLt b.isLt la.toNat_lt lb.toNat_lt (by decide) (by decide)
  rw [decode_at_36 ho]
  simp [bit_of (x := u) f0, bits_of (x := d) f1, bits_of (x := a) f2, bits_of (x := b) f3, bit_of (x := la) f4, bit_of (x := lb) f5, g5]
theorem Codec.fcmpOr (u : Bool) (d : BitVec 6) (a : BitVec 6) (b : BitVec 6) (la : Bool) (lb : Bool) : Statement (.fcmpOr u d a b la lb) := by
  intro wd h
  obtain ⟨ho, f0, f1, f2, f3, f4, f5, -, -, -, -, -, -, -, g5, -⟩ := layoutR (Option.some.inj h) 54 u.toNat d.toNat a.toNat b.toNat la.toNat lb.toNat 0 7 (by simp only [pk]; omega) (by decide) u.toNat_lt d.isLt a.isLt b.isLt la.toNat_lt lb.toNat_lt (by decide) (by decide)
  rw [decode_at_36 ho]
  simp [bit_of (x := u) f0, bits_of (x := d) f1, bits_of (x := a) f2, bits_of (x := b) f3, bit_of (x := la) f4, bit_of (x := lb) f5, g5]
theorem Codec.fabs (u : Bool) (d : BitVec 6) (a : BitVec 6) (la : Bool) : Statement (.fabs u d a la) := by
  intro wd h
  obtain ⟨ho, f0, f1, f2, -, f4, -, -, -, -, -, -, g3, -, -, g6, -⟩ := layoutR (Option.some.inj h) 55 u.toNat d.toNat a.toNat 0 la.toNat 0 0 0 (by simp only [pk]; omega) (by decide) u.toNat_lt d.isLt a.isLt (by decide) la.toNat_lt (by decide) (by decide) (by decide)
  rw [decode_at_37 ho]
  simp [bit_of (x := u) f0, bits_of (x := d) f1, bits_of (x := a) f2, bit_of (x := la) f4, g3, g6]
theorem Codec.fneg (u : Bool) (d : BitVec 6) (a : BitVec 6) (la : Bool) : Statement (.fneg u d a la) := by
  intro wd h
  obtain ⟨ho, f0, f1, f2, -, f4, -, -, -, -, -, -, g3, -, -, g6, -⟩ := layoutR (Option.some.inj h) 56 u.toNat d.toNat a.toNat 0 la.toNat 0 0 0 (by simp only [pk]; omega) (by decide) u.toNat_lt d.isLt a.isLt (by decide) la.toNat_lt (by decide) (by decide) (by decide)
  rw [decode_at_38 ho]
  simp [bit_of (x := u) f0, bits_of (x := d) f1, bits_of (x := a) f2, bit_of (x := la) f4, g3, g6]
theorem Codec.frcp (u : Bool) (d : BitVec 6) (a : BitVec 6) (la : Bool) : Statement (.frcp u d a la) := by
  intro wd h
  obtain ⟨ho, f0, f1, f2, -, f4, -, -, -, -, -, -, g3, -, -, g6, -⟩ := layoutR (Option.some.inj h) 57 u.toNat d.toNat a.toNat 0 la.toNat 0 0 0 (by simp only [pk]; omega) (by decide) u.toNat_lt d.isLt a.isLt (by decide) la.toNat_lt (by decide) (by decide) (by decide)
  rw [decode_at_39 ho]
  simp [bit_of (x := u) f0, bits_of (x := d) f1, bits_of (x := a) f2, bit_of (x := la) f4, g3, g6]
theorem Codec.fsqrt (u : Bool) (d : BitVec 6) (a : BitVec 6) (la : Bool) : Statement (.fsqrt u d a la) := by
  intro wd h
  obtain ⟨ho, f0, f1, f2, -, f4, -, -, -, -, -, -, g3, -, -, g6, -⟩ := layoutR (Option.some.inj h) 58 u.toNat d.toNat a.toNat 0 la.toNat 0 0 0 (by simp only [pk]; omega) (by decide) u.toNat_lt d.isLt a.isLt (by decide) la.toNat_lt (by decide) (by decide) (by decide)
  rw [decode_at_3a ho]
  simp [bit_of (x := u) f0, bits_of (x := d) f1, bits_of (x := a) f2, bit_of (x := la) f4, g3, g6]
theorem Codec.frsq (u : Bool) (d : BitVec 6) (a : BitVec 6) (la : Bool) : Statement (.frsq u d a la) := by
  intro wd h
  obtain ⟨ho, f0, f1, f2, -, f4, -, -, -, -, -, -, g3, -, -, g6, -⟩ := layoutR (Option.some.inj h) 59 u.toNat d.toNat a.toNat 0 la.toNat 0 0 0 (by simp only [pk]; omega) (by decide) u.toNat_lt d.isLt a.isLt (by decide) la.toNat_lt (by decide) (by decide) (by decide)
  rw [decode_at_3b ho]
  simp [bit_of (x := u) f0, bits_of (x := d) f1, bits_of (x := a) f2, bit_of (x := la) f4, g3, g6]
theorem Codec.fexp (u : Bool) (d : BitVec 6) (a : BitVec 6) (la : Bool) : Statement (.fexp u d a la) := by
  intro wd h
  obtain ⟨ho, f0, f1, f2, -, f4, -, -, -, -, -, -, g3, -, -, g6, -⟩ := layoutR (Option.some.inj h) 60 u.toNat d.toNat a.toNat 0 la.toNat 0 0 0 (by simp only [pk]; omega) (by decide) u.toNat_lt d.isLt a.isLt (by decide) la.toNat_lt (by decide) (by decide) (by decide)
  rw [decode_at_3c ho]
  simp [bit_of (x := u) f0, bits_of (x := d) f1, bits_of (x := a) f2, bit_of (x := la) f4, g3, g6]
theorem Codec.fln (u : Bool) (d : BitVec 6) (a : BitVec 6) (la : Bool) : Statement (.fln u d a la) := by
  intro wd h
  obtain ⟨ho, f0, f1, f2, -, f4, -, -, -, -, -, -, g3, -, -, g6, -⟩ := layoutR (Option.some.inj h) 61 u.toNat d.toNat a.toNat 0 la.toNat 0 0 0 (by simp only [pk]; omega) (by decide) u.toNat_lt d.isLt a.isLt (by decide) la.toNat_lt (by decide) (by decide) (by decide)
  rw [decode_at_3d ho]
  simp [bit_of (x := u) f0, bits_of (x := d) f1, bits_of (x := a) f2, bit_of (x := la) f4, g3, g6]
theorem Codec.fexp2 (u : Bool) (d : BitVec 6) (a : BitVec 6) (la : Bool) : Statement (.fexp2 u d a la) := by
  intro wd h
  obtain ⟨ho, f0, f1, f2, -, f4, -, -, -, -, -, -, g3, -, -, g6, -⟩ := layoutR (Option.some.inj h) 62 u.toNat d.toNat a.toNat 0 la.toNat 0 0 0 (by simp only [pk]; omega) (by decide) u.toNat_lt d.isLt a.isLt (by decide) la.toNat_lt (by decide) (by decide) (by decide)
  rw [decode_at_3e ho]
  simp [bit_of (x := u) f0, bits_of (x := d) f1, bits_of (x := a) f2, bit_of (x := la) f4, g3, g6]
theorem Codec.flog2 (u : Bool) (d : BitVec 6) (a : BitVec 6) (la : Bool) : Statement (.flog2 u d a la) := by
  intro wd h
  obtain ⟨ho, f0, f1, f2, -, f4, -, -, -, -, -, -, g3, -, -, g6, -⟩ := layoutR (Option.some.inj h) 63 u.toNat d.toNat a.toNat 0 la.toNat 0 0 0 (by simp only [pk]; omega) (by decide) u.toNat_lt d.isLt a.isLt (by decide) la.toNat_lt (by decide) (by decide) (by decide)
  rw [decode_at_3f ho]
  simp [bit_of (x := u) f0, bits_of (x := d) f1, bits_of (x := a) f2, bit_of (x := la) f4, g3, g6]
theorem Codec.cvt (u : Bool) (d : BitVec 6) (a : BitVec 6) (la : Bool) (part : BitVec 2) : Statement (.cvt u d a la part) := by
  intro wd h
  have := u.toNat_lt; have := d.isLt; have := a.isLt; have := la.toNat_lt; have := part.isLt
  have e := word_toNat (Option.some.inj h) (by simp only [pk]; omega)
  simp only [pk] at e
  rw [decode_at_40 (fld_of (by omega))]
  have h0 := fld_of (w := wd) (lo := 6) (n := 6) (v := 0) (by omega)
  have h1 := fld_of (w := wd) (lo := 2) (n := 3) (v := 0) (by omega)
  have h2 := bit_of (w := wd) (lo := 24) (x := u) (by omega)
  have h3 := bits_of (w := wd) (lo := 18) (x := d) (by omega)
  have h4 := bits_of (w := wd) (lo := 12) (x := a) (by omega)
  have h5 := bit_of (w := wd) (lo := 5) (x := la) (by omega)
  have h6 := bits_of (w := wd) (lo := 0) (x := part) (by omega)
  simp [h0, h1, h2, h3, h4, h5, h6]
theorem Codec.frnd (u : Bool) (d : BitVec 6) (a : BitVec 6) (la : Bool) : Statement (.frnd u d a la) := by
  intro wd h
  obtain ⟨ho, f0, f1, f2, -, f4, -, -, -, -, -, -, g3, -, -, g6, -⟩ := layoutR (Option.some.inj h) 65 u.toNat d.toNat a.toNat 0 la.toNat 0 0 0 (by simp only [pk]; omega) (by decide) u.toNat_lt d.isLt a.isLt (by decide) la.toNat_lt (by decide) (by decide) (by decide)
  rw [decode_at_41 ho]
  simp [bit_of (x := u) f0, bits_of (x := d) f1, bits_of (x := a) f2, bit_of (x := la) f4, g3, g6]
theorem Codec.fscal (u : Bool) (d : BitVec 6) (a : BitVec 6) (b : BitVec 6) (la : Bool) (lb : Bool) (im : Bool) : Statement (.fscal u d a b la lb im) := by
  intro wd h
  obtain ⟨ho, f0, f1, f2, f3, f4, f5, f6, -, -, -, -, -, g4, -⟩ := layoutR (Option.some.inj h) 66 u.toNat d.toNat a.toNat b.toNat la.toNat lb.toNat im.toNat 0 (by simp only [pk]; omega) (by decide) u.toNat_lt d.isLt a.isLt b.isLt la.toNat_lt lb.toNat_lt im.toNat_lt (by decide)
  rw [decode_at_42 ho]
  simp [bit_of (x := u) f0, bits_of (x := d) f1, bits_of (x := a) f2, bits_of (x := b) f3, bit_of (x := la) f4, bit_of (x := lb) f5, bit_of (x := im) f6, g4]
theorem Codec.hadq (d : BitVec 6) (a : BitVec 6) (b : BitVec 6) (la : Bool) : Statement (.hadq d a b la) := by
  intro wd h
  obtain ⟨ho, -, f1, f2, f3, f4, -, -, -, g0, -, -, -, -, -, g6, -⟩ := layoutR (Option.some.inj h) 67 0 d.toNat a.toNat b.toNat la.toNat 0 0 0 (by simp only [pk]; omega) (by decide) (by decide) d.isLt a.isLt b.isLt la.toNat_lt (by decide) (by decide) (by decide)
  rw [decode_at_43 ho]
  simp [bits_of (x := d) f1, bits_of (x := a) f2, bits_of (x := b) f3, bit_of (x := la) f4, g0, g6]
theorem Codec.hadqInv (d : BitVec 6) (a : BitVec 6) (b : BitVec 6) (la : Bool) : Statement (.hadqInv d a b la) := by
  intro wd h
  obtain ⟨ho, -, f1, f2, f3, f4, -, -, -, g0, -, -, -, -, -, g6, -⟩ := layoutR (Option.some.inj h) 67 0 d.toNat a.toNat b.toNat la.toNat 0 0 1 (by simp only [pk]; omega) (by decide) (by decide) d.isLt a.isLt b.isLt la.toNat_lt (by decide) (by decide) (by decide)
  rw [decode_at_43 ho]
  simp [bits_of (x := d) f1, bits_of (x := a) f2, bits_of (x := b) f3, bit_of (x := la) f4, g0, g6]
theorem Codec.qpack (d : BitVec 6) (a : BitVec 6) (la : Bool) : Statement (.qpack d a la) := by
  intro wd h
  obtain ⟨ho, -, f1, f2, -, f4, -, -, -, g0, -, -, g3, -, -, g6, -⟩ := layoutR (Option.some.inj h) 68 0 d.toNat a.toNat 0 la.toNat 0 0 0 (by simp only [pk]; omega) (by decide) (by decide) d.isLt a.isLt (by decide) la.toNat_lt (by decide) (by decide) (by decide)
  rw [decode_at_44 ho]
  simp [bits_of (x := d) f1, bits_of (x := a) f2, bit_of (x := la) f4, g0, g3, g6]
theorem Codec.qunpk (d : BitVec 6) (a : BitVec 6) (la : Bool) : Statement (.qunpk d a la) := by
  intro wd h
  obtain ⟨ho, -, f1, f2, -, f4, -, -, -, g0, -, -, g3, -, -, g6, -⟩ := layoutR (Option.some.inj h) 69 0 d.toNat a.toNat 0 la.toNat 0 0 0 (by simp only [pk]; omega) (by decide) (by decide) d.isLt a.isLt (by decide) la.toNat_lt (by decide) (by decide) (by decide)
  rw [decode_at_45 ho]
  simp [bits_of (x := d) f1, bits_of (x := a) f2, bit_of (x := la) f4, g0, g3, g6]
theorem Codec.fmtw (u : Bool) (d : BitVec 6) (b : BitVec 6) : Statement (.fmtw u d b) := by
  intro wd h
  obtain ⟨ho, f0, f1, -, f3, -, -, -, -, -, -, g2, -, -, -, -, g7, -⟩ := layoutR (Option.some.inj h) 70 u.toNat d.toNat 0 b.toNat 0 0 1 0 (by simp only [pk]; omega) (by decide) u.toNat_lt d.isLt (by decide) b.isLt (by decide) (by decide) (by decide) (by decide)
  rw [decode_at_46 ho]
  simp [bit_of (x := u) f0, bits_of (x := d) f1, bits_of (x := b) f3, g2, g7]
theorem Codec.dot4 (u : Bool) (d : BitVec 6) (a : BitVec 6) (b : BitVec 6) (la : Bool) (lb : Bool) : Statement (.dot4 u d a b la lb) := by
  intro wd h
  obtain ⟨ho, f0, f1, f2, f3, f4, f5, -, -, -, -, -, -, -, g5, -⟩ := layoutR (Option.some.inj h) 71 u.toNat d.toNat a.toNat b.toNat la.toNat lb.toNat 0 0 (by simp only [pk]; omega) (by decide) u.toNat_lt d.isLt a.isLt b.isLt la.toNat_lt lb.toNat_lt (by decide) (by decide)
  rw [decode_at_47 ho]
  simp [bit_of (x := u) f0, bits_of (x := d) f1, bits_of (x := a) f2, bits_of (x := b) f3, bit_of (x := la) f4, bit_of (x := lb) f5, g5]
theorem Codec.ld (u : Bool) (d : BitVec 6) (gb : BitVec 5) (ix : BitVec 6) (li : Bool) (sx : Bool) (fs : Bool) (w : BitVec 3) : Statement (.ld u d gb ix li sx fs w) := by
  intro wd h
  have := u.toNat_lt; have := d.isLt; have := gb.isLt; have := ix.isLt; have := li.toNat_lt; have := sx.toNat_lt; have := fs.toNat_lt; have := w.isLt
  have e := word_toNat (Option.some.inj h) (by simp only [pk]; omega)
  simp only [pk] at e
  rw [decode_at_48 (fld_of (by omega))]
  have h0 := fld_of (w := wd) (lo := 6) (n := 1) (v := 0) (by omega)
  have h1 := bit_of (w := wd) (lo := 24) (x := u) (by omega)
  have h2 := bits_of (w := wd) (lo := 18) (x := d) (by omega)
  have h3 := bits_of (w := wd) (lo := 13) (x := gb) (by omega)
  have h4 := bits_of (w := wd) (lo := 7) (x := ix) (by omega)
  have h5 := bit_of (w := wd) (lo := 5) (x := li) (by omega)
  have h6 := bit_of (w := wd) (lo := 4) (x := sx) (by omega)
  have h7 := bit_of (w := wd) (lo := 3) (x := fs) (by omega)
  have h8 := bits_of (w := wd) (lo := 0) (x := w) (by omega)
  simp [h0, h1, h2, h3, h4, h5, h6, h7, h8]
theorem Codec.st (u : Bool) (d : BitVec 6) (gb : BitVec 5) (ix : BitVec 6) (ld : Bool) (li : Bool) (sx : Bool) (fs : Bool) (w : BitVec 3) : Statement (.st u d gb ix ld li sx fs w) := by
  intro wd h
  have := u.toNat_lt; have := d.isLt; have := gb.isLt; have := ix.isLt; have := ld.toNat_lt; have := li.toNat_lt; have := sx.toNat_lt; have := fs.toNat_lt; have := w.isLt
  have e := word_toNat (Option.some.inj h) (by simp only [pk]; omega)
  simp only [pk] at e
  rw [decode_at_49 (fld_of (by omega))]
  have h0 := bit_of (w := wd) (lo := 24) (x := u) (by omega)
  have h1 := bits_of (w := wd) (lo := 18) (x := d) (by omega)
  have h2 := bits_of (w := wd) (lo := 13) (x := gb) (by omega)
  have h3 := bits_of (w := wd) (lo := 7) (x := ix) (by omega)
  have h4 := bit_of (w := wd) (lo := 6) (x := ld) (by omega)
  have h5 := bit_of (w := wd) (lo := 5) (x := li) (by omega)
  have h6 := bit_of (w := wd) (lo := 4) (x := sx) (by omega)
  have h7 := bit_of (w := wd) (lo := 3) (x := fs) (by omega)
  have h8 := bits_of (w := wd) (lo := 0) (x := w) (by omega)
  simp [h0, h1, h2, h3, h4, h5, h6, h7, h8]
theorem Codec.lds (u : Bool) (d : BitVec 6) (gb : BitVec 5) (ix : BitVec 6) (li : Bool) (sx : Bool) (fs : Bool) (w : BitVec 3) : Statement (.lds u d gb ix li sx fs w) := by
  intro wd h
  have := u.toNat_lt; have := d.isLt; have := gb.isLt; have := ix.isLt; have := li.toNat_lt; have := sx.toNat_lt; have := fs.toNat_lt; have := w.isLt
  have e := word_toNat (Option.some.inj h) (by simp only [pk]; omega)
  simp only [pk] at e
  rw [decode_at_4a (fld_of (by omega))]
  have h0 := fld_of (w := wd) (lo := 6) (n := 1) (v := 0) (by omega)
  have h1 := bit_of (w := wd) (lo := 24) (x := u) (by omega)
  have h2 := bits_of (w := wd) (lo := 18) (x := d) (by omega)
  have h3 := bits_of (w := wd) (lo := 13) (x := gb) (by omega)
  have h4 := bits_of (w := wd) (lo := 7) (x := ix) (by omega)
  have h5 := bit_of (w := wd) (lo := 5) (x := li) (by omega)
  have h6 := bit_of (w := wd) (lo := 4) (x := sx) (by omega)
  have h7 := bit_of (w := wd) (lo := 3) (x := fs) (by omega)
  have h8 := bits_of (w := wd) (lo := 0) (x := w) (by omega)
  simp [h0, h1, h2, h3, h4, h5, h6, h7, h8]
theorem Codec.sts (u : Bool) (d : BitVec 6) (gb : BitVec 5) (ix : BitVec 6) (ld : Bool) (li : Bool) (sx : Bool) (fs : Bool) (w : BitVec 3) : Statement (.sts u d gb ix ld li sx fs w) := by
  intro wd h
  have := u.toNat_lt; have := d.isLt; have := gb.isLt; have := ix.isLt; have := ld.toNat_lt; have := li.toNat_lt; have := sx.toNat_lt; have := fs.toNat_lt; have := w.isLt
  have e := word_toNat (Option.some.inj h) (by simp only [pk]; omega)
  simp only [pk] at e
  rw [decode_at_4b (fld_of (by omega))]
  have h0 := bit_of (w := wd) (lo := 24) (x := u) (by omega)
  have h1 := bits_of (w := wd) (lo := 18) (x := d) (by omega)
  have h2 := bits_of (w := wd) (lo := 13) (x := gb) (by omega)
  have h3 := bits_of (w := wd) (lo := 7) (x := ix) (by omega)
  have h4 := bit_of (w := wd) (lo := 6) (x := ld) (by omega)
  have h5 := bit_of (w := wd) (lo := 5) (x := li) (by omega)
  have h6 := bit_of (w := wd) (lo := 4) (x := sx) (by omega)
  have h7 := bit_of (w := wd) (lo := 3) (x := fs) (by omega)
  have h8 := bits_of (w := wd) (lo := 0) (x := w) (by omega)
  simp [h0, h1, h2, h3, h4, h5, h6, h7, h8]
theorem Codec.ldp (d : BitVec 6) (gb : BitVec 5) (ix : BitVec 6) (li : Bool) (sx : Bool) (fs : Bool) (w : BitVec 3) : Statement (.ldp d gb ix li sx fs w) := by
  intro wd h
  have := d.isLt; have := gb.isLt; have := ix.isLt; have := li.toNat_lt; have := sx.toNat_lt; have := fs.toNat_lt; have := w.isLt
  have e := word_toNat (Option.some.inj h) (by simp only [pk]; omega)
  simp only [pk] at e
  rw [decode_at_4c (fld_of (by omega))]
  have h0 := fld_of (w := wd) (lo := 24) (n := 1) (v := 0) (by omega)
  have h1 := fld_of (w := wd) (lo := 6) (n := 1) (v := 0) (by omega)
  have h2 := bits_of (w := wd) (lo := 18) (x := d) (by omega)
  have h3 := bits_of (w := wd) (lo := 13) (x := gb) (by omega)
  have h4 := bits_of (w := wd) (lo := 7) (x := ix) (by omega)
  have h5 := bit_of (w := wd) (lo := 5) (x := li) (by omega)
  have h6 := bit_of (w := wd) (lo := 4) (x := sx) (by omega)
  have h7 := bit_of (w := wd) (lo := 3) (x := fs) (by omega)
  have h8 := bits_of (w := wd) (lo := 0) (x := w) (by omega)
  simp [h0, h1, h2, h3, h4, h5, h6, h7, h8]
theorem Codec.stp (d : BitVec 6) (gb : BitVec 5) (ix : BitVec 6) (ld : Bool) (li : Bool) (sx : Bool) (fs : Bool) (w : BitVec 3) : Statement (.stp d gb ix ld li sx fs w) := by
  intro wd h
  have := d.isLt; have := gb.isLt; have := ix.isLt; have := ld.toNat_lt; have := li.toNat_lt; have := sx.toNat_lt; have := fs.toNat_lt; have := w.isLt
  have e := word_toNat (Option.some.inj h) (by simp only [pk]; omega)
  simp only [pk] at e
  rw [decode_at_4d (fld_of (by omega))]
  have h0 := fld_of (w := wd) (lo := 24) (n := 1) (v := 0) (by omega)
  have h1 := bits_of (w := wd) (lo := 18) (x := d) (by omega)
  have h2 := bits_of (w := wd) (lo := 13) (x := gb) (by omega)
  have h3 := bits_of (w := wd) (lo := 7) (x := ix) (by omega)
  have h4 := bit_of (w := wd) (lo := 6) (x := ld) (by omega)
  have h5 := bit_of (w := wd) (lo := 5) (x := li) (by omega)
  have h6 := bit_of (w := wd) (lo := 4) (x := sx) (by omega)
  have h7 := bit_of (w := wd) (lo := 3) (x := fs) (by omega)
  have h8 := bits_of (w := wd) (lo := 0) (x := w) (by omega)
  simp [h0, h1, h2, h3, h4, h5, h6, h7, h8]
theorem Codec.prsTest (u : Bool) (d : BitVec 6) (gb : BitVec 5) (ix : BitVec 6) (li : Bool) : Statement (.prsTest u d gb ix li) := by
  intro wd h
  have := u.toNat_lt; have := d.isLt; have := gb.isLt; have := ix.isLt; have := li.toNat_lt
  have e := word_toNat (Option.some.inj h) (by simp only [pk]; omega)
  simp only [pk] at e
  rw [decode_at_4e (fld_of (by omega))]
  have h0 := fld_of (w := wd) (lo := 6) (n := 1) (v := 0) (by omega)
  have h1 := fld_of (w := wd) (lo := 0) (n := 5) (v := 0) (by omega)
  have h2 := fld_of (w := wd) (lo := 18) (n := 6) (v := d.toNat * 1 + 0) (by omega)
  have h3 := fld_of (w := wd) (lo := 4) (n := 1) (v := 0) (by omega)
  have h4 := fld_of (w := wd) (lo := 0) (n := 3) (v := 0) (by omega)
  have h5 := bit_of (w := wd) (lo := 24) (x := u) (by omega)
  have h6 := bits_of (w := wd) (lo := 18) (x := d) (by omega)
  have h7 := bits_of (w := wd) (lo := 13) (x := gb) (by omega)
  have h8 := bits_of (w := wd) (lo := 7) (x := ix) (by omega)
  have h9 := bit_of (w := wd) (lo := 5) (x := li) (by omega)
  simp [h0, h1, h2, h3, h4, h5, h6, h7, h8, h9]
theorem Codec.prsClr (u : Bool) (gb : BitVec 5) (ix : BitVec 6) (li : Bool) : Statement (.prsClr u gb ix li) := by
  intro wd h
  have := u.toNat_lt; have := gb.isLt; have := ix.isLt; have := li.toNat_lt
  have e := word_toNat (Option.some.inj h) (by simp only [pk]; omega)
  simp only [pk] at e
  rw [decode_at_4e (fld_of (by omega))]
  have h0 := fld_of (w := wd) (lo := 6) (n := 1) (v := 0) (by omega)
  have h1 := fld_of (w := wd) (lo := 0) (n := 5) (v := 1) (by omega)
  have h2 := fld_of (w := wd) (lo := 18) (n := 6) (v := 0) (by omega)
  have h3 := fld_of (w := wd) (lo := 4) (n := 1) (v := 0) (by omega)
  have h4 := fld_of (w := wd) (lo := 0) (n := 3) (v := 1) (by omega)
  have h5 := bit_of (w := wd) (lo := 24) (x := u) (by omega)
  have h6 := bits_of (w := wd) (lo := 13) (x := gb) (by omega)
  have h7 := bits_of (w := wd) (lo := 7) (x := ix) (by omega)
  have h8 := bit_of (w := wd) (lo := 5) (x := li) (by omega)
  simp [h0, h1, h2, h3, h4, h5, h6, h7, h8]
theorem Codec.prsSet (u : Bool) (gb : BitVec 5) (ix : BitVec 6) (li : Bool) : Statement (.prsSet u gb ix li) := by
  intro wd h
  have := u.toNat_lt; have := gb.isLt; have := ix.isLt; have := li.toNat_lt
  have e := word_toNat (Option.some.inj h) (by simp only [pk]; omega)
  simp only [pk] at e
  rw [decode_at_4e (fld_of (by omega))]
  have h0 := fld_of (w := wd) (lo := 6) (n := 1) (v := 0) (by omega)
  have h1 := fld_of (w := wd) (lo := 0) (n := 5) (v := 2) (by omega)
  have h2 := fld_of (w := wd) (lo := 18) (n := 6) (v := 0) (by omega)
  have h3 := fld_of (w := wd) (lo := 4) (n := 1) (v := 0) (by omega)
  have h4 := fld_of (w := wd) (lo := 0) (n := 3) (v := 2) (by omega)
  have h5 := bit_of (w := wd) (lo := 24) (x := u) (by omega)
  have h6 := bits_of (w := wd) (lo := 13) (x := gb) (by omega)
  have h7 := bits_of (w := wd) (lo := 7) (x := ix) (by omega)
  have h8 := bit_of (w := wd) (lo := 5) (x := li) (by omega)
  simp [h0, h1, h2, h3, h4, h5, h6, h7, h8]
theorem Codec.prsWait (u : Bool) (gb : BitVec 5) (ix : BitVec 6) (li : Bool) (fs : Bool) : Statement (.prsWait u gb ix li fs) := by
  intro wd h
  have := u.toNat_lt; have := gb.isLt; have := ix.isLt; have := li.toNat_lt; have := fs.toNat_lt
  have e := word_toNat (Option.some.inj h) (by simp only [pk]; omega)
  simp only [pk] at e
  rw [decode_at_4e (fld_of (by omega))]
  have h0 := fld_of (w := wd) (lo := 6) (n := 1) (v := 0) (by omega)
  have h1 := fld_of (w := wd) (lo := 0) (n := 5) (v := fs.toNat * 8 + 3) (by omega)
  have h2 := fld_of (w := wd) (lo := 18) (n := 6) (v := 0) (by omega)
  have h3 := fld_of (w := wd) (lo := 4) (n := 1) (v := 0) (by omega)
  have h4 := fld_of (w := wd) (lo := 0) (n := 3) (v := 3) (by omega)
  have h5 := bit_of (w := wd) (lo := 24) (x := u) (by omega)
  have h6 := bits_of (w := wd) (lo := 13) (x := gb) (by omega)
  have h7 := bits_of (w := wd) (lo := 7) (x := ix) (by omega)
  have h8 := bit_of (w := wd) (lo := 5) (x := li) (by omega)
  have h9 := bit_of (w := wd) (lo := 3) (x := fs) (by omega)
  simp [h0, h1, h2, h3, h4, h5, h6, h7, h8, h9]
theorem Codec.fence (fs : Bool) (sc : BitVec 2) (acq : Bool) (rel : Bool) : Statement (.fence fs sc acq rel) := by
  intro wd h
  have := fs.toNat_lt; have := sc.isLt; have := acq.toNat_lt; have := rel.toNat_lt
  have e := word_toNat (Option.some.inj h) (by simp only [pk]; omega)
  simp only [pk] at e
  rw [decode_at_4f (fld_of (by omega))]
  have h0 := fld_of (w := wd) (lo := 5) (n := 20) (v := 0) (by omega)
  have h1 := fld_of (w := wd) (lo := 0) (n := 2) (v := acq.toNat * 2 + rel.toNat * 1 + 0) (by omega)
  have h2 := bit_of (w := wd) (lo := 4) (x := fs) (by omega)
  have h3 := bits_of (w := wd) (lo := 2) (x := sc) (by omega)
  have h4 := bit_of (w := wd) (lo := 1) (x := acq) (by omega)
  have h5 := bit_of (w := wd) (lo := 0) (x := rel) (by omega)
  simp [h0, h1, h2, h3, h4, h5]
theorem Codec.fenceSc (fs : Bool) (sc : BitVec 2) : Statement (.fenceSc fs sc) := by
  intro wd h
  have := fs.toNat_lt; have := sc.isLt
  have e := word_toNat (Option.some.inj h) (by simp only [pk]; omega)
  simp only [pk] at e
  rw [decode_at_4f (fld_of (by omega))]
  have h0 := fld_of (w := wd) (lo := 5) (n := 20) (v := 32768) (by omega)
  have h1 := fld_of (w := wd) (lo := 0) (n := 2) (v := 3) (by omega)
  have h2 := bit_of (w := wd) (lo := 4) (x := fs) (by omega)
  have h3 := bits_of (w := wd) (lo := 2) (x := sc) (by omega)
  simp [h0, h1, h2, h3]
theorem Codec.atom (u : Bool) (d : BitVec 6) (gb : BitVec 5) (ix : BitVec 6) (aop : BitVec 4) (sc : BitVec 2) (li : Bool) : Statement (.atom u d gb ix aop sc li) := by
  intro wd h
  have := u.toNat_lt; have := d.isLt; have := gb.isLt; have := ix.isLt; have := aop.isLt; have := sc.isLt; have := li.toNat_lt
  have e := word_toNat (Option.some.inj h) (by simp only [pk]; omega)
  simp only [pk] at e
  rw [decode_at_50 (fld_of (by omega))]
  have h0 := bit_of (w := wd) (lo := 24) (x := u) (by omega)
  have h1 := bits_of (w := wd) (lo := 18) (x := d) (by omega)
  have h2 := bits_of (w := wd) (lo := 13) (x := gb) (by omega)
  have h3 := bits_of (w := wd) (lo := 7) (x := ix) (by omega)
  have h4 := bits_of (w := wd) (lo := 3) (x := aop) (by omega)
  have h5 := bits_of (w := wd) (lo := 1) (x := sc) (by omega)
  have h6 := bit_of (w := wd) (lo := 0) (x := li) (by omega)
  simp [h0, h1, h2, h3, h4, h5, h6]
theorem Codec.atoms (u : Bool) (d : BitVec 6) (gb : BitVec 5) (ix : BitVec 6) (aop : BitVec 4) (li : Bool) : Statement (.atoms u d gb ix aop li) := by
  intro wd h
  have := u.toNat_lt; have := d.isLt; have := gb.isLt; have := ix.isLt; have := aop.isLt; have := li.toNat_lt
  have e := word_toNat (Option.some.inj h) (by simp only [pk]; omega)
  simp only [pk] at e
  rw [decode_at_51 (fld_of (by omega))]
  have h0 := fld_of (w := wd) (lo := 1) (n := 2) (v := 0) (by omega)
  have h1 := bit_of (w := wd) (lo := 24) (x := u) (by omega)
  have h2 := bits_of (w := wd) (lo := 18) (x := d) (by omega)
  have h3 := bits_of (w := wd) (lo := 13) (x := gb) (by omega)
  have h4 := bits_of (w := wd) (lo := 7) (x := ix) (by omega)
  have h5 := bits_of (w := wd) (lo := 3) (x := aop) (by omega)
  have h6 := bit_of (w := wd) (lo := 0) (x := li) (by omega)
  simp [h0, h1, h2, h3, h4, h5, h6]
theorem Codec.red (u : Bool) (d : BitVec 6) (gb : BitVec 5) (ix : BitVec 6) (aop : BitVec 4) (sc : BitVec 2) (li : Bool) : Statement (.red u d gb ix aop sc li) := by
  intro wd h
  have := u.toNat_lt; have := d.isLt; have := gb.isLt; have := ix.isLt; have := aop.isLt; have := sc.isLt; have := li.toNat_lt
  have e := word_toNat (Option.some.inj h) (by simp only [pk]; omega)
  simp only [pk] at e
  rw [decode_at_52 (fld_of (by omega))]
  have h0 := bit_of (w := wd) (lo := 24) (x := u) (by omega)
  have h1 := bits_of (w := wd) (lo := 18) (x := d) (by omega)
  have h2 := bits_of (w := wd) (lo := 13) (x := gb) (by omega)
  have h3 := bits_of (w := wd) (lo := 7) (x := ix) (by omega)
  have h4 := bits_of (w := wd) (lo := 3) (x := aop) (by omega)
  have h5 := bits_of (w := wd) (lo := 1) (x := sc) (by omega)
  have h6 := bit_of (w := wd) (lo := 0) (x := li) (by omega)
  simp [h0, h1, h2, h3, h4, h5, h6]
theorem Codec.xaccAdd (d : BitVec 6) (gb : BitVec 5) (ix : BitVec 6) (ld : Bool) (li : Bool) (sx : Bool) (fs : Bool) : Statement (.xaccAdd d gb ix ld li sx fs) := by
  intro wd h
  have := d.isLt; have := gb.isLt; have := ix.isLt; have := ld.toNat_lt; have := li.toNat_lt; have := sx.toNat_lt; have := fs.toNat_lt
  have e := word_toNat (Option.some.inj h) (by simp only [pk]; omega)
  simp only [pk] at e
  rw [decode_at_53 (fld_of (by omega))]
  have h0 := fld_of (w := wd) (lo := 24) (n := 1) (v := 0) (by omega)
  have h1 := fld_of (w := wd) (lo := 0) (n := 3) (v := 0) (by omega)
  have h2 := fld_of (w := wd) (lo := 6) (n := 1) (v := ld.toNat * 1 + 0) (by omega)
  have h3 := bits_of (w := wd) (lo := 18) (x := d) (by omega)
  have h4 := bits_of (w := wd) (lo := 13) (x := gb) (by omega)
  have h5 := bits_of (w := wd) (lo := 7) (x := ix) (by omega)
  have h6 := bit_of (w := wd) (lo := 6) (x := ld) (by omega)
  have h7 := bit_of (w := wd) (lo := 5) (x := li) (by omega)
  have h8 := bit_of (w := wd) (lo := 4) (x := sx) (by omega)
  have h9 := bit_of (w := wd) (lo := 3) (x := fs) (by omega)
  simp [h0, h1, h2, h3, h4, h5, h6, h7, h8, h9]
theorem Codec.xaccRd (d : BitVec 6) (gb : BitVec 5) (ix : BitVec 6) (li : Bool) (sx : Bool) (fs : Bool) : Statement (.xaccRd d gb ix li sx fs) := by
  intro wd h
  have := d.isLt; have := gb.isLt; have := ix.isLt; have := li.toNat_lt; have := sx.toNat_lt; have := fs.toNat_lt
  have e := word_toNat (Option.some.inj h) (by simp only [pk]; omega)
  simp only [pk] at e
  rw [decode_at_53 (fld_of (by omega))]
  have h0 := fld_of (w := wd) (lo := 24) (n := 1) (v := 0) (by omega)
  have h1 := fld_of (w := wd) (lo := 0) (n := 3) (v := 1) (by omega)
  have h2 := fld_of (w := wd) (lo := 6) (n := 1) (v := 0) (by omega)
  have h3 := bits_of (w := wd) (lo := 18) (x := d) (by omega)
  have h4 := bits_of (w := wd) (lo := 13) (x := gb) (by omega)
  have h5 := bits_of (w := wd) (lo := 7) (x := ix) (by omega)
  have h6 := bit_of (w := wd) (lo := 5) (x := li) (by omega)
  have h7 := bit_of (w := wd) (lo := 4) (x := sx) (by omega)
  have h8 := bit_of (w := wd) (lo := 3) (x := fs) (by omega)
  simp [h0, h1, h2, h3, h4, h5, h6, h7, h8]
theorem Codec.ticket (d : BitVec 6) (gb : BitVec 5) (ix : BitVec 6) (sc : BitVec 2) : Statement (.ticket d gb ix sc) := by
  intro wd h
  have := d.isLt; have := gb.isLt; have := ix.isLt; have := sc.isLt
  have e := word_toNat (Option.some.inj h) (by simp only [pk]; omega)
  simp only [pk] at e
  rw [decode_at_54 (fld_of (by omega))]
  have h0 := fld_of (w := wd) (lo := 24) (n := 1) (v := 1) (by omega)
  have h1 := fld_of (w := wd) (lo := 3) (n := 4) (v := 0) (by omega)
  have h2 := fld_of (w := wd) (lo := 0) (n := 1) (v := 0) (by omega)
  have h3 := bits_of (w := wd) (lo := 18) (x := d) (by omega)
  have h4 := bits_of (w := wd) (lo := 13) (x := gb) (by omega)
  have h5 := bits_of (w := wd) (lo := 7) (x := ix) (by omega)
  have h6 := bits_of (w := wd) (lo := 1) (x := sc) (by omega)
  simp [h0, h1, h2, h3, h4, h5, h6]
theorem Codec.ldw (u : Bool) (d : BitVec 6) (gb : BitVec 5) (ix : BitVec 6) (li : Bool) (sx : Bool) (fs : Bool) (w : Bool) : Statement (.ldw u d gb ix li sx fs w) := by
  intro wd h
  have := u.toNat_lt; have := d.isLt; have := gb.isLt; have := ix.isLt; have := li.toNat_lt; have := sx.toNat_lt; have := fs.toNat_lt; have := w.toNat_lt
  have e := word_toNat (Option.some.inj h) (by simp only [pk]; omega)
  simp only [pk] at e
  rw [decode_at_55 (fld_of (by omega))]
  have h0 := fld_of (w := wd) (lo := 6) (n := 1) (v := 0) (by omega)
  have h1 := fld_of (w := wd) (lo := 1) (n := 2) (v := 2) (by omega)
  have h2 := bit_of (w := wd) (lo := 24) (x := u) (by omega)
  have h3 := bits_of (w := wd) (lo := 18) (x := d) (by omega)
  have h4 := bits_of (w := wd) (lo := 13) (x := gb) (by omega)
  have h5 := bits_of (w := wd) (lo := 7) (x := ix) (by omega)
  have h6 := bit_of (w := wd) (lo := 5) (x := li) (by omega)
  have h7 := bit_of (w := wd) (lo := 4) (x := sx) (by omega)
  have h8 := bit_of (w := wd) (lo := 3) (x := fs) (by omega)
  have h9 := bit_of (w := wd) (lo := 0) (x := w) (by omega)
  simp [h0, h1, h2, h3, h4, h5, h6, h7, h8, h9]
theorem Codec.stw (u : Bool) (d : BitVec 6) (gb : BitVec 5) (ix : BitVec 6) (ld : Bool) (li : Bool) (sx : Bool) (fs : Bool) (w : Bool) : Statement (.stw u d gb ix ld li sx fs w) := by
  intro wd h
  have := u.toNat_lt; have := d.isLt; have := gb.isLt; have := ix.isLt; have := ld.toNat_lt; have := li.toNat_lt; have := sx.toNat_lt; have := fs.toNat_lt; have := w.toNat_lt
  have e := word_toNat (Option.some.inj h) (by simp only [pk]; omega)
  simp only [pk] at e
  rw [decode_at_56 (fld_of (by omega))]
  have h0 := fld_of (w := wd) (lo := 1) (n := 2) (v := 2) (by omega)
  have h1 := bit_of (w := wd) (lo := 24) (x := u) (by omega)
  have h2 := bits_of (w := wd) (lo := 18) (x := d) (by omega)
  have h3 := bits_of (w := wd) (lo := 13) (x := gb) (by omega)
  have h4 := bits_of (w := wd) (lo := 7) (x := ix) (by omega)
  have h5 := bit_of (w := wd) (lo := 6) (x := ld) (by omega)
  have h6 := bit_of (w := wd) (lo := 5) (x := li) (by omega)
  have h7 := bit_of (w := wd) (lo := 4) (x := sx) (by omega)
  have h8 := bit_of (w := wd) (lo := 3) (x := fs) (by omega)
  have h9 := bit_of (w := wd) (lo := 0) (x := w) (by omega)
  simp [h0, h1, h2, h3, h4, h5, h6, h7, h8, h9]
theorem Codec.pfch (u : Bool) (gb : BitVec 5) (ix : BitVec 6) (li : Bool) (sx : Bool) (fs : Bool) (w : BitVec 3) : Statement (.pfch u gb ix li sx fs w) := by
  intro wd h
  have := u.toNat_lt; have := gb.isLt; have := ix.isLt; have := li.toNat_lt; have := sx.toNat_lt; have := fs.toNat_lt; have := w.isLt
  have e := word_toNat (Option.some.inj h) (by simp only [pk]; omega)
  simp only [pk] at e
  rw [decode_at_57 (fld_of (by omega))]
  have h0 := fld_of (w := wd) (lo := 18) (n := 6) (v := 0) (by omega)
  have h1 := fld_of (w := wd) (lo := 6) (n := 1) (v := 0) (by omega)
  have h2 := bit_of (w := wd) (lo := 24) (x := u) (by omega)
  have h3 := bits_of (w := wd) (lo := 13) (x := gb) (by omega)
  have h4 := bits_of (w := wd) (lo := 7) (x := ix) (by omega)
  have h5 := bit_of (w := wd) (lo := 5) (x := li) (by omega)
  have h6 := bit_of (w := wd) (lo := 4) (x := sx) (by omega)
  have h7 := bit_of (w := wd) (lo := 3) (x := fs) (by omega)
  have h8 := bits_of (w := wd) (lo := 0) (x := w) (by omega)
  simp [h0, h1, h2, h3, h4, h5, h6, h7, h8]
theorem Codec.copyG2s (ga : BitVec 5) (gb : BitVec 5) (gc : BitVec 5) (fs : Bool) (sc : BitVec 2) (acq : Bool) (rel : Bool) : Statement (.copyG2s ga gb gc fs sc acq rel) := by
  intro wd h
  obtain ⟨ho, -, f1, f2, f3, f4, f5, f6, f7, g0, -⟩ := layoutE (Option.some.inj h) 88 0 ga.toNat gb.toNat gc.toNat fs.toNat sc.toNat acq.toNat rel.toNat (by simp only [pk]; omega) (by decide) (by decide) ga.isLt gb.isLt gc.isLt fs.toNat_lt sc.isLt acq.toNat_lt rel.toNat_lt
  rw [decode_at_58 ho]
  simp [bits_of (x := ga) f1, bits_of (x := gb) f2, bits_of (x := gc) f3, bit_of (x := fs) f4, bits_of (x := sc) f5, bit_of (x := acq) f6, bit_of (x := rel) f7, g0]
theorem Codec.copyS2g (ga : BitVec 5) (gb : BitVec 5) (gc : BitVec 5) (fs : Bool) (sc : BitVec 2) (acq : Bool) (rel : Bool) : Statement (.copyS2g ga gb gc fs sc acq rel) := by
  intro wd h
  obtain ⟨ho, -, f1, f2, f3, f4, f5, f6, f7, g0, -⟩ := layoutE (Option.some.inj h) 88 1 ga.toNat gb.toNat gc.toNat fs.toNat sc.toNat acq.toNat rel.toNat (by simp only [pk]; omega) (by decide) (by decide) ga.isLt gb.isLt gc.isLt fs.toNat_lt sc.isLt acq.toNat_lt rel.toNat_lt
  rw [decode_at_58 ho]
  simp [bits_of (x := ga) f1, bits_of (x := gb) f2, bits_of (x := gc) f3, bit_of (x := fs) f4, bits_of (x := sc) f5, bit_of (x := acq) f6, bit_of (x := rel) f7, g0]
theorem Codec.copyG2o (ga : BitVec 5) (gb : BitVec 5) (gc : BitVec 5) (fs : Bool) (sc : BitVec 2) (acq : Bool) (rel : Bool) : Statement (.copyG2o ga gb gc fs sc acq rel) := by
  intro wd h
  obtain ⟨ho, -, f1, f2, f3, f4, f5, f6, f7, g0, -⟩ := layoutE (Option.some.inj h) 88 2 ga.toNat gb.toNat gc.toNat fs.toNat sc.toNat acq.toNat rel.toNat (by simp only [pk]; omega) (by decide) (by decide) ga.isLt gb.isLt gc.isLt fs.toNat_lt sc.isLt acq.toNat_lt rel.toNat_lt
  rw [decode_at_58 ho]
  simp [bits_of (x := ga) f1, bits_of (x := gb) f2, bits_of (x := gc) f3, bit_of (x := fs) f4, bits_of (x := sc) f5, bit_of (x := acq) f6, bit_of (x := rel) f7, g0]
theorem Codec.copyS2o (ga : BitVec 5) (gb : BitVec 5) (gc : BitVec 5) (fs : Bool) (sc : BitVec 2) (acq : Bool) (rel : Bool) : Statement (.copyS2o ga gb gc fs sc acq rel) := by
  intro wd h
  obtain ⟨ho, -, f1, f2, f3, f4, f5, f6, f7, g0, -⟩ := layoutE (Option.some.inj h) 88 3 ga.toNat gb.toNat gc.toNat fs.toNat sc.toNat acq.toNat rel.toNat (by simp only [pk]; omega) (by decide) (by decide) ga.isLt gb.isLt gc.isLt fs.toNat_lt sc.isLt acq.toNat_lt rel.toNat_lt
  rw [decode_at_58 ho]
  simp [bits_of (x := ga) f1, bits_of (x := gb) f2, bits_of (x := gc) f3, bit_of (x := fs) f4, bits_of (x := sc) f5, bit_of (x := acq) f6, bit_of (x := rel) f7, g0]
theorem Codec.copyG2g (ga : BitVec 5) (gb : BitVec 5) (gc : BitVec 5) (fs : Bool) (sc : BitVec 2) (acq : Bool) (rel : Bool) : Statement (.copyG2g ga gb gc fs sc acq rel) := by
  intro wd h
  obtain ⟨ho, -, f1, f2, f3, f4, f5, f6, f7, g0, -⟩ := layoutE (Option.some.inj h) 88 4 ga.toNat gb.toNat gc.toNat fs.toNat sc.toNat acq.toNat rel.toNat (by simp only [pk]; omega) (by decide) (by decide) ga.isLt gb.isLt gc.isLt fs.toNat_lt sc.isLt acq.toNat_lt rel.toNat_lt
  rw [decode_at_58 ho]
  simp [bits_of (x := ga) f1, bits_of (x := gb) f2, bits_of (x := gc) f3, bit_of (x := fs) f4, bits_of (x := sc) f5, bit_of (x := acq) f6, bit_of (x := rel) f7, g0]
theorem Codec.copyXa (ga : BitVec 5) (gb : BitVec 5) (gc : BitVec 5) (fs : Bool) (sc : BitVec 2) (acq : Bool) (rel : Bool) : Statement (.copyXa ga gb gc fs sc acq rel) := by
  intro wd h
  obtain ⟨ho, -, f1, f2, f3, f4, f5, f6, f7, g0, -⟩ := layoutE (Option.some.inj h) 88 5 ga.toNat gb.toNat gc.toNat fs.toNat sc.toNat acq.toNat rel.toNat (by simp only [pk]; omega) (by decide) (by decide) ga.isLt gb.isLt gc.isLt fs.toNat_lt sc.isLt acq.toNat_lt rel.toNat_lt
  rw [decode_at_58 ho]
  simp [bits_of (x := ga) f1, bits_of (x := gb) f2, bits_of (x := gc) f3, bit_of (x := fs) f4, bits_of (x := sc) f5, bit_of (x := acq) f6, bit_of (x := rel) f7, g0]
theorem Codec.copyS2s (ga : BitVec 5) (gb : BitVec 5) (gc : BitVec 5) (fs : Bool) (sc : BitVec 2) (acq : Bool) (rel : Bool) : Statement (.copyS2s ga gb gc fs sc acq rel) := by
  intro wd h
  obtain ⟨ho, -, f1, f2, f3, f4, f5, f6, f7, g0, -⟩ := layoutE (Option.some.inj h) 88 6 ga.toNat gb.toNat gc.toNat fs.toNat sc.toNat acq.toNat rel.toNat (by simp only [pk]; omega) (by decide) (by decide) ga.isLt gb.isLt gc.isLt fs.toNat_lt sc.isLt acq.toNat_lt rel.toNat_lt
  rw [decode_at_58 ho]
  simp [bits_of (x := ga) f1, bits_of (x := gb) f2, bits_of (x := gc) f3, bit_of (x := fs) f4, bits_of (x := sc) f5, bit_of (x := acq) f6, bit_of (x := rel) f7, g0]
theorem Codec.copyfG2o (ga : BitVec 5) (gb : BitVec 5) (gc : BitVec 5) (fs : Bool) (sc : BitVec 2) (acq : Bool) (rel : Bool) : Statement (.copyfG2o ga gb gc fs sc acq rel) := by
  intro wd h
  obtain ⟨ho, -, f1, f2, f3, f4, f5, f6, f7, g0, -⟩ := layoutE (Option.some.inj h) 89 0 ga.toNat gb.toNat gc.toNat fs.toNat sc.toNat acq.toNat rel.toNat (by simp only [pk]; omega) (by decide) (by decide) ga.isLt gb.isLt gc.isLt fs.toNat_lt sc.isLt acq.toNat_lt rel.toNat_lt
  rw [decode_at_59 ho]
  simp [bits_of (x := ga) f1, bits_of (x := gb) f2, bits_of (x := gc) f3, bit_of (x := fs) f4, bits_of (x := sc) f5, bit_of (x := acq) f6, bit_of (x := rel) f7, g0]
theorem Codec.copyfS2o (ga : BitVec 5) (gb : BitVec 5) (gc : BitVec 5) (fs : Bool) (sc : BitVec 2) (acq : Bool) (rel : Bool) : Statement (.copyfS2o ga gb gc fs sc acq rel) := by
  intro wd h
  obtain ⟨ho, -, f1, f2, f3, f4, f5, f6, f7, g0, -⟩ := layoutE (Option.some.inj h) 89 1 ga.toNat gb.toNat gc.toNat fs.toNat sc.toNat acq.toNat rel.toNat (by simp only [pk]; omega) (by decide) (by decide) ga.isLt gb.isLt gc.isLt fs.toNat_lt sc.isLt acq.toNat_lt rel.toNat_lt
  rw [decode_at_59 ho]
  simp [bits_of (x := ga) f1, bits_of (x := gb) f2, bits_of (x := gc) f3, bit_of (x := fs) f4, bits_of (x := sc) f5, bit_of (x := acq) f6, bit_of (x := rel) f7, g0]
theorem Codec.mma (acc : BitVec 6) (sa : BitVec 6) (sb : BitVec 6) (vf : BitVec 6) : Statement (.mma acc sa sb vf) := by
  intro wd h
  have := acc.isLt; have := sa.isLt; have := sb.isLt; have := vf.isLt
  have e := word_toNat (Option.some.inj h) (by simp only [pk]; omega)
  simp only [pk] at e
  rw [decode_at_5a (fld_of (by omega))]
  have h0 := fld_of (w := wd) (lo := 24) (n := 1) (v := 0) (by omega)
  have h1 := bits_of (w := wd) (lo := 18) (x := acc) (by omega)
  have h2 := bits_of (w := wd) (lo := 12) (x := sa) (by omega)
  have h3 := bits_of (w := wd) (lo := 6) (x := sb) (by omega)
  have h4 := bits_of (w := wd) (lo := 0) (x := vf) (by omega)
  simp [h0, h1, h2, h3, h4]
theorem Codec.accldG (ga : BitVec 5) (gb : BitVec 5) (gc : BitVec 5) (fs : Bool) (sc : BitVec 2) (acq : Bool) (rel : Bool) : Statement (.accldG ga gb gc fs sc acq rel) := by
  intro wd h
  obtain ⟨ho, -, f1, f2, f3, f4, f5, f6, f7, g0, -⟩ := layoutE (Option.some.inj h) 91 0 ga.toNat gb.toNat gc.toNat fs.toNat sc.toNat acq.toNat rel.toNat (by simp only [pk]; omega) (by decide) (by decide) ga.isLt gb.isLt gc.isLt fs.toNat_lt sc.isLt acq.toNat_lt rel.toNat_lt
  rw [decode_at_5b ho]
  simp [bits_of (x := ga) f1, bits_of (x := gb) f2, bits_of (x := gc) f3, bit_of (x := fs) f4, bits_of (x := sc) f5, bit_of (x := acq) f6, bit_of (x := rel) f7, g0]
theorem Codec.accldS (ga : BitVec 5) (gb : BitVec 5) (gc : BitVec 5) (fs : Bool) (sc : BitVec 2) (acq : Bool) (rel : Bool) : Statement (.accldS ga gb gc fs sc acq rel) := by
  intro wd h
  obtain ⟨ho, -, f1, f2, f3, f4, f5, f6, f7, g0, -⟩ := layoutE (Option.some.inj h) 91 1 ga.toNat gb.toNat gc.toNat fs.toNat sc.toNat acq.toNat rel.toNat (by simp only [pk]; omega) (by decide) (by decide) ga.isLt gb.isLt gc.isLt fs.toNat_lt sc.isLt acq.toNat_lt rel.toNat_lt
  rw [decode_at_5b ho]
  simp [bits_of (x := ga) f1, bits_of (x := gb) f2, bits_of (x := gc) f3, bit_of (x := fs) f4, bits_of (x := sc) f5, bit_of (x := acq) f6, bit_of (x := rel) f7, g0]
theorem Codec.accstG (ga : BitVec 5) (gb : BitVec 5) (gc : BitVec 5) (fs : Bool) (sc : BitVec 2) (acq : Bool) (rel : Bool) : Statement (.accstG ga gb gc fs sc acq rel) := by
  intro wd h
  obtain ⟨ho, -, f1, f2, f3, f4, f5, f6, f7, g0, -⟩ := layoutE (Option.some.inj h) 92 0 ga.toNat gb.toNat gc.toNat fs.toNat sc.toNat acq.toNat rel.toNat (by simp only [pk]; omega) (by decide) (by decide) ga.isLt gb.isLt gc.isLt fs.toNat_lt sc.isLt acq.toNat_lt rel.toNat_lt
  rw [decode_at_5c ho]
  simp [bits_of (x := ga) f1, bits_of (x := gb) f2, bits_of (x := gc) f3, bit_of (x := fs) f4, bits_of (x := sc) f5, bit_of (x := acq) f6, bit_of (x := rel) f7, g0]
theorem Codec.accstS (ga : BitVec 5) (gb : BitVec 5) (gc : BitVec 5) (fs : Bool) (sc : BitVec 2) (acq : Bool) (rel : Bool) : Statement (.accstS ga gb gc fs sc acq rel) := by
  intro wd h
  obtain ⟨ho, -, f1, f2, f3, f4, f5, f6, f7, g0, -⟩ := layoutE (Option.some.inj h) 92 1 ga.toNat gb.toNat gc.toNat fs.toNat sc.toNat acq.toNat rel.toNat (by simp only [pk]; omega) (by decide) (by decide) ga.isLt gb.isLt gc.isLt fs.toNat_lt sc.isLt acq.toNat_lt rel.toNat_lt
  rw [decode_at_5c ho]
  simp [bits_of (x := ga) f1, bits_of (x := gb) f2, bits_of (x := gc) f3, bit_of (x := fs) f4, bits_of (x := sc) f5, bit_of (x := acq) f6, bit_of (x := rel) f7, g0]
theorem Codec.slotClaim (ga : BitVec 5) (fs : Bool) (sc : BitVec 2) (acq : Bool) (rel : Bool) : Statement (.slotClaim ga fs sc acq rel) := by
  intro wd h
  obtain ⟨ho, -, f1, -, -, f4, f5, f6, f7, g0, -, -, g3, g4, -⟩ := layoutE (Option.some.inj h) 93 0 ga.toNat 0 0 fs.toNat sc.toNat acq.toNat rel.toNat (by simp only [pk]; omega) (by decide) (by decide) ga.isLt (by decide) (by decide) fs.toNat_lt sc.isLt acq.toNat_lt rel.toNat_lt
  rw [decode_at_5d ho]
  simp [bits_of (x := ga) f1, bit_of (x := fs) f4, bits_of (x := sc) f5, bit_of (x := acq) f6, bit_of (x := rel) f7, g0, g3, g4]
theorem Codec.slotRel (ga : BitVec 5) (fs : Bool) (sc : BitVec 2) (acq : Bool) (rel : Bool) : Statement (.slotRel ga fs sc acq rel) := by
  intro wd h
  obtain ⟨ho, -, f1, -, -, f4, f5, f6, f7, g0, -, -, g3, g4, -⟩ := layoutE (Option.some.inj h) 93 1 ga.toNat 0 0 fs.toNat sc.toNat acq.toNat rel.toNat (by simp only [pk]; omega) (by decide) (by decide) ga.isLt (by decide) (by decide) fs.toNat_lt sc.isLt acq.toNat_lt rel.toNat_lt
  rw [decode_at_5d ho]
  simp [bits_of (x := ga) f1, bit_of (x := fs) f4, bits_of (x := sc) f5, bit_of (x := acq) f6, bit_of (x := rel) f7, g0, g3, g4]
theorem Codec.slotHeld (gc : BitVec 5) (fs : Bool) (sc : BitVec 2) (acq : Bool) (rel : Bool) : Statement (.slotHeld gc fs sc acq rel) := by
  intro wd h
  obtain ⟨ho, -, -, -, f3, f4, f5, f6, f7, g0, -, -, g3, g4, -⟩ := layoutE (Option.some.inj h) 93 2 0 0 gc.toNat fs.toNat sc.toNat acq.toNat rel.toNat (by simp only [pk]; omega) (by decide) (by decide) (by decide) (by decide) gc.isLt fs.toNat_lt sc.isLt acq.toNat_lt rel.toNat_lt
  rw [decode_at_5d ho]
  simp [bits_of (x := gc) f3, bit_of (x := fs) f4, bits_of (x := sc) f5, bit_of (x := acq) f6, bit_of (x := rel) f7, g0, g3, g4]
theorem Codec.chainSet (ga : BitVec 5) (gb : BitVec 5) (gc : BitVec 5) (fs : Bool) (sc : BitVec 2) (acq : Bool) (rel : Bool) : Statement (.chainSet ga gb gc fs sc acq rel) := by
  intro wd h
  obtain ⟨ho, -, f1, f2, f3, f4, f5, f6, f7, g0, -, g2, -⟩ := layoutE (Option.some.inj h) 94 0 ga.toNat gb.toNat gc.toNat fs.toNat sc.toNat acq.toNat rel.toNat (by simp only [pk]; omega) (by decide) (by decide) ga.isLt gb.isLt gc.isLt fs.toNat_lt sc.isLt acq.toNat_lt rel.toNat_lt
  rw [decode_at_5e ho]
  simp [bits_of (x := ga) f1, bits_of (x := gb) f2, bits_of (x := gc) f3, bit_of (x := fs) f4, bits_of (x := sc) f5, bit_of (x := acq) f6, bit_of (x := rel) f7, g0, g2]
theorem Codec.chainAdv (ga : BitVec 5) (gb : BitVec 5) (fs : Bool) (sc : BitVec 2) (acq : Bool) (rel : Bool) : Statement (.chainAdv ga gb fs sc acq rel) := by
  intro wd h
  obtain ⟨ho, -, f1, f2, -, f4, f5, f6, f7, g0, -, g2, -⟩ := layoutE (Option.some.inj h) 94 1 ga.toNat gb.toNat 0 fs.toNat sc.toNat acq.toNat rel.toNat (by simp only [pk]; omega) (by decide) (by decide) ga.isLt gb.isLt (by decide) fs.toNat_lt sc.isLt acq.toNat_lt rel.toNat_lt
  rw [decode_at_5e ho]
  simp [bits_of (x := ga) f1, bits_of (x := gb) f2, bit_of (x := fs) f4, bits_of (x := sc) f5, bit_of (x := acq) f6, bit_of (x := rel) f7, g0, g2]
theorem Codec.seqw (ga : BitVec 5) (gb : BitVec 5) (fs : Bool) (sc : BitVec 2) (acq : Bool) (rel : Bool) : Statement (.seqw ga gb fs sc acq rel) := by
  intro wd h
  obtain ⟨ho, -, f1, f2, -, f4, f5, f6, f7, g0, -, g2, -⟩ := layoutE (Option.some.inj h) 95 0 ga.toNat gb.toNat 0 fs.toNat sc.toNat acq.toNat rel.toNat (by simp only [pk]; omega) (by decide) (by decide) ga.isLt gb.isLt (by decide) fs.toNat_lt sc.isLt acq.toNat_lt rel.toNat_lt
  rw [decode_at_5f ho]
  simp [bits_of (x := ga) f1, bits_of (x := gb) f2, bit_of (x := fs) f4, bits_of (x := sc) f5, bit_of (x := acq) f6, bit_of (x := rel) f7, g0, g2]
theorem Codec.kvgatK (ga : BitVec 5) (gb : BitVec 5) (gc : BitVec 5) (fs : Bool) (sc : BitVec 2) (acq : Bool) (rel : Bool) : Statement (.kvgatK ga gb gc fs sc acq rel) := by
  intro wd h
  obtain ⟨ho, -, f1, f2, f3, f4, f5, f6, f7, g0, -⟩ := layoutE (Option.some.inj h) 96 0 ga.toNat gb.toNat gc.toNat fs.toNat sc.toNat acq.toNat rel.toNat (by simp only [pk]; omega) (by decide) (by decide) ga.isLt gb.isLt gc.isLt fs.toNat_lt sc.isLt acq.toNat_lt rel.toNat_lt
  rw [decode_at_60 ho]
  simp [bits_of (x := ga) f1, bits_of (x := gb) f2, bits_of (x := gc) f3, bit_of (x := fs) f4, bits_of (x := sc) f5, bit_of (x := acq) f6, bit_of (x := rel) f7, g0]
theorem Codec.kvgatV (ga : BitVec 5) (gb : BitVec 5) (gc : BitVec 5) (fs : Bool) (sc : BitVec 2) (acq : Bool) (rel : Bool) : Statement (.kvgatV ga gb gc fs sc acq rel) := by
  intro wd h
  obtain ⟨ho, -, f1, f2, f3, f4, f5, f6, f7, g0, -⟩ := layoutE (Option.some.inj h) 96 1 ga.toNat gb.toNat gc.toNat fs.toNat sc.toNat acq.toNat rel.toNat (by simp only [pk]; omega) (by decide) (by decide) ga.isLt gb.isLt gc.isLt fs.toNat_lt sc.isLt acq.toNat_lt rel.toNat_lt
  rw [decode_at_60 ho]
  simp [bits_of (x := ga) f1, bits_of (x := gb) f2, bits_of (x := gc) f3, bit_of (x := fs) f4, bits_of (x := sc) f5, bit_of (x := acq) f6, bit_of (x := rel) f7, g0]
theorem Codec.kvapp (ga : BitVec 5) (gb : BitVec 5) (gc : BitVec 5) (fs : Bool) (sc : BitVec 2) (acq : Bool) (rel : Bool) : Statement (.kvapp ga gb gc fs sc acq rel) := by
  intro wd h
  obtain ⟨ho, -, f1, f2, f3, f4, f5, f6, f7, g0, -⟩ := layoutE (Option.some.inj h) 97 0 ga.toNat gb.toNat gc.toNat fs.toNat sc.toNat acq.toNat rel.toNat (by simp only [pk]; omega) (by decide) (by decide) ga.isLt gb.isLt gc.isLt fs.toNat_lt sc.isLt acq.toNat_lt rel.toNat_lt
  rw [decode_at_61 ho]
  simp [bits_of (x := ga) f1, bits_of (x := gb) f2, bits_of (x := gc) f3, bit_of (x := fs) f4, bits_of (x := sc) f5, bit_of (x := acq) f6, bit_of (x := rel) f7, g0]
theorem Codec.kvpinPin (ga : BitVec 5) (gb : BitVec 5) (fs : Bool) (sc : BitVec 2) (acq : Bool) (rel : Bool) : Statement (.kvpinPin ga gb fs sc acq rel) := by
  intro wd h
  obtain ⟨ho, -, f1, f2, -, f4, f5, f6, f7, g0, -, g2, -⟩ := layoutE (Option.some.inj h) 98 0 ga.toNat gb.toNat 0 fs.toNat sc.toNat acq.toNat rel.toNat (by simp only [pk]; omega) (by decide) (by decide) ga.isLt gb.isLt (by decide) fs.toNat_lt sc.isLt acq.toNat_lt rel.toNat_lt
  rw [decode_at_62 ho]
  simp [bits_of (x := ga) f1, bits_of (x := gb) f2, bit_of (x := fs) f4, bits_of (x := sc) f5, bit_of (x := acq) f6, bit_of (x := rel) f7, g0, g2]
theorem Codec.kvpinUnpin (ga : BitVec 5) (gb : BitVec 5) (fs : Bool) (sc : BitVec 2) (acq : Bool) (rel : Bool) : Statement (.kvpinUnpin ga gb fs sc acq rel) := by
  intro wd h
  obtain ⟨ho, -, f1, f2, -, f4, f5, f6, f7, g0, -, g2, -⟩ := layoutE (Option.some.inj h) 98 1 ga.toNat gb.toNat 0 fs.toNat sc.toNat acq.toNat rel.toNat (by simp only [pk]; omega) (by decide) (by decide) ga.isLt gb.isLt (by decide) fs.toNat_lt sc.isLt acq.toNat_lt rel.toNat_lt
  rw [decode_at_62 ho]
  simp [bits_of (x := ga) f1, bits_of (x := gb) f2, bit_of (x := fs) f4, bits_of (x := sc) f5, bit_of (x := acq) f6, bit_of (x := rel) f7, g0, g2]
theorem Codec.kvfrk (ga : BitVec 5) (gb : BitVec 5) (gc : BitVec 5) (fs : Bool) (sc : BitVec 2) (acq : Bool) (rel : Bool) : Statement (.kvfrk ga gb gc fs sc acq rel) := by
  intro wd h
  obtain ⟨ho, -, f1, f2, f3, f4, f5, f6, f7, g0, -⟩ := layoutE (Option.some.inj h) 99 0 ga.toNat gb.toNat gc.toNat fs.toNat sc.toNat acq.toNat rel.toNat (by simp only [pk]; omega) (by decide) (by decide) ga.isLt gb.isLt gc.isLt fs.toNat_lt sc.isLt acq.toNat_lt rel.toNat_lt
  rw [decode_at_63 ho]
  simp [bits_of (x := ga) f1, bits_of (x := gb) f2, bits_of (x := gc) f3, bit_of (x := fs) f4, bits_of (x := sc) f5, bit_of (x := acq) f6, bit_of (x := rel) f7, g0]
theorem Codec.hdlQuery (ga : BitVec 5) (gc : BitVec 5) (fs : Bool) (sc : BitVec 2) (acq : Bool) (rel : Bool) : Statement (.hdlQuery ga gc fs sc acq rel) := by
  intro wd h
  obtain ⟨ho, -, f1, -, f3, f4, f5, f6, f7, g0, g1, g2, -⟩ := layoutE (Option.some.inj h) 100 0 ga.toNat 0 gc.toNat fs.toNat sc.toNat acq.toNat rel.toNat (by simp only [pk]; omega) (by decide) (by decide) ga.isLt (by decide) gc.isLt fs.toNat_lt sc.isLt acq.toNat_lt rel.toNat_lt
  rw [decode_at_64 ho]
  simp [bits_of (x := ga) f1, bits_of (x := gc) f3, bit_of (x := fs) f4, bits_of (x := sc) f5, bit_of (x := acq) f6, bit_of (x := rel) f7, g0, g1, g2]
theorem Codec.hdlCommit (ga : BitVec 5) (gb : BitVec 5) (fs : Bool) (sc : BitVec 2) (acq : Bool) (rel : Bool) : Statement (.hdlCommit ga gb fs sc acq rel) := by
  intro wd h
  obtain ⟨ho, -, f1, f2, -, f4, f5, f6, f7, g0, g1, g2, -⟩ := layoutE (Option.some.inj h) 100 1 ga.toNat gb.toNat 0 fs.toNat sc.toNat acq.toNat rel.toNat (by simp only [pk]; omega) (by decide) (by decide) ga.isLt gb.isLt (by decide) fs.toNat_lt sc.isLt acq.toNat_lt rel.toNat_lt
  rw [decode_at_64 ho]
  simp [bits_of (x := ga) f1, bits_of (x := gb) f2, bit_of (x := fs) f4, bits_of (x := sc) f5, bit_of (x := acq) f6, bit_of (x := rel) f7, g0, g1, g2]
theorem Codec.hdlTrunc (ga : BitVec 5) (gb : BitVec 5) (fs : Bool) (sc : BitVec 2) (acq : Bool) (rel : Bool) : Statement (.hdlTrunc ga gb fs sc acq rel) := by
  intro wd h
  obtain ⟨ho, -, f1, f2, -, f4, f5, f6, f7, g0, g1, g2, -⟩ := layoutE (Option.some.inj h) 100 2 ga.toNat gb.toNat 0 fs.toNat sc.toNat acq.toNat rel.toNat (by simp only [pk]; omega) (by decide) (by decide) ga.isLt gb.isLt (by decide) fs.toNat_lt sc.isLt acq.toNat_lt rel.toNat_lt
  rw [decode_at_64 ho]
  simp [bits_of (x := ga) f1, bits_of (x := gb) f2, bit_of (x := fs) f4, bits_of (x := sc) f5, bit_of (x := acq) f6, bit_of (x := rel) f7, g0, g1, g2]
theorem Codec.pfxh (ga : BitVec 5) (gb : BitVec 5) (gc : BitVec 5) (fs : Bool) (sc : BitVec 2) (acq : Bool) (rel : Bool) : Statement (.pfxh ga gb gc fs sc acq rel) := by
  intro wd h
  obtain ⟨ho, -, f1, f2, f3, f4, f5, f6, f7, g0, -⟩ := layoutE (Option.some.inj h) 101 0 ga.toNat gb.toNat gc.toNat fs.toNat sc.toNat acq.toNat rel.toNat (by simp only [pk]; omega) (by decide) (by decide) ga.isLt gb.isLt gc.isLt fs.toNat_lt sc.isLt acq.toNat_lt rel.toNat_lt
  rw [decode_at_65 ho]
  simp [bits_of (x := ga) f1, bits_of (x := gb) f2, bits_of (x := gc) f3, bit_of (x := fs) f4, bits_of (x := sc) f5, bit_of (x := acq) f6, bit_of (x := rel) f7, g0]
theorem Codec.pfxl (ga : BitVec 5) (gb : BitVec 5) (gc : BitVec 5) (fs : Bool) (sc : BitVec 2) (acq : Bool) (rel : Bool) : Statement (.pfxl ga gb gc fs sc acq rel) := by
  intro wd h
  obtain ⟨ho, -, f1, f2, f3, f4, f5, f6, f7, g0, -⟩ := layoutE (Option.some.inj h) 102 0 ga.toNat gb.toNat gc.toNat fs.toNat sc.toNat acq.toNat rel.toNat (by simp only [pk]; omega) (by decide) (by decide) ga.isLt gb.isLt gc.isLt fs.toNat_lt sc.isLt acq.toNat_lt rel.toNat_lt
  rw [decode_at_66 ho]
  simp [bits_of (x := ga) f1, bits_of (x := gb) f2, bits_of (x := gc) f3, bit_of (x := fs) f4, bits_of (x := sc) f5, bit_of (x := acq) f6, bit_of (x := rel) f7, g0]
theorem Codec.pfxi (ga : BitVec 5) (gb : BitVec 5) (gc : BitVec 5) (fs : Bool) (sc : BitVec 2) (acq : Bool) (rel : Bool) : Statement (.pfxi ga gb gc fs sc acq rel) := by
  intro wd h
  obtain ⟨ho, -, f1, f2, f3, f4, f5, f6, f7, g0, -⟩ := layoutE (Option.some.inj h) 103 0 ga.toNat gb.toNat gc.toNat fs.toNat sc.toNat acq.toNat rel.toNat (by simp only [pk]; omega) (by decide) (by decide) ga.isLt gb.isLt gc.isLt fs.toNat_lt sc.isLt acq.toNat_lt rel.toNat_lt
  rw [decode_at_67 ho]
  simp [bits_of (x := ga) f1, bits_of (x := gb) f2, bits_of (x := gc) f3, bit_of (x := fs) f4, bits_of (x := sc) f5, bit_of (x := acq) f6, bit_of (x := rel) f7, g0]
theorem Codec.fputG (ga : BitVec 5) (gb : BitVec 5) (gc : BitVec 5) (fs : Bool) (sc : BitVec 2) (acq : Bool) (rel : Bool) : Statement (.fputG ga gb gc fs sc acq rel) := by
  intro wd h
  obtain ⟨ho, -, f1, f2, f3, f4, f5, f6, f7, g0, -⟩ := layoutE (Option.some.inj h) 104 0 ga.toNat gb.toNat gc.toNat fs.toNat sc.toNat acq.toNat rel.toNat (by simp only [pk]; omega) (by decide) (by decide) ga.isLt gb.isLt gc.isLt fs.toNat_lt sc.isLt acq.toNat_lt rel.toNat_lt
  rw [decode_at_68 ho]
  simp [bits_of (x := ga) f1, bits_of (x := gb) f2, bits_of (x := gc) f3, bit_of (x := fs) f4, bits_of (x := sc) f5, bit_of (x := acq) f6, bit_of (x := rel) f7, g0]
theorem Codec.fputS (ga : BitVec 5) (gb : BitVec 5) (gc : BitVec 5) (fs : Bool) (sc : BitVec 2) (acq : Bool) (rel : Bool) : Statement (.fputS ga gb gc fs sc acq rel) := by
  intro wd h
  obtain ⟨ho, -, f1, f2, f3, f4, f5, f6, f7, g0, -⟩ := layoutE (Option.some.inj h) 104 1 ga.toNat gb.toNat gc.toNat fs.toNat sc.toNat acq.toNat rel.toNat (by simp only [pk]; omega) (by decide) (by decide) ga.isLt gb.isLt gc.isLt fs.toNat_lt sc.isLt acq.toNat_lt rel.toNat_lt
  rw [decode_at_68 ho]
  simp [bits_of (x := ga) f1, bits_of (x := gb) f2, bits_of (x := gc) f3, bit_of (x := fs) f4, bits_of (x := sc) f5, bit_of (x := acq) f6, bit_of (x := rel) f7, g0]
theorem Codec.fputLz (ga : BitVec 5) (gb : BitVec 5) (gc : BitVec 5) (fs : Bool) (sc : BitVec 2) (acq : Bool) (rel : Bool) : Statement (.fputLz ga gb gc fs sc acq rel) := by
  intro wd h
  obtain ⟨ho, -, f1, f2, f3, f4, f5, f6, f7, g0, -⟩ := layoutE (Option.some.inj h) 104 2 ga.toNat gb.toNat gc.toNat fs.toNat sc.toNat acq.toNat rel.toNat (by simp only [pk]; omega) (by decide) (by decide) ga.isLt gb.isLt gc.isLt fs.toNat_lt sc.isLt acq.toNat_lt rel.toNat_lt
  rw [decode_at_68 ho]
  simp [bits_of (x := ga) f1, bits_of (x := gb) f2, bits_of (x := gc) f3, bit_of (x := fs) f4, bits_of (x := sc) f5, bit_of (x := acq) f6, bit_of (x := rel) f7, g0]
theorem Codec.fputLzg (ga : BitVec 5) (gb : BitVec 5) (gc : BitVec 5) (fs : Bool) (sc : BitVec 2) (acq : Bool) (rel : Bool) : Statement (.fputLzg ga gb gc fs sc acq rel) := by
  intro wd h
  obtain ⟨ho, -, f1, f2, f3, f4, f5, f6, f7, g0, -⟩ := layoutE (Option.some.inj h) 104 3 ga.toNat gb.toNat gc.toNat fs.toNat sc.toNat acq.toNat rel.toNat (by simp only [pk]; omega) (by decide) (by decide) ga.isLt gb.isLt gc.isLt fs.toNat_lt sc.isLt acq.toNat_lt rel.toNat_lt
  rw [decode_at_68 ho]
  simp [bits_of (x := ga) f1, bits_of (x := gb) f2, bits_of (x := gc) f3, bit_of (x := fs) f4, bits_of (x := sc) f5, bit_of (x := acq) f6, bit_of (x := rel) f7, g0]
theorem Codec.fgetG (ga : BitVec 5) (gb : BitVec 5) (gc : BitVec 5) (fs : Bool) (sc : BitVec 2) (acq : Bool) (rel : Bool) : Statement (.fgetG ga gb gc fs sc acq rel) := by
  intro wd h
  obtain ⟨ho, -, f1, f2, f3, f4, f5, f6, f7, g0, -⟩ := layoutE (Option.some.inj h) 105 0 ga.toNat gb.toNat gc.toNat fs.toNat sc.toNat acq.toNat rel.toNat (by simp only [pk]; omega) (by decide) (by decide) ga.isLt gb.isLt gc.isLt fs.toNat_lt sc.isLt acq.toNat_lt rel.toNat_lt
  rw [decode_at_69 ho]
  simp [bits_of (x := ga) f1, bits_of (x := gb) f2, bits_of (x := gc) f3, bit_of (x := fs) f4, bits_of (x := sc) f5, bit_of (x := acq) f6, bit_of (x := rel) f7, g0]
theorem Codec.fgetS (ga : BitVec 5) (gb : BitVec 5) (gc : BitVec 5) (fs : Bool) (sc : BitVec 2) (acq : Bool) (rel : Bool) : Statement (.fgetS ga gb gc fs sc acq rel) := by
  intro wd h
  obtain ⟨ho, -, f1, f2, f3, f4, f5, f6, f7, g0, -⟩ := layoutE (Option.some.inj h) 105 1 ga.toNat gb.toNat gc.toNat fs.toNat sc.toNat acq.toNat rel.toNat (by simp only [pk]; omega) (by decide) (by decide) ga.isLt gb.isLt gc.isLt fs.toNat_lt sc.isLt acq.toNat_lt rel.toNat_lt
  rw [decode_at_69 ho]
  simp [bits_of (x := ga) f1, bits_of (x := gb) f2, bits_of (x := gc) f3, bit_of (x := fs) f4, bits_of (x := sc) f5, bit_of (x := acq) f6, bit_of (x := rel) f7, g0]
theorem Codec.fatom (sub : BitVec 5) (ga : BitVec 5) (gb : BitVec 5) (gc : BitVec 5) (fs : Bool) (sc : BitVec 2) (acq : Bool) (rel : Bool) : Statement (.fatom sub ga gb gc fs sc acq rel) := by
  intro wd h
  obtain ⟨ho, f0, f1, f2, f3, f4, f5, f6, f7, -⟩ := layoutE (Option.some.inj h) 106 sub.toNat ga.toNat gb.toNat gc.toNat fs.toNat sc.toNat acq.toNat rel.toNat (by simp only [pk]; omega) (by decide) sub.isLt ga.isLt gb.isLt gc.isLt fs.toNat_lt sc.isLt acq.toNat_lt rel.toNat_lt
  rw [decode_at_6a ho]
  simp [bits_of (x := sub) f0, bits_of (x := ga) f1, bits_of (x := gb) f2, bits_of (x := gc) f3, bit_of (x := fs) f4, bits_of (x := sc) f5, bit_of (x := acq) f6, bit_of (x := rel) f7]
theorem Codec.fred (ga : BitVec 5) (gb : BitVec 5) (gc : BitVec 5) (fs : Bool) (sc : BitVec 2) (acq : Bool) (rel : Bool) : Statement (.fred ga gb gc fs sc acq rel) := by
  intro wd h
  obtain ⟨ho, -, f1, f2, f3, f4, f5, f6, f7, g0, -⟩ := layoutE (Option.some.inj h) 107 0 ga.toNat gb.toNat gc.toNat fs.toNat sc.toNat acq.toNat rel.toNat (by simp only [pk]; omega) (by decide) (by decide) ga.isLt gb.isLt gc.isLt fs.toNat_lt sc.isLt acq.toNat_lt rel.toNat_lt
  rw [decode_at_6b ho]
  simp [bits_of (x := ga) f1, bits_of (x := gb) f2, bits_of (x := gc) f3, bit_of (x := fs) f4, bits_of (x := sc) f5, bit_of (x := acq) f6, bit_of (x := rel) f7, g0]
theorem Codec.lzres (ga : BitVec 5) (gc : BitVec 5) (fs : Bool) (sc : BitVec 2) (acq : Bool) (rel : Bool) : Statement (.lzres ga gc fs sc acq rel) := by
  intro wd h
  obtain ⟨ho, -, f1, -, f3, f4, f5, f6, f7, g0, g1, -⟩ := layoutE (Option.some.inj h) 108 0 ga.toNat 0 gc.toNat fs.toNat sc.toNat acq.toNat rel.toNat (by simp only [pk]; omega) (by decide) (by decide) ga.isLt (by decide) gc.isLt fs.toNat_lt sc.isLt acq.toNat_lt rel.toNat_lt
  rw [decode_at_6c ho]
  simp [bits_of (x := ga) f1, bits_of (x := gc) f3, bit_of (x := fs) f4, bits_of (x := sc) f5, bit_of (x := acq) f6, bit_of (x := rel) f7, g0, g1]
theorem Codec.lzarm (ga : BitVec 5) (gb : BitVec 5) (gc : BitVec 5) (fs : Bool) (sc : BitVec 2) (acq : Bool) (rel : Bool) : Statement (.lzarm ga gb gc fs sc acq rel) := by
  intro wd h
  obtain ⟨ho, -, f1, f2, f3, f4, f5, f6, f7, g0, -⟩ := layoutE (Option.some.inj h) 109 0 ga.toNat gb.toNat gc.toNat fs.toNat sc.toNat acq.toNat rel.toNat (by simp only [pk]; omega) (by decide) (by decide) ga.isLt gb.isLt gc.isLt fs.toNat_lt sc.isLt acq.toNat_lt rel.toNat_lt
  rw [decode_at_6d ho]
  simp [bits_of (x := ga) f1, bits_of (x := gb) f2, bits_of (x := gc) f3, bit_of (x := fs) f4, bits_of (x := sc) f5, bit_of (x := acq) f6, bit_of (x := rel) f7, g0]
theorem Codec.lzrel (ga : BitVec 5) (fs : Bool) (sc : BitVec 2) (acq : Bool) (rel : Bool) : Statement (.lzrel ga fs sc acq rel) := by
  intro wd h
  obtain ⟨ho, -, f1, -, -, f4, f5, f6, f7, g0, -, -, g3, -⟩ := layoutE (Option.some.inj h) 110 0 ga.toNat 0 0 fs.toNat sc.toNat acq.toNat rel.toNat (by simp only [pk]; omega) (by decide) (by decide) ga.isLt (by decide) (by decide) fs.toNat_lt sc.isLt acq.toNat_lt rel.toNat_lt
  rw [decode_at_6e ho]
  simp [bits_of (x := ga) f1, bit_of (x := fs) f4, bits_of (x := sc) f5, bit_of (x := acq) f6, bit_of (x := rel) f7, g0, g3]
theorem Codec.lzqRd (ga : BitVec 5) (gc : BitVec 5) (fs : Bool) (sc : BitVec 2) (acq : Bool) (rel : Bool) : Statement (.lzqRd ga gc fs sc acq rel) := by
  intro wd h
  obtain ⟨ho, -, f1, -, f3, f4, f5, f6, f7, g0, g1, -, g3, -⟩ := layoutE (Option.some.inj h) 111 0 ga.toNat 0 gc.toNat fs.toNat sc.toNat acq.toNat rel.toNat (by simp only [pk]; omega) (by decide) (by decide) ga.isLt (by decide) gc.isLt fs.toNat_lt sc.isLt acq.toNat_lt rel.toNat_lt
  rw [decode_at_6f ho]
  simp [bits_of (x := ga) f1, bits_of (x := gc) f3, bit_of (x := fs) f4, bits_of (x := sc) f5, bit_of (x := acq) f6, bit_of (x := rel) f7, g0, g1, g3]
theorem Codec.lzqWait (ga : BitVec 5) (fs : Bool) (sc : BitVec 2) (acq : Bool) (rel : Bool) : Statement (.lzqWait ga fs sc acq rel) := by
  intro wd h
  obtain ⟨ho, -, f1, -, -, f4, f5, f6, f7, g0, g1, -, g3, -⟩ := layoutE (Option.some.inj h) 111 1 ga.toNat 0 0 fs.toNat sc.toNat acq.toNat rel.toNat (by simp only [pk]; omega) (by decide) (by decide) ga.isLt (by decide) (by decide) fs.toNat_lt sc.isLt acq.toNat_lt rel.toNat_lt
  rw [decode_at_6f ho]
  simp [bits_of (x := ga) f1, bit_of (x := fs) f4, bits_of (x := sc) f5, bit_of (x := acq) f6, bit_of (x := rel) f7, g0, g1, g3]
theorem Codec.rngW0 (u : Bool) (d : BitVec 6) (a : BitVec 6) (b : BitVec 6) (la : Bool) : Statement (.rngW0 u d a b la) := by
  intro wd h
  obtain ⟨ho, f0, f1, f2, f3, f4, -, -, -, -, -, -, -, -, -, g6, -⟩ := layoutR (Option.some.inj h) 112 u.toNat d.toNat a.toNat b.toNat la.toNat 0 0 0 (by simp only [pk]; omega) (by decide) u.toNat_lt d.isLt a.isLt b.isLt la.toNat_lt (by decide) (by decide) (by decide)
  rw [decode_at_70 ho]
  simp [bit_of (x := u) f0, bits_of (x := d) f1, bits_of (x := a) f2, bits_of (x := b) f3, bit_of (x := la) f4, g6]
theorem Codec.rngW1 (u : Bool) (d : BitVec 6) (a : BitVec 6) (b : BitVec 6) (la : Bool) : Statement (.rngW1 u d a b la) := by
  intro wd h
  obtain ⟨ho, f0, f1, f2, f3, f4, -, -, -, -, -, -, -, -, -, g6, -⟩ := layoutR (Option.some.inj h) 112 u.toNat d.toNat a.toNat b.toNat la.toNat 0 0 1 (by simp only [pk]; omega) (by decide) u.toNat_lt d.isLt a.isLt b.isLt la.toNat_lt (by decide) (by decide) (by decide)
  rw [decode_at_70 ho]
  simp [bit_of (x := u) f0, bits_of (x := d) f1, bits_of (x := a) f2, bits_of (x := b) f3, bit_of (x := la) f4, g6]
theorem Codec.rngW2 (u : Bool) (d : BitVec 6) (a : BitVec 6) (b : BitVec 6) (la : Bool) : Statement (.rngW2 u d a b la) := by
  intro wd h
  obtain ⟨ho, f0, f1, f2, f3, f4, -, -, -, -, -, -, -, -, -, g6, -⟩ := layoutR (Option.some.inj h) 112 u.toNat d.toNat a.toNat b.toNat la.toNat 0 0 2 (by simp only [pk]; omega) (by decide) u.toNat_lt d.isLt a.isLt b.isLt la.toNat_lt (by decide) (by decide) (by decide)
  rw [decode_at_70 ho]
  simp [bit_of (x := u) f0, bits_of (x := d) f1, bits_of (x := a) f2, bits_of (x := b) f3, bit_of (x := la) f4, g6]
theorem Codec.rngW3 (u : Bool) (d : BitVec 6) (a : BitVec 6) (b : BitVec 6) (la : Bool) : Statement (.rngW3 u d a b la) := by
  intro wd h
  obtain ⟨ho, f0, f1, f2, f3, f4, -, -, -, -, -, -, -, -, -, g6, -⟩ := layoutR (Option.some.inj h) 112 u.toNat d.toNat a.toNat b.toNat la.toNat 0 0 3 (by simp only [pk]; omega) (by decide) u.toNat_lt d.isLt a.isLt b.isLt la.toNat_lt (by decide) (by decide) (by decide)
  rw [decode_at_70 ho]
  simp [bit_of (x := u) f0, bits_of (x := d) f1, bits_of (x := a) f2, bits_of (x := b) f3, bit_of (x := la) f4, g6]
theorem Codec.rngUni (u : Bool) (d : BitVec 6) (a : BitVec 6) (b : BitVec 6) (la : Bool) : Statement (.rngUni u d a b la) := by
  intro wd h
  obtain ⟨ho, f0, f1, f2, f3, f4, -, -, -, -, -, -, -, -, -, g6, -⟩ := layoutR (Option.some.inj h) 112 u.toNat d.toNat a.toNat b.toNat la.toNat 0 0 4 (by simp only [pk]; omega) (by decide) u.toNat_lt d.isLt a.isLt b.isLt la.toNat_lt (by decide) (by decide) (by decide)
  rw [decode_at_70 ho]
  simp [bit_of (x := u) f0, bits_of (x := d) f1, bits_of (x := a) f2, bits_of (x := b) f3, bit_of (x := la) f4, g6]
theorem Codec.rngGum (u : Bool) (d : BitVec 6) (a : BitVec 6) (b : BitVec 6) (la : Bool) : Statement (.rngGum u d a b la) := by
  intro wd h
  obtain ⟨ho, f0, f1, f2, f3, f4, -, -, -, -, -, -, -, -, -, g6, -⟩ := layoutR (Option.some.inj h) 112 u.toNat d.toNat a.toNat b.toNat la.toNat 0 0 5 (by simp only [pk]; omega) (by decide) u.toNat_lt d.isLt a.isLt b.isLt la.toNat_lt (by decide) (by decide) (by decide)
  rw [decode_at_70 ho]
  simp [bit_of (x := u) f0, bits_of (x := d) f1, bits_of (x := a) f2, bits_of (x := b) f3, bit_of (x := la) f4, g6]
theorem Codec.smplMax (ga : BitVec 5) (gb : BitVec 5) (gc : BitVec 5) (fs : Bool) (sc : BitVec 2) (acq : Bool) (rel : Bool) : Statement (.smplMax ga gb gc fs sc acq rel) := by
  intro wd h
  obtain ⟨ho, -, f1, f2, f3, f4, f5, f6, f7, g0, -⟩ := layoutE (Option.some.inj h) 113 0 ga.toNat gb.toNat gc.toNat fs.toNat sc.toNat acq.toNat rel.toNat (by simp only [pk]; omega) (by decide) (by decide) ga.isLt gb.isLt gc.isLt fs.toNat_lt sc.isLt acq.toNat_lt rel.toNat_lt
  rw [decode_at_71 ho]
  simp [bits_of (x := ga) f1, bits_of (x := gb) f2, bits_of (x := gc) f3, bit_of (x := fs) f4, bits_of (x := sc) f5, bit_of (x := acq) f6, bit_of (x := rel) f7, g0]
theorem Codec.smplSmp (ga : BitVec 5) (gb : BitVec 5) (gc : BitVec 5) (fs : Bool) (sc : BitVec 2) (acq : Bool) (rel : Bool) : Statement (.smplSmp ga gb gc fs sc acq rel) := by
  intro wd h
  obtain ⟨ho, -, f1, f2, f3, f4, f5, f6, f7, g0, -⟩ := layoutE (Option.some.inj h) 113 1 ga.toNat gb.toNat gc.toNat fs.toNat sc.toNat acq.toNat rel.toNat (by simp only [pk]; omega) (by decide) (by decide) ga.isLt gb.isLt gc.isLt fs.toNat_lt sc.isLt acq.toNat_lt rel.toNat_lt
  rw [decode_at_71 ho]
  simp [bits_of (x := ga) f1, bits_of (x := gb) f2, bits_of (x := gc) f3, bit_of (x := fs) f4, bits_of (x := sc) f5, bit_of (x := acq) f6, bit_of (x := rel) f7, g0]
theorem Codec.smplRes (ga : BitVec 5) (gb : BitVec 5) (gc : BitVec 5) (fs : Bool) (sc : BitVec 2) (acq : Bool) (rel : Bool) : Statement (.smplRes ga gb gc fs sc acq rel) := by
  intro wd h
  obtain ⟨ho, -, f1, f2, f3, f4, f5, f6, f7, g0, -⟩ := layoutE (Option.some.inj h) 113 2 ga.toNat gb.toNat gc.toNat fs.toNat sc.toNat acq.toNat rel.toNat (by simp only [pk]; omega) (by decide) (by decide) ga.isLt gb.isLt gc.isLt fs.toNat_lt sc.isLt acq.toNat_lt rel.toNat_lt
  rw [decode_at_71 ho]
  simp [bits_of (x := ga) f1, bits_of (x := gb) f2, bits_of (x := gc) f3, bit_of (x := fs) f4, bits_of (x := sc) f5, bit_of (x := acq) f6, bit_of (x := rel) f7, g0]
theorem Codec.smrg (ga : BitVec 5) (gb : BitVec 5) (gc : BitVec 5) (fs : Bool) (sc : BitVec 2) (acq : Bool) (rel : Bool) : Statement (.smrg ga gb gc fs sc acq rel) := by
  intro wd h
  obtain ⟨ho, -, f1, f2, f3, f4, f5, f6, f7, g0, -⟩ := layoutE (Option.some.inj h) 114 0 ga.toNat gb.toNat gc.toNat fs.toNat sc.toNat acq.toNat rel.toNat (by simp only [pk]; omega) (by decide) (by decide) ga.isLt gb.isLt gc.isLt fs.toNat_lt sc.isLt acq.toNat_lt rel.toNat_lt
  rw [decode_at_72 ho]
  simp [bits_of (x := ga) f1, bits_of (x := gb) f2, bits_of (x := gc) f3, bit_of (x := fs) f4, bits_of (x := sc) f5, bit_of (x := acq) f6, bit_of (x := rel) f7, g0]
theorem Codec.acpt (ga : BitVec 5) (gb : BitVec 5) (gc : BitVec 5) (fs : Bool) (sc : BitVec 2) (acq : Bool) (rel : Bool) : Statement (.acpt ga gb gc fs sc acq rel) := by
  intro wd h
  obtain ⟨ho, -, f1, f2, f3, f4, f5, f6, f7, g0, -⟩ := layoutE (Option.some.inj h) 115 0 ga.toNat gb.toNat gc.toNat fs.toNat sc.toNat acq.toNat rel.toNat (by simp only [pk]; omega) (by decide) (by decide) ga.isLt gb.isLt gc.isLt fs.toNat_lt sc.isLt acq.toNat_lt rel.toNat_lt
  rw [decode_at_73 ho]
  simp [bits_of (x := ga) f1, bits_of (x := gb) f2, bits_of (x := gc) f3, bit_of (x := fs) f4, bits_of (x := sc) f5, bit_of (x := acq) f6, bit_of (x := rel) f7, g0]
theorem Codec.stop (ga : BitVec 5) (gb : BitVec 5) (gc : BitVec 5) (fs : Bool) (sc : BitVec 2) (acq : Bool) (rel : Bool) : Statement (.stop ga gb gc fs sc acq rel) := by
  intro wd h
  obtain ⟨ho, -, f1, f2, f3, f4, f5, f6, f7, g0, -⟩ := layoutE (Option.some.inj h) 116 0 ga.toNat gb.toNat gc.toNat fs.toNat sc.toNat acq.toNat rel.toNat (by simp only [pk]; omega) (by decide) (by decide) ga.isLt gb.isLt gc.isLt fs.toNat_lt sc.isLt acq.toNat_lt rel.toNat_lt
  rw [decode_at_74 ho]
  simp [bits_of (x := ga) f1, bits_of (x := gb) f2, bits_of (x := gc) f3, bit_of (x := fs) f4, bits_of (x := sc) f5, bit_of (x := acq) f6, bit_of (x := rel) f7, g0]
theorem Codec.emit (ga : BitVec 5) (gb : BitVec 5) (gc : BitVec 5) (fs : Bool) (sc : BitVec 2) (acq : Bool) (rel : Bool) : Statement (.emit ga gb gc fs sc acq rel) := by
  intro wd h
  obtain ⟨ho, -, f1, f2, f3, f4, f5, f6, f7, g0, -⟩ := layoutE (Option.some.inj h) 117 0 ga.toNat gb.toNat gc.toNat fs.toNat sc.toNat acq.toNat rel.toNat (by simp only [pk]; omega) (by decide) (by decide) ga.isLt gb.isLt gc.isLt fs.toNat_lt sc.isLt acq.toNat_lt rel.toNat_lt
  rw [decode_at_75 ho]
  simp [bits_of (x := ga) f1, bits_of (x := gb) f2, bits_of (x := gc) f3, bit_of (x := fs) f4, bits_of (x := sc) f5, bit_of (x := acq) f6, bit_of (x := rel) f7, g0]
theorem Codec.rqstCommit (ga : BitVec 5) (fs : Bool) (sc : BitVec 2) (acq : Bool) (rel : Bool) : Statement (.rqstCommit ga fs sc acq rel) := by
  intro wd h
  obtain ⟨ho, -, f1, -, -, f4, f5, f6, f7, g0, g1, -, g3, -⟩ := layoutE (Option.some.inj h) 118 0 ga.toNat 0 0 fs.toNat sc.toNat acq.toNat rel.toNat (by simp only [pk]; omega) (by decide) (by decide) ga.isLt (by decide) (by decide) fs.toNat_lt sc.isLt acq.toNat_lt rel.toNat_lt
  rw [decode_at_76 ho]
  simp [bits_of (x := ga) f1, bit_of (x := fs) f4, bits_of (x := sc) f5, bit_of (x := acq) f6, bit_of (x := rel) f7, g0, g3, g1]
theorem Codec.rqstQuery (ga : BitVec 5) (gc : BitVec 5) (fs : Bool) (sc : BitVec 2) (acq : Bool) (rel : Bool) : Statement (.rqstQuery ga gc fs sc acq rel) := by
  intro wd h
  obtain ⟨ho, -, f1, -, f3, f4, f5, f6, f7, g0, g1, -, g3, -⟩ := layoutE (Option.some.inj h) 118 1 ga.toNat 0 gc.toNat fs.toNat sc.toNat acq.toNat rel.toNat (by simp only [pk]; omega) (by decide) (by decide) ga.isLt (by decide) gc.isLt fs.toNat_lt sc.isLt acq.toNat_lt rel.toNat_lt
  rw [decode_at_76 ho]
  simp [bits_of (x := ga) f1, bits_of (x := gc) f3, bit_of (x := fs) f4, bits_of (x := sc) f5, bit_of (x := acq) f6, bit_of (x := rel) f7, g0, g3, g1]
theorem Codec.rqstFail (ga : BitVec 5) (fs : Bool) (sc : BitVec 2) (acq : Bool) (rel : Bool) : Statement (.rqstFail ga fs sc acq rel) := by
  intro wd h
  obtain ⟨ho, -, f1, -, -, f4, f5, f6, f7, g0, g1, -, g3, -⟩ := layoutE (Option.some.inj h) 118 2 ga.toNat 0 0 fs.toNat sc.toNat acq.toNat rel.toNat (by simp only [pk]; omega) (by decide) (by decide) ga.isLt (by decide) (by decide) fs.toNat_lt sc.isLt acq.toNat_lt rel.toNat_lt
  rw [decode_at_76 ho]
  simp [bits_of (x := ga) f1, bit_of (x := fs) f4, bits_of (x := sc) f5, bit_of (x := acq) f6, bit_of (x := rel) f7, g0, g3, g1]
theorem Codec.xredExp (ga : BitVec 5) (gb : BitVec 5) (gc : BitVec 5) (fs : Bool) (sc : BitVec 2) (acq : Bool) (rel : Bool) : Statement (.xredExp ga gb gc fs sc acq rel) := by
  intro wd h
  obtain ⟨ho, -, f1, f2, f3, f4, f5, f6, f7, g0, -⟩ := layoutE (Option.some.inj h) 119 0 ga.toNat gb.toNat gc.toNat fs.toNat sc.toNat acq.toNat rel.toNat (by simp only [pk]; omega) (by decide) (by decide) ga.isLt gb.isLt gc.isLt fs.toNat_lt sc.isLt acq.toNat_lt rel.toNat_lt
  rw [decode_at_77 ho]
  simp [bits_of (x := ga) f1, bits_of (x := gb) f2, bits_of (x := gc) f3, bit_of (x := fs) f4, bits_of (x := sc) f5, bit_of (x := acq) f6, bit_of (x := rel) f7, g0]
theorem Codec.xredSum (ga : BitVec 5) (gb : BitVec 5) (gc : BitVec 5) (fs : Bool) (sc : BitVec 2) (acq : Bool) (rel : Bool) : Statement (.xredSum ga gb gc fs sc acq rel) := by
  intro wd h
  obtain ⟨ho, -, f1, f2, f3, f4, f5, f6, f7, g0, -⟩ := layoutE (Option.some.inj h) 119 1 ga.toNat gb.toNat gc.toNat fs.toNat sc.toNat acq.toNat rel.toNat (by simp only [pk]; omega) (by decide) (by decide) ga.isLt gb.isLt gc.isLt fs.toNat_lt sc.isLt acq.toNat_lt rel.toNat_lt
  rw [decode_at_77 ho]
  simp [bits_of (x := ga) f1, bits_of (x := gb) f2, bits_of (x := gc) f3, bit_of (x := fs) f4, bits_of (x := sc) f5, bit_of (x := acq) f6, bit_of (x := rel) f7, g0]
theorem Codec.rep (cnt : BitVec 6) (dD : BitVec 4) (dA : BitVec 4) (dB : BitVec 4) : Statement (.rep cnt dD dA dB) := by
  intro wd h
  have := cnt.isLt; have := dD.isLt; have := dA.isLt; have := dB.isLt
  have e := word_toNat (Option.some.inj h) (by simp only [pk]; omega)
  simp only [pk] at e
  rw [decode_at_7e (fld_of (by omega))]
  have h0 := fld_of (w := wd) (lo := 0) (n := 7) (v := 0) (by omega)
  have h1 := bits_of (w := wd) (lo := 19) (x := cnt) (by omega)
  have h2 := bits_of (w := wd) (lo := 15) (x := dD) (by omega)
  have h3 := bits_of (w := wd) (lo := 11) (x := dA) (by omega)
  have h4 := bits_of (w := wd) (lo := 7) (x := dB) (by omega)
  simp [h0, h1, h2, h3, h4]
theorem Codec.clause (wait : BitVec 12) (setA : BitVec 4) (setB : BitVec 4) (len : BitVec 5) : Statement (.clause wait setA setB len) := by
  intro wd h
  have := wait.isLt; have := setA.isLt; have := setB.isLt; have := len.isLt
  have e := word_toNat (Option.some.inj h) (by simp only [pk]; omega)
  simp only [pk] at e
  rw [decode_at_7f (fld_of (by omega))]
  have h0 := bits_of (w := wd) (lo := 13) (x := wait) (by omega)
  have h1 := bits_of (w := wd) (lo := 9) (x := setA) (by omega)
  have h2 := bits_of (w := wd) (lo := 5) (x := setB) (by omega)
  have h3 := bits_of (w := wd) (lo := 0) (x := len) (by omega)
  simp [h0, h1, h2, h3]
theorem Codec.sqtdbWrite (fn : Nat) (q : Nat) (val : Word) : Statement (.sqtdbWrite fn q val) := fun _ h => nomatch h
theorem Codec.cqhdbWrite (fn : Nat) (q : Nat) (val : Word) : Statement (.cqhdbWrite fn q val) := fun _ h => nomatch h
theorem Codec.queueEnable (fn : Nat) (q : Nat) (val : Word) : Statement (.queueEnable fn q val) := fun _ h => nomatch h
theorem Codec.queueDisable (fn : Nat) (q : Nat) (val : Word) : Statement (.queueDisable fn q val) := fun _ h => nomatch h
theorem Codec.qctlErrClear (fn : Nat) (q : Nat) (val : Word) : Statement (.qctlErrClear fn q val) := fun _ h => nomatch h
theorem Codec.registerWrite (fn : Nat) (off : Nat) (width : Nat) (val : DWord) : Statement (.registerWrite fn off width val) := fun _ h => nomatch h
theorem Codec.devIdent (c : HostCmd) : Statement (.devIdent c) := fun _ h => nomatch h
theorem Codec.featNegotiate (c : HostCmd) : Statement (.featNegotiate c) := fun _ h => nomatch h
theorem Codec.tenantOpen (c : HostCmd) : Statement (.tenantOpen c) := fun _ h => nomatch h
theorem Codec.tenantClose (c : HostCmd) : Statement (.tenantClose c) := fun _ h => nomatch h
theorem Codec.memMap (c : HostCmd) : Statement (.memMap c) := fun _ h => nomatch h
theorem Codec.memMapUnmap (c : HostCmd) : Statement (.memMapUnmap c) := fun _ h => nomatch h
theorem Codec.imageLoad (c : HostCmd) : Statement (.imageLoad c) := fun _ h => nomatch h
theorem Codec.imageLoadRom (c : HostCmd) : Statement (.imageLoadRom c) := fun _ h => nomatch h
theorem Codec.poolCreate (c : HostCmd) : Statement (.poolCreate c) := fun _ h => nomatch h
theorem Codec.modelPlan (c : HostCmd) : Statement (.modelPlan c) := fun _ h => nomatch h
theorem Codec.modelPlanRom (c : HostCmd) : Statement (.modelPlanRom c) := fun _ h => nomatch h
theorem Codec.reqAdmit (c : HostCmd) : Statement (.reqAdmit c) := fun _ h => nomatch h
theorem Codec.reqCancel (c : HostCmd) : Statement (.reqCancel c) := fun _ h => nomatch h
theorem Codec.reqFork (c : HostCmd) : Statement (.reqFork c) := fun _ h => nomatch h
theorem Codec.reqQuery (c : HostCmd) : Statement (.reqQuery c) := fun _ h => nomatch h
theorem Codec.reqQueryRelease (c : HostCmd) : Statement (.reqQueryRelease c) := fun _ h => nomatch h
theorem Codec.launch (c : HostCmd) : Statement (.launch c) := fun _ h => nomatch h
theorem Codec.graphSubmit (c : HostCmd) : Statement (.graphSubmit c) := fun _ h => nomatch h
theorem Codec.preempt (c : HostCmd) : Statement (.preempt c) := fun _ h => nomatch h
theorem Codec.ctxExport (c : HostCmd) : Statement (.ctxExport c) := fun _ h => nomatch h
theorem Codec.ctxImport (c : HostCmd) : Statement (.ctxImport c) := fun _ h => nomatch h
theorem Codec.resume (c : HostCmd) : Statement (.resume c) := fun _ h => nomatch h
theorem Codec.fabricRoutesLoad (c : HostCmd) : Statement (.fabricRoutesLoad c) := fun _ h => nomatch h
theorem Codec.fabricRoutesFlip (c : HostCmd) : Statement (.fabricRoutesFlip c) := fun _ h => nomatch h
theorem Codec.fabricRoutesRetire (c : HostCmd) : Statement (.fabricRoutesRetire c) := fun _ h => nomatch h
theorem Codec.fabricRoutesExport (c : HostCmd) : Statement (.fabricRoutesExport c) := fun _ h => nomatch h
theorem Codec.kvExport (c : HostCmd) : Statement (.kvExport c) := fun _ h => nomatch h
theorem Codec.kvImport (c : HostCmd) : Statement (.kvImport c) := fun _ h => nomatch h
theorem Codec.snapArm (c : HostCmd) : Statement (.snapArm c) := fun _ h => nomatch h
theorem Codec.snapRead (c : HostCmd) : Statement (.snapRead c) := fun _ h => nomatch h
theorem Codec.alarmStatus (c : HostCmd) : Statement (.alarmStatus c) := fun _ h => nomatch h
theorem Codec.alarmStatusClear (c : HostCmd) : Statement (.alarmStatusClear c) := fun _ h => nomatch h
theorem Codec.fwPatch (c : HostCmd) : Statement (.fwPatch c) := fun _ h => nomatch h
theorem Codec.attest (c : HostCmd) : Statement (.attest c) := fun _ h => nomatch h
theorem Codec.keyLoad (c : HostCmd) : Statement (.keyLoad c) := fun _ h => nomatch h
theorem Codec.chipletReset (c : HostCmd) : Statement (.chipletReset c) := fun _ h => nomatch h
theorem Codec.telemetry (c : HostCmd) : Statement (.telemetry c) := fun _ h => nomatch h
theorem Codec.pcieReadCompletion (xfer : Nat) (chunk : Nat) : Statement (.pcieReadCompletion xfer chunk) := fun _ h => nomatch h
theorem Codec.routeAck (xfer : Nat) (quad : Nat) : Statement (.routeAck xfer quad) := fun _ h => nomatch h
theorem Codec.pcieReadTimeout (xfer : Nat) : Statement (.pcieReadTimeout xfer) := fun _ h => nomatch h
theorem Codec.consumerCountPoll (tenant : Nat) : Statement (.consumerCountPoll tenant) := fun _ h => nomatch h
theorem Codec.powerWindowEnd (r : PowerReading) : Statement (.powerWindowEnd r) := fun _ h => nomatch h
theorem Codec.coldReset (r : ResetReport) : Statement (.coldReset r) := fun _ h => nomatch h
theorem Codec.chipletFault (chip : Nat) : Statement (.chipletFault chip) := fun _ h => nomatch h
theorem Codec.fenceDrainComplete (chip : Nat) : Statement (.fenceDrainComplete chip) := fun _ h => nomatch h
theorem Codec.fenceTimeout (chip : Nat) : Statement (.fenceTimeout chip) := fun _ h => nomatch h
theorem Codec.chipletResetDone (chip : Nat) : Statement (.chipletResetDone chip) := fun _ h => nomatch h
theorem Codec.selftestPass (chip : Nat) : Statement (.selftestPass chip) := fun _ h => nomatch h
theorem Codec.selftestFail (chip : Nat) : Statement (.selftestFail chip) := fun _ h => nomatch h
theorem Codec.alarmSensor (sensor : Sensor) : Statement (.alarmSensor sensor) := fun _ h => nomatch h
theorem Codec.tempcHoldExpiry : Statement (.tempcHoldExpiry) := fun _ h => nomatch h
theorem Codec.snapshotPin : Statement (.snapshotPin) := fun _ h => nomatch h
theorem Codec.shootdownAck (sd : Nat) (chip : Nat) : Statement (.shootdownAck sd chip) := fun _ h => nomatch h
theorem Codec.recordRelaunch (ctx : Nat) (part : Nat) (slot : Nat) : Statement (.recordRelaunch ctx part slot) := fun _ h => nomatch h
theorem Codec.loadResultLand (op : Nat) (lanes : BitVec 16) : Statement (.loadResultLand op lanes) := fun _ h => nomatch h
theorem Codec.storeCommit (op : Nat) (lane : Nat) : Statement (.storeCommit op lane) := fun _ h => nomatch h
theorem Codec.atomicPerform (op : Nat) : Statement (.atomicPerform op) := fun _ h => nomatch h
theorem Codec.lltlbLookupDone (ctx : Nat) (victim : Nat) : Statement (.lltlbLookupDone ctx victim) := fun _ h => nomatch h
theorem Codec.walkComplete (walk : Nat) (victim : Nat) : Statement (.walkComplete walk victim) := fun _ h => nomatch h
theorem Codec.checkAnswer (ctx : Nat) : Statement (.checkAnswer ctx) := fun _ h => nomatch h
theorem Codec.raceRecordsArrive (ctx : Nat) : Statement (.raceRecordsArrive ctx) := fun _ h => nomatch h
theorem Codec.registerEccError (ctx : Nat) (site : EccSite) : Statement (.registerEccError ctx site) := fun _ h => nomatch h
theorem Codec.memoryEccError (line : Nat) : Statement (.memoryEccError line) := fun _ h => nomatch h
theorem Codec.huddleBinTimeout (ctx : Nat) : Statement (.huddleBinTimeout ctx) := fun _ h => nomatch h
theorem Codec.admissionStep (places : List Place) : Statement (.admissionStep places) := fun _ h => nomatch h
theorem Codec.launchComplete (id : Nat) : Statement (.launchComplete id) := fun _ h => nomatch h
theorem Codec.handlerStart (id : Nat) (place : Place) : Statement (.handlerStart id place) := fun _ h => nomatch h
theorem Codec.firmwareDispose (id : Nat) : Statement (.firmwareDispose id) := fun _ h => nomatch h
theorem Codec.xlateHoldTimeout (id : Nat) (seq : Nat) : Statement (.xlateHoldTimeout id seq) := fun _ h => nomatch h
theorem Codec.copyLineLand (cmd : Nat) (line : Nat) : Statement (.copyLineLand cmd line) := fun _ h => nomatch h
theorem Codec.engineComplete (cmd : Nat) : Statement (.engineComplete cmd) := fun _ h => nomatch h
theorem Codec.mmaStart (cmd : Nat) : Statement (.mmaStart cmd) := fun _ h => nomatch h
theorem Codec.mmaComplete (cmd : Nat) : Statement (.mmaComplete cmd) := fun _ h => nomatch h
theorem Codec.slotClaimGrant (cmd : Nat) : Statement (.slotClaimGrant cmd) := fun _ h => nomatch h
theorem Codec.chainEntryTake (core : Nat) (chain : Nat) : Statement (.chainEntryTake core chain) := fun _ h => nomatch h
theorem Codec.chainEntryComplete (cmd : Nat) : Statement (.chainEntryComplete cmd) := fun _ h => nomatch h
theorem Codec.gatherLineLand (cmd : Nat) (line : Nat) : Statement (.gatherLineLand cmd line) := fun _ h => nomatch h
theorem Codec.evictionStart (pool : Nat) : Statement (.evictionStart pool) := fun _ h => nomatch h
theorem Codec.evictionCopyDone (pool : Nat) (frame : Nat) : Statement (.evictionCopyDone pool frame) := fun _ h => nomatch h
theorem Codec.fetchStart (pool : Nat) (frame : Nat) : Statement (.fetchStart pool frame) := fun _ h => nomatch h
theorem Codec.fetchDone (pool : Nat) (frame : Nat) : Statement (.fetchDone pool frame) := fun _ h => nomatch h
theorem Codec.iterationForm (plan : Nat) : Statement (.iterationForm plan) := fun _ h => nomatch h
theorem Codec.iterationGraphComplete (plan : Nat) : Statement (.iterationGraphComplete plan) := fun _ h => nomatch h
theorem Codec.iterationComplete (plan : Nat) : Statement (.iterationComplete plan) := fun _ h => nomatch h
theorem Codec.deadlinePass (req : Nat) : Statement (.deadlinePass req) := fun _ h => nomatch h
theorem Codec.admissionKernelComplete (req : Nat) : Statement (.admissionKernelComplete req) := fun _ h => nomatch h
theorem Codec.packetForward (p : Packet) (port : Nat) : Statement (.packetForward p port) := fun _ h => nomatch h
theorem Codec.writePacket (p : Packet) (port : Nat) : Statement (.writePacket p port) := fun _ h => nomatch h
theorem Codec.catchPacket (p : Packet) (port : Nat) : Statement (.catchPacket p port) := fun _ h => nomatch h
theorem Codec.readPacket (p : Packet) (port : Nat) : Statement (.readPacket p port) := fun _ h => nomatch h
theorem Codec.readdataPacket (p : Packet) (port : Nat) : Statement (.readdataPacket p port) := fun _ h => nomatch h
theorem Codec.atomicPacket (p : Packet) (port : Nat) : Statement (.atomicPacket p port) := fun _ h => nomatch h
theorem Codec.atomreplyPacket (p : Packet) (port : Nat) : Statement (.atomreplyPacket p port) := fun _ h => nomatch h
theorem Codec.ackPacket (p : Packet) (port : Nat) : Statement (.ackPacket p port) := fun _ h => nomatch h
theorem Codec.nackPacket (p : Packet) (port : Nat) : Statement (.nackPacket p port) := fun _ h => nomatch h
theorem Codec.resvPacket (p : Packet) (port : Nat) : Statement (.resvPacket p port) := fun _ h => nomatch h
theorem Codec.resvreplyPacket (p : Packet) (port : Nat) : Statement (.resvreplyPacket p port) := fun _ h => nomatch h
theorem Codec.tornPacket (p : Packet) (port : Nat) : Statement (.tornPacket p port) := fun _ h => nomatch h
theorem Codec.abortPacket (p : Packet) (port : Nat) : Statement (.abortPacket p port) := fun _ h => nomatch h
theorem Codec.reducePacket (p : Packet) (port : Nat) : Statement (.reducePacket p port) := fun _ h => nomatch h
theorem Codec.redresultPacket (p : Packet) (port : Nat) : Statement (.redresultPacket p port) := fun _ h => nomatch h
theorem Codec.kvxferPacket (p : Packet) (port : Nat) : Statement (.kvxferPacket p port) := fun _ h => nomatch h
theorem Codec.ueMessage (m : UeMsg) : Statement (.ueMessage m) := fun _ h => nomatch h
theorem Codec.ueTransportFailure (xfer : Nat) : Statement (.ueTransportFailure xfer) := fun _ h => nomatch h
theorem Codec.linkDown (port : Nat) : Statement (.linkDown port) := fun _ h => nomatch h
theorem Codec.retransmitTimeout (dst : Nat) (seq : Nat) : Statement (.retransmitTimeout dst seq) := fun _ h => nomatch h
theorem Codec.catchSlotTimeout (core : Nat) (slot : Nat) : Statement (.catchSlotTimeout core slot) := fun _ h => nomatch h
theorem Codec.catchAbortTimeout (cmd : Nat) : Statement (.catchAbortTimeout cmd) := fun _ h => nomatch h
theorem Codec.reduceResendTimeout (cmd : Nat) : Statement (.reduceResendTimeout cmd) := fun _ h => nomatch h
theorem Codec.kvImportTimeout (xfer : Nat) : Statement (.kvImportTimeout xfer) := fun _ h => nomatch h
theorem Codec.kvExportTimeout (xfer : Nat) : Statement (.kvExportTimeout xfer) := fun _ h => nomatch h
theorem Codec.preemptFabricTimeout (tenant : Nat) : Statement (.preemptFabricTimeout tenant) := fun _ h => nomatch h
theorem Codec.contextImageCommit (tenant : Nat) : Statement (.contextImageCommit tenant) := fun _ h => nomatch h
theorem Codec.sectionRestore (tenant : Nat) (sect : Nat) (places : List Place) : Statement (.sectionRestore tenant sect places) := fun _ h => nomatch h
theorem Codec.slotTileUncorrectableError (cmd : Nat) : Statement (.slotTileUncorrectableError cmd) := fun _ h => nomatch h
theorem Codec.scratchpadStoreComplete (op : Nat) : Statement (.scratchpadStoreComplete op) := fun _ h => nomatch h

end Sys2Proof.Laws
end

