-- ==== Sys2Proof/Laws/Shapes.lean ====
section
/-! SUPPORT. The shapes of instructions: what one gives whose operands can be read and written. -/

namespace Sys2Proof.Claims
open Sys2Proof.Machine

theorem firstSome_none {α β : Type} (f : α → Option β) (l : List α) (h : ∀ a ∈ l, f a = none) : firstSome f l = none := by
  induction l with
  | nil => rfl
  | cons a t ih => simp only [firstSome, h a (by simp)]; exact ih fun x hx => h x (by simp [hx])

theorem getLsbD_of_and_zero {p m : BitVec 16} (h : p &&& m = 0) (l : Nat) (hl : m.getLsbD l = true) : p.getLsbD l = false := by
  have := congrArg (fun x => x.getLsbD l) h
  simpa [BitVec.getLsbD_and, hl] using this

/-- The conditions of R98 find nothing on operands that can be read and written. -/
theorem formTrap_none {g : Group} {u : Use} (hi : u.ill = false) (hn : u.nd = false)
    (hrv : ∀ n ∈ u.rv, CanReadV g u.lanes n) (hwv : ∀ n ∈ u.wv, CanWriteV g n)
    (hrg : ∀ n ∈ u.rg, CanReadG g n) (hwg : ∀ n ∈ u.wg, CanWriteG g n) : formTrap g u = none := by
  have h1 : ((u.rv ++ u.wv).any fun n => g.pendV.getLsbD n) = false := by
    simp only [List.any_eq_false, List.mem_append]; rintro n (h | h)
    · simp [(hrv n h).1]
    · simp only [CanWriteV] at hwv; simp [hwv n h]
  have h2 : ((u.rg ++ u.wg).any fun n => g.pendG.getLsbD n) = false := by
    simp only [List.any_eq_false, List.mem_append]; rintro n (h | h)
    · simp [(hrg n h).2.1]
    · simp [(hwg n h).2]
  have h3 : (u.rv.any fun n => (g.v.getD n none).isNone) = false := by
    simp only [List.any_eq_false]; intro n h
    obtain ⟨r, hr, -⟩ := (hrv n h).2; simp [hr]
  simp [formTrap, hi, hn, h1, h2, h3]

/-- No word that is read is poisoned. -/
theorem eccTrap_none {g : Group} {u : Use} (hrv : ∀ n ∈ u.rv, CanReadV g u.lanes n) (hrg : ∀ n ∈ u.rg, CanReadG g n) :
    eccTrap g u = none := by
  have h4 : poisonedV g u.rv u.lanes = none := by
    apply firstSome_none; intro n h
    obtain ⟨r, hr, hp⟩ := (hrv n h).2
    simp only [hr, Option.map_eq_none_iff, List.find?_eq_none]
    intro l hl
    simp only [lanesOf, List.mem_filter] at hl
    simp [getLsbD_of_and_zero hp l hl.2]
  have h5 : (u.rg.find? fun n => gBad g n) = none := by
    simp only [List.find?_eq_none]; intro n h; simp [(hrg n h).2.2]
  simp [eccTrap, h4, h5]

theorem check_none {g : Group} {u : Use} (hi : u.ill = false) (hn : u.nd = false)
    (hrv : ∀ n ∈ u.rv, CanReadV g u.lanes n) (hwv : ∀ n ∈ u.wv, CanWriteV g n)
    (hrg : ∀ n ∈ u.rg, CanReadG g n) (hwg : ∀ n ∈ u.wg, CanWriteG g n) : check g u = none := by
  simp only [check, formTrap_none hi hn hrv hwv hrg hwg]; exact eccTrap_none hrv hrg

/-- A long-latency instruction whose operands can be read and written, and whose flag can count, is at its acceptance checks. -/
theorem accepted_none {s : State} {c : Nat} {g : Group} {u : Use} {fs : Bool} {k : Out} (hi : u.ill = false) (hn : u.nd = false)
    (hrv : ∀ n ∈ u.rv, CanReadV g u.lanes n) (hwv : ∀ n ∈ u.wv, CanWriteV g n)
    (hrg : ∀ n ∈ u.rg, CanReadG g n) (hwg : ∀ n ∈ u.wg, CanWriteG g n) (hf : FlagFree g fs (flagSel g fs)) :
    Machine.accepted s c g u fs false k = k := by
  simp [Machine.accepted, formTrap_none hi hn hrv hwv hrg hwg, withFlag, hf.2.2, eccTrap_none hrv hrg]

theorem needs_room {s : State} {g : Group} {d : Nat} (h : HasRoom s g d) : needs g [d] ≤ pipeFree s g.core g.part g.slot := by
  have e : ([d] : List Nat).eraseDups = [d] := rfl
  simp only [needs, e]
  rcases h with h | h
  · have : (g.v.getD d none).isNone = false := by cases hx : g.v.getD d none <;> simp_all
    simp [List.filter, this]
  · refine Nat.le_trans ?_ h
    simp only [List.filter]; split <;> simp

theorem vec_state {s : State} {c : Nat} {g : Group} {d : Nat} (hd : d < 64) (marks : List Nat) (tag : Nat) (m : BitVec 16)
    (f : Nat → Word) {n : Nat} {o : Out}
    (ho : o = .next { s with groups := tset s.groups c (bump (stepPast (freeMarks (writeV g tag d m f) marks [d]))), nextKey := n }) :
    VecResult s c g o d marks m f := by
  have e : freeMarks (writeV g tag d m f) marks [d] = { g with v := (freeMarks (writeV g tag d m f) marks [d]).v } := rfl
  have hv : (bump (stepPast (freeMarks (writeV g tag d m f) marks [d]))).v = (freeMarks (writeV g tag d m f) marks [d]).v := by
    rw [e, step_v]
  have hk : ∀ k < 64, k ≠ d → (freeMarks (writeV g tag d m f) marks [d]).v.getD k none = if marks.contains k then none else g.v.getD k none := by
    intro k hk hne
    rw [freeMarks_get _ _ _ _ hk, writeV_ne _ _ _ _ _ _ hk hne]
    simp [hne]
  have hs : (freeMarks (writeV g tag d m f) marks [d]).v.getD d none = (writeV g tag d m f).v.getD d none := by
    rw [freeMarks_get _ _ _ _ hd]; simp
  refine ⟨_, _, ho, ?_, ?_, ?_, ?_⟩
  · conv => lhs; rw [e, step_v]
    rw [hv]
  · rw [hv, hs]; exact writeV_some g tag d m f hd
  · intro l hl
    rw [← readV_writeV_same g tag d m f hd l hl]
    simp only [readV, hv, hs]
  · rw [hv]; exact hk

theorem vec_commitV {s : State} {c : Nat} {g : Group} (hr : g.res = .running) (he : g.exec ≠ 0) {d : Nat} (hd : d < 64)
    (hn : HasRoom s g d) (u : Use) (f : Nat → Word) :
    VecResult s c g (commitV s c g u d f) d u.marks g.exec f :=
  vec_state hd _ _ _ _ (commitV_run hr he (needs_room hn) u f)

theorem uni_commitG {s : State} {c : Nat} {g : Group} (hr : g.res = .running) (d : Nat) (x : DWord) :
    UniResult s c g (commitG s c g d x) d [] x := by
  have e : writeG g d x = { g with g := (writeG g d x).g, gpoison := (writeG g d x).gpoison, v := g.v } := by
    conv => lhs; rw [writeG_frame]
  have hs : bump (stepPast (writeG g d x)) = { bump (stepPast g) with g := (writeG g d x).g, gpoison := (writeG g d x).gpoison, v := g.v } := by
    conv => lhs; rw [e]
    exact step_g _ _ _ _
  refine ⟨_, commitG_run hr d x, ?_, ?_, ?_⟩
  · rw [hs]
  · intro k hk
    rw [← readG_writeG g d k x hk]
    simp only [readG, hs]
  · intro k hk; rw [hs]; simp

theorem vec_shape {s : State} {c : Nat} {g : Group} {d a b : R6} {la lb im two rd : Bool} {k : Nat → Group → Out} {f : Nat → Word}
    (hi : Issues s c g) (ha : CanReadV g g.exec a.toNat) (hb : two = true → im = false → CanReadV g g.exec b.toNat)
    (hl : im = true → lb = false) (hd : rd = true → CanReadV g g.exec d.toNat) (hw : CanWriteV g d.toNat) (hroom : HasRoom s g d.toNat)
    (he : g.exec ≠ 0)
    (hk : k c g = checked s c g (useV g d a b la lb im two rd) (commitV s c g (useV g d a b la lb im two rd) d.toNat f)) :
    VecResult s c g (onGroup s k) d.toNat ((if la then [a.toNat] else []) ++ if lb && two then [b.toNat] else []) g.exec f := by
  rw [onGroup_run hi.1 hi.2.1 hi.2.2, hk, checked_ok]
  · exact vec_commitV hi.2.2 he d.isLt hroom _ _
  · apply check_none
    · simp only [useV]; cases im <;> simp_all
    · rfl
    · simp only [useV]; intro n hn
      simp only [List.mem_cons, List.mem_append] at hn
      rcases hn with rfl | hn | hn
      · exact ha
      · split at hn
        · next h => simp only [List.mem_singleton] at hn; subst hn; simp only [Bool.and_eq_true, Bool.not_eq_true'] at h; exact hb h.1 h.2
        · simp at hn
      · split at hn
        · next h => simp only [List.mem_singleton] at hn; subst hn; exact hd h
        · simp at hn
    · simp only [useV]; intro n hn; simp only [List.mem_singleton] at hn; subst hn; exact hw
    · simp [useV]
    · simp [useV]

theorem uni_shape {s : State} {c : Nat} {g : Group} {d a b : R6} {la lb im two rd : Bool} {k : Nat → Group → Out} {x : DWord}
    (hi : Issues s c g) (ha : CanReadG g a.toNat) (hb : two = true → im = false → CanReadG g b.toNat)
    (hla : la = false) (hlb : lb = false) (hd : rd = true → CanReadG g d.toNat) (hw : CanWriteG g d.toNat)
    (hk : k c g = checked s c g (useU d a b la lb im two rd) (commitG s c g d.toNat x)) :
    UniResult s c g (onGroup s k) d.toNat [] x := by
  rw [onGroup_run hi.1 hi.2.1 hi.2.2, hk, checked_ok]
  · exact uni_commitG hi.2.2 _ _
  · apply check_none
    · simp [useU, hla, hlb]
    · have h1 := hw.1; have h2 := ha.1
      simp only [useU, notG]
      cases two <;> cases im <;> simp_all [CanReadG] <;> omega
    · simp [useU]
    · simp [useU]
    · simp only [useU]; intro n hn
      simp only [List.mem_cons, List.mem_append] at hn
      rcases hn with rfl | hn | hn
      · exact ha
      · split at hn
        · next h => simp only [List.mem_singleton] at hn; subst hn; simp only [Bool.and_eq_true, Bool.not_eq_true'] at h; exact hb h.1 h.2
        · simp at hn
      · split at hn
        · next h => simp only [List.mem_singleton] at hn; subst hn; exact hd h
        · simp at hn
    · simp only [useU]; intro n hn; simp only [List.mem_singleton] at hn; subst hn; exact hw

theorem laneB_eq : @laneB = @srcB32 := rfl
theorem uniB_eq : @uniB = @srcB64 := rfl

theorem alu_vec {s : State} {c : Nat} {g : Group} {d a b : R6} {la lb im rd : Bool} {f f' : IntFn}
    (hi : Issues s c g) (ho : VecOperands s g d a b lb im rd) (hf : ∀ m n x y z, f m n x y z = f' m n x y z) :
    VecResult s c g (alu false d a b la lb im true rd f s) d.toNat (marked la a lb b) g.exec fun l =>
      f' g.mood 32 (readV g a.toNat l) (laneB g b im l) (readV g d.toNat l) := by
  obtain ⟨h1, h2, h3, h4, h5, h6, h7⟩ := ho
  have := vec_shape (two := true) (la := la) (f := fun l => f g.mood 32 (readV g a.toNat l) (srcB32 g b im l) (readV g d.toNat l))
    (k := fun c g => if false = true then checked s c g (useU d a b la lb im true rd)
        (commitG s c g d.toNat (f g.mood 64 (readG g a.toNat) (srcB64 g b im) (readG g d.toNat))) else
      checked s c g (useV g d a b la lb im true rd) (commitV s c g (useV g d a b la lb im true rd) d.toNat
      fun l => f g.mood 32 (readV g a.toNat l) (srcB32 g b im l) (readV g d.toNat l)))
    hi h2 (fun _ => h3) h1 h4 h5 h6 h7 rfl
  simp only [Bool.and_true] at this
  simp only [← hf]
  exact this

theorem alu_vec1 {s : State} {c : Nat} {g : Group} {d a : R6} {la : Bool} {f : IntFn} {f' : (m : Word) → (n : Nat) → BitVec n → BitVec n}
    (hi : Issues s c g) (ho : VecOperands s g d a 0 false true false) (hf : ∀ m n x y z, f m n x y z = f' m n x) :
    VecResult s c g (alu false d a 0 la false false false false f s) d.toNat (marked la a false 0) g.exec fun l =>
      f' g.mood 32 (readV g a.toNat l) := by
  obtain ⟨h1, h2, h3, h4, h5, h6, h7⟩ := ho
  have := vec_shape (two := false) (la := la) (lb := false) (b := 0) (im := false) (rd := false)
    (f := fun l => f g.mood 32 (readV g a.toNat l) (srcB32 g 0 false l) (readV g d.toNat l))
    (k := fun c g => if false = true then checked s c g (useU d a 0 la false false false false)
        (commitG s c g d.toNat (f g.mood 64 (readG g a.toNat) (srcB64 g 0 false) (readG g d.toNat))) else
      checked s c g (useV g d a 0 la false false false false) (commitV s c g (useV g d a 0 la false false false false) d.toNat
      fun l => f g.mood 32 (readV g a.toNat l) (srcB32 g 0 false l) (readV g d.toNat l)))
    hi h2 (by simp) (by simp) h4 h5 h6 h7 rfl
  simp only [Bool.and_false] at this
  simp only [hf] at this
  simp only [alu, hf]
  exact this

theorem alu_uni {s : State} {c : Nat} {g : Group} {d a b : R6} {la lb im rd : Bool} {f f' : IntFn}
    (hi : Issues s c g) (ho : UniOperands g d a b la lb im rd) (hf : ∀ m n x y z, f m n x y z = f' m n x y z) :
    UniResult s c g (alu true d a b la lb im true rd f s) d.toNat []
      (f' g.mood 64 (readG g a.toNat) (uniB g b im) (readG g d.toNat)) := by
  obtain ⟨h1, h2, h3, h4, h5, h6⟩ := ho
  rw [← hf]
  exact uni_shape (two := true) hi h3 (fun _ => h4) h1 h2 h6 h5 rfl

theorem alu_uni1 {s : State} {c : Nat} {g : Group} {d a : R6} {la : Bool} {f : IntFn} {f' : (m : Word) → (n : Nat) → BitVec n → BitVec n}
    (hi : Issues s c g) (ho : UniOperands g d a 0 la false true false) (hf : ∀ m n x y z, f m n x y z = f' m n x) :
    UniResult s c g (alu true d a 0 la false false false false f s) d.toNat [] (f' g.mood 64 (readG g a.toNat)) := by
  obtain ⟨h1, h2, h3, h4, h5, h6⟩ := ho
  rw [← hf g.mood 64 (readG g a.toNat) (srcB64 g 0 false) (readG g d.toNat)]
  exact uni_shape (two := false) hi h3 (by simp) h1 h2 h6 h5 rfl

theorem shl_min {n : Nat} (x : BitVec n) (k : Nat) : x <<< min k n = x <<< k := by
  by_cases h : k ≤ n
  · rw [Nat.min_eq_left h]
  · rw [Nat.min_eq_right (by omega), BitVec.shiftLeft_eq_zero (by omega), BitVec.shiftLeft_eq_zero (by omega)]
theorem shr_min {n : Nat} (x : BitVec n) (k : Nat) : x >>> min k n = x >>> k := by
  by_cases h : k ≤ n
  · rw [Nat.min_eq_left h]
  · rw [Nat.min_eq_right (by omega), BitVec.ushiftRight_eq_zero (by omega), BitVec.ushiftRight_eq_zero (by omega)]
theorem sshr_min {n : Nat} (x : BitVec n) (k : Nat) : x.sshiftRight (min k n) = x.sshiftRight k := by
  by_cases h : k ≤ n
  · rw [Nat.min_eq_left h]
  · rw [Nat.min_eq_right (by omega)]
    ext i hi
    simp only [BitVec.getElem_sshiftRight]
    rw [dif_neg (by omega), dif_neg (by omega)]

/-! ## Predicates -/

theorem pred_commitP {s : State} {c : Nat} {g : Group} (hr : g.res = .running) (u : Use) (n : Nat) (x : BitVec 16) :
    PredResult s c g (commitP s c g u n x) n u.marks x := by
  have e : freeMarks (writeP g n x) u.marks [] = { g with p := (writeP g n x).p, v := (freeMarks (writeP g n x) u.marks []).v } := rfl
  have hs : bump (stepPast (freeMarks (writeP g n x) u.marks [])) =
      { bump (stepPast g) with p := (writeP g n x).p, v := (freeMarks (writeP g n x) u.marks []).v } := by
    conv => lhs; rw [e]
    exact step_p _ _ _
  refine ⟨_, commitP_run hr u n x, ?_, ?_, ?_⟩
  · rw [hs]
  · intro k hk
    rw [← readP_writeP g n k x hk]
    simp only [readP, hs]
  · intro k hk
    rw [hs]
    simp only
    rw [freeMarks_get _ _ _ _ hk]
    simp [writeP]

theorem getLsbD_bits16 (f : Nat → Bool) (l : Nat) (h : l < 16) : (bits16 f).getLsbD l = f l := by
  simp only [bits16, BitVec.getLsbD_ofBoolListLE]
  rcases l with _ | _ | _ | _ | _ | _ | _ | _ | _ | _ | _ | _ | _ | _ | _ | _ | l <;> first | rfl | omega

/-- The form checks of an instruction whose operands can be read and written. -/
theorem check_ok {g : Group} {u : Use} (hi : u.ill = false) (hn : u.nd = false) (h : Operands g u.lanes u.rv u.wv u.rg u.wg) :
    check g u = none := check_none hi hn h.1 h.2.1 h.2.2.1 h.2.2.2

/-- A vector verdict. -/
theorem verdict_commitP {s : State} {c : Nat} {g : Group} (hr : g.res = .running) (u : Use) (n : Nat) {f : Nat → Bool} {R : Nat → Prop}
    (hR : ∀ l, f l = true ↔ R l) :
    LaneVerdict s c g (commitP s c g u n (bits16 fun l => if g.exec.getLsbD l then f l else (readP g n).getLsbD l)) n u.marks R := by
  refine ⟨_, pred_commitP hr u n _, ?_⟩
  intro l hl
  rw [getLsbD_bits16 _ _ hl]
  by_cases h : g.exec.getLsbD l = true
  · rw [if_pos h, if_pos h]; exact hR l
  · rw [if_neg h, if_neg h]

/-- A uniform verdict. -/
theorem verdict_uni {s : State} {c : Nat} {g : Group} (hr : g.res = .running) (n : Nat) {b : Bool} {R : Prop} (hR : b = true ↔ R) :
    UniVerdict s c g (commitP s c g {} n (if b then BitVec.allOnes 16 else 0)) n R := by
  refine ⟨fun h => ?_, fun h => ?_⟩
  · rw [if_pos (hR.mpr h)]; exact pred_commitP hr {} n _
  · rw [if_neg (fun hb => h (hR.mp hb))]; exact pred_commitP hr {} n _

end Sys2Proof.Claims
end

