-- ==== Sys2Proof/Tests/Slice0.lean ====
section
/-! SUPPORT. Tests: words that the spec writes out, terms that WellFormed refuses, states that meet the hypotheses of the statements, and single steps. -/

namespace Sys2Proof.Tests

open Sys2Proof.Machine Sys2Proof.Claims

/-! ## Words written out in the spec (the rule that prints each is named) -/

-- R105, R106, R108, R113, R115, R116: mood type=i8, sat; mood g5, type=bf16; mood type=f16, guard=p3, gneg; mask.set p2; mask.alive; br.div p1, +3; bar.arrive g4;
-- bar.wait g4; trap 42; sys.clk g6; sys.csrr g5, 2
theorem test_words_control :
    decodeWord 0x02001160 = some (.mood false 0 0x1160) ∧ decodeWord 0x03140040 = some (.mood true 5 0x40) ∧ decodeWord 0x0200003B = some (.mood false 0 0x3B) ∧
    decodeWord 0x04002000 = some (.maskSet 2) ∧ decodeWord 0x04000005 = some .maskAlive ∧ decodeWord 0x0E400003 = some (.brDiv 1 3) ∧
    decodeWord 0x19100002 = some (.barArrive 4) ∧ decodeWord 0x19004003 = some (.barWait 4) ∧ decodeWord 0x1C00002A = some (.trapUser 42) ∧
    decodeWord 0x1F180004 = some (.sysClk 6) ∧ decodeWord 0x1F140088 = some (.sysCsrr 5 2) ∧ decodeWord 0x1501F000 = some (.ret 31) := by decide

-- R73, R123, R126, R131, R134: iadd v3, v1, 5; iadd g7, g7, 1; imad v6, v4!, v5; shr.a v2, v2, 3; icmp.lt p1, v2, v3; mov v3, %tid
theorem test_words_integer :
    decodeWord 0x200C1148 = some (.iadd false 3 1 5 false false true) ∧ decodeWord 0x211C7048 = some (.iadd true 7 7 1 false false true) ∧
    decodeWord 0x28184160 = some (.imad false 6 4 5 true false false) ∧ decodeWord 0x3E0820C9 = some (.shrA false 2 2 3 false false true) ∧
    decodeWord 0x480420C2 = some (.icmpLt false 1 2 3 false false false) ∧ decodeWord 0x4C0C0001 = some (.movSpecial false 3 0) := by decide

-- R145, R147, R149, R151, R155, R156, R159: ffma v6, v4!, v5; fcmp.lt p0, v1, v2; frcp v2, v1!; cvt.p1 v3, v2; hadq v4, v2, g6; qpack v6, v2; dot4 v9, v4, v5
theorem test_words_float :
    decodeWord 0x66184160 = some (.ffma false 6 4 5 true false) ∧ decodeWord 0x6C001082 = some (.fcmpLt false 0 1 2 false false) ∧
    decodeWord 0x72081020 = some (.frcp false 2 1 true) ∧ decodeWord 0x800C2001 = some (.cvt false 3 2 false 1) ∧
    decodeWord 0x86102180 = some (.hadq 4 2 6 false) ∧ decodeWord 0x88182000 = some (.qpack 6 2 false) ∧
    decodeWord 0x8E244140 = some (.dot4 false 9 4 5 false false) ∧ decodeWord 0x641C4170 = some (.fmul false 7 4 5 true true) := by decide

-- R167, R168, R171, R172: fence.dev.acq; fence.sc.dev; atom.add.dev v6, g4, v2; xacc.add.x v8, g5, v1; ticket.dev g6, g2, g0
theorem test_words_memory :
    decodeWord 0x9E00000A = some (.fence false 2 true false) ∧ decodeWord 0x9E10000B = some (.fenceSc false 2) ∧
    decodeWord 0xA0188124 = some (.atom false 6 4 2 4 2 false) ∧ decodeWord 0xA620A090 = some (.xaccAdd 8 5 1 false false true false) ∧
    decodeWord 0xA9184004 = some (.ticket 6 2 0 2) ∧ decodeWord 0x90104094 = some (.ld false 4 2 1 false true false 4) ∧
    decodeWord 0x921C80F4 = some (.st false 7 4 1 true true true false 4) := by decide

-- R185, R190 to R192, R195, R196, R200 to R202: mma acc2, os0, os1, v3; slot.claim g7; slot.rel g7; chain.adv.dev.rel g4, g5; seqw.dev.acq g4, g5; kvgat.k.dev.acq g2, g3, g4;
-- kvapp.dev.rel g2, g3, g4; pfxh g4, g5, g6; pfxl g8, g9, g10; pfxi g8, g9, g10
theorem test_words_engines :
    decodeWord 0xB4080043 = some (.mma 2 0 1 3) ∧ decodeWord 0xBA038000 = some (.slotClaim 7 false 0 false false) ∧
    decodeWord 0xBA138000 = some (.slotRel 7 false 0 false false) ∧ decodeWord 0xBC121409 = some (.chainAdv 4 5 false 2 false true) ∧
    decodeWord 0xBE02140A = some (.seqw 4 5 false 2 true false) ∧ decodeWord 0xC0010C8A = some (.kvgatK 2 3 4 false 2 true false) ∧
    decodeWord 0xC2010C89 = some (.kvapp 2 3 4 false 2 false true) ∧ decodeWord 0xCA0214C0 = some (.pfxh 4 5 6 false 0 false false) ∧
    decodeWord 0xCC042540 = some (.pfxl 8 9 10 false 0 false false) ∧ decodeWord 0xCE042540 = some (.pfxi 8 9 10 false 0 false false) := by decide

-- R206 to R212, R215 to R221: rng.uni v4, v2, g6; fput.lz.sys.rel; fatom.add.64; fred; xred.sum; lzarm; lzres g4, g0, g7; lzq.wait.sys.acq g4; smpl.smp; smrg; acpt; stop; emit; rqst.commit g2
theorem test_words_fabric :
    decodeWord 0xE0102184 = some (.rngUni false 4 2 6 false) ∧ decodeWord 0xD02214CD = some (.fputLz 4 5 6 false 3 false true) ∧
    decodeWord 0xD54214C0 = some (.fatom 20 4 5 6 false 0 false false) ∧ decodeWord 0xD60214C0 = some (.fred 4 5 6 false 0 false false) ∧
    decodeWord 0xEE1214C0 = some (.xredSum 4 5 6 false 0 false false) ∧ decodeWord 0xDA0214C0 = some (.lzarm 4 5 6 false 0 false false) ∧
    decodeWord 0xD80200E0 = some (.lzres 4 7 false 0 false false) ∧ decodeWord 0xDE12000E = some (.lzqWait 4 false 3 true false) ∧
    decodeWord 0xE21214C0 = some (.smplSmp 4 5 6 false 0 false false) ∧ decodeWord 0xE40214C0 = some (.smrg 4 5 6 false 0 false false) ∧
    decodeWord 0xE6010C80 = some (.acpt 2 3 4 false 0 false false) ∧ decodeWord 0xE8010C80 = some (.stop 2 3 4 false 0 false false) ∧
    decodeWord 0xEA010C80 = some (.emit 2 3 4 false 0 false false) ∧ decodeWord 0xEC010000 = some (.rqstCommit 2 false 0 false false) := by decide

-- R83, R94: the headers of the spec's examples, and rep 4, 1, 1, 0
theorem test_words_clause :
    decodeWord 0xFE008022 = some (.clause 4 0 1 2) ∧ decodeWord 0xFE0061E3 = some (.clause 3 0 15 3) ∧ decodeWord 0xFE0005E6 = some (.clause 0 2 15 6) ∧
    decodeWord 0xFC188800 = some (.rep 3 1 1 0) := by decide

-- R72, R80, R103: an opcode of no row, nop with a field set, the uniform mask.set, and D of br set
theorem test_words_refused :
    decodeWord 0xF0000000 = none ∧ decodeWord 0x00000001 = none ∧ decodeWord 0x05002000 = none ∧ decodeWord 0x06200000 = none ∧
    decodeTableWord 32 0xF0000000 = none := by decide

/-! ## Terms that WellFormed refuses -/

/-- A command of no tenant. -/
def cmd0 : HostCmd := { fn := 0, q := 0, cid := 7, tenant := 0, rsv := false, a0 := 0, a1 := 0, a2 := 0, a3 := 0, a4 := 0, a5 := 0, pick := [] }

/-- A packet of a type, from device 5 to device 0. -/
def pkt (type : Nat) : Packet := 
  { type := type, bank := false, hop := 0, dst := 0, src := 5, af := 0, off := 0, aux := 0, seq := 0, payload := [], conf := false, tag := [] }

theorem test_wf_queues :
    (Instr.sqtdbWrite 0 64 0).wf = false ∧ (Instr.sqtdbWrite 1 8 0).wf = false ∧ (Instr.sqtdbWrite 33 0 0).wf = false ∧ (Instr.sqtdbWrite 0 63 0).wf = true ∧
    (Instr.cqhdbWrite 0 64 0).wf = false ∧ (Instr.queueEnable 0 0 0).wf = false ∧ (Instr.queueDisable 0 0 0x80000000).wf = false ∧
    (Instr.qctlErrClear 0 0 0).wf = false ∧ (Instr.registerWrite 33 0 4 0).wf = false ∧ (Instr.registerWrite 0 0x100000 4 0).wf = false ∧
    (Instr.registerWrite 0 0 3 0).wf = false ∧ (Instr.registerWrite 0 4 8 0).wf = false := by decide

theorem test_wf_commands :
    (Instr.devIdent { cmd0 with q := 64 }).wf = false ∧ (Instr.featNegotiate { cmd0 with fn := 33 }).wf = false ∧ (Instr.memMap { cmd0 with a2 := 64 }).wf = false ∧
    (Instr.memMapUnmap cmd0).wf = false ∧ (Instr.imageLoad { cmd0 with a0 := 0x8000000000000000 }).wf = false ∧ (Instr.imageLoadRom cmd0).wf = false ∧
    (Instr.modelPlan { cmd0 with a0 := 0x8000000000000000 }).wf = false ∧ (Instr.modelPlanRom cmd0).wf = false ∧ (Instr.reqQuery { cmd0 with a1 := 1 }).wf = false ∧
    (Instr.reqQueryRelease cmd0).wf = false ∧ (Instr.fabricRoutesLoad { cmd0 with a1 := 1 }).wf = false ∧ (Instr.fabricRoutesFlip cmd0).wf = false ∧
    (Instr.fabricRoutesRetire cmd0).wf = false ∧ (Instr.fabricRoutesExport cmd0).wf = false ∧ (Instr.alarmStatus { cmd0 with a0 := 1 }).wf = false ∧
    (Instr.alarmStatusClear cmd0).wf = false ∧ (Instr.launch cmd0).wf = true := by decide

theorem test_wf_events :
    (Instr.routeAck 0 4).wf = false ∧ (Instr.consumerCountPoll 4096).wf = false ∧ (Instr.powerWindowEnd { chips := [], base := 0, hbm := 0, lpddr := 0, serdes := 0, total := 0, sensors := [] }).wf = false ∧ (Instr.chipletFault 4).wf = false ∧
    (Instr.shootdownAck 0 4).wf = false ∧ (Instr.recordRelaunch 0 8 0).wf = false ∧ (Instr.recordRelaunch 0 0 32).wf = false ∧ (Instr.storeCommit 0 16).wf = false ∧
    (Instr.memoryEccError 64).wf = false ∧ (Instr.admissionStep [{ part := 8, slot := 0 }]).wf = false ∧ (Instr.handlerStart 0 { part := 0, slot := 32 }).wf = false ∧
    (Instr.chainEntryTake 256 0).wf = false ∧ (Instr.chainEntryTake 0 4).wf = false ∧ (Instr.linkDown 16).wf = false ∧ (Instr.catchSlotTimeout 0 16).wf = false ∧
    (Instr.sectionRestore 0 0 [{ part := 8, slot := 0 }]).wf = false := by decide

theorem test_wf_packets :
    (Instr.writePacket (pkt 1) 0).wf = false ∧ (Instr.catchPacket (pkt 0) 0).wf = false ∧ (Instr.readPacket (pkt 2) 17).wf = false ∧
    (Instr.packetForward (pkt 16) 0).wf = false ∧ (Instr.packetForward { pkt 0 with hop := 8 } 0).wf = false ∧ (Instr.packetForward { pkt 0 with dst := 4096 } 0).wf = false ∧
    (Instr.packetForward { pkt 0 with src := 4096 } 0).wf = false ∧ (Instr.packetForward { pkt 0 with af := 2 ^ 49 } 0).wf = false ∧
    (Instr.packetForward { pkt 0 with seq := 2 ^ 39 } 0).wf = false ∧ (Instr.packetForward { pkt 0 with payload := [0] } 0).wf = false ∧
    (Instr.writePacket (pkt 0) 16).wf = true := by decide

/-! ## A machine that runs one group, for the statements' hypotheses -/

/-- A register of sixteen equal words. -/
def word (x : Word) : VReg := { tag := 0, w := Vector.replicate 16 x, poison := 0 }

/-- A group at the only body word of its clause: v names 0 to 47 hold registers, p1 is set in lanes 0 to 7, the header names flags 0 and 1. -/
def gb : Group := { fetchGroup 1 1 with
  v := Vector.ofFn fun i => if i.val < 48 then some (word (BitVec.ofNat 32 i.val)) else none
  p := #v[0, 0x00FF, 0xFFFF, 0, 0, 0, 0, 0] }

/-- That group issues its word, on the machine that one launch of one group was brought to. -/
def sg (g : Group) : State :=
  { (State.reset.withFetchWord 32 0) with turns := [], cur := some 1, groups := [(1, g)] }
def sb : State := sg gb

theorem issues_sg (g : Group) : g.res = .running → Issues (sg g) 1 g := fun h => ⟨rfl, rfl, h⟩
theorem issues_sb : Issues sb 1 gb := issues_sg gb rfl

theorem reads_gb (n : Nat) (m : BitVec 16) (h : n < 48) : CanReadV gb m n := by
  refine ⟨?_, word (BitVec.ofNat 32 n), ?_, ?_⟩
  · simp [gb, fetchGroup]
  · have : n < 64 := by omega
    simp [gb, Vector.getD, this, h]
  · simp [word]

theorem readsG_gb (n : Nat) (h : n < 32) : CanReadG gb n := ⟨h, by simp [gb, fetchGroup], by simp [gBad, gb, fetchGroup]⟩
theorem writesG_gb (n : Nat) (h : n < 32) : CanWriteG gb n := ⟨h, by simp [gb, fetchGroup]⟩
theorem writes_gb (n : Nat) : CanWriteV gb n := by simp [CanWriteV, gb, fetchGroup]
theorem room_sb (n : Nat) (h : n < 64) : HasRoom sb gb n := .inr (by decide)

-- An integer, floating or conversion instruction: D new, the same name as A, and B an immediate.
theorem witness_vector_operands : Issues sb 1 gb ∧ VecOperands sb gb 60 1 2 true false false ∧ VecOperands sb gb 3 3 3 false false true ∧
    VecOperands sb gb 63 1 0x20 false true false ∧ VecOperands sb gb 3 1 0 false true false ∧ moodType gb.mood ≤ 2 := by
  refine ⟨issues_sb, ?_, ?_, ?_, ?_, by decide⟩ <;>
    refine ⟨by simp, reads_gb _ _ (by decide), by first | (intro; exact reads_gb _ _ (by decide)) | simp, ?_, writes_gb _, room_sb _ (by decide), by decide⟩ <;>
    first | (intro; exact reads_gb _ _ (by decide)) | simp
theorem witness_uniform_operands : UniOperands gb 31 1 2 false false false true ∧ UniOperands gb 0 1 0 false false true false :=
  ⟨⟨rfl, rfl, readsG_gb _ (by decide), fun _ => readsG_gb _ (by decide), writesG_gb _ (by decide), fun _ => readsG_gb _ (by decide)⟩,
    ⟨rfl, rfl, readsG_gb _ (by decide), fun h => absurd h (by decide), writesG_gb _ (by decide), fun h => absurd h (by decide)⟩⟩
theorem witness_dot4_types : Issues (sg { gb with mood := 0x160#32 }) 1 { gb with mood := 0x160#32 } ∧ moodType 0x160#32 = 11 ∧ moodType 0x180#32 = 12 := by
  refine ⟨issues_sg _ rfl, by decide, by decide⟩
theorem witness_compare : VecReads gb 1 2 false false ∧ (7 : R6).toNat < 8 ∧ CanReadG gb 31 ∧ moodType gb.mood ≤ 2 :=
  ⟨⟨by simp, reads_gb _ _ (by decide), fun _ => reads_gb _ _ (by decide)⟩, by decide, readsG_gb _ (by decide), by decide⟩
-- Specials 0 and 9, the last format code, and a scaled address.
theorem witness_moves : CanWriteV gb 63 ∧ HasRoom sb gb 63 ∧ gb.exec ≠ 0 ∧ (9 : R6).toNat < 10 ∧ 3 ≤ (9 : R6).toNat ∧ CanReadG gb 31 ∧ CanReadV gb gb.exec 0 ∧
    (31 : R6).toNat < 32 ∧ CanWriteG gb 0 ∧ (6 : BitVec 3) ≠ 7 :=
  ⟨writes_gb _, room_sb _ (by decide), by decide, by decide, by decide, readsG_gb _ (by decide), reads_gb _ _ (by decide), by decide, writesG_gb _ (by decide), by decide⟩

theorem witness_predicates : Issues sb 1 gb ∧ (7 : R6).toNat < 8 ∧ CanReadG gb 31 ∧ CanWriteG gb 0 ∧
    fld 0x4E042080 25 7 = 0x27 ∧ (decodeWord 0x4E042080).isSome = true ∧ decodeWord 0x4E042084 = none :=
  ⟨issues_sb, by decide, readsG_gb _ (by decide), writesG_gb _ (by decide), by decide, by decide, by decide⟩
-- MOOD 0, and the largest codes that R62 allows.
theorem witness_mask_and_mood : Issues sb 1 gb ∧ LegalMood (moodOfImm 0) ∧ LegalMood 0xC098F ∧ (readG gb 1).toNat < 2 ^ 32 ∧ LegalMood ((readG gb 1).setWidth 32) := by
  refine ⟨issues_sb, ?_, ?_, by decide, ?_⟩ <;> (unfold LegalMood; decide)
-- Addresses in no space, in the fabric window, in a page that the core has and in one whose translation it has not.
def gaddr (a : DWord) : Group := { gb with g := gb.g.set 2 a }
def stlb (g : Group) : State := { sg g with cores := [(0, { coreOf (sg g) 0 with tlb := [{ asid := 1, va := 0, size := 536870912, pa := 0x20000000, rt := false, x := true, w := true }] })] }
theorem witness_system : Issues sb 1 gb ∧ CanWriteG gb 3 ∧
    2 ^ 55 ≤ (readG (gaddr 0x80000000000000) 2).toNat ∧ 2 ^ 54 ≤ (readG (gaddr 0x40000000000000) 2).toNat ∧ (readG (gaddr 0x40000000000000) 2).toNat < 2 ^ 55 ∧
    (readG (gaddr 0x1000) 2).toNat < 2 ^ 54 ∧ tlbLook (stlb (gaddr 0x1000)) (gaddr 0x1000) 0x1000 = .pa 0x20001000 false true ∧
    tlbLook (sg { gb with walkFault := some (0, .xlate) }) { gb with walkFault := some (0, .xlate) } 0 = .walkFault .xlate ∧
    sb.sec.snap.armed = false ∧ sb.sec.snap.latched = none :=
  ⟨issues_sb, writesG_gb _ (by decide), by decide, by decide, by decide, by decide, by decide, by decide, rfl, rfl⟩
-- Every lane a member; the lane indexes 0 and 15; rooms for the results; the summing and the ordering types.
theorem witness_cross_lane : Issues sb 1 gb ∧ Members gb ∧ memberMask gb ≠ 0 ∧ CanReadV gb (memberMask gb) 1 ∧ CanReadV gb (memberMask gb) 47 ∧ CanWriteV gb 63 ∧
    RoomFor sb gb [63] ∧ moodType gb.mood ≤ 2 ∧ moodType gb.mood ≠ 1 ∧ moodType gb.mood ≠ 2 ∧ (15 : R6).toNat < 16 ∧
    (memberMask gb).getLsbD (0 : R6).toNat = true ∧ (memberMask gb).getLsbD (15 : R6).toNat = true := by
  refine ⟨issues_sb, by unfold Members; decide, by decide, reads_gb _ _ (by decide), reads_gb _ _ (by decide), writes_gb _, ?_, by decide, by decide, by decide, by decide, by decide, by decide⟩
  unfold RoomFor; decide
-- MOOD that guards with p1: lanes 8 to 15 are no members.
theorem witness_guarded_members : Members { gb with mood := 0x11#32 } ∧ memberMask { gb with mood := 0x11#32 } = 0x00FF ∧ (7 : R6).toNat < 8 ∧ CanWriteG gb 31 :=
  ⟨by unfold Members; decide, by decide, by decide, writesG_gb _ (by decide)⟩
-- lea to a pair; cvt down and up; a block with all lanes; qpack's types; a counter pair; rng with the Umpire.
def gpack : Group := { gb with mood := 0xA0#32 }
theorem witness_formats : CanReadG gb 31 ∧ CanReadV gb gb.exec 47 ∧ (62 : R6).toNat % 2 = 0 ∧ CanWriteV gb 62 ∧ CanWriteV gb 63 ∧ RoomFor sb gb [62, 63] ∧ gb.exec = 0xFFFF ∧
    elemWidth (moodSrc gb.mood) = some 32 ∧ elemWidth (moodType gb.mood) = some 32 ∧ (0 : BitVec 2).toNat < cvtRatio 32 32 ∧
    elemWidth (moodType 0x160#32) = some 8 ∧ (3 : BitVec 2).toNat < cvtRatio 32 8 ∧ moodType gpack.mood = 5 ∧ moodType 0xC0#32 = 6 ∧ Issues (sg gpack) 1 gpack ∧
    featOn sb 4 = true ∧ CanReadG gb 30 := by
  refine ⟨readsG_gb _ (by decide), reads_gb _ _ (by decide), by decide, writes_gb _, writes_gb _, ?_, rfl, by decide, by decide, by decide, by decide, by decide, by decide,
    by decide, issues_sg _ rfl, by decide, readsG_gb _ (by decide)⟩
  unfold RoomFor; decide

/-! ## Control -/

theorem fetch_sg (g : Group) (h : g.launch = 1) (x : Nat) : fetchWord (sg g) 0 (asidOf (sg g) g.launch) x = fetchWord (State.reset.withFetchWord 32 0) 0 1 x := by
  rw [h]; rfl

/-- The group at the word at 0x1000, where the header's own word follows; headers stand at 0x1000 and 0x1008. -/
theorem header_sb (x : DWord) (h : x = 0x1000 ∨ x = 0x1008) : HeaderAt sb gb x := by
  rcases h with rfl | rfl <;> exact ⟨0xFE000021, by decide, by decide⟩
def gpred (p1 : BitVec 16) : Group := { gb with p := gb.p.set 1 p1 }
theorem header_sg (p : BitVec 16) (x : DWord) (h : x = 0x1000 ∨ x = 0x1008) : HeaderAt (sg (gpred p)) (gpred p) x := by
  rcases h with rfl | rfl <;> exact ⟨0xFE000021, (fetch_sg _ rfl _).trans (by decide), by decide⟩
-- The word stands at 0x1004: a branch by -1 goes to 0x1000, one not taken to 0x1008, one by +1000 where no header stands.
theorem witness_uniform_branches : Issues sb 1 gb ∧ AtEnd gb ∧ wordAddr gb + 4 * (0x1FFFFF#21).signExtend 64 = 0x1000 ∧ HeaderAt sb gb 0x1000 ∧
    HeaderAt sb gb (wordAddr gb + 4) ∧ SomeTaken gb 1 ∧ ¬SomeTaken gb 0 ∧ AllTaken gb 2 ∧ ¬AllTaken gb 1 ∧ CanWriteG gb 31 ∧ CanReadG (gaddr 0x1008) 2 ∧
    HeaderAt (sg (gaddr 0x1008)) (gaddr 0x1008) (readG (gaddr 0x1008) 2) ∧ ¬HeaderAt sb gb (wordAddr gb + 4 * (1000#21).signExtend 64) := by
  refine ⟨issues_sb, rfl, by decide, header_sb _ (.inl rfl), header_sb _ (.inr (by decide)), ⟨0, by decide, by decide, by decide⟩, ?_, ⟨by decide, ?_⟩, ?_, writesG_gb _ (by decide),
    ⟨by decide, by decide, by decide⟩, ⟨0xFE000021, (fetch_sg _ rfl _).trans (by decide), by decide⟩, ?_⟩
  · unfold SomeTaken; decide
  · decide
  · unfold AllTaken; decide
  · rintro ⟨w, h1, h2⟩
    have h3 : fetchWord sb gb.core (asidOf sb gb.launch) (wordAddr gb + 4 * (1000#21).signExtend 64).toNat = some 0#32 := by decide
    rw [h3] at h1
    rw [← Option.some.inj h1] at h2
    exact absurd h2 (by decide)
-- At 0x2004 no header follows, nor does one stand at the address 0 that g5 holds.
theorem no_header {s : State} {g : Group} {x : DWord} (h : (fetchWord s g.core (asidOf s g.launch) x.toNat).all (fun w => w.toNat / 2 ^ 25 != 127) = true) : ¬HeaderAt s g x := by
  rintro ⟨w, h1, h2⟩
  rw [h1] at h
  exact bne_iff_ne.mp (show (w.toNat / 2 ^ 25 != 127) = true from h) h2
def gfar : Group := { gb with pc := 0x2000 }
theorem witness_btgt : Issues (sg gfar) 1 gfar ∧ AtEnd gfar ∧ NothingPending gfar ∧ gfar.llSeen = false ∧ ¬HeaderAt (sg gfar) gfar (wordAddr gfar + 4) ∧ ¬SomeTaken gfar 0 ∧ SomeTaken gfar 1 ∧ ¬AllTaken gfar 1 ∧
    (5 : R6).toNat < 32 ∧ ¬HeaderAt (sg gfar) gfar (readG gfar (5 : R6).toNat) ∧ readP gfar 0 &&& gfar.exec = 0 ∧ gfar.exec &&& ~~~(readP gfar 1 &&& gfar.exec) ≠ 0 := by
  refine ⟨issues_sg _ rfl, rfl, by unfold NothingPending; decide, rfl, no_header (by decide), ?_, ⟨0, by decide, by decide, by decide⟩, ?_, by decide, no_header (by decide), by decide, by decide⟩
  · unfold SomeTaken; decide
  · unfold AllTaken; decide
-- No active thread takes the branch, all do, eight of sixteen do (the tie), and nine do.
theorem witness_divergent : Issues (sg (gpred 0x01FF)) 1 (gpred 0x01FF) ∧ AtEnd (gpred 0x01FF) ∧ (gpred 0x01FF).llSeen = false ∧ NothingPending (gpred 0x01FF) ∧
    readP (gpred 0) 1 &&& gb.exec = 0 ∧ readP (gpred 0xFFFF) 1 &&& gb.exec ≠ 0 ∧ gb.exec &&& ~~~(readP (gpred 0xFFFF) 1 &&& gb.exec) = 0 ∧
    gb.exec &&& ~~~(readP (gpred 0x01FF) 1 &&& gb.exec) ≠ 0 ∧ popCount (readP gb 1 &&& gb.exec) = popCount (gb.exec &&& ~~~(readP gb 1 &&& gb.exec)) ∧
    HeaderAt (sg (gpred 0x01FF)) (gpred 0x01FF) (wordAddr (gpred 0x01FF) + 4) ∧
    HeaderAt (sg (gpred 0x01FF)) (gpred 0x01FF) (wordAddr (gpred 0x01FF) + 4 * (0x1FFFFF#21).signExtend 64) := by
  refine ⟨issues_sg _ rfl, rfl, rfl, ?_, by decide, by decide, by decide, by decide, by decide, header_sg _ _ (.inr (by decide)), header_sg _ _ (.inl (by decide))⟩
  unfold NothingPending; decide
theorem witness_join_and_end : NothingPending gb ∧ wholeHome sb 1 gb = true ∧
    wholeHome { sb with groups := [(1, { gb with alive := 0xFF }), (2, { gb with alive := 0xFF00 })] } 1 { gb with alive := 0xFF } = false ∧
    Issues (sg { gb with exec := 0 }) 1 { gb with exec := 0 } ∧ gb.exec ≠ 0 ∧ gb.alive &&& ~~~gb.exec = 0 ∧
    ({ gb with exec := 1 } : Group).alive &&& ~~~({ gb with exec := 1 } : Group).exec ≠ 0 := by
  refine ⟨?_, by decide, by decide, issues_sg _ rfl, by decide, by decide, by decide⟩
  unfold NothingPending; decide
theorem free_gb : FlagFree gb false 0 ∧ FlagFree gb true 1 := by unfold FlagFree; decide
-- Barriers 0 and 15; counts 1 and 16, the workgroup's threads.
theorem witness_barriers : Issues sb 1 gb ∧ FlagFree gb false 0 ∧ CanWriteG gb 4 ∧ CanReadG gb 31 ∧ (readG (gaddr 15) 2).toNat ≤ 15 ∧ readG (gaddr 16) 2 ≠ 0 ∧
    (readG (gaddr 16) 2).toNat ≤ wgThreads (sg (gaddr 16)) 1 ∧ (readG (gaddr 1) 2).toNat ≤ wgThreads sb 1 :=
  ⟨issues_sb, free_gb.1, writesG_gb _ (by decide), readsG_gb _ (by decide), by decide, by decide, by decide, by decide⟩
/-- A group at its clause header, with counts on flag 0. -/
def gh (n : Nat) (e : BitVec 12) : Group := { gb with coff := 0, flags := gb.flags.set 0 { count := n, err := false }, engFlags := e }
theorem witness_clause : Issues (sg (gh 0 0)) 1 (gh 0 0) ∧ LegalHeader 0 1 ∧ LegalHeader 11 15 ∧ LegalHeader 15 15 ∧ (gh 0 0).coff = 0 ∧ (gh 0 0).cedes = [] ∧
    (∀ f < 12, (1 : BitVec 12).getLsbD f = true → flagCount (gh 0 0) f = 0) ∧ (gh 0 0).engFlags &&& 1 = 0 ∧ (gh 0 1).engFlags &&& 1 ≠ 0 ∧
    (∃ f < 12, (1 : BitVec 12).getLsbD f = true ∧ 0 < flagCount (gh 63 0) f) ∧ FlagFree gb false 0 ∧
    ((∀ f < 12, (1 : BitVec 12).getLsbD f = true → f ∉ ({ gh 0 0 with cedes := [1] } : Group).cedes) ∧
      (∀ f < 12, (1 : BitVec 12).getLsbD f = true → flagCount (endCedes { gh 0 0 with cedes := [1] }) f = 0)) := by
  refine ⟨issues_sg _ rfl, ?_, ?_, ?_, rfl, rfl, by decide, by decide, by decide, ⟨0, by decide, by decide, by decide⟩, free_gb.1, by decide, by decide⟩ <;>
    (unfold LegalHeader; decide)
-- A header that waits on the flag of a cede, alone and with another count on it; a WAIT record with room in the dugout, with a dugout that is full and spill cell 1
-- the lowest free, and with no cell.
def gcd (n : Nat) : Group := { gh n 0 with cedes := [0] }
theorem witness_wait_on_cede : Issues (sg (gcd 1)) 1 (gcd 1) ∧ (∃ f < 12, (1 : BitVec 12).getLsbD f = true ∧ f ∈ (gcd 1).cedes) ∧
    (∀ f < 12, (1 : BitVec 12).getLsbD f = true → flagCount (endCedes (gcd 1)) f = 0) ∧ ∃ f < 12, (1 : BitVec 12).getLsbD f = true ∧ 0 < flagCount (endCedes (gcd 2)) f :=
  ⟨issues_sg _ rfl, ⟨0, by decide, by decide, by decide⟩, by decide, ⟨0, by decide, by decide, by decide⟩⟩
def sful (cells : Nat) : State := { sg (gh 1 0) with
  groups := [(1, gh 1 0), (2, { gb with res := .ready, store := .dugout 100000 }), (3, { gb with res := .ready, store := .spill 0 })]
  launches := [(1, { fetchLaunch with desc := { fetchDesc with spillN := 4480 * cells } })] }
theorem witness_wait_record : recordSize (sg (gh 1 0)) 1 (waitsIn (sg (gh 1 0)) 1 { gh 1 0 with waitm := 1 }) / 64 ≤ dugoutFree (sg (gh 1 0)) 0 ∧
    dugoutFree (sful 2) 0 < recordSize (sful 2) 1 (waitsIn (sful 2) 1 { gh 1 0 with waitm := 1 }) / 64 ∧ LowestCell (sful 2) 1 1 ∧
    ∀ k < (descOf (sful 1) 1).spillN / 4480, k ∈ cellsUsed (sful 1) 1 := by
  refine ⟨by decide, by decide, ?_, by decide⟩
  unfold LowestCell; decide
-- rep 2, 1, 1, 0 before iadd, in a clause of two words.
def grep2 : Group := { gb with len := 2 }
def srep : State := { (State.reset.withFetchWord 32 0xFC08C400) with turns := [], cur := some 1, groups := [(1, grep2)] }
theorem witness_repeat : Issues srep 1 grep2 ∧ fetchWord srep grep2.core (asidOf srep grep2.launch) (wordAddr grep2 + 4).toNat = some 0x22000000 ∧
    repIll grep2 0x22000000 1 1 0 = false := ⟨⟨rfl, rfl, rfl⟩, by decide, by decide⟩
theorem witness_traps : (∃ k, tget sb.launches gb.launch = some k ∧ k.fq.length < 64 ∧ ∀ w, tget sb.wgs gb.wg = some w → w.handler = none) ∧
    sb.sec.snap.classes.getLsbD 18 = false := by
  refine ⟨⟨fetchLaunch, by decide, by decide, ?_⟩, by decide⟩
  intro w h
  have : some w = some fetchWg := h.symm.trans (by decide)
  exact Option.some.inj this ▸ rfl
def gheld : Group := { gb with res := .held, region := 2 ^ 32 - 2 }
def rec0 (code : Nat) : FaultRec :=
  { seq := 0, pc := 0x1000, code := code, kind := 0, coff := 1, repi := 0, lane := none, chain := 0, addr := 0, va := 0, launch := 1, wglin := 0,
    tidlo := 0, task := 0, ext := [], ctx := some 1, cmd := none, heldAt := 0, fw := false }
theorem witness_return : tget (sg gheld).groups 1 = some gheld ∧ gheld.res = .held ∧ (rec0 18).kind = 0 ∧ (rec0 5).ctx = some 1 ∧ gheld.region + 1 < 2 ^ 32 ∧
    stwPending (sg gheld) 1 = false ∧ decodeWord 0x1C00002A = some (.trapUser 42) ∧ decodeWord 0x1C04002A = none := ⟨rfl, rfl, rfl, rfl, by decide, by decide, by decide, by decide⟩
-- A handler group, and a queue of 64 records.
theorem witness_trap_in_handler : (∃ w, tget ({ sb with wgs := [(1, { fetchWg with handler := some 0 })] } : State).wgs gb.wg = some w ∧ w.handler.isSome = true) ∧
    ¬({ fetchLaunch with fq := List.replicate 64 (rec0 5) } : Launch).fq.length < 64 := ⟨⟨_, rfl, rfl⟩, by decide⟩
-- A name that is owed a result; names 48 and above, which hold no register, an imad's D among them; v1 with a word poisoned in lane 4; and the same of g names.
def gpoi : Group := { gb with v := gb.v.set 1 (some { word 1 with poison := 0x00F0 }) }
def iaddForm : FRForm := ⟨fun u d a b la lb im => .iadd u d a b la lb im, true, true, false, true, fun _ => True⟩
theorem witness_operand_traps : iaddForm ∈ frForms 0 ∧ iaddForm.Fits 63 true ∧ Issues (sg gpoi) 1 gpoi ∧ ({ gb with pendV := 2 } : Group).pendV.getLsbD 1 = true ∧ gb.pendV = 0 ∧
    gb.v.getD 48 none = none ∧ gb.v.getD 63 none = none ∧ gpoi.v.getD 1 none = some { word 1 with poison := 0x00F0 } ∧ gpoi.exec.getLsbD 4 = true ∧
    (∀ j < 4, (0x00F0#16).getLsbD j = false) ∧ CanReadV gpoi gpoi.exec 2 ∧ 32 ≤ (32 : R6).toNat ∧ ({ gb with pendG := 8 } : Group).pendG.getLsbD 3 = true ∧
    gBad { gb with gpoison := gWords 3 } 3 = true ∧ gBad { gb with gpoison := gWords 3 } 2 = false := by
  refine ⟨?_, ⟨fun _ => rfl, fun h => absurd h (by decide)⟩, issues_sg _ rfl, by decide, rfl, by decide, by decide, by decide, by decide, by decide, ⟨by decide, word 2, by decide, by decide⟩, by decide,
    by decide, by decide, by decide⟩
  exact List.mem_append_left _ (List.mem_append_left _ (List.mem_append_left _ (List.mem_append_left _ (List.mem_append_left _ (List.mem_append_left _
    (List.mem_append_left _ (List.mem_map.mpr ⟨_, List.mem_cons_self, rfl⟩)))))))
def ge0 (m : Word) : Group := { gb with exec := 0, mood := m }
theorem witness_empty_mask : Issues (sg (ge0 0)) 1 (ge0 0) ∧ (ge0 0).exec = 0 ∧ CanReadV (ge0 0) 0 1 ∧ CanReadV (ge0 0) 0 47 ∧ CanWriteV (ge0 0) 63 ∧ moodType (ge0 0).mood ≤ 2 ∧ moodType (ge0 0x160).mood = 11 ∧
    (9 : R6).toNat < 10 ∧ CanReadG (ge0 0) 31 ∧ elemWidth (moodSrc (ge0 0).mood) = some 32 ∧ elemWidth (moodType (ge0 0x160).mood) = some 8 ∧ (3 : BitVec 2).toNat < cvtRatio 32 8 ∧
    (62 : R6).toNat % 2 = 0 ∧ (0 : BitVec 3) ≠ 7 ∧ CanWriteG (ge0 0) 30 ∧ CanWriteG (ge0 0) 31 ∧ moodType (ge0 0xA0).mood = 5 :=
  ⟨issues_sg _ rfl, rfl, reads_gb 1 0 (by decide), reads_gb 47 0 (by decide), writes_gb _, by decide, by decide, by decide, readsG_gb _ (by decide), by decide, by decide, by decide, by decide, by decide,
    writesG_gb _ (by decide), writesG_gb _ (by decide), by decide⟩

/-! ## Memory -/

def ga4 : Group := gaddr 0x1000
def sa4 : State := stlb ga4
theorem issues_sa4 : Issues sa4 1 ga4 := ⟨rfl, rfl, rfl⟩
theorem goes_sa4 (wr : Bool) : ∀ l ∈ acting ga4 false, GoesTo sa4 ga4 wr true 4 (memAddr ga4 false 2 0 false 4 l) 0x20001000 false := by
  intro l hl
  refine ⟨?_, .inl ⟨?_, true, ?_, fun _ => rfl⟩⟩ <;> revert l <;> decide
def gfab : Group := gaddr 0x40000000000000
theorem goes_fabric : ∀ l ∈ acting gfab true, GoesTo (sg gfab) gfab true true 8 (memAddr gfab true 2 3 false 8 l) 0x40000000000000 false := by
  intro l hl
  refine ⟨?_, .inr ⟨rfl, ?_, ?_, ?_, rfl⟩⟩ <;> revert l <;> decide
-- ld.32 and st.32 of a local page, and the uniform st.64 in the fabric window.
theorem witness_global : Issues sa4 1 ga4 ∧ (4 : BitVec 3) ≠ 7 ∧ FlagFree ga4 false (flagSel ga4 false) ∧ widthOf 4 = 4 ∧
    MemOperands ga4 false 1 2 0 true false false 4 ∧ MemOperands ga4 false 63 2 0 false false true 4 ∧ MemOperands gfab true 1 2 3 true false false 8 ∧
    (∀ l ∈ acting ga4 false, GoesTo sa4 ga4 true true 4 (memAddr ga4 false 2 0 false 4 l) 0x20001000 false) ∧
    (∀ as, RaceFree sa4 ga4 true 4 (detected sa4 (fun _ => false) as)) ∧
    (∀ l ∈ acting gfab true, GoesTo (sg gfab) gfab true true 8 (memAddr gfab true 2 3 false 8 l) 0x40000000000000 false) ∧ RoomFor sa4 ga4 (dataNames 63 4) := by
  refine ⟨issues_sa4, by decide, free_gb.1, rfl, ?_, ?_, ?_, fun l hl => goes_sa4 true l hl, fun as => ?_, goes_fabric, by unfold RoomFor; decide⟩
  · exact ⟨by decide, by simp, by simp, ⟨by decide, by decide, by decide⟩, reads_gb 0 _ (by decide), by intro k hk; rw [show k = 1 by simpa [dataNames] using hk]; exact reads_gb 1 _ (by decide)⟩
  · exact ⟨by decide, by simp, by simp, ⟨by decide, by decide, by decide⟩, reads_gb 0 _ (by decide), fun k _ => writes_gb k⟩
  · exact ⟨rfl, rfl, by decide, ⟨by decide, by decide, by decide⟩, ⟨by decide, by decide, by decide⟩, ⟨by decide, by decide, by decide⟩⟩
  · have h : detected sa4 (fun _ => false) as = [] := by simp [detected]
    simp [RaceFree, h, sectorsOf]
-- The last word of the scratchpad, 262,144 bytes; a private word, of 16 bytes for a thread.
def gsp : Group := gaddr 262140
def gpv : Group := gaddr 12
def spv : State := { stlb gpv with launches := [(1, { fetchLaunch with desc := { fetchDesc with priv := 16, privA := 0x10000 } })] }
theorem witness_local : Issues (sg gsp) 1 gsp ∧ MemOperands gsp false 1 2 0 true false false 4 ∧
    (∀ l ∈ acting gsp false, (memAddr gsp false 2 0 false 4 l).toNat % 4 = 0 ∧ (memAddr gsp false 2 0 false 4 l).toNat + 4 ≤ spadBytes (sg gsp) gsp) ∧
    Issues spv 1 gpv ∧ ∀ l ∈ lanesOf gpv.exec, (memAddr gpv false 2 0 false 4 l).toNat % 4 = 0 ∧ (memAddr gpv false 2 0 false 4 l).toNat + 4 ≤ (descOf spv gpv.launch).priv ∧
      ∀ i < 1, GoesTo spv gpv true false 4 (BitVec.ofNat 64 (privVa (descOf spv gpv.launch) (wgLin spv gpv.wg) (gpv.tids.getD l 0).toNat
          ((memAddr gpv false 2 0 false 4 l).toNat + 4 * i)))
        (0x20000000 + privVa (descOf spv gpv.launch) (wgLin spv gpv.wg) (gpv.tids.getD l 0).toNat ((memAddr gpv false 2 0 false 4 l).toNat + 4 * i)) false := by
  refine ⟨⟨rfl, rfl, rfl⟩, ?_, by decide, ⟨rfl, rfl, rfl⟩, ?_⟩
  · exact ⟨by decide, by simp, by simp, ⟨by decide, by decide, by decide⟩, reads_gb 0 _ (by decide), by intro k hk; rw [show k = 1 by simpa [dataNames] using hk]; exact reads_gb 1 _ (by decide)⟩
  · intro l hl
    refine ⟨by revert l; decide, by revert l; decide, ?_⟩
    intro i hi
    obtain rfl : i = 0 := by omega
    refine ⟨?_, .inl ⟨?_, true, ?_, fun _ => rfl⟩⟩ <;> revert l <;> decide
-- aop 0, 3, 11 and 13; the uniform cas of g4 and g5; a ticket; xacc on 32-byte records.
theorem witness_atomics : Issues sa4 1 ga4 ∧ FlagFree ga4 false (flagSel ga4 false) ∧ AtomOperands ga4 false 1 2 0 0 true false ∧ AtomOperands ga4 false 2 2 0 3 false true ∧
    AtomOperands ga4 false 3 2 0 11 false false ∧ AtomOperands ga4 false 4 2 0 13 true false ∧ AtomOperands ga4 true 4 2 3 13 true false ∧ RoomFor sa4 ga4 [1] ∧
    (∀ l ∈ acting ga4 false, GoesTo sa4 ga4 true false 4 (memAddr ga4 false 2 0 false 4 l) 0x20001000 false) ∧
    (∀ l ∈ acting gsp false, (memAddr gsp false 2 0 false 4 l).toNat % 4 = 0 ∧ (memAddr gsp false 2 0 false 4 l).toNat + 4 ≤ spadBytes (sg gsp) gsp) ∧
    GoesTo sa4 ga4 true false 4 (memAddr ga4 true 2 3 false 4 0) 0x20001000 false ∧ ga4.mood.toNat / 2 ^ 5 % 16 = 0 ∧
    ∀ l ∈ lanesOf ga4.exec, GoesTo sa4 ga4 true false 32 (memAddr ga4 false 2 0 true 32 l) 0x20001000 false := by
  have r : ∀ n, n < 48 → CanReadV ga4 ga4.exec n := fun n h => reads_gb n _ h
  have q : ∀ n, n < 32 → CanReadG ga4 n := fun n h => readsG_gb n h
  refine ⟨issues_sa4, free_gb.1, ⟨by simp, by simp, q _ (by decide), by decide, r 0 (by decide), by simp, by simp, fun _ => writes_gb _⟩,
    ⟨by simp, by simp, q _ (by decide), by decide, r 0 (by decide), fun _ => r _ (by decide), by simp, by simp⟩,
    ⟨by simp, by simp, q _ (by decide), by decide, r 0 (by decide), fun _ => r _ (by decide), by simp, by simp⟩,
    ⟨by decide, by simp, q _ (by decide), by decide, r 0 (by decide), fun _ => r _ (by decide), fun _ => r _ (by decide), fun _ => writes_gb _⟩,
    ⟨by decide, by simp, q _ (by decide), rfl, q _ (by decide), by decide, fun _ => q _ (by decide), fun _ => q _ (by decide), fun _ => writesG_gb _ (by decide)⟩,
    by unfold RoomFor; decide, ?_, by decide, ?_, by decide, ?_⟩
  · intro l hl; refine ⟨?_, .inl ⟨?_, true, ?_, fun _ => rfl⟩⟩ <;> revert l <;> decide
  · refine ⟨by decide, .inl ⟨by decide, true, by decide, fun _ => rfl⟩⟩
  · intro l hl; refine ⟨?_, .inl ⟨?_, true, ?_, fun _ => rfl⟩⟩ <;> revert l <;> decide
-- The window of the launch at 2^40: its first group, HELD, in a group of a handler's; and the end of a block.
def gwin : Group := gaddr 0x10000000000
def swin : State := { sg gwin with
  groups := [(1, gwin), (2, { gb with res := .held, wg := 2, launch := 2 })]
  launches := [(1, fetchLaunch), (2, { fetchLaunch with desc := { fetchDesc with winA := 0x10000000000, gx := 1, gy := 1, gz := 1 } })]
  wgs := [(1, fetchWg), (2, { fetchWg with launch := 2 })] }
theorem witness_window : Issues swin 1 gwin ∧ FlagFree gwin false (flagSel gwin false) ∧ MemOperands gwin false 1 2 0 true false false 4 ∧
    (∀ l ∈ acting gwin false, (memAddr gwin false 2 0 false 4 l).toNat % 4 = 0) ∧
    (∀ l ∈ acting gwin false, ∃ k h o, windowTarget swin (tenantOf swin gwin.launch) (memAddr gwin false 2 0 false 4 l).toNat = some (some (k, h), o) ∧ windowStopped swin h = true) ∧
    (6 : BitVec 3) ≠ 7 ∧ CanReadG gwin 2 ∧ CanReadV gwin gwin.exec 0 := by
  refine ⟨⟨rfl, rfl, rfl⟩, free_gb.1, ?_, by decide, ?_, by decide, readsG_gb 2 (by decide), reads_gb 0 _ (by decide)⟩
  · exact ⟨by decide, by simp, by simp, ⟨by decide, by decide, by decide⟩, reads_gb 0 _ (by decide), by intro k hk; rw [show k = 1 by simpa [dataNames] using hk]; exact reads_gb 1 _ (by decide)⟩
  · intro l hl
    refine ⟨2, { gb with res := .held, wg := 2, launch := 2 }, 0, ?_, by decide⟩
    revert l; decide
-- An stw to the held group 2 that is still to complete, and a RESUME that it defers.
def sstw : State := match exec (.stw false 1 2 0 false false false false false) swin with
  | .next t => t
  | _ => swin
theorem witness_return_deferred : stwPending sstw 2 = true ∧ stwPending swin 2 = false ∧
    ({ swin with groups := [(2, { gheld with resume := some true })] } : State).groups.filter (fun e => e.2.resume.isSome) = [(2, { gheld with resume := some true })] := by
  refine ⟨?_, by decide, by decide⟩
  decide +kernel
-- The line at the end of the scratchpad, in both forms.
theorem witness_presence : Issues (sg gsp) 1 gsp ∧ CanReadG gsp 2 ∧ CanReadV gsp gsp.exec 0 ∧ CanReadG gsp 3 ∧
    (∀ l ∈ acting gsp false, (memAddr gsp false 2 0 false 1 l).toNat < spadBytes (sg gsp) gsp) ∧ (∀ l ∈ acting gsp true, (memAddr gsp true 2 3 false 1 l).toNat < spadBytes (sg gsp) gsp) ∧
    (7 : R6).toNat < 8 ∧ gsp.exec ≠ 0 ∧ FlagFree gsp false (flagSel gsp false) ∧ FlagFree gsp true (flagSel gsp true) :=
  ⟨⟨rfl, rfl, rfl⟩, readsG_gb 2 (by decide), reads_gb 0 _ (by decide), readsG_gb 3 (by decide), by decide, by decide, by decide, by decide, free_gb.1, free_gb.2⟩

/-! ## Engines, pages, fabric, requests -/

def gops (a b c : DWord) : Group := { gb with g := ((gb.g.set 2 a).set 3 b).set 4 c, answered := true }
-- Four frames of 16 tokens, one layer, rows of 128 bytes; a handle of 20 tokens committed, 24 written; a request that decodes.
def pool0 : Pool := { tenant := 1, base := 0x10000000, f := 4, layers := 1, bp := 4096, p := 16, etype := 0, tier2 := none, frames := [], free := [2, 3],
                      ctr := { alloc := 0, freed := 0, cow := 0, evict := 0, abandon := 0, fetch := 0 }, halted := false }
def hdl0 : DWord := 0x0010100000000018
def req0 : Request :=
  { handle := hdl0, tenant := 1, st := .decode, reason := 0, initer := false, cancelp := false, dlmiss := false, pframe := false, xpend := false, prio := 0, plan := 0,
    specc := 0, tmpl := 0, oldTmpl := 0, plen := 4, maxnew := 8, committed := 8, cursor := 8, nextin := 0, seed := 0, streampos := 0, deadline := 0, temp := 0, minp := 0,
    penalty := 0, admseq := 0, iter := 0, accepted := 0, stopctl := [], stoptok := [], stopseq := [], pcopy := 0, toks := [], pend := [], last := none, bell := none,
    pmem := none, admission := none, cancels := [], exporting := none, wantExport := none, comCursor := 8, loading := false, named := none }
def se (a b c : DWord) : State := { sg (gops a b c) with
  cores := [(0, { coreOf sb 0 with slots := [(0, { holder := some 1, mem := [] }), (1, { holder := some 1, mem := [] }), (31, { holder := some 1, mem := [] })] })]
  pools := [(0, pool0)], handles := [(0, { st := 1, gen := 1, tenant := 1, pool := 0, c := 20, w := 24, bt := [0, 1], named := none })], reqs := [(0, req0)] }

theorem issues_se (a b c : DWord) : Issues (se a b c) 1 (gops a b c) := ⟨rfl, rfl, rfl⟩
theorem ready_se (a b c : DWord) (srcs : List Nat) (f : EForm) (h1 : ∀ n ∈ srcs, n < 32) (h2 : ∀ n ∈ f.resG.toList, n < 32) (h3 : f.sc = 0 ∨ f.acq = true ∨ f.rel = true)
    (h4 : ∀ b ∈ f.feat.toList, b < 14) (h5 : f.sys = true → f.acq = true ∨ f.rel = true → f.sc = 3) : EngineReady (se a b c) (gops a b c) srcs f := by
  refine ⟨fun n h => readsG_gb n (h1 n h), fun n h => writesG_gb n (h2 n h), ?_, h3, fun x h => ?_, h5, by simp [se, sg, State.withFetchWord, State.reset, storeFull]⟩
  · cases h : f.fs
    · exact free_gb.1
    · exact free_gb.2
  · have k : ∀ x < 14, (0x3FFF#128).getLsbD x = true := by decide
    exact k _ (h4 _ h)

-- The whole scratchpad as 256 rows of 1,024 bytes; the last row of slot 31 from memory; copyf into slot 0 with scope dev.
theorem witness_copies : (∀ f, f = eform (gops 0x1000 0 0x0000FF0700000400) (.copyG2s 2 3 4 false 0 false false) 0x58 0 (some 2) (some 3) (some 4) none false 0 false false none false →
      EngineReady (se 0x1000 0 0x0000FF0700000400) (gops 0x1000 0 0x0000FF0700000400) [2, 3, 4] f ∧ CopyLegal (se 0x1000 0 0x0000FF0700000400) 1 0x58 0 f.a.toNat f.b.toNat f.c.toNat) ∧
    CopyLegal (se 0 0 0) 1 0x58 2 0x1000 (63 * 256 + 31) 0 ∧ CopyLegal (se 0 0 0) 1 0x59 0 0x1000 0 (0x33 + 7 * 2 ^ 23 + 2 ^ 13) := by
  refine ⟨?_, ?_, ?_⟩
  · rintro f rfl
    refine ⟨ready_se _ _ _ _ _ (by decide) (by decide) (by decide) (by decide) (by decide), 256, 8, 1024, ⟨by decide, by decide, by decide⟩, false, true, false, by decide, by decide, by decide,
      by decide, by decide, ?_, ?_, fun h => absurd h (by decide)⟩
    · show OffWindow _; unfold OffWindow; decide
    · refine ⟨by decide, by decide, ?_⟩; unfold InSpad; decide
  · refine ⟨1, 1, 0, ⟨by decide, by decide, by decide⟩, false, false, true, by decide, by decide, by decide, by decide, by decide, ?_, ?_, fun h => absurd h (by decide)⟩
    · show OffWindow _; unfold OffWindow; decide
    · exact ⟨by decide, by decide, by decide, by decide, by decide⟩
  · refine ⟨1, 1, 0, ⟨by decide, by decide, by decide⟩, false, false, true, by decide, by decide, by decide, by decide, by decide, ?_, ?_, ?_⟩
    · show OffWindow _; unfold OffWindow; decide
    · exact ⟨by decide, by decide, by decide, by decide, by decide⟩
    · intro _; refine ⟨by decide, by decide, 3, 3, by decide, by decide, by decide, by decide, by decide, by decide, by decide⟩
-- mma on tile 7 of 8, and with EXEC = 0; accld of tile 7 with the least stride of f32; accst of bf16.
def gmma : Group := { gops 0 0 0 with v := gb.v.set 3 (some (word 0x33)) }
theorem witness_matrix : (∀ l ∈ lanesOf gmma.exec, readV gmma 3 l = 0x33) ∧ CanReadV gmma gmma.exec 3 ∧ (7 : R6).toNat < wgTiles (se 0 0 0) 1 ∧ ProductLegal (se 0 0 0) 1 0 1 0x33 ∧
    EngineReady (se 0 0 0) (gops 0 0 0) [] { word := wordOf (.mma 7 0 1 3), op := 0x5A } ∧ Issues (sg { gb with exec := 0 }) 1 { gb with exec := 0 } ∧
    AccLegal (se 0 0 0) 1 0x5B 1 7 0 256 ∧ AccLegal (se 0 0 0) 1 0x5C 0 7 0x1000 (2 ^ 32 + 128) := by
  refine ⟨by decide, ⟨by decide, word 0x33, by decide, by decide⟩, by decide, ?_, ready_se _ _ _ _ _ (by decide) (by decide) (by decide) (by decide) (by decide), issues_sg _ rfl, ?_, ?_⟩
  · exact ⟨3, 3, by decide, by decide, by decide, by decide, by decide, by decide, by decide⟩
  · refine ⟨256, by decide, by decide, by decide, by decide, by decide, by decide, by decide, by decide, by decide, by decide, ?_⟩; unfold InSpad; decide
  · refine ⟨128, by decide, by decide, by decide, by decide, by decide, by decide, by decide, by decide, by decide, ?_⟩; show OffWindow _; unfold OffWindow; decide
-- Slots 2 and 30 are free, 0 and 31 held; chain 3.
theorem witness_slots : EngineReady (se 0x40000004 0 0) (gops 0x40000004 0 0) [2] (eform (gops 0x40000004 0 0) (.slotClaim 2 false 0 false false) 0x5D 0 (some 2) none none none false 0 false false none false) ∧
    (0x40000004 : DWord).toNat < 2 ^ 32 ∧ (∀ i < 32, (0x40000004 : DWord).getLsbD i = true → holdsSlot (se 0x40000004 0 0) 1 i = false) ∧
    (∀ i < 32, (0x80000001 : DWord).getLsbD i = true → holdsSlot (se 0x80000001 0 0) 1 i = true) ∧
    EngineReady (se 0 0 0) (gops 0 0 0) [] (eform (gops 0 0 0) (.slotHeld 4 true 0 false false) 0x5D 2 none none none (some 4) true 0 false false none false) ∧
    EngineReady (se 3 0x1000 0) (gops 3 0x1000 0) [2, 3, 4] (eform (gops 3 0x1000 0) (.chainSet 2 3 4 false 0 false false) 0x5E 0 (some 2) (some 3) (some 4) none false 0 false false none false) ∧
    (3 : DWord).toNat < 4 ∧ (0x1000 : DWord).toNat % 64 = 0 ∧ OffWindow (0x1000 : DWord).toNat ∧
    EngineReady (se 3 0 0) (gops 3 0 0) [2, 3] (eform (gops 3 0 0) (.seqw 2 3 false 2 true false) 0x5F 0 (some 2) (some 3) none none false 2 true false none false) := by
  refine ⟨ready_se _ _ _ _ _ (by decide) (by decide) (by decide) (by decide) (by decide), by decide, by decide, by decide,
    ready_se _ _ _ _ _ (by decide) (by decide) (by decide) (by decide) (by decide), ready_se _ _ _ _ _ (by decide) (by decide) (by decide) (by decide) (by decide), by decide, by decide, ?_,
    ready_se _ _ _ _ _ (by decide) (by decide) (by decide) (by decide) (by decide)⟩
  unfold OffWindow; decide
theorem handle_ok : HandleOk (se 0 0 0) 1 hdl0 pool0 := ⟨by decide, by decide, by decide, by decide⟩
-- A gather of positions 4 to 19, all that are committed; an append at 23, the last the handle's bound allows; a pin of all 24; a chain of 64 entries and a lookup of 64.
theorem witness_pages : (∀ f, f = eform (gops hdl0 0x10000004 0x00F0008000000000) (.kvgatV 2 3 4 false 2 true false) 0x60 1 (some 2) (some 3) (some 4) none false 2 true false (some 1) false →
      EngineReady (se hdl0 0x10000004 0x00F0008000000000) (gops hdl0 0x10000004 0x00F0008000000000) [2, 3, 4] f ∧ (gops hdl0 0 0).answered = true ∧
      GatherLegal (se 0 0 0) 1 1 f.a f.b.toNat f.c.toNat ∧ pageOrder (se 0 0 0) 2 (cmdOf (se 0 0 0) 1 (gops hdl0 0 0) f) = true) ∧
    AppendLegal (se 0 0 0) 1 1 hdl0 23 0x000F000000000000 ∧ tenantOf (se 0 0 0) 1 = 1 ∧ (∃ p, HandleOk (se 0 0 0) 1 hdl0 p ∧ p.p ≤ 16) ∧ 0x18000000 / 2 ^ 24 ≠ 0 ∧
    0x18000000 % 2 ^ 24 + 0x18000000 / 2 ^ 24 ≤ min (handleAt (se 0 0 0) (hIdx hdl0)).w (hBound hdl0) ∧ InSpad (se 0 0 0) 1 262080 64 ∧ InSpad (se 0 0 0) 1 0 (72 * 64) ∧
    EngineReady (se hdl0 7 0) (gops hdl0 7 0) [2, 3] (eform (gops hdl0 7 0) (.hdlTrunc 2 3 false 2 false true) 0x64 2 (some 2) (some 3) none none false 2 false true (some 1) false) ∧
    EngineReady (se 0 0 0) (gops 0 0 0) [2, 3] (eform (gops 0 0 0) (.pfxh 2 3 4 false 0 false false) 0x65 0 (some 2) (some 3) none (some 4) false 0 false false (some 3) false) := by
  refine ⟨?_, ?_, by decide, ⟨pool0, handle_ok, by decide⟩, by decide, by decide, by unfold InSpad; decide, by unfold InSpad; decide,
    ready_se _ _ _ _ _ (by decide) (by decide) (by decide) (by decide) (by decide), ready_se _ _ _ _ _ (by decide) (by decide) (by decide) (by decide) (by decide)⟩
  · rintro f rfl
    refine ⟨ready_se _ _ _ _ _ (by decide) (by decide) (by decide) (by decide) (by decide), rfl, ?_, by decide⟩
    refine ⟨pool0, 15, 16, 128, handle_ok, by decide, by decide, by decide, by decide, by decide, by decide, by decide, by decide, by decide, by decide, by decide, by decide, by decide, by decide, ?_⟩
    unfold InSpad; decide
  · refine ⟨pool0, 15, 23, handle_ok, by decide, by decide, by decide, by decide, by decide, by decide, by decide, by decide, by decide, by decide, by decide, ?_⟩
    unfold InSpad; decide
-- 32 bytes to the window's start; a 64-bit operation there; a reduction over 4,096 ranks; a slot of 128 bytes; 1,024 tokens.
theorem witness_fabric : (∀ f, f = eform (gops 0x40000000000000 0 32) (.fputS 2 3 4 false 3 false true) 0x68 1 (some 2) (some 3) (some 4) none false 3 false true (some 6) true →
      EngineReady (se 0x40000000000000 0 32) (gops 0x40000000000000 0 32) [2, 3, 4] f ∧ MoveLegal (se 0 0 0) 1 false true f.b.toNat f.a.toNat f.c.toNat) ∧
    MoveLegal (se 0 0 0) 1 true false 0x1000 (2 ^ 40 - 1) (2 ^ 31) ∧ (20 : BitVec 5).toNat % 16 ∉ [1, 3, 14, 15] ∧ 2 ^ 54 ≤ (0x40000000000000 : DWord).toNat ∧ (0x40000000000000 : DWord).toNat % 8 = 0 ∧
    EngineReady (se 0x40000000000000 0 0) (gops 0x40000000000000 0 0) [2, 3, 4]
      (eform (gops 0x40000000000000 0 0) (.fatom 20 2 3 4 false 0 false false) 0x6A 20 (some 2) (some 3) (some 4) (some 4) false 0 false false (some 6) true) ∧
    RanksLegal (se 0 0 0) (4095 * 2 ^ 12) ∧ (2 * 2 ^ 40 + 255 * 2 ^ 32) / 2 ^ 40 ≤ 2 ∧ InSpad (se 0 0 0) 1 (262144 - 1024) 1024 ∧
    (2 ^ 24 - 1 < 2 ^ 24 ∧ (128 * 2 ^ 32 + 0) / 2 ^ 32 % 32 = 0 ∧ InSpad (se 0 0 0) 1 0 128 ∧ 15 < 16) ∧
    EngineReady (se 15 0 0) (gops 15 0 0) [2] (eform (gops 15 0 0) (.lzqWait 2 false 3 true false) 0x6F 1 (some 2) none none none false 3 true false (some 6) false) ∧
    InSpad (se 0 0 0) 1 0 (64 * 1024) ∧ InSpad (se 0 0 0) 1 131072 (128 * 1024) := by
  refine ⟨?_, ?_, by decide, by decide, by decide, ready_se _ _ _ _ _ (by decide) (by decide) (by decide) (by decide) (by decide), ⟨4096, by decide, by decide, by decide, by decide, by decide, by decide⟩,
    by decide, by unfold InSpad; decide, ⟨by decide, by decide, by unfold InSpad; decide, by decide⟩, ready_se _ _ _ _ _ (by decide) (by decide) (by decide) (by decide) (by decide),
    by unfold InSpad; decide, by unfold InSpad; decide⟩
  · rintro f rfl
    refine ⟨ready_se _ _ _ _ _ (by decide) (by decide) (by decide) (by decide) (by decide), 32, by decide, by decide, by decide, by decide, by decide, by decide, ?_⟩
    refine ⟨by decide, ?_⟩; unfold InSpad; decide
  · refine ⟨2 ^ 31, by decide, by decide, by decide, by decide, by decide, by decide, ?_⟩
    show OffWindow _; unfold OffWindow; decide
-- 64 rows of tiles 7 and 6, sixteen records, and the request at index 0.
theorem witness_requests : SampleLegal (se 0 0 0) 1 2 0x3F0607 0 1024 ∧ SampleLegal (se 0 0 0) 1 0 0x3F0007 0 1024 ∧ OffWindow 0x1000 ∧ InSpad (se 0 0 0) 1 0 (16 * 64) ∧
    RequestOk (se 0 0 0) (gops 0 0 0) 0 ∧ (0 : DWord).getLsbD 14 = false ∧ (3 : DWord).toNat ≤ 3 ∧
    EngineReady (se 0 0 3) (gops 0 0 3) [2, 3, 4] (eform (gops 0 0 3) (.emit 2 3 4 false 0 false false) 0x75 0 (some 2) (some 3) (some 4) none false 0 false false (some 4) false) ∧
    EngineReady (se 0 0 0) (gops 0 0 0) [2] (eform (gops 0 0 0) (.rqstQuery 2 4 false 0 false false) 0x76 1 (some 2) none none (some 4) false 0 false false (some 4) false) := by
  refine ⟨⟨by decide, by decide, by decide, by decide, by decide, by decide, by decide, by decide, by decide, ?_, ?_⟩, ⟨by decide, by decide, by decide, by decide, by decide, by decide, by decide, by decide, by decide, ?_, ?_⟩,
    ?_, ?_, ⟨rfl, req0, by decide, by decide, by decide⟩, by decide, by decide, ready_se _ _ _ _ _ (by decide) (by decide) (by decide) (by decide) (by decide), ready_se _ _ _ _ _ (by decide) (by decide) (by decide) (by decide) (by decide)⟩
  all_goals first | (unfold InSpad; decide) | (unfold OffWindow; decide)
-- The slot held, the slot free, chain 4, a ring at 32, and lanes that hold two formats.
def gdiv : Group := { gb with v := gb.v.set 3 (some { tag := 0, w := (Vector.replicate 16 0x33).set 15 0x34, poison := 0 }) }
theorem witness_engine_traps : (2 : BitVec 2) ≠ 0 ∧ featOn { se 0 0 0 with feats := 1 } 1 = false ∧ featOn { se 0 0 0 with feats := 1 } 6 = false ∧ CanReadG (gops 0x80000000 0 0) 2 ∧
    FlagFree (gops 0x80000000 0 0) false (flagSel (gops 0 0 0) false) ∧ (∃ i < 32, (readG (gops 0x80000000 0 0) 2).getLsbD i = true ∧ holdsSlot (se 0x80000000 0 0) 1 i = true) ∧
    (∃ i < 32, (readG (gops 0x40000000 0 0) 2).getLsbD i = true ∧ holdsSlot (se 0x40000000 0 0) 1 i = false) ∧ 4 ≤ (readG (gops 4 0 0) 2).toNat ∧
    (readG (gops 3 32 0) 3).toNat % 64 ≠ 0 ∧ CanReadV gdiv gdiv.exec 3 ∧ ∃ l ∈ lanesOf gdiv.exec, ∃ k ∈ lanesOf gdiv.exec, readV gdiv 3 l ≠ readV gdiv 3 k :=
  ⟨by decide, by decide, by decide, readsG_gb 2 (by decide), free_gb.1, ⟨31, by decide, by decide, by decide⟩, ⟨30, by decide, by decide, by decide⟩, by decide, by decide,
    ⟨by decide, _, rfl, by decide⟩, 0, by decide, 15, by decide, by decide⟩

/-! ## Host commands and queues -/

-- The device with tenant 1 open, one command in queue 0 of the physical function; an image and a pool of the tenant; host data at 0x1000.
def qp0 : QPair := { QPair.reset with en := true, sqtail := 1 }
def sh : State := { (State.reset.withFetchWord 32 0) with
  turns := [], launches := [], wgs := [], groups := [], queues := [(0, [(0, qp0)])]
  images := [(0, { tenant := 1, addr := 0x1000, level := 0, codeOff := 0, codeSz := 16384, rom := true })], pools := [(0, { pool0 with free := [0, 1, 2, 3] })]
  hostMem := mwriteN (mwriteN (mwriteN (mwriteN (mwriteN (mwriteN [] 0x1000 4 0x4C45554C) 0x1004 2 1) 0x1008 8 256) 0x1010 8 4) 0x1018 8 320) 0x1028 8 320 }
def c0 (a0 a1 : DWord) : HostCmd := { cmd0 with a0 := a0, a1 := a1 }
def c1 (a0 a1 a2 a3 : DWord) : HostCmd := { cmd0 with tenant := 1, a0 := a0, a1 := a1, a2 := a2, a3 := a3 }

theorem passes_dev (a0 a1 : DWord) (early : Bool) (fs : List Nat) (h : ∀ b ∈ fs, b < 14) : Passes sh (c0 a0 a1) true true early fs := by
  have k : ∀ x < 14, (0x3FFF#128).getLsbD x = true := by decide
  exact ⟨by show canRead sh 0 0 = true; decide, by decide, fun _ => rfl, fun _ => rfl, (fun h => absurd h (by decide)), .inr rfl, fun b hb => k b (h b hb), rfl, by show (0 : BitVec 16).toNat < 4096; decide⟩
theorem passes_ten (a0 a1 a2 a3 : DWord) (pf : Bool) (fs : List Nat) (h : ∀ b ∈ fs, b < 14) : Passes sh (c1 a0 a1 a2 a3) pf false false fs := by
  have k : ∀ x < 14, (0x3FFF#128).getLsbD x = true := by decide
  exact ⟨by show canRead sh 0 0 = true; decide, by decide, fun _ => rfl, (fun h => absurd h (by decide)), fun _ => ⟨fetchTenant, by show tget sh.tenants 1 = _; decide, rfl, rfl⟩, .inr rfl, fun b hb => k b (h b hb), rfl,
    by show (1 : BitVec 16).toNat < 4096; decide⟩

-- The verdicts on a patch and on a wrapped key are the device's, so no state can be shown where one is given; a patch cut short fails.
theorem witness_device_commands : Passes sh cmd0 true true true [] ∧ Unused [cmd0.a1, cmd0.a2] ∧ cmd0.a0.toNat % 4096 = 0 ∧
    Passes { sh with locked := false, feats := 0 } (c0 1 0) true true true [] ∧ (1 : BitVec 128) &&& ~~~sh.fixed.offered = 0 ∧ (0#64 ++ 2#64).getLsbD 0 = false ∧ sh.locked = true ∧
    (hostRead sh 0x1000 8).length < patchLen (hostRead sh 0x1000 8) ∧ alarmLevel sh < 2 ∧ alarmLevel { sh with sec := { sh.sec with bits := 2 } } = 2 ∧
    Passes { sh with sec := { sh.sec with bits := 2 } } (c0 0 64) true true true [] ∧ keyTargetBad 4095 = false ∧ sh.fab.ue.length < 256 ∧ Passes sh (c0 1 0) true true true [] ∧
    Passes sh (c0 31 0) true true false (snapFeats (c0 31 0)) ∧ (∃ x : Latch, ({ sh.sec.snap with latched := some { clk := 5, src := 0, counters := [], active := [] } } : Snap).latched = some x) ∧ sh.sec.snap.latched = none ∧
    sh.fixed.present.getLsbD 3 = true ∧ chipState sh 3 = .active ∧ ∀ e ∈ sh.tenants, e.2.park = .active := by
  refine ⟨passes_dev 0 0 true [] (by simp), by simp [Unused, cmd0], by decide, ⟨by show canRead _ 0 0 = true; decide, by decide, fun _ => rfl, fun _ => rfl, (fun h => absurd h (by decide)), .inl rfl, by simp, rfl, by decide⟩,
    by decide, by decide, rfl, by decide, by decide, by decide, ⟨by show canRead _ 0 0 = true; decide, by decide, fun _ => rfl, fun _ => rfl, (fun h => absurd h (by decide)), .inl rfl, by simp, rfl, by decide⟩,
    by decide, by decide, passes_dev 1 0 true [] (by simp), passes_dev 31 0 false _ (by decide), ⟨_, rfl⟩, rfl, by decide, by decide, by decide⟩
-- The lowest ids; no page, a page in a mapped range, and the last page of 2^54; an image; the space of a pool; an active and a parked tenant.
def sp : State := { sh with tenants := [(1, { fetchTenant with park := .parked [] })] }
theorem witness_tenant_commands : Passes sh (c0 0 0x200) true true false (openFeats (c0 0 0x200)) ∧ (openRule (c0 0 0x200)).bad = false ∧ (tenantIds sh [] 2).isSome = true ∧
    Passes sh (c1 0 0 0 0) true false false [] ∧ mapBad (c1 0 0 0 0) = false ∧ mapBad (c1 0x3FFFFFFFFF0000 1 8 0) = false ∧ touchesMap sh 1 0 65536 = true ∧
    touchesMap sh (cmdSpace sh (c1 0 0 0 0)) 0x20000000 65536 = false ∧ (mapRange sh [] 1 0 0x20000000 1 false true false false).isSome = true ∧
    (unmapRange sh [] 1 0x20000000 65536).isSome = true ∧ imageOk (hostRead sh 0x1000 320) 320 = true ∧ imageOk (hostRead sh 0x1000 319) 319 = false ∧
    mappedW sh (cmdSpace sh (c1 0 0 0 0)) 0x10000 320 = true ∧ mappedW sh 1 0x10000 16384 = true ∧ poolBad (c1 0x10000 0x2000001 0x10000001 0) = false ∧
    mappedW sh 1 0x10000 (poolF (c1 0x10000 0x2000001 0x10000001 0) * poolL (c1 0x10000 0x2000001 0x10000001 0) * poolBp (c1 0x10000 0x2000001 0x10000001 0)) = true ∧
    tget sh.tenants 1 = some fetchTenant ∧ fetchTenant.park = .active ∧ tget sp.tenants 1 = some { fetchTenant with park := .parked [] } ∧ canRead sp 0 0 = true := by
  refine ⟨passes_dev 0 0x200 false _ (by decide), by decide, by decide +kernel, passes_ten 0 0 0 0 true [] (by simp), by decide, by decide, by decide, by decide, by decide, by decide, by decide, by decide, by decide, by decide,
    by decide, by decide, by decide, rfl, by decide, by decide⟩
-- A parked tenant and the image that CTX_EXPORT writes of it, which CTX_IMPORT takes.
def spw : Tenant := { fetchTenant with park := .parked [] }
def sp0 : State := { sp with pools := [] }
def image0 : List Byte := imageBytes sp0 spw (freshSections sp0 1 (sections (ctxOf sp0 1 spw))) ++ directory sp0 1 spw ++ tailBytes sp0 1
def importable (s : State) (m : List Byte) : Bool := match plainImage s m with
  | .error _ => false
  | .ok m => decide (leAt m 8 8 ≤ m.length) && match readCtx (m.take (leAt m 8 8)) with
    | none => false
    | some x => match readTail (m.drop (leAt m 8 8)) x with
      | none => false
      | some y => (importCtx s [] x y (m.drop (leAt m 8 8))).isSome
theorem witness_context_image : image0.length ≤ 8192 ∧ importable { sh with pools := [] } image0 = true := by decide +kernel
-- A template at 0x8000 with one task; a descriptor at 0xA000 of one group; a host descriptor of a one-token prompt at 0x2000; a plan of the ROM.
def plan0 : Plan := { tenant := 1, image := 0, pool := 0, vocab := 2, budget := 1, tmpl := none, area := 0x40000000, bandit := [], iter := none }
def sr : State := { sh with
  mem := mwriteN (mwriteN (mwriteN (mwriteN (mwriteN (mwriteN (mwriteN (mwriteN (mwriteN (mwriteN (mwriteN (mwriteN (mwriteN (mwriteN (mwriteN (mwriteN (mwriteN sh.mem
      0x20008000 8 0x9000) 0x20008008 4 1) 0x20008010 8 0x100000) 0x20008018 8 0x200000) 0x20008020 8 0x300000) 0x20008038 8 0x400000) 0x20008040 4 256) 0x20008048 8 0x1000000)
      0x2000A000 8 0x1000) 0x2000A008 8 0x1000) 0x2000A010 4 0x00042118) 0x2000A014 2 16) 0x2000A016 1 1) 0x2000A018 4 1) 0x2000A01C 4 1) 0x2000A020 4 1) 0x2000A050 4 0x10001
  hostMem := mwriteN (mwriteN [] 0x2000 4 1) 0x2004 4 1
  plans := [(1, plan0)], handles := [(0, { st := 1, gen := 1, tenant := 1, pool := 0, c := 0, w := 0, bt := [], named := none })], reqs := [(0, { req0 with committed := 0 })] }
theorem passes_sr (a0 a1 a2 a3 : DWord) (pf : Bool) (fs : List Nat) (h : ∀ b ∈ fs, b < 14) : Passes sr (c1 a0 a1 a2 a3) pf false false fs := by
  have k : ∀ x < 14, (0x3FFF#128).getLsbD x = true := by decide
  exact ⟨by show canRead sr 0 0 = true; decide, by decide, fun _ => rfl, (fun h => absurd h (by decide)), fun _ => ⟨fetchTenant, by show tget sr.tenants 1 = _; decide, rfl, rfl⟩, .inr rfl,
    fun b hb => k b (h b hb), rfl, by show (1 : BitVec 16).toNat < 4096; decide⟩
theorem witness_plans : Passes sr (c1 0x8000 0 0x100000002 0) false false false [1] ∧ planBad (c1 0x8000 0 0x100000002 0) = false ∧
    (planParts sr (c1 0x8000 0 0x100000002 0)).isSome = true ∧
    (match vread sr 1 0x8000 256 with
      | some m => match parseTmpl m with
        | some x => tmplMapped sr 1 1 x && (checkGraph sr 1 x.graph x.ntask).isOk
        | none => false
      | none => false) = true ∧
    2 ≤ planV (c1 0x8000 0 0x100000002 0) ∧ rowBytes pool0 % 16 = 0 ∧ rowBytes pool0 ≤ 32768 ∧ (takeMem sr [] false (romAreaBytes 1) 128).isSome = true := by
  refine ⟨passes_sr _ _ _ _ _ _ (by decide), by decide, by decide, by decide +kernel, by decide, by decide, by decide, by decide +kernel⟩
theorem witness_admission : admitBad (hostRead sr 0x2000 512) = false ∧ leAt (hostRead sr 0x2000 512) 0 4 = 1 ∧ leAt (hostRead sr 0x2000 512) 4 4 = 1 ∧ tget sr.plans 1 = some plan0 ∧
    (1 + 16 - 1) / 16 ≤ atHand { pool0 with free := [0, 1, 2, 3] } ∧ freeReq sr = some 1 ∧
    (enterReq (readOn sr (c1 0x2000 1 0 0)) (c1 0x2000 1 0 0) (hostRead sr 0x2000 512) (((hostRead sr 0x2000 512).drop 256).take 4) 1 plan0).isSome = true := by
  refine ⟨?_, ?_, ?_, by decide, by decide, by decide, ?_⟩ <;> decide +kernel
theorem witness_request_commands : Passes sr (c1 0 0 0 0) false false false [4] ∧ tget sr.reqs 0 = some { req0 with committed := 0 } ∧ preempted sr 1 = false ∧ ended .decode = false ∧ ended .done = true ∧
    forkBad .decode = false ∧ (forkHandle sr (handleAt sr 0) 1 1 0).isSome = true ∧ (checkDesc sr 1 0xA000 id).isOk = true ∧ (checkGraph sr 1 0x9000 1).isOk = true ∧
    kvExportBad (c1 0 0 7 0) = false ∧ exportable .decode = true ∧ sr.fab.xfers.length = 0 ∧
    canHand sr true 5 = false ∧ canHand { sr with fab := { sr.fab with inject := some 0, pairs := [(5, { key := [1], next := 0, top := 0, got := [] })] } } true 5 = true := by
  refine ⟨passes_sr _ _ _ _ _ _ (by decide), by decide, by decide, rfl, rfl, rfl, by decide, by decide +kernel, by decide +kernel, by decide, rfl, rfl, by decide, by decide⟩
-- Bank 0 retired, loaded, flipped out with and without a packet of its numbering; an export made, and one taken away.
def sf (b : BankSt) (w : List Packet) : State := { sh with fab := { sh.fab with bankSt := #v[b, .retired], inject := some 1, wire := w, exports := [{ dev := 3, ptenant := 2, tenant := 1, base := 0, len := 65536 }] } }
theorem witness_routes : canRead (sf .loaded []) 0 0 = true ∧ bankSt (sf .loaded []) false = .loaded ∧ bankSt sh false = .retired ∧
    (routeEntries 0 (hostRead sh 0x40000 64)).all (fun e => !routeBad sh.fab.devId e) = true ∧ bankSt (sf .flippedOut []) false = .flippedOut ∧ bankCount (sf .flippedOut []) false = 0 ∧
    bankCount (sf .flippedOut [pkt 0]) false ≠ 0 ∧ exportBad (c1 0 3 0x40000000000 0xFFFFFF) = false ∧ (0xFFFFFF#64).getLsbD 24 = false ∧ (0x1002003#64).getLsbD 24 = true ∧
    ((sf .loaded []).fab.exports.find? fun e => decide (e.dev = 3) && decide (e.ptenant = 2) && decide (e.tenant = 1)).isSome = true := by
  refine ⟨by decide, by decide, by decide, by decide, by decide, by decide, by decide, by decide, by decide, by decide, by decide⟩
-- Each of the checks fails first somewhere; LAUNCH waits for room.
theorem witness_command_checks : firstFailure { sh with sec := { sh.sec with bits := 1 } } cmd0 (devRow true fun _ => []) = some stAlarm ∧
    firstFailure sh { cmd0 with fn := 1 } (devRow true fun _ => []) = some stBadtenant ∧ firstFailure sh (c1 0 0 0 0) (devRow true fun _ => []) = some stBadtenant ∧
    firstFailure sh cmd0 (tenantRow fun _ => []) = some stBadtenant ∧ firstFailure { sh with locked := false } (c1 0 0 0 0) (tenantRow fun _ => []) = some stNotready ∧
    firstFailure { sh with feats := 1 } (c1 0 0 0 0) (tenantRow fun _ => [4]) = some stNofeat ∧ firstFailure sh { cmd0 with rsv := true } (devRow true fun _ => []) = some stBadfield ∧
    firstFailure sh { cmd0 with tenant := 0x1000 } (devRow true fun _ => []) = some stBadfield ∧ canRead sh 0 0 = true ∧ canRead sh 0 1 = false ∧ opcKnown 0x7777 = false ∧
    HasRow Instr.devIdent ⟨fun _ => false, fun _ => true, true, fun _ => []⟩ := by
  refine ⟨by decide, by decide, by decide, by decide, by decide, by decide, by decide, by decide, by decide, by decide, by decide, ?_⟩
  unfold HasRow; exact List.mem_cons_self
-- A tail at 0 of 16 entries moves to 1 and to 15, not to 16; the head of completions; a size of 8 and one of 9; a pair that is disabled.
theorem witness_queue_registers : qpExists sh 0 0 = true ∧ qpExists sh 0 63 = true ∧ qpExists sh 32 7 = true ∧ (qpOf sh 0 0).en = true ∧ sh.rdy = true ∧
    ((0xF#32).toNat % 65536 ≠ 1 ∧ (0xF#32).toNat % 65536 < 16 ∧ (1 + 16 - 0) % 16 + (15 + 16 - 1) % 16 < 16) ∧ 16 ≤ (0x10#32).toNat % 65536 ∧
    16 ≤ (1 + 16 - 0) % 16 + (0 + 16 - 1) % 16 ∧ (0 + 16 - 0) % 16 < ((1#32).toNat + 16 - 0) % 16 ∧ ((0#32).toNat + 16 - 0) % 16 ≤ (0 + 16 - 0) % 16 ∧
    (qpOf sh 0 1).en = false ∧ (0x80880000#32).getLsbD 31 = true ∧ (0x80880000#32).toNat / 2 ^ 16 % 16 ≤ 8 ∧ 8 < (0x80090000#32).toNat / 2 ^ 16 % 16 ∧
    (0x40000000#32).getLsbD 31 = false ∧ (0xC0000000#32).getLsbD 30 = true := by decide

/-! ## Events -/

/-- The state after an outcome, and a test of what a table holds. -/
def after (o : Out) : State := match o with
  | .next t => t
  | _ => State.reset
def has {α : Type} (x : Option α) (p : α → Bool) : Bool := match x with
  | some a => p a
  | none => false
-- Loads, a store, a fabric store, a scratchpad store, a private store, a reduction and an acquiring-releasing ticket, each just accepted.
def sld : State := after (exec (.ld false 1 2 0 false false false 4) sa4)
def sst : State := after (exec (.st false 1 2 0 false false false false 4) sa4)
def sfs : State := after (exec (.st true 1 2 3 false false false false 5) (sg gfab))
def sss : State := after (exec (.sts false 1 2 0 false false false false 4) (sg gsp))
def sps : State := after (exec (.stp 1 2 0 false false false false 4) spv)
def srd : State := after (exec (.red false 1 2 0 4 2 false) sa4)
def stk : State := after (exec (.ticket 4 2 3 2) sa4)
theorem witness_memory_performed :
    has (tget sld.ops 2) (fun o => decide (o.space = .global) && decide (o.kind = .load false) && (o.accs.filter fun x => decide (x.lane = 0)).all fun x => decide (x.addr < 2 ^ 54) && accReady sld 2 o x false && (storesSeen sld 2 o x.addr o.size).isEmpty) = true ∧
    has (tget sld.ops 2) (fun o => (lanesOf (0xFFFF#16 &&& opLanes o &&& ~~~o.landed)).length == 16 && has (tget ((lanesOf 0xFFFF).foldl (fun t l => performLoad t 2 l) sld).ops 2) fun o => o.accs.all Acc.done) = true ∧
    has (tget sst.ops 2) (fun o => isStoreOp o && has (o.accs.find? fun x => decide (x.lane = 0) && !x.done) fun x => accReady sst 2 o x true) = true ∧
    has (tget sfs.ops 2) (fun o => isStoreOp o && has (o.accs.find? fun x => decide (x.lane = 0) && !x.done) fun x => decide (2 ^ 54 ≤ x.addr)) = true ∧
    has (tget sss.ops 2) (fun o => isStoreOp o && decide (o.space = .scratch) && o.accs.all fun x => presentFor sss o x && sss.ops.all fun e => !decide (e.1 < 2)) = true ∧
    has (tget sps.ops 2) (fun o => isStoreOp o && decide (o.space = .priv) && thas sps.groups o.ctx && o.accs.all fun x => presentFor sps o x) = true ∧
    has (tget srd.ops 2) (fun o => isAtomOp o && decide (o.kind = .reduce 4) && has (o.accs.find? fun x => !x.done) fun x => accReady srd 2 o x true && presentFor srd o x) = true ∧
    has (tget stk.ops 2) (fun o => o.rel && releaseReady stk o.ctx o.wg 2 o.sc && has (o.accs.find? fun x => !x.done) fun x => accReady stk 2 o x true) = true := by
  refine ⟨?_, ?_, ?_, ?_, ?_, ?_, ?_, ?_⟩ <;> decide +kernel
-- The register still allocated and its lane live; another allocation; a lane that has ended.
theorem witness_landing : gb.v.getD 47 none = some (word 47) ∧ (word 47).tag = 0 ∧ gb.alive.getLsbD 15 = true ∧ (word 47).tag ≠ 5 ∧ ({ gb with alive := 0xFF } : Group).alive.getLsbD 8 = false := by decide
def swalk (ans : Bool) : Group := { gb with res := .waiting, want := .walk 0x1000, answered := ans }
def stlb1 : State := { sg (swalk false) with chips := #v[{ Chip.reset with st := .active, tlb := [{ asid := 1, va := 0, size := 536870912, pa := 0x20000000, rt := false, x := true, w := true }] }, Chip.reset, Chip.reset, Chip.reset] }
def sshoot : State := { sb with shoots := [(9, { tenant := 1, asid := 2, lo := 0, hi := 65536, chips := [0, 3], frames := [], owed := none, result := 0, dispose := false })] }
def sagain : State := { sg (swalk false) with walks := [(5, { asid := 1, page := 0, reqs := [], chips := [] })] }
-- The tables of sb point to 0x20000 and then to 0x30000, and the page-walk caches hold both entries.
def scache : State := { sb with roots := [(1, 0x10000)], mem := mwriteN (mwriteN (mwriteN [] 0x10000 8 0x20001) 0x20000 8 0x30001) 0x30000 8 0x4000F
                                walkCache := [{ asid := 1, level := 1, index := 0, pte := 0x20001 }, { asid := 1, level := 2, index := 0, pte := 0x30001 }] }
theorem witness_walk_cache : tget scache.roots 1 = some 0x10000 ∧ cachedEntry scache.walkCache 1 0x1000 1 = some 0x20001 ∧
    mreadN scache.mem (0x10000 + 8 * (0x1000 / 2 ^ 42 % 8192)) 8 = 0x20001 ∧ cachedEntry scache.walkCache 1 0x1000 2 = some 0x30001 ∧
    mreadN scache.mem (ptePa 0x20001 + 8 * (0x1000 / 2 ^ 29 % 8192)) 8 = 0x30001 ∧
    has (match walkCached scache 1 0x1000 with | .page l => some l | _ => none) (fun l => l.pa = 0x40000 && l.size = 65536) = true ∧
    (cacheWalk { scache with walkCache := [] } 1 0x1000 (walkCached { scache with walkCache := [] } 1 0x1000)).walkCache = scache.walkCache ∧
    uncache scache.walkCache 1 0x10000 0x20000 = [] ∧ uncache scache.walkCache 2 0 (2 ^ 54) = scache.walkCache := by
  refine ⟨by decide, by decide, by decide, by decide, by decide, by decide, by decide, by decide, by decide⟩
-- An engine takes the translation of its chiplet's TLB, else that of the tables, which then enters the TLB (R281).
theorem test_engine_translates : engPhys stlb1 0 1 0x1000 = some 0x20001000 ∧ engPhys scache 0 1 0x1008 = some 0x41008 ∧
    has ((engTouch scache 0 1 0x1008 128).chips[0]?) (fun k => (tlbFind k.tlb 1 0x1008).isSome) = true := by
  refine ⟨by decide, by decide, by decide⟩
-- A hit in the chiplet's TLB, a walk to join, none; the walk's answer; a check and race records; errors; a shootdown of a space that no access is pending in.
theorem witness_translation : tget stlb1.groups 1 = some (swalk false) ∧ (swalk false).want = .walk 0x1000 ∧ (swalk false).answered = false ∧ inWalk stlb1 1 = false ∧
    has (stlb1.chips[0]?) (fun k => (tlbFind k.tlb 1 0x1000).isSome) = true ∧ has (sagain.chips[0]?) (fun k => (tlbFind k.tlb 1 0x1000).isNone) = true ∧
    sagain.walks.find? (fun w => decide (w.2.asid = asidOf sagain 1) && decide (w.2.page = 0x1000 / 65536)) = some (5, { asid := 1, page := 0, reqs := [], chips := [] }) ∧ sb.walks.length < 1024 ∧
    tget sagain.walks 5 = some { asid := 1, page := 0, reqs := [], chips := [] } ∧ (∀ e ∈ sagain.shoots, e.2.asid ≠ 1) ∧
    ({ swalk false with want := .check } : Group).want = .check ∧ ({ swalk false with want := .race [16] } : Group).want = .race [16] ∧
    tget sb.groups 1 = some gb ∧ gb.v.getD (47 : R6).toNat none = some (word 47) ∧ (31 : BitVec 5) ≠ 0 ∧ inSlot { gb with res := .parked } = false ∧
    (∃ x, tget sshoot.shoots 9 = some x ∧ 3 ∈ x.chips ∧ mayAck sshoot 3 x.asid x.lo x.hi = true) := by
  refine ⟨by decide, by decide, by decide, by decide, by decide, by decide, by decide, by decide, by decide, by decide, rfl, rfl, by decide, by decide, by decide, by decide, ⟨_, rfl, by decide, by decide⟩⟩
def srel : State := { sg { gb with res := .ready, cause := .wait, store := .dugout 1 } with clk := 600 }
def gopen : Group := { gb with res := .opened, since := 88 }
-- Units of classes 0 and 1, a handler that is due, a record for the firmware, an XLATE record and a held one.
def ldesc (cls trap : Nat) : Launch := { fetchLaunch with desc := { fetchDesc with cls := cls, trap := trap, gx := 1, gy := 1, gz := 1, gang := 1 }, next := 0 }
def sadm (cls : Nat) : State := { sb with groups := [], wgs := [], launches := [(1, ldesc cls 0)] }
def lrec (code : Nat) (fw : Bool) (trap : Nat) : Launch := { ldesc 0 trap with next := 1, fq := [{ rec0 code with fw := fw }] }
def shnd : State := { sg gheld with launches := [(1, lrec 5 false 0x1000)] }
theorem witness_residency : has (tget srel.groups 1) (fun g => mayRelaunch srel g && slotTakes srel g 0 0 && (reloadRecord srel 1 g).isSome) = true ∧ (gopen.since + 512 ≤ (600 : Nat)) ∧ gopen.res = .opened ∧
    (∀ e ∈ (sadm 0).launches, handlerDue (sadm 0) e.2 = false) ∧ admitOrder (sadm 0) = [(1, ldesc 0 0)] ∧ admitOrder (sadm 1) = [(1, ldesc 1 0)] ∧ admitOrder sb = [] ∧
    (placeAll (sadm 0) 1 (ldesc 0 0) [] 0 1).isSome = true ∧ (placeUnit (sadm 1) 1 (ldesc 1 0) 0 []).isSome = true ∧
    handlerDue shnd (lrec 5 false 0x1000) = true ∧ (nextRecord (lrec 5 false 0x1000)).isSome = true ∧ (chooseCore shnd fun c => coreAccepts shnd c 1 fetchDesc.pword 1 0 0).isSome = true ∧
    ((lrec 5 false 0).fq.find? fun r => !r.fw && r.kind != 3).isSome = true ∧ holdsXlate (rec0 9) = true ∧ holdsXlate (rec0 5) = false ∧ tenantRuns sb 1 = true ∧
    ((lrec 9 true 0).fq.find? fun r => r.fw && decide (r.seq = 0)).isSome = true ∧ launchOver { sb with groups := [], wgs := [] } 1 { ldesc 0 0 with next := 1 } = true ∧ launchOver (sadm 0) 1 (ldesc 0 0) = false := by
  refine ⟨?_, ?_, ?_, ?_, ?_, ?_, ?_, ?_, ?_, ?_, ?_, ?_, ?_, ?_, ?_, ?_, ?_, ?_, ?_⟩ <;> decide +kernel
def isDone (f : Fin) : Bool := match f with
  | .done _ _ _ => true
  | _ => false
def isFault (f : Fin) : Bool := match f with
  | .fault _ _ => true
  | _ => false
def isBytes (r : Got) : Bool := match r with
  | .bytes _ _ => true
  | _ => false
-- A copy to the scratchpad, one to memory, one from an unmapped page; a query, a merge of records in an unmapped page, a wait on a chain; an mma; claims; a gather.
def scg : State := after (exec (.copyG2s 2 3 4 false 0 false false) (se 0x1000 0 0))
def scs : State := after (exec (.copyS2g 2 3 4 false 0 false false) (se 0 0x2000 0))
def scu : State := after (exec (.copyG2s 2 3 4 false 0 false false) (se 0x10000000000 0 0))
def scd : State := after (execCopyLineLand 2 0 scg)
def sqy : State := after (exec (.hdlQuery 2 4 false 0 false false) (se hdl0 0 0))
def sal : State := after (exec (.smrg 2 3 4 false 0 false false) (se 0x10000000000 0 0))
def sfn : State := after (exec (.kvapp 2 3 4 false 0 false false) (se hdl0 23 0x000F000000000000))
def smm : State := after (exec (.mma 7 0 1 3) { se 0 0 0 with groups := [(1, gmma)] })
def smm1 : State := after (execMmaStart 2 smm)
def sclm : State := after (exec (.slotClaim 2 false 0 false false) (se 4 0 0))
def sheld : State := { sclm with cores := [(0, { coreOf sclm 0 with slots := [(2, { holder := some 7, mem := [] })] })] }
def chain0 (base : DWord) (tail : Nat) : Chain := { base := base, size := 4, owner := 1, head := 0, tail := tail, comp := 0, done := [] }
def schn (base : DWord) (tail : Nat) : State := { sqy with
  cores := [(0, { coreOf sqy 0 with chains := [(3, chain0 base tail)] })], cmds := tmod sqy.cmds 2 fun c => { c with chain := some (3, 0) } }
def sgat : State := after (exec (.kvgatV 2 3 4 false 2 true false) (se hdl0 0x10000004 0x00F0008000000000))
theorem witness_engine_events :
    has (tget scg.cmds 2) (fun c => decide (c.op = 0x58) && decide (c.sub = 0) && c.started && !c.paused && c.landed.isEmpty && decide (copyUnits c = 1) && acqReady scg 2 c && isBytes (engRead scg 2 c false (copySrc c 0) 128)) = true ∧
    has (tget scs.cmds 2) (fun c => decide (c.sub = 1) && c.started && decide (copyUnits c = 1) && isBytes (engRead scs 2 c true (copySrc c 0) 128) && (engXlat scs c.core (cmdAsid scs c) 0x2000 128 true).isNone) = true ∧
    has (tget scu.cmds 2) (fun c => c.started && !isBytes (engRead scu 2 c false (copySrc c 0) 128)) = true ∧
    has (tget scd.cmds 2) (fun c => c.started && (slicesOf scd c).all fun e => relReady scd e.1 e.2 && linesDone e.2) = true ∧
    has (tget sqy.cmds 2) (fun c => c.chain.isNone && isDone (finOf sqy 2 c)) = true ∧ has (tget sal.cmds 2) (fun c => c.chain.isNone && decide (c.op ≠ 0x61) && isFault (finOf sal 2 c)) = true ∧
    has (tget smm.cmds 2) (fun c => decide (c.op = 0x5A) && mmaReady smm 2 c && decide (c.phase = 0) && !stoppedT smm c.tenant) = true ∧
    has (tget smm1.cmds 2) (fun c => mmaReady smm1 2 c && decide (c.phase = 1)) = true ∧
    has (tget (after (exec (.mma 7 0 1 3) { se 0 0 0 with groups := [(1, { gops 0 0 0 with exec := 0 })] })).cmds 2) (fun c => c.ended) = true ∧
    has (tget sclm.cmds 2) (fun c => decide (c.op = 0x5D) && !c.started && claimReady sclm 2 c) = true ∧ has (tget sheld.cmds 2) (fun c => !claimReady sheld 2 c) = true ∧
    has (chainAt (schn 0x1000 1) 0 3) (fun x => decide (x.head < x.tail) && !stoppedT (schn 0x1000 1) (wgTenant (schn 0x1000 1) x.owner) && (unfetched (schn 0x1000 1) 0 3).isNone && !storeFull (schn 0x1000 1) 0) = true ∧
    has (tget (schn 0x1000 0).cmds 2) (fun c => decide (c.chain = some (3, 0)) && isDone (finOf (schn 0x1000 0) 2 c)) = true ∧
    (entryFault (schn 0x1000 0) 0 (chain0 0x1000 0) 0).isNone = true ∧ (entryFault (schn 0x10000000000 0) 0 (chain0 0x10000000000 0) 0).isSome = true ∧
    has (tget sgat.cmds 2) (fun c => decide (c.op = 0x60) && !c.paused && c.lines.contains 0 && acqReady sgat 2 c && has (tget sgat.pools c.pool) fun p =>
      (rowsIn c (rowIn p (gatType c)) 0).all fun t => (locFault sgat (rowLoc sgat p c t).1 (rowLoc sgat p c t).2 (rowBytes p) false).isNone) = true := by
  refine ⟨?_, ?_, ?_, ?_, ?_, ?_, ?_, ?_, ?_, ?_, ?_, ?_, ?_, ?_, ?_, ?_⟩ <;> decide +kernel
-- A pool in two tiers: a victim among resident frames; a frame being copied out, pinned and not; one in the second tier that an append waits for; one being fetched.
def fr (st : FrSt) (pins : Nat) : Frame := { st := st, ref := 1, pins := pins, tenant := 1, filled := 16, slot := some 0, lastacc := 0, ids := [], copied := false }
def pool2 (x : Frame) : Pool := { pool0 with tier2 := some 0x100000000000, frames := [(0, x), (1, { fr .resident 0 with slot := some 1 }), (2, { fr .resident 0 with slot := some 2 }), (3, { fr .resident 0 with slot := some 3 })], free := [] }
def spl (x : Frame) : State := { sfn with pools := [(0, pool2 x)] }
def x2 : Frame := { fr .tier2 0 with slot := none }
theorem witness_frames : (victimOf (spl (fr .resident 0)) 0 (pool2 (fr .resident 0))).isSome = true ∧ victimOf (spl (fr .resident 0)) 0 pool0 = none ∧ (pool2 x2).tier2.isSome = true ∧ (pool2 x2).halted = false ∧
    frameOf (pool2 (fr .evicting 0)) 0 = fr .evicting 0 ∧ frameFault (spl (fr .evicting 0)) (pool2 (fr .evicting 0)) 0 false = none ∧
    frameFault { spl (fr .evicting 0) with roots := [] } (pool2 (fr .evicting 0)) 0 false ≠ none ∧ frameOf (pool2 (fr .evicting 1)) 0 = fr .evicting 1 ∧
    fetchWaiters { spl x2 with handles := [(0, { st := 1, gen := 1, tenant := 1, pool := 0, c := 20, w := 24, bt := [1, 0], named := none })] } 0 0 ≠ [] ∧ (startFetch { pool2 x2 with f := 5 } 0).isSome = true ∧
    fetchWaiters (spl x2) 0 3 = [] ∧ frameFault (spl (fr .fetching 0)) (pool2 (fr .fetching 0)) 0 true = none ∧
    fetchWants { spl (fr .fetching 0) with cmds := [], roots := [] } 0 0 = [] ∧ frameFault { spl (fr .fetching 0) with cmds := [], roots := [] } (pool2 (fr .fetching 0)) 0 true ≠ none ∧
    (∃ k d r, fetchWaiters { spl x2 with handles := [(0, { st := 1, gen := 1, tenant := 1, pool := 0, c := 20, w := 24, bt := [1, 0], named := none })] } 0 0 = (k, d) :: r) := by
  refine ⟨?_, ?_, ?_, ?_, ?_, ?_, ?_, ?_, ?_, ?_, ?_, ?_, ?_, ?_, ⟨_, _, _, rfl⟩⟩ <;> decide +kernel
-- A plan whose request decodes, with frames and without; its iteration, graph and scorer; a deadline at 1 µs; an admission kernel that has ended; a stream that waits.
def supl (fs : List Nat) : State := { sr with pools := [(0, { pool0 with free := fs })], reqs := [(0, { req0 with plan := 1, committed := 0 })] }
def it0 (sc : Bool) : Iter := { num := 1, entries := [], toks := [], scoring := sc }
def tmpl0 : Tmpl := { graph := 0x9000, ntask := 1, work := 0x100000, batch := 0x200000, toks := 0x300000, scorer := 0xA000, admKern := 0, pbase := 0x400000, pcap := 256, rarea := 0x1000000 }
def task0 (st : Option (Nat × Bool)) : Task := { pred := 0, succs := [], restart := false, cls := 0, prio := 0, desc := 0, status := st, eligible := true }
def graph0 (st : Option (Nat × Bool)) : Graph := { tenant := 1, base := 0x9000, origin := .plan 1, tasks := [(0, task0 st)], reissue := [] }
def sit (st : Option (Nat × Bool)) (sc : Bool) : State := { supl [2, 3] with plans := [(1, { plan0 with tmpl := some tmpl0, iter := some (it0 sc) })], graphs := [(4, graph0 st)],
                                                                               launches := [(6, { ldesc 0 0 with next := 1, origin := .scorer 1 })] }
def descOk (x : Except Nat Desc) : Bool := match x with
  | .ok d => decide (d.threads = 16)
  | .error _ => false
def sdl : State := { supl [2] with clk := 1201, reqs := [(0, { req0 with deadline := 1 })] }
def sak : State := { sr with launches := [(6, { ldesc 0 0 with next := 1, origin := .admission 0 })], reqs := [(0, { req0 with st := .queued, admission := some 6 })] }
theorem witness_umpire : nextPlan (supl [2, 3]) = some 1 ∧ ((countFrames (supl [2, 3]) { pool0 with free := [2, 3] } (choose (supl [2, 3]) 1 plan0)).1.length = 1) ∧
    (countFrames (supl []) { pool0 with free := [] } (choose (supl []) 1 plan0)).1.length = 0 ∧ nextPlan (supl [2, 3]) ≠ some 2 ∧
    (graphOfPlan (sit none false) 1).isSome = true ∧ graphOver (graph0 none) = false ∧ graphOver (graph0 (some (0, false))) = true ∧ (graphResult (graph0 (some (0, false)))).2 = 0 ∧
    (graphResult (graph0 (some (15, false)))).2 ≠ 0 ∧ descOk (scorerDesc (sit none false) { plan0 with tmpl := some tmpl0 } 1) = true ∧ descOk (scorerDesc (sit none false) plan0 1) = true ∧
    descOk (scorerDesc (sit none false) { plan0 with tmpl := some { tmpl0 with scorer := 0x9000 } } 1) = false ∧
    has (scorerOf (sit none true) 1) (fun e => launchOver (sit none true) e.1 e.2) = true ∧
    ({ req0 with deadline := 1 } : Request).deadline ≠ 0 ∧ ended req0.st = false ∧ 1200 * 1 < sdl.clk ∧
    (sak.launches.find? fun e => decide (e.2.origin = .admission 0) && launchOver sak e.1 e.2).isSome = true ∧ has (tget (dropLaunch sak 6).reqs 0) (fun r => decide (r.admission = some 6) && decide (r.st = .queued)) = true ∧
    ({ fetchTenant with queue := [{ bits := 0, cmd := none, post := [] }] } : Tenant).queue ≠ [] ∧ alarmLevel sr ≠ 3 := by
  refine ⟨?_, ?_, ?_, ?_, ?_, ?_, ?_, ?_, ?_, ?_, ?_, ?_, ?_, ?_, ?_, ?_, ?_, ?_, ?_, ?_⟩ <;> decide +kernel

/-! ## The fabric -/

-- Device 5 with a key, route to it through port 2, an export for it, requests to it that wait, a catch slot; and the same zeroised.
def sent0 (type seq : Nat) : Sent := { pkt := { pkt type with dst := 5, src := 0, seq := seq }, cmd := some 2, unit := 0, xfer := none, at_ := 0, tries := 0 }
def lz0 (st : LzSt) : LzSlot := { st := st, wg := 1, ctr := 0, rid := 9, target := 128, area := 0, dev := 5, score := 0, anyc := true, rdev := 5, rcore := 0, port := 2, last := 0, got := [] }
def sfb (st : LzSt) : State := { sfn with
  cores := [(0, { coreOf sfn 0 with lz := [(1, lz0 st)] })]
  fab := { sfn.fab with
    inject := some 0, bankSt := #v[.inForce, .retired], banks := [(0, [(5, 2), (7, 3)])]
    pairs := [(5, { key := [1], next := 4, top := 100, got := [(98, some { type := 6, af := 98, payload := [] }), (99, none)] })]
    exports := [{ dev := 5, ptenant := 0, tenant := 1, base := 0, len := 65536 }], sent := [sent0 0 1, sent0 2 2, sent0 4 3, sent0 8 4] } }
def pk5 (type : Nat) : Packet := { pkt type with seq := 101, tag := (packetSeal [1] { pkt type with seq := 101 }).2 }
theorem seal_tag (key : List Byte) (p : Packet) (x : List Byte) : packetSeal key { p with tag := x } = packetSeal key p := rfl
theorem key_pk5 (type : Nat) (st : LzSt) : (pairOf (sfb st) 5).key = [1] ∧ (5 : Nat) ≠ (sfb st).fab.devId := by cases st <;> exact ⟨rfl, by decide⟩
theorem verified_pk5 (type : Nat) (st : LzSt) : verified (sfb st) (pk5 type) = true := by
  have h : (packetSeal [1] (pk5 type)).2 = (pk5 type).tag := congrArg Prod.snd (seal_tag [1] { pkt type with seq := 101 } _)
  rw [verified, show (pk5 type).src = 5 from rfl, (key_pk5 type st).1, h]; simp
theorem refused_pk5 (type : Nat) (st : LzSt) : verified (sfb st) { pk5 type with tag := (packetSeal [1] (pk5 type)).2 ++ [0] } = false := by
  rw [verified, show (pk5 type).src = 5 from rfl, (key_pk5 type st).1, seal_tag [1] (pk5 type) ((packetSeal [1] (pk5 type)).2 ++ [0])]; simp [(key_pk5 type st).2]
theorem here_pk5 (type : Nat) (st : LzSt) : Here (sfb st) type (pk5 type) 2 := ⟨rfl, rfl, by cases st <;> rfl⟩
theorem fresh_pk5 (type : Nat) (st : LzSt) : Fresh (sfb st) type (pk5 type) 2 := by
  refine ⟨here_pk5 type st, rfl, verified_pk5 type st, ?_, ?_⟩
  · show 100 ≤ 101 + 65536; decide
  · cases st <;> rfl
theorem witness_packet_checks : IsArrival Instr.writePacket 0 ∧ Here (sfb .opened) 0 (pk5 0) 2 ∧ verified (sfb .opened) { pk5 0 with tag := (packetSeal [1] (pk5 0)).2 ++ [0] } = false ∧
    tget (pairOf (sfb .opened) 5).got 99 = some none ∧ tget (pairOf (sfb .opened) 5).got 98 = some (some { type := 6, af := 98, payload := [] }) ∧ 0 + 65536 < 65537 ∧
    (pairOf (sfb .opened) 5).top ≤ (pk5 0).seq + 65536 ∧ arrives (sfb .opened) (pk5 0) 16 = false ∧
    (({ pk5 0 with dst := 7 } : Packet).dst ≠ 0 ∧ portUp (sfb .opened) 2 = true) ∧ routePort (sfb .opened) false 7 = some 3 ∧ routePort (sfb .opened) false 8 = none ∧
    portUp { sfb .opened with fab := { (sfb .opened).fab with portsUp := 0x0007 } } 3 = false := by
  refine ⟨?_, here_pk5 _ _, refused_pk5 _ _, ?_, ?_, ?_, ?_, ?_, ?_, ?_, ?_, ?_⟩
  · unfold IsArrival; exact List.mem_cons_self
  all_goals decide
-- A WRITE of 32 bytes inside the export, one past its end, one to a page that is not mapped; an atomic add; replies; reservations and CATCH packets for slot 1; a REDUCE of an empty head.
theorem witness_packet_effects : Fresh (sfb .opened) 0 (pk5 0) 2 ∧ (exportOf (sfb .opened) (pk5 0) 65504 32).isSome = true ∧ exportOf (sfb .opened) (pk5 0) 65505 32 = none ∧
    vfault (sfb .opened) 1 65504 32 true = none ∧ vfault (sfb .opened) 1 0x20000000 32 true ≠ none ∧
    (∃ x, sentFor (sfb .opened) 5 2 2 = some x ∧ x.cmd = some 2) ∧ (∃ x, sentFor (sfb .opened) 5 3 4 = some x ∧ x.cmd = some 2) ∧ (∃ x, sentFor (sfb .opened) 5 4 8 = some x ∧ x.cmd = some 2) ∧
    (sentFor (sfb .opened) 5 1 6).isSome = true ∧ (tget (sfb .opened).cmds 2).isSome = true ∧ tget (sfb .opened).ops 2 = none ∧
    SlotRuns (sfb .opened) (pk5 8) ∧ (lzAt (sfb .opened) 0 1).st = .opened ∧ (lzAt (sfb .reserved) 0 1).rid = 9 ∧ 0 + 128 ≤ (lzAt (sfb .reserved) 0 1).target ∧ (lzAt (sfb .filling) 0 1).st ≠ .torn ∧
    (∃ k js d, redParse (zeros 64) = (k, js, d) ∧ redClash (sfb .opened) k = none) ∧ inNet { sfb .opened with feats := 0 } 0 = false := by
  refine ⟨fresh_pk5 _ _, ?_, ?_, ?_, ?_, ⟨_, rfl, rfl⟩, ⟨_, rfl, rfl⟩, ⟨_, rfl, rfl⟩, ?_, ?_, ?_, ⟨_, rfl, rfl⟩, ?_, ?_, ?_, ?_, ⟨_, _, _, rfl, ?_⟩, ?_⟩ <;> decide +kernel
-- Each timer at its limit.
def scat (clk : Nat) : State := { sfb .filling with clk := clk, cmds := tmod (sfb .filling).cmds 2 fun c => { c with op := 0x68, sub := 2, c := 32, phase := 2 } }
def sred (clk tries : Nat) : State := { sfb .filling with clk := clk, cmds := tmod (sfb .filling).cmds 2 fun c => { c with op := 0x6B, b := 5, landed := [0], tries := tries } }
def xf0 (imp zb : Bool) : KvXfer := { import_ := imp, tenant := 1, req := 0, plan := 1, tag := 3, zoubry := zb, peer := 5, owed := { fn := 0, q := 0, cid := 0, sqhead := 0, era := 0 }, since := 0, manifest := none, pages := [], frames := [] }
def sxf (imp zb : Bool) : State := { sfb .filling with
  clk := 12000000000, reqs := [(0, { req0 with exporting := some 8 })]
  fab := { (sfb .filling).fab with xfers := [(8, xf0 imp zb)], ue := [(5, { key := [1], next := 0, ack := 0, seenE := [7], seenI := [] })], wire := [{ pk5 0 with dst := 5, src := 7 }] } }
theorem witness_fabric_timers : (∃ x, (sfb .opened).fab.sent.find? (fun x => decide (x.pkt.dst = 5) && decide (x.pkt.seq = 1)) = some x ∧ x.at_ + 24000 ≤ 24000 ∧ x.tries < 8 ∧ 23999 < x.at_ + 24000) ∧
    (lzAt (sfb .filling) 0 1).last + 1200000 ≤ 1200000 ∧ (lzAt (sfb .filling) 0 1).st = .filling ∧ (lzAt (sfb .reserved) 0 1).st = .reserved ∧
    has (tget (scat 2400000).cmds 2) (fun c => isCatch c && decide (c.phase = 2) && decide (c.since + 2400000 ≤ 2400000)) = true ∧
    has (tget (sred 60000 7).cmds 2) (fun c => decide (c.op = 0x6B) && decide ((c.landed.filter fun u => !c.acked.contains u) ≠ []) && decide (c.since + 60000 ≤ 60000) && decide (c.tries < 8) && redReach (sred 60000 7) c) = true ∧
    has (tget (sred 60000 8).cmds 2) (fun c => decide (8 ≤ c.tries)) = true ∧ tget (sxf true true).fab.xfers 8 = some (xf0 true true) ∧ exportStarted (sxf false true) 8 (xf0 false true) = true ∧
    (tget (sxf false false).fab.ue 5).isSome = true ∧ (7 : Nat) ∈ [7] ∧ (8 : Nat) ∉ [7] ∧ roleFits true (.page 0 0 [] []) = true ∧ (sxf true true).fab.portsUp.getLsbD 15 = true ∧
    ({ (sxf true true).fab with portsUp := 0 } : Fabric).portsUp.getLsbD 0 = false := by
  refine ⟨⟨_, rfl, by decide, by decide, by decide⟩, ?_, ?_, ?_, ?_, ?_, ?_, ?_, ?_, ?_, ?_, ?_, ?_, ?_, ?_⟩ <;> decide +kernel

-- A notice that is due; a torn slot and the packet that names it; a transfer that aborts with and without a refusal; a contribution that differs; a piece of a message.
def snt : State := { sfb .torn with clk := 24000, fab := { (sfb .torn).fab with notices := [({ pk5 10 with dst := 5, src := 0 }, 0)] } }
theorem witness_fabric_more : (snt.fab.notices.find? fun e => decide (e.1.dst = 5) && decide (e.1.seq = 101)).isSome = true ∧ canSend snt 5 = true ∧
    (snt.fab.sent.find? fun x => decide (x.pkt.dst = 5) && decide (x.pkt.seq = 101)) = none ∧
    (lzAt snt 0 1).st = .torn ∧ (lzAt snt 0 1).rid = afRid { pk5 1 with af := 9 * 2 ^ 33 + 2 ^ 21 } ∧ (lzAt snt 0 1).rid ≠ afRid (pk5 11) ∧
    has (tget (scat 2400000).cmds 2) (fun c => aborting c && decide (c.phase = 2) && !mayBeFull (scat 2400000) c) = true ∧
    has (tget (tmod (scat 0).cmds 2 fun c => { c with landed := [0], b := 0 }) 2) (mayBeFull (scat 0)) = true ∧ has (tget (tmod (scat 0).cmds 2 fun c => { c with phase := 4 }) 2) aborting = true ∧
    has (tget (sred 0 0).cmds 2) (fun c => (redClash (sred 0 0) { redKey c 0 with red := (redKey c 0).red ^^^ 0x100 }).isSome) = true ∧
    (joinPiece (sfb .opened) 5 3 (kvPiece (zeros 64))).1.fab.parts.length ≤ 1 := by
  refine ⟨?_, ?_, ?_, ?_, ?_, ?_, ?_, ?_, ?_, ?_, ?_⟩ <;> decide +kernel

/-! ## The device and its tenants -/

def schip (st : ChipSt) (since clk : Nat) : State := { sb with clk := clk, chips := sb.chips.set 0 { Chip.reset with st := st, since := since } }
theorem witness_device : (0 + 1) * 1200000 ≤ ({ sb with clk := 1200000 } : State).clk ∧ sb.clk < (sb.windows + 1) * 1200000 ∧ (sb.chips[3].st = .active) ∧ chipState sb 3 = .active ∧ chipState (schip .fencing 0 24000) 0 = .fencing ∧ (0 + 24000 ≤ (schip .fencing 0 24000).clk) ∧
    chipState (schip .resetting 0 0) 0 = .resetting ∧ chipState (schip .selftest 0 0) 0 = .selftest ∧ (schip .selftest 0 0).rdy = true ∧ sb.sec.zeroised = false ∧
    (∃ t, ({ sb with sec := { sb.sec with tempcAt := some 5 } } : State).sec.tempcAt = some t ∧ t + 12000000 ≤ 12000005) ∧ sb.sec.tempcAt = none := by
  refine ⟨?_, ?_, ?_, ?_, ?_, ?_, ?_, ?_, ?_, ?_, ⟨5, rfl, ?_⟩, ?_⟩ <;> decide
-- 40 µs into a drain; a tenant with nothing left to drain; a section to restore; an image load that waits for its second line, and one that has it all.
def sdr (park : Park) (img : List (List Nat)) : State := { sb with clk := 48000, groups := [], tenants := [(1, { fetchTenant with park := park, image := img })] }
def o0 : Owed := { fn := 0, q := 0, cid := 0, sqhead := 1, era := 0 }
def xl (reads : Table Nat) (owing : NatSet) (st : XferStage) : Xfer :=
  { owed := o0, tenant := 1, job := .image, cmd := c1 0x1000 320 0x10000 0, host := 0x1000, dst := 0x10000, phys := false, data := hostRead sh 0x1000 320, reads := reads
    since := 0, pieces := [(8, [1, 2])], owing := owing, stage := st }
def sx (x : Xfer) : State := { sh with xfers := [(3, x)] }
theorem witness_tenants : (∃ x, tget (sdr (.draining 0 o0) []).tenants 1 = some x ∧ x.park = .draining 0 o0 ∧ 0 + 48000 ≤ (sdr (.draining 0 o0) []).clk) ∧ drained (sdr (.draining 0 o0) []) 1 0 = true ∧
    drained { sfn with clk := 1 } 1 0 = false ∧ (∃ x, tget (sdr (.resuming o0) [[1]]).tenants 1 = some x ∧ x.park = .resuming o0 ∧ x.image = [1] :: []) ∧
    (restoreAll (sdr (.resuming o0) [[1]]) [] [1]).isSome = true ∧ tget (sx (xl [(64, 256)] [2] .body)).xfers 3 = some (xl [(64, 256)] [2] .body) ∧
    tget (xl [(64, 256)] [2] .body).reads 64 = some 256 ∧ tget (xl [(64, 256)] [2] .body).reads 0 = none ∧ 2 ∈ (xl [] [2] .body).owing ∧ 1 ∉ (xl [] [2] .body).owing ∧ (xl [(64, 256)] [] .body).reads ≠ [] ∧
    (xl [] [] .header).reads = [] ∧ imageOk ((xl [] [] .header).data.take 64) (xl [] [] .header).data.length = true ∧ imageOk ((xl [] [] .header).data.take 64) 319 = false ∧
    mappedW (sx (xl [] [] .header)) (cmdSpace (sx (xl [] [] .header)) (xl [] [] .header).cmd) 0x10000 320 = true := by
  refine ⟨⟨_, rfl, rfl, by decide⟩, ?_, ?_, ⟨_, rfl, rfl, rfl⟩, ?_, ?_, ?_, ?_, ?_, ?_, ?_, ?_, ?_, ?_, ?_⟩ <;> decide +kernel

/-! ## Steps -/

-- A word next in the schedule, at a header and in a body; an event that takes place; the form of memory at hand.
theorem witness_step : (∃ g, tget (State.reset.withFetchWord 32 0x200C1148).groups 1 = some g ∧ mayIssue (State.reset.withFetchWord 32 0x200C1148) 1 g = true ∧ romKernelAt (State.reset.withFetchWord 32 0x200C1148) g = none ∧
      g.coff ≠ 0 ∧ g.len ≠ 0 ∧ g.rep = none ∧ fetchWord (State.reset.withFetchWord 32 0x200C1148) 0 1 (wordAddr g).toNat = some 0x200C1148) ∧
    (∃ g, tget (State.reset.withFetchWord 32 0xFE000021).groups 1 = some g ∧ g.coff = 0 ∧ fetchWord (State.reset.withFetchWord 32 0xFE000021) 0 1 g.pc.toNat = some 0xFE000021 ∧ isHeaderWord 0xFE000021 = true) ∧
    isHeaderWord 0x200C1148 = false ∧ decodeWord 0xF0000000 = none ∧ mayIssue sb 1 { gb with res := .held } = false ∧
    stepWord 0x200C1148 { cnt := 1, dD := 1, dA := 1, dB := 0 } 1 = some 0x20102148 ∧
    stepWord 0x20FC1148 { cnt := 1, dD := 1, dA := 1, dB := 0 } 1 = none ∧ decodeWord 0x06200000 = none ∧ decodeWord (plainBranch 0x06200000) = some (.br 0) ∧ decodeWord (plainBranch 0xF0000000) = none ∧
    fetchXlat sb 0 1 0x10000000000 = .xlate ∧ (match fetchXlat { sb with mem := mwriteN sb.mem 0x20000 8 0x20000007 } 0 1 0x1000 with | .page l => l.x | _ => true) = false ∧ takesPlace sb .snapshotPin = true ∧ takesPlace State.reset .snapshotPin = false := by
  refine ⟨⟨_, rfl, ?_, ?_, ?_, ?_, ?_, ?_⟩, ⟨_, rfl, ?_, ?_, ?_⟩, ?_, ?_, ?_, ?_, ?_, ?_, ?_, ?_, ?_, ?_, ?_, ?_⟩ <;> decide +kernel
theorem witness_memory_form : Memory.wf sb.mem = true ∧ Memory.wf sb.hostMem = true ∧ ∃ t, step (State.reset.withFetchWord 32 0) = .next t := by
  refine ⟨by decide, by decide, _, rfl⟩
theorem witness_encode : encodeWord (.iadd false 3 1 5 false false true) = some 0x200C1148 ∧ encodeWord (.iadd true 63 63 63 true true true) = some 0x21FFFFF8 ∧ decodeWord 0x21FFFFF8 = some (.iadd true 63 63 63 true true true) ∧
    (c1 1 2 3 4).rsv = false ∧ firstFailure sh { cmd0 with rsv := false, tenant := 0x1000 &&& 0xFFF } (devRow true fun _ => []) = none := by decide

/-! ## Conditions that came with later clauses -/

def busyWalk : Table Walk := [(5, { asid := 1, page := 0, reqs := [], chips := [] })]
def isWait (r : Got) : Bool := match r with
  | .wait => true
  | _ => false
-- A walk of the page in flight: an engine's read, the words of a chain entry and a fetch wait for it. 1,024 walks in flight; a failed command; the next product.
theorem witness_waiting_walks : has (tget scg.cmds 2) (fun c => isWait (engRead { scg with walks := busyWalk } 2 c false (copySrc c 0) 128)) = true ∧
    engBlocked { schn 0x1000 0 with walks := busyWalk } 0 1 0x1000 8 = true ∧ fetchBlocked { sb with walks := busyWalk } 0 1 (wordAddr gb).toNat = true ∧ fetchBlocked sb 0 1 (wordAddr gb).toNat = false ∧
    1024 ≤ ({ sb with walks := List.replicate 1024 (0, { asid := 2, page := 0, reqs := [], chips := [] }) } : State).walks.length ∧
    has (tget (tmod scg.cmds 2 fun c => { c with failed := true }) 2) Cmd.failed = true ∧ has (tget smm.cmds 2) (fun c => nextProduct smm 2 c) = true := by
  refine ⟨?_, ?_, ?_, ?_, Nat.le_of_eq List.length_replicate.symm, ?_, ?_⟩ <;> decide +kernel
-- READDATA for nothing that is awaited, and for an fget whose destination's page is being walked.
theorem witness_no_wait (st : LzSt) : getWaits (sfb st) (pk5 3) 2 = none := by
  unfold getWaits
  split
  · rfl
  · rw [show sentFor (sfb st) (pk5 3).src ((pk5 3).af % 2 ^ 39) pktRead = none by cases st <;> decide]; rfl
def sgw : State := { sfb .opened with
  walks := busyWalk, fab := { (sfb .opened).fab with sent := [sent0 2 0] }
  cmds := tmod (sfb .opened).cmds 2 fun c => { c with op := 0x69, sub := 0, b := 0x1000, c := 32 } }
theorem witness_get_waits : (sentFor sgw 5 0 2).isSome = true ∧ has (tget sgw.cmds 2) (fun c => engBlocked sgw c.core (cmdAsid sgw c) 0x1000 32) = true ∧ tget sgw.ops 2 = none := by
  refine ⟨?_, ?_, ?_⟩ <;> decide +kernel
-- An fput with every packet sent and none refused, and one that a packet of was refused; the time of both past.
theorem witness_torn : has (tget (tmod (scat 0).cmds 2 fun c => { c with landed := [0] }) 2) (fun c => decide (c.phase ≠ 4) && decide (moveParts c ≤ c.landed.length)) = true ∧
    has (tget (tmod (scat 0).cmds 2 fun c => { c with phase := 5 }) 2) (fun c => aborting c && isCatch c && decide (rwDev c.b ≠ (scat 0).fab.devId) || decide (c.landed.length ≠ moveParts c)) = true := by
  refine ⟨?_, ?_⟩ <;> decide +kernel
-- A file to import that finds memory and one that finds none; a request with an export pending; a prompt that has been copied; a table past the end of the host's addresses.
theorem witness_staging : (startStaged sh o0 (c0 0x1000 4096) .context 0x1000 4096).isSome = true ∧ (startStaged { sh with hbm := 0 } o0 (c0 0x1000 4096) .context 0x1000 4096).isNone = true ∧
    (startStaged { sh with locked := false } o0 (c0 0x1000 64) .patch 0x1000 64).isSome = true ∧ ({ req0 with xpend := true } : Request).xpend = true ∧ (xl [] [] .final).reads = [] ∧
    tget sr.reqs 0 = some { req0 with committed := 0 } ∧ 2 ^ 64 < (0xFFFFFFFFFFFFF000#64).toNat + 8192 ∧ (0xFFFFFFFFFFFFF000#64).toNat % 64 = 0 := by
  refine ⟨?_, ?_, ?_, ?_, ?_, ?_, ?_, ?_⟩ <;> decide +kernel

/-! ## One step, with a result that the spec works out -/

def lane (o : Out) (n l : Nat) : Option Word := (tget (after o).groups 1).map fun g => readV g n l
-- R159: TYPE i8, A = 0x7F80FF02, B = 0x01010203, D = 10 gives 0xD.
def gdot : Group := { gb with mood := 0x160#32, v := ((gb.v.set 9 (some (word 10))).set 4 (some (word 0x7F80FF02))).set 5 (some (word 0x01010203)) }
theorem test_dot4 : lane (exec (.dot4 false 9 4 5 false false) (sg gdot)) 9 3 = some 0xD := by decide
-- R144, bf16 pairs: (1, 2) + (1, 1) = (2, 3); TYPE e5m2 is ILLTYPE.
def gbf (t : Word) : Group := { gb with mood := t <<< 5, v := (gb.v.set 4 (some (word 0x40003F80))).set 5 (some (word 0x3F803F80)) }
theorem test_fadd : lane (exec (.fadd false 6 4 5 false false) (sg (gbf 2))) 6 15 = some 0x40404000 ∧
    (tget (after (exec (.fadd false 6 4 5 false false) (sg (gbf 4)))).launches 1).map (fun k => k.fq.map FaultRec.code) = some [3] := by decide
-- R135: ldi of 0x1FF0 and khi of 0 make the canonical NaN.
theorem test_khi : lane (exec (.khi false 2 0) (sg { gb with v := gb.v.set 2 (some (word 0x1FF0)) })) 2 0 = some 0x7FC00000 := by decide
-- The table after R126: MOOD.TYPE, SAT, a and b in v4 and v5, and the result.
def two (ty sat : Nat) (x y : Word) : State := sg { gb with mood := BitVec.ofNat 32 (32 * ty + 4096 * sat), v := (gb.v.set 4 (some (word x))).set 5 (some (word y)) }
theorem test_iadd : lane (exec (.iadd false 3 4 5 false false false) (two 7 1 0x7FFFFFFF 1)) 3 0 = some 0x7FFFFFFF ∧
    lane (exec (.iadd false 3 4 5 false false false) (two 7 0 0x7FFFFFFF 1)) 3 0 = some 0x80000000 ∧ lane (exec (.iadd false 3 4 5 false false false) (two 11 1 100 100)) 3 0 = some 0x7F ∧
    lane (exec (.isub false 3 4 5 false false false) (two 12 1 5 9)) 3 0 = some 0 := by decide
theorem test_iabs_imulh : lane (exec (.iabs false 3 4 false) (two 7 0 0x80000000 0)) 3 0 = some 0x80000000 ∧ lane (exec (.iabs false 3 4 false) (two 7 1 0x80000000 0)) 3 0 = some 0x7FFFFFFF ∧
    lane (exec (.imulh false 3 4 5 false false false) (two 7 0 0x80000000 2)) 3 0 = some 0xFFFFFFFF ∧ lane (exec (.imulh false 3 4 5 false false false) (two 8 0 0x80000000 2)) 3 0 = some 1 := by decide
theorem test_idiv : lane (exec (.idivQs false 3 4 5 false false false) (two 7 0 7 0xFFFFFFFE)) 3 0 = some 0xFFFFFFFD ∧ lane (exec (.idivRs false 3 4 5 false false false) (two 7 0 7 0xFFFFFFFE)) 3 0 = some 1 ∧
    lane (exec (.idivQs false 3 4 5 false false false) (two 7 0 0xFFFFFFF9 2)) 3 0 = some 0xFFFFFFFD ∧ lane (exec (.idivRs false 3 4 5 false false false) (two 7 0 0xFFFFFFF9 2)) 3 0 = some 0xFFFFFFFF ∧
    lane (exec (.idivQn false 3 4 5 false false false) (two 7 0 5 0)) 3 0 = some 0xFFFFFFFF ∧ lane (exec (.idivRn false 3 4 5 false false false) (two 7 0 5 0)) 3 0 = some 5 := by decide
-- R126: arithmetic shift by 31, and a shift by the width.
theorem test_shift : lane (exec (.shrA false 3 4 31 false false true) (two 7 0 0x80000000 0)) 3 0 = some 0xFFFFFFFF ∧ lane (exec (.shl false 3 4 5 false false false) (two 7 0 1 32)) 3 0 = some 0 := by decide
-- R115: the record of trap 42: CODE 18, ADDR 42, at the clause's word.
theorem test_trap : (tget (after (exec (.trapUser 42) sb)).launches 1).map (fun k => k.fq.map fun r => (r.code, r.addr, r.pc)) = some [(18, 42, 0x1004)] := by decide
-- A step from the fetch of a word: iadd v3, v1, 5 finds v1 without a register.
theorem test_step : (match step (State.reset.withFetchWord 32 0x200C1148) with
    | .next t => (tget t.launches 1).map fun k => k.fq.map FaultRec.code
    | _ => none) = some [6] := by decide

end Sys2Proof.Tests
end

section
/-! PROOFS. The Umpire's events (R334, R340, R344 to R350): iterations, scorers, deadlines, admission kernels and token streams. -/

namespace Sys2Proof.Machine

/-! ## Tables -/

theorem tget_tmod_same {α : Type} (t : Table α) (k : Nat) (f : α → α) : tget (tmod t k f) k = (tget t k).map f := by
  induction t with
  | nil => rfl
  | cons e t ih =>
    obtain ⟨j, v⟩ := e
    by_cases h : j = k
    · simp [tmod, tget, h]
    · simpa [tmod, tget, h] using ih

theorem tget_tmod_ne {α : Type} (t : Table α) {k j : Nat} (f : α → α) (h : j ≠ k) : tget (tmod t k f) j = tget t j := by
  induction t with
  | nil => rfl
  | cons e t ih =>
    obtain ⟨i, v⟩ := e
    by_cases hi : i = k
    · subst hi; simpa [tmod, tget, Ne.symm h] using ih
    · by_cases hj : i = j
      · subst hj; simp [tmod, tget, h]
      · simpa [tmod, tget, hi, hj] using ih

theorem mem_keys_of_tget {α : Type} {t : Table α} {k : Nat} {v : α} (h : tget t k = some v) : k ∈ t.map Prod.fst := by
  induction t with
  | nil => cases h
  | cons e t ih =>
    obtain ⟨j, w⟩ := e
    by_cases hj : j = k
    · simp [hj]
    · exact List.mem_cons_of_mem _ (ih (by simpa [tget, hj] using h))

/-! ## An iteration is formed (R344, R346) -/

theorem iterationForm_of_not_next {s : State} {n : Nat} (h : nextPlan s ≠ some n) : exec (.iterationForm n) s = .next s := by
  simp [execIterationForm, h]

/-- The plan that is next: the requests whose frames are not at hand pause, and what is left, if anything, is instantiated. -/
theorem iterationForm_of_next {s : State} {n : Nat} {p : Plan} {q : Pool} (hn : nextPlan s = some n) (hp : tget s.plans n = some p)
    (hq : tget s.pools p.pool = some q) {r : List Choice × List Choice} (hr : r = countFrames s q (choose s n p)) {t : State}
    (ht : t = r.2.foldl pauseReq { s with lastPlan := n }) :
    exec (.iterationForm n) s = .next (if r.1.isEmpty then t else instantiate t n p r.1) := by
  subst hr ht
  simp [execIterationForm, hn, hp, hq]

/-! ## Its graph and its scorer end (R348) -/

theorem launchScorer_of_ok {s : State} {n : Nat} {p : Plan} {it : Iter} {d : Desc}
    (hd : scorerDesc s p ((it.entries.length + 15) / 16) = .ok d) (h16 : d.threads = 16) :
    launchScorer s n p it
      = makeLaunch { s with plans := tmod s.plans n fun q => { q with iter := some { it with scoring := true } } } p.tenant d (.scorer n) := by
  simp [launchScorer, seqGroups, hd, h16]

theorem launchScorer_of_error {s : State} {n : Nat} {p : Plan} {it : Iter} {e : Nat}
    (he : scorerDesc s p ((it.entries.length + 15) / 16) = .error e) : launchScorer s n p it = failIter s n := by
  simp [launchScorer, seqGroups, he]

section GraphEnds
variable {s : State} {n : Nat} {p : Plan} {it : Iter} {g : Nat} {gr : Graph} (hp : tget s.plans n = some p) (hi : p.iter = some it)
  (hg : graphOfPlan s n = some (g, gr))
include hp hi hg

theorem iterationGraphComplete_of_running (ho : graphOver gr = false) : exec (.iterationGraphComplete n) s = .next s := by
  simp [execIterationGraphComplete, hp, hi, hg, ho]

variable (hs : it.scoring = false) (ho : graphOver gr = true)
include hs ho

theorem iterationGraphComplete_of_success (h : (graphResult gr).2 = stOk) :
    exec (.iterationGraphComplete n) s = .next (launchScorer { s with graphs := tdel s.graphs g } n p it) := by
  simp [execIterationGraphComplete, hp, hi, hg, hs, ho, h]

theorem iterationGraphComplete_of_failure (h : (graphResult gr).2 ≠ stOk) :
    exec (.iterationGraphComplete n) s = .next (failIter { s with graphs := tdel s.graphs g } n) := by
  simp [execIterationGraphComplete, hp, hi, hg, hs, ho, h]

end GraphEnds

theorem iterationComplete_of_over {s : State} {n l : Nat} {k : Launch} (h : scorerOf s n = some (l, k)) (ho : launchOver s l k = true) :
    exec (.iterationComplete n) s = .next (endIter (dropLaunch s l) n) := by
  simp [execIterationComplete, h, ho]

theorem iterationComplete_of_running {s : State} {n l : Nat} {k : Launch} (h : scorerOf s n = some (l, k)) (ho : launchOver s l k = false) :
    exec (.iterationComplete n) s = .next s := by
  simp [execIterationComplete, h, ho]

theorem iterationComplete_of_none {s : State} {n : Nat} (h : scorerOf s n = none) : exec (.iterationComplete n) s = .next s := by
  simp [execIterationComplete, h]

/-! ## Deadlines (R350) -/

/-- A request as R350 leaves it at a clock: with DLMISS where it has a deadline that has passed before it ended. -/
def markLate (clk : Nat) (r : Request) : Request :=
  if r.deadline ≠ 0 ∧ ended r.st = false ∧ 1200 * r.deadline < clk then { r with dlmiss := true } else r

theorem markLate_of_late {clk : Nat} {r : Request} (h : r.deadline ≠ 0 ∧ ended r.st = false ∧ 1200 * r.deadline < clk) :
    markLate clk r = { r with dlmiss := true } := if_pos h

theorem markLate_of_not_late {clk : Nat} {r : Request} (h : ¬(r.deadline ≠ 0 ∧ ended r.st = false ∧ 1200 * r.deadline < clk)) :
    markLate clk r = r := if_neg h

theorem markLate_idem (clk : Nat) (r : Request) : markLate clk (markLate clk r) = markLate clk r := by
  by_cases h : r.deadline ≠ 0 ∧ ended r.st = false ∧ 1200 * r.deadline < clk
  · rw [markLate_of_late h]
    exact markLate_of_late h
  · rw [markLate_of_not_late h, markLate_of_not_late h]

/-- A deadline that passes is counted, and its request gets DLMISS. -/
theorem passDeadline_of_late {s : State} {i : Nat} {r : Request} (h : tget s.reqs i = some r) (hd : r.deadline ≠ 0)
    (hm : r.dlmiss = false) (he : ended r.st = false) (hc : 1200 * r.deadline < s.clk) :
    passDeadline s i = modReq { s with tele := { s.tele with dlMiss := s.tele.dlMiss + 1 } } i fun r => { r with dlmiss := true } := by
  simp [passDeadline, h, hd, hm, he, usClk, Nat.not_le.mpr hc]

/-- A deadline of 0, one counted before, one of a request that has ended and one still to come change nothing. -/
theorem passDeadline_of_not_late {s : State} {i : Nat} {r : Request} (h : tget s.reqs i = some r)
    (hn : r.deadline = 0 ∨ r.dlmiss = true ∨ ended r.st = true ∨ s.clk ≤ 1200 * r.deadline) : passDeadline s i = s := by
  simp [passDeadline, h, usClk, hn]

@[simp] theorem passDeadline_clk (s : State) (i : Nat) : (passDeadline s i).clk = s.clk := by
  simp only [passDeadline]; split
  · rfl
  · split <;> rfl

theorem passDeadline_reqs_same {s : State} {i : Nat} {r : Request} (h : tget s.reqs i = some r) :
    tget (passDeadline s i).reqs i = some (markLate s.clk r) := by
  by_cases hl : r.deadline ≠ 0 ∧ ended r.st = false ∧ 1200 * r.deadline < s.clk
  · rw [markLate_of_late hl]
    obtain ⟨hd, he, hc⟩ := hl
    cases hm : r.dlmiss with
    | false => rw [passDeadline_of_late h hd hm he hc, modReq_reqs, tget_tmod_same, h]; rfl
    | true => rw [passDeadline_of_not_late h (.inr (.inl hm)), h, ← hm]
  · have hn : r.deadline = 0 ∨ r.dlmiss = true ∨ ended r.st = true ∨ s.clk ≤ 1200 * r.deadline := by grind
    rw [markLate_of_not_late hl, passDeadline_of_not_late h hn, h]

theorem passDeadline_reqs_ne (s : State) {i j : Nat} (h : j ≠ i) : tget (passDeadline s i).reqs j = tget s.reqs j := by
  simp only [passDeadline]; split
  · rfl
  · split
    · rfl
    · rw [modReq_reqs, tget_tmod_ne _ _ h]

/-- Deadlines looked at one after another mark each request named, once or more often, by the clock alone. -/
theorem foldl_passDeadline_reqs (ks : List Nat) {s : State} {i : Nat} {r : Request} (h : tget s.reqs i = some r) :
    tget (ks.foldl passDeadline s).reqs i = some (if i ∈ ks then markLate s.clk r else r) := by
  induction ks generalizing s r with
  | nil => simpa using h
  | cons k ks ih =>
    by_cases hk : i = k
    · subst hk; simp [ih (passDeadline_reqs_same h), markLate_idem]
    · simp [ih ((passDeadline_reqs_ne s hk).trans h), hk]

theorem passDeadlines_reqs {s : State} {i : Nat} {r : Request} (h : tget s.reqs i = some r) :
    tget (passDeadlines s).reqs i = some (markLate s.clk r) := by
  rw [passDeadlines, foldl_passDeadline_reqs _ h, if_pos (mem_keys_of_tget h)]

/-! ## Admission kernels and token streams (R14, R334, R341) -/

section AdmissionKernel
variable {s : State} {i l : Nat} {k : Launch} {r : Request}
  (hl : s.launches.find? (fun e => decide (e.2.origin = .admission i) && launchOver s e.1 e.2) = some (l, k))
  (hr : tget (dropLaunch s l).reqs i = some r) (ha : r.admission = some l) (hq : r.st = .queued) {u : State}
  (hu : u = modReq (dropLaunch s l) i fun r => { r with admission := none })
include hl hr ha hq hu

theorem admissionKernelComplete_of_success (h : endStatus s k = stOk) :
    exec (.admissionKernelComplete i) s = .next (modReq (settlePrompt u r) i fun r => { r with st := .prefill }) := by
  simp [execAdmissionKernelComplete, hl, hr, ha, hq, h, hu]

theorem admissionKernelComplete_of_failure (h : endStatus s k ≠ stOk) :
    exec (.admissionKernelComplete i) s = .next (failReq u i (lastIter u)) := by
  simp [execAdmissionKernelComplete, hl, hr, ha, hq, h, hu]

end AdmissionKernel

theorem consumerCountPoll_of_waiting {s : State} {n : Nat} {t : Tenant} (h : tget s.tenants n = some t) (hq : t.queue ≠ [])
    (ha : alarmLevel s ≠ 3) : exec (.consumerCountPoll n) s
      = .next (drainStream { s with tenants := tset s.tenants n { t with cons := leNat (hostRead s (t.ring + 32) 4) } } n t.queue.length) := by
  simp [execConsumerCountPoll, h, hq, ha]

theorem consumerCountPoll_of_empty {s : State} {n : Nat} {t : Tenant} (h : tget s.tenants n = some t) (hq : t.queue = []) :
    exec (.consumerCountPoll n) s = .next s := by
  simp [execConsumerCountPoll, h, hq]

/-- Settles O46: each event by the equation of its case; the deadlines of a step by induction over the requests. -/
theorem umpireEvents : Obligations.UmpireEvents := by
  unfold Obligations.UmpireEvents
  refine ⟨?form, ?graph, ?scorer, ?deadline, fun s i r h => passDeadlines_reqs h, ?admission, ?stream⟩
  case form =>
    refine fun s n p q hp hq => ⟨fun hn r hr t ht => ?_, iterationForm_of_not_next⟩
    rw [iterationForm_of_next hn hp hq hr ht]
    exact ⟨fun h => by simp [h], fun h => by simp [h]⟩
  case graph =>
    refine fun s n p it g gr hp hi hs hg u hu => ⟨iterationGraphComplete_of_running hp hi hg, fun ho hf => ?_, fun ho hz => ?_⟩ <;> subst hu
    · exact iterationGraphComplete_of_failure hp hi hg hs ho hf
    · rw [iterationGraphComplete_of_success hp hi hg hs ho hz]
      exact ⟨fun d hd h16 => by rw [launchScorer_of_ok hd h16], fun e he => by rw [launchScorer_of_error he]⟩
  case scorer =>
    exact fun s n => ⟨fun l k h => ⟨iterationComplete_of_over h, iterationComplete_of_running h⟩, iterationComplete_of_none⟩
  case deadline =>
    intro s i r h hd
    rw [exec_deadlinePass, execDeadlinePass]
    exact ⟨fun hm he hc => by rw [passDeadline_of_late h hd hm he hc], fun hn => by rw [passDeadline_of_not_late h (.inr hn)]⟩
  case admission =>
    intro s i l k r hl t u ht hr ha hq hu
    subst ht
    exact ⟨admissionKernelComplete_of_success hl hr ha hq hu, admissionKernelComplete_of_failure hl hr ha hq hu⟩
  case stream =>
    exact fun s n t h => ⟨consumerCountPoll_of_waiting h, consumerCountPoll_of_empty h⟩

end Sys2Proof.Machine
end

section
/-! PROOFS. What reset leaves (R33, R34, R42, R371, R386, R403). -/

namespace Sys2Proof.Machine

/-- Before any register is written a queue pair of any function, existing or not, holds its reset values (R34). -/
theorem qpOf_reset (fn q : Nat) : qpOf State.reset fn q = QPair.reset := rfl

theorem bankSt_reset (b : Bool) : bankSt State.reset b = .retired := by cases b <;> rfl

/-- Settles O55: every field is the one that the reset state lists; the queue pairs, banks and bytes are what absent entries read as. -/
theorem resetState : Obligations.ResetState := by
  unfold Obligations.ResetState
  have pair (fn q : Nat) : qpOf State.reset fn q = QPair.reset ∧ qctl (qpOf State.reset fn q) = 0 ∧ (qpOf State.reset fn q).sqb = 0 ∧
      (qpOf State.reset fn q).cqb = 0 := by
    rw [qpOf_reset]
    exact ⟨rfl, rfl, rfl, rfl⟩
  exact ⟨rfl, rfl, rfl, rfl, rfl, pair, rfl, rfl, rfl, rfl, rfl, rfl, rfl, bankSt_reset, by decide, rfl, rfl, fun _ => rfl, rfl, rfl⟩

end Sys2Proof.Machine
end

section
/-! PROOFS. The device's events (R28, R386, R387, R403 to R405, R409): power windows, chiplets, alarms, snapshots and the cold reset. -/

namespace Sys2Proof.Machine

/-! ## Power windows (R28, R250) -/

/-- Level h withholds h of every 64 clocks, and a window of 1 ms is 18,750 times 64 clocks. -/
theorem clocksHeld_windowClk (h : Nat) : clocksHeld h windowClk = 18750 * h := by
  simp [clocksHeld, windowClk]

theorem two_le_drawn (mw share : Nat) : 2 ≤ drawn mw share ↔ 1000 * share < mw := by
  unfold drawn; split
  · omega
  · split <;> omega

theorem drawn_eq_zero (mw share : Nat) : drawn mw share = 0 ↔ mw ≤ 950 * share := by
  unfold drawn; split
  · omega
  · split <;> omega

/-- Cores stored one after another touch the cores only. -/
theorem foldl_setCore_frame {α : Type} (l : List α) (i : α → Nat) (k : State → α → Core) (s : State) :
    ∃ c, l.foldl (fun t e => setCore t (i e) (k t e)) s = { s with cores := c } := by
  induction l generalizing s with
  | nil => exact ⟨_, rfl⟩
  | cons e l ih => exact ih (setCore s (i e) (k s e))

theorem latchScores_frame (s : State) (l : List (Nat × Nat × Nat)) : ∃ c, latchScores s l = { s with cores := c } := by
  rw [latchScores]
  exact foldl_setCore_frame _ (fun e : Nat × Nat × Nat => e.1) (fun t e => { coreOf t e.1 with score := scoreOf e.2.1 e.2.2 }) _

@[simp] theorem latchScores_windows (s : State) (l : List (Nat × Nat × Nat)) : (latchScores s l).windows = s.windows := by
  obtain ⟨c, h⟩ := latchScores_frame s l
  rw [h]

@[simp] theorem latchScores_chips (s : State) (l : List (Nat × Nat × Nat)) : (latchScores s l).chips = s.chips := by
  obtain ⟨c, h⟩ := latchScores_frame s l
  rw [h]

theorem powerWindowEnd_of_running {s : State} (r : PowerReading) (h : s.clk < (s.windows + 1) * 1200000) :
    exec (.powerWindowEnd r) s = .next s := by
  simp [execPowerWindowEnd, windowClk, h]

theorem powerWindowEnd_of_over {s : State} (r : PowerReading) (h : (s.windows + 1) * 1200000 ≤ s.clk) :
    ∃ t, exec (.powerWindowEnd r) s = .next t ∧ t.windows = s.windows + 1 ∧
      ∀ i (hi : i < 4), t.chips[i] = if s.chips[i].st = .active then { s.chips[i] with
        hold := nextHold s.chips[i].hold (powerMost r i), withheld := s.chips[i].withheld + 18750 * s.chips[i].hold } else s.chips[i] := by
  rw [exec_powerWindowEnd, execPowerWindowEnd, if_neg (show ¬s.clk < (s.windows + 1) * windowClk from Nat.not_lt.mpr h)]
  exact ⟨_, rfl, by simp, fun i hi => by simp [clocksHeld_windowClk]⟩

/-- The worst of a chiplet's six components. -/
theorem powerMost_eq (r : PowerReading) (i : Nat) : powerMost r i = max (max (max (max (max (drawn (r.chips.getD i 0) 325)
    (drawn r.base 350)) (drawn r.hbm 450)) (drawn r.lpddr 80)) (drawn r.serdes 220)) (drawn r.total 2400) := by
  rw [powerMost, shares]
  simp only [List.zip_cons_cons, List.zip_nil_right, List.map_cons, List.map_nil, List.foldl_cons, List.foldl_nil]
  rw [Nat.zero_max]

theorem two_le_powerMost (r : PowerReading) (i : Nat) : 2 ≤ powerMost r i ↔ 325000 < r.chips.getD i 0 ∨ 350000 < r.base ∨ 450000 < r.hbm ∨
    80000 < r.lpddr ∨ 220000 < r.serdes ∨ 2400000 < r.total := by
  have two_le_max (a b : Nat) : 2 ≤ max a b ↔ 2 ≤ a ∨ 2 ≤ b := by omega
  simp only [powerMost_eq, two_le_max, two_le_drawn, or_assoc, Nat.reduceMul]

theorem powerMost_eq_zero (r : PowerReading) (i : Nat) : powerMost r i = 0 ↔ r.chips.getD i 0 ≤ 308750 ∧ r.base ≤ 332500 ∧ r.hbm ≤ 427500 ∧
    r.lpddr ≤ 76000 ∧ r.serdes ≤ 209000 ∧ r.total ≤ 2280000 := by
  simp only [powerMost_eq, Nat.max_eq_zero_iff, drawn_eq_zero, and_assoc, Nat.reduceMul]

/-! ## Chiplets (R386, R387) -/

theorem chipState_of_getElem? {s : State} {i : Nat} {k : Chip} (h : s.chips[i]? = some k) : chipState s i = k.st := by
  simp [chipState, h]

theorem chipState_modChip_same (s : State) {i : Nat} (hi : i < 4) (f : Chip → Chip) : chipState (modChip s i f) i = (f s.chips[i]).st :=
  chipState_of_getElem? (by simp [modChip, hi])

theorem chipletFault_of_active {s : State} {i : Nat} (h : chipState s i = .active) : exec (.chipletFault i) s
    = .next (beginFence { s with tele := { s.tele with chipFaults := s.tele.chipFaults + 1 } } i none) := by
  simp [execChipletFault, h]

theorem chipletFault_of_not_active {s : State} {i : Nat} (h : chipState s i ≠ .active) : exec (.chipletFault i) s = .next s := by
  simp [execChipletFault, h]

theorem fenceDrainComplete_of_fencing {s : State} {i : Nat} (h : chipState s i = .fencing) :
    exec (.fenceDrainComplete i) s = .next (completeFence s i) := by
  simp [execFenceDrainComplete, h]

theorem fenceDrainComplete_of_not_fencing {s : State} {i : Nat} (h : chipState s i ≠ .fencing) : exec (.fenceDrainComplete i) s = .next s := by
  simp [execFenceDrainComplete, h]

section Fencing
variable {s : State} {i : Nat} {k : Chip} (hk : s.chips[i]? = some k)
include hk

theorem fenceTimeout_of_due (hf : k.st = .fencing) (h : k.since + 24000 ≤ s.clk) : exec (.fenceTimeout i) s = .next (completeFence s i) := by
  simp [execFenceTimeout, hk, hf, usClk, h]

theorem fenceTimeout_of_early (h : s.clk < k.since + 24000) : exec (.fenceTimeout i) s = .next s := by
  simp [execFenceTimeout, hk, usClk, Nat.not_le.mpr h]

end Fencing

theorem chipletResetDone_of_resetting {s : State} {i : Nat} (hi : i < 4) (h : chipState s i = .resetting) :
    ∃ t, exec (.chipletResetDone i) s = .next t ∧ chipState t i = .selftest ∧
      t.cores = tmap s.cores fun c k => if c / 64 = i then { Core.empty with score := k.score } else k := by
  rw [exec_chipletResetDone, execChipletResetDone, if_pos h]
  exact ⟨_, rfl, chipState_modChip_same _ hi _, by simp [modChip, onChip]⟩

section SelfTest
variable {s : State} {i : Nat} (hr : s.rdy = true) (h : chipState s i = .selftest)
include hr h

theorem selftestPass_of_selftest :
    exec (.selftestPass i) s = .next (answerReset (modChip s i fun k => { k with st := .active, since := s.clk, hold := 0 }) i 0) := by
  simp [execSelftestPass, hr, h, stOk]

theorem selftestFail_of_selftest :
    exec (.selftestFail i) s = .next (answerReset (modChip s i fun k => { k with st := .offline, since := s.clk }) i 16) := by
  simp [execSelftestFail, hr, h, stLost]

end SelfTest

/-! ## Alarm levels (R404, R405) -/

/-- The level is a function of the sensor bits and of zeroisation. -/
theorem alarmLevel_congr {s t : State} (hb : t.sec.bits = s.sec.bits) (hz : t.sec.zeroised = s.sec.zeroised) : alarmLevel t = alarmLevel s := by
  simp [alarmLevel, hb, hz]

theorem alarmLevel_eq_three (s : State) :
    alarmLevel s = 3 ↔ s.sec.zeroised = true ∨ s.sec.bits.getLsbD 0 = true ∨ s.sec.bits.getLsbD 4 = true := by
  simp only [alarmLevel]; split
  · simp_all [or_assoc]
  · split
    · simp_all
    · split <;> simp_all

/-- A sensor that asserts lowers no level. -/
theorem alarmLevel_le_of_bits_or (s : State) (x : BitVec 8) : alarmLevel s ≤ alarmLevel { s with sec := { s.sec with bits := s.sec.bits ||| x } } := by
  have nz : s.sec.bits ≠ 0 → s.sec.bits ||| x ≠ 0 := fun h hx => h (BitVec.or_eq_zero_iff.mp hx).1
  simp only [alarmLevel, BitVec.getLsbD_or]
  grind

/-- The trigger changes the snapshot only. -/
theorem fireSnap_frame (s : State) (src : Nat) : fireSnap s src = { s with sec := { s.sec with snap := (fireSnap s src).sec.snap } } := by
  simp only [fireSnap]; split
  · rfl
  · split
    · split <;> rfl
    · rfl

/-- What follows from a change of the sensors: the trigger may latch a snapshot, and level 3 zeroises a device that is not zeroised yet. -/
theorem alarmRise_cases (s0 s1 : State) : ∃ n, ∀ u, u = { s1 with sec := { s1.sec with snap := n } } →
    (alarmLevel s1 = 3 ∧ s1.sec.zeroised = false ∧ alarmRise s0 s1 = zeroise u) ∨
    ((alarmLevel s1 = 3 → s1.sec.zeroised = true) ∧ alarmRise s0 s1 = u) := by
  have fired : ∃ n, (if alarmLevel s0 < alarmLevel s1 then fireSnap s1 3 else s1) = { s1 with sec := { s1.sec with snap := n } } := by
    split
    · exact ⟨_, fireSnap_frame s1 3⟩
    · exact ⟨_, rfl⟩
  obtain ⟨n, hn⟩ := fired
  refine ⟨n, fun u hu => ?_⟩
  have level : alarmLevel u = alarmLevel s1 := by subst hu; rfl
  have zer : u.sec.zeroised = s1.sec.zeroised := by subst hu; rfl
  rw [alarmRise, hn, ← hu]
  simp only [level, zer]
  split <;> grind

/-- A change of the sensors changes, besides the security block, at most the salts and the keys. -/
theorem alarmRise_frame (s0 s1 : State) : alarmRise s0 s1 = { s1 with
    sec := (alarmRise s0 s1).sec
    tenants := (alarmRise s0 s1).tenants
    fab := { s1.fab with pairs := (alarmRise s0 s1).fab.pairs, ue := (alarmRise s0 s1).fab.ue } } := by
  obtain ⟨n, h⟩ := alarmRise_cases s0 s1
  obtain ⟨_, _, h⟩ | ⟨_, h⟩ := h _ rfl
  · rw [h]; rfl
  · rw [h]

theorem alarmRise_tenants_of_nil (s0 : State) {s1 : State} (ht : s1.tenants = []) : (alarmRise s0 s1).tenants = [] := by
  obtain ⟨n, h⟩ := alarmRise_cases s0 s1
  obtain ⟨_, _, h⟩ | ⟨_, h⟩ := h _ rfl <;> rw [h]
  · simp [zeroise, tmap, ht]
  · exact ht

@[simp] theorem alarmRise_bits (s0 s1 : State) : (alarmRise s0 s1).sec.bits = s1.sec.bits := by
  obtain ⟨n, h⟩ := alarmRise_cases s0 s1
  obtain ⟨_, _, h⟩ | ⟨_, h⟩ := h _ rfl
  · rw [h]; rfl
  · rw [h]

@[simp] theorem alarmLevel_alarmRise (s0 s1 : State) : alarmLevel (alarmRise s0 s1) = alarmLevel s1 := by
  obtain ⟨n, h⟩ := alarmRise_cases s0 s1
  obtain ⟨h3, _, h⟩ | ⟨_, h⟩ := h _ rfl <;> rw [h]
  · rw [h3, alarmLevel_eq_three]
    exact .inl rfl
  · rfl

/-- At level 3 a device is zeroised, whatever the change. -/
theorem alarmRise_zeroised (s0 : State) {s1 : State} (h3 : alarmLevel s1 = 3) : (alarmRise s0 s1).sec.zeroised = true := by
  obtain ⟨n, h⟩ := alarmRise_cases s0 s1
  obtain ⟨_, _, h⟩ | ⟨hz, h⟩ := h _ rfl <;> rw [h]
  · rfl
  · exact hz h3

/-- A device that reaches level 3 loses its keys. -/
theorem alarmRise_keys (s0 : State) {s1 : State} (h3 : alarmLevel s1 = 3) (hz : s1.sec.zeroised = false) :
    (alarmRise s0 s1).sec.imageKey = none ∧ (alarmRise s0 s1).fab.ue = [] ∧ (alarmRise s0 s1).sec.devKeys = false := by
  obtain ⟨n, h⟩ := alarmRise_cases s0 s1
  obtain ⟨_, _, h⟩ | ⟨hz', _⟩ := h _ rfl
  · rw [h]
    exact ⟨rfl, rfl, rfl⟩
  · cases hz.symm.trans (hz' h3)

/-! ## A sensor reports -/

theorem raiseAlarm_frame (s : State) (b : Nat) : raiseAlarm s b = { s with
    sec := (raiseAlarm s b).sec
    tenants := (raiseAlarm s b).tenants
    fab := { s.fab with pairs := (raiseAlarm s b).fab.pairs, ue := (raiseAlarm s b).fab.ue } } := by
  simp only [raiseAlarm]
  rw [alarmRise_frame]

theorem raiseAlarm_tenants_of_nil {s : State} (b : Nat) (ht : s.tenants = []) : (raiseAlarm s b).tenants = [] :=
  alarmRise_tenants_of_nil s ht

@[simp] theorem raiseAlarm_bits (s : State) (b : Nat) : (raiseAlarm s b).sec.bits = s.sec.bits ||| BitVec.ofNat 8 (2 ^ b) := by
  rw [raiseAlarm, alarmRise_bits]

theorem alarmLevel_le_raiseAlarm (s : State) (b : Nat) : alarmLevel s ≤ alarmLevel (raiseAlarm s b) := by
  rw [raiseAlarm, alarmLevel_alarmRise]
  exact alarmLevel_le_of_bits_or s _

theorem raiseAlarm_zeroised {s : State} {b : Nat} (h3 : alarmLevel (raiseAlarm s b) = 3) : (raiseAlarm s b).sec.zeroised = true := by
  rw [raiseAlarm, alarmLevel_alarmRise] at h3
  exact alarmRise_zeroised s h3

theorem raiseAlarm_keys {s : State} {b : Nat} (h3 : alarmLevel (raiseAlarm s b) = 3) (hz : s.sec.zeroised = false) :
    (raiseAlarm s b).sec.imageKey = none ∧ (raiseAlarm s b).fab.ue = [] ∧ (raiseAlarm s b).sec.devKeys = false := by
  rw [raiseAlarm, alarmLevel_alarmRise] at h3
  exact alarmRise_keys s h3 hz

/-- VGLITCH and FUSE are the sensors of level 3. -/
theorem alarmLevel_raiseAlarm_eq_three (s : State) {b : Nat} (hb : b = 0 ∨ b = 4) : alarmLevel (raiseAlarm s b) = 3 := by
  rw [alarmLevel_eq_three, raiseAlarm_bits]
  obtain rfl | rfl := hb <;> simp

/-- A sensor's bit is raised where at most TEMPC's start has been noted. -/
theorem exec_alarmSensor_eq (s : State) (x : Sensor) : ∃ u, exec (.alarmSensor x) s = .next (raiseAlarm u (sensorBit x)) ∧
    u.sec.bits = s.sec.bits ∧ u.sec.zeroised = s.sec.zeroised := by
  cases x <;> exact ⟨_, rfl, rfl, rfl⟩

theorem sensorBit_of_level_three {x : Sensor} (h : x = .vglitch ∨ x = .fuse) : sensorBit x = 0 ∨ sensorBit x = 4 := by
  obtain rfl | rfl := h
  · exact .inl rfl
  · exact .inr rfl

theorem alarmSensor_raises (s : State) (x : Sensor) : ∃ t, exec (.alarmSensor x) s = .next t ∧
    t.sec.bits = s.sec.bits ||| BitVec.ofNat 8 (2 ^ sensorBit x) ∧ alarmLevel s ≤ alarmLevel t ∧
    (alarmLevel t = 3 → t.sec.zeroised = true) ∧ (x = .vglitch ∨ x = .fuse → alarmLevel t = 3) ∧
    (x = .vglitch ∨ x = .fuse → s.sec.zeroised = false → t.sec.imageKey = none ∧ t.fab.ue = [] ∧ t.sec.devKeys = false) := by
  obtain ⟨u, he, hb, hz⟩ := exec_alarmSensor_eq s x
  have level_three (hx : x = .vglitch ∨ x = .fuse) : alarmLevel (raiseAlarm u (sensorBit x)) = 3 :=
    alarmLevel_raiseAlarm_eq_three u (sensorBit_of_level_three hx)
  rw [← hb, ← alarmLevel_congr hb hz, ← hz]
  exact ⟨_, he, raiseAlarm_bits u _, alarmLevel_le_raiseAlarm u _, raiseAlarm_zeroised, level_three, fun hx => raiseAlarm_keys (level_three hx)⟩

theorem tempcHoldExpiry_of_held {s : State} {t : Nat} (ht : s.sec.tempcAt = some t) (h : t + 12000000 ≤ s.clk) :
    exec .tempcHoldExpiry s = .next (raiseHeld s) := by
  simp [execTempcHoldExpiry, ht, usClk, h]

theorem tempcHoldExpiry_of_early {s : State} {t : Nat} (ht : s.sec.tempcAt = some t) (h : s.clk < t + 12000000) :
    exec .tempcHoldExpiry s = .next s := by
  simp [execTempcHoldExpiry, ht, usClk, Nat.not_le.mpr h]

theorem tempcHoldExpiry_of_none {s : State} (h : s.sec.tempcAt = none) : exec .tempcHoldExpiry s = .next s := by
  simp [execTempcHoldExpiry, h]

/-! ## Cold reset (R403) -/

/-- The state after steps 1 to 6 of the bring-up, before the verdict on fuses and keys has an effect. -/
def broughtUp (r : ResetReport) (s : State) : State :=
  { coldState s with
    hbm := 2 ^ 36 * bitCount 8 r.hbmOk.toNat
    lpddr := 2 ^ 37 * bitCount 12 r.lpddrOk.toNat
    chips := #v[bootChip s r 0, bootChip s r 1, bootChip s r 2, bootChip s r 3]
    fab := { (coldState s).fab with portsUp := r.portsOk }
    sec := { (coldState s).sec with devKeys := r.keysOk }
    rdy := true }

theorem exec_coldReset_eq (r : ResetReport) (s : State) :
    exec (.coldReset r) s = .next (if r.fuseOk && r.keysOk then broughtUp r s else raiseAlarm (broughtUp r s) 4) := rfl

theorem chipState_broughtUp (r : ResetReport) (s : State) {i : Nat} (hi : i < 4) : chipState (broughtUp r s) i
    = if s.fixed.present.getLsbD i = true ∧ r.chipsOk.getLsbD i = true then .active else .offline := by
  have boot : (broughtUp r s).chips[i]? = some (bootChip s r i) := by
    match i, hi with
    | 0, _ | 1, _ | 2, _ | 3, _ => rfl
  rw [chipState_of_getElem? boot]
  simp [bootChip]

/-- The level is 0 until fuses or keys fail, and FUSE raises it to 3 then. What the alarm changes besides is its own block and keys: there are
no tenants whose salts it could take. -/
theorem coldReset_frame (r : ResetReport) (s : State) : ∃ sec pairs ue, ∀ t,
    t = { broughtUp r s with sec := sec, fab := { (broughtUp r s).fab with pairs := pairs, ue := ue } } →
    exec (.coldReset r) s = .next t ∧ (alarmLevel t = 3 ↔ r.fuseOk = false ∨ r.keysOk = false) := by
  rw [exec_coldReset_eq]
  by_cases ok : (r.fuseOk && r.keysOk) = true
  · have quiet : alarmLevel (broughtUp r s) = 0 := by simp [alarmLevel, broughtUp, coldState, State.reset, Security.reset]
    refine ⟨_, _, _, fun t (ht : t = broughtUp r s) => ?_⟩
    subst ht
    rw [if_pos ok]
    exact ⟨rfl, by grind⟩
  · have frame := raiseAlarm_frame (broughtUp r s) 4
    have level := alarmLevel_raiseAlarm_eq_three (broughtUp r s) (.inr (rfl : 4 = 4))
    rw [raiseAlarm_tenants_of_nil 4 rfl] at frame
    rw [if_neg ok]
    generalize raiseAlarm (broughtUp r s) 4 = v at frame level ⊢
    refine ⟨v.sec, v.fab.pairs, v.fab.ue, fun t ht => ?_⟩
    rw [ht.trans frame.symm]
    exact ⟨rfl, by grind⟩

theorem coldReset_leaves (r : ResetReport) (s : State) : ∃ t, exec (.coldReset r) s = .next t ∧ t.turns = s.turns ∧ t.clk = 0 ∧ t.rdy = true ∧
    t.locked = false ∧ t.feats = 0 ∧ t.queues = [] ∧ t.mem = [] ∧ t.tenants = [] ∧ t.groups = [] ∧ t.launches = [] ∧ t.fixed = s.fixed ∧
    t.hostMem = s.hostMem ∧ t.hbm = 2 ^ 36 * bitCount 8 r.hbmOk.toNat ∧ t.lpddr = 2 ^ 37 * bitCount 12 r.lpddrOk.toNat ∧
    t.fab.portsUp = r.portsOk ∧ (alarmLevel t = 3 ↔ r.fuseOk = false ∨ r.keysOk = false) ∧
    ∀ i < 4, chipState t i = if s.fixed.present.getLsbD i = true ∧ r.chipsOk.getLsbD i = true then .active else .offline := by
  obtain ⟨sec, pairs, ue, h⟩ := coldReset_frame r s
  obtain ⟨ht, level⟩ := h _ rfl
  exact ⟨_, ht, rfl, rfl, rfl, rfl, rfl, rfl, rfl, rfl, rfl, rfl, rfl, rfl, rfl, rfl, rfl, level, fun _ => chipState_broughtUp r s⟩

/-- Settles O50: each event by the equation of its case; the alarms by what a change of the sensors can do, the cold reset by its frame. -/
theorem deviceEvents : Obligations.DeviceEvents := by
  unfold Obligations.DeviceEvents
  refine ⟨fun s r => ⟨powerWindowEnd_of_running r, powerWindowEnd_of_over r⟩, fun r i => ⟨two_le_powerMost r i, powerMost_eq_zero r i⟩,
    fun h most => rfl, ?chiplet, alarmSensor_raises, ?held, fun s r => coldReset_leaves r s⟩
  case chiplet =>
    exact fun s i hi => ⟨chipletFault_of_active, chipletFault_of_not_active, fenceDrainComplete_of_fencing, fenceDrainComplete_of_not_fencing,
      fun k hk hf => ⟨fenceTimeout_of_due hk hf, fenceTimeout_of_early hk⟩, chipletResetDone_of_resetting hi,
      fun hr h => ⟨selftestPass_of_selftest hr h, selftestFail_of_selftest hr h⟩⟩
  case held =>
    exact fun s => ⟨fun t ht => ⟨tempcHoldExpiry_of_held ht, tempcHoldExpiry_of_early ht⟩, tempcHoldExpiry_of_none, rfl⟩

end Sys2Proof.Machine
end

section
/-! PROOFS. Memory instructions whose accesses pass every check are accepted (R88, R161): what the lanes' checks of each space find, and
what a load and a store of any space leave. -/

namespace Sys2Proof.Claims
open Sys2Proof.Machine

/-! ## Operands of F-M in the statements' words (R76, R77, R162) -/

theorem widthBytes_eq_widthOf (w : BitVec 3) : widthBytes w = widthOf w := by
  revert w; decide

theorem fmAddr_eq_memAddr : fmAddr = memAddr := by
  funext g u gb ix sx n l
  cases sx <;> rfl

theorem lanes_eq_acting : lanes = acting := rfl

theorem memNames_widthOf (d : Nat) (w : BitVec 3) : memNames d (widthOf w) = dataNames d (widthOf w) := by
  have h : widthOf w ≤ 4 ∨ widthOf w = 8 ∨ widthOf w = 16 := by revert w; decide
  rcases h with h | h | h
  · simp [memNames, dataNames, h, namesFrom, rangeFrom]
  all_goals rw [h]; rfl

theorem storeData_widthOf (g : Group) (u : Bool) (d : Nat) (w : BitVec 3) (l : Nat) :
    storeData g u d (widthOf w) l = laneBytes g u d (widthOf w) l := by
  simp only [storeData, laneBytes, memNames_widthOf]

theorem MemOperands.active {g : Group} {u : Bool} {d : R6} {gb : BitVec 5} {ix : R6} {store ld li : Bool} {n : Nat}
    (ho : MemOperands g u d gb ix store ld li n) (hu : u = false) : g.exec ≠ 0 := by
  subst hu; exact ho.1

/-- The form checks of F-M find nothing on operands that can be read and written. -/
theorem useM_ok {g : Group} {u : Bool} {d : R6} {gb : BitVec 5} {ix : R6} {store ld li : Bool} {w : BitVec 3} (hw : w ≠ 7)
    (ho : MemOperands g u d gb ix store ld li (widthOf w)) {use : Use} (hu : use = useM g u d gb ix store ld li w) :
    use.ill = false ∧ use.nd = false ∧ Operands g use.lanes use.rv use.wv use.rg use.wg := by
  subst hu
  cases u with
  | true =>
    obtain ⟨hld, hli, h16, hgb, hix, hd⟩ := ho
    have hd32 : d.toNat < 32 := by cases store <;> exact hd.1
    have hix32 := hix.1
    cases store <;> simp_all [useM, Operands, widthNd, notG, widthBytes_eq_widthOf]
  | false =>
    obtain ⟨-, h8, h16, hgb, hix, hd⟩ := ho
    cases store <;> simp_all [useM, Operands, widthNd, widthBytes_eq_widthOf, memNames_widthOf]

theorem useM_marks_store (g : Group) (u : Bool) (d : R6) (gb : BitVec 5) (ix : R6) (ld li : Bool) (w : BitVec 3) :
    (useM g u d gb ix true ld li w).marks = if u then [] else memMarks d.toNat (widthOf w) ix ld li := by
  cases u <;> simp [useM, memMarks, widthBytes_eq_widthOf, memNames_widthOf]

theorem useM_marks_load {g : Group} {u : Bool} {d : R6} {gb : BitVec 5} {ix : R6} {ld li : Bool} {n : Nat} (w : BitVec 3)
    (ho : MemOperands g u d gb ix false ld li n) : (useM g u d gb ix false false li w).marks = if li then [ix.toNat] else [] := by
  cases u with
  | true => obtain ⟨-, rfl, -⟩ := ho; rfl
  | false => simp [useM]

/-- A load does not look at LD in the vector form, and cannot have it in the uniform one. -/
theorem memOperands_unmarked {g : Group} {u : Bool} {d : R6} {gb : BitVec 5} {ix : R6} {store ld li : Bool} {n : Nat}
    (ho : MemOperands g u d gb ix store ld li n) : MemOperands g u d gb ix store false li n := by
  cases u with
  | true => exact ⟨rfl, ho.2⟩
  | false => exact ho

theorem eraseDups_sublist : (ns : List Nat) → List.Sublist ns.eraseDups ns
  | [] => by simp
  | n :: ns => by
    rw [List.eraseDups_cons]
    exact ((eraseDups_sublist _).trans List.filter_sublist).cons_cons n
termination_by ns => ns.length
decreasing_by exact Nat.lt_succ_of_le (List.length_filter_le _ _)

theorem needs_le_of_roomFor {s : State} {g : Group} {ns : List Nat} (h : RoomFor s g ns) : needs g ns ≤ pipeFree s g.core g.part g.slot :=
  Nat.le_trans (((eraseDups_sublist ns).filter _).length_le) h

/-! ## The checks over lanes -/

/-- Where every lane passes, all of their accesses are found, in the order of the lanes. -/
theorem lanesChk_of_ok {f : Nat → LaneChk} {as : Nat → List Acc} {ls : List Nat} (h : ∀ l ∈ ls, ∃ rt, f l = .ok (as l) rt) :
    ∃ rt, lanesChk f ls = (ls.flatMap as, rt, none) := by
  induction ls with
  | nil => exact ⟨[], rfl⟩
  | cons l ls ih =>
    obtain ⟨rt, hl⟩ := h l (by simp)
    obtain ⟨rts, ht⟩ := ih fun k hk => h k (by simp [hk])
    exact ⟨rt ++ rts, by simp [lanesChk, hl, ht]⟩

theorem joinChk_of_ok {f : Nat → LaneChk} {a : Nat → Acc} {ls : List Nat} (h : ∀ i ∈ ls, ∃ rt, f i = .ok [a i] rt) :
    joinChk (ls.map f) = .ok (ls.map a) [] := by
  induction ls with
  | nil => rfl
  | cons i ls ih =>
    obtain ⟨rt, hi⟩ := h i (by simp)
    simp [joinChk, hi, ih fun k hk => h k (by simp [hk])]

theorem globalLane_of_goesTo {s : State} {g : Group} {wr fab : Bool} {n pa : Nat} {va : DWord} {rt : Bool} (h : GoesTo s g wr fab n va pa rt)
    (l : Nat) (data : List Byte) :
    globalLane s g wr fab n l va data = .ok [globalAcc s g wr l va pa data] (if rt then [l] else []) := by
  obtain ⟨aligned, ⟨low, w, hit, mayWrite⟩ | ⟨rfl, high, top, rfl, rfl⟩⟩ := h
  · have perm : (wr && !w) = false := by cases wr <;> simp_all
    simp only [globalLane, globalAcc, aligned, hit, perm, low, show ¬ 2 ^ 54 ≤ va.toNat by omega, show ¬ 2 ^ 55 ≤ va.toNat by omega,
      ne_eq, not_true_eq_false, if_false, Bool.false_eq_true, decide_true, Bool.and_true]
  · simp only [globalLane, globalAcc, aligned, high, show ¬ 2 ^ 55 ≤ va.toNat by omega, show ¬ va.toNat < 2 ^ 54 by omega,
      ne_eq, not_true_eq_false, if_false, if_true, Bool.false_eq_true, decide_false, Bool.and_false, Bool.false_and]

theorem scratchLane_of_within {s : State} {g : Group} {n : Nat} {off : DWord} (aligned : off.toNat % n = 0)
    (within : off.toNat + n ≤ spadBytes s g) (l : Nat) (data : List Byte) :
    scratchLane s g n l off data = .ok [newAcc l off.toNat off.toNat data false] [] := by
  have h : ¬ spadBytes s g < off.toNat + n := by omega
  simp only [scratchLane, aligned, ne_eq, not_true_eq_false, if_false]
  exact if_neg h

/-- An access to a thread's own memory goes word by word (R69, R165). -/
theorem privLane_of_goesTo {s : State} {g : Group} {wr : Bool} {n l : Nat} {off : DWord} {data : List Byte} (aligned : off.toNat % n = 0)
    (within : off.toNat + n ≤ (descOf s g.launch).priv) {va : Nat → DWord} {pa : Nat → Nat} {rt : Nat → Bool}
    (hva : ∀ i, va i = BitVec.ofNat 64 (privVa (descOf s g.launch) (wgLin s g.wg) (g.tids.getD l 0).toNat (off.toNat + min n 4 * i)))
    (goes : ∀ i < n / min n 4, GoesTo s g wr false (min n 4) (va i) (pa i) (rt i)) :
    privLane s g wr n l off data =
      .ok ((List.range (n / min n 4)).map fun i => globalAcc s g wr l (va i) (pa i) ((data.drop (min n 4 * i)).take (min n 4))) [] := by
  have bound : ¬ (descOf s g.launch).priv < off.toNat + n := by omega
  simp only [privLane, aligned, bound, ne_eq, not_true_eq_false, if_false]
  refine joinChk_of_ok fun i hi => ⟨if rt i then [l] else [], ?_⟩
  rw [← hva, globalLane_of_goesTo (goes i (List.mem_range.mp hi))]

/-! ## Acceptance -/

/-- The accesses as they enter the operations in flight: those of a scratchpad instruction whose every line is present take effect in
order (R164, R292). -/
def entering (s : State) (g : Group) (sp : Space) (n : Nat) (as : List Acc) : List Acc :=
  if sp = .scratch && as.all fun a => !((linesOf a.addr n).any (absentOf s g.wg).contains) then as.map fun a => { a with early := true } else as

theorem entering_of_not_scratch {sp : Space} (h : sp ≠ .scratch) (s : State) (g : Group) (n : Nat) (as : List Acc) : entering s g sp n as = as := by
  simp [entering, h]

theorem scratchAccs_entering (s : State) (g : Group) (n : Nat) (ls : List Nat) (off : Nat → DWord) (data : Nat → List Byte) :
    ScratchAccs s g n ls off data
      (entering s g .scratch n (ls.flatMap fun l => [newAcc l (off l).toNat (off l).toNat (data l) false])) := by
  refine ⟨ls.all fun l => !((linesOf (off l).toNat n).any (absentOf s g.wg).contains), by simp [LinesHere], ?_⟩
  simp only [entering, ← List.map_eq_flatMap, List.all_map, Function.comp_def, newAcc]
  cases ls.all fun l => !((linesOf (off l).toNat n).any (absentOf s g.wg).contains) <;> simp

/-- Registers and a walk that has faulted play no part in where the next word stands. -/
theorem step_walkFault_v (g : Group) (x : Option (Nat × TrapCode)) (v : Vector (Option VReg) 64) :
    bump (stepPast { g with walkFault := x, v := v }) = { bump (stepPast g) with walkFault := x, v := v } := by
  simp only [bump, stepPast]; repeat' split
  all_goals simp_all

theorem allocV_get (g : Group) (tag : Nat) (ns : List Nat) (k : Nat) (hk : k < 64) :
    (allocV g tag ns).v.getD k none = if ns.contains k && (g.v.getD k none).isNone then some (freshReg tag) else g.v.getD k none := by
  simp only [allocV]
  rw [getD_mapIdx _ _ _ _ none hk]

/-- The group that the acceptance of a memory instruction leaves. -/
theorem counted_acceptMem (g : Group) (tag f : Nat) (wv wg marks : List Nat) :
    Counted g (bump (stepPast (freeMarks (addPend (incFlag { allocV g tag wv with walkFault := none } f) wv wg) marks wv))) tag f wv wg marks := by
  have frame : freeMarks (addPend (incFlag { allocV g tag wv with walkFault := none } f) wv wg) marks wv =
      { addPend (incFlag g f) wv wg with walkFault := none, v := (freeMarks (allocV g tag wv) marks wv).v } := rfl
  rw [frame, step_walkFault_v]
  refine ⟨rfl, fun k hk => ?_⟩
  change (freeMarks (allocV g tag wv) marks wv).v.getD k none = _
  rw [freeMarks_get _ _ _ _ hk, allocV_get _ _ _ _ hk]
  by_cases hm : k ∈ marks <;> by_cases hv : k ∈ wv <;> simp [hm, hv]

/-- The acceptance of a memory instruction that neither acquires nor releases and that the race detector does not look at. -/
theorem acceptMem_accepted {s : State} {c : Nat} {g : Group} (hr : g.res = .running) (use : Use) {f : MemForm} (noRace : f.race = none)
    (noAcq : f.acq = false) (noRel : f.rel = false) (as : List Acc) (rt : List Nat) :
    MemAccepted c (s, g) (acceptMem s c g use f as rt) f use.marks (entering s g f.space f.size as) := by
  refine ⟨_, ?_, counted_acceptMem g s.nextKey (flagSel g f.fs) f.wv f.gd.toList use.marks⟩
  simp only [acceptMem, noRace, noAcq, noRel, Bool.or_self, Bool.false_eq_true, if_false]
  rw [putGroup_running (by exact (stepPast_res _).trans hr)]
  rfl

theorem filter_no_lane (as : List Acc) : as.filter (fun a => ([] : List Nat).contains a.lane) = [] :=
  List.filter_eq_nil_iff.mpr fun _ _ => Bool.false_ne_true

theorem raceChk_nil (s : State) (g : Group) (isStore : Bool) (n : Nat) : raceChk s g isStore [] n = .ok := rfl

/-- A memory instruction that the race detector does not look at, whose operands can be read and written, whose flag can count, whose
lanes pass their checks and whose destinations find room is accepted. -/
theorem memIssue_accepted {s : State} {c : Nat} {g : Group} (hr : g.res = .running) {use : Use} {f : MemForm} (noRace : f.race = none)
    (noAcq : f.acq = false) (noRel : f.rel = false) (acts : f.u = false → g.exec ≠ 0) (ill : use.ill = false) (nd : use.nd = false)
    (ops : Operands g use.lanes use.rv use.wv use.rg use.wg) (hf : FlagFree g f.fs (flagSel g f.fs))
    (room : needs g f.wv ≤ pipeFree s g.core g.part g.slot) {lane : Nat → LaneChk} {as : Nat → List Acc}
    (chk : ∀ l ∈ acting g f.u, ∃ rt, lane l = .ok (as l) rt) (addr : Nat → DWord) :
    MemAccepted c (s, g) (memIssue s c g use f none addr lane) f use.marks (entering s g f.space f.size ((acting g f.u).flatMap as)) := by
  obtain ⟨rt, found⟩ := lanesChk_of_ok chk
  obtain ⟨hrv, hwv, hrg, hwg⟩ := ops
  have active : ¬ (!f.u && decide (g.exec = 0)) = true := by cases hu : f.u <;> simp_all
  have flag : noFlag g f.fs = false := by simp [noFlag, hf.2.1]
  have issued : memIssue s c g use f none addr lane = acceptMem s c g use f ((acting g f.u).flatMap as) [] := by
    rw [memIssue, if_neg active, accepted_none (u := { use with ill := use.ill || noFlag g f.fs }) (by simp [ill, flag]) nd hrv hwv hrg hwg hf]
    simp only [lanes_eq_acting, found, noRace, Option.isSome_none, Bool.and_false, Bool.false_eq_true, if_false, filter_no_lane,
      raceChk_nil, withRegs_room room]
  rw [issued]
  exact acceptMem_accepted hr use noRace noAcq noRel _ _

section
variable {s : State} {c : Nat} {g : Group} {u : Bool} {d : R6} {gb : BitVec 5} {ix : R6} {ld li sx fs : Bool} {w : BitVec 3}
  (hi : Issues s c g) (hw : w ≠ 7) (hf : FlagFree g fs (flagSel g fs)) {n : Nat} (hn : n = widthOf w) {as : Nat → List Acc}
include hi hw hf hn

/-- A store to a space that the race detector does not watch. -/
theorem storeOp_accepted (ho : MemOperands g u d gb ix true ld li n) {lane : State → Group → Nat → Nat → DWord → List Byte → LaneChk}
    (chk : ∀ l ∈ acting g u, ∃ rt, lane s g n l (memAddr g u gb ix sx n l) (laneBytes g u d.toNat n l) = .ok (as l) rt) (word : Word) (sp : Space) :
    MemAccepted c (s, g) (storeOp u d gb ix ld li sx fs w word sp none lane s)
      { word := word, kind := .store, space := sp, u := u, fs := fs, size := n }
      (if u then [] else memMarks d.toNat n ix ld li) (entering s g sp n ((acting g u).flatMap as)) := by
  subst hn
  obtain ⟨ill, nd, ops⟩ := useM_ok hw ho rfl
  simp only [storeOp, widthBytes_eq_widthOf, fmAddr_eq_memAddr, storeData_widthOf]
  rw [onGroup_run hi.1 hi.2.1 hi.2.2, ← useM_marks_store g u d gb]
  exact memIssue_accepted hi.2.2 rfl rfl rfl ho.active ill nd ops hf (Nat.zero_le _) chk _

/-- A load from a space that the race detector does not watch. -/
theorem loadOp_accepted (ho : MemOperands g u d gb ix false ld li n) (room : u = false → RoomFor s g (dataNames d.toNat n))
    {lane : State → Group → Nat → Nat → DWord → LaneChk}
    (chk : ∀ l ∈ acting g u, ∃ rt, lane s g n l (memAddr g u gb ix sx n l) = .ok (as l) rt) (word : Word) (sp : Space) :
    MemAccepted c (s, g) (loadOp u d gb ix li sx fs w word sp none lane s)
      { word := word, kind := .load (w = 0 || w = 2), space := sp, u := u, fs := fs, size := n,
        wv := if u then [] else dataNames d.toNat n, gd := if u then some d.toNat else none }
      (if li then [ix.toNat] else []) (entering s g sp n ((acting g u).flatMap as)) := by
  subst hn
  obtain ⟨ill, nd, ops⟩ := useM_ok hw (memOperands_unmarked ho) rfl
  have fits : needs g (if u then [] else dataNames d.toNat (widthOf w)) ≤ pipeFree s g.core g.part g.slot := by
    cases u with
    | true => exact Nat.zero_le _
    | false => exact needs_le_of_roomFor (room rfl)
  simp only [loadOp, widthBytes_eq_widthOf, fmAddr_eq_memAddr, memNames_widthOf]
  rw [onGroup_run hi.1 hi.2.1 hi.2.2, ← useM_marks_load w ho]
  exact memIssue_accepted hi.2.2 rfl rfl rfl ho.active ill nd ops hf fits chk _

end

end Sys2Proof.Claims
end

section
/-! PROOFS. Accesses to the scratchpad and to a thread's own memory (R69, R164, R165). -/

namespace Sys2Proof.Claims
open Sys2Proof.Machine

/-- Word i of a lane's access to its thread's own memory lies at va l i; it passes its checks as a store or a load and goes to pa l i (R69). -/
def PrivGoesTo (s : State) (g : Group) (wr : Bool) (n : Nat) (off : Nat → Nat) (va : Nat → Nat → DWord) (pa : Nat → Nat → Nat)
    (rt : Nat → Nat → Bool) : Prop :=
  (∀ l i, va l i = BitVec.ofNat 64 (privVa (descOf s g.launch) (wgLin s g.wg) (g.tids.getD l 0).toNat (off l + min n 4 * i))) ∧
  ∀ l ∈ lanesOf g.exec, off l % n = 0 ∧ off l + n ≤ (descOf s g.launch).priv ∧
    ∀ i < n / min n 4, GoesTo s g wr false (min n 4) (va l i) (pa l i) (rt l i)

section
variable {s : State} {c : Nat} {g : Group} {d : R6} {gb : BitVec 5} {ix : R6} {ld li sx fs : Bool} {w : BitVec 3}
  (hi : Issues s c g) (hw : w ≠ 7) (hf : FlagFree g fs (flagSel g fs)) {n : Nat} (hn : n = widthOf w)
include hi hw hf hn

section
variable {u : Bool} (within : ∀ l ∈ acting g u, (memAddr g u gb ix sx n l).toNat % n = 0 ∧ (memAddr g u gb ix sx n l).toNat + n ≤ spadBytes s g)
include within

theorem sts_accepted (ho : MemOperands g u d gb ix true ld li n) :
    MemAccepted c (s, g) (exec (.sts u d gb ix ld li sx fs w) s)
      { word := wordOf (.sts u d gb ix ld li sx fs w), kind := .store, space := .scratch, u := u, fs := fs, size := n }
      (if u then [] else memMarks d.toNat n ix ld li)
      (entering s g .scratch n ((acting g u).flatMap fun l =>
        [newAcc l (memAddr g u gb ix sx n l).toNat (memAddr g u gb ix sx n l).toNat (laneBytes g u d.toNat n l) false])) :=
  storeOp_accepted (lane := scratchLane) hi hw hf hn ho (fun l hl => ⟨[], scratchLane_of_within (within l hl).1 (within l hl).2 l _⟩) _ _

theorem lds_accepted (ho : MemOperands g u d gb ix false ld li n) (room : u = false → RoomFor s g (dataNames d.toNat n)) :
    MemAccepted c (s, g) (exec (.lds u d gb ix li sx fs w) s)
      { word := wordOf (.lds u d gb ix li sx fs w), kind := .load (w = 0 || w = 2), space := .scratch, u := u, fs := fs, size := n,
        wv := if u then [] else dataNames d.toNat n, gd := if u then some d.toNat else none }
      (if li then [ix.toNat] else [])
      (entering s g .scratch n ((acting g u).flatMap fun l =>
        [newAcc l (memAddr g u gb ix sx n l).toNat (memAddr g u gb ix sx n l).toNat [] false])) :=
  loadOp_accepted (lane := fun s g n l a => scratchLane s g n l a []) hi hw hf hn ho room (fun l hl => ⟨[], scratchLane_of_within (within l hl).1 (within l hl).2 l _⟩) _ _

end

section
variable {va : Nat → Nat → DWord} {pa : Nat → Nat → Nat} {rt : Nat → Nat → Bool}

theorem stp_accepted (ho : MemOperands g false d gb ix true ld li n)
    (goes : PrivGoesTo s g true n (fun l => (memAddr g false gb ix sx n l).toNat) va pa rt) :
    MemAccepted c (s, g) (exec (.stp d gb ix ld li sx fs w) s)
      { word := wordOf (.stp d gb ix ld li sx fs w), kind := .store, space := .priv, u := false, fs := fs, size := n }
      (memMarks d.toNat n ix ld li)
      ((lanesOf g.exec).flatMap fun l => (List.range (n / min n 4)).map fun i =>
        globalAcc s g true l (va l i) (pa l i) (((laneBytes g false d.toNat n l).drop (min n 4 * i)).take (min n 4))) := by
  obtain ⟨hva, goes⟩ := goes
  have lane_ok (l : Nat) (hl : l ∈ lanesOf g.exec) :=
    have ⟨aligned, within, words⟩ := goes l hl
    privLane_of_goesTo (data := laneBytes g false d.toNat n l) aligned within (hva l) words
  have accepted := storeOp_accepted (lane := fun s g n l a b => privLane s g true n l a b) hi hw hf hn ho (fun l hl => ⟨[], lane_ok l hl⟩)
    (wordOf (.stp d gb ix ld li sx fs w)) .priv
  rwa [entering_of_not_scratch (by decide)] at accepted

theorem ldp_accepted (ho : MemOperands g false d gb ix false ld li n) (room : RoomFor s g (dataNames d.toNat n))
    (goes : PrivGoesTo s g false n (fun l => (memAddr g false gb ix sx n l).toNat) va pa rt) :
    MemAccepted c (s, g) (exec (.ldp d gb ix li sx fs w) s)
      { word := wordOf (.ldp d gb ix li sx fs w), kind := .load (w = 0 || w = 2), space := .priv, u := false, fs := fs, size := n,
        wv := dataNames d.toNat n }
      (if li then [ix.toNat] else [])
      ((lanesOf g.exec).flatMap fun l => (List.range (n / min n 4)).map fun i => globalAcc s g false l (va l i) (pa l i) []) := by
  obtain ⟨hva, goes⟩ := goes
  have lane_ok (l : Nat) (hl : l ∈ lanesOf g.exec) :=
    have ⟨aligned, within, words⟩ := goes l hl
    privLane_of_goesTo (data := []) aligned within (hva l) words
  simp only [List.drop_nil, List.take_nil] at lane_ok
  have accepted := loadOp_accepted (lane := fun s g n l a => privLane s g false n l a []) hi hw hf hn ho (fun _ => room)
    (fun l hl => ⟨[], lane_ok l hl⟩) (wordOf (.ldp d gb ix li sx fs w)) .priv
  rwa [entering_of_not_scratch (by decide)] at accepted

end
end

/-- Settles O25: every lane's checks pass, so the common course of a load or a store ends in the acceptance. -/
theorem localAccess : Obligations.LocalAccess := by
  unfold Obligations.LocalAccess
  intro s c g u d gb ix ld li sx fs w hi hw hf n hn
  refine ⟨fun isStore ho within => ⟨_, scratchAccs_entering s g n (acting g u) (memAddr g u gb ix sx n) _, ?sts, ?lds⟩, ?priv⟩
  case sts =>
    rintro rfl
    exact sts_accepted hi hw hf hn within ho
  case lds =>
    rintro rfl room
    exact lds_accepted hi hw hf hn within ho room
  case priv =>
    intro isStore pa rt ho lin tid htid off hoff k hk va hva goes as has
    obtain rfl : tid = _ := funext htid
    obtain rfl : off = _ := funext hoff
    subst hk has
    constructor
    · rintro rfl
      exact stp_accepted hi hw hf hn ho ⟨hva, goes⟩
    · rintro rfl room
      exact ldp_accepted hi hw hf hn ho room ⟨hva, goes⟩

end Sys2Proof.Claims
end

section
/-! PROOFS. The register window and prefetch (R70, R173 to R175). -/

namespace Sys2Proof.Claims
open Sys2Proof.Machine

/-! ## ldw and stw -/

theorem winW_ne_seven (w : Bool) : winW w ≠ 7 := by revert w; decide

theorem widthOf_winW (w : Bool) : widthOf (winW w) = if w then 8 else 4 := by revert w; decide

theorem windowLane_load {s : State} {g : Group} {n : Nat} {va : DWord} (aligned : va.toNat % n = 0)
    (named : ∃ x, windowTarget s (tenantOf s g.launch) va.toNat = some x) (l : Nat) (data : List Byte) :
    windowLane s g false n l va data = .ok [newAcc l va.toNat va.toNat data false] [] := by
  obtain ⟨x, hx⟩ := named
  simp [windowLane, aligned, hx]

theorem windowLane_store {s : State} {g : Group} {n : Nat} {va : DWord} (aligned : va.toNat % n = 0)
    (stopped : ∃ k h o, windowTarget s (tenantOf s g.launch) va.toNat = some (some (k, h), o) ∧ windowStopped s h = true) (l : Nat) (data : List Byte) :
    windowLane s g true n l va data = .ok [newAcc l va.toNat va.toNat data false] [] := by
  obtain ⟨k, h, o, hx, hs⟩ := stopped
  simp [windowLane, aligned, hx, hs]

section
variable {s : State} {c : Nat} {g : Group} {u : Bool} {d : R6} {gb : BitVec 5} {ix : R6} {ld li sx fs w : Bool}
  (hi : Issues s c g) (hf : FlagFree g fs (flagSel g fs)) {n : Nat} (hn : n = if w then 8 else 4)
  (aligned : ∀ l ∈ acting g u, (memAddr g u gb ix sx n l).toNat % n = 0)
include hi hf hn aligned

theorem ldw_accepted (ho : MemOperands g u d gb ix false ld li n) (room : u = false → RoomFor s g (dataNames d.toNat n))
    (named : ∀ l ∈ acting g u, ∃ x, windowTarget s (tenantOf s g.launch) (memAddr g u gb ix sx n l).toNat = some x) :
    MemAccepted c (s, g) (exec (.ldw u d gb ix li sx fs w) s)
      { word := wordOf (.ldw u d gb ix li sx fs w), kind := .load false, space := .window, u := u, fs := fs, size := n,
        wv := if u then [] else dataNames d.toNat n, gd := if u then some d.toNat else none }
      (if li then [ix.toNat] else [])
      ((acting g u).map fun l => newAcc l (memAddr g u gb ix sx n l).toNat (memAddr g u gb ix sx n l).toNat [] false) := by
  have unsigned : (winW w = 0 || winW w = 2 : Bool) = false := by cases w <;> rfl
  have accepted := loadOp_accepted (lane := fun s g n l a => windowLane s g false n l a []) hi (winW_ne_seven w) hf (hn.trans (widthOf_winW w).symm) ho room
    (fun l hl => ⟨[], windowLane_load (aligned l hl) (named l hl) l []⟩) (wordOf (.ldw u d gb ix li sx fs w)) .window
  rwa [entering_of_not_scratch (by decide), unsigned, ← List.map_eq_flatMap] at accepted

theorem stw_accepted (ho : MemOperands g u d gb ix true ld li n)
    (stopped : ∀ l ∈ acting g u, ∃ k h o, windowTarget s (tenantOf s g.launch) (memAddr g u gb ix sx n l).toNat = some (some (k, h), o) ∧
      windowStopped s h = true) :
    MemAccepted c (s, g) (exec (.stw u d gb ix ld li sx fs w) s)
      { word := wordOf (.stw u d gb ix ld li sx fs w), kind := .store, space := .window, u := u, fs := fs, size := n }
      (if u then [] else memMarks d.toNat n ix ld li)
      ((acting g u).map fun l =>
        newAcc l (memAddr g u gb ix sx n l).toNat (memAddr g u gb ix sx n l).toNat (laneBytes g u d.toNat n l) false) := by
  have accepted := storeOp_accepted (lane := fun s g n l a b => windowLane s g true n l a b) hi (winW_ne_seven w) hf (hn.trans (widthOf_winW w).symm) ho
    (fun l hl => ⟨[], windowLane_store (aligned l hl) (stopped l hl) l _⟩) (wordOf (.stw u d gb ix ld li sx fs w)) .window
  rwa [entering_of_not_scratch (by decide), ← List.map_eq_flatMap] at accepted

end

/-! ## Lines that enter an L1 (R175, R271) -/

theorem coreOf_setCore (s : State) (c j : Nat) (k : Core) : coreOf (setCore s c k) j = if j = c then k else coreOf s j := by
  simp only [coreOf, tgetD, setCore_cores, tget_tset]
  split <;> rfl

theorem nsAdd_perm {k : Nat} {t : NatSet} (h : k ∉ t) : (nsAdd k t).Perm (k :: t) := by
  induction t with
  | nil => exact .refl _
  | cons x t ih =>
    obtain ⟨hx, ht⟩ := not_or.mp fun e => h (List.mem_cons.mpr e)
    rw [nsAdd, if_neg hx]
    split
    · exact .refl _
    · exact ((ih ht).cons x).trans (.swap k x t)

theorem fillGlobal_of_mem {s : State} {core line : Nat} (h : line ∈ (coreOf s core).l1) : fillGlobal s core line = s := by
  simp [fillGlobal, h]

/-- A line that enters a set with room evicts none. -/
theorem fillGlobal_of_room {s : State} {core line : Nat} (h : line ∉ (coreOf s core).l1) (room : l1Ways (coreOf s core) (l1Set line) < 16) :
    fillGlobal s core line = setCore s core { coreOf s core with l1 := nsAdd line (coreOf s core).l1 } := by
  simp [fillGlobal, h, makeRoom, hasRoom, room]

theorem l1Ways_nsAdd {k : Core} {line : Nat} (h : line ∉ k.l1) (set : Nat) :
    l1Ways { k with l1 := nsAdd line k.l1 } set = l1Ways k set + if l1Set line = set then 1 else 0 := by
  simp only [l1Ways, ((nsAdd_perm h).filter _).length_eq, List.filter_cons]
  by_cases mine : l1Set line = set <;> simp [mine]
  omega

/-- From s to t, the lines entered the core's L1, and nothing else of the machine is changed. -/
def LinesEnter (s : State) (core : Nat) (lines : List Nat) (t : State) : Prop :=
  t = { s with cores := t.cores } ∧ (∀ k, coreOf t k = { coreOf s k with l1 := (coreOf t k).l1 }) ∧
    ∀ k ln, ln ∈ (coreOf t k).l1 ↔ ln ∈ (coreOf s k).l1 ∨ (k = core ∧ ln ∈ lines)

theorem LinesEnter.trans {s t v : State} {core : Nat} {xs ys : List Nat} (h : LinesEnter s core xs t) (h' : LinesEnter t core ys v) :
    LinesEnter s core (xs ++ ys) v := by
  obtain ⟨state, cores, l1⟩ := h
  obtain ⟨state', cores', l1'⟩ := h'
  refine ⟨?_, fun k => ?_, fun k ln => ?_⟩
  · rw [state', state]
  · rw [cores' k, cores k]
  · rw [l1', l1, List.mem_append, and_or_left, or_assoc]

theorem linesEnter_fillGlobal {s : State} {core line : Nat} (room : l1Ways (coreOf s core) (l1Set line) < 16) :
    LinesEnter s core [line] (fillGlobal s core line) := by
  by_cases h : line ∈ (coreOf s core).l1
  · rw [fillGlobal_of_mem h]
    refine ⟨rfl, fun k => rfl, fun k ln => ⟨.inl, ?_⟩⟩
    rintro (old | ⟨rfl, new⟩)
    · exact old
    · rwa [List.mem_singleton.mp new]
  · rw [fillGlobal_of_room h room]
    refine ⟨rfl, fun k => ?_, fun k ln => ?_⟩
    · rw [coreOf_setCore]; split
      · next hk => subst hk; rfl
      · rfl
    · rw [coreOf_setCore]; split
      · next hk => subst hk; simp [(nsAdd_perm h).mem_iff, or_comm]
      · next hk => simp [hk]

theorem l1Ways_fillGlobal_le {s : State} {core line : Nat} (room : l1Ways (coreOf s core) (l1Set line) < 16) (set : Nat) :
    l1Ways (coreOf (fillGlobal s core line) core) set ≤ l1Ways (coreOf s core) set + if l1Set line = set then 1 else 0 := by
  by_cases h : line ∈ (coreOf s core).l1
  · rw [fillGlobal_of_mem h]; exact Nat.le_add_right _ _
  · exact Nat.le_of_eq (by rw [fillGlobal_of_room h room, coreOf_setCore, if_pos rfl, l1Ways_nsAdd h])

/-- Lines whose sets have room for all of them enter one after the other. -/
theorem linesEnter_foldl {core : Nat} {lines : List Nat} {s : State}
    (room : ∀ set, l1Ways (coreOf s core) set + (lines.filter fun n => decide (l1Set n = set)).length ≤ 16) :
    LinesEnter s core lines (lines.foldl (fun t n => fillGlobal t core n) s) := by
  induction lines generalizing s with
  | nil => exact ⟨rfl, fun k => rfl, fun k ln => by simp⟩
  | cons line lines ih =>
    have first : l1Ways (coreOf s core) (l1Set line) < 16 := by
      have := room (l1Set line)
      simp only [List.filter_cons, decide_true, if_true, List.length_cons] at this
      omega
    refine (linesEnter_fillGlobal first).trans (ih fun set => ?_)
    have all := room set
    have grown := l1Ways_fillGlobal_le first set
    rw [List.filter_cons] at all
    by_cases mine : l1Set line = set <;> simp [mine] at all grown <;> omega

/-! ## pfch -/

/-- The lines that a prefetch brings. -/
def prefetched (s : State) (g : Group) (u : Bool) (gb : BitVec 5) (ix : R6) (sx fs : Bool) (wd : BitVec 3) : List Nat :=
  if fs then [] else (acting g u).filterMap fun l => asksFor s g (memAddr g u gb ix sx (widthOf wd) l).toNat

/-- Where every operand can be read, the test of the names alone finds nothing either (R89). -/
theorem check_unread_or_read {g : Group} {use : Use} (ill : use.ill = false) (nd : use.nd = false)
    (ops : Operands g use.lanes use.rv use.wv use.rg use.wg) (idle : Bool) : check g (if idle then use.unread else use) = none := by
  cases idle with
  | false => exact check_ok ill nd ops
  | true =>
    obtain ⟨hrv, hwv, hrg, hwg⟩ := ops
    refine check_ok ill nd ⟨by simp [Use.unread], fun n hn => ?_, by simp [Use.unread], fun n hn => ?_⟩
    · exact (List.mem_append.mp hn).elim (fun h => (hrv n h).1) (hwv n)
    · exact (List.mem_append.mp hn).elim (fun h => ⟨(hrg n h).1, (hrg n h).2.1⟩) (hwg n)

theorem foldl_prefetched {s : State} {g : Group} {u : Bool} {gb : BitVec 5} {ix : R6} {sx : Bool} {wd : BitVec 3} {got : List Nat}
    (h : got = (acting g u).filterMap fun l => asksFor s g (memAddr g u gb ix sx (widthOf wd) l).toNat) (fs : Bool) (fill : State → Nat → State) :
    (if fs || got.isEmpty then s else got.foldl fill s) = (prefetched s g u gb ix sx fs wd).foldl fill s := by
  subst h
  cases fs with
  | true => rfl
  | false =>
    simp only [prefetched, Bool.false_or, Bool.false_eq_true, if_false]
    split
    · next h => rw [List.isEmpty_iff.mp h]; rfl
    · rfl

/-- A prefetch completes at once: what it brings enters the L1, marks free, and the group stands at its next word. -/
theorem exec_pfch_eq {s : State} {c : Nat} {g : Group} {u : Bool} {gb : BitVec 5} {ix : R6} {li : Bool} {wd : BitVec 3} (hi : Issues s c g) (hw : wd ≠ 7)
    (hgb : CanReadG g gb.toNat) (hix : if u then li = false ∧ CanReadG g ix.toNat else CanReadV g g.exec ix.toNat) (sx fs : Bool) :
    exec (.pfch u gb ix li sx fs wd) s = done ((prefetched s g u gb ix sx fs wd).foldl (fun t n => fillGlobal t g.core n) s) c
      (freeMarks g (if li then [ix.toNat] else []) []) := by
  rw [exec_pfch, execPfch, onGroup_run hi.1 hi.2.1 hi.2.2]
  simp only [widthBytes_eq_widthOf, fmAddr_eq_memAddr, lanes_eq_acting]
  rw [foldl_prefetched (u := u) (gb := gb) (ix := ix) (sx := sx) (wd := wd) ?lines, checked_ok]
  case lines =>
    refine congrArg (fun f => List.filterMap f (acting g u)) (funext fun l => ?_)
    rw [asksFor]
    cases tlbFind (coreOf s g.core).tlb (asidOf s g.launch) (memAddr g u gb ix sx (widthOf wd) l).toNat <;> rfl
  · cases u with
    | true => obtain ⟨rfl, -⟩ := hix; rfl
    | false => rfl
  · cases u with
    | true =>
      obtain ⟨rfl, hix⟩ := hix
      exact check_unread_or_read (decide_eq_false hw) (by simpa [notG] using hix.1) (by simp [Operands, hgb, hix]) _
    | false => exact check_unread_or_read (decide_eq_false hw) rfl (by simp [Operands, hgb, show CanReadV g g.exec ix.toNat from hix]) _

/-- A group whose marked names free as it goes to the next word. -/
theorem done_freeMarks {g : Group} (hr : g.res = .running) (t : State) (c : Nat) (marks : List Nat) :
    ∃ h, done t c (freeMarks g marks []) = .next { t with groups := tset t.groups c h } ∧ h = { bump (stepPast g) with v := h.v } ∧
      ∀ k < 64, h.v.getD k none = if k ∈ marks then none else g.v.getD k none := by
  refine ⟨_, done_run (by exact hr) t c, ?_⟩
  rw [freeMarks_frame, step_v]
  refine ⟨rfl, fun k hk => ?_⟩
  simp [freeMarks_get _ _ _ _ hk]

/-- Settles O27: the lanes' checks pass and the common course of a load or a store ends in the acceptance; the lines of a prefetch enter
one after the other, each in a set with room. -/
theorem windowAccess : Obligations.WindowAccess := by
  unfold Obligations.WindowAccess
  intro s c g u d gb ix ld li sx fs w hi
  refine ⟨?window, ?pfch⟩
  case window =>
    rintro hf n hn ad rfl aligned
    exact ⟨fun ho room named => ldw_accepted hi hf hn aligned ho room named, fun ho stopped => stw_accepted hi hf hn aligned ho stopped⟩
  case pfch =>
    rintro wd hw hgb hix lines rfl t rfl
    refine ⟨?_, fun room => linesEnter_foldl room⟩
    obtain ⟨h, ho, hh, hv⟩ := done_freeMarks hi.2.2 ((prefetched s g u gb ix sx fs wd).foldl (fun t n => fillGlobal t g.core n) s) c
      (if li then [ix.toNat] else [])
    refine ⟨h, (exec_pfch_eq hi hw hgb hix sx fs).trans ho, hh, fun k hk => ?_⟩
    rw [hv k hk]
    cases li <;> simp

end Sys2Proof.Claims
end

section
/-! PROOFS. The rules shared by the lane, floating, format and cross-lane instructions: an instruction whose operands can be read and written
commits, and what one commit leaves. -/

namespace Sys2Proof.Claims
open Sys2Proof.Machine

/-! ## Instructions that pass their checks -/

section
variable {s : State} {c : Nat} {g : Group} {use : Use} {k : Nat → Group → Out}

/-- An instruction of the group that issues, whose form is legal and whose operands can be read and written, goes on to its effect. -/
theorem onGroup_checked {o : Out} (hi : Issues s c g) (hk : k c g = checked s c g use o) (ill : use.ill = false) (nd : use.nd = false)
    (ops : Operands g use.lanes use.rv use.wv use.rg use.wg) : onGroup s k = o := by
  obtain ⟨cur, here, running⟩ := hi
  rw [onGroup_run cur here running, hk, checked_ok (check_ok ill nd ops)]

theorem vecResult_of_commitV {d : R6} {f : Nat → Word} {freed : List Nat} (hi : Issues s c g)
    (hk : k c g = checked s c g use (commitV s c g use d.toNat f)) (marks : use.marks = freed) (ill : use.ill = false) (nd : use.nd = false)
    (ops : Operands g use.lanes use.rv use.wv use.rg use.wg) (active : g.exec ≠ 0) (room : HasRoom s g d.toNat) :
    VecResult s c g (onGroup s k) d.toNat freed g.exec f := by
  rw [onGroup_checked hi hk ill nd ops, ← marks]
  exact vec_commitV hi.2.2 active d.isLt room use f

theorem uniResult_of_commitG {d : Nat} {x : DWord} (hi : Issues s c g) (hk : k c g = checked s c g use (commitG s c g d x))
    (ill : use.ill = false) (nd : use.nd = false) (ops : Operands g use.lanes use.rv use.wv use.rg use.wg) :
    UniResult s c g (onGroup s k) d [] x := by
  rw [onGroup_checked hi hk ill nd ops]
  exact uni_commitG hi.2.2 d x

theorem predResult_of_commitP {d : Nat} {x : BitVec 16} (hi : Issues s c g) (hk : k c g = checked s c g use (commitP s c g {} d x))
    (ill : use.ill = false) (nd : use.nd = false) (ops : Operands g use.lanes use.rv use.wv use.rg use.wg) :
    PredResult s c g (onGroup s k) d [] x := by
  rw [onGroup_checked hi hk ill nd ops]
  exact pred_commitP hi.2.2 {} d x

end

/-! ## Words of F-R, with one source or two -/

theorem notG_of_lt {x : R6} (h : x.toNat < 32) : notG x = false := by simp [notG, h]

section
variable {s : State} {c : Nat} {g : Group} {d a b : R6} {la lb im two rd : Bool} {k : Nat → Group → Out}

/-- The operands with one source are those of an immediate: no B is read or marked. -/
theorem vecResult_of_useV {f : Nat → Word} (hi : Issues s c g) (ho : VecOperands s g d a b lb (!two || im) rd)
    (hk : k c g = checked s c g (useV g d a b la lb im two rd) (commitV s c g (useV g d a b la lb im two rd) d.toNat f)) :
    VecResult s c g (onGroup s k) d.toNat (marked la a lb b) g.exec f := by
  obtain ⟨unmarked, ha, hb, hd, writable, room, active⟩ := ho
  have result := vec_shape hi ha (fun h2 him => hb (by simp [h2, him])) (fun him => unmarked (by simp [him])) hd writable room active hk
  cases two with
  | true => rwa [Bool.and_true] at result
  | false => obtain rfl := unmarked rfl; exact result

theorem uniResult_of_useU {x : DWord} (hi : Issues s c g) (ho : UniOperands g d a b la lb (!two || im) rd)
    (hk : k c g = checked s c g (useU d a b la lb im two rd) (commitG s c g d.toNat x)) :
    UniResult s c g (onGroup s k) d.toNat [] x := by
  obtain ⟨hla, hlb, ha, hb, writable, hd⟩ := ho
  exact uni_shape hi ha (fun h2 him => hb (by simp [h2, him])) hla hlb hd writable hk

end

end Sys2Proof.Claims
end

section
/-! PROOFS. Floating arithmetic on lanes and g registers (R143 to R149, R153, R154, R159). -/

namespace Sys2Proof.Claims
open Sys2Proof.Machine

/-! ## Which operation each instruction is -/

theorem exec_of_mem_floatThree : ∀ e ∈ floatThree, ∀ u d a b la lb s,
    exec (e.1 u d a b la lb) s = fop u d a b la lb true e.2.1 e.2.2 s := by
  simp only [floatThree, List.forall_mem_cons, List.not_mem_nil, false_imp_iff, implies_true, and_true]
  and_intros
  all_goals exact fun _ _ _ _ _ _ _ => rfl

theorem exec_of_mem_floatOne : ∀ e ∈ floatOne, ∀ u d a la s,
    exec (e.1 u d a la) s = fop u d a 0 la false false false (fun m x _ _ => e.2 m x) s := by
  simp only [floatOne, List.forall_mem_cons, List.not_mem_nil, false_imp_iff, implies_true, and_true]
  and_intros
  all_goals exact fun _ _ _ _ _ => rfl

section
variable {s : State} {c : Nat} {g : Group} {d a b : R6} {la lb im two rd : Bool} (hi : Issues s c g)
include hi

/-! ## fop -/

theorem fop_vector {f : WordFn} (ho : VecOperands s g d a b lb (!two) rd) (floating : moodType g.mood ≤ 2) :
    VecResult s c g (fop false d a b la lb two rd f s) d.toNat (marked la a lb b) g.exec fun l =>
      f g.mood (readV g a.toNat l) (readV g b.toNat l) (readV g d.toNat l) :=
  vecResult_of_useV (im := false) hi (by rwa [Bool.or_false]) (congrArg (checked s c g _) (if_neg (Nat.not_lt.mpr floating)))

theorem fop_uniform {f : WordFn} (ho : UniOperands g d a b la lb (!two) rd) (floating : moodType g.mood ≤ 2) :
    UniResult s c g (fop true d a b la lb two rd f s) d.toNat []
      ((f g.mood ((readG g a.toNat).setWidth 32) ((readG g b.toNat).setWidth 32) ((readG g d.toNat).setWidth 32)).setWidth 64) :=
  uniResult_of_useU (im := false) hi (by rwa [Bool.or_false]) (congrArg (checked s c g _) (if_neg (Nat.not_lt.mpr floating)))

/-! ## fscal and dot4 -/

theorem fscal_vector (ho : VecOperands s g d a b lb im false) (floating : moodType g.mood ≤ 2) :
    VecResult s c g (exec (.fscal false d a b la lb im) s) d.toNat (marked la a lb b) g.exec fun l =>
      scaled g.mood (readV g a.toNat l) (laneB g b im l) :=
  vecResult_of_useV (two := true) hi ho (congrArg (checked s c g _) (if_neg (Nat.not_lt.mpr floating)))

theorem fscal_uniform (ho : UniOperands g d a b la lb im false) (floating : moodType g.mood ≤ 2) :
    UniResult s c g (exec (.fscal true d a b la lb im) s) d.toNat []
      ((scaled g.mood ((readG g a.toNat).setWidth 32) ((uniB g b im).setWidth 32)).setWidth 64) :=
  uniResult_of_useU (two := true) hi ho (congrArg (checked s c g _) (if_neg (Nat.not_lt.mpr floating)))

theorem dot4_vector (ho : VecOperands s g d a b lb false true) (bytes : moodType g.mood = 11 ∨ moodType g.mood = 12) :
    VecResult s c g (exec (.dot4 false d a b la lb) s) d.toNat (marked la a lb b) g.exec fun l =>
      dot4Val g.mood (readV g a.toNat l) (readV g b.toNat l) (readV g d.toNat l) :=
  vecResult_of_useV (two := true) (im := false) hi ho (by rcases bytes with h | h <;> simp [h])

theorem dot4_uniform (ho : UniOperands g d a b la lb false true) (bytes : moodType g.mood = 11 ∨ moodType g.mood = 12) :
    UniResult s c g (exec (.dot4 true d a b la lb) s) d.toNat []
      (dot4Val g.mood (readG g a.toNat) (readG g b.toNat) (readG g d.toNat)) :=
  uniResult_of_useU (two := true) (im := false) hi ho (by rcases bytes with h | h <;> simp [h])

end

/-- Settles O3: every instruction of the two lists is one operation under the common checks; fscal and dot4 have their own. -/
theorem floatVector : Obligations.FloatVector := by
  unfold Obligations.FloatVector
  refine ⟨fun e he s c g d a b la lb hi ho ht => ?three, fun e he s c g d a la hi ho ht => ?one, fun s c g d a b la lb im => fscal_vector,
    fun s c g d a b la lb => dot4_vector⟩
  case three =>
    rw [exec_of_mem_floatThree e he]
    exact fop_vector hi ho ht
  case one =>
    rw [exec_of_mem_floatOne e he]
    exact fop_vector (f := fun m x _ _ => e.2 m x) hi ho ht

/-- Settles O4: the same operations on the low words of g registers. -/
theorem floatUniform : Obligations.FloatUniform := by
  unfold Obligations.FloatUniform
  refine ⟨fun e he s c g d a b la lb hi ho ht => ?three, fun e he s c g d a la hi ho ht => ?one, fun s c g d a b la lb im => fscal_uniform,
    fun s c g d a b la lb => dot4_uniform⟩
  case three =>
    rw [exec_of_mem_floatThree e he]
    exact fop_uniform hi ho ht
  case one =>
    rw [exec_of_mem_floatOne e he]
    exact fop_uniform (f := fun m x _ _ => e.2 m x) hi ho ht

end Sys2Proof.Claims
end

section
/-! PROOFS. Comparisons (R131, R147). -/

namespace Sys2Proof.Claims
open Sys2Proof.Machine

/-- A test tells whether a relation holds. -/
def Tests {α : Type} (f : α → α → Bool) (R : α → α → Prop) : Prop := ∀ x y, f x y = true ↔ R x y

theorem feq_iff (x y : FVal) :
    feq x y = true ↔ isNan x = false ∧ isNan y = false ∧ flt false x y = false ∧ flt false y x = false := by
  simp [feq, funord, and_assoc]

/-! ## Which test each instruction is -/

theorem exec_of_mem_intRels : ∀ e ∈ intRels, ∃ f : Int → Int → Bool, Tests f e.2 ∧ ∀ u d a b la lb im s,
    exec (e.1 u d a b la lb im) s = cmpOp u d a b la lb im (fun m _ x y => f (ival m x) (ival m y)) s := by
  simp only [intRels, List.forall_mem_cons, List.not_mem_nil, false_imp_iff, implies_true, and_true]
  refine ⟨⟨fun x y => decide (x = y), ?_, fun _ _ _ _ _ _ _ _ => rfl⟩, ⟨fun x y => decide (x ≠ y), ?_, fun _ _ _ _ _ _ _ _ => rfl⟩,
    ⟨fun x y => decide (x < y), ?_, fun _ _ _ _ _ _ _ _ => rfl⟩, ⟨fun x y => decide (x ≤ y), ?_, fun _ _ _ _ _ _ _ _ => rfl⟩,
    ⟨fun x y => decide (y < x), ?_, fun _ _ _ _ _ _ _ _ => rfl⟩, ⟨fun x y => decide (y ≤ x), ?_, fun _ _ _ _ _ _ _ _ => rfl⟩⟩
  all_goals exact fun x y => decide_eq_true_iff

theorem exec_of_mem_floatRels : ∀ e ∈ floatRels, ∃ f : FVal → FVal → Bool, Tests f e.2 ∧ ∀ u d a b la lb s,
    exec (e.1 u d a b la lb) s = fcmpOp u d a b la lb f s := by
  simp only [floatRels, List.forall_mem_cons, List.not_mem_nil, false_imp_iff, implies_true, and_true]
  refine ⟨⟨funord, ?un, fun _ _ _ _ _ _ _ => rfl⟩, ⟨fun x y => !funord x y, ?ord, fun _ _ _ _ _ _ _ => rfl⟩,
    ⟨fun x y => flt false x y, fun _ _ => Iff.rfl, fun _ _ _ _ _ _ _ => rfl⟩,
    ⟨fun x y => flt false y x, fun _ _ => Iff.rfl, fun _ _ _ _ _ _ _ => rfl⟩,
    ⟨fun x y => !funord x y && !flt false y x, ?le, fun _ _ _ _ _ _ _ => rfl⟩,
    ⟨fun x y => !funord x y && !flt false x y, ?ge, fun _ _ _ _ _ _ _ => rfl⟩,
    ⟨feq, feq_iff, fun _ _ _ _ _ _ _ => rfl⟩, ⟨fun x y => !feq x y, ?ne, fun _ _ _ _ _ _ _ => rfl⟩⟩
  case un => exact fun x y => by simp [funord]
  case ord => exact fun x y => by simp [funord]
  case le => exact fun x y => by simp [funord, and_assoc]
  case ge => exact fun x y => by simp [funord, and_assoc]
  case ne => exact fun x y => by simp only [← feq_iff, Bool.not_eq_true', Bool.not_eq_true]

/-! ## The operands of a comparison, whose result is a predicate -/

theorem useV_marks_two (g : Group) (d a b : R6) (la lb im rd : Bool) : (useV g d a b la lb im true rd).marks = marked la a lb b := by
  simp only [useV, marked, Bool.and_true]

theorem VecReads.unmarked {g : Group} {a b : R6} {lb im : Bool} (hr : VecReads g a b lb im) : (lb && im) = false := by
  cases im with
  | true => rw [hr.1 rfl]; rfl
  | false => exact Bool.and_false lb

theorem VecReads.operands {g : Group} {a b : R6} {lb im : Bool} (hr : VecReads g a b lb im) (la : Bool) :
    Operands g g.exec (useV g 0 a b la lb im true false).rv [] [] [] := by
  obtain ⟨-, ha, hb⟩ := hr
  cases im <;> simp_all [Operands, useV]

/-- A and B can be read in the uniform form. -/
def UniReads (g : Group) (a b : R6) (im : Bool) : Prop := CanReadG g a.toNat ∧ (im = false → CanReadG g b.toNat)

theorem UniReads.operands {g : Group} {a b : R6} {im : Bool} (hr : UniReads g a b im) :
    Operands g 0 [] [] (useU 0 a b false false im true false).rg [] := by
  obtain ⟨ha, hb⟩ := hr
  cases im <;> simp_all [Operands, useU]

theorem UniReads.named {g : Group} {a b : R6} {im : Bool} (hr : UniReads g a b im) :
    (useU 0 a b false false im true false).nd = false := by
  obtain ⟨⟨ha, -⟩, hb⟩ := hr
  cases im with
  | true => simp [useU, notG, ha]
  | false => simp [useU, notG, ha, (hb rfl).1]

section
variable {s : State} {c : Nat} {g : Group} {d a b : R6} {la lb im : Bool} (hi : Issues s c g) (hd : d.toNat < 8)
include hi hd

/-! ## icmp -/

theorem cmpOp_vector (hr : VecReads g a b lb im) {f : Int → Int → Bool} {R : Int → Int → Prop} (test : Tests f R) :
    LaneVerdict s c g (cmpOp false d a b la lb im (fun m _ x y => f (ival m x) (ival m y)) s) d.toNat (marked la a lb b) fun l =>
      R (ival g.mood (readV g a.toNat l)) (ival g.mood (laneB g b im l)) := by
  rw [cmpOp, onGroup_checked hi rfl hr.unmarked (decide_eq_false (Nat.not_le.mpr hd)) (hr.operands la), ← useV_marks_two g 0]
  exact verdict_commitP hi.2.2 _ _ fun l => test _ _

theorem cmpOp_uniform (hr : UniReads g a b im) {f : Int → Int → Bool} {R : Int → Int → Prop} (test : Tests f R) :
    UniVerdict s c g (cmpOp true d a b false false im (fun m _ x y => f (ival m x) (ival m y)) s) d.toNat
      (R (ival g.mood (readG g a.toNat)) (ival g.mood (uniB g b im))) := by
  rw [cmpOp, onGroup_checked hi rfl rfl (Bool.or_eq_false_iff.mpr ⟨hr.named, decide_eq_false (Nat.not_le.mpr hd)⟩) hr.operands]
  exact verdict_uni hi.2.2 _ (test _ _)

/-! ## fcmp -/

theorem fcmpOp_vector (hr : VecReads g a b lb false) (floating : moodType g.mood ≤ 2) {f : FVal → FVal → Bool} {R : FVal → FVal → Prop}
    (test : Tests f R) :
    LaneVerdict s c g (fcmpOp false d a b la lb f s) d.toNat (marked la a lb b) fun l =>
      R (fcmpIn g.mood (readV g a.toNat l)) (fcmpIn g.mood (readV g b.toNat l)) := by
  rw [fcmpOp, onGroup_checked hi rfl hr.unmarked (decide_eq_false (Nat.not_le.mpr hd)) (hr.operands la), if_neg (Nat.not_lt.mpr floating),
    ← useV_marks_two g 0 a b la lb false false]
  exact verdict_commitP hi.2.2 { useV g 0 a b la lb false true false with wv := [] } _ fun l => test _ _

theorem fcmpOp_uniform (hr : UniReads g a b false) (floating : moodType g.mood ≤ 2) {f : FVal → FVal → Bool} {R : FVal → FVal → Prop}
    (test : Tests f R) :
    UniVerdict s c g (fcmpOp true d a b false false f s) d.toNat
      (R (fcmpIn g.mood ((readG g a.toNat).setWidth 32)) (fcmpIn g.mood ((readG g b.toNat).setWidth 32))) := by
  rw [fcmpOp, onGroup_checked hi rfl rfl (Bool.or_eq_false_iff.mpr ⟨hr.named, decide_eq_false (Nat.not_le.mpr hd)⟩) hr.operands,
    if_neg (Nat.not_lt.mpr floating)]
  exact verdict_uni hi.2.2 _ (test _ _)

end

/-- Settles O5: each comparison of the lists is a test of its relation under the common checks. -/
theorem compareVector : Obligations.CompareVector := by
  unfold Obligations.CompareVector
  constructor
  · intro e he s c g d a b la lb im hi hr hd
    obtain ⟨f, test, word⟩ := exec_of_mem_intRels e he
    rw [word]
    exact cmpOp_vector hi hd hr test
  · intro e he s c g d a b la lb hi hr hd floating
    obtain ⟨f, test, word⟩ := exec_of_mem_floatRels e he
    rw [word]
    exact fcmpOp_vector hi hd hr floating test

/-- Settles O6: the same tests on g registers. -/
theorem compareUniform : Obligations.CompareUniform := by
  unfold Obligations.CompareUniform
  constructor
  · intro e he s c g d a b im hi ha hb hd
    obtain ⟨f, test, word⟩ := exec_of_mem_intRels e he
    rw [word]
    exact cmpOp_uniform hi hd ⟨ha, hb⟩ test
  · intro e he s c g d a b hi ha hb hd floating
    obtain ⟨f, test, word⟩ := exec_of_mem_floatRels e he
    rw [word]
    exact fcmpOp_uniform hi hd ⟨ha, fun _ => hb⟩ floating test

end Sys2Proof.Claims
end

section
/-! PROOFS. Selects, moves, constants, addresses and format words (R132, R134 to R136, R158). -/

namespace Sys2Proof.Claims
open Sys2Proof.Machine

theorem hasRoom_of_canReadV {g : Group} {m : BitVec 16} {n : Nat} (h : CanReadV g m n) (s : State) : HasRoom s g n := by
  obtain ⟨-, r, hr, -⟩ := h
  exact .inl (by simp [hr])

/-- An immediate below 32 is not negative, and its low five bits are its value. -/
theorem getLsbD_five_of_lt {b : R6} (h : b.toNat < 32) : b.getLsbD 5 = false := by
  rw [BitVec.getLsbD, Nat.testBit_lt_two_pow (by omega)]

theorem formatWord_of_lt {b : R6} (h : b.toNat < 32) (m : Word) : formatWord m b = 256 * b.toNat + 16 * moodSrc m + moodType m := by
  rw [formatWord, nfld, Nat.pow_zero, Nat.div_one, Nat.mod_eq_of_lt (show b.toNat < 2 ^ 5 from h)]

/-- The form of an address word that has a width and is scaled only where S says so (R76, R136). -/
theorem lea_legal {sx : Bool} {w : BitVec 3} (hw : w ≠ 7) (plain : sx = false → w = 0) : (decide (w = 7) || (!sx && w != 0)) = false := by
  cases sx with
  | true => rw [decide_eq_false hw]; rfl
  | false => rw [plain rfl]; rfl

section
variable {s : State} {c : Nat} {g : Group} {d a b : R6} {la lb im : Bool} (hi : Issues s c g)
include hi

/-! ## The vector form -/

theorem sel_vector (ho : VecOperands s g d a b lb im false) (pr : BitVec 3) :
    VecResult s c g (exec (.sel false d a b la lb im pr) s) d.toNat (marked la a lb b) g.exec fun l =>
      if (readP g pr.toNat).getLsbD l then readV g a.toNat l else laneB g b im l :=
  vecResult_of_useV (two := true) hi ho rfl

section
variable (writable : CanWriteV g d.toNat) (room : HasRoom s g d.toNat) (active : g.exec ≠ 0)
include writable room active

theorem movSpecial_vector (code : a.toNat < 10) :
    VecResult s c g (exec (.movSpecial false d a) s) d.toNat [] g.exec fun l =>
      BitVec.ofNat 32 (if a.toNat < 3 then threadSpecial g a.toNat l else groupSpecial s g a.toNat) :=
  vecResult_of_commitV hi rfl rfl (decide_eq_false (Nat.not_le.mpr code)) rfl (by simp [Operands, writable]) active room

theorem movG_vector (ha : CanReadG g a.toNat) :
    VecResult s c g (exec (.movG d a) s) d.toNat [] g.exec fun _ => (readG g a.toNat).setWidth 32 :=
  vecResult_of_commitV hi rfl rfl rfl (notG_of_lt ha.1) (by simp [Operands, writable, ha]) active room

theorem ldi_vector (imm : BitVec 18) : VecResult s c g (exec (.ldi false d imm) s) d.toNat [] g.exec fun _ => imm.signExtend 32 :=
  vecResult_of_commitV hi rfl rfl rfl rfl (by simp [Operands, writable]) active room

theorem fmtw_vector (index : b.toNat < 32) :
    VecResult s c g (exec (.fmtw false d b) s) d.toNat [] g.exec fun _ =>
      BitVec.ofNat 32 (256 * b.toNat + 16 * moodSrc g.mood + moodType g.mood) := by
  rw [← formatWord_of_lt index]
  exact vecResult_of_commitV hi rfl rfl (getLsbD_five_of_lt index) rfl (by simp [Operands, writable]) active room

end

theorem khi_vector (hd : CanReadV g g.exec d.toNat) (active : g.exec ≠ 0) (imm : BitVec 18) :
    VecResult s c g (exec (.khi false d imm) s) d.toNat [] g.exec fun l => readV g d.toNat l <<< 18 + imm.setWidth 32 :=
  vecResult_of_commitV hi rfl rfl rfl rfl (by simp [Operands, hd, show CanWriteV g d.toNat from hd.1]) active (hasRoom_of_canReadV hd s)

/-! ## The uniform form -/

theorem sel_uniform (ho : UniOperands g d a b false false im false) (pr : BitVec 3) :
    UniResult s c g (exec (.sel true d a b false false im pr) s) d.toNat []
      (if readP g pr.toNat = 0 then uniB g b im else readG g a.toNat) :=
  uniResult_of_useU (two := true) hi ho rfl

section
variable (writable : CanWriteG g d.toNat)
include writable

theorem movSpecial_uniform (ofGroup : 3 ≤ a.toNat) (code : a.toNat < 10) :
    UniResult s c g (exec (.movSpecial true d a) s) d.toNat [] (BitVec.ofNat 64 (groupSpecial s g a.toNat)) :=
  uniResult_of_commitG hi rfl (by simp [ofGroup, code]) (notG_of_lt writable.1) (by simp [Operands, writable])

theorem ldi_uniform (imm : BitVec 18) : UniResult s c g (exec (.ldi true d imm) s) d.toNat [] (imm.signExtend 64) :=
  uniResult_of_commitG hi rfl rfl (notG_of_lt writable.1) (by simp [Operands, writable])

theorem lea_uniform {gb : BitVec 5} {ix : R6} {sx : Bool} {w : BitVec 3} (hgb : CanReadG g gb.toNat) (hix : CanReadG g ix.toNat)
    (hw : w ≠ 7) (plain : sx = false → w = 0) :
    UniResult s c g (exec (.lea true d gb ix false sx w) s) d.toNat []
      (readG g gb.toNat + readG g ix.toNat * BitVec.ofNat 64 (if sx then widthBytes w else 1)) :=
  uniResult_of_commitG hi rfl (Bool.or_eq_false_iff.mpr ⟨lea_legal hw plain, rfl⟩) (by simp [notG_of_lt writable.1, notG_of_lt hix.1])
    (by simp [Operands, writable, hgb, hix])

theorem fmtw_uniform (index : b.toNat < 32) :
    UniResult s c g (exec (.fmtw true d b) s) d.toNat [] (BitVec.ofNat 64 (256 * b.toNat + 16 * moodSrc g.mood + moodType g.mood)) := by
  rw [← formatWord_of_lt index]
  exact uniResult_of_commitG hi rfl (getLsbD_five_of_lt index) (notG_of_lt writable.1) (by simp [Operands, writable])

end

theorem khi_uniform (hd : CanReadG g d.toNat) (imm : BitVec 18) :
    UniResult s c g (exec (.khi true d imm) s) d.toNat [] (readG g d.toNat <<< 18 + imm.setWidth 64) :=
  uniResult_of_commitG hi rfl rfl (notG_of_lt hd.1) (by simp [Operands, hd, show CanWriteG g d.toNat from ⟨hd.1, hd.2.1⟩])

end

/-- Settles O7: each instruction passes its checks and commits its value. -/
theorem movesVector : Obligations.MovesVector := by
  unfold Obligations.MovesVector
  exact ⟨fun s c g d a b la lb im pr hi ho => sel_vector hi ho pr,
    fun s c g d a hi writable room active code => movSpecial_vector hi writable room active code,
    fun s c g d a hi ha writable room active => movG_vector hi writable room active ha,
    fun s c g d imm hi writable room active => ldi_vector hi writable room active imm,
    fun s c g d imm hi hd active => khi_vector hi hd active imm,
    fun s c g d b hi writable room active index => fmtw_vector hi writable room active index⟩

/-- Settles O8: the same on g registers, with the address of lea in one of them. -/
theorem movesUniform : Obligations.MovesUniform := by
  unfold Obligations.MovesUniform
  exact ⟨fun s c g d a b im pr hi ho => sel_uniform hi ho pr,
    fun s c g d a hi writable ofGroup code => movSpecial_uniform hi writable ofGroup code,
    fun s c g d imm hi writable => ldi_uniform hi writable imm,
    fun s c g d imm hi hd => khi_uniform hi hd imm,
    fun s c g d gb ix sx w hi hgb hix writable hw plain => lea_uniform hi writable hgb hix hw plain,
    fun s c g d b hi writable index => fmtw_uniform hi writable index⟩

end Sys2Proof.Claims
end

section
/-! PROOFS. Predicate logic (R133). -/

namespace Sys2Proof.Claims
open Sys2Proof.Machine

section
variable {s : State} {c : Nat} {g : Group} {d a b : R6} (hi : Issues s c g)
include hi

theorem plog_result (hd : d.toNat < 8) (ha : a.toNat < 8) (hb : b.toNat < 8) (f : BitVec 16 → BitVec 16 → BitVec 16) :
    PredResult s c g (plog d a b f s) d.toNat [] (f (readP g a.toNat) (readP g b.toNat)) :=
  predResult_of_commitP hi rfl rfl (by simp [hd, ha, hb]) (by simp [Operands])

theorem plogFromg_result (hd : d.toNat < 8) (ha : CanReadG g a.toNat) :
    PredResult s c g (exec (.plogFromg d a) s) d.toNat [] ((readG g a.toNat).setWidth 16) :=
  predResult_of_commitP hi rfl rfl (by simp [hd, notG_of_lt ha.1]) (by simp [Operands, ha])

theorem plogTog_result (hd : CanWriteG g d.toNat) (ha : a.toNat < 8) :
    UniResult s c g (exec (.plogTog d a) s) d.toNat [] ((readP g a.toNat).setWidth 64) :=
  uniResult_of_commitG hi rfl rfl (by simp [ha, notG_of_lt hd.1]) (by simp [Operands, hd])

end

/-- The sub-operation of plog stands in bits 2 to 0; bits 5 to 3, and bits 11 to 6 where there is no B, are 0; U is 1 where a g register is named. -/
theorem plog_fields {w : Word} (op : fld w 25 7 = 0x27) (word : (decodeWord w).isSome = true) :
    fld w 3 3 = 0 ∧ fld w 0 3 ≤ 6 ∧ (fld w 24 1 = 1 ↔ 5 ≤ fld w 0 3) ∧ (4 ≤ fld w 0 3 → fld w 6 6 = 0) := by
  obtain ⟨i, hword⟩ := Option.isSome_iff_exists.mp word
  rw [Laws.decode_at_27 op] at hword
  simp only [fld, Nat.reducePow, Nat.div_one] at hword ⊢
  repeat' split at hword
  all_goals cases hword
  all_goals omega

/-- Settles O9: the operations by their common check; the fields of a word by the decoder's row of plog. -/
theorem predicateLogic : Obligations.PredicateLogic := by
  unfold Obligations.PredicateLogic
  refine ⟨?ops, fun s c g d a => plogFromg_result, fun s c g d a => plogTog_result, fun w => plog_fields⟩
  simp only [predOps, List.forall_mem_cons, List.not_mem_nil, false_imp_iff, implies_true, and_true]
  exact ⟨fun s c g d a b hi hd ha hb => plog_result hi hd ha hb fun x y => x &&& y,
    fun s c g d a b hi hd ha hb => plog_result hi hd ha hb fun x y => x ||| y,
    fun s c g d a b hi hd ha hb => plog_result hi hd ha hb fun x y => x ^^^ y,
    fun s c g d a b hi hd ha hb => plog_result hi hd ha hb fun x y => x &&& ~~~y,
    fun s c g d a b hi hd ha _ => plog_result (b := 0) hi hd ha (by decide) fun x _ => ~~~x⟩

end Sys2Proof.Claims
end

section
/-! PROOFS. Commits of several v registers, and of a g register whose sources are freed (R93, R103). -/

namespace Sys2Proof.Claims
open Sys2Proof.Machine

/-! ## Several v registers -/

/-- The group after the results of an instruction are written in turn. -/
def writeAllV (tag : Nat) (m : BitVec 16) (g : Group) (ws : List (Nat × (Nat → Word))) : Group :=
  ws.foldl (fun h e => writeV h tag e.1 m e.2) g

section
variable (tag : Nat) (m : BitVec 16)

theorem writeAllV_frame (g : Group) (ws : List (Nat × (Nat → Word))) : writeAllV tag m g ws = { g with v := (writeAllV tag m g ws).v } := by
  induction ws generalizing g with
  | nil => rfl
  | cons e ws ih => exact ih (writeV g tag e.1 m e.2)

theorem writeAllV_of_notMem {ws : List (Nat × (Nat → Word))} {k : Nat} (hk : k < 64) (h : k ∉ ws.map Prod.fst) (g : Group) :
    (writeAllV tag m g ws).v.getD k none = g.v.getD k none := by
  induction ws generalizing g with
  | nil => rfl
  | cons e ws ih =>
    obtain ⟨hne, hws⟩ := not_or.mp (mt List.mem_cons.mpr h)
    exact (ih hws _).trans (writeV_ne _ _ _ _ _ _ hk hne)

theorem readV_congr {g h : Group} {n : Nat} (same : h.v.getD n none = g.v.getD n none) (l : Nat) : readV h n l = readV g n l := by
  rw [readV, readV, same]

/-- Each name written holds its own values, where no name is written twice. -/
theorem readV_writeAllV {ws : List (Nat × (Nat → Word))} (distinct : (ws.map Prod.fst).Nodup) (names : ∀ e ∈ ws, e.1 < 64)
    {e : Nat × (Nat → Word)} (he : e ∈ ws) {l : Nat} (hl : l < 16) (g : Group) :
    readV (writeAllV tag m g ws) e.1 l = if m.getLsbD l then e.2 l else readV g e.1 l := by
  induction ws generalizing g with
  | nil => cases he
  | cons x ws ih =>
    obtain ⟨fresh, distinct⟩ := List.nodup_cons.mp distinct
    obtain ⟨hx, names⟩ := List.forall_mem_cons.mp names
    rcases List.mem_cons.mp he with rfl | he
    · exact (readV_congr (writeAllV_of_notMem tag m hx fresh _) l).trans (readV_writeV_same _ _ _ _ _ hx _ hl)
    · have hne : e.1 ≠ x.1 := fun h => fresh (h ▸ List.mem_map_of_mem he)
      rw [← readV_congr (writeV_ne g tag x.1 m x.2 e.1 (names e he) hne) l]
      exact ih distinct names he _

end

/-- A group that an instruction changes in its v registers alone goes to the next word so changed. -/
theorem step_of_frame {g h : Group} (frame : h = { g with v := h.v }) : bump (stepPast h) = { bump (stepPast g) with v := h.v } := by
  conv => lhs; rw [frame]
  exact step_v g h.v

theorem freeMarks_of_frame {g h : Group} (frame : h = { g with v := h.v }) (marks wv : List Nat) :
    freeMarks h marks wv = { g with v := (freeMarks h marks wv).v } := by
  conv => lhs; rw [frame]
  rfl

/-- Results of several names, with room for their registers and a lane that acts. -/
theorem vecResults_of_commitVM {s : State} {c : Nat} {g : Group} (hr : g.res = .running) (use : Use) {m : BitVec 16} (active : m ≠ 0)
    {ws : List (Nat × (Nat → Word))} (distinct : (ws.map Prod.fst).Nodup) (names : ∀ e ∈ ws, e.1 < 64) (room : RoomFor s g (ws.map Prod.fst)) :
    VecResults s c g (commitVM s c g use m ws) ws use.marks m := by
  have frame := freeMarks_of_frame (writeAllV_frame s.nextKey m g ws) use.marks (ws.map Prod.fst)
  have next := step_of_frame frame
  have running : (freeMarks (writeAllV s.nextKey m g ws) use.marks (ws.map Prod.fst)).res = .running := by rw [frame]; exact hr
  refine ⟨bump (stepPast (freeMarks (writeAllV s.nextKey m g ws) use.marks (ws.map Prod.fst))), s.nextKey + 1, ?_, by rw [next],
    fun e he l hl => ?_, fun k hk hks => ?_⟩
  · rw [commitVM, if_neg active, withRegs_room (needs_le_of_roomFor room)]
    exact done_run running _ _
  · rw [← readV_writeAllV s.nextKey m distinct names he hl g]
    refine readV_congr ?_ l
    rw [next, freeMarks_get _ _ _ _ (names e he)]
    simp [List.mem_map_of_mem (f := Prod.fst) he]
  · rw [next, freeMarks_get _ _ _ _ hk, writeAllV_of_notMem _ _ hk hks]
    simp [hks]

/-! ## A g register -/

/-- A g result of an instruction whose v sources are freed. -/
theorem uniResult_of_freed {s : State} {c : Nat} {g : Group} (hr : g.res = .running) (d : Nat) (x : DWord) (freed : List Nat) :
    UniResult s c g (commitG s c (freeMarks g freed []) d x) d freed x := by
  obtain ⟨h, ho, hh, hg, hv⟩ := uni_commitG (g := freeMarks g freed []) hr d x (s := s) (c := c)
  refine ⟨h, ho, ?_, hg, fun k hk => ?_⟩
  · rw [hh, step_of_frame (freeMarks_frame g freed [])]
  · rw [hv k hk]
    simp [freeMarks_get _ _ _ _ hk]

end Sys2Proof.Claims
end

section
/-! PROOFS. Cross-lane instructions (R137 to R142). -/

namespace Sys2Proof.Claims
open Sys2Proof.Machine

/-! ## Members -/

theorem Members.ok {g : Group} (h : Members g) : membBad g = false :=
  bne_eq_false_iff_eq.mpr h

theorem Members.useX_lanes {g : Group} (h : Members g) (a : R6) (la : Bool) (b : List Nat) (lb : Bool) (wv : List Nat) :
    (useX g a la b lb wv).lanes = memberMask g := by
  simp [useX, h.ok]

/-- The operands of a cross-lane form that reads A and the names of b, and writes the names of wv and wg. -/
theorem Members.operands {g : Group} (h : Members g) {a : R6} (ha : CanReadV g (memberMask g) a.toNat) {b wv wg : List Nat}
    (hb : ∀ n ∈ b, CanReadV g (memberMask g) n) (hwv : ∀ n ∈ wv, CanWriteV g n) (hwg : ∀ n ∈ wg, CanWriteG g n) (la lb : Bool) :
    Operands g (useX g a la b lb wv).lanes (a.toNat :: b) wv [] wg := by
  rw [h.useX_lanes]
  exact ⟨List.forall_mem_cons.mpr ⟨ha, hb⟩, hwv, fun _ hn => absurd hn List.not_mem_nil, hwg⟩

theorem mem_lanesOf {m : BitVec 16} {l : Nat} : l ∈ lanesOf m ↔ l < 16 ∧ m.getLsbD l = true := by
  have lanes16_iff : l ∈ lanes16 ↔ l < 16 := by simp [lanes16]; omega
  rw [lanesOf, List.mem_filter, lanes16_iff]

/-! ## A vector result in every member lane -/

section
variable {s : State} {c : Nat} {g : Group} {d a b : R6} {la lb im : Bool} (hi : Issues s c g) (members : Members g) (nonempty : memberMask g ≠ 0)
include hi members nonempty

theorem crossV_result {use : Group → Use} {bad : Word → Bool} {f : Group → BitVec 16 → Nat → Word} {r : Nat → Word} {freed : List Nat}
    (value : f g (memberMask g) = r) (marks : (use g).marks = freed) (type : bad g.mood = false)
    (ill : (use g).ill = false) (nd : (use g).nd = false) (ops : Operands g (use g).lanes (use g).rv (use g).wv (use g).rg (use g).wg)
    (room : RoomFor s g [d.toNat]) : VecResults s c g (crossV use d bad f s) [(d.toNat, r)] freed (memberMask g) := by
  rw [crossV, onGroup_checked hi rfl ill nd ops, type, members.ok, value, ← marks]
  exact vecResults_of_commitVM hi.2.2 (use g) nonempty (by simp) (List.forall_mem_singleton.mpr d.isLt) room

variable (ha : CanReadV g (memberMask g) a.toNat) (writable : CanWriteV g d.toNat) (room : RoomFor s g [d.toNat])
include ha writable room

/-! ## shfl -/

theorem shflOp_result (unmarked : im = true → lb = false) (hb : im = false → CanReadV g (memberMask g) b.toNat) (j : Nat → Word → Int) :
    VecResults s c g (shflOp d a b la lb im j s) [(d.toNat, fun l =>
      if 0 ≤ j l (laneB g b im l) ∧ j l (laneB g b im l) < 16 ∧ (memberMask g).getLsbD (j l (laneB g b im l)).toNat = true
      then readV g a.toNat (j l (laneB g b im l)).toNat else readV g a.toNat l)] (marked la a lb b) (memberMask g) := by
  refine crossV_result hi members nonempty ?value ?marks rfl ?legal rfl ?operands room
  case value => exact funext fun l => ite_congr (by simp [and_assoc, laneB_eq]) (fun _ => rfl) fun _ => rfl
  case marks => cases im <;> simp_all [useX, marked]
  case legal => cases im <;> simp_all
  case operands =>
    have reads : ∀ n ∈ (if im then [] else [b.toNat]), CanReadV g (memberMask g) n := by cases im <;> simp_all
    exact members.operands (wg := []) ha reads (List.forall_mem_singleton.mpr writable) (by simp) la lb

/-! ## An instruction of A alone -/

theorem crossV_one_result {bad : Word → Bool} {f : Group → BitVec 16 → Nat → Word} (type : bad g.mood = false) :
    VecResults s c g (crossV (fun g => useX g a la [] false [d.toNat]) d bad f s) [(d.toNat, f g (memberMask g))]
      (marked la a false 0) (memberMask g) :=
  crossV_result hi members nonempty rfl rfl type rfl rfl
    (members.operands (b := []) (wg := []) ha (by simp) (List.forall_mem_singleton.mpr writable) (by simp) la false) room

theorem lred_result {bad : Word → Bool} {f : Group → BitVec 16 → Word} (type : bad g.mood = false) :
    VecResults s c g (lred d a la bad f s) [(d.toNat, fun _ => f g (memberMask g))] (marked la a false 0) (memberMask g) :=
  crossV_one_result hi members nonempty ha writable room type

theorem lscan_result {bad : Word → Bool} {f : Word → List Word → Word} (type : bad g.mood = false) :
    VecResults s c g (lscan d a la bad f s)
      [(d.toNat, fun l => f g.mood (memberVals g a (memberMask g &&& lowLanes (l + 1))))] (marked la a false 0) (memberMask g) :=
  crossV_one_result hi members nonempty ha writable room type

theorem bcast_result (lane : b.toNat < 16) (member : (memberMask g).getLsbD b.toNat = true) :
    VecResults s c g (exec (.bcast d a b la) s) [(d.toNat, fun _ => readV g a.toNat b.toNat)] (marked la a false 0) (memberMask g) := by
  have inside : laneBad g b = false := by simp [laneBad, members.ok, member]
  have ops := members.operands (b := []) (wg := []) ha (by simp) (List.forall_mem_singleton.mpr writable) (by simp) la false
  rw [exec_bcast, execBcast, onGroup_checked (use := { useX g a la [] false [d.toNat] with nd := decide (16 ≤ b.toNat) }) hi rfl rfl
    (decide_eq_false (Nat.not_le.mpr lane)) ops, inside]
  exact vecResults_of_commitVM hi.2.2 _ nonempty (by simp) (List.forall_mem_singleton.mpr d.isLt) room

end

/-! ## Which operation each instruction is -/

theorem exec_of_mem_shuffles : ∀ e ∈ shuffles, ∀ d a b la lb im s, exec (e.1 d a b la lb im) s = shflOp d a b la lb im e.2 s := by
  have low (x : Word) : nfld x.toNat 0 4 = x.toNat % 16 := by simp [nfld]
  simp only [shuffles, List.forall_mem_cons, List.not_mem_nil, false_imp_iff, implies_true, and_true]
  refine ⟨fun d a b la lb im s => ?_, fun _ _ _ _ _ _ _ => rfl, fun _ _ _ _ _ _ _ => rfl, fun d a b la lb im s => ?_⟩
  · rw [exec_shflIdx, execShflIdx]
    simp only [low]
  · rw [exec_shflXor, execShflXor]
    simp only [low]
    rfl

theorem sumWord_eq_clamp : sumWord = fun m xs => clamp m 32 ((xs.map fun x => ival m x).sum) := by
  funext m xs
  rw [sumWord, clamp, List.sum_eq_foldl, List.foldl_map]

theorem notFsum_of_le {m : Word} (h : moodType m ≤ 2) : notFsum m = false := decide_eq_false (Nat.not_lt.mpr h)

theorem notMinmax_of_ne {m : Word} (h : moodType m ≠ 1 ∧ moodType m ≠ 2) : notMinmax m = false := by simp [notMinmax, h]

/-- A reduction and a scan fold the same values, and take the same types. -/
theorem exec_of_mem_laneFolds : ∀ e ∈ laneFolds, ∃ bad : Word → Bool, (∀ m, e.2.2.1 (moodType m) → bad m = false) ∧
    (∀ d a la s, exec (e.1 d a la) s = lred d a la bad (fun g m => e.2.2.2 g.mood (memberVals g a m)) s) ∧
    ∀ d a la s, exec (e.2.1 d a la) s = lscan d a la bad e.2.2.2 s := by
  simp only [laneFolds, List.forall_mem_cons, List.not_mem_nil, false_imp_iff, implies_true, and_true]
  refine ⟨⟨fun _ => false, fun _ _ => rfl, ?redSum, ?scanSum⟩,
    ⟨notMinmax, fun _ => notMinmax_of_ne, fun _ _ _ _ => rfl, fun _ _ _ _ => rfl⟩,
    ⟨notMinmax, fun _ => notMinmax_of_ne, fun _ _ _ _ => rfl, fun _ _ _ _ => rfl⟩,
    ⟨fun _ => false, fun _ _ => rfl, fun _ _ _ _ => rfl, fun _ _ _ _ => rfl⟩,
    ⟨fun _ => false, fun _ _ => rfl, fun _ _ _ _ => rfl, fun _ _ _ _ => rfl⟩,
    ⟨fun _ => false, fun _ _ => rfl, fun _ _ _ _ => rfl, fun _ _ _ _ => rfl⟩⟩
  case redSum =>
    intro d a la s
    rw [exec_lredIadd, execLredIadd, sumWord_eq_clamp]
  case scanSum =>
    intro d a la s
    rw [exec_lscanIadd, execLscanIadd, sumWord_eq_clamp]

/-- Settles O12: each instruction is one operation on the member lanes under the common checks. -/
theorem crossLane : Obligations.CrossLane := by
  unfold Obligations.CrossLane
  refine ⟨?shuffles, ?folds, ?others⟩
  case shuffles =>
    intro e he s c g d a b la lb im hi members nonempty unmarked ha hb writable room
    rw [exec_of_mem_shuffles e he]
    exact shflOp_result hi members nonempty ha writable room unmarked hb e.2
  case folds =>
    intro e he s c g d a la hi members nonempty ha writable room type
    obtain ⟨bad, typed, red, scan⟩ := exec_of_mem_laneFolds e he
    rw [red, scan]
    exact ⟨lred_result hi members nonempty ha writable room (typed _ type), lscan_result hi members nonempty ha writable room (typed _ type)⟩
  case others =>
    intro s c g d a la hi members nonempty ha writable room
    refine ⟨fun floating => ⟨?_, ?_⟩, fun h1 h2 => ?_, ?_, fun b lane member => bcast_result hi members nonempty ha writable room lane member⟩
    · rw [exec_lredFadd, execLredFadd]
      exact lred_result hi members nonempty ha writable room (notFsum_of_le floating)
    · rw [exec_lscanFadd, execLscanFadd]
      exact lscan_result hi members nonempty ha writable room (notFsum_of_le floating)
    · rw [exec_lredAmax, execLredAmax]
      exact lred_result hi members nonempty ha writable room (notMinmax_of_ne ⟨h1, h2⟩)
    · rw [exec_bcastFirst, execBcastFirst]
      exact crossV_one_result hi members nonempty ha writable room rfl

/-! ## Votes (R139) -/

theorem getLsbD_voteBits (old m : BitVec 16) (v : Bool) {l : Nat} (hl : l < 16) :
    (voteBits old m v).getLsbD l = if m.getLsbD l then v else old.getLsbD l := by
  cases v <;> by_cases h : m.getLsbD l = true <;> simp_all [voteBits]

theorem someMember_iff (p m : BitVec 16) : (p &&& m != 0) = true ↔ ∃ l < 16, m.getLsbD l = true ∧ p.getLsbD l = true := by
  constructor
  · intro h
    refine Classical.byContradiction fun none => bne_iff_ne.mp h (BitVec.eq_of_getLsbD_eq fun l hl => ?_)
    by_cases hm : m.getLsbD l = true
    · have hp : p.getLsbD l = false := Bool.eq_false_iff.mpr fun hp => none ⟨l, hl, hm, hp⟩
      simp [hp]
    · simp [hm]
  · rintro ⟨l, -, hm, hp⟩
    refine bne_iff_ne.mpr fun h => ?_
    have bit := congrArg (fun x => x.getLsbD l) h
    simp [hm, hp] at bit

theorem everyMember_iff (p m : BitVec 16) :
    (m != 0 && p &&& m == m) = true ↔ m ≠ 0 ∧ ∀ l < 16, m.getLsbD l = true → p.getLsbD l = true := by
  rw [Bool.and_eq_true, bne_iff_ne, beq_iff_eq]
  refine and_congr_right fun _ => ⟨fun h l _ hm => ?_, fun h => BitVec.eq_of_getLsbD_eq fun l hl => ?_⟩
  · rw [← h, BitVec.getLsbD_and, Bool.and_eq_true] at hm
    exact hm.1
  · rw [BitVec.getLsbD_and, Bool.and_eq_right_iff_imp]
    exact h l hl

theorem firstLane_mem {m : BitVec 16} {l : Nat} (h : l ∈ lanesOf m) : firstLane m ∈ lanesOf m := by
  rw [firstLane]
  cases hm : lanesOf m with
  | nil => rw [hm] at h; cases h
  | cons x xs => exact List.mem_cons_self

/-- Every member's value is that of the lowest where all values agree. -/
theorem allEqual_iff (f : Nat → Word) (m : BitVec 16) : ((lanesOf m).all fun l => f l == f (firstLane m)) = true ↔
    ∀ l < 16, ∀ k < 16, m.getLsbD l = true → m.getLsbD k = true → f l = f k := by
  simp only [List.all_eq_true, beq_iff_eq]
  constructor
  · intro h l hl k hk hml hmk
    exact (h l (mem_lanesOf.mpr ⟨hl, hml⟩)).trans (h k (mem_lanesOf.mpr ⟨hk, hmk⟩)).symm
  · intro h l hl
    obtain ⟨hl16, hml⟩ := mem_lanesOf.mp hl
    obtain ⟨hf16, hmf⟩ := mem_lanesOf.mp (firstLane_mem hl)
    exact h l hl16 _ hf16 hml hmf

section
variable {s : State} {c : Nat} {g : Group} {d a b : R6} {la : Bool} (hi : Issues s c g) (members : Members g)
include hi members

theorem voteP_result {use : Group → Use} {f : Group → BitVec 16 → Bool} {R : Prop} {freed : List Nat} (test : f g (memberMask g) = true ↔ R)
    (marks : (use g).marks = freed) (ill : (use g).ill = false) (nd : (use g).nd = false)
    (ops : Operands g (use g).lanes (use g).rv (use g).wv (use g).rg (use g).wg) : MemberVerdict s c g (voteP use d f s) d.toNat freed R := by
  rw [voteP, onGroup_checked hi rfl ill nd ops, members.ok, ← marks]
  refine ⟨_, pred_commitP hi.2.2 (use g) d.toNat _, fun l hl => ?_⟩
  rw [getLsbD_voteBits _ _ _ hl]
  by_cases h : (memberMask g).getLsbD l = true
  · rwa [if_pos h, if_pos h]
  · rw [if_neg h, if_neg h]

section
variable (hd : d.toNat < 8) (ha : a.toNat < 8)
include hd ha

theorem voteAny_result : MemberVerdict s c g (exec (.voteAny d a) s) d.toNat []
    (∃ l < 16, (memberMask g).getLsbD l = true ∧ (readP g a.toNat).getLsbD l = true) := by
  rw [exec_voteAny, execVoteAny]
  exact voteP_result hi members (someMember_iff _ _) rfl rfl (by simp [hd, ha]) (by simp [Operands])

theorem voteAll_result : MemberVerdict s c g (exec (.voteAll d a) s) d.toNat []
    (memberMask g ≠ 0 ∧ ∀ l < 16, (memberMask g).getLsbD l = true → (readP g a.toNat).getLsbD l = true) := by
  rw [exec_voteAll, execVoteAll]
  exact voteP_result hi members (everyMember_iff _ _) rfl rfl (by simp [hd, ha]) (by simp [Operands])

end

theorem voteBal_result (writable : CanWriteG g d.toNat) (ha : a.toNat < 8) :
    UniResult s c g (exec (.voteBal d a) s) d.toNat [] ((readP g a.toNat &&& memberMask g).setWidth 64) := by
  rw [exec_voteBal, execVoteBal, onGroup_checked hi rfl rfl (by simp [notG_of_lt writable.1, ha]) (by simp [Operands, writable]), members.ok]
  exact uni_commitG hi.2.2 _ _

theorem voteEq_result (hd : d.toNat < 8) (ha : CanReadV g (memberMask g) a.toNat) :
    MemberVerdict s c g (exec (.voteEq d a la) s) d.toNat (marked la a false 0)
      (∀ l < 16, ∀ k < 16, (memberMask g).getLsbD l = true → (memberMask g).getLsbD k = true → readV g a.toNat l = readV g a.toNat k) := by
  rw [exec_voteEq, execVoteEq]
  exact voteP_result hi members (allEqual_iff _ _) rfl rfl (decide_eq_false (Nat.not_le.mpr hd))
    (members.operands (b := []) (wv := []) (wg := []) ha (by simp) (by simp) (by simp) la false)

/-! ## Broadcasts to a g register (R142) -/

section
variable (writable : CanWriteG g d.toNat) (ha : CanReadV g (memberMask g) a.toNat)
include writable ha

theorem bcastFirstg_result : UniResult s c g (exec (.bcastFirstg d a la) s) d.toNat (marked la a false 0)
    (if memberMask g = 0 then 0 else (readV g a.toNat (firstLane (memberMask g))).setWidth 64) := by
  have ops := members.operands (b := []) (wv := []) ha (by simp) (by simp) (List.forall_mem_singleton.mpr writable) la false
  rw [exec_bcastFirstg, execBcastFirstg, onGroup_checked (use := { useX g a la [] false [] with nd := notG d, wg := [d.toNat] }) hi rfl rfl
    (notG_of_lt writable.1) ops, members.ok]
  exact uniResult_of_freed hi.2.2 _ _ _

theorem bcastG_result (lane : b.toNat < 16) (member : (memberMask g).getLsbD b.toNat = true) :
    UniResult s c g (exec (.bcastG d a b la) s) d.toNat (marked la a false 0) ((readV g a.toNat b.toNat).setWidth 64) := by
  have inside : laneBad g b = false := by simp [laneBad, members.ok, member]
  have ops := members.operands (b := []) (wv := []) ha (by simp) (by simp) (List.forall_mem_singleton.mpr writable) la false
  rw [exec_bcastG, execBcastG, onGroup_checked (use := { useX g a la [] false [] with nd := decide (16 ≤ b.toNat) || notG d, wg := [d.toNat] })
    hi rfl rfl (by simp [lane, notG_of_lt writable.1]) ops, inside]
  exact uniResult_of_freed hi.2.2 _ _ _

end
end

/-- Settles O13: each vote is a test of the members' bits or values; the broadcasts free their source and write a g register. -/
theorem votes : Obligations.Votes := by
  unfold Obligations.Votes
  intro s c g hi members
  exact ⟨fun d a hd ha => ⟨voteAny_result hi members hd ha, voteAll_result hi members hd ha⟩,
    fun d a writable ha => voteBal_result hi members writable ha, fun d a la hd ha => voteEq_result hi members hd ha,
    fun d a la writable ha => ⟨bcastFirstg_result hi members writable ha,
      fun b lane member => bcastG_result hi members writable ha lane member⟩⟩

end Sys2Proof.Claims
end

section
/-! PROOFS. Address pairs, conversion, block transforms and packings, and random words (R136, R151, R155 to R157, R205, R206). -/

namespace Sys2Proof.Claims
open Sys2Proof.Machine

theorem namesFrom_two (n : Nat) : namesFrom n 2 = [n, n + 1] := by
  rw [namesFrom, rangeFrom]; rfl

/-! ## cvt -/

section
variable {s : State} {c : Nat} {g : Group} {d a : R6} {part : BitVec 2} {ws wd : Nat} (hi : Issues s c g)
  (source : elemWidth (moodSrc g.mood) = some ws) (target : elemWidth (moodType g.mood) = some wd) (inside : part.toNat < cvtRatio ws wd)
include hi source target inside

/-- A narrowing conversion reads D, which it merges into. -/
theorem cvt_vector {la : Bool} (ha : CanReadV g g.exec a.toNat) (writable : CanWriteV g d.toNat) (merged : wd < ws → CanReadV g g.exec d.toNat)
    (room : HasRoom s g d.toNat) (active : g.exec ≠ 0) :
    VecResult s c g (exec (.cvt false d a la part) s) d.toNat (marked la a false 0) g.exec fun l =>
      cvtWord g.mood ws wd part.toNat (readV g a.toNat l) (readV g d.toNat l) := by
  refine vecResult_of_useV (b := 0) (two := false) (im := false) (rd := false) hi
    ⟨fun _ => rfl, ha, fun h => absurd h (by decide), fun h => absurd h (by decide), writable, room, active⟩ (congrArg (checked s c g _) ?_)
  simp only [source, target, if_neg (Nat.not_le.mpr inside), Bool.false_eq_true, if_false]
  refine checked_ok ?_ s c _
  split
  · next narrow => exact check_ok rfl rfl (by simp [Operands, merged narrow])
  · exact check_ok rfl rfl (by simp [Operands])

theorem cvt_uniform (ha : CanReadG g a.toNat) (writable : CanWriteG g d.toNat) (merged : wd < ws → CanReadG g d.toNat) :
    UniResult s c g (exec (.cvt true d a false part) s) d.toNat []
      ((cvtWord g.mood ws wd part.toNat ((readG g a.toNat).setWidth 32) ((readG g d.toNat).setWidth 32)).setWidth 64) := by
  refine uniResult_of_useU (b := 0) (two := false) (im := false) (rd := false) hi
    ⟨rfl, rfl, ha, fun h => absurd h (by decide), writable, fun h => absurd h (by decide)⟩ (congrArg (checked s c g _) ?_)
  simp only [source, target, if_neg (Nat.not_le.mpr inside), if_true]
  refine checked_ok ?_ s c _
  split
  · next narrow => exact check_ok rfl rfl (by simp [Operands, merged narrow])
  · exact check_ok rfl rfl (by simp [Operands])

end

/-! ## Results in a pair of v registers -/

section
variable {s : State} {c : Nat} {g : Group} {d a b : R6} {la : Bool} (hi : Issues s c g) (even : d.toNat % 2 = 0)
  (low : CanWriteV g d.toNat) (high : CanWriteV g (d.toNat + 1)) (room : RoomFor s g [d.toNat, d.toNat + 1]) (active : g.exec ≠ 0)
include hi even room active

theorem vecResults_of_pair {use : Use} {k : Nat → Group → Out} {x y : Nat → Word} {freed : List Nat}
    (hk : k c g = checked s c g use (commitVM s c g use g.exec [(d.toNat, x), (d.toNat + 1, y)])) (marks : use.marks = freed)
    (ill : use.ill = false) (nd : use.nd = false) (ops : Operands g use.lanes use.rv use.wv use.rg use.wg) :
    VecResults s c g (onGroup s k) [(d.toNat, x), (d.toNat + 1, y)] freed g.exec := by
  rw [onGroup_checked hi hk ill nd ops, ← marks]
  have bound := d.isLt
  exact vecResults_of_commitVM hi.2.2 use active (by simp) (by simp; omega) room

include low high

theorem lea_vector {gb : BitVec 5} {ix : R6} {li sx : Bool} {w : BitVec 3} (hgb : CanReadG g gb.toNat) (hix : CanReadV g g.exec ix.toNat)
    (hw : w ≠ 7) (plain : sx = false → w = 0) :
    VecResults s c g (exec (.lea false d gb ix li sx w) s)
      [(d.toNat, fun l => (readG g gb.toNat + (readV g ix.toNat l).setWidth 64 * BitVec.ofNat 64 (if sx then widthBytes w else 1)).setWidth 32),
       (d.toNat + 1, fun l => ((readG g gb.toNat + (readV g ix.toNat l).setWidth 64 * BitVec.ofNat 64 (if sx then widthBytes w else 1)) >>> 32).setWidth 32)]
      (marked li ix false 0) g.exec := by
  rw [exec_lea, execLea]
  exact vecResults_of_pair hi even room active rfl (List.append_nil _).symm (Bool.or_eq_false_iff.mpr ⟨lea_legal hw plain, rfl⟩) (by simp [even])
    (by simp [Operands, hgb, hix, low, high])

theorem qunpk_vector (packed : moodType g.mood = 5 ∨ moodType g.mood = 6) (ha : CanReadV g g.exec a.toNat) :
    VecResults s c g (exec (.qunpk d a la) s) [(d.toNat, fun l => unpackWord g.mood (readV g a.toNat l) 0),
      (d.toNat + 1, fun l => unpackWord g.mood (readV g a.toNat l) 1)] (marked la a false 0) g.exec := by
  rw [exec_qunpk, execQunpk]
  refine vecResults_of_pair hi even room active (congrArg (checked s c g _) ?type) (List.append_nil _).symm rfl (by simp [even])
    (by simp [Operands, namesFrom_two, ha, low, high])
  case type => rcases packed with h | h <;> simp [h]

omit active

theorem hadOp_vector (inv : Bool) (whole : g.exec = 0xFFFF) (float : moodType g.mood = 0) (evenA : a.toNat % 2 = 0) (evenB : b.toNat % 2 = 0)
    (ha : CanReadV g g.exec a.toNat) (ha' : CanReadV g g.exec (a.toNat + 1)) (hb : CanReadG g b.toNat) (hb' : CanReadG g (b.toNat + 1))
    {ys : List Nat} (hys : ys = (hadBlock inv (philox (nfld (readG g (b.toNat + 1)).toNat 0 32) 0 0 0 (readG g b.toNat).toNat).c0
      (blockVals g a.toNat)).map fun v => finishVal fmtF32 (moodRound g.mood) (moodFtz g.mood) (moodSat g.mood) (plusZero v)) :
    VecResults s c g (hadOp inv d a b la s)
      [(d.toNat, fun l => BitVec.ofNat 32 (ys.getD (2 * l) 0)), (d.toNat + 1, fun l => BitVec.ofNat 32 (ys.getD (2 * l + 1) 0))]
      (if la then [a.toNat, a.toNat + 1] else []) g.exec := by
  subst hys
  have active : g.exec ≠ 0 := by rw [whole]; decide
  have inRange : ¬ 30 < b.toNat := by have := hb'.1; omega
  rw [hadOp]
  refine vecResults_of_pair hi even room active (congrArg (checked s c g _) ?effect) (by rw [namesFrom_two]) rfl
    (by simp [even, evenA, evenB, inRange]) ?operands
  case effect => simp [float, whole]
  case operands =>
    simp only [if_neg active, namesFrom_two]
    simp [Operands, ha, ha', hb, hb', low, high]

end

/-! ## qpack -/

theorem qpack_vector {s : State} {c : Nat} {g : Group} {d a : R6} {la : Bool} (hi : Issues s c g)
    (packed : moodType g.mood = 5 ∨ moodType g.mood = 6) (whole : g.exec = 0xFFFF) (evenA : a.toNat % 2 = 0) (ha : CanReadV g g.exec a.toNat)
    (ha' : CanReadV g g.exec (a.toNat + 1)) (writable : CanWriteV g d.toNat) (room : HasRoom s g d.toNat) :
    VecResult s c g (exec (.qpack d a la) s) d.toNat (if la then [a.toNat, a.toNat + 1] else []) g.exec fun l =>
      BitVec.ofNat 32 ((packWords (moodType g.mood) (blockVals g a.toNat)).getD l 0) := by
  have active : g.exec ≠ 0 := by rw [whole]; decide
  rw [exec_qpack, execQpack]
  refine vecResult_of_commitV hi (congrArg (checked s c g _) ?effect) (by rw [namesFrom_two]) rfl (by simp [evenA]) ?operands active room
  case effect => rcases packed with h | h <;> simp [h, whole]
  case operands =>
    simp only [if_neg active, namesFrom_two]
    simp [Operands, ha, ha', writable]

/-! ## rng -/

theorem exec_of_mem_randoms : ∀ e ∈ randoms, ∀ u d a b la s, exec (e.1 u d a b la) s = rngOp e.2 u d a b la s := by
  simp only [randoms, List.forall_mem_cons, List.not_mem_nil, false_imp_iff, implies_true, and_true]
  and_intros
  all_goals exact fun _ _ _ _ _ _ => rfl

theorem nfld_low (x : DWord) : nfld x.toNat 0 32 = x.toNat % 2 ^ 32 := by
  rw [nfld, Nat.pow_zero, Nat.div_one]

theorem nfld_high (x : DWord) : nfld x.toNat 32 32 = x.toNat / 2 ^ 32 := by
  rw [nfld, Nat.mod_eq_of_lt (by have := x.isLt; omega)]

section
variable {s : State} {c : Nat} {g : Group} {d a b : R6} (hi : Issues s c g) (enabled : featOn s 4 = true) (hb : CanReadG g b.toNat)
  (hb' : CanReadG g (b.toNat + 1)) (sub : Nat)
include hi enabled hb hb'

theorem rngOp_vector {la : Bool} (evenA : a.toNat % 2 = 0) (ha : CanReadV g g.exec a.toNat) (ha' : CanReadV g g.exec (a.toNat + 1))
    (writable : CanWriteV g d.toNat) (room : HasRoom s g d.toNat) (active : g.exec ≠ 0) :
    VecResult s c g (rngOp sub false d a b la s) d.toNat (if la then [a.toNat, a.toNat + 1] else []) g.exec fun l =>
      BitVec.ofNat 32 (rngOut sub (randomWords g b (readV g a.toNat l).toNat (readV g (a.toNat + 1) l).toNat)) := by
  have inRange : ¬ 30 < b.toNat := by have := hb'.1; omega
  simp only [randomWords, ← nfld_low, ← nfld_high]
  exact vecResult_of_commitV hi rfl (by rw [namesFrom_two]) (by simp [enabled]) (by simp [inRange, evenA])
    (by simp [Operands, namesFrom_two, ha, ha', hb, hb', writable]) active room

theorem rngOp_uniform (ha : CanReadG g a.toNat) (writable : CanWriteG g d.toNat) :
    UniResult s c g (rngOp sub true d a b false s) d.toNat []
      (BitVec.ofNat 64 (rngOut sub (randomWords g b ((readG g a.toNat).toNat % 2 ^ 32) ((readG g a.toNat).toNat / 2 ^ 32)))) := by
  have inRange : ¬ 30 < b.toNat := by have := hb'.1; omega
  simp only [randomWords, ← nfld_low, ← nfld_high]
  exact uniResult_of_commitG hi rfl (by simp [enabled]) (by simp [inRange, notG_of_lt ha.1, notG_of_lt writable.1])
    (by simp [Operands, ha, hb, hb', writable])

end

/-- Settles O14: each instruction passes its checks, its type and its mask, and commits its words. -/
theorem formatResults : Obligations.FormatResults := by
  unfold Obligations.FormatResults
  refine ⟨?lea, ?cvt, ?had, ?pack, ?rng⟩
  case lea =>
    intro s c g d gb ix li sx w hi hgb hix even low high room active hw plain
    exact lea_vector hi even low high room active hgb hix hw plain
  case cvt =>
    intro s c g d a la part ws wd hi source target inside
    exact ⟨fun ha writable merged room active => cvt_vector hi source target inside ha writable merged room active,
      fun ha writable merged => cvt_uniform hi source target inside ha writable merged⟩
  case had =>
    intro s c g d a b la hi whole float evenA even evenB ha ha' hb hb' low high room inv ys hys
    have result := hadOp_vector (la := la) hi even low high room inv whole float evenA evenB ha ha' hb hb' hys
    cases inv <;> exact result
  case pack =>
    intro s c g d a la hi packed
    exact ⟨fun whole evenA ha ha' writable room => qpack_vector hi packed whole evenA ha ha' writable room,
      fun active even ha low high room => qunpk_vector hi even low high room active packed ha⟩
  case rng =>
    intro e he s c g d a b la hi enabled hb hb'
    rw [exec_of_mem_randoms e he, exec_of_mem_randoms e he]
    exact ⟨fun evenA ha ha' writable room active => rngOp_vector hi enabled hb hb' e.2 evenA ha ha' writable room active,
      fun ha writable => rngOp_uniform hi enabled hb hb' e.2 ha writable⟩

end Sys2Proof.Claims
end

section
/-! PROOFS. Atomics, tickets and exact accumulators whose accesses pass every check are accepted (R168 to R172): the acceptance of a memory
instruction that may close its region, then the operands and the lanes of each form. -/

namespace Sys2Proof.Claims
open Sys2Proof.Machine

/-! ## Acceptance of an instruction that may acquire or release (R88, R297) -/

/-- A region that closes changes only the number of the next instance and the group's instance and region. -/
theorem maybeClosed_frame (b : Bool) (s : State) (g : Group) :
    ∃ n i r, maybeClosed b s g = ({ s with nextInst := n }, { g with inst := i, region := r }) := by
  cases b with
  | false => exact ⟨_, _, _, rfl⟩
  | true =>
    simp only [maybeClosed, regionClosed, closeRegion, if_true]
    split <;> exact ⟨_, _, _, rfl⟩

/-- The acceptance of a memory instruction that the race detector does not look at. -/
theorem acceptMem_maybeClosed {s : State} {c : Nat} {g : Group} (hr : g.res = .running) (use : Use) {f : MemForm} (noRace : f.race = none)
    (as : List Acc) (rt : List Nat) :
    MemAccepted c (maybeClosed (f.acq || f.rel) s g) (acceptMem s c g use f as rt) f use.marks (entering s g f.space f.size as) := by
  have closed : (if (f.acq || f.rel) = true then closeRegion s g else (s, g)) = maybeClosed (f.acq || f.rel) s g := rfl
  obtain ⟨n, i, r, frame⟩ := maybeClosed_frame (f.acq || f.rel) s g
  rw [frame] at closed ⊢
  refine ⟨_, ?_, counted_acceptMem _ _ _ f.wv f.gd.toList use.marks⟩
  simp only [acceptMem, noRace, closed]
  rw [putGroup_running (by exact (stepPast_res _).trans hr)]
  rfl

/-- Where the operands, the flag, the lanes and the registers pass, the common course of a memory instruction ends in its acceptance. -/
theorem memIssue_maybeClosed {s : State} {c : Nat} {g : Group} {r : State × Group} {use : Use} {f : MemForm} {lane : Nat → LaneChk}
    {a : Nat → Acc} {addr : Nat → DWord} (hr : g.res = .running) (noRace : f.race = none) (closed : r = maybeClosed (f.acq || f.rel) s g)
    (acts : f.u = false → g.exec ≠ 0) (ill : use.ill = false) (nd : use.nd = false)
    (ops : Operands g use.lanes use.rv use.wv use.rg use.wg) (hf : FlagFree g f.fs (flagSel g f.fs))
    (room : needs g f.wv ≤ pipeFree s g.core g.part g.slot) (chk : ∀ l ∈ acting g f.u, ∃ rt, lane l = .ok [a l] rt) :
    MemAccepted c r (memIssue s c g use f none addr lane) f use.marks (entering s g f.space f.size ((acting g f.u).map a)) := by
  obtain ⟨rt, found⟩ := lanesChk_of_ok chk
  obtain ⟨hrv, hwv, hrg, hwg⟩ := ops
  have active : ¬ (!f.u && decide (g.exec = 0)) = true := by cases hu : f.u <;> simp_all
  have flag : noFlag g f.fs = false := by simp [noFlag, hf.2.1]
  have issued : memIssue s c g use f none addr lane = acceptMem s c g use f ((acting g f.u).map a) [] := by
    rw [memIssue, if_neg active, accepted_none (u := { use with ill := use.ill || noFlag g f.fs }) (by simp [ill, flag]) nd hrv hwv hrg hwg hf]
    simp only [lanes_eq_acting, found, noRace, Option.isSome_none, Bool.and_false, Bool.false_eq_true, if_false, filter_no_lane,
      raceChk_nil, withRegs_room room, ← List.map_eq_flatMap]
  rw [issued, closed]
  exact acceptMem_maybeClosed hr use noRace _ _

/-- The same of an instruction on memory. -/
theorem memIssue_global {s : State} {c : Nat} {g : Group} {r : State × Group} {use : Use} {f : MemForm} {wr : Bool} {n : Nat}
    {addr : Nat → DWord} {pa : Nat → Nat} {rt : Nat → Bool} {data : Nat → List Byte} (hr : g.res = .running) (noRace : f.race = none)
    (global : f.space = .global) (closed : r = maybeClosed (f.acq || f.rel) s g)
    (acts : f.u = false → g.exec ≠ 0) (ill : use.ill = false) (nd : use.nd = false)
    (ops : Operands g use.lanes use.rv use.wv use.rg use.wg) (hf : FlagFree g f.fs (flagSel g f.fs))
    (room : needs g f.wv ≤ pipeFree s g.core g.part g.slot) (goes : ∀ l ∈ acting g f.u, GoesTo s g wr false n (addr l) (pa l) (rt l)) :
    MemAccepted c r (memIssue s c g use f none addr fun l => globalLane s g wr false n l (addr l) (data l)) f use.marks
      ((acting g f.u).map fun l => globalAcc s g wr l (addr l) (pa l) (data l)) := by
  have accepted := memIssue_maybeClosed (c := c) (addr := addr) hr noRace closed acts ill nd ops hf room
    fun l hl => ⟨_, globalLane_of_goesTo (goes l hl) l (data l)⟩
  rwa [entering_of_not_scratch (by simp [global])] at accepted

/-! ## atom, atoms and red (R168 to R170) -/

/-- The form checks of F-A find nothing on operands that can be read and written. -/
theorem useA_ok {g : Group} {u : Bool} {d : R6} {gb : BitVec 5} {ix : R6} {k : Nat} {ret li : Bool} (ho : AtomOperands g u d gb ix k ret li)
    {use : Use} (hu : use = useA g u d gb ix li ret k) :
    use.ill = false ∧ use.nd = false ∧ Operands g use.lanes use.rv use.wv use.rg use.wg ∧ use.marks = if li then [ix.toNat] else [] := by
  subst hu
  obtain ⟨even, legal, hgb, ho⟩ := ho
  have illegal : ¬ 14 ≤ k := by omega
  have odd : (aopCas k && decide (d.toNat % 2 = 1)) = false := by
    by_cases cas : k = 13
    · simp [even cas]
    · simp [aopCas, cas]
  have reads {P : Nat → Prop} (one : 2 ≤ k → P d.toNat) (two : k = 13 → P (d.toNat + 1)) :
      ∀ n ∈ (if aopCas k then [d.toNat, d.toNat + 1] else if aopReads k then [d.toNat] else []), P n := by
    by_cases cas : k = 13
    · simp [aopCas, cas, one (by omega), two cas]
    · by_cases reads : 2 ≤ k <;> simp [aopCas, aopReads, cas, reads, one]
  cases u with
  | true =>
    obtain ⟨rfl, hix, hd, one, two, result⟩ := ho
    refine ⟨by simp [useA, illegal], by simp [useA, notG, odd, hd, hix.1], ⟨by simp [useA], by simp [useA], ?_, ?_⟩, rfl⟩
    · simp only [useA, if_true, List.mem_append, List.mem_cons, List.not_mem_nil, or_false]
      rintro n ((rfl | rfl) | hn)
      · exact hgb
      · exact hix
      · exact reads one two n hn
    · cases ret <;> simp_all [useA]
  | false =>
    obtain ⟨-, hix, one, two, result⟩ := ho
    refine ⟨by simp [useA, illegal], by simp [useA, odd], ⟨?_, ?_, by simp [useA, hgb], by simp [useA]⟩, rfl⟩
    · simp only [useA, Bool.false_eq_true, if_false, List.mem_cons]
      rintro n (rfl | hn)
      · exact hix
      · exact reads one two n hn
    · cases ret <;> simp_all [useA]

theorem AtomOperands.active {g : Group} {u : Bool} {d : R6} {gb : BitVec 5} {ix : R6} {k : Nat} {ret li : Bool}
    (ho : AtomOperands g u d gb ix k ret li) (hu : u = false) : g.exec ≠ 0 := by
  subst hu; exact ho.2.2.2.1

theorem atomData_eq_atomBytes (g : Group) (u : Bool) (d l : Nat) : atomData g u d (if u then 8 else 4) l = atomBytes g u d l := by
  cases u <;> rfl

theorem faAddr_eq_memAddr (g : Group) (u : Bool) (gb : BitVec 5) (ix : R6) (n : Nat) : faAddr g u gb ix = memAddr g u gb ix false n := rfl

section
variable {s : State} {c : Nat} {g : Group} {u : Bool} {d : R6} {gb : BitVec 5} {ix : R6} {li ret : Bool} {n k : Nat} {wv : List Nat} {gd : Option Nat}
  (hi : Issues s c g) (hf : FlagFree g false (flagSel g false)) (hn : n = if u then 8 else 4)
  (ho : AtomOperands g u d gb ix k ret li) (room : ret = true → u = false → RoomFor s g [d.toNat])
  (hwv : wv = if ret && !u then [d.toNat] else []) (hgd : gd = if ret && u then some d.toNat else none)
include hi hf hn ho room hwv hgd

/-- An atomic of a space whose lanes pass their checks. -/
theorem atomOp_accepted {sp : Space} {a : Nat → Acc}
    (chk : ∀ l ∈ acting g u, ∃ rt, (if sp = .scratch then scratchLane s g n l (memAddr g u gb ix false n l) (atomBytes g u d.toNat l)
      else globalLane s g (1 < k) false n l (memAddr g u gb ix false n l) (atomBytes g u d.toNat l)) = .ok [a l] rt)
    (sc : Nat) (word : Word) (kind : MemKind) :
    MemAccepted c (maybeClosed (k = 1 || k = 3) s g) (atomOp u d gb ix k sc li ret false word kind sp s)
      { word := word, kind := kind, space := sp, u := u, fs := false, size := n, sc := sc, acq := k = 1, rel := k = 3, wv := wv, gd := gd }
      (if li then [ix.toNat] else []) (entering s g sp n ((acting g u).map a)) := by
  obtain ⟨ill, nd, ops, marks⟩ := useA_ok ho rfl
  have fits : needs g wv ≤ pipeFree s g.core g.part g.slot := by
    subst hwv
    cases ret with
    | false => exact Nat.zero_le _
    | true =>
      cases u with
      | true => exact Nat.zero_le _
      | false => exact needs_le_of_roomFor (room rfl rfl)
  subst hn hwv hgd
  rw [atomOp, onGroup_run hi.1 hi.2.1 hi.2.2, ← marks]
  simp only [faAddr_eq_memAddr g u gb ix (if u then 8 else 4), atomData_eq_atomBytes, Bool.beq_eq_decide_eq]
  exact memIssue_maybeClosed hi.2.2 rfl rfl ho.active (by simpa using ill) nd ops hf fits chk

section
variable {pa : Nat → Nat} {rt : Nat → Bool} (goes : ∀ l ∈ acting g u, GoesTo s g (1 < k) false n (memAddr g u gb ix false n l) (pa l) (rt l))
include goes

/-- An atomic on memory. -/
theorem atomOp_global (sc : Nat) (word : Word) (kind : MemKind) :
    MemAccepted c (maybeClosed (k = 1 || k = 3) s g) (atomOp u d gb ix k sc li ret false word kind .global s)
      { word := word, kind := kind, space := .global, u := u, fs := false, size := n, sc := sc, acq := k = 1, rel := k = 3, wv := wv, gd := gd }
      (if li then [ix.toNat] else [])
      ((acting g u).map fun l => globalAcc s g (1 < k) l (memAddr g u gb ix false n l) (pa l) (atomBytes g u d.toNat l)) := by
  have accepted := atomOp_accepted (sp := .global) hi hf hn ho room hwv hgd (fun l hl => ⟨_, globalLane_of_goesTo (goes l hl) l _⟩) sc word kind
  rwa [entering_of_not_scratch (by decide)] at accepted

theorem atom_accepted {aop : BitVec 4} (hk : k = aop.toNat) (returns : ret = true ↔ k ≠ 2 ∧ k ≠ 3) (sc : BitVec 2) :
    MemAccepted c (maybeClosed (k = 1 || k = 3) s g) (exec (.atom u d gb ix aop sc li) s)
      { word := wordOf (.atom u d gb ix aop sc li), kind := .atomic k, space := .global, u := u, fs := false, size := n,
        sc := sc.toNat, acq := k = 1, rel := k = 3, wv := wv, gd := gd } (if li then [ix.toNat] else [])
      ((acting g u).map fun l => globalAcc s g (1 < k) l (memAddr g u gb ix false n l) (pa l) (atomBytes g u d.toNat l)) := by
  have result : ret = aopReturns k := Bool.eq_iff_iff.mpr (returns.trans (by simp [aopReturns]))
  rw [exec_atom, execAtom, ← hk, ← result]
  exact atomOp_global hi hf hn ho room hwv hgd goes _ _ _

/-- red neither acquires nor releases. -/
theorem red_accepted {aop : BitVec 4} (hk : k = aop.toNat) (noResult : ret = false) (low : 4 ≤ k) (high : k ≤ 11) (sc : BitVec 2) :
    MemAccepted c (s, g) (exec (.red u d gb ix aop sc li) s)
      { word := wordOf (.red u d gb ix aop sc li), kind := .reduce k, space := .global, u := u, fs := false, size := n,
        sc := sc.toNat } (if li then [ix.toNat] else [])
      ((acting g u).map fun l => globalAcc s g (1 < k) l (memAddr g u gb ix false n l) (pa l) (atomBytes g u d.toNat l)) := by
  subst noResult
  have accepted := atomOp_global hi hf hn ho room hwv hgd goes sc.toNat (wordOf (.red u d gb ix aop sc li)) (.reduce k)
  have legal : (decide (k < 4) || decide (11 < k)) = false := by simp [low, high]
  rw [exec_red, execRed, ← hk, legal]
  simpa only [show ¬ k = 1 by omega, show ¬ k = 3 by omega, decide_false, Bool.or_false, hwv, hgd, Bool.false_and, Bool.false_eq_true, if_false, maybeClosed]
    using accepted

end

theorem atoms_accepted {aop : BitVec 4} (hk : k = aop.toNat) (returns : ret = true ↔ k ≠ 2 ∧ k ≠ 3)
    (within : ∀ l ∈ acting g u, (memAddr g u gb ix false n l).toNat % n = 0 ∧ (memAddr g u gb ix false n l).toNat + n ≤ spadBytes s g) :
    MemAccepted c (maybeClosed (k = 1 || k = 3) s g) (exec (.atoms u d gb ix aop li) s)
      { word := wordOf (.atoms u d gb ix aop li), kind := .atomic k, space := .scratch, u := u, fs := false, size := n,
        acq := k = 1, rel := k = 3, wv := wv, gd := gd } (if li then [ix.toNat] else [])
      (entering s g .scratch n ((acting g u).map fun l =>
        newAcc l (memAddr g u gb ix false n l).toNat (memAddr g u gb ix false n l).toNat (atomBytes g u d.toNat l) false)) := by
  have result : ret = aopReturns k := Bool.eq_iff_iff.mpr (returns.trans (by simp [aopReturns]))
  rw [show exec (.atoms u d gb ix aop li) s = execAtoms u d gb ix aop li s from rfl, execAtoms, ← hk, ← result]
  exact atomOp_accepted (sp := .scratch) hi hf hn ho room hwv hgd
    (fun l hl => ⟨[], scratchLane_of_within (within l hl).1 (within l hl).2 l _⟩) _ _ _

end

/-! ## ticket (R172) -/

theorem ticket_accepted {s : State} {c : Nat} {g : Group} {d : R6} {gb : BitVec 5} {ix : R6} {pa : Nat} {rt : Bool} (hi : Issues s c g)
    (hf : FlagFree g false (flagSel g false)) (hgb : CanReadG g gb.toNat) (hix : CanReadG g ix.toNat) (hd : CanReadG g d.toNat)
    (goes : GoesTo s g true false 4 (memAddr g true gb ix false 4 0) pa rt) (sc : BitVec 2) :
    MemAccepted c (regionClosed s g) (exec (.ticket d gb ix sc) s)
      { word := wordOf (.ticket d gb ix sc), kind := .ticket ((readG g d.toNat).toNat % 2 ^ 32), space := .global, u := true, fs := false,
        size := 4, sc := sc.toNat, acq := true, rel := true, gd := some d.toNat }
      [] [globalAcc s g true 0 (memAddr g true gb ix false 4 0) pa []] := by
  rw [exec_ticket, execTicket, onGroup_run hi.1 hi.2.1 hi.2.2, nfld_low, faAddr_eq_memAddr g true gb ix 4]
  have named : (notG d || notG ix) = false := by simp [notG_of_lt hd.1, notG_of_lt hix.1]
  have writable : CanWriteG g d.toNat := ⟨hd.1, hd.2.1⟩
  refine memIssue_global (pa := fun _ => pa) (rt := fun _ => rt) hi.2.2 rfl rfl rfl (by simp) rfl named ?operands hf (Nat.zero_le _) ?goes
  case operands => simp [Operands, hgb, hix, hd, writable]
  case goes =>
    intro l hl
    obtain rfl : l = 0 := by simpa [acting] using hl
    exact goes

/-! ## Exact accumulators (R171) -/

theorem xaccType_of_f32 {g : Group} (h : g.mood.toNat / 2 ^ 5 % 16 = 0) : xaccType g = none := if_pos h

section
variable {s : State} {c : Nat} {g : Group} {d : R6} {gb : BitVec 5} {ix : R6} {sx fs : Bool} {pa : Nat → Nat} {rt : Nat → Bool}
  (hi : Issues s c g) (hf : FlagFree g fs (flagSel g fs)) (active : g.exec ≠ 0) (type : g.mood.toNat / 2 ^ 5 % 16 = 0)
  (hgb : CanReadG g gb.toNat) (hix : CanReadV g g.exec ix.toNat)
include hi hf active type hgb hix

theorem xaccAdd_accepted (hd : CanReadV g g.exec d.toNat)
    (goes : ∀ l ∈ lanesOf g.exec, GoesTo s g true false 32 (memAddr g false gb ix sx 32 l) (pa l) (rt l)) (ld li : Bool) :
    MemAccepted c (s, g) (exec (.xaccAdd d gb ix ld li sx fs) s)
      { word := wordOf (.xaccAdd d gb ix ld li sx fs), kind := .xadd, space := .global, u := false, fs := fs, size := 32, sc := 2 }
      ((if ld then [d.toNat] else []) ++ if li then [ix.toNat] else [])
      ((lanesOf g.exec).map fun l => globalAcc s g true l (memAddr g false gb ix sx 32 l) (pa l)
        (natBytes 4 (flush fmtF32 (g.mood.getLsbD 13) (readV g d.toNat l).toNat))) := by
  rw [exec_xaccAdd, execXaccAdd, onGroup_run hi.1 hi.2.1 hi.2.2, xaccType_of_f32 type]
  simp only [fmAddr_eq_memAddr]
  exact memIssue_global hi.2.2 rfl rfl rfl (fun _ => active) rfl rfl (by simp [Operands, hix, hd, hgb]) hf (Nat.zero_le _) goes

theorem xaccRd_accepted (hd : CanWriteV g d.toNat) (room : RoomFor s g [d.toNat])
    (goes : ∀ l ∈ lanesOf g.exec, GoesTo s g false false 32 (memAddr g false gb ix sx 32 l) (pa l) (rt l)) (li : Bool) :
    MemAccepted c (s, g) (exec (.xaccRd d gb ix li sx fs) s)
      { word := wordOf (.xaccRd d gb ix li sx fs), kind := .xread, space := .global, u := false, fs := fs, size := 32, wv := [d.toNat] }
      (if li then [ix.toNat] else [])
      ((lanesOf g.exec).map fun l => globalAcc s g false l (memAddr g false gb ix sx 32 l) (pa l) []) := by
  rw [exec_xaccRd, execXaccRd, onGroup_run hi.1 hi.2.1 hi.2.2, xaccType_of_f32 type]
  simp only [fmAddr_eq_memAddr]
  exact memIssue_global hi.2.2 rfl rfl rfl (fun _ => active) rfl rfl (by simp [Operands, hix, hd, hgb]) hf (needs_le_of_roomFor room) goes

end

/-- Settles O26: the operands and the lanes of each form pass their checks, so the common course of a memory instruction ends in the acceptance. -/
theorem atomicAccess : Obligations.AtomicAccess := by
  unfold Obligations.AtomicAccess
  intro s c g hi
  refine ⟨?atomics, fun d gb ix sc pa rt hf hgb hix hd goes => ticket_accepted hi hf hgb hix hd goes sc, ?xacc⟩
  case atomics =>
    rintro u d gb ix aop sc li hf n hn k hk ad rfl ret ho room fr rfl wv gd hwv hgd
    refine ⟨?memory, ?scratchpad⟩
    case memory =>
      rintro pa rt goes as rfl
      exact ⟨fun returns => atom_accepted hi hf hn ho room hwv hgd goes hk returns sc,
        fun noResult low high => red_accepted hi hf hn ho room hwv hgd goes hk noResult low high sc⟩
    case scratchpad =>
      intro returns within
      exact ⟨_, scratchAccs_entering s g n (acting g u) (memAddr g u gb ix false n) _,
        by rw [← List.map_eq_flatMap]; exact atoms_accepted hi hf hn ho room hwv hgd hk returns within⟩
  case xacc =>
    intro d gb ix li sx fs pa rt hf active type hgb hix
    exact ⟨fun hd goes ld => xaccAdd_accepted hi hf active type hgb hix hd goes ld li,
      fun hd room goes => xaccRd_accepted hi hf active type hgb hix hd room goes li⟩

end Sys2Proof.Claims
end

section
/-! PROOFS. The presence bits of scratchpad lines (R166), and fences (R167). -/

namespace Sys2Proof.Claims
open Sys2Proof.Machine

/-! ## Sets of numbers -/

@[simp] theorem mem_nsAdd {x k : Nat} {t : NatSet} : x ∈ nsAdd k t ↔ x = k ∨ x ∈ t := by
  induction t with
  | nil => simp [nsAdd]
  | cons y t ih =>
    rw [nsAdd]
    split
    · exact List.mem_cons
    · split
      · next h => simp [h]
      · simp only [List.mem_cons, ih]; exact or_left_comm

@[simp] theorem mem_nsAddAll {x : Nat} {ks : List Nat} {t : NatSet} : x ∈ nsAddAll ks t ↔ x ∈ ks ∨ x ∈ t := by
  induction ks generalizing t with
  | nil => simp [nsAddAll]
  | cons k ks ih =>
    refine (ih (t := nsAdd k t)).trans ?_
    rw [mem_nsAdd, List.mem_cons, ← or_assoc, or_comm (a := x ∈ ks)]

/-! ## The lines that are absent -/

theorem absentOf_tmod_same (s : State) (w : Nat) (f : Workgroup → Workgroup) :
    absentOf { s with wgs := tmod s.wgs w f } w = ((tget s.wgs w).map fun k => (f k).absent).getD [] := by
  simp only [absentOf, tget_tmod_same]
  cases tget s.wgs w <;> rfl

theorem absentOf_eq (s : State) (w : Nat) : absentOf s w = ((tget s.wgs w).map Workgroup.absent).getD [] := by
  simp only [absentOf]
  cases tget s.wgs w <;> rfl

theorem setAbsent_frame (s : State) (w : Nat) (ls : List Nat) : setAbsent s w ls = { s with wgs := (setAbsent s w ls).wgs } := by
  rw [setAbsent]; split <;> rfl

theorem mem_absentOf_setAbsent {s : State} {w : Nat} {ls : List Nat} {x : Nat} :
    x ∈ absentOf (setAbsent s w ls) w ↔ x ∈ absentOf s w ∨ ((tget s.wgs w).isSome = true ∧ x ∈ ls) := by
  rw [setAbsent]
  split
  · next h => simp [List.isEmpty_iff.mp h]
  · rw [absentOf_tmod_same, absentOf_eq]
    cases tget s.wgs w <;> simp [or_comm]

/-- From s to t, no group and no presence bit is changed. -/
def KeepsPresence (s t : State) : Prop := t.groups = s.groups ∧ ∀ w, absentOf t w = absentOf s w

theorem KeepsPresence.trans {s t v : State} (h : KeepsPresence s t) (h' : KeepsPresence t v) : KeepsPresence s v :=
  ⟨h'.1.trans h.1, fun w => (h'.2 w).trans (h.2 w)⟩

theorem KeepsPresence.withOps {s t : State} (h : KeepsPresence s t) (ops : Table MemOp) : KeepsPresence s { t with ops := ops } := h

theorem keepsPresence_foldl {α : Type} {f : State → α → State} (step : ∀ s a, KeepsPresence s (f s a)) (l : List α) (s : State) :
    KeepsPresence s (l.foldl f s) := by
  induction l generalizing s with
  | nil => exact ⟨rfl, fun _ => rfl⟩
  | cons a l ih => exact (step s a).trans (ih _)

theorem keepsPresence_groupSpad (s : State) (ctx w off : Nat) (bs : List Byte) : KeepsPresence s (groupSpad s ctx w off bs) := by
  refine ⟨rfl, fun j => ?_⟩
  simp only [absentOf, groupSpad, hideFrom, writeSpad]
  by_cases h : j = w
  · subst h; rw [tget_tmod_same]; cases tget s.wgs j <;> rfl
  · rw [tget_tmod_ne _ _ h]

/-- An access that was waiting for presence and acts changes bytes, and no presence bit. -/
theorem keepsPresence_actSpad (s : State) (k : Nat) (x : Acc) : KeepsPresence s (actSpad s k x) := by
  have same : KeepsPresence s s := ⟨rfl, fun _ => rfl⟩
  rw [actSpad]
  split
  · exact same
  · split
    · exact same
    · split
      · exact same
      · exact (keepsPresence_groupSpad ..).withOps _
      · split
        · exact same
        · split
          · exact (keepsPresence_groupSpad ..).withOps _
          · exact same
      · exact same

theorem keepsPresence_wakeSpad (s : State) (w : Nat) : KeepsPresence s (wakeSpad s w) :=
  keepsPresence_foldl (fun t (e : Nat × MemOp) => keepsPresence_foldl (fun u x => keepsPresence_actSpad u e.1 x) e.2.accs t) _ s

theorem setPresent_groups (s : State) (w : Nat) (ls : List Nat) : (setPresent s w ls).groups = s.groups := by
  rw [setPresent]
  split
  · rfl
  · exact (keepsPresence_wakeSpad _ w).1

theorem mem_absentOf_setPresent {s : State} {w : Nat} {ls : List Nat} {x : Nat} :
    x ∈ absentOf (setPresent s w ls) w ↔ x ∈ absentOf s w ∧ x ∉ ls := by
  rw [setPresent]
  split
  · next h => simp [List.isEmpty_iff.mp h]
  · rw [(keepsPresence_wakeSpad _ w).2, absentOf_tmod_same, absentOf_eq]
    cases tget s.wgs w <;> simp

/-- Where no scratchpad access of the workgroup is in flight, none acts as lines become present. -/
theorem setPresent_of_idle {s : State} {w : Nat} (idle : ∀ e ∈ s.ops, e.2.space = .scratch → e.2.wg ≠ w) (ls : List Nat) :
    setPresent s w ls = { s with wgs := (setPresent s w ls).wgs } := by
  have none_waits : s.ops.filter (fun e => decide (e.2.space = .scratch) && decide (e.2.wg = w)) = [] :=
    List.filter_eq_nil_iff.mpr fun e he => by simpa using idle e he
  rw [setPresent]
  split
  · rfl
  · simp only [wakeSpad, none_waits, List.foldl_nil]

/-! ## Commands -/

/-- A command that is accepted for a group whose marked names free. -/
theorem cmdAccepted_of_frame {r : State × Group} {c f : Nat} {cmd : Cmd} {freed : List Nat} {h : Group} (hr : r.2.res = .running)
    (frame : h = { addPend (incFlag r.2 f) [] [] with v := h.v }) (regs : ∀ k < 64, h.v.getD k none = if k ∈ freed then none else r.2.v.getD k none) :
    CmdAccepted c r (.next (putGroup { r.1 with nextKey := r.1.nextKey + 1, cmds := tset r.1.cmds r.1.nextKey cmd } c (bump (stepPast h)))) f
      freed [] cmd := by
  have running : h.res = .running := by rw [frame]; exact hr
  rw [putGroup_running (by exact (stepPast_res _).trans running)]
  exact ⟨_, rfl, by rw [step_of_frame frame]; rfl, by rwa [step_of_frame frame]⟩

/-! ## prs.test, prs.clr, prs.set and prs.wait (R166) -/

/-- A vector verdict whose test is made in the active lanes alone. -/
theorem laneVerdict_commitP {s : State} {c : Nat} {g : Group} (hr : g.res = .running) (use : Use) (n : Nat) {f : Nat → Bool} {R : Nat → Prop}
    (test : ∀ l < 16, g.exec.getLsbD l = true → (f l = true ↔ R l)) :
    LaneVerdict s c g (commitP s c g use n (bits16 fun l => if g.exec.getLsbD l then f l else (readP g n).getLsbD l)) n use.marks R := by
  refine ⟨_, pred_commitP hr use n _, fun l hl => ?_⟩
  rw [getLsbD_bits16 _ _ hl]
  by_cases h : g.exec.getLsbD l = true
  · rw [if_pos h, if_pos h]; exact test l hl h
  · rw [if_neg h, if_neg h]

/-- The scratchpad line that a lane of prs names. -/
def prsLine (g : Group) (u : Bool) (gb : BitVec 5) (ix : R6) (l : Nat) : Nat := (memAddr g u gb ix false 1 l).toNat / 128

section
variable {s : State} {c : Nat} {g : Group} {u : Bool} {gb : BitVec 5} {ix : R6} {li : Bool}

theorem prsLines_of_within (within : ∀ l ∈ acting g u, (memAddr g u gb ix false 1 l).toNat < spadBytes s g) : ∃ rt, prsLines s g u gb ix =
    ((acting g u).map fun l => newAcc l (memAddr g u gb ix false 1 l).toNat (memAddr g u gb ix false 1 l).toNat [] false, rt, none) := by
  obtain ⟨rt, found⟩ := lanesChk_of_ok fun l hl => ⟨[], scratchLane_of_within (Nat.mod_one _) (within l hl) l []⟩
  rw [← List.map_eq_flatMap] at found
  exact ⟨rt, by rw [← found, prsLines, fmAddr_eq_memAddr, lanes_eq_acting]⟩

variable (hgb : CanReadG g gb.toNat) (hix : if u then li = false ∧ CanReadG g ix.toNat else CanReadV g g.exec ix.toNat)
include hgb hix

/-- The form checks of prs find nothing on operands that can be read. -/
theorem usePrs_ok {use : Use} (hu : use = usePrs g u gb ix li) : use.ill = false ∧ use.nd = false ∧
    Operands g use.lanes use.rv use.wv use.rg use.wg ∧ use.marks = if li then [ix.toNat] else [] := by
  subst hu
  cases u with
  | true =>
    obtain ⟨rfl, hix⟩ := hix
    exact ⟨rfl, notG_of_lt hix.1, by simp [usePrs, Operands, hgb, hix], rfl⟩
  | false => exact ⟨rfl, rfl, by simp [usePrs, Operands, hgb, show CanReadV g g.exec ix.toNat from hix], rfl⟩

variable (hi : Issues s c g) (within : ∀ l ∈ acting g u, (memAddr g u gb ix false 1 l).toNat < spadBytes s g)
include hi within

/-- A presence instruction that takes effect at once receives the lines of the lanes. -/
theorem prsNow_run (k : State → Nat → Group → Use → List (Nat × Nat) → Out) :
    prsNow u gb ix li false k s = k s c g (usePrs g u gb ix li) ((acting g u).map fun l => (l, prsLine g u gb ix l)) := by
  obtain ⟨ill, nd, ops, -⟩ := usePrs_ok hgb hix rfl
  obtain ⟨rt, found⟩ := prsLines_of_within within
  rw [prsNow, onGroup_run hi.1 hi.2.1 hi.2.2]
  dsimp only
  rw [checked_ok (check_unread_or_read (use := { usePrs g u gb ix li with nd := (usePrs g u gb ix li).nd || false }) ill (by simpa using nd) ops _),
    found]
  simp only [List.map_map, Function.comp_def, newAcc]
  rfl

theorem prsTest_lanes {d : R6} (hd : d.toNat < 8) (hu : u = false) :
    LaneVerdict s c g (exec (.prsTest u d gb ix li) s) d.toNat (if li then [ix.toNat] else []) fun l => prsLine g u gb ix l ∉ absentOf s g.wg := by
  subst hu
  rw [exec_prsTest, execPrsTest, decide_eq_false (Nat.not_le.mpr hd), prsNow_run hgb hix hi within, ← (usePrs_ok hgb hix rfl).2.2.2]
  simp only [Bool.false_eq_true, if_false]
  refine laneVerdict_commitP hi.2.2 _ _ fun l hl active => ?_
  have inLanes : l ∈ lanesOf g.exec := by simp only [mem_lanesOf, hl, active, and_self]
  rw [List.any_map, List.any_eq_true]
  simp only [Function.comp_apply, Bool.and_eq_true, decide_eq_true_eq, Bool.not_eq_true', ← Bool.not_eq_true, List.contains_iff_mem]
  constructor
  · rintro ⟨_, _, rfl, present⟩
    exact present
  · exact fun present => ⟨l, inLanes, rfl, present⟩

theorem prsTest_uniform {d : R6} (hd : d.toNat < 8) (hu : u = true) :
    UniVerdict s c g (exec (.prsTest u d gb ix li) s) d.toNat (prsLine g u gb ix 0 ∉ absentOf s g.wg) := by
  subst hu
  rw [exec_prsTest, execPrsTest, decide_eq_false (Nat.not_le.mpr hd), prsNow_run hgb hix hi within]
  simp only [if_true]
  exact verdict_uni hi.2.2 _ (by simp [acting])

theorem prsClr_done : ∃ t h, exec (.prsClr u gb ix li) s = .next { t with groups := tset s.groups c h } ∧ t = { s with wgs := t.wgs } ∧
    h = { bump (stepPast g) with v := h.v } ∧ (∀ k < 64, h.v.getD k none = if k ∈ (if li then [ix.toNat] else []) then none else g.v.getD k none) ∧
    ∀ x, x ∈ absentOf t g.wg ↔ (x ∈ absentOf s g.wg ∨ ((tget s.wgs g.wg).isSome = true ∧ ∃ l ∈ acting g u, x = prsLine g u gb ix l)) := by
  obtain ⟨h, stepped, frame, regs⟩ := done_freeMarks hi.2.2 (setAbsent s g.wg ((acting g u).map (prsLine g u gb ix))) c (if li then [ix.toNat] else [])
  refine ⟨setAbsent s g.wg ((acting g u).map (prsLine g u gb ix)), h, ?_, setAbsent_frame .., frame, regs, fun x => ?_⟩
  · rw [exec_prsClr, execPrsClr, prsNow_run hgb hix hi within, (usePrs_ok hgb hix rfl).2.2.2, List.map_map]
    refine stepped.trans ?_
    rw [setAbsent_frame]
  · simp only [mem_absentOf_setAbsent, List.mem_map, eq_comm (a := x)]

theorem prsSet_done : ∃ t h, exec (.prsSet u gb ix li) s = .next { t with groups := tset s.groups c h } ∧
    t = setPresent s g.wg ((acting g u).map (prsLine g u gb ix)) ∧
    h = { bump (stepPast g) with v := h.v } ∧ (∀ k < 64, h.v.getD k none = if k ∈ (if li then [ix.toNat] else []) then none else g.v.getD k none) ∧
    (∀ x, x ∈ absentOf t g.wg ↔ (x ∈ absentOf s g.wg ∧ ∀ l ∈ acting g u, x ≠ prsLine g u gb ix l)) ∧
    ((∀ e ∈ s.ops, e.2.space = .scratch → e.2.wg ≠ g.wg) → t = { s with wgs := t.wgs }) := by
  obtain ⟨h, stepped, frame, regs⟩ := done_freeMarks hi.2.2 (setPresent s g.wg ((acting g u).map (prsLine g u gb ix))) c (if li then [ix.toNat] else [])
  refine ⟨setPresent s g.wg ((acting g u).map (prsLine g u gb ix)), h, ?_, rfl, frame, regs, fun x => ?_, fun idle => setPresent_of_idle idle _⟩
  · rw [exec_prsSet, execPrsSet, prsNow_run hgb hix hi within, (usePrs_ok hgb hix rfl).2.2.2, List.map_map]
    refine stepped.trans ?_
    rw [setPresent_groups]
  · simp [mem_absentOf_setPresent, eq_comm]

theorem prsWait_accepted {fs : Bool} (active : u = false → g.exec ≠ 0) (hf : FlagFree g fs (flagSel g fs)) :
    ∃ cmd, CmdAccepted c (s, g) (exec (.prsWait u gb ix li fs) s) (flagSel g fs) (if li then [ix.toNat] else []) [] cmd ∧
      cmd = { newCmd s c g (wordOf (.prsWait u gb ix li fs)) (flagSel g fs) with landed := cmd.landed, started := cmd.started } ∧
      (∀ x, x ∈ cmd.landed ↔ ∃ l ∈ acting g u, x = prsLine g u gb ix l) ∧
      (cmd.started = true ↔ ∀ l ∈ acting g u, prsLine g u gb ix l ∉ absentOf s g.wg) := by
  obtain ⟨ill, nd, ops, marks⟩ := usePrs_ok hgb hix rfl
  obtain ⟨rt, found⟩ := prsLines_of_within within
  have flag : noFlag g fs = false := by simp [noFlag, hf.2.1]
  have acts : ¬ (!u && decide (g.exec = 0)) = true := by cases u <;> simp_all
  obtain ⟨hrv, hwv, hrg, hwg⟩ := ops
  rw [exec_prsWait, execPrsWait, onGroup_run hi.1 hi.2.1 hi.2.2]
  simp only [if_neg acts]
  rw [accepted_none (u := { usePrs g u gb ix li with ill := (usePrs g u gb ix li).ill || noFlag g fs }) (by simp [ill, flag]) nd hrv hwv hrg hwg hf,
    found, ← marks]
  refine ⟨_, cmdAccepted_of_frame (r := (s, g)) hi.2.2 (freeMarks_frame _ _ _) fun k hk => ?regs, rfl, fun x => ?landed, ?started⟩
  case regs => simp [freeMarks_get _ _ _ _ hk, addPend, incFlag, modFlag]
  case landed => simp [newAcc, prsLine, eq_comm]
  case started => simp [newAcc, prsLine]

end

/-! ## fence and fence.sc (R167) -/

theorem acceptFence_accepted {s : State} {c : Nat} {g : Group} (hr : g.res = .running) (word : Word) (sub : Nat) (fs : Bool) (sc : BitVec 2)
    (acq rel : Bool) : CmdAccepted c (regionClosed s g) (acceptFence s c g word sub fs sc acq rel) (flagSel g fs) [] []
      { newCmd (regionClosed s g).1 c g word (flagSel g fs) with sub := sub, sc := sc.toNat, acq := acq, rel := rel } := by
  obtain ⟨n, i, r, frame⟩ := maybeClosed_frame true s g
  have running : (regionClosed s g).2.res = .running := (congrArg (fun x : State × Group => x.2.res) frame).trans hr
  exact cmdAccepted_of_frame running rfl fun k hk => (if_neg List.not_mem_nil).symm

/-- Settles O28: the operands can be read and the lines lie in the scratchpad, so each instruction has its effect on them; the fences pass their
checks and are accepted. -/
theorem presenceAndFences : Obligations.PresenceAndFences := by
  unfold Obligations.PresenceAndFences
  intro s c g hi
  refine ⟨?presence, ?fences⟩
  case presence =>
    intro u gb ix li fs hgb hix ln hln within fr hfr
    obtain rfl : ln = prsLine g u gb ix := funext hln
    subst hfr
    exact ⟨fun d hd => ⟨prsTest_uniform hgb hix hi within hd, prsTest_lanes hgb hix hi within hd⟩, prsClr_done hgb hix hi within,
      prsSet_done hgb hix hi within, prsWait_accepted hgb hix hi within⟩
  case fences =>
    rintro fs sc hf r rfl
    have flag : noFlag g fs = false := by simp [noFlag, hf.2.1]
    refine ⟨fun acq rel ordered => ?fence, ?fenceSc⟩
    case fence =>
      have legal : (noFlag g fs || (!acq && !rel)) = false := by cases acq <;> cases rel <;> simp_all
      rw [exec_fence, execFence, onGroup_run hi.1 hi.2.1 hi.2.2, accepted_none legal rfl (by simp) (by simp) (by simp) (by simp) hf]
      exact acceptFence_accepted hi.2.2 _ 0 fs sc acq rel
    case fenceSc =>
      rw [exec_fenceSc, execFenceSc, onGroup_run hi.1 hi.2.1 hi.2.2, accepted_none flag rfl (by simp) (by simp) (by simp) (by simp) hf]
      exact acceptFence_accepted hi.2.2 _ 1 fs sc true true

end Sys2Proof.Claims
end

section
/-! PROOFS. The page-walk caches (R281, R282, R390): where what they hold agrees with the tables, a walk through them gives what the tables give. -/

namespace Sys2Proof.Machine

/-- What the page-walk caches hold of the walk of an address agrees with the tables under a root (R282). -/
def CachesAgree (s : State) (root asid va : Nat) : Prop :=
  (∀ p, cachedEntry s.walkCache asid va 1 = some p → p = mreadN s.mem (root + 8 * (va / 2 ^ 42 % 8192)) 8) ∧
  ∀ p, cachedEntry s.walkCache asid va 2 = some p →
    p = mreadN s.mem (ptePa (mreadN s.mem (root + 8 * (va / 2 ^ 42 % 8192)) 8) + 8 * (va / 2 ^ 29 % 8192)) 8

theorem getD_of_agrees {α : Type} {o : Option α} {x : α} (h : ∀ p, o = some p → p = x) : o.getD x = x := by
  cases o with
  | none => rfl
  | some p => exact h p rfl

/-- Where a table entry leads is all that a walk goes on with. -/
theorem walkEntry_congr {next next' : Nat → Xlat} (lvl va : Nat) {e : Nat} (h : next (ptePa e) = next' (ptePa e)) :
    walkEntry lvl va e next = walkEntry lvl va e next' := by
  simp only [walkEntry, h]

theorem walkCached_of_agree {s : State} {root asid va : Nat} (hr : tget s.roots asid = some root) (h : CachesAgree s root asid va) :
    walkCached s asid va = walk s asid va := by
  obtain ⟨one, two⟩ := h
  simp only [walkCached, walk, hr, walkFrom, walkBy, getD_of_agrees one, Nat.reduceLT, if_true, Nat.lt_irrefl, if_false]
  rw [walkEntry_congr 1 va]
  simp only [getD_of_agrees two]

/-! ## What a walk leaves in the caches -/

theorem cacheEntry_of_some {s : State} {asid va level p : Nat} (h : cachedEntry s.walkCache asid va level = some p) (addr : Nat) :
    cacheEntry s asid va level addr = s := by
  simp only [cacheEntry, h]

theorem cacheEntry_of_none {s : State} {asid va level : Nat} (h : cachedEntry s.walkCache asid va level = none) (addr : Nat) :
    cacheEntry s asid va level addr = { s with walkCache := s.walkCache ++
      [{ asid := asid, level := level, index := va / 2 ^ levelBits level, pte := mreadN s.mem addr 8 }] } := by
  simp only [cacheEntry, h]

theorem cacheEntry_frame (s : State) (asid va level addr : Nat) :
    cacheEntry s asid va level addr = { s with walkCache := (cacheEntry s asid va level addr).walkCache } := by
  rw [cacheEntry]; split <;> rfl

/-- The entry that enters is the one in memory, where none was held. -/
theorem cachedEntry_cacheEntry_same (s : State) (asid va level addr : Nat) :
    cachedEntry (cacheEntry s asid va level addr).walkCache asid va level =
      some ((cachedEntry s.walkCache asid va level).getD (mreadN s.mem addr 8)) := by
  cases h : cachedEntry s.walkCache asid va level with
  | some p => rw [cacheEntry_of_some h, h]; rfl
  | none =>
    rw [cacheEntry_of_none h]
    rw [cachedEntry, Option.map_eq_none_iff] at h
    simp [cachedEntry, List.find?_append, h]

theorem cachedEntry_cacheEntry_ne (s : State) (asid va addr : Nat) {level other : Nat} (h : other ≠ level) :
    cachedEntry (cacheEntry s asid va level addr).walkCache asid va other = cachedEntry s.walkCache asid va other := by
  cases hp : cachedEntry s.walkCache asid va level with
  | some p => rw [cacheEntry_of_some hp]
  | none => rw [cacheEntry_of_none hp]; simp [cachedEntry, List.find?_append, Ne.symm h]

section
variable {s : State} {root asid va : Nat} (h : CachesAgree s root asid va)
include h

theorem cacheEntry_one_agrees : CachesAgree (cacheEntry s asid va 1 (root + 8 * (va / 2 ^ 42 % 8192))) root asid va := by
  obtain ⟨one, two⟩ := h
  rw [cacheEntry_frame]
  refine ⟨fun p hp => ?_, fun p hp => ?_⟩
  · rw [cachedEntry_cacheEntry_same, getD_of_agrees one] at hp
    exact (Option.some.inj hp).symm
  · rw [cachedEntry_cacheEntry_ne _ _ _ _ (by decide)] at hp
    exact two p hp

theorem cacheEntry_two_agrees {e : Nat} (he : e = mreadN s.mem (root + 8 * (va / 2 ^ 42 % 8192)) 8) :
    CachesAgree (cacheEntry s asid va 2 (ptePa e + 8 * (va / 2 ^ 29 % 8192))) root asid va := by
  obtain ⟨one, two⟩ := h
  subst he
  rw [cacheEntry_frame]
  refine ⟨fun p hp => ?_, fun p hp => ?_⟩
  · rw [cachedEntry_cacheEntry_ne _ _ _ _ (by decide)] at hp
    exact one p hp
  · rw [cachedEntry_cacheEntry_same, getD_of_agrees two] at hp
    exact (Option.some.inj hp).symm

/-- The caches that agree with the tables agree after a walk too. -/
theorem cacheWalk_agrees (hr : tget s.roots asid = some root) (r : Xlat) :
    CachesAgree (cacheWalk s asid va r) root asid va := by
  cases r with
  | xlate => simpa only [cacheWalk, hr] using h
  | prot => simpa only [cacheWalk, hr] using h
  | page l =>
    have first := cacheEntry_one_agrees h
    simp only [cacheWalk, hr]
    split
    · exact h
    · split
      · exact first
      · refine cacheEntry_two_agrees first ?_
        rw [cachedEntry_cacheEntry_same, getD_of_agrees h.1, cacheEntry_frame]
        rfl

end

theorem cacheWalk_frame (s : State) (asid va : Nat) (r : Xlat) : cacheWalk s asid va r = { s with walkCache := (cacheWalk s asid va r).walkCache } := by
  cases hr : tget s.roots asid with
  | none => simp only [cacheWalk, hr]
  | some root =>
    cases r with
    | xlate => simp only [cacheWalk, hr]
    | prot => simp only [cacheWalk, hr]
    | page l =>
      have first := cacheEntry_frame s asid va 1 (root + 8 * (va / 2 ^ 42 % 8192))
      simp only [cacheWalk, hr]
      generalize cacheEntry s asid va 1 (root + 8 * (va / 2 ^ 42 % 8192)) = t at first ⊢
      split
      · rfl
      · split
        · exact first
        · exact (cacheEntry_frame t ..).trans (by rw [first])

/-- A walk leaves the tables as they are. -/
theorem walk_cacheWalk (s : State) (asid va : Nat) (r : Xlat) : walk (cacheWalk s asid va r) asid va = walk s asid va := by
  rw [cacheWalk_frame]; rfl

theorem roots_cacheWalk (s : State) (asid va : Nat) (r : Xlat) : (cacheWalk s asid va r).roots = s.roots := by
  rw [cacheWalk_frame]

/-- What a shootdown leaves in the caches (R390): exactly the entries outside its range. -/
theorem mem_uncache {t : List WalkEntry} {asid lo hi : Nat} {e : WalkEntry} : e ∈ uncache t asid lo hi ↔
    e ∈ t ∧ (e.asid ≠ asid ∨ hi ≤ e.index * 2 ^ levelBits e.level ∨ (e.index + 1) * 2 ^ levelBits e.level ≤ lo) := by
  simp only [uncache, List.mem_filter, Bool.not_eq_true', Bool.and_eq_false_iff, decide_eq_false_iff_not, Nat.not_lt, or_assoc, ne_eq]

end Sys2Proof.Machine
end

section
/-! PROOFS. The answers that a group waits for, poison, and the acknowledgement of a shootdown (R163, R193, R242, R243, R274, R281 to R283, R298, R390). -/

namespace Sys2Proof.Machine

/-! ## Translations (R281, R282) -/

section
variable {s : State} {c : Nat} {g : Group} {va : Nat} (hg : tget s.groups c = some g) (hw : g.want = .walk va) (ha : g.answered = false)
  (hq : inWalk s c = false) (victim : Nat)
include hg hw ha hq

theorem lltlbLookupDone_of_hit {t : TlbEntry} (hit : chipFind s g.core (asidOf s g.launch) va = some t) :
    exec (.lltlbLookupDone c victim) s = .next (answer (fillCore s g.core victim t) c id) := by
  simp [execLltlbLookupDone, hg, hw, ha, hq, hit]

theorem lltlbLookupDone_of_miss (miss : chipFind s g.core (asidOf s g.launch) va = none) :
    exec (.lltlbLookupDone c victim) s
      = .next (sendWalk s { asid := asidOf s g.launch, page := va / 65536, ctx := some c, chip := chipOf g.core }) := by
  simp [execLltlbLookupDone, hg, hw, ha, hq, miss]

end

section
variable {s : State} {q : WalkAsk} {c : Nat} (hc : q.ctx = some c)
include hc

theorem sendWalk_joins {k : Nat} {x : Walk} (h : s.walks.find? (fun w => decide (w.2.asid = q.asid) && decide (w.2.page = q.page)) = some (k, x)) :
    sendWalk s q = { s with walks := tset s.walks k { x with reqs := nsAddAll [c] x.reqs } } := by
  simp [sendWalk, h, hc, nsAddAll]

theorem sendWalk_starts (h : s.walks.find? (fun w => decide (w.2.asid = q.asid) && decide (w.2.page = q.page)) = none) (room : s.walks.length < 1024) :
    sendWalk s q = { s with nextKey := s.nextKey + 1, walks := tset s.walks s.nextKey { asid := q.asid, page := q.page, reqs := [c], chips := [] } } := by
  simp [sendWalk, h, hc, room]

end

theorem sendWalk_waits {s : State} {q : WalkAsk}
    (h : s.walks.find? (fun w => decide (w.2.asid = q.asid) && decide (w.2.page = q.page)) = none) (full : 1024 ≤ s.walks.length) :
    sendWalk s q = { s with walkq := s.walkq ++ [q] } := by
  simp [sendWalk, h, Nat.not_lt.mpr full]

/-- The walks that complete with a result: its own, and with a page those of the id inside it. -/
def completesWith (k asid : Nat) (r : Xlat) (e : Nat × Walk) : Bool :=
  decide (e.1 = k) || (match r with
    | .page l => decide (e.2.asid = asid) && decide (l.va ≤ e.2.page * 65536) && decide (e.2.page * 65536 < l.va + l.size)
    | _ => false)

theorem completesWith_iff {k asid : Nat} {r : Xlat} {e : Nat × Walk} : completesWith k asid r e = true ↔
    e.1 = k ∨ ∃ l, r = .page l ∧ e.2.asid = asid ∧ l.va ≤ e.2.page * 65536 ∧ e.2.page * 65536 < l.va + l.size := by
  cases r <;> simp [completesWith, and_assoc]

/-- What a completed walk enters in the TLBs, and the machine with that; and the fault that it gives where it found no page. -/
def walkResult (t : State) (asid : Nat) : Xlat → Option TlbEntry × State
  | .page l => (some (walkEnters t asid l).1, (walkEnters t asid l).2)
  | _ => (none, t)
def walkFaultOf (r : Xlat) : TrapCode := if r = .prot then .prot else .xlate

theorem walkComplete_eq {s : State} {k : Nat} {w : Walk} (hw : tget s.walks k = some w) {r : Xlat} (hr : r = walkCached s w.asid (w.page * 65536))
    (victim : Nat) {t : State}
    (ht : t = { cacheWalk s w.asid (w.page * 65536) r with walks := s.walks.filter fun e => !completesWith k w.asid r e }) :
    exec (.walkComplete k victim) s = .next (Claims.walkSent (walkResult t w.asid r).2 (s.walks.filter (completesWith k w.asid r)) victim
      (walkResult t w.asid r).1 (walkFaultOf r) s.walkq.length) := by
  subst ht
  rw [exec_walkComplete, execWalkComplete, hw]
  simp only [← hr]
  cases r <;> rfl

/-! ## Checks and race records (R163, R193, R298) -/

theorem checkAnswer_of_waiting {s : State} {c : Nat} {g : Group} (hg : tget s.groups c = some g) (ha : g.answered = false) (hw : g.want = .check) :
    exec (.checkAnswer c) s = .next (answer s c id) := by
  simp [execCheckAnswer, hg, ha, hw]

theorem raceRecordsArrive_of_waiting {s : State} {c : Nat} {g : Group} {secs : List Nat} (hg : tget s.groups c = some g) (ha : g.answered = false)
    (hw : g.want = .race secs) : exec (.raceRecordsArrive c) s
      = .next (answer { s with race := secs.foldl (fun t x => tset t x { recOf s x with holder := some g.core }) s.race } c id) := by
  simp [execRaceRecordsArrive, hg, ha, hw]

/-! ## Poison (R242, R243, R274) -/

theorem registerEccError_corrected (s : State) (c : Nat) :
    exec (.registerEccError c .corrected) s = .next { s with tele := { s.tele with corrected := s.tele.corrected + 1 } } := rfl

section
variable {s : State} {c : Nat} {g : Group} (hg : tget s.groups c = some g)
include hg

theorem registerEccError_vword {n : R6} {r : VReg} (h : g.v.getD n.toNat none = some r) (l : BitVec 4) :
    exec (.registerEccError c (.vword n l)) s = .next (putGroup s c { g with
      v := g.v.setIfInBounds n.toNat (some { r with poison := r.poison ||| BitVec.ofNat 16 (2 ^ l.toNat) }) }) := by
  simp only [exec_registerEccError, execRegisterEccError, hg, h]

theorem registerEccError_greg {n : BitVec 5} (h : n ≠ 0) (hi : Bool) : exec (.registerEccError c (.greg n hi)) s
    = .next (putGroup s c { g with gpoison := g.gpoison ||| BitVec.ofNat 64 (2 ^ (2 * n.toNat + if hi then 1 else 0)) }) := by
  simp only [exec_registerEccError, execRegisterEccError, hg, h, if_false, b2n]

theorem registerEccError_recordHeader (h : inSlot g = false) : exec (.registerEccError c .recordHeader) s = .next (headerError s c g) := by
  simp [execRegisterEccError, hg, h]

end

theorem memoryEccError_poisons (s : State) (line : Nat) :
    ∃ t, exec (.memoryEccError line) s = .next t ∧ (∀ l, l ∈ t.badLines ↔ l = line ∨ l ∈ s.badLines) ∧ t = { s with badLines := t.badLines } :=
  ⟨_, rfl, fun _ => Claims.mem_nsAdd, rfl⟩

/-! ## Shootdowns (R390) -/

theorem shootdownAck_of_ready {s : State} {sd chip : Nat} {x : Shootdown} (hx : tget s.shoots sd = some x) (owes : chip ∈ x.chips)
    (ready : mayAck s chip x.asid x.lo x.hi = true) : exec (.shootdownAck sd chip) s
      = .next (settleShoot { cleanTlbs s chip x.asid x.lo x.hi with shoots := tset s.shoots sd { x with chips := nsDel chip x.chips } } sd) := by
  simp [execShootdownAck, hx, owes, ready]

/-- Settles O42: each event by the equation of its case; a walk through caches that agree with the tables gives what the tables give, and leaves
caches that agree. -/
theorem translationEvents : Obligations.TranslationEvents := by
  unfold Obligations.TranslationEvents
  refine ⟨?lookup, ?completion, ?caches, fun _ _ _ _ _ => mem_uncache, ?answers, ?registers, memoryEccError_poisons, fun s sd x chip => shootdownAck_of_ready⟩
  case lookup =>
    rintro s c g victim va hg hw ha hq asid e rfl rfl
    refine ⟨fun t hit => lltlbLookupDone_of_hit hg hw ha hq victim hit, ?_⟩
    rintro miss w rfl
    rw [lltlbLookupDone_of_miss hg hw ha hq victim miss]
    exact ⟨fun k x joins => congrArg _ (sendWalk_joins rfl joins), fun alone room => congrArg _ (sendWalk_starts rfl alone room),
      fun alone full => congrArg _ (sendWalk_waits alone full)⟩
  case completion =>
    intro s k w victim hw r hr same hsame t ht
    obtain rfl : same = completesWith k w.asid r := funext fun e => Bool.eq_iff_iff.mpr ((hsame e).trans completesWith_iff.symm)
    have completes := walkComplete_eq hw hr victim ht
    refine ⟨?page, ?prot, ?xlate⟩
    case page => rintro l rfl p rfl; exact completes
    case prot => rintro rfl; exact completes
    case xlate => rintro rfl; exact completes
  case caches =>
    rintro s asid va root hroot e1 rfl one two
    refine ⟨walkCached_of_agree hroot ⟨one, two⟩, ?_⟩
    rw [walkCached_of_agree (by rw [roots_cacheWalk]; exact hroot) (cacheWalk_agrees ⟨one, two⟩ hroot _), walk_cacheWalk]
  case answers =>
    exact fun s c g hg ha => ⟨checkAnswer_of_waiting hg ha, fun secs => raceRecordsArrive_of_waiting hg ha⟩
  case registers =>
    exact fun s c g hg => ⟨registerEccError_corrected s c, fun n l r h => registerEccError_vword hg h l,
      fun n hi h => registerEccError_greg hg h hi, registerEccError_recordHeader hg⟩

end Sys2Proof.Machine
end

section
/-! PROOFS. What the events of memory instructions read and write (R20, R164, R165, R168, R172, R235, R271 to R274, R285, R287). -/

namespace Sys2Proof.Machine

/-! ## Loads (R235, R271, R289) -/

/-- The accesses of a lane that are not yet performed. -/
def waitsAt (l : Nat) (x : Acc) : Bool := decide (x.lane = l) && !x.done

/-- A global access that a load performs, with the bytes at its physical address. -/
def loadedAt (s : State) (n : Nat) (x : Acc) : Acc := { x with got := mread s.mem x.addr n, bad := poisonedAt s x.addr n, done := true }

section
variable {s : State} {k : Nat} {o : MemOp} (ho : tget s.ops k = some o) {b : Bool} (kind : o.kind = .load b) {l : Nat}
include ho kind

/-- Below the fabric window a load does not leave the device. -/
theorem performLoad_of_local (low : ∀ x ∈ o.accs, x.lane = l → x.addr < 2 ^ 54) : performLoad s k l = performLane s k l := by
  have none_asks : (o.accs.find? fun x => decide (x.lane = l) && !x.done && decide (2 ^ 54 ≤ x.addr)) = none := by
    refine List.find?_eq_none.mpr fun x hx => ?_
    have := low x hx
    simp only [Bool.and_eq_true, decide_eq_true_eq, not_and]
    intro mine
    have := this mine.1
    omega
  simp only [performLoad, ho, kind, none_asks]

variable (space : o.space = .global) (low : ∀ x ∈ o.accs, x.lane = l → x.addr < 2 ^ 54)
  (ready : ∀ x ∈ o.accs, x.lane = l → x.done = false → accReady s k o x false = true ∧ storesSeen s k o x.addr o.size = [])
include space low ready

/-- A load that nothing holds up reads the bytes of memory, and allocates its lines. -/
theorem performLoad_of_ready : performLoad s k l = (o.accs.filter (waitsAt l)).foldl (fun t x => fillGlobal t o.core (x.addr / 128))
    (putOp s k { o with accs := o.accs.map fun x => if x.lane = l ∧ x.done = false then loadedAt s o.size x else x }) := by
  have mine : ∀ x ∈ o.accs, (decide (x.lane = l) && !x.done && (decide (o.space = .window) || decide (x.addr < 2 ^ 54))) = waitsAt l x := by
    intro x hx
    by_cases h : x.lane = l
    · rw [decide_eq_true (low x hx h), Bool.or_true, Bool.and_true, waitsAt]
    · simp [waitsAt, h]
  have todo := List.filter_congr mine
  have may : (o.accs.filter (waitsAt l)).all (fun x => accReady s k o x false && presentFor s o x) = true := by
    refine List.all_eq_true.mpr fun x hx => ?_
    obtain ⟨hx, waits⟩ := List.mem_filter.mp hx
    simp only [waitsAt, Bool.and_eq_true, decide_eq_true_eq, Bool.not_eq_true'] at waits
    simp [(ready x hx waits.1 waits.2).1, presentFor, space]
  have accs : (mapAccs o (fun x => decide (x.lane = l) && !x.done && (decide (o.space = .window) || decide (x.addr < 2 ^ 54))) fun x =>
      { x with got := (if o.space = .window then winBytes s (tenantOf s o.launch) x.addr o.size else readAcc s k o x).1,
               bad := (if o.space = .window then winBytes s (tenantOf s o.launch) x.addr o.size else readAcc s k o x).2, done := true })
      = { o with accs := o.accs.map fun x => if x.lane = l ∧ x.done = false then loadedAt s o.size x else x } := by
    simp only [mapAccs]
    congr 1
    refine List.map_congr_left fun x hx => ?_
    rw [mine x hx]
    by_cases h : x.lane = l ∧ x.done = false
    · simp [waitsAt, h, loadedAt, readAcc, space, accLen, (ready x hx h.1 h.2).2]
    · have : waitsAt l x = false := by simpa [waitsAt] using h
      simp [this, h]
  have fill : ∀ (t : State) (x : Acc), fillL1 t o x.addr = fillGlobal t o.core (x.addr / 128) := fun t x => by simp only [fillL1, space]
  rw [performLoad_of_local ho kind low, performLane, ho]
  simp only [kind, todo, may, accs, fill, if_true]

/-- With its lines in the L1, it leaves memory as it is. -/
theorem performLoad_mem (cached : ∀ x ∈ o.accs, x.lane = l → x.done = false → x.addr / 128 ∈ (coreOf s o.core).l1) :
    (performLoad s k l).mem = s.mem := by
  rw [performLoad_of_ready ho kind space low ready]
  have filled : ∀ (xs : List Acc) (t : State), (∀ x ∈ xs, x.addr / 128 ∈ (coreOf t o.core).l1) →
      xs.foldl (fun t x => fillGlobal t o.core (x.addr / 128)) t = t := by
    intro xs t h
    induction xs with
    | nil => rfl
    | cons x xs ih =>
      rw [List.foldl_cons, Claims.fillGlobal_of_mem (h x (by simp))]
      exact ih fun y hy => h y (by simp [hy])
  rw [filled _ _ fun x hx => ?_]
  · rfl
  · obtain ⟨hx, waits⟩ := List.mem_filter.mp hx
    simp only [waitsAt, Bool.and_eq_true, decide_eq_true_eq, Bool.not_eq_true'] at waits
    exact cached x hx waits.1 waits.2

end

/-- The lanes of a load whose accesses have been performed land; the last one completes the flag. -/
theorem loadResultLand_of_performed {s : State} {k : Nat} {o : MemOp} (ho : tget s.ops k = some o) {b : Bool} (kind : o.kind = .load b) {m : BitVec 16}
    {ls : List Nat} (hls : ls = lanesOf (m &&& opLanes o &&& ~~~o.landed)) (some_lane : ls ≠ []) {s1 : State} {o1 : MemOp}
    (hs1 : s1 = ls.foldl (fun t l => performLoad t k l) s) (ho1 : tget s1.ops k = some o1) (performed : ∀ x ∈ o1.accs, x.lane ∈ ls → x.done = true)
    {s2 : State} {o2 : MemOp} (hs2 : s2 = ls.foldl (fun t l => landLane t o1 l) s1) (ho2 : o2 = { o1 with landed := o1.landed ||| (m &&& opLanes o1) }) :
    exec (.loadResultLand k m) s = .next (if opLanes o2 &&& ~~~o2.landed = 0 then endOp s2 k o2 (o2.err || o2.accs.any Acc.bad) (errClass o2)
      else putOp s2 k o2) := by
  have all_performed : (o1.accs.all fun x => x.done || !ls.contains x.lane) = true := by
    refine List.all_eq_true.mpr fun x hx => ?_
    by_cases h : x.lane ∈ ls
    · simp [performed x hx h]
    · simp [h]
  subst hs2 ho2
  have nonempty : ls.isEmpty = false := by simpa using some_lane
  simp only [exec_loadResultLand, execLoadResultLand, ho, kind, landLanes, ← hls, ← hs1, ho1, nonempty, all_performed, Bool.not_true, Bool.or_self,
    Bool.false_eq_true, if_false]

/-! ## Stores (R20, R164, R165, R174, R272) -/

section
variable {s : State} {k : Nat} {o : MemOp} (ho : tget s.ops k = some o) (store : isStoreOp o = true)
include ho store

section
variable {l : Nat} {x : Acc} (hx : o.accs.find? (fun x => decide (x.lane = l) && !x.done) = some x)
include hx

theorem storeCommit_of_local (space : o.space = .global) (low : x.addr < 2 ^ 54) (ready : accReady s k o x true = true) : exec (.storeCommit k l) s
    = .next (doneAcc (groupCommit s (some o.core) o.ctx x.addr x.data) k o (fun y => decide (y.lane = l)) false 1) := by
  simp only [exec_storeCommit, execStoreCommit, ho, hx, store, space, Nat.not_le.mpr low, ready, Bool.not_true, Bool.false_eq_true, if_false, if_true]

theorem storeCommit_of_fabric (space : o.space = .global) (high : 2 ^ 54 ≤ x.addr) : exec (.storeCommit k l) s = .next (sendAcc s k o x) := by
  simp only [exec_storeCommit, execStoreCommit, ho, hx, store, space, high, Bool.not_true, Bool.false_eq_true, if_false, if_true]

theorem storeCommit_of_window (space : o.space = .window) (ready : accReady s k o x false = true) {r : State × Bool}
    (hr : r = winStore s (tenantOf s o.launch) x.addr x.data) :
    exec (.storeCommit k l) s = .next (wakeHeld (doneAcc r.1 k o (fun y => decide (y.lane = l)) r.2 2)) := by
  simp [execStoreCommit, ho, hx, store, space, ready, hr]

end

section
variable (ready : ∀ x ∈ o.accs, x.done = false → presentFor s o x = true ∧
    ∀ e ∈ s.ops, e.1 < k → e.2.ctx = o.ctx → e.2.space = o.space → pendsOn e.2 x.addr (accLen o) = false)
include ready

omit ho store in
theorem no_earlier_pends : (o.accs.all fun x => x.done || presentFor s o x && s.ops.all fun e =>
    !(decide (e.1 < k) && decide (e.2.ctx = o.ctx) && decide (e.2.space = o.space) && pendsOn e.2 x.addr (accLen o))) = true := by
  refine List.all_eq_true.mpr fun x hx => ?_
  cases done : x.done with
  | true => rfl
  | false =>
    obtain ⟨present, clear⟩ := ready x hx done
    simp only [Bool.false_or, present, Bool.true_and, List.all_eq_true]
    intro e he
    by_cases earlier : e.1 < k ∧ e.2.ctx = o.ctx ∧ e.2.space = o.space
    · simp [clear e he earlier.1 earlier.2.1 earlier.2.2]
    · rw [Bool.not_eq_true', Bool.and_eq_false_iff]
      exact .inl (by simpa [and_assoc] using earlier)

theorem scratchpadStoreComplete_of_scratch (space : o.space = .scratch) : exec (.scratchpadStoreComplete k) s
    = .next (endOp ((o.accs.filter fun x => !x.done).foldl (fun t x => groupSpad t o.ctx o.wg x.addr x.data) s) k o false 1) := by
  simp only [exec_scratchpadStoreComplete, execScratchpadStoreComplete, ho, store, no_earlier_pends ready, Bool.not_true, Bool.false_eq_true, if_false]
  simp only [space]

theorem scratchpadStoreComplete_of_priv (space : o.space = .priv) : exec (.scratchpadStoreComplete k) s
    = .next (endOp (o.accs.foldl (fun t x => storePriv t o x) s) k o false 1) := by
  simp only [exec_scratchpadStoreComplete, execScratchpadStoreComplete, ho, store, no_earlier_pends ready, Bool.not_true, Bool.false_eq_true, if_false]
  simp only [space]

end

end

/-! ## Atomics (R168 to R172) -/

theorem atomicPerform_of_ready {s : State} {k : Nat} {o : MemOp} {x : Acc} (ho : tget s.ops k = some o) (hx : o.accs.find? (fun x => !x.done) = some x)
    (atom : isAtomOp o = true) (ready : accReady s k o x true = true) (present : presentFor s o x = true) (unfenced : fenceOpen s k o = false)
    (released : o.rel = true → releaseReady s o.ctx o.wg k o.sc = true) {r : State × Bool} (hr : r = performAtom s o x) {last : Bool}
    (hlast : last = (o.accs.all fun y => y.done || decide (y.lane = x.lane))) :
    exec (.atomicPerform k) s = .next (doneAcc (if last = true then landWoken r.1 o else r.1) k o (fun y => decide (y.lane = x.lane)) r.2 1) := by
  have may : (!o.rel || releaseReady s o.ctx o.wg k o.sc) = true := by
    cases h : o.rel with
    | false => rfl
    | true => simp [released h]
  subst hr hlast
  simp only [exec_atomicPerform, execAtomicPerform, ho, hx, atom, ready, present, unfenced, may, Bool.not_false, Bool.and_self, if_true]

theorem performAtom_reduce {o : MemOp} {aop : Nat} (kind : o.kind = .reduce aop) (space : o.space = .global) (s : State) (x : Acc) :
    performAtom s o x = (groupCommit s (some o.core) o.ctx x.addr
      (natBytes o.size (aopNew aop o.size (leNat (mread s.mem x.addr o.size)) (leNat (x.data.take o.size)) 0)), poisonedAt s x.addr o.size) := by
  simp [performAtom, kind, atomWrite, atomBytes, space]

theorem atomicPerform_of_performed {s : State} {k : Nat} {o : MemOp} (ho : tget s.ops k = some o) (atom : isAtomOp o = true)
    (performed : o.accs.find? (fun x => !x.done) = none) : exec (.atomicPerform k) s = .next (doneAcc (landWoken s o) k o (fun _ => false) false 1) := by
  simp only [exec_atomicPerform, execAtomicPerform, ho, performed, atom, if_true]

/-! ## Bytes in memory and words in registers (R235, R272) -/

theorem mget_commitBytes (s : State) (own : Option Nat) (a : Nat) (bs : List Byte) (x : Nat) :
    mget (commitBytes s own a bs).mem x = if a ≤ x ∧ x < a + bs.length then bs.getD (x - a) 0 else mget s.mem x := by
  change mget (mwrite s.mem a bs) x = _
  split
  · next h =>
    have inside := mget_mwrite_in s.mem a bs (x - a) (by omega)
    rwa [show a + (x - a) = x by omega] at inside
  · next h => exact mget_mwrite_out s.mem a bs x (by omega)

section
variable {g : Group} {n tag l : Nat} {w : Word} {bad : Bool} {r : VReg} (hv : g.v.getD n none = some r)
include hv

/-- A word lands in the register that the name still holds, in its lane alone. -/
theorem readV_landV (held : r.tag = tag) (alive : g.alive.getLsbD l = true) {n' l' : Nat} (hn' : n' < 64) (hl' : l' < 16) :
    readV (landV g n tag l w bad) n' l' = if n' = n ∧ l' = l then w else readV g n' l' := by
  simp only [landV, hv, held, alive, decide_true, Bool.and_self, if_true, readV]
  rw [getD_vset _ _ _ _ _ hn']
  by_cases name : n' = n
  · subst name
    rw [if_pos rfl]
    simp only [hv, true_and]
    exact getD_vset _ _ _ _ _ hl'
  · simp [name]

/-- To a name that holds another register, or to a thread that has ended, nothing lands. -/
theorem landV_of_gone (gone : r.tag ≠ tag ∨ g.alive.getLsbD l = false) : landV g n tag l w bad = g := by
  have skipped : (decide (r.tag = tag) && g.alive.getLsbD l) = false := by rcases gone with h | h <;> simp [h]
  simp [landV, hv, skipped]

end

/-- Settles O41: each event by the equation of its case; the bytes and words by reads after writes. -/
theorem memoryPerformed : Obligations.MemoryPerformed := by
  unfold Obligations.MemoryPerformed
  refine ⟨?events, fun s own ctx a bs => rfl, mget_commitBytes, ?landing⟩
  case events =>
    intro s k o ho
    refine ⟨?loads, ?landings, ?stores, ?locals, ?atomics, atomicPerform_of_performed ho⟩
    case loads =>
      intro b l kind space low ready
      exact ⟨performLoad_of_ready ho kind space low ready, performLoad_mem ho kind space low ready⟩
    case landings =>
      intro b m ls s1 o1 kind hls some_lane hs1 ho1 performed s2 o2 hs2 ho2
      exact loadResultLand_of_performed ho kind hls some_lane hs1 ho1 performed hs2 ho2
    case stores =>
      exact fun l x store hx => ⟨storeCommit_of_local ho store hx, storeCommit_of_fabric ho store hx,
        fun space ready r hr => storeCommit_of_window ho store hx space ready hr⟩
    case locals =>
      exact fun store ready => ⟨scratchpadStoreComplete_of_scratch ho store ready, scratchpadStoreComplete_of_priv ho store ready⟩
    case atomics =>
      intro x hx atom ready present unfenced released r hr last hlast
      exact ⟨atomicPerform_of_ready ho hx atom ready present unfenced released hr hlast, fun aop kind space => hr.trans (performAtom_reduce kind space s x)⟩
  case landing =>
    intro g n tag l w bad r hn hl hv
    refine ⟨fun held alive => ⟨?_, fun n' l' hn' hl' other => ?_⟩, landV_of_gone hv⟩
    · rw [readV_landV hv held alive hn hl, if_pos ⟨rfl, rfl⟩]
    · rw [readV_landV hv held alive hn' hl', if_neg (by omega)]

end Sys2Proof.Machine
end

section
/-! PROOFS. What packets that pass the checks do (R207 to R213, R365, R372 to R379). -/

namespace Sys2Proof.Claims
open Sys2Proof.Machine

/-! ## Receiving (R373) -/

/-- A packet that passes the checks has the effect and the reply that its type gives. -/
theorem received_of_fresh {s : State} {type : Nat} {p : Packet} {port : Nat} (fresh : Fresh s type p port) (f : State → State × Option Reply) :
    Received p (.next (receive type p port s f)) (f (takePacket s p)).1 (f (takePacket s p)).2 := by
  obtain ⟨⟨htype, hdst, here⟩, alive, tag, inWindow, new⟩ := fresh
  have alive' : (takePacket s p).sec.zeroised = false := alive
  have tag' : verified (takePacket s p) p = true := tag
  have inWindow' : ¬ p.seq + 65536 < (pairOf (takePacket s p) p.src).top := Nat.not_lt.mpr inWindow
  have new' : tget (pairOf (takePacket s p) p.src).got p.seq = none := new
  simp only [receive, htype, hdst, here, alive', tag', inWindow', new', ne_eq, not_true_eq_false, Bool.true_eq_false, or_self, if_false,
    Bool.not_true, Bool.false_eq_true]
  unfold Received
  rfl

/-- The effect and the reply, named. -/
theorem received_of_eq {s : State} {type : Nat} {p : Packet} {port : Nat} (fresh : Fresh s type p port) {f : State → State × Option Reply}
    {t : State} {r : Option Reply} (hf : f (takePacket s p) = (t, r)) : Received p (.next (receive type p port s f)) t r := by
  have h := received_of_fresh fresh f
  rwa [hf] at h

/-- A packet for a catch slot on a chiplet that runs is received as any other (R387). -/
theorem toSlot_of_runs {s : State} {p : Packet} (runs : SlotRuns s p) (type port : Nat) (f : State → State × Option Reply) :
    toSlot type p port s f = receive type p port s f := by
  obtain ⟨k, hk, active⟩ := runs
  simp only [toSlot, hk, Option.map_some, active]

theorem received_toSlot {s : State} {type : Nat} {p : Packet} {port : Nat} (fresh : Fresh s type p port) (runs : SlotRuns s p)
    {f : State → State × Option Reply} {t : State} {r : Option Reply} (hf : f (takePacket s p) = (t, r)) :
    Received p (.next (toSlot type p port s f)) t r := by
  rw [toSlot_of_runs runs]
  exact received_of_eq fresh hf

/-! ## Exported windows (R374) -/

section
variable {s : State} {p : Packet} {off n : Nat} {w : Bool} {f : Nat → Nat → State × Option Reply}

theorem onExport_of_none (none_there : exportOf s p off n = none) : onExport s p off n w f = (s, some (nackOf p nackNoexport)) := by
  simp only [onExport, none_there]

variable {e : Export} (he : exportOf s p off n = some e)
include he

theorem onExport_of_fault (fault : vfault s (tenantAsid s e.tenant) (e.base + off) n w ≠ none) :
    onExport s p off n w f = (s, some (nackOf p nackProt)) := by
  obtain ⟨x, hx⟩ := Option.ne_none_iff_exists'.mp fault
  simp only [onExport, he, hx]

theorem onExport_of_mapped (mapped : vfault s (tenantAsid s e.tenant) (e.base + off) n w = none) :
    onExport s p off n w f = f (tenantAsid s e.tenant) (e.base + off) := by
  simp only [onExport, he, mapped]

end

/-- What a request to an exported window draws: NACK NOEXPORT, NACK PROT, or what the action at the virtual address gives. -/
theorem received_onExport {s : State} {type : Nat} {p : Packet} {port off n : Nat} {w : Bool} (fresh : Fresh s type p port)
    (f : State → Nat → Nat → State × Option Reply) {u : State} (hu : u = takePacket s p) {o : Out}
    (ho : o = .next (receive type p port s fun t => onExport t p off n w (f t))) :
    (exportOf u p off n = none → Received p o u (some { type := 7, af := 4 * 2 ^ 39 + p.seq, payload := [] })) ∧
    ∀ e asid va, exportOf u p off n = some e → asid = tenantAsid u e.tenant → va = e.base + off →
      (vfault u asid va n w ≠ none → Received p o u (some { type := 7, af := 5 * 2 ^ 39 + p.seq, payload := [] })) ∧
      (vfault u asid va n w = none → Received p o (f u asid va).1 (f u asid va).2) := by
  subst hu ho
  refine ⟨fun unexported => received_of_eq fresh (onExport_of_none unexported), ?_⟩
  rintro e _ _ he rfl rfl
  exact ⟨fun fault => received_of_eq fresh (onExport_of_fault he fault), fun mapped => received_of_eq fresh (onExport_of_mapped he mapped)⟩

/-! ## Replies that a request awaits (R208, R212, R372, R373) -/

section
variable {s : State} {p : Packet} {port : Nat} {x : Sent} {k : Nat}

section
variable (fresh : Fresh s 3 p port) (ready : getWaits s p port = none) (awaited : Awaits (takePacket s p) p (p.af % 2 ^ 39) 2 x k)
include fresh ready awaited

theorem readdataPacket_of_op {o : MemOp} (ho : tget s.ops k = some o) :
    Received p (exec (.readdataPacket p port) s) (landFar (retire (takePacket s p) x) k o x.unit p.payload) none := by
  have inFlight : tget (retire (takePacket s p) x).ops k = some o := ho
  rw [exec_readdataPacket, execReaddataPacket, ready]
  exact received_of_eq fresh (by simp only [pktRead, awaited.1, awaited.2, inFlight])

theorem readdataPacket_of_cmd {c : Cmd} (ho : tget s.ops k = none) (hc : tget s.cmds k = some c) :
    Received p (exec (.readdataPacket p port) s) (landGet (retire (takePacket s p) x) k x.unit c p.payload) none := by
  have none_inFlight : tget (retire (takePacket s p) x).ops k = none := ho
  have held : tget (retire (takePacket s p) x).cmds k = some c := hc
  rw [exec_readdataPacket, execReaddataPacket, ready]
  exact received_of_eq fresh (by simp only [pktRead, awaited.1, awaited.2, none_inFlight, held])

end

theorem atomreplyPacket_received (fresh : Fresh s 5 p port) (awaited : Awaits (takePacket s p) p (p.af % 2 ^ 39) 4 x k) :
    Received p (exec (.atomreplyPacket p port) s) (endAnswered (modCmd (ackPart (retire (takePacket s p) x) k 0) k fun d =>
      { d with result := if d.sub % 16 = 2 then 0 else BitVec.ofNat 64 (leNat (p.payload.take (fatomSize d))) }) k) none :=
  received_of_eq fresh (by simp only [pktAtomic, awaited.1, awaited.2])

theorem resvreplyPacket_received (fresh : Fresh s 9 p port) (awaited : Awaits (takePacket s p) p (p.af % 2 ^ 33) 8 x k) :
    Received p (exec (.resvreplyPacket p port) s) (endAnswered (modCmd (ackPart (retire (takePacket s p) x) k 0) k fun d =>
      if p.af / 2 ^ 33 = 0 then { d with err := true }
      else { d with result := BitVec.ofNat 64 (d.a.toNat % 2 ^ 24 + 2 ^ 24 * (p.af / 2 ^ 33)) }) k) none :=
  received_of_eq fresh (by simp only [pktResv, awaited.1, awaited.2])

theorem ackPacket_received (fresh : Fresh s 6 p port) (sent : sentFor (takePacket s p) p.src (p.af % 2 ^ 39) 6 = some x) :
    Received p (exec (.ackPacket p port) s) (acked (takePacket s p) x) none :=
  received_of_eq fresh (by simp only [pktAck, sent])

theorem nackPacket_received (fresh : Fresh s 7 p port) (sent : sentFor (takePacket s p) p.aux (p.af % 2 ^ 39) 6 = some x) {code : Nat}
    (hcode : code = p.af / 2 ^ 39 % 16) : Received p (exec (.nackPacket p port) s)
      (if code = 2 ∨ code = 3 ∨ code = 7 then again (takePacket s p) x else abortSent (takePacket s p) x (code != 1)) none := by
  subst hcode
  exact received_of_eq fresh (by simp only [pktAck, sent]; rfl)

end

/-! ## Catch slots (R212, R213, R365, R376) -/

section
variable {s : State} {p : Packet} {port : Nat} {z : LzSlot}

section
variable (fresh : Fresh s 8 p port) (runs : SlotRuns s p) (hz : z = lzAt (takePacket s p) (afCore p) (afSlot p))
include fresh runs hz

theorem resvPacket_reserves (opened : z.st = .opened) (dev : z.dev = p.src) (score : z.anyc = true ∨ z.score = p.aux) :
    Received p (exec (.resvPacket p port) s) (setLz (takePacket s p) (afCore p) (afSlot p)
      { z with st := .reserved, rdev := p.src, rcore := p.aux, port := portOf (takePacket s p) p port, last := s.clk })
      (some { type := 9, af := z.rid * 2 ^ 33 + p.seq, payload := [] }) := by
  subst hz
  exact received_toSlot fresh runs (if_pos (by simpa [opened, dev] using score))

theorem resvPacket_refuses (other : z.st ≠ .opened ∨ z.dev ≠ p.src ∨ (z.anyc = false ∧ z.score ≠ p.aux)) :
    Received p (exec (.resvPacket p port) s) (takePacket s p) (some { type := 9, af := p.seq, payload := [] }) := by
  subst hz
  exact received_toSlot fresh runs ((if_neg (by rcases other with h | h | h <;> simp [h])).trans
    (by simp only [pktResvReply, afResv, Nat.zero_mul, Nat.zero_add]))

end

section
variable (fresh : Fresh s 1 p port) (runs : SlotRuns s p) (hz : z = lzAt (takePacket s p) (afCore p) (afSlot p))
  {off n : Nat} (hoff : off = p.af / 4 % 2 ^ 19 * 32) (hn : n = p.payload.length) {fits : Prop}
  (hfits : fits ↔ z.rid = afRid p ∧ (z.st = .reserved ∨ z.st = .filling) ∧ z.rdev = p.src ∧ z.rcore = p.aux ∧ off + n ≤ z.target)
include fresh runs hz hoff hn hfits

theorem catchPacket_fills (fit : fits) {y : LzSlot} (hy : y = { z with
      st := if z.target ≤ z.ctr + n then .full else .filling, ctr := z.ctr + n, last := s.clk, got := nsAddAll (rangeFrom (off / 32) (n / 32)) z.got }) :
    Received p (exec (.catchPacket p port) s) (settleLz (setPresent (setLz (writeSpad (takePacket s p) z.wg (z.area + off) p.payload)
      (afCore p) (afSlot p) y) z.wg (landedLines y)) (afCore p) (afSlot p)) (some { type := 6, af := p.seq, payload := [] }) := by
  rw [hfits] at fit
  subst hz hoff hn hy
  exact received_toSlot fresh runs (if_pos (by simpa only [Bool.and_eq_true, Bool.or_eq_true, decide_eq_true_eq, and_assoc] using fit))

/-- A refused CATCH packet; that of a slot which is TORN has the notice sent again. -/
theorem catchPacket_refused (unfit : ¬ fits) : Received p (exec (.catchPacket p port) s)
    (if z.st = .torn ∧ z.rid = afRid p then sendNotice (takePacket s p) 10 p.src (afCatch z.rid (afCore p) (afSlot p) 0) else takePacket s p)
    (some { type := 7, af := 6 * 2 ^ 39 + p.seq, payload := [] }) := by
  rw [hfits] at unfit
  subst hz hoff hn
  exact received_toSlot fresh runs (if_neg (by simpa only [Bool.and_eq_true, Bool.or_eq_true, decide_eq_true_eq, and_assoc] using unfit))

theorem catchPacket_refuses (unfit : ¬ fits) (other : z.st ≠ .torn ∨ z.rid ≠ afRid p) :
    Received p (exec (.catchPacket p port) s) (takePacket s p) (some { type := 7, af := 6 * 2 ^ 39 + p.seq, payload := [] }) := by
  have refused := catchPacket_refused fresh runs hz hoff hn hfits unfit
  rwa [if_neg fun ⟨torn, rid⟩ => other.elim (· torn) (· rid)] at refused

theorem catchPacket_of_torn (torn : z.st = .torn) (rid : z.rid = afRid p) :
    Received p (exec (.catchPacket p port) s) (sendNotice (takePacket s p) 10 p.src (afCatch z.rid (afCore p) (afSlot p) 0))
      (some { type := 7, af := 6 * 2 ^ 39 + p.seq, payload := [] }) := by
  have refused := catchPacket_refused fresh runs hz hoff hn hfits (by simp [hfits, torn])
  rwa [if_pos ⟨torn, rid⟩] at refused

end

section
variable (fresh : Fresh s 11 p port) (runs : SlotRuns s p) (hz : z = lzAt (takePacket s p) (afCore p) (afSlot p))
include fresh runs hz

theorem abortPacket_tears (rid : z.rid = afRid p) (whole : z.st ≠ .torn) : Received p (exec (.abortPacket p port) s)
    (tearLz (takePacket s p) (afCore p) (afSlot p)) (some { type := 6, af := p.seq, payload := [] }) := by
  subst hz
  exact received_toSlot fresh runs (congrArg (·, some (ackOf p)) ((if_pos rid).trans (if_neg whole)))

theorem abortPacket_of_torn (rid : z.rid = afRid p) (torn : z.st = .torn) : Received p (exec (.abortPacket p port) s)
    (sendNotice (takePacket s p) 10 p.src (afCatch z.rid (afCore p) (afSlot p) 0)) (some { type := 6, af := p.seq, payload := [] }) := by
  subst hz
  exact received_toSlot fresh runs (congrArg (·, some (ackOf p)) ((if_pos rid).trans (if_pos torn)))

theorem abortPacket_of_other (rid : z.rid ≠ afRid p) : Received p (exec (.abortPacket p port) s) (takePacket s p)
    (some { type := 6, af := p.seq, payload := [] }) := by
  subst hz
  exact received_toSlot fresh runs (congrArg (·, some (ackOf p)) (if_neg rid))

end

/-- A fput whose slot has turned TORN (R365): it fails where a packet was not sent or was refused, else its answers decide (log 55). -/
theorem tearPut_of_cmd {v : State} {k : Nat} {c : Cmd} (hc : tget v.cmds k = some c) :
    tearPut v k = if c.phase = 4 ∨ c.landed.length < moveParts c then failCmd v k c else modCmd v k fun d => { d with phase := 5 } := by
  simp only [tearPut, hc]
  rfl

end

/-! ## Reductions (R209, R378) -/

section
variable {s : State} {p : Packet} {port : Nat} {k : RedKey} {js : NatSet} {d : List Byte} (parsed : redParse p.payload = (k, js, d))
include parsed

theorem reducePacket_folds (fresh : Fresh s 12 p port) (noClash : redClash (takePacket s p) k = none)
    (atRanks : inNet (takePacket s p) k.tenant = false) (first : nbit p.af 0 = false) :
    Received p (exec (.reducePacket p port) s) (foldIn (takePacket s p) k js d) (some { type := 6, af := p.seq, payload := [] }) :=
  received_of_eq fresh (by simp only [parsed, noClash, atRanks, first, Bool.false_eq_true, if_false]; rfl)

theorem reducePacket_of_clash (fresh : Fresh s 12 p port) {e : Nat × Cmd} (clash : redClash (takePacket s p) k = some e) :
    Received p (exec (.reducePacket p port) s) (failCmd (takePacket s p) e.1 e.2) (some { type := 6, af := p.seq, payload := [] }) :=
  received_of_eq fresh (by simp only [parsed, clash]; rfl)

theorem redresultPacket_lands (fresh : Fresh s 13 p port) :
    Received p (exec (.redresultPacket p port) s) (landRed (takePacket s p) k d) none :=
  received_of_eq fresh (by simp only [parsed])

end

/-! ## KV hand-offs (R379; log 20) -/

section
variable {s : State} {p : Packet} {port : Nat} (fresh : Fresh s 14 p port) {v : State} {r : Option KvBody}
  (joined : joinPiece (takePacket s p) p.src (p.af % 2 ^ 48) (kvPiece p.payload) = (v, r))
include fresh joined

theorem kvxferPacket_delivers {b : KvBody} (whole : r = some b) : Received p (exec (.kvxferPacket p port) s)
    (deliver v { zoubry := true, peer := p.src, tag := p.af % 2 ^ 48, body := b }) (some { type := 6, af := p.seq, payload := [] }) :=
  received_of_eq fresh (by simp only [joined, whole]; rfl)

theorem kvxferPacket_keeps (part : r = none) :
    Received p (exec (.kvxferPacket p port) s) v (some { type := 6, af := p.seq, payload := [] }) :=
  received_of_eq fresh (by simp only [joined, part]; rfl)

end

/-- Settles O48: each packet is received by the rule of R373, with the effect and the reply of its type. -/
theorem packetEffects : Obligations.PacketEffects := by
  unfold Obligations.PacketEffects
  intro s p port u hu
  refine ⟨?window, ?atomic, ?readdata, ?atomreply, ?ack, ?nack, ?resvreply, ?resv, ?catch_, ?abort, ?torn, ?tearing, ?reduce, ?redresult, ?kvxfer⟩
  case window =>
    intro i type w n listed fresh
    simp only [List.mem_cons, Prod.mk.injEq, List.not_mem_nil, or_false] at listed
    obtain ⟨rfl, rfl, rfl, rfl⟩ | ⟨rfl, rfl, rfl, rfl⟩ := listed
    · obtain ⟨unexported, exported⟩ := received_onExport fresh _ hu (exec_writePacket s)
      refine ⟨unexported, fun e asid va he hasid hva => ?_⟩
      obtain ⟨fault, mapped⟩ := exported e asid va he hasid hva
      exact ⟨fault, fun ok => ⟨fun _ => mapped ok, fun read => absurd read (by decide)⟩⟩
    · obtain ⟨unexported, exported⟩ := received_onExport fresh _ hu (exec_readPacket s)
      refine ⟨unexported, fun e asid va he hasid hva => ?_⟩
      obtain ⟨fault, mapped⟩ := exported e asid va he hasid hva
      exact ⟨fault, fun ok => ⟨fun write => absurd write (by decide), fun _ => mapped ok⟩⟩
  case atomic =>
    rintro fresh sub n off e asid va rfl rfl rfl he hasid hva mapped old rfl
    exact ((received_onExport fresh _ hu (exec_atomicPacket s)).2 e asid va he hasid hva).2 mapped
  all_goals subst hu
  case readdata => exact fun x k fresh ready awaited =>
    ⟨fun o ho => readdataPacket_of_op fresh ready awaited ho, fun c ho hc => readdataPacket_of_cmd fresh ready awaited ho hc⟩
  case atomreply => exact fun x k => atomreplyPacket_received
  case ack => exact fun x => ackPacket_received
  case nack => exact fun x fresh sent code => nackPacket_received fresh sent
  case resvreply => exact fun x k => resvreplyPacket_received
  case resv => exact fun fresh runs z hz => ⟨resvPacket_reserves fresh runs hz, resvPacket_refuses fresh runs hz⟩
  case catch_ =>
    intro fresh runs z off n hz hoff hn fits hfits
    exact ⟨fun fit y hy => catchPacket_fills fresh runs hz hoff hn hfits fit hy, catchPacket_refuses fresh runs hz hoff hn hfits,
      catchPacket_of_torn fresh runs hz hoff hn hfits⟩
  case abort => exact fun fresh runs z hz => ⟨abortPacket_tears fresh runs hz, abortPacket_of_torn fresh runs hz, abortPacket_of_other fresh runs hz⟩
  case torn => exact fun fresh => received_of_fresh fresh _
  case tearing =>
    intro v k c hc
    rw [tearPut_of_cmd hc]
    exact ⟨fun refused => if_pos refused, fun kept sent => if_neg (not_or.mpr ⟨kept, Nat.not_lt.mpr sent⟩)⟩
  case reduce => exact fun fresh k js d parsed => ⟨reducePacket_folds parsed fresh, fun e => reducePacket_of_clash parsed fresh⟩
  case redresult => exact fun fresh k js d parsed => redresultPacket_lands parsed fresh
  case kvxfer => exact fun fresh v r joined => ⟨fun b => kvxferPacket_delivers fresh joined, kvxferPacket_keeps fresh joined⟩

end Sys2Proof.Claims
end

section
/-! PROOFS. The acceptance of engine instructions (R60, R87, R88, R176, R177, R204, R297, R302): the common course of an instruction that is
ready and whose checks pass, and what the checks that several families share find. -/

namespace Sys2Proof.Claims
open Sys2Proof.Machine

/-! ## The common course -/

/-- The group with its flag f noted as an engine's, where the command acquires or releases (R297). -/
def noted (b : Bool) (f : Nat) (g : Group) : Group :=
  if b then { g with engFlags := g.engFlags ||| BitVec.ofNat 12 (2 ^ f) } else g

@[simp] theorem noted_res (b : Bool) (f : Nat) (g : Group) : (noted b f g).res = g.res := by
  cases b <;> rfl

/-- Which flags are an engine's plays no part in where the next word stands. -/
theorem step_engFlags (g : Group) (m : BitVec 12) : bump (stepPast { g with engFlags := m }) = { bump (stepPast g) with engFlags := m } := by
  simp only [bump, stepPast]; repeat' split
  all_goals simp_all

theorem step_noted (b : Bool) (f : Nat) (g : Group) : bump (stepPast (noted b f g)) =
    { bump (stepPast g) with engFlags := if b then g.engFlags ||| BitVec.ofNat 12 (2 ^ f) else g.engFlags } := by
  cases b with
  | false => exact step_engFlags g g.engFlags
  | true => exact step_engFlags g _

/-- What the acceptance of an engine command leaves. -/
theorem acceptE_accepted {s : State} {c : Nat} {g : Group} (hr : g.res = .running) (f : EForm) (enter : State → Nat → Cmd → State) :
    EngineAccepted s c g (.next (acceptE s c g f enter)) f enter := by
  obtain ⟨n, i, r, frame⟩ := maybeClosed_frame (f.acq || f.rel) s g
  have running : (maybeClosed (f.acq || f.rel) s g).2.res = .running := (congrArg (fun x : State × Group => x.2.res) frame).trans hr
  have kept : (maybeClosed (f.acq || f.rel) s g).2.engFlags = g.engFlags := congrArg (fun x : State × Group => x.2.engFlags) frame
  refine ⟨_, _, rfl, rfl, ?_⟩
  change Host.Outcome.next (enter (putGroup _ c (bump (stepPast (noted (f.acq || f.rel) (flagSel g f.fs) _)))) _ _) = _
  rw [putGroup_running (by rw [bump_res, stepPast_res, noted_res]; exact running), step_noted, ← kept]
  rfl

section
variable {s : State} {c : Nat} {g : Group} {srcs : List Nat} {f : EForm}

theorem illE_of_ready (ready : EngineReady s g srcs f) : illE s g f = false := by
  obtain ⟨-, -, ⟨-, flag, -⟩, scope, feat, sys, -⟩ := ready
  have named : noFlag g f.fs = false := by simp [noFlag, flag]
  have idle : (f.sc != 0 && !f.acq && !f.rel) = false := by rcases scope with h | h | h <;> simp [h]
  have wide : (f.sys && (f.acq || f.rel) && f.sc != 3) = false := by
    by_cases h : f.sys = true ∧ (f.acq = true ∨ f.rel = true)
    · simp [sys h.1 h.2]
    · simpa using fun hs ha => absurd ⟨hs, ha⟩ h
  simp only [illE, named, idle, wide, Bool.false_or, Bool.or_false]
  split
  · next b given => simp [feat b (by simp [given])]
  · rfl

/-- An engine instruction that is ready, and whose checks at acceptance find nothing, is accepted. -/
theorem engIssue_accepted (hr : g.res = .running) (ready : EngineReady s g srcs f) {use : Use} (huse : use = useE srcs f.resG)
    (noHold : f.hold = false) {chk : EChk} (ok : chk = .ok) (enter : State → Nat → Cmd → State) :
    EngineAccepted s c g (engIssue s c g use f chk enter) f enter := by
  have legal := illE_of_ready ready
  obtain ⟨reads, writes, flag, -, -, -, room⟩ := ready
  subst huse ok
  rw [engIssue, show EChk.ok.isNd = false from rfl, accepted_none (by simp [useE, legal]) rfl (by simp [useE]) (by simp [useE]) reads writes flag]
  simp only [noHold, room, Bool.or_self, Bool.false_eq_true, if_false]
  exact acceptE_accepted hr f enter

end

/-! ## The command -/

section
variable (s : State) (c : Nat) (g : Group) (f : EForm)

@[simp] theorem cmdOf_sub : (cmdOf s c g f).sub = f.sub := rfl
@[simp] theorem cmdOf_c : (cmdOf s c g f).c = f.c := rfl
@[simp] theorem cmdOf_raw : (cmdOf s c g f).raw = (f.a, f.b, f.c) := rfl
@[simp] theorem cmdOf_tenant : (cmdOf s c g f).tenant = tenantOf s g.launch := rfl

/-- Neither operand of the opcode names a handle or a request (R193, R204). -/
abbrev OperandsPlain (op : Nat) : Prop := 0x68 ≤ op ∧ (op < 0x73 ∨ 0x76 < op)

variable {s c g f}

theorem cmdOf_operands (plain : OperandsPlain f.op) : (cmdOf s c g f).a = f.a ∧ (cmdOf s c g f).b = f.b := by
  obtain ⟨low, high⟩ := plain
  have own : ownOperands s (tenantOf s g.launch) f.op f.a f.b = (f.a, f.b) := by
    rw [ownOperands, if_neg (by simp; omega), if_neg (by simp; omega), if_neg (by simp; omega)]
  exact ⟨congrArg Prod.fst own, congrArg Prod.snd own⟩

end

/-! ## Checks at acceptance -/

@[simp] theorem chkIf_eq_ok {b : Bool} {code : TrapCode} {addr : Nat} : chkIf b code addr = .ok ↔ b = false := by
  cases b <;> simp [chkIf]

@[simp] theorem then_eq_ok {a b : EChk} : a.then b = .ok ↔ a = .ok ∧ b = .ok := by
  cases a <;> simp [EChk.then]

@[simp] theorem chkSpad_eq_ok {s : State} {w off n : Nat} : chkSpad s w off n = .ok ↔ InSpad s w off n := by
  simp [chkSpad, InSpad]

theorem inWindow_eq (a : DWord) : inWindow a = decide (a.toNat / 2 ^ 54 % 2 = 1) := by
  rw [inWindow, BitVec.getLsbD, Nat.testBit_eq_decide_div_mod_eq]

@[simp] theorem chkFab_eq_ok {a : DWord} : chkFab a = .ok ↔ OffWindow a.toNat := by
  simp [chkFab, inWindow_eq, OffWindow]

end Sys2Proof.Claims
end

section
/-! PROOFS. The fabric's instructions on legal operands are accepted (R204, R207 to R214). -/

namespace Sys2Proof.Claims
open Sys2Proof.Machine

/-! ## The checks of each command find nothing on legal operands -/

section
variable {s : State} {w : Nat} {x : Cmd} {a b c : DWord}

/-- The length word is within its limits (R207). -/
theorem lenNd_of_legal (multiple : x.c.toNat % 2 ^ 32 % 32 = 0) (some_bytes : x.c.toNat % 2 ^ 32 ≠ 0) (most : x.c.toNat % 2 ^ 32 ≤ 2 ^ 31)
    (high : if isCatch x then x.c.toNat < 2 ^ 56 ∧ x.c.toNat / 2 ^ 32 % 2 ^ 24 % 32 = 0 else x.c.toNat < 2 ^ 32) : lenNd x = false := by
  have low : lenBytes x = x.c.toNat % 2 ^ 32 := by simp [lenBytes, nfld]
  simp only [lenNd, low, lenOff, nfld, Bool.or_eq_false_iff, decide_eq_false_iff_not, multiple, ne_eq, not_true_eq_false, not_false_eq_true,
    some_bytes, true_and]
  cases hc : isCatch x with
  | true =>
    simp only [hc, if_true] at high ⊢
    simp only [high.2, not_true_eq_false, decide_false, and_true]
    omega
  | false =>
    simp only [hc, Bool.false_eq_true, if_false] at high ⊢
    simp only [decide_eq_false_iff_not]
    omega

/-- The local operand of an fput or fget is l, the remote one r (R207). -/
theorem chkFabric_move {l r : DWord} (hop : x.op = opFput ∧ x.a = l ∧ x.b = r ∨ x.op = opFget ∧ x.a = r ∧ x.b = l)
    (legal : MoveLegal s w (isCatch x) (localSpad x) l.toNat r.toNat x.c.toNat) : chkFabric s w x = .ok := by
  obtain ⟨n, rfl, multiple, some_bytes, most, aligned, far, near⟩ := legal
  have isMove : (x.op = opFput || x.op = opFget) = true := by rcases hop with h | h <;> simp [h]
  have hl : localOperand x = l := by rcases hop with ⟨op, a, b⟩ | ⟨op, a, b⟩ <;> simp [localOperand, op, a, b, opFput, opFget]
  have hr : (if x.op = opFput then x.b else x.a) = r := by rcases hop with ⟨op, a, b⟩ | ⟨op, a, b⟩ <;> simp [op, a, b, opFput, opFget]
  have hb : isCatch x = true → x.b = r := by rcases hop with ⟨op, -, b⟩ | ⟨op, -, -⟩ <;> simp [isCatch, *, opFput, opFget]
  have low : lenBytes x = x.c.toNat % 2 ^ 32 := by simp [lenBytes, nfld]
  have len : lenNd x = false := lenNd_of_legal multiple some_bytes most (by split at far <;> simp_all)
  rw [chkFabric, if_pos isMove, chkMove]
  simp only [hl, hr, low, len, aligned, then_eq_ok, chkIf_eq_ok, Bool.false_or, ne_eq, not_true_eq_false, decide_false, true_and]
  refine ⟨?_, ?_, ?_⟩
  · cases hc : isCatch x <;> cases hs : localSpad x <;> simp_all [inWindow_eq]
  · cases hc : isCatch x <;> simp_all
  · cases hs : localSpad x <;> simp_all

theorem chkFabric_fatom (op : x.op = opFatom) (ha : x.a = a) (window : a.toNat / 2 ^ 54 % 2 = 1)
    (aligned : a.toNat % (if 16 ≤ x.sub then 8 else 4) = 0) : chkFabric s w x = .ok := by
  subst ha
  have whole : x.a.toNat % fatomSize x = 0 := aligned
  have far : inWindow x.a = true := (inWindow_eq x.a).trans (decide_eq_true window)
  simp [chkFabric, op, opFput, opFget, opFatom, far, whole]

/-- The rank-set word of a reduction is in its limits, and the device is among the ranks (R209). -/
theorem rankNd_of_legal {r : DWord} (legal : RanksLegal s r.toNat) : rankNd s r = false := by
  obtain ⟨n, rfl, zero, first, last, most, feat⟩ := legal
  have hfirst : rsFirst r = r.toNat % 2 ^ 12 := by simp [rsFirst, nfld]
  have hcount : rsCount r = r.toNat / 2 ^ 12 % 2 ^ 12 + 1 := rfl
  have alone : (!featOn s 6 && decide (1 < rsCount r)) = false := by
    rcases feat with on | one
    · simp [on]
    · simp [hcount.trans one]
  simp only [rankNd, alone, nfld, zero, ne_eq, not_true_eq_false, decide_false, Bool.false_or, Bool.or_false, Bool.or_eq_false_iff,
    decide_eq_false_iff_not]
  omega

theorem chkFabric_fred (op : x.op = opFred) (ha : x.a = a) (hb : x.b = b) (hc : x.c = c) (ranks : RanksLegal s b.toNat) (lowA : a.toNat < 2 ^ 32)
    (lowC : c.toNat < 2 ^ 44) (hop : c.toNat / 2 ^ 40 ≤ 2) (alignedA : a.toNat % 8 = 0) (alignedC : c.toNat % 8 = 0) {n : Nat}
    (hn : n = (c.toNat / 2 ^ 32 % 2 ^ 8 + 1) * (if c.toNat / 2 ^ 40 = 0 then 8 else 4)) (source : InSpad s w a.toNat n)
    (dest : InSpad s w (c.toNat % 2 ^ 32) n) : chkFabric s w x = .ok := by
  subst ha hb hc
  have oper : redOp x = x.c.toNat / 2 ^ 40 := by
    simp only [redOp, op, if_true, nfld]
    omega
  have bytes : redCount x * recBytes (x.c.toNat / 2 ^ 40) = n := by rw [hn, redCount, if_pos op]; rfl
  have hdst : redDst x = x.c.toNat % 2 ^ 32 := by simp [redDst, nfld]
  have checks : chkFabric s w x = chkFred s w x := by simp [chkFabric, op, opFput, opFget, opFatom, opFred]
  rw [checks]
  simp only [chkFred, then_eq_ok, chkIf_eq_ok, chkSpad_eq_ok, bytes, hdst, oper, rankNd_of_legal ranks, Bool.or_false, Bool.or_eq_false_iff,
    decide_eq_false_iff_not]
  exact ⟨by omega, by omega, by omega, source, dest⟩

theorem chkFabric_xred (op : x.op = opXred) (ha : x.a = a) (hb : x.b = b) (hc : x.c = c) (ranks : RanksLegal s b.toNat) (lowA : a.toNat < 2 ^ 32)
    (lowC : c.toNat < 2 ^ 49) {n : Nat} (hn : n = c.toNat / 2 ^ 32 % 2 ^ 16) (some_blocks : 0 < n) (most : n ≤ 1024) (alignedA : a.toNat % 64 = 0)
    (alignedC : c.toNat % 2 ^ 32 % 128 = 0) (source : InSpad s w a.toNat (64 * n))
    (dest : x.sub ≠ 0 → InSpad s w (c.toNat % 2 ^ 32) (128 * n)) : chkFabric s w x = .ok := by
  subst ha hb hc
  have count : redCount x = n := by rw [hn, redCount, op]; rfl
  have hdst : redDst x = x.c.toNat % 2 ^ 32 := by simp [redDst, nfld]
  have checks : chkFabric s w x = chkXred s w x := by simp [chkFabric, op, opFput, opFget, opFatom, opFred, opXred]
  have destChk : (if x.sub = 0 then EChk.ok else chkSpad s w (x.c.toNat % 2 ^ 32) (128 * n)) = .ok := by
    split
    · rfl
    · next other => exact chkSpad_eq_ok.mpr (dest other)
  rw [checks]
  simp only [chkXred, then_eq_ok, chkIf_eq_ok, chkSpad_eq_ok, count, hdst, destChk, rankNd_of_legal ranks, Bool.or_false, Bool.or_eq_false_iff,
    decide_eq_false_iff_not]
  exact ⟨by omega, by omega, by omega, source, trivial⟩

theorem chkFabric_lzres (op : x.op = opLzres) (ha : x.a = a) (low : a.toNat < 2 ^ 24) : chkFabric s w x = .ok := by
  simpa [chkFabric, op, opFput, opFget, opFatom, opFred, opXred, opLzres, ha] using low

theorem chkFabric_lzarm (op : x.op = opLzarm) (ha : x.a = a) (hb : x.b = b) (hc : x.c = c) (slot : a.toNat < 16) (lowB : b.toNat < 2 ^ 56)
    (lowC : c.toNat < 2 ^ 21) (multiple : b.toNat / 2 ^ 32 % 32 = 0) (aligned : b.toNat % 2 ^ 32 % 128 = 0)
    (area : InSpad s w (b.toNat % 2 ^ 32) (b.toNat / 2 ^ 32)) : chkFabric s w x = .ok := by
  subst ha hb hc
  have low : nfld x.b.toNat 0 32 = x.b.toNat % 2 ^ 32 := nfld_low x.b
  have high : nfld x.b.toNat 32 24 = x.b.toNat / 2 ^ 32 := by rw [nfld]; omega
  have checks : chkFabric s w x = chkArm s w x := by simp [chkFabric, op, opFput, opFget, opFatom, opFred, opXred, opLzres, opLzarm]
  rw [checks]
  simp only [chkArm, low, high, then_eq_ok, chkIf_eq_ok, chkSpad_eq_ok, Bool.or_eq_false_iff, decide_eq_false_iff_not]
  exact ⟨by omega, by omega, area⟩

/-- lzrel, lzq.rd and lzq.wait (R214). -/
theorem chkFabric_slot (op : x.op = opLzrel ∨ x.op = opLzq) (ha : x.a = a) (slot : a.toNat < 16) : chkFabric s w x = .ok := by
  rcases op with op | op <;> simp [chkFabric, op, opFput, opFget, opFatom, opFred, opXred, opLzres, opLzarm, opLzrel, opLzq, ha, slot]

end

/-! ## The instructions -/

section
variable {s : State} {c : Nat} {g : Group} (hi : Issues s c g) {i : Instr} {op sub : Nat} {ga gb gc res : Option (BitVec 5)} {fs : Bool}
  {sc : BitVec 2} {acq rel : Bool} {feat : Option Nat} {sys : Bool} {f : EForm} (hf : f = eform g i op sub ga gb gc res fs sc acq rel feat sys)
  (hfeat : feat = if op = opXred then none else some 6) (hsys : sys = (decide (op = opFput) || decide (op = opFget) || decide (op = opFatom)))
include hi hf hfeat hsys

/-- The common course of a fabric instruction, in the statements' words. -/
theorem fabOp_issues : fabOp op sub ga gb gc res fs sc acq rel (wordOf i) s =
    engIssue s c g { useE (([ga, gb, gc].filterMap id).map BitVec.toNat) f.resG with ill := fatomIll op sub } f
      (chkFabric s g.wg (cmdOf s c g f)) enterFabric := by
  subst hf hfeat hsys
  rw [fabOp, onGroup_run hi.1 hi.2.1 hi.2.2]
  cases ga <;> cases gb <;> cases gc <;> rfl

/-- A fabric instruction that is ready and whose operands are legal is accepted. -/
theorem fabOp_accepted (plain : OperandsPlain op) (ready : EngineReady s g (([ga, gb, gc].filterMap id).map BitVec.toNat) f)
    (legal : fatomIll op sub = false)
    (chk : ∀ x : Cmd, x.op = op → x.sub = sub → x.a = f.a → x.b = f.b → x.c = f.c → chkFabric s g.wg x = .ok) (run : exec i s = fabOp op sub ga gb gc res fs sc acq rel (wordOf i) s) :
    EngineAccepted s c g (exec i s) f enterFabric := by
  have hop : f.op = op := by rw [hf]; rfl
  obtain ⟨ha, hb⟩ : (cmdOf s c g f).a = f.a ∧ (cmdOf s c g f).b = f.b := cmdOf_operands (hop ▸ plain)
  rw [run, fabOp_issues hi hf hfeat hsys, legal]
  exact engIssue_accepted hi.2.2 ready rfl (by rw [hf]; rfl) (chk (cmdOf s c g f) hop (by rw [hf]; rfl) ha hb rfl) enterFabric

end

/-- The forms of fput and fget: their course, which operand is the local one, and what the two last components say (R207). -/
theorem moveForms_run {e : EWord3 × Nat × Nat × Bool × Bool} (listed : e ∈ moveForms) (ga gb gc : BitVec 5) (fs : Bool) (sc : BitVec 2)
    (acq rel : Bool) (s : State) :
    exec (e.1 ga gb gc fs sc acq rel) s
      = fabOp e.2.1 e.2.2.1 (some ga) (some gb) (some gc) none fs sc acq rel (wordOf (e.1 ga gb gc fs sc acq rel)) s ∧
    (e.2.1 = 0x68 ∨ e.2.1 = 0x69) ∧
    ∀ x : Cmd, x.op = e.2.1 → x.sub = e.2.2.1 → isCatch x = e.2.2.2.1 ∧ localSpad x = e.2.2.2.2 := by
  simp only [moveForms, List.mem_cons, List.not_mem_nil, or_false] at listed
  rcases listed with rfl | rfl | rfl | rfl | rfl | rfl <;>
    exact ⟨rfl, by decide, fun x op sub => by simp [isCatch, localSpad, op, sub, opFput]⟩

/-- Settles O33: each instruction takes the common course of an engine instruction, and the checks of its command find nothing. -/
theorem fabricAccepted : Obligations.FabricAccepted := by
  unfold Obligations.FabricAccepted
  intro s c g ga gb gc fs sc acq rel hi
  refine ⟨?move, ?fatom, ?fred, ?lzres, ?lzarm, ?slot, ?xred⟩
  case move =>
    intro e listed f hf ready legal
    obtain ⟨run, isMove, forms⟩ := moveForms_run listed ga gb gc fs sc acq rel s
    rcases isMove with put | get
    · rw [if_pos put] at legal
      rw [put] at hf run forms
      refine fabOp_accepted hi hf rfl rfl (by decide) ready rfl (fun x op sub ha hb hc => ?_) run
      obtain ⟨toCatch, spad⟩ := forms x op sub
      exact chkFabric_move (.inl ⟨op, ha, hb⟩) (by rwa [toCatch, spad, hc])
    · rw [if_neg (by rw [get]; decide)] at legal
      rw [get] at hf run forms
      refine fabOp_accepted hi hf rfl rfl (by decide) ready rfl (fun x op sub ha hb hc => ?_) run
      obtain ⟨toCatch, spad⟩ := forms x op sub
      exact chkFabric_move (.inr ⟨op, ha, hb⟩) (by rwa [toCatch, spad, hc])
  case fatom =>
    intro sub defined f hf ready window aligned
    exact fabOp_accepted hi hf rfl rfl (by decide) ready (by simpa [fatomIll, opFatom] using defined)
      (fun x op hsub ha _ _ => chkFabric_fatom op ha window (by rwa [hsub])) rfl
  case fred =>
    intro f hf ready ranks lowA lowC oper alignedA alignedC n hn source dest
    exact fabOp_accepted hi hf rfl rfl (by decide) ready rfl
      (fun x op _ ha hb hc => chkFabric_fred op ha hb hc ranks lowA lowC oper alignedA alignedC hn source dest) rfl
  case lzres =>
    exact fun f hf ready low => fabOp_accepted hi hf rfl rfl (by decide) ready rfl (fun x op _ ha _ _ => chkFabric_lzres op ha low) rfl
  case lzarm =>
    intro f hf ready slot lowB lowC multiple aligned area
    exact fabOp_accepted hi hf rfl rfl (by decide) ready rfl
      (fun x op _ ha hb hc => chkFabric_lzarm op ha hb hc slot lowB lowC multiple aligned area) rfl
  case slot =>
    intro f i op sub res listed hf ready low
    simp only [List.mem_cons, Prod.mk.injEq, List.not_mem_nil, or_false] at listed
    obtain ⟨rfl, rfl, rfl, rfl⟩ | ⟨rfl, rfl, rfl, rfl⟩ | ⟨rfl, rfl, rfl, rfl⟩ := listed
    · exact fabOp_accepted hi hf rfl rfl (by decide) ready rfl (fun x op _ ha _ _ => chkFabric_slot (.inl op) ha low) rfl
    · exact fabOp_accepted hi hf rfl rfl (by decide) ready rfl (fun x op _ ha _ _ => chkFabric_slot (.inr op) ha low) rfl
    · exact fabOp_accepted hi hf rfl rfl (by decide) ready rfl (fun x op _ ha _ _ => chkFabric_slot (.inr op) ha low) rfl
  case xred =>
    intro f i sub listed hf ready ranks lowA lowC n hn some_blocks most alignedA alignedC source dest
    simp only [List.mem_cons, Prod.mk.injEq, List.not_mem_nil, or_false] at listed
    obtain ⟨rfl, rfl⟩ | ⟨rfl, rfl⟩ := listed
    · exact fabOp_accepted hi hf rfl rfl (by decide) ready rfl (fun x op hsub ha hb hc =>
        chkFabric_xred op ha hb hc ranks lowA lowC hn some_blocks most alignedA alignedC source fun other => absurd hsub other) rfl
    · exact fabOp_accepted hi hf rfl rfl (by decide) ready rfl (fun x op hsub ha hb hc =>
        chkFabric_xred op ha hb hc ranks lowA lowC hn some_blocks most alignedA alignedC source fun _ => dest rfl) rfl

end Sys2Proof.Claims
end

section
/-! PROOFS. The sampling and request instructions on legal operands are accepted (R204, R215 to R221). -/

namespace Sys2Proof.Claims
open Sys2Proof.Machine

/-! ## The request that a word names (R204, R402; log 56) -/

section
variable {s : State} {c : Nat} {g : Group} {f : EForm}

/-- In the command, the request word names the request as this device numbers it; its other fields and the second operand stand. -/
theorem cmdOf_request (op : 0x73 ≤ f.op ∧ f.op ≤ 0x76) :
    rqIdx (cmdOf s c g f) = reqIn s (tenantOf s g.launch) (f.a.toNat % 2 ^ 14) % 2 ^ 14 ∧
    (cmdOf s c g f).a.toNat / 2 ^ 14 = f.a.toNat / 2 ^ 14 ∧ (cmdOf s c g f).b = f.b := by
  have low : nfld f.a.toNat 0 14 = f.a.toNat % 2 ^ 14 := by rw [nfld, Nat.pow_zero, Nat.div_one]
  have own : ownOperands s (tenantOf s g.launch) f.op f.a f.b =
      (BitVec.ofNat 64 (f.a.toNat - f.a.toNat % 2 ^ 14 + reqIn s (tenantOf s g.launch) (f.a.toNat % 2 ^ 14) % 2 ^ 14), f.b) := by
    rw [ownOperands, if_neg (by simp; omega), if_pos (by simp; omega), low]
  have ha : (cmdOf s c g f).a.toNat = f.a.toNat - f.a.toNat % 2 ^ 14 + reqIn s (tenantOf s g.launch) (f.a.toNat % 2 ^ 14) % 2 ^ 14 := by
    refine (congrArg (fun x : DWord × DWord => x.1.toNat) own).trans (Nat.mod_eq_of_lt ?_)
    have := f.a.isLt
    omega
  refine ⟨?_, ?_, congrArg Prod.snd own⟩
  · rw [rqIdx, nfld, ha]
    omega
  · rw [ha]
    omega

theorem chkReq_of_ok (op : 0x73 ≤ f.op ∧ f.op ≤ 0x76) (request : RequestOk s g f.a.toNat) : chkReq s g.answered (cmdOf s c g f) = .ok := by
  obtain ⟨answered, r, found, tenant, loaded⟩ := request
  simp only [chkReq, then_eq_ok, chkAsk, answered, if_true, (cmdOf_request op).1, found, cmdOf_tenant, tenant, loaded, decide_true, Bool.not_false,
    Bool.and_self, and_self]

theorem chkAcpt_of_ok (op : f.op = 0x73) (request : RequestOk s g f.a.toNat) (bit : f.a.getLsbD 14 = false) (lowA : f.a.toNat < 2 ^ 48)
    (lowB : f.b.toNat < 2 ^ 32) (aligned : f.b.toNat % 16 = 0) (operands : InSpad s g.wg f.b.toNat 16) :
    chkAcpt s g.wg g.answered (cmdOf s c g f) = .ok := by
  have range : 0x73 ≤ f.op ∧ f.op ≤ 0x76 := by omega
  obtain ⟨-, high, hb⟩ := cmdOf_request (s := s) (c := c) (g := g) range
  have bit' : nbit (cmdOf s c g f).a.toNat 14 = false := by
    rw [nbit, high]
    rw [BitVec.getLsbD, Nat.testBit_eq_decide_div_mod_eq] at bit
    simpa using bit
  have lowA' : ¬ 2 ^ 48 ≤ (cmdOf s c g f).a.toNat := by omega
  simp only [chkAcpt, then_eq_ok, chkIf_eq_ok, chkSpad_eq_ok, chkReq_of_ok range request, bit', lowA', hb,
    Nat.not_le.mpr lowB, aligned, ne_eq, not_true_eq_false, decide_false, Bool.or_self, operands, and_self]

/-- stop, emit and rqst (R219 to R221). -/
theorem chkReqOp_of_ok (op : 0x73 < f.op ∧ f.op ≤ 0x76) (request : RequestOk s g f.a.toNat) (lowA : f.a.toNat < 2 ^ 14)
    (lowB : f.b.toNat < 2 ^ 32) (reason : f.c.toNat ≤ 3) : chkReqOp s g.answered (cmdOf s c g f) = .ok := by
  have op' : 0x73 ≤ f.op ∧ f.op ≤ 0x76 := ⟨Nat.le_of_lt op.1, op.2⟩
  simp only [chkReqOp, then_eq_ok, chkIf_eq_ok, chkReq_of_ok op' request, cmdOf_raw, (cmdOf_request op').2.2, cmdOf_c, Nat.not_le.mpr lowA,
    Nat.not_le.mpr lowB, Nat.not_lt.mpr reason, decide_false, Bool.and_false, Bool.or_self, and_self]

end

/-! ## Sampling (R215, R217) -/

section
variable {s : State} {w : Nat} {x : Cmd} {a b c : DWord} (ha : x.a = a) (hb : x.b = b) (hc : x.c = c)
include ha hb hc

theorem chkSmpl_of_legal (legal : SampleLegal s w x.sub a.toNat b.toNat c.toNat) : chkSmpl s w x = .ok := by
  subst ha hb hc
  obtain ⟨zero5, zero13, zero22, tile, second, lowB, lowC, alignedB, alignedC, rowMap, records⟩ := legal
  have tileLow : smplTile x = x.a.toNat % 2 ^ 5 := by rw [smplTile, nfld, Nat.pow_zero, Nat.div_one]
  have rows : smplRows x = x.a.toNat / 2 ^ 16 % 2 ^ 6 + 1 := rfl
  have noSecond : (decide (x.sub ≠ 2) && decide (smplTile2 x ≠ 0)) = false := by
    by_cases two : x.sub = 2
    · simp [two]
    · simp [show smplTile2 x = 0 from (if_neg two).mp second]
  have secondTile : (decide (x.sub = 2) && decide (wgTiles s w ≤ smplTile2 x)) = false := by
    by_cases two : x.sub = 2
    · simp [Nat.not_le.mpr (show smplTile2 x < wgTiles s w from (if_pos two).mp second)]
    · simp [two]
  simp only [chkSmpl, then_eq_ok, chkIf_eq_ok, chkSpad_eq_ok, nfld, zero5, zero13, zero22, noSecond, secondTile, tileLow, rows, Nat.not_le.mpr tile,
    Nat.not_le.mpr lowB, Nat.not_le.mpr lowC, alignedB, alignedC, ne_eq, not_true_eq_false, decide_false, Bool.or_self, rowMap, records, and_self]

theorem chkSmrg_of_legal (lowC : c.toNat < 2 ^ 14) (lowB : b.toNat < 2 ^ 32) (alignedA : a.toNat % 16 = 0) (alignedB : b.toNat % 16 = 0)
    (partials : OffWindow a.toNat) (records : InSpad s w b.toNat (16 * (c.toNat / 2 ^ 8 + 1))) : chkSmrg s w x = .ok := by
  subst ha hb hc
  have rows : mrgRows x = x.c.toNat / 2 ^ 8 + 1 := by rw [mrgRows, nfld]; omega
  simp only [chkSmrg, then_eq_ok, chkIf_eq_ok, chkSpad_eq_ok, chkFab_eq_ok, rows, Nat.not_le.mpr lowC, Nat.not_le.mpr lowB, alignedA, alignedB,
    ne_eq, not_true_eq_false, decide_false, Bool.or_self, records, partials, and_self]

end

/-! ## The instructions -/

section
variable {s : State} {c : Nat} {g : Group} (hi : Issues s c g) {i : Instr} {op sub : Nat} {ga : BitVec 5} {fs : Bool}
  {sc : BitVec 2} {acq rel : Bool} {f : EForm}
include hi

/-- A sampling instruction, or acpt, that is ready and whose checks find nothing is accepted. -/
theorem smpOp_accepted {gb gc : BitVec 5} {x res : Option (BitVec 5)} (hx : x = if res.isSome then none else some gc)
    (hf : f = eform g i op sub (some ga) (some gb) x res fs sc acq rel (some 4) false)
    (ready : EngineReady s g ([ga.toNat, gb.toNat] ++ x.toList.map BitVec.toNat) f) {chk : State → Group → Cmd → EChk}
    (ok : chk s g (cmdOf s c g f) = .ok) (run : exec i s = smpOp op sub ga gb gc res fs sc acq rel (wordOf i) chk s) :
    EngineAccepted s c g (exec i s) f fun t _ _ => t := by
  have issued : smpOp op sub ga gb gc res fs sc acq rel (wordOf i) chk s =
      engIssue s c g (useE ([ga.toNat, gb.toNat] ++ x.toList.map BitVec.toNat) f.resG) f (chk s g (cmdOf s c g f)) enterPlain := by
    subst hf hx
    rw [smpOp, onGroup_run hi.1 hi.2.1 hi.2.2]
    cases res <;> rfl
  rw [run, issued]
  exact engIssue_accepted hi.2.2 ready rfl (by rw [hf]; rfl) ok enterPlain

/-- stop, emit or rqst that is ready and whose checks find nothing is accepted. -/
theorem reqOp_accepted {b x res : Option (BitVec 5)} (hf : f = eform g i op sub (some ga) b x res fs sc acq rel (some 4) false)
    (ready : EngineReady s g (ga.toNat :: (b.toList ++ x.toList).map BitVec.toNat) f) (ok : chkReqOp s g.answered (cmdOf s c g f) = .ok)
    (run : exec i s = reqOp op sub ga b x res fs sc acq rel (wordOf i) s) : EngineAccepted s c g (exec i s) f fun t _ _ => t := by
  have issued : reqOp op sub ga b x res fs sc acq rel (wordOf i) s =
      engIssue s c g (useE (ga.toNat :: (b.toList ++ x.toList).map BitVec.toNat) f.resG) f (chkReqOp s g.answered (cmdOf s c g f)) enterPlain := by
    subst hf
    rw [reqOp, onGroup_run hi.1 hi.2.1 hi.2.2]
    cases b <;> cases x <;> rfl
  rw [run, issued]
  exact engIssue_accepted hi.2.2 ready rfl (by rw [hf]; rfl) ok enterPlain

end

/-- Settles O34: each instruction takes the common course of an engine instruction, and the checks of its command find nothing. -/
theorem requestsAccepted : Obligations.RequestsAccepted := by
  unfold Obligations.RequestsAccepted
  intro s c g ga gb gc fs sc acq rel hi
  refine ⟨?smpl, ?smrg, ?acpt, ?request⟩
  case smpl =>
    intro f i sub listed hf ready legal
    have op : f.op = 0x71 := by rw [hf]; rfl
    have hsub : f.sub = sub := by rw [hf]; rfl
    obtain ⟨ha, hb⟩ : (cmdOf s c g f).a = f.a ∧ (cmdOf s c g f).b = f.b := cmdOf_operands (by rw [op]; decide)
    have ok : chkSmpl s g.wg (cmdOf s c g f) = .ok := chkSmpl_of_legal ha hb (cmdOf_c s c g f) (by rwa [cmdOf_sub, hsub])
    simp only [List.mem_cons, Prod.mk.injEq, List.not_mem_nil, or_false] at listed
    obtain ⟨rfl, rfl⟩ | ⟨rfl, rfl⟩ | ⟨rfl, rfl⟩ := listed
    · exact smpOp_accepted hi (res := none) rfl hf ready (chk := fun s g x => chkSmpl s g.wg x) ok rfl
    · exact smpOp_accepted hi (res := none) rfl hf ready (chk := fun s g x => chkSmpl s g.wg x) ok rfl
    · exact smpOp_accepted hi (res := none) rfl hf ready (chk := fun s g x => chkSmpl s g.wg x) ok rfl
  case smrg =>
    intro f hf ready lowC lowB alignedA alignedB partials records
    have op : f.op = 0x72 := by rw [hf]; rfl
    obtain ⟨ha, hb⟩ : (cmdOf s c g f).a = f.a ∧ (cmdOf s c g f).b = f.b := cmdOf_operands (by rw [op]; decide)
    exact smpOp_accepted hi (res := none) rfl hf ready (chk := fun s g x => chkSmrg s g.wg x)
      (chkSmrg_of_legal ha hb (cmdOf_c s c g f) lowC lowB alignedA alignedB partials records) rfl
  case acpt =>
    intro f hf ready request bit lowA lowB aligned operands
    exact smpOp_accepted hi (res := some gc) rfl hf ready (chk := fun s g x => chkAcpt s g.wg g.answered x)
      (chkAcpt_of_ok (by rw [hf]; rfl) request bit lowA lowB aligned operands) rfl
  case request =>
    intro f i op sub b x res listed hf ready request lowA lowB reason
    have hop : f.op = op := by rw [hf]; rfl
    simp only [List.mem_cons, Prod.mk.injEq, List.not_mem_nil, or_false] at listed
    have ok : chkReqOp s g.answered (cmdOf s c g f) = .ok := chkReqOp_of_ok (by omega) request lowA lowB reason
    obtain ⟨rfl, rfl, rfl, rfl, rfl, rfl⟩ | ⟨rfl, rfl, rfl, rfl, rfl, rfl⟩ | ⟨rfl, rfl, rfl, rfl, rfl, rfl⟩ | ⟨rfl, rfl, rfl, rfl, rfl, rfl⟩ |
      ⟨rfl, rfl, rfl, rfl, rfl, rfl⟩ := listed
    all_goals exact reqOp_accepted hi hf ready ok rfl

end Sys2Proof.Claims
end

section
/-! PROOFS. The events of residency (R226, R229, R236, R237, R239, R246 to R248, R389, R395, R397): relaunch, bins, admission, handler groups, the
firmware's dispositions, and the completion of launches. -/

namespace Sys2Proof.Machine

/-! ## Records and bins (R236, R237, R239, R243) -/

/-- A ready record whose turn it is (R236): the slot can take it, and none of the core's earlier ready records has a slot to go to. -/
structure RelaunchTurn (s : State) (g : Group) (p q : Nat) : Prop where
  may : mayRelaunch s g = true
  takes : slotTakes s g p q = true
  first : ∀ e ∈ s.groups, e.2.core = g.core → mayRelaunch s e.2 = true → readyBefore s e.2 g = true →
    ∀ p' < 8, ∀ q' < 32, slotTakes s e.2 p' q' = false

/-- The state in which a record h, read again, runs in its slot; after a pre-emption its region closes (R237, R297). -/
def relaunched (s : State) (c p q : Nat) (g h : Group) : State :=
  let r := if g.cause = .preempt then closeRegion s h else (s, h)
  putGroup r.1 c (rereadHeader s { r.2 with res := .running, store := .none, liveg := 0, part := p, slot := q })

theorem recordRelaunch_of_turn {s : State} {c p q : Nat} {g : Group} (h : tget s.groups c = some g) (turn : RelaunchTurn s g p q) :
    exec (.recordRelaunch c p q) s = .next ((reloadRecord s c g).elim (headerError s c g) (relaunched s c p q g)) := by
  obtain ⟨may, takes, first⟩ := turn
  simp only [exec_recordRelaunch, execRecordRelaunch, h, may, takes, Bool.true_and]
  rw [if_pos]
  · cases reloadRecord s c g <;> rfl
  · rw [List.all_eq_true]
    intro e he
    simpa [partsOfCore, slotsOfPart, or_iff_not_imp_left] using first e he

/-- Only a record in a spill cell is read again (R234). -/
theorem reloadRecord_of_not_spilled {s : State} {c : Nat} {g : Group} (h : ∀ k, g.store ≠ .spill k) : reloadRecord s c g = some g := by
  unfold reloadRecord
  split
  · next k hk => exact absurd hk (h k)
  · rfl

theorem huddleBinTimeout_of_opened {s : State} {c : Nat} {g : Group} (h : tget s.groups c = some g) (opened : g.res = .opened) :
    exec (.huddleBinTimeout c) s = .next (if g.since + 512 ≤ s.clk then emitBin s c g else s) := by
  simp [execHuddleBinTimeout, h, opened]

/-! ## Admission (R247, R248, R395) -/

theorem admissionStep_of_due {s : State} (places : List Place) (due : ∃ e ∈ s.launches, handlerDue s e.2 = true) :
    exec (.admissionStep places) s = .next s := by
  rw [exec_admissionStep, execAdmissionStep, if_pos (List.any_eq_true.mpr due)]

theorem admissionStep_of_none_due {s : State} (places : List Place) (idle : ∀ e ∈ s.launches, handlerDue s e.2 = false) :
    exec (.admissionStep places) s = .next (admitAll s places (admitOrder s)) := by
  rw [exec_admissionStep, execAdmissionStep, if_neg]
  simpa using idle

section AdmitAll
variable {s : State} {places : List Place} {l : Nat} {k : Launch} (t : List (Nat × Launch)) {r : State × List Place}

/-- A class 0 launch places all that is left of it before the next launch is looked at. -/
theorem admitAll_of_whole (cls : k.desc.cls = 0)
    (placed : placeAll s l k places k.next ((gridOf k.desc - k.next) / max 1 k.desc.gang) = some r) :
    admitAll s places ((l, k) :: t) = admitAll (modLaunch r.1 l fun x => { x with next := gridOf k.desc }) r.2 t := by
  simp only [admitAll, if_pos cls, placed]

/-- A launch of another class places one unit. -/
theorem admitAll_of_unit (cls : k.desc.cls ≠ 0) (placed : placeUnit s l k k.next places = some r) :
    admitAll s places ((l, k) :: t) = admitAll (modLaunch r.1 l fun x => { x with next := k.next + k.desc.gang }) r.2 t := by
  simp only [admitAll, if_neg cls, placed]

theorem admitAll_of_no_room (cls : k.desc.cls ≠ 0) (full : placeUnit s l k k.next places = none) : admitAll s places ((l, k) :: t) = s := by
  simp only [admitAll, if_neg cls, full]

end AdmitAll

/-! ## The group that serves a record (R57, R393, R395) -/

/-- Words written side by side from index b on: each is found at its place, and every other place keeps its word. -/
theorem getD_foldl_vset {α : Type} {m : Nat} (f : Nat → α) (b n k : Nat) (d : α) (v : Vector α m) (hk : k < m) :
    ((List.range n).foldl (fun v i => v.setIfInBounds (b + i) (f i)) v).getD k d =
      if b ≤ k ∧ k < b + n then f (k - b) else v.getD k d := by
  induction n with
  | zero => rw [if_neg (by omega)]; rfl
  | succ n ih =>
    rw [List.range_succ, List.foldl_append, List.foldl_cons, List.foldl_nil, getD_vset _ _ _ _ _ hk, ih]
    by_cases hn : k = b + n
    · rw [if_pos hn, if_pos (by omega), hn, Nat.add_sub_cancel_left]
    · rw [if_neg hn]
      exact if_congr (by omega) rfl rfl

/-- g3 to g18 of a handler group hold the sixteen words of the record. -/
theorem readG_handlerRegs_record (r : FaultRec) (g : Group) {i : Nat} (hi : i < 16) :
    readG (handlerRegs r g) (3 + i) = BitVec.ofNat 64 (leNat (((faultBytes r).drop (8 * i)).take 8)) := by
  rw [readG, if_neg (by omega), handlerRegs, getD_foldl_vset _ _ _ _ _ _ (by omega), if_pos (by omega), Nat.add_sub_cancel_left]

/-- Its other registers are those that it starts with. -/
theorem readG_handlerRegs_other (r : FaultRec) (g : Group) {n : Nat} (hn : n < 3 ∨ 19 ≤ n) (hi : n < 32) :
    readG (handlerRegs r g) n = readG g n := by
  have kept : (handlerRegs r g).g.getD n 0 = g.g.getD n 0 := by
    rw [handlerRegs, getD_foldl_vset _ _ _ _ _ _ hi, if_neg (by omega)]
  rw [readG, readG, kept]

/-- A group starts with the parameter in g1, its workgroup's index in g2, and 0 in every other register. -/
theorem readG_startGroup {inst key launch wg core : Nat} {place : Place} {home pc : Nat} {param lin : DWord} {clk n : Nat} (hn : n < 32) :
    readG (startGroup inst key launch wg core place home pc param lin clk) n = if n = 1 then param else if n = 2 then lin else 0 := by
  by_cases h0 : n = 0
  · subst h0; rfl
  · rw [readG, if_neg h0, startGroup, getD_vset _ _ _ _ _ hn, getD_vset _ _ _ _ _ hn]
    by_cases h2 : n = 2
    · subst h2; rfl
    · rw [if_neg h2, if_neg h2]
      simp [Vector.getD, Array.getD]

theorem range_groups_of_single {threads : Nat} (single : threads = 16) : List.range (threads / 16) = [0] := by subst single; rfl

section PutWg
variable (s : State) (core : Nat) (pw : Word) {w : Workgroup} (pc : Nat) (param lin : DWord) (init : Group → Group) (places : List Place)
  (single : w.threads = 16)
include single

/-- A workgroup of 16 threads takes the next key, and its one group the key after it. -/
theorem putWg_wgs_of_single : (putWg s core pw w pc param lin init places).1.wgs = tset s.wgs s.nextKey w := by
  rw [putWg, range_groups_of_single single]
  rfl

theorem putWg_group_of_single : ∃ place, tget (putWg s core pw w pc param lin init places).1.groups (s.nextKey + 1) =
    some (init (startGroup s.nextInst (s.nextKey + 1) w.launch s.nextKey core place 0 pc param lin s.clk)) := by
  rw [putWg, range_groups_of_single single]
  exact ⟨_, tget_tset_same ..⟩

end PutWg

/-- The workgroup of a handler group: 16 threads, in a gang of its own. -/
def handlerWg (s : State) (l : Nat) (k : Launch) (core : Nat) (r : FaultRec) : Workgroup :=
  startWg l 0 k.tenant core 16 0 0 (some r.seq) (some s.nextKey)

/-- The state in which the handler group of a record stands on a core. -/
def handlerPlaced (s : State) (l : Nat) (k : Launch) (core : Nat) (r : FaultRec) (place : Place) : State :=
  (putWg (openGang s l 1).2 core k.desc.pword (handlerWg s l k core r) k.desc.trap k.desc.param (BitVec.ofNat 64 (2 ^ 32 - 1))
    (handlerRegs { r with launch := k.ident }) [place]).1

theorem handlerStart_of_due {s : State} {l core : Nat} {k : Launch} {r : FaultRec} (place : Place) (h : tget s.launches l = some k)
    (next : nextRecord k = some r) (due : handlerDue s k = true)
    (room : chooseCore s (fun c => coreAccepts s c k.tenant k.desc.pword 1 0 0) = some core) :
    exec (.handlerStart l place) s = .next (modLaunch (handlerPlaced s l k core r place) l fun x => { x with server := some r.seq }) := by
  simp [execHandlerStart, h, next, due, room, handlerPlaced, handlerWg, openGang]

theorem handlerPlaced_wg (s : State) (l : Nat) (k : Launch) (core : Nat) (r : FaultRec) (place : Place) :
    tget (handlerPlaced s l k core r place).wgs (s.nextKey + 1) = some (handlerWg s l k core r) := by
  rw [handlerPlaced, putWg_wgs_of_single _ _ _ _ _ _ _ _ rfl]
  exact tget_tset_same ..

theorem handlerPlaced_group (s : State) (l : Nat) (k : Launch) (core : Nat) (r : FaultRec) (place : Place) :
    ∃ at_, tget (handlerPlaced s l k core r place).groups (s.nextKey + 2) = some (handlerRegs { r with launch := k.ident }
      (startGroup s.nextInst (s.nextKey + 2) l (s.nextKey + 1) core at_ 0 k.desc.trap k.desc.param (BitVec.ofNat 64 (2 ^ 32 - 1)) s.clk)) :=
  putWg_group_of_single _ _ _ _ _ _ _ _ rfl

/-! ## The firmware's dispositions (R397) -/

section Firmware
variable {s : State} {l : Nat} {k : Launch} {r : FaultRec} (h : tget s.launches l = some k)
include h

section Dispose
variable (next : k.fq.find? (fun r => !r.fw && r.kind != 3) = some r)
include next

theorem firmwareDispose_of_handler (ends : (k.aborted || k.lost) = false) (trap : k.desc.trap ≠ 0) : exec (.firmwareDispose l) s = .next s := by
  simp only [exec_firmwareDispose, execFirmwareDispose, h, next]
  rw [if_pos (.inl ⟨trap, ends⟩)]

variable (runs : tenantRuns s k.tenant = true)
include runs

/-- A launch that has ended holds nothing; one without a handler holds translation faults alone. -/
theorem firmwareDispose_of_not_held (free : (k.aborted || k.lost) = true ∨ (k.desc.trap = 0 ∧ holdsXlate r = false)) :
    exec (.firmwareDispose l) s = .next (firmwareEnd (modLaunch s l fun x => dropRecord x r.seq) r) := by
  simp only [exec_firmwareDispose, execFirmwareDispose, h, next]
  rw [if_neg, if_neg]
  · rcases free with ends | ⟨-, other⟩
    · simp [ends]
    · simp [other]
  · rcases free with ends | ⟨trap, -⟩
    · simp [ends, runs]
    · simp [trap, runs]

theorem firmwareDispose_of_held (ends : (k.aborted || k.lost) = false) (trap : k.desc.trap = 0) (holds : holdsXlate r = true) :
    exec (.firmwareDispose l) s = .next (holdRecord s l r) := by
  simp only [exec_firmwareDispose, execFirmwareDispose, h, next]
  rw [if_neg (by simp [trap, runs]), if_pos (by simp [holds, ends])]

end Dispose

/-- A record held for a second, of a tenant that runs, gets the firmware's disposition. -/
theorem xlateHoldTimeout_of_late {n : Nat} (held : k.fq.find? (fun r => r.fw && decide (r.seq = n)) = some r)
    (late : r.heldAt + 1200000000 ≤ s.clk) (runs : tenantRuns s k.tenant = true) :
    exec (.xlateHoldTimeout l n) s = .next (firmwareEnd (modLaunch s l fun x => dropRecord x n) r) := by
  simp [execXlateHoldTimeout, h, held, usClk, late, runs]

end Firmware

/-! ## Completion (R246, R389) -/

section Completion
variable {s : State} {l : Nat} {k : Launch} (h : tget s.launches l = some k)
include h

theorem launchComplete_of_running (running : launchOver s l k = false) : exec (.launchComplete l) s = .next s := by
  simp [execLaunchComplete, h, running]

variable (isOver : launchOver s l k = true)
include isOver

theorem launchComplete_of_direct {o : Owed} (origin : k.origin = .direct o) :
    exec (.launchComplete l) s = .next (complete (dropLaunch s l) o (endStatus s k) (BitVec.ofNat 64 k.ident)) := by
  simp [execLaunchComplete, h, isOver, origin]

theorem launchComplete_of_imported (origin : k.origin = .imported) : exec (.launchComplete l) s = .next (dropLaunch s l) := by
  simp [execLaunchComplete, h, isOver, origin]

theorem launchComplete_of_task {g i : Nat} (origin : k.origin = .task g i) : exec (.launchComplete l) s = .next (taskOver s l k g i) := by
  simp [execLaunchComplete, h, isOver, origin]

end Completion

/-- Settles O43: each event by the equation of its case; a handler group by what its placement leaves in its workgroup and its registers. -/
theorem residencyEvents : Obligations.ResidencyEvents := by
  unfold Obligations.ResidencyEvents
  refine ⟨?relaunch, ?bin, ?admission, fun s l k h => ⟨?handler, ?firmware, fun n r => xlateHoldTimeout_of_late h,
    launchComplete_of_running h, fun isOver => ⟨fun o => launchComplete_of_direct h isOver, launchComplete_of_imported h isOver,
      fun g i => launchComplete_of_task h isOver⟩⟩⟩
  case relaunch =>
    intro s c g p q h may takes first
    rw [recordRelaunch_of_turn h ⟨may, takes, first⟩]
    refine ⟨fun g' reload r hr => ?_, fun lost => ?_, reloadRecord_of_not_spilled⟩
    · rw [reload, hr]; rfl
    · rw [lost]; rfl
  case bin =>
    intro s c g h opened
    rw [huddleBinTimeout_of_opened h opened]
    exact ⟨fun late => by rw [if_pos late], fun early => by rw [if_neg (Nat.not_le.mpr early)]⟩
  case admission =>
    refine fun s places => ⟨admissionStep_of_due places, fun idle empty => ?_, fun l k t idle order => ?_⟩
    · rw [admissionStep_of_none_due places idle, empty, admitAll]
    · rw [admissionStep_of_none_due places idle, order]
      exact ⟨fun cls r placed => by rw [admitAll_of_whole t cls placed], fun cls r placed => by rw [admitAll_of_unit t cls placed],
        fun cls full => by rw [admitAll_of_no_room t cls full]⟩
  case handler =>
    intro r core place next due room
    obtain ⟨at_, group⟩ := handlerPlaced_group s l k core r place
    refine ⟨handlerPlaced s l k core r place, handlerStart_of_due place h next due room,
      ⟨handlerWg s l k core r, handlerPlaced_wg s l k core r place, rfl, rfl, rfl⟩, _, group, rfl, rfl, ?param, ?lin, ?record, ?zero⟩
    case param => rw [readG_handlerRegs_other _ _ (by omega) (by omega), readG_startGroup (by omega), if_pos rfl]
    case lin => rw [readG_handlerRegs_other _ _ (by omega) (by omega), readG_startGroup (by omega)]; rfl
    case record => exact fun i hi => readG_handlerRegs_record _ _ hi
    case zero => rw [readG_handlerRegs_other _ _ (by omega) (by omega), readG_startGroup (by omega)]; rfl
  case firmware =>
    rintro r next runs _ rfl
    exact ⟨firmwareDispose_of_not_held h next runs, firmwareDispose_of_held h next runs, firmwareDispose_of_handler h next⟩

end Sys2Proof.Machine
end

section
/-! PROOFS. The canonical form of memory (logs 4 and 12): what it says of outcomes, and the operations that the whole machine shares. A lemma `canonMem_f` says
that f keeps the form: as an equivalence where f leaves both memories as they are, from the form of its state where f writes bytes. -/

namespace Sys2Proof.Machine

/-- Both byte memories, of the device and of the host, have the canonical form (log 4). -/
def CanonMem (s : State) : Prop := Memory.wf s.mem = true ∧ Memory.wf s.hostMem = true

/-- The state that an outcome leads to, if it leads to one, has its memories in the canonical form. -/
def CanonOut : Out → Prop
  | .next s => CanonMem s
  | .fault _ => True
  | .refused _ => True

/-- simp rewrites a state's canonical form as a whole and does not look into the state's other fields. -/
@[congr] theorem canonMem_congr {s : State} : CanonMem s = CanonMem s := rfl

@[simp] theorem canonOut_next {s : State} : CanonOut (.next s) ↔ CanonMem s := Iff.rfl
@[simp] theorem canonOut_fault {f : Fault} : CanonOut (.fault f) := trivial
@[simp] theorem canonOut_refused {r : Refusal} : CanonOut (.refused r) := trivial

/-- Of a state that is written out only the two memories matter. -/
@[simp] theorem canonMem_mk {turns cur clk freeCtr nextKey nextInst mem badLines taken hbm lpddr fixed chips cores pointer windows hostMem rdy fatal locked feats queues
      msix patch xfers tenants roots images pools plans handles playbook reqs admSeq iterCtr lastPlan launches taskq graphs wgs gangs groups ops
      cmds hide walks walkq walkCache shoots race fab sec tele} :
    CanonMem (State.mk turns cur clk freeCtr nextKey nextInst mem badLines taken hbm lpddr fixed chips cores pointer windows hostMem rdy fatal locked feats queues
      msix patch xfers tenants roots images pools plans handles playbook reqs admSeq iterCtr lastPlan launches taskq graphs wgs gangs groups ops
      cmds hide walks walkq walkCache shoots race fab sec tele) ↔
      Memory.wf mem = true ∧ Memory.wf hostMem = true := Iff.rfl

@[simp] theorem canonMem_fold {s : State} : Memory.wf s.mem = true ∧ Memory.wf s.hostMem = true ↔ CanonMem s := Iff.rfl

@[simp] theorem canonMem_ite {c : Prop} [Decidable c] {s t : State} : CanonMem (if c then s else t) ↔ if c then CanonMem s else CanonMem t := by
  split <;> rfl

@[simp] theorem canonOut_ite {c : Prop} [Decidable c] {r q : Out} : CanonOut (if c then r else q) ↔ if c then CanonOut r else CanonOut q := by
  split <;> rfl

/-- What the end of an engine command finds: the state that it acted on, if it has acted, has its memories in the canonical form. -/
def CanonFin : Fin → Prop
  | .wait => True
  | .later s => CanonMem s
  | .fault _ _ => True
  | .done s _ _ => CanonMem s

/-- What the work of a host command leads to, likewise. -/
def CanonAns : Ans → Prop
  | .fail _ => True
  | .ok s _ => CanonMem s
  | .later s => CanonMem s

@[congr] theorem canonFin_congr {f : Fin} : CanonFin f = CanonFin f := rfl
@[congr] theorem canonAns_congr {a : Ans} : CanonAns a = CanonAns a := rfl

@[simp] theorem canonFin_wait : CanonFin .wait := trivial
@[simp] theorem canonFin_later {s : State} : CanonFin (.later s) ↔ CanonMem s := Iff.rfl
@[simp] theorem canonFin_fault {code va} : CanonFin (.fault code va) := trivial
@[simp] theorem canonFin_done {s : State} {err res} : CanonFin (.done s err res) ↔ CanonMem s := Iff.rfl
@[simp] theorem canonAns_fail {st} : CanonAns (.fail st) := trivial
@[simp] theorem canonAns_ok {s : State} {res} : CanonAns (.ok s res) ↔ CanonMem s := Iff.rfl
@[simp] theorem canonAns_later {s : State} : CanonAns (.later s) ↔ CanonMem s := Iff.rfl

@[simp] theorem canonFin_ite {c : Prop} [Decidable c] {f g : Fin} : CanonFin (if c then f else g) ↔ if c then CanonFin f else CanonFin g := by
  split <;> rfl

@[simp] theorem canonAns_ite {c : Prop} [Decidable c] {a b : Ans} : CanonAns (if c then a else b) ↔ if c then CanonAns a else CanonAns b := by
  split <;> rfl

theorem canonMem_foldl_fst {α β : Type} {f : State × β → α → State × β} {l : List α} {b : State × β} (h : CanonMem b.1)
    (hf : ∀ b a, CanonMem b.1 → CanonMem (f b a).1) : CanonMem (l.foldl f b).1 := by
  induction l generalizing b with
  | nil => exact h
  | cons a l ih => exact ih (hf b a h)

theorem CanonMem.foldl {α : Type} {f : State → α → State} {l : List α} {s : State} (h : CanonMem s)
    (hf : ∀ t a, CanonMem t → CanonMem (f t a)) : CanonMem (l.foldl f s) := by
  induction l generalizing s with
  | nil => exact h
  | cons a l ih => exact ih (hf s a h)

@[simp] theorem canonMem_foldl {α : Type} {f : State → α → State} {l : List α} {s : State} (hf : ∀ t a, CanonMem (f t a) ↔ CanonMem t) :
    CanonMem (l.foldl f s) ↔ CanonMem s := by
  induction l generalizing s with
  | nil => exact Iff.rfl
  | cons a l ih => exact ih.trans (hf s a)

theorem canonMem_foldl_fst_iff {α β : Type} {f : State × β → α → State × β} {l : List α} {b : State × β}
    (hf : ∀ b a, CanonMem (f b a).1 ↔ CanonMem b.1) : CanonMem (l.foldl f b).1 ↔ CanonMem b.1 := by
  induction l generalizing b with
  | nil => exact Iff.rfl
  | cons a l ih => exact ih.trans (hf b a)

theorem CanonMem.wf_mem {s : State} (h : CanonMem s) : Memory.wf s.mem = true := h.1
theorem CanonMem.wf_hostMem {s : State} (h : CanonMem s) : Memory.wf s.hostMem = true := h.2

end Sys2Proof.Machine
end

section
/-! PROOFS. Operations on groups, records, barriers and traps keep the canonical form of memory. -/

namespace Sys2Proof.Machine

variable {s : State}

/-! ## Translation -/

@[simp] theorem canonMem_cacheEntry {asid va level addr} : CanonMem (cacheEntry s asid va level addr) ↔ CanonMem s := by
  unfold cacheEntry
  split <;> simp

@[simp] theorem canonMem_cacheWalk {asid va r} : CanonMem (cacheWalk s asid va r) ↔ CanonMem s := by unfold cacheWalk; split <;> simp

@[simp] theorem canonMem_walkEnters {asid l} : CanonMem (walkEnters s asid l).2 ↔ CanonMem s := by
  unfold walkEnters
  (repeat' split) <;> simp

@[simp] theorem canonMem_fillChip {chip victim e} : CanonMem (fillChip s chip victim e) ↔ CanonMem s := by unfold fillChip; split <;> simp
@[simp] theorem canonMem_walkFill {core asid va l} : CanonMem (walkFill s core asid va l) ↔ CanonMem s := by unfold walkFill; simp
@[simp] theorem canonMem_engFill {core asid va} : CanonMem (engFill s core asid va) ↔ CanonMem s := by unfold engFill; split <;> simp
@[simp] theorem canonMem_sendWalk {q} : CanonMem (sendWalk s q) ↔ CanonMem s := by unfold sendWalk; (repeat' split) <;> simp

@[simp] theorem canonMem_admitWalks {n} : CanonMem (admitWalks s n) ↔ CanonMem s := by
  induction n generalizing s with
  | zero => rfl
  | succ n ih => unfold admitWalks; split <;> simp [ih]

@[simp] theorem canonMem_engAsk {core asid va n} : CanonMem (engAsk s core asid va n) ↔ CanonMem s := by unfold engAsk; simp
@[simp] theorem canonMem_engTouch {core asid va n} : CanonMem (engTouch s core asid va n) ↔ CanonMem s := by unfold engTouch; simp

/-! ## Bytes that commit -/

@[simp] theorem canonMem_commitBytes (h : CanonMem s) {own pa bs} : CanonMem (commitBytes s own pa bs) := ⟨wf_mwrite h.1 _ _, h.2⟩

@[simp] theorem canonMem_commitVirt (h : CanonMem s) {own asid va bs} : CanonMem (commitVirt s own asid va bs) :=
  canonMem_foldl_fst h fun acc p hacc => by split <;> simp [hacc]

/-! ## Groups and their records -/

@[simp] theorem canonMem_setCore {c k} : CanonMem (setCore s c k) ↔ CanonMem s := Iff.rfl

@[simp] theorem canonMem_mirrorSpill (h : CanonMem s) {old c g} : CanonMem (mirrorSpill s old c g) := by
  unfold mirrorSpill
  split
  · exact h.foldl fun t e ht => by simp [ht]
  · exact h

@[simp] theorem canonMem_putGroup (h : CanonMem s) {c g} : CanonMem (putGroup s c g) := by unfold putGroup; simp [h]
@[simp] theorem canonMem_modGroup (h : CanonMem s) {c f} : CanonMem (modGroup s c f) := by unfold modGroup; split <;> simp [h]
@[simp] theorem canonMem_closeRegion {g} : CanonMem (closeRegion s g).1 ↔ CanonMem s := by unfold closeRegion; split <;> simp
@[simp] theorem canonMem_fireSnap {src} : CanonMem (fireSnap s src) ↔ CanonMem s := by unfold fireSnap; dsimp only; (repeat' split) <;> simp
@[simp] theorem canonMem_snapOnFault {code} : CanonMem (snapOnFault s code) ↔ CanonMem s := by unfold snapOnFault; simp
@[simp] theorem canonMem_enterRecord {l r} : CanonMem (enterRecord s l r) ↔ CanonMem s := by unfold enterRecord; dsimp only; (repeat' split) <;> simp

@[simp] theorem canonMem_completeFlag (h : CanonMem s) {ctx launch wg at_ word f err cls} :
    CanonMem (completeFlag s ctx launch wg at_ word f err cls) := by
  unfold completeFlag
  split <;> simp [h]

/-! ## Page frames -/

@[simp] theorem canonMem_modPool {i x1} : CanonMem (modPool s i x1) ↔ CanonMem s := Iff.rfl

/-! ## The end of engine commands -/

@[simp] theorem canonMem_hideFrom {t ctx spad a old} : CanonMem (hideFrom s t ctx spad a old) ↔ CanonMem t := Iff.rfl

@[simp] theorem canonMem_engCommit (h : CanonMem s) {core asid va bs} : CanonMem (engCommit s core asid va bs) :=
  canonMem_foldl_fst h fun acc p hacc => by split <;> simp [hacc]

@[simp] theorem canonMem_writeSpad {w off bs} : CanonMem (writeSpad s w off bs) ↔ CanonMem s := Iff.rfl
@[simp] theorem canonMem_groupCommit (h : CanonMem s) {own ctx pa bs} : CanonMem (groupCommit s own ctx pa bs) := by unfold groupCommit; simp [h]
@[simp] theorem canonMem_groupSpad {ctx w off bs} : CanonMem (groupSpad s ctx w off bs) ↔ CanonMem s := Iff.rfl
@[simp] theorem canonMem_actSpad {k x} : CanonMem (actSpad s k x) ↔ CanonMem s := by unfold actSpad; (repeat' split) <;> simp
@[simp] theorem canonMem_wakeSpad {w} : CanonMem (wakeSpad s w) ↔ CanonMem s := by unfold wakeSpad; simp
@[simp] theorem canonMem_setPresent {w ls} : CanonMem (setPresent s w ls) ↔ CanonMem s := by unfold setPresent; simp
@[simp] theorem canonMem_setAbsent {w ls} : CanonMem (setAbsent s w ls) ↔ CanonMem s := by unfold setAbsent; simp
@[simp] theorem canonMem_landG (h : CanonMem s) {ctx n v} : CanonMem (landG s ctx n v) := by unfold landG; simp [h]

@[simp] theorem canonMem_endEntry (h : CanonMem s) {core ch k outcome reason res} : CanonMem (endEntry s core ch k outcome reason res) := by
  unfold endEntry
  split <;> simp [h]

@[simp] theorem canonMem_dropPins {c} : CanonMem (dropPins s c) ↔ CanonMem s := by unfold dropPins; simp
@[simp] theorem canonMem_writeTile {c tile x} : CanonMem (writeTile s c tile x) ↔ CanonMem s := Iff.rfl
@[simp] theorem canonMem_restoreTile {c tile} : CanonMem (restoreTile s c tile) ↔ CanonMem s := by unfold restoreTile; split <;> simp
@[simp] theorem canonMem_failMark {k} : CanonMem (failMark s k) ↔ CanonMem s := by unfold failMark; split <;> simp
@[simp] theorem canonMem_endCmd (h : CanonMem s) {k err} : CanonMem (endCmd s k err) := by unfold endCmd; (repeat' split) <;> simp [h]

/-! ## The L1 -/

@[simp] theorem canonMem_dropLine {core line} : CanonMem (dropLine s core line) ↔ CanonMem s := by unfold dropLine; simp
@[simp] theorem canonMem_dropCode {core line} : CanonMem (dropCode s core line) ↔ CanonMem s := by unfold dropCode; simp

@[simp] theorem canonMem_evictPrivate (h : CanonMem s) {core line} : CanonMem (evictPrivate s core line) := by
  unfold evictPrivate
  dsimp only
  split
  · split
    · simp [h]
    · exact CanonMem.foldl (by simp [h]) fun t e ht => by simp [ht]
  · exact h

@[simp] theorem canonMem_makeRoom (h : CanonMem s) {core line} : CanonMem (makeRoom s core line) := by
  unfold makeRoom
  dsimp only
  (repeat' split) <;> simp [h]

@[simp] theorem canonMem_fillGlobal (h : CanonMem s) {core line} : CanonMem (fillGlobal s core line) := by unfold fillGlobal; simp [h]
@[simp] theorem canonMem_fillPrivate (h : CanonMem s) {core line} : CanonMem (fillPrivate s core line) := by unfold fillPrivate; simp [h]
@[simp] theorem canonMem_fillCode (h : CanonMem s) {core asid line} : CanonMem (fillCode s core asid line) := by unfold fillCode; simp [h]

@[simp] theorem canonMem_fetchFill (h : CanonMem s) {core asid va} : CanonMem (fetchFill s core asid va) := by
  unfold fetchFill
  dsimp only
  (repeat' split) <;> simp [h]

/-! ## Barriers, joins, and groups that leave -/

@[simp] theorem canonMem_modCmd {k f} : CanonMem (modCmd s k f) ↔ CanonMem s := Iff.rfl
@[simp] theorem canonMem_registerBar (h : CanonMem s) {k} : CanonMem (registerBar s k) := by unfold registerBar; (repeat' split) <;> simp [h]
@[simp] theorem canonMem_resetProg (h : CanonMem s) {w} : CanonMem (resetProg s w) := h.foldl fun t e ht => by simp [ht]

@[simp] theorem canonMem_endCmds (h : CanonMem s) {f err} : CanonMem (endCmds s f err) :=
  h.foldl fun t k ht => by split <;> simp [ht]

@[simp] theorem canonMem_phasesWg (h : CanonMem s) {w n} : CanonMem (phasesWg s w n) := by
  induction n generalizing s with
  | zero => exact h
  | succ n ih =>
    unfold phasesWg
    split
    · exact h
    · dsimp only
      split
      · exact ih (canonMem_endCmds (canonMem_resetProg (by simp [h])))
      · exact h

@[simp] theorem canonMem_phasesGang (h : CanonMem s) {gk n} : CanonMem (phasesGang s gk n) := by
  induction n generalizing s with
  | zero => exact h
  | succ n ih =>
    unfold phasesGang
    split
    · exact h
    · dsimp only
      split
      · exact ih (canonMem_endCmds (CanonMem.foldl (by simp [h]) fun t w ht => by simp [ht]))
      · exact h

@[simp] theorem canonMem_phasesNamed (h : CanonMem s) {w} : CanonMem (phasesNamed s w) := by
  unfold phasesNamed
  split
  · exact h
  · exact h.foldl fun t e ht => by simp [ht]

@[simp] theorem canonMem_endWaits (h : CanonMem s) {w} : CanonMem (endWaits s w) := by unfold endWaits; split <;> simp [h]

@[simp] theorem canonMem_settleLoop (h : CanonMem s) {w n} : CanonMem (settleLoop s w n) := by
  induction n generalizing s with
  | zero => exact h
  | succ n ih =>
    refine ih (CanonMem.foldl ?_ fun t v ht => by simp [ht])
    split
    · exact canonMem_phasesGang (CanonMem.foldl (h.foldl fun t k ht => by simp [ht]) fun t v ht => by simp [ht])
    · exact CanonMem.foldl (h.foldl fun t k ht => by simp [ht]) fun t v ht => by simp [ht]

@[simp] theorem canonMem_settle (h : CanonMem s) {w} : CanonMem (settle s w) := by unfold settle; simp [h]
@[simp] theorem canonMem_dropPrivate {core w ts} : CanonMem (dropPrivate s core w ts) ↔ CanonMem s := by unfold dropPrivate; simp
@[simp] theorem canonMem_removeGroup {c g} : CanonMem (removeGroup s c g) ↔ CanonMem s := by unfold removeGroup; simp
@[simp] theorem canonMem_dropGroup {c g} : CanonMem (dropGroup s c g) ↔ CanonMem s := by unfold dropGroup; simp
@[simp] theorem canonMem_modLaunch {l f} : CanonMem (modLaunch s l f) ↔ CanonMem s := Iff.rfl
@[simp] theorem canonMem_loseRecord {c g} : CanonMem (loseRecord s c g) ↔ CanonMem s := by unfold loseRecord; simp
@[simp] theorem canonMem_storeRecord (h : CanonMem s) {c g now} : CanonMem (storeRecord s c g now) := by unfold storeRecord; simp [h]

@[simp] theorem canonMem_mergeJoin (h : CanonMem s) {w home pc} : CanonMem (mergeJoin s w home pc) := by
  unfold mergeJoin
  dsimp only
  (repeat' split) <;> simp [h]

@[simp] theorem canonMem_reformJoin (h : CanonMem s) {w home pc} : CanonMem (reformJoin s w home pc) := by unfold reformJoin; simp [h]

@[simp] theorem canonMem_reformJoins (h : CanonMem s) {w} : CanonMem (reformJoins s w) :=
  h.foldl fun t e ht => by simp [ht]

@[simp] theorem canonMem_discardColls {w} : CanonMem (discardColls s w) ↔ CanonMem s := by
  unfold discardColls
  split
  · rfl
  · refine canonMem_foldl fun t k => ?_
    split <;> simp

@[simp] theorem canonMem_clearIfEmpty {core} : CanonMem (clearIfEmpty s core) ↔ CanonMem s := by unfold clearIfEmpty; simp
@[simp] theorem canonMem_dropOver : CanonMem (dropOver s) ↔ CanonMem s := Iff.rfl
@[simp] theorem canonMem_tryRelease {w} : CanonMem (tryRelease s w) ↔ CanonMem s := by unfold tryRelease; split <;> simp

@[simp] theorem canonMem_afterEnd (h : CanonMem s) {w} : CanonMem (afterEnd s w) := by
  have settled : CanonMem (settle s w) := by simp [h]
  unfold afterEnd
  simp [settled]

@[simp] theorem canonMem_abortGroup (h : CanonMem s) {c} : CanonMem (abortGroup s c) := by unfold abortGroup; split <;> simp [h]

@[simp] theorem canonMem_abortCmd (h : CanonMem s) {k} : CanonMem (abortCmd s k) := by
  unfold abortCmd
  split
  · exact h
  · next c _ =>
    have marked : CanonMem (((slicesOf s c).map Prod.fst).foldl failMark s) := h.foldl fun t j ht => by simp [ht]
    dsimp only
    split
    · exact canonMem_tryRelease.mpr (marked.foldl fun t j ht => by simp [ht])
    · exact marked

@[simp] theorem canonMem_abortLaunch (h : CanonMem s) {l faulted} : CanonMem (abortLaunch s l faulted) := by
  unfold abortLaunch
  refine CanonMem.foldl (CanonMem.foldl (CanonMem.foldl ?_ ?_) ?_) ?_
  · exact h
  all_goals exact fun t e ht => by simp [ht]

@[simp] theorem canonMem_resumeGroup (h : CanonMem s) {c past} : CanonMem (resumeGroup s c past) := by unfold resumeGroup; split <;> simp [h]

@[simp] theorem canonMem_wakeHeld (h : CanonMem s) : CanonMem (wakeHeld s) :=
  h.foldl fun t e ht => by split <;> simp [ht]

@[simp] theorem canonMem_resumeCmd {k} : CanonMem (resumeCmd s k) ↔ CanonMem s := by unfold resumeCmd; split <;> simp
@[simp] theorem canonMem_doResume (h : CanonMem s) {r rerun} : CanonMem (doResume s r rerun) := by unfold doResume; split <;> simp [h]
@[simp] theorem canonMem_doAbort (h : CanonMem s) {r} : CanonMem (doAbort s r) := by unfold doAbort; split <;> simp [h]
@[simp] theorem canonMem_firmwareEnd (h : CanonMem s) {r} : CanonMem (firmwareEnd s r) := by unfold firmwareEnd; simp [h]
@[simp] theorem canonMem_holdRecord {l r} : CanonMem (holdRecord s l r) ↔ CanonMem s := Iff.rfl
@[simp] theorem canonMem_dispose (h : CanonMem s) {l seq code} : CanonMem (dispose s l seq code) := by unfold dispose; (repeat' split) <;> simp [h]
@[simp] theorem canonMem_finishGroup (h : CanonMem s) {c g} : CanonMem (finishGroup s c g) := by unfold finishGroup; split <;> simp [h]
@[simp] theorem canonMem_headerError (h : CanonMem s) {c g} : CanonMem (headerError s c g) := by unfold headerError; simp [h]

/-! ## Traps and records -/

@[simp] theorem canonMem_takeTrap (h : CanonMem s) {c g t} : CanonMem (takeTrap s c g t) := by unfold takeTrap; split <;> simp [h]

@[simp] theorem canonMem_endAs (h : CanonMem s) {c g g1 cause arg want} : CanonMem (endAs s c g g1 cause arg want) := by
  unfold endAs
  dsimp only
  (repeat' split) <;> simp [h]

@[simp] theorem canonMem_endWith (h : CanonMem s) {c g cause arg want} : CanonMem (endWith s c g cause arg want) := by unfold endWith; simp [h]

end Sys2Proof.Machine
end

section
/-! PROOFS. Engine commands, pages, queues and packets that leave keep the canonical form of memory. -/

namespace Sys2Proof.Machine

variable {s : State}

/-! ## Traps and records -/

@[simp] theorem canonMem_takeFree : CanonMem (takeFree s).2 ↔ CanonMem s := Iff.rfl

/-! ## The Huddle -/

@[simp] theorem canonMem_emitBin (h : CanonMem s) {k g} : CanonMem (emitBin s k g) := by unfold emitBin; simp [h]
@[simp] theorem canonMem_emitBins (h : CanonMem s) {w} : CanonMem (emitBins s w) := h.foldl fun t e ht => by simp [ht]
@[simp] theorem canonMem_newBin (h : CanonMem s) {g full} : CanonMem (newBin s g full) := by unfold newBin; simp [h]
@[simp] theorem canonMem_spawn (h : CanonMem s) {g m pc} : CanonMem (spawn s g m pc) := by unfold spawn; dsimp only; (repeat' split) <;> simp [h]

@[simp] theorem canonMem_arriveJoin (h : CanonMem s) {c g pc} : CanonMem (arriveJoin s c g pc) := by
  unfold arriveJoin
  extract_lets homes s1 s2 lost s3
  have h1 : CanonMem s1 := by simp [s1, h]
  have h2 : CanonMem s2 := h1.foldl fun t x ht => by simp [ht]
  have h3 : CanonMem s3 := h2.foldl fun t x ht => by simp [ht]
  split
  · exact canonMem_afterEnd h3
  · exact h3

/-! ## The race detector -/

@[simp] theorem canonMem_stampAll {g isStore ms} : CanonMem (stampAll s g isStore ms) ↔ CanonMem s := Iff.rfl

/-! ## Packets that leave -/

@[simp] theorem canonMem_buffer {p} : CanonMem (buffer s p) ↔ CanonMem s := Iff.rfl
@[simp] theorem canonMem_takeSeq {dev} : CanonMem (takeSeq s dev).2 ↔ CanonMem s := Iff.rfl

@[simp] theorem canonMem_sendNack {p code} : CanonMem (sendNack s p code) ↔ CanonMem s := by
  unfold sendNack
  split
  · rfl
  · dsimp only
    split <;> simp

@[simp] theorem canonMem_route {p} : CanonMem (route s p) ↔ CanonMem s := by unfold route; split <;> simp

@[simp] theorem canonMem_sendReply {type dst af off payload conf} : CanonMem (sendReply s type dst af off payload conf) ↔ CanonMem s := by
  unfold sendReply
  simp

@[simp] theorem canonMem_sendNotice {type dst af} : CanonMem (sendNotice s type dst af) ↔ CanonMem s := by
  unfold sendNotice
  split <;> simp

@[simp] theorem canonMem_sendUnsent : CanonMem (sendUnsent s) ↔ CanonMem s := by unfold sendUnsent; simp
@[simp] theorem canonMem_renewNotices {dev} : CanonMem (renewNotices s dev) ↔ CanonMem s := by unfold renewNotices; simp

@[simp] theorem canonMem_sendRequest {type dst af off payload conf cmd unit xfer aux} :
    CanonMem (sendRequest s type dst af off payload conf cmd unit xfer aux) ↔ CanonMem s := by
  unfold sendRequest
  simp

/-! ## Accesses that are performed -/

@[simp] theorem canonMem_winStore (h : CanonMem s) {tenant va bs} : CanonMem (winStore s tenant va bs).1 := by
  unfold winStore
  (repeat' split) <;> simp [h]

@[simp] theorem canonMem_putOp {k o} : CanonMem (putOp s k o) ↔ CanonMem s := Iff.rfl
@[simp] theorem canonMem_fillL1 (h : CanonMem s) {o a} : CanonMem (fillL1 s o a) := by unfold fillL1; split <;> simp [h]

@[simp] theorem canonMem_performLane (h : CanonMem s) {k l} : CanonMem (performLane s k l) := by
  unfold performLane
  split
  · exact h
  · dsimp only
    split
    · split
      · exact CanonMem.foldl (by simp [h]) fun t x ht => by simp [ht]
      · exact h
    · exact h

@[simp] theorem canonMem_afterOp (h : CanonMem s) {w} : CanonMem (afterOp s w) := by unfold afterOp; simp [h]
@[simp] theorem canonMem_endOp (h : CanonMem s) {k o err cls} : CanonMem (endOp s k o err cls) := by unfold endOp; simp [h]
@[simp] theorem canonMem_clearFull {o} : CanonMem (clearFull s o) ↔ CanonMem s := by unfold clearFull; simp
@[simp] theorem canonMem_doneAcc (h : CanonMem s) {k o f err cls} : CanonMem (doneAcc s k o f err cls) := by unfold doneAcc; simp [h]
@[simp] theorem canonMem_failAcc (h : CanonMem s) {k o lane} : CanonMem (failAcc s k o lane) := by unfold failAcc; simp [h]
@[simp] theorem canonMem_sendAcc (h : CanonMem s) {k o x} : CanonMem (sendAcc s k o x) := by unfold sendAcc; simp [h]
@[simp] theorem canonMem_performLoad (h : CanonMem s) {k l} : CanonMem (performLoad s k l) := by unfold performLoad; (repeat' split) <;> simp [h]

@[simp] theorem canonMem_laneBytes {o l} : CanonMem (laneBytes s o l).1 ↔ CanonMem s := by
  unfold laneBytes
  dsimp only
  split <;> simp

@[simp] theorem canonMem_landGP (h : CanonMem s) {ctx n v bad} : CanonMem (landGP s ctx n v bad) := by unfold landGP; simp [h]

@[simp] theorem canonMem_landLane (h : CanonMem s) {o l} : CanonMem (landLane s o l) := by
  unfold landLane
  dsimp only
  split <;> simp [h]

@[simp] theorem canonMem_landLanes (h : CanonMem s) {k m} : CanonMem (landLanes s k m) := by
  unfold landLanes
  split
  · exact h
  · extract_lets ls s1
    have h1 : CanonMem s1 := h.foldl fun t l ht => by simp [ht]
    split
    · exact h1
    · next o1 _ =>
      have h2 : CanonMem (ls.foldl (fun t l => landLane t o1 l) s1) := h1.foldl fun t l ht => by simp [ht]
      simp [h, h2]

@[simp] theorem canonMem_storePriv (h : CanonMem s) {o x} : CanonMem (storePriv s o x) := by
  unfold storePriv
  dsimp only
  (repeat' split) <;> simp [h]

@[simp] theorem canonMem_atomWrite (h : CanonMem s) {o x bs} : CanonMem (atomWrite s o x bs) := by unfold atomWrite; simp [h]
@[simp] theorem canonMem_landAtom (h : CanonMem s) {o l v bad} : CanonMem (landAtom s o l v bad) := by unfold landAtom; (repeat' split) <;> simp [h]

@[simp] theorem canonMem_performAtom (h : CanonMem s) {o x} : CanonMem (performAtom s o x).1 := by
  unfold performAtom
  dsimp only
  split <;> simp [h]

@[simp] theorem canonMem_landWoken (h : CanonMem s) {o} : CanonMem (landWoken s o) := h.foldl fun t x ht => by simp [ht]
@[simp] theorem canonMem_answer (h : CanonMem s) {c f} : CanonMem (answer s c f) := by unfold answer; simp [h]
@[simp] theorem canonMem_fillCore {core victim e} : CanonMem (fillCore s core victim e) ↔ CanonMem s := Iff.rfl

@[simp] theorem canonMem_walkReaches (h : CanonMem s) {page victim r fault c} : CanonMem (walkReaches s page victim r fault c) := by
  unfold walkReaches
  (repeat' split) <;> simp [h]

@[simp] theorem canonMem_walkGives (h : CanonMem s) {w victim r fault} : CanonMem (walkGives s w victim r fault) := by
  refine CanonMem.foldl ?_ fun t c ht => by simp [ht]
  split <;> simp [h]

@[simp] theorem canonMem_dropTlb {chip idx i} : CanonMem (dropTlb s chip idx i) ↔ CanonMem s := by unfold dropTlb; (repeat' split) <;> simp
@[simp] theorem canonMem_dropWalkEntry {i} : CanonMem (dropWalkEntry s i) ↔ CanonMem s := Iff.rfl
@[simp] theorem canonMem_dropRace {sec} : CanonMem (dropRace s sec) ↔ CanonMem s := by unfold dropRace; simp

/-! ## Engine commands -/

theorem canonMem_acceptE (h : CanonMem s) {c g f enter} (entered : ∀ t k x, CanonMem t → CanonMem (enter t k x)) : CanonMem (acceptE s c g f enter) := by
  unfold acceptE
  refine entered _ _ _ (canonMem_putGroup ?_)
  split <;> simp [h]

@[simp] theorem canonMem_enterPlain {_k _c} : CanonMem (enterPlain s _k _c) ↔ CanonMem s := Iff.rfl
@[simp] theorem canonMem_enterMod {f k _c} : CanonMem (enterMod f s k _c) ↔ CanonMem s := Iff.rfl
@[simp] theorem canonMem_landLines {k w ls} : CanonMem (landLines s k w ls) ↔ CanonMem s := by unfold landLines; simp
@[simp] theorem canonMem_engFault {k code addr} : CanonMem (engFault s k code addr) ↔ CanonMem s := by unfold engFault; split <;> simp

@[simp] theorem canonMem_withEntry (h : CanonMem s) {k c t} (ht : CanonMem t) : CanonMem (withEntry s k c t) := by
  unfold withEntry
  dsimp only
  split
  · simp [h]
  · split <;> simp [h, ht]

@[simp] theorem canonMem_finish (h : CanonMem s) {k c f} (hf : CanonFin f) : CanonMem (finish s k c f) := by
  unfold finish
  cases f with
  | wait => exact h
  | later t => exact hf
  | fault code addr => simp [h]
  | done t err res =>
    have ended : CanonMem (endCmd (modCmd t k fun d => { d with result := res }) k err) := canonMem_endCmd (by simpa using hf)
    exact canonMem_withEntry h (by simp [ended])

@[simp] theorem canonMem_endSlices (h : CanonMem s) {c err} : CanonMem (endSlices s c err) :=
  canonMem_afterOp (h.foldl fun t e ht => by simp [ht])

@[simp] theorem canonMem_endFailed (h : CanonMem s) {k} : CanonMem (endFailed s k) := by
  unfold endFailed
  split <;> simp [h]

/-! ## Copies -/

@[simp] theorem canonMem_startColl {w ks} : CanonMem (startColl s w ks) ↔ CanonMem s := by unfold startColl; simp

@[simp] theorem canonMem_enterCopy {s0 : State} (h : CanonMem s0) {k c} : CanonMem (enterCopy s0 k c) := by
  unfold enterCopy
  extract_lets ls s tag setColl
  have absent : CanonMem s := by simp [s, h]
  split
  · split
    · simp [absent]
    · simp [setColl, absent]
  · split
    · split
      · simp [setColl, absent]
      · simp [setColl, absent]
    · exact CanonMem.foldl (by simp [setColl, absent]) fun t j ht => by simp [ht]

@[simp] theorem canonMem_writeSlot {core slot row bs} : CanonMem (writeSlot s core slot row bs) ↔ CanonMem s := Iff.rfl

@[simp] theorem canonMem_addXa (h : CanonMem s) {core asid va bs} : CanonMem (addXa s core asid va bs).1 :=
  canonMem_foldl_fst h fun acc i hacc => by simp [hacc]

@[simp] theorem canonMem_engWait {c spad a n} : CanonMem (engWait s c spad a n) ↔ CanonMem s := by unfold engWait; simp
@[simp] theorem canonMem_engSeen {c spad a n} : CanonMem (engSeen s c spad a n) ↔ CanonMem s := by unfold engSeen; simp
@[simp] theorem canonMem_markLanded {k i err} : CanonMem (markLanded s k i err) ↔ CanonMem s := Iff.rfl
@[simp] theorem canonMem_restoreColl {c} : CanonMem (restoreColl s c) ↔ CanonMem s := by unfold restoreColl; simp

@[simp] theorem canonMem_landCopy (h : CanonMem s) {k i c} : CanonMem (landCopy s k i c) := by
  unfold landCopy
  split
  · exact h
  · split
    · simp [h]
    · simp [h]
    · next bs bad _ =>
      extract_lets d s1
      have h1 : CanonMem s1 := by simp [s1, h]
      split
      · simp [h1]
      · split
        · simp [h1]
        · split
          · simp [h]
          · split
            · simp [h1]
            · split
              · exact canonMem_markLanded.mpr (canonMem_addXa h1)
              · simp [h1]

@[simp] theorem canonMem_endCopy (h : CanonMem s) {k c} : CanonMem (endCopy s k c) := by unfold endCopy; simp [h]

/-! ## Matrix products and accumulators -/

@[simp] theorem canonMem_noteReady : CanonMem (noteReady s) ↔ CanonMem s := by unfold noteReady; simp
@[simp] theorem canonMem_shadowError {cmd words} : CanonMem (shadowError s cmd words) ↔ CanonMem s := Iff.rfl
@[simp] theorem canonMem_enterAcc {k c} : CanonMem (enterAcc s k c) ↔ CanonMem s := by unfold enterAcc; simp
@[simp] theorem canonMem_poisonLines {pa n} : CanonMem (poisonLines s pa n) ↔ CanonMem s := by unfold poisonLines; split <;> simp
@[simp] theorem canonMem_poisonWords {core asid va sz js} : CanonMem (poisonWords s core asid va sz js) ↔ CanonMem s := by unfold poisonWords; simp
@[simp] theorem canonMem_landAcc (h : CanonMem s) {k i c} : CanonMem (landAcc s k i c) := by unfold landAcc; dsimp only; (repeat' split) <;> simp [h]
@[simp] theorem canonFin_finAcc (h : CanonMem s) {c} : CanonFin (finAcc s c) := by unfold finAcc; simp [h]

/-! ## Slots and chains -/

@[simp] theorem canonMem_setHolder {core ss x2} : CanonMem (setHolder s core ss x2) ↔ CanonMem s := Iff.rfl
@[simp] theorem canonMem_grantClaim (h : CanonMem s) {k c} : CanonMem (grantClaim s k c) := by unfold grantClaim; simp [h]
@[simp] theorem canonMem_enterClaim (h : CanonMem s) {k c} : CanonMem (enterClaim s k c) := by unfold enterClaim; simp [h]
@[simp] theorem canonFin_finSlot (h : CanonMem s) {k c} : CanonFin (finSlot s k c) := by unfold finSlot; simp [h]
@[simp] theorem canonMem_setChain {core ch x} : CanonMem (setChain s core ch x) ↔ CanonMem s := Iff.rfl
@[simp] theorem canonFin_finChainSet (h : CanonMem s) {c} : CanonFin (finChainSet s c) := by unfold finChainSet; (repeat' split) <;> simp [h]
@[simp] theorem canonFin_finChainAdv (h : CanonMem s) {c} : CanonFin (finChainAdv s c) := by unfold finChainAdv; split <;> simp [h]
@[simp] theorem canonFin_finChain (h : CanonMem s) {k c} : CanonFin (finChain s k c) := by unfold finChain; simp [h]
@[simp] theorem canonFin_finSeqw (h : CanonMem s) {k c} : CanonFin (finSeqw s k c) := by unfold finSeqw; simp [h]

/-! ## Page instructions -/

@[simp] theorem canonMem_locAsk {l o n} : CanonMem (locAsk s l o n) ↔ CanonMem s := by unfold locAsk; split <;> simp
@[simp] theorem canonMem_locTouch {l o n} : CanonMem (locTouch s l o n) ↔ CanonMem s := by unfold locTouch; split <;> simp
@[simp] theorem canonMem_poisonVirt {phys va n} : CanonMem (poisonVirt s phys va n) ↔ CanonMem s := by unfold poisonVirt; simp
@[simp] theorem canonMem_locWrite (h : CanonMem s) {l o bs bad} : CanonMem (locWrite s l o bs bad) := by unfold locWrite; split <;> simp [h]
@[simp] theorem canonMem_locCopyBy (h : CanonMem s) {rd dst o n} : CanonMem (locCopyBy rd s dst o n) := h.foldl fun t i ht => by simp [ht]
@[simp] theorem canonMem_locCopy (h : CanonMem s) {src dst o n} : CanonMem (locCopy s src dst o n) := canonMem_locCopyBy h
@[simp] theorem canonMem_enterGat {k c} : CanonMem (enterGat s k c) ↔ CanonMem s := by unfold enterGat; split <;> simp
@[simp] theorem canonMem_writeRow {w off line bs} : CanonMem (writeRow s w off line bs) ↔ CanonMem s := Iff.rfl
@[simp] theorem canonFin_finGat (h : CanonMem s) {k c} : CanonFin (finGat s k c) := by unfold finGat; simp [h]

@[simp] theorem canonMem_appWrite (h : CanonMem s) {k c now idx pos layer tok krow vrow p hd own} :
    CanonMem (appWrite s k c now idx pos layer tok krow vrow p hd own) := by
  unfold appWrite
  extract_lets q t at_ s1 s2 p1 isNew x y
  have h1 : CanonMem s1 := h.foldl fun t e ht => by simp [ht]
  simp [s2, h1]

@[simp] theorem canonFin_finApp (h : CanonMem s) {k c} : CanonFin (finApp s k c) := by unfold finApp; dsimp only; (repeat' split) <;> simp [h]
@[simp] theorem canonFin_finPin (h : CanonMem s) {c} : CanonFin (finPin s c) := by unfold finPin; split <;> simp [h]

theorem canonMem_of_forkHandle {t : State} {parent idx st c} (ht : forkHandle s parent idx st c = some t) : CanonMem t ↔ CanonMem s := by
  unfold forkHandle at ht
  split at ht
  · cases ht
  · dsimp only at ht
    split at ht
    · cases ht
    · cases ht
      simp

@[simp] theorem canonFin_finFrk (h : CanonMem s) {c} : CanonFin (finFrk s c) := by
  unfold finFrk
  dsimp only
  split
  · exact h
  · split
    · exact h
    · split
      · exact h
      · next ht => exact (canonMem_of_forkHandle ht).mpr h

@[simp] theorem canonMem_truncHandle {idx x} : CanonMem (truncHandle s idx x) ↔ CanonMem s := by
  unfold truncHandle
  dsimp only
  (repeat' split) <;> simp

@[simp] theorem canonFin_finHdl (h : CanonMem s) {c} : CanonFin (finHdl s c) := by unfold finHdl; simp [h]
@[simp] theorem canonFin_finPfxh (h : CanonMem s) {k c} : CanonFin (finPfxh s k c) := by unfold finPfxh; simp [h]
@[simp] theorem canonFin_finPfxl (h : CanonMem s) {k c} : CanonFin (finPfxl s k c) := by unfold finPfxl; dsimp only; (repeat' split) <;> simp [h]
@[simp] theorem canonMem_dropEntry {i} : CanonMem (dropEntry s i) ↔ CanonMem s := by unfold dropEntry; split <;> simp

@[simp] theorem canonMem_insertBlock {now t idx hash j} : CanonMem (insertBlock s now t idx hash j).1 ↔ CanonMem s := by
  unfold insertBlock
  dsimp only
  (repeat' split) <;> simp

@[simp] theorem canonMem_insertBlocks {now t idx hash j n got} : CanonMem (insertBlocks s now t idx hash j n got).1 ↔ CanonMem s := by
  induction n generalizing s j got with
  | zero => rfl
  | succ n ih =>
    have one := canonMem_insertBlock (s := s) (now := now) (t := t) (idx := idx) (hash := hash j) (j := j)
    unfold insertBlocks
    split
    · next heq => simpa [heq] using one
    · next heq => rw [heq] at one; exact ih.trans one

@[simp] theorem canonFin_finPfxi (h : CanonMem s) {k c} : CanonFin (finPfxi s k c) := by unfold finPfxi; simp [h]
@[simp] theorem canonFin_finPage (h : CanonMem s) {k c} : CanonFin (finPage s k c) := by unfold finPage; simp [h]

/-! ## Alarms -/

@[simp] theorem canonMem_zeroise : CanonMem (zeroise s) ↔ CanonMem s := Iff.rfl
@[simp] theorem canonMem_alarmRise {t} : CanonMem (alarmRise s t) ↔ CanonMem t := by unfold alarmRise; simp
@[simp] theorem canonMem_raiseAlarm {bit} : CanonMem (raiseAlarm s bit) ↔ CanonMem s := by unfold raiseAlarm; simp
@[simp] theorem canonMem_raiseHeld : CanonMem (raiseHeld s) ↔ CanonMem s := by unfold raiseHeld; simp
@[simp] theorem canonMem_tagFail : CanonMem (tagFail s) ↔ CanonMem s := by unfold tagFail; simp

/-! ## Queues -/

@[simp] theorem canonMem_hostWrite (h : CanonMem s) {a bs} : CanonMem (hostWrite s a bs) := by
  unfold hostWrite
  rw [canonMem_ite, canonMem_mk]
  simp [h.1, h.2, wf_mwrite h.2]

@[simp] theorem canonMem_setQp {fn q p} : CanonMem (setQp s fn q p) ↔ CanonMem s := Iff.rfl

@[simp] theorem canonMem_writeEntry (h : CanonMem s) {fn q cid sqhead status res} : CanonMem (writeEntry s fn q cid sqhead status res) := by
  unfold writeEntry
  dsimp only
  split
  · exact h
  · exact ⟨h.1, wf_mwrite h.2 _ _⟩

@[simp] theorem canonMem_drainPosts (h : CanonMem s) {fn q n} : CanonMem (drainPosts s fn q n) := by
  induction n generalizing s with
  | zero => exact h
  | succ n ih =>
    unfold drainPosts
    dsimp only
    split
    · exact h
    · simp [h, ih]

@[simp] theorem canonMem_complete (h : CanonMem s) {o status res} : CanonMem (complete s o status res) := by unfold complete; simp [h]
@[simp] theorem canonMem_ringOut {fn q} : CanonMem (ringOut s fn q) ↔ CanonMem s := Iff.rfl
@[simp] theorem canonMem_writeSqtdb {fn q v} : CanonMem (writeSqtdb s fn q v) ↔ CanonMem s := by unfold writeSqtdb; simp
@[simp] theorem canonMem_writeCqhdb (h : CanonMem s) {fn q v} : CanonMem (writeCqhdb s fn q v) := by unfold writeCqhdb; simp [h]
@[simp] theorem canonMem_writeQctl {fn q v} : CanonMem (writeQctl s fn q v) ↔ CanonMem s := by unfold writeQctl; simp
@[simp] theorem canonMem_regWrite (h : CanonMem s) {fn off v} : CanonMem (regWrite s fn off v) := by unfold regWrite; simp [h]
@[simp] theorem canonMem_advanceHead {fn q} : CanonMem (advanceHead s fn q) ↔ CanonMem s := Iff.rfl
@[simp] theorem canonMem_writeRecord (h : CanonMem s) {tn bits} : CanonMem (writeRecord s tn bits) := by unfold writeRecord; split <;> simp [h]

/-! ## Hand-offs that leave -/

@[simp] theorem canonMem_modReq {i f} : CanonMem (modReq s i f) ↔ CanonMem s := Iff.rfl
@[simp] theorem canonMem_endXfer (h : CanonMem s) {k status res} : CanonMem (endXfer s k status res) := by unfold endXfer; split <;> simp [h]
@[simp] theorem canonMem_failExport (h : CanonMem s) {k} : CanonMem (failExport s k) := by unfold failExport; split <;> simp [h]
@[simp] theorem canonMem_doneExport (h : CanonMem s) {k} : CanonMem (doneExport s k) := by unfold doneExport; split <;> simp [h]

@[simp] theorem canonMem_sendPieces {y xfer bss} : CanonMem (sendPieces s y xfer bss).1 ↔ CanonMem s := by
  induction bss generalizing s with
  | nil => rfl
  | cons bs t ih =>
    unfold sendPieces
    split
    · simp [ih]
    · rfl

@[simp] theorem canonMem_handOver {y role xfer b} : CanonMem (handOver s y role xfer b).1 ↔ CanonMem s := by
  unfold handOver
  split
  · simp
  · split <;> simp

@[simp] theorem canonMem_handAll {x k bs} : CanonMem (handAll s x k bs).1 ↔ CanonMem s := by
  induction bs generalizing s with
  | nil => rfl
  | cons b t ih =>
    unfold handAll
    dsimp only
    split <;> simp [ih]

@[simp] theorem canonMem_startExport (h : CanonMem s) {k} : CanonMem (startExport s k) := by
  unfold startExport
  split
  · exact h
  · split
    · simp [h]
    · dsimp only
      split
      · simp [h]
      · split
        · simp [h]
        · split <;> simp [h]

end Sys2Proof.Machine
end

section
/-! PROOFS. The fabric, requests, launches, page tables and host commands keep the canonical form of memory. -/

namespace Sys2Proof.Machine

variable {s : State}

/-! ## Fabric commands -/

@[simp] theorem canonMem_dropSent {k} : CanonMem (dropSent s k) ↔ CanonMem s := Iff.rfl
@[simp] theorem canonMem_failCmd (h : CanonMem s) {k c} : CanonMem (failCmd s k c) := by unfold failCmd; simp [h]
@[simp] theorem canonMem_spendSent {k} : CanonMem (spendSent s k) ↔ CanonMem s := Iff.rfl
@[simp] theorem canonMem_abortFabric (h : CanonMem s) {k refused} : CanonMem (abortFabric s k refused) := by unfold abortFabric; split <;> simp [h]
@[simp] theorem canonMem_sendPut (h : CanonMem s) {k i c} : CanonMem (sendPut s k i c) := by unfold sendPut; dsimp only; (repeat' split) <;> simp [h]
@[simp] theorem canonMem_sendGet (h : CanonMem s) {k i c} : CanonMem (sendGet s k i c) := by unfold sendGet; simp [h]
@[simp] theorem canonMem_sendAtomic (h : CanonMem s) {k c} : CanonMem (sendAtomic s k c) := by unfold sendAtomic; simp [h]
@[simp] theorem canonMem_sendResv (h : CanonMem s) {k c} : CanonMem (sendResv s k c) := by unfold sendResv; simp [h]

@[simp] theorem canonMem_sendReduce {k retx dst ranks data cmd unit} : CanonMem (sendReduce s k retx dst ranks data cmd unit) ↔ CanonMem s := by
  unfold sendReduce
  simp

@[simp] theorem canonMem_keepOwn {f} : CanonMem (keepOwn s f) ↔ CanonMem s := Iff.rfl
@[simp] theorem canonMem_keepFold {f} : CanonMem (keepFold s f) ↔ CanonMem s := Iff.rfl
@[simp] theorem canonMem_landRed {key data} : CanonMem (landRed s key data) ↔ CanonMem s := by unfold landRed; split <;> simp
@[simp] theorem canonMem_foldDone {f} : CanonMem (foldDone s f) ↔ CanonMem s := by unfold foldDone; simp
@[simp] theorem canonMem_foldIn {key ranks data} : CanonMem (foldIn s key ranks data) ↔ CanonMem s := by unfold foldIn; simp
@[simp] theorem canonMem_contribute {k c u retx data} : CanonMem (contribute s k c u retx data) ↔ CanonMem s := by unfold contribute; simp
@[simp] theorem canonMem_sendRed (h : CanonMem s) {k u c} : CanonMem (sendRed s k u c) := by unfold sendRed; simp [h]
@[simp] theorem canonMem_sendPart (h : CanonMem s) {k i c} : CanonMem (sendPart s k i c) := by unfold sendPart; simp [h]
@[simp] theorem canonMem_setLz {core i z} : CanonMem (setLz s core i z) ↔ CanonMem s := Iff.rfl
@[simp] theorem canonMem_endLzWait (h : CanonMem s) {k c} : CanonMem (endLzWait s k c) := by unfold endLzWait; simp [h]

@[simp] theorem canonMem_settleLz (h : CanonMem s) {core slot} : CanonMem (settleLz s core slot) :=
  h.foldl fun t k ht => by split <;> simp [ht]

@[simp] theorem canonMem_armLz {k c} : CanonMem (armLz s k c) ↔ CanonMem s := by unfold armLz; simp
@[simp] theorem canonMem_relLz {k c} : CanonMem (relLz s k c) ↔ CanonMem s := by unfold relLz; simp
@[simp] theorem canonMem_readLz {k c} : CanonMem (readLz s k c) ↔ CanonMem s := Iff.rfl
@[simp] theorem canonMem_doLz (h : CanonMem s) {k c} : CanonMem (doLz s k c) := by unfold doLz; simp [h]
@[simp] theorem canonMem_enterWait (h : CanonMem s) {_k c} : CanonMem (enterWait s _k c) := by unfold enterWait; simp [h]

@[simp] theorem canonFin_finFabric (h : CanonMem s) {k c} : CanonFin (finFabric s k c) := by
  unfold finFabric
  dsimp only
  (repeat' split) <;> simp [h]

@[simp] theorem canonMem_enterFabric (h : CanonMem s) {k c} : CanonMem (enterFabric s k c) := by unfold enterFabric; simp [h]

/-! ## Packets that arrive -/

@[simp] theorem canonMem_takePacket {p} : CanonMem (takePacket s p) ↔ CanonMem s := Iff.rfl
@[simp] theorem canonMem_sendBack {p r} : CanonMem (sendBack s p r) ↔ CanonMem s := by unfold sendBack; simp
@[simp] theorem canonMem_noteSeq {p r} : CanonMem (noteSeq s p r) ↔ CanonMem s := Iff.rfl

theorem canonMem_receive (h : CanonMem s) {type p port f} (hf : ∀ t, CanonMem t → CanonMem (f t).1) : CanonMem (receive type p port s f) := by
  unfold receive
  split
  · exact h
  · extract_lets s1 x r s2
    have h1 : CanonMem s1 := by simp [s1, h]
    have h2 : CanonMem s2 := by simp [s2, r, hf s1 h1]
    split
    · exact h1
    · split
      · simp [h1]
      · split
        · exact h1
        · split
          · simp [h1]
          · exact h1
          · split <;> simp [h2]

theorem canonMem_onExport (h : CanonMem s) {p off n w f} (hf : ∀ asid va, CanonMem (f asid va).1) : CanonMem (onExport s p off n w f).1 := by
  unfold onExport
  split
  · exact h
  · dsimp only
    split
    · exact h
    · exact hf _ _

@[simp] theorem canonMem_retire {x} : CanonMem (retire s x) ↔ CanonMem s := Iff.rfl
@[simp] theorem canonMem_ackPart {k u} : CanonMem (ackPart s k u) ↔ CanonMem s := Iff.rfl
@[simp] theorem canonMem_endAnswered (h : CanonMem s) {k} : CanonMem (endAnswered s k) := by unfold endAnswered; split <;> simp [h]
@[simp] theorem canonMem_acked (h : CanonMem s) {x} : CanonMem (acked s x) := by unfold acked; dsimp only; (repeat' split) <;> simp [h]

@[simp] theorem canonMem_landGet (h : CanonMem s) {k i c bs} : CanonMem (landGet s k i c bs) := by
  unfold landGet
  dsimp only
  (repeat' split) <;> simp [h]

@[simp] theorem canonMem_landFar {k o lane bs} : CanonMem (landFar s k o lane bs) ↔ CanonMem s := by unfold landFar; simp
@[simp] theorem canonMem_resend {x} : CanonMem (resend s x) ↔ CanonMem s := by unfold resend; simp

@[simp] theorem canonMem_abortSent (h : CanonMem s) {x refused} : CanonMem (abortSent s x refused) := by
  unfold abortSent
  (repeat' split) <;> simp [h]

@[simp] theorem canonMem_again (h : CanonMem s) {x} : CanonMem (again s x) := by unfold again; simp [h]
@[simp] theorem canonMem_resendNotice {e} : CanonMem (resendNotice s e) ↔ CanonMem s := by unfold resendNotice; simp
@[simp] theorem canonMem_tearLz (h : CanonMem s) {core i} : CanonMem (tearLz s core i) := by unfold tearLz; simp [h]

theorem canonMem_toSlot (h : CanonMem s) {type p port f} (hf : ∀ t, CanonMem t → CanonMem (f t).1) : CanonMem (toSlot type p port s f) := by
  unfold toSlot
  split
  · exact canonMem_receive h hf
  · exact h
  · exact canonMem_receive h fun t ht => ht

@[simp] theorem canonMem_tearPut (h : CanonMem s) {k} : CanonMem (tearPut s k) := by unfold tearPut; split <;> simp [h]

@[simp] theorem canonMem_resendParts (h : CanonMem s) {k c us} : CanonMem (resendParts s k c us) := by
  induction us generalizing s with
  | nil => exact h
  | cons u us ih => unfold resendParts; simp [h, ih]

/-! ## The page engine -/

@[simp] theorem canonMem_copyFrame (h : CanonMem s) {p f toTier2} : CanonMem (copyFrame s p f toTier2) := h.foldl fun t l ht => by simp [ht]

/-! ## Sampling -/

@[simp] theorem canonMem_penAsk {core asid p} : CanonMem (penAsk s core asid p) ↔ CanonMem s := by unfold penAsk; simp
@[simp] theorem canonMem_penTouch {core asid p} : CanonMem (penTouch s core asid p) ↔ CanonMem s := by unfold penTouch; simp
@[simp] theorem canonFin_finRomSmpl (h : CanonMem s) {k c} : CanonFin (finRomSmpl s k c) := by unfold finRomSmpl; (repeat' split) <;> simp [h]

@[simp] theorem canonFin_finSmpl (h : CanonMem s) {k c} : CanonFin (finSmpl s k c) := by
  unfold finSmpl
  extract_lets n
  split
  · simp [h]
  · split
    · trivial
    · next ents asid pens poisoned out _ _ =>
      have sampled : CanonMem out.1 := canonMem_foldl_fst (by simp [h]) fun acc e hacc => by split <;> simp [hacc]
      split
      · simp [h]
      · split
        · trivial
        · exact sampled

@[simp] theorem canonFin_finSmrg (h : CanonMem s) {k c} : CanonFin (finSmrg s k c) := by unfold finSmrg; dsimp only; (repeat' split) <;> simp [h]
@[simp] theorem canonFin_finAcpt (h : CanonMem s) {k c} : CanonFin (finAcpt s k c) := by unfold finAcpt; (repeat' split) <;> simp [h]

/-! ## Requests -/

@[simp] theorem canonMem_emitDone (h : CanonMem s) {k} : CanonMem (emitDone s k) := by unfold emitDone; split <;> simp [h]

@[simp] theorem canonMem_afterRecord (h : CanonMem s) {r} : CanonMem (afterRecord s r) := by
  unfold afterRecord
  refine CanonMem.foldl ?_ fun t e ht => by simp [ht]
  split <;> simp [h]

@[simp] theorem canonMem_drainStream (h : CanonMem s) {tn n} : CanonMem (drainStream s tn n) := by
  induction n generalizing s with
  | zero => exact h
  | succ n ih =>
    unfold drainStream
    split
    · exact h
    · split
      · exact h
      · next t _ _ r q _ =>
        have written : CanonMem (writeRecord { s with tenants := tset s.tenants tn { t with queue := q } } tn r.bits) := by simp [h]
        simp [h, ih, written]

@[simp] theorem canonMem_putStream (h : CanonMem s) {tn r} : CanonMem (putStream s tn r) := by unfold putStream; split <;> simp [h]
@[simp] theorem canonMem_dropWanted (h : CanonMem s) {i} : CanonMem (dropWanted s i) := by unfold dropWanted; (repeat' split) <;> simp [h]

@[simp] theorem canonMem_endReq (h : CanonMem s) {i iter st reason post} : CanonMem (endReq s i iter st reason post) := by
  unfold endReq
  split <;> simp [h]

@[simp] theorem canonMem_failReq (h : CanonMem s) {i iter} : CanonMem (failReq s i iter) := by unfold failReq; split <;> simp [h]
@[simp] theorem canonMem_cancelReq (h : CanonMem s) {i iter extra} : CanonMem (cancelReq s i iter extra) := by unfold cancelReq; split <;> simp [h]

@[simp] theorem canonMem_countToks (h : CanonMem s) {core asid p toks} : CanonMem (countToks s core asid p toks).2.1 := by
  unfold countToks
  dsimp only
  (repeat' split) <;> simp [h]

@[simp] theorem canonMem_countStep {r i} : CanonMem (countStep s r i) ↔ CanonMem s := by unfold countStep; split <;> simp
@[simp] theorem canonMem_raiseC {x0 x} : CanonMem (raiseC s x0 x) ↔ CanonMem s := Iff.rfl

@[simp] theorem canonMem_commitReq (h : CanonMem s) {i iter} : CanonMem (commitReq s i iter) := by
  unfold commitReq
  split
  · exact h
  · extract_lets len s1 tm s2
    have h2 : CanonMem s2 := by simp [s2, s1, h]
    split
    · extract_lets s3 s4
      have h4 : CanonMem s4 := CanonMem.foldl (by simp [s3, h2]) fun t o ht => by simp [ht]
      split <;> simp [h4]
    · split
      · simp [h2]
      · next s3 _ _ _ =>
        have h3 : CanonMem s3 := by simp [s3, h2]
        split <;> simp [h3]

@[simp] theorem canonFin_finCommit (h : CanonMem s) {c} : CanonFin (finCommit s c) := by
  unfold finCommit
  split
  · exact h
  · next r _ =>
    have counted := canonMem_countToks h (core := c.core) (asid := cmdAsid s c) (p := r.penalty) (toks := r.pend)
    split
    · exact h
    · split
      · simp [h]
      · split
        · trivial
        · next t full heq =>
          rw [heq] at counted
          exact canonMem_commitReq counted

@[simp] theorem canonFin_finReq (h : CanonMem s) {k c} : CanonFin (finReq s k c) := by unfold finReq; (repeat' split) <;> simp [h]
@[simp] theorem canonMem_runEmit (h : CanonMem s) {k c} : CanonMem (runEmit s k c) := by unfold runEmit; (repeat' split) <;> simp [h]

/-! ## Engine events -/

@[simp] theorem canonFin_finPrs (h : CanonMem s) {c} : CanonFin (finPrs s c) := by unfold finPrs; simp [h]
@[simp] theorem canonFin_finFence (h : CanonMem s) {k c} : CanonFin (finFence s k c) := by unfold finFence; simp [h]
@[simp] theorem canonFin_finOf (h : CanonMem s) {k c} : CanonFin (finOf s k c) := by unfold finOf; simp [h]
@[simp] theorem canonMem_completeCmd (h : CanonMem s) {k c} : CanonMem (completeCmd s k c) := by unfold completeCmd; simp [h]
@[simp] theorem canonMem_enterEntry (h : CanonMem s) {k c} : CanonMem (enterEntry s k c) := by unfold enterEntry; simp [h]

@[simp] theorem canonMem_holdEntry {core ch k x m mark reason code va} : CanonMem (holdEntry s core ch k x m mark reason code va) ↔ CanonMem s := by
  unfold holdEntry
  simp

@[simp] theorem canonMem_takeEntry (h : CanonMem s) {core ch k x} : CanonMem (takeEntry s core ch k x) := by
  unfold takeEntry
  dsimp only
  (repeat' split) <;> simp [h]

@[simp] theorem canonMem_endRejected (h : CanonMem s) {k c} : CanonMem (endRejected s k c) := by
  unfold endRejected
  split
  · exact h
  · next ch e _ =>
    have ended : CanonMem (endEntry { s with cmds := tdel s.cmds k } c.core ch e 3 c.phase 0) := by simp [h]
    split
    · exact h
    · exact canonMem_withEntry h (canonMem_afterOp ended)

/-! ## Launches and task graphs -/

@[simp] theorem canonMem_makeLaunch {tenant d o} : CanonMem (makeLaunch s tenant d o) ↔ CanonMem s := Iff.rfl
@[simp] theorem canonMem_modTask {g k f} : CanonMem (modTask s g k f) ↔ CanonMem s := Iff.rfl

@[simp] theorem canonMem_writeBlock (h : CanonMem s) {g k off v} : CanonMem (writeBlock s g k off v) := by
  unfold writeBlock
  (repeat' split) <;> simp [h]

@[simp] theorem canonMem_markRetired (h : CanonMem s) {g k status spread} : CanonMem (markRetired s g k status spread) := by
  unfold markRetired
  simp [h]

@[simp] theorem canonMem_decPred (h : CanonMem s) {g acc k} : CanonMem (decPred s g acc k).1 := by
  unfold decPred
  split <;> simp [h]

@[simp] theorem canonMem_retireTask (h : CanonMem s) {g k status} : CanonMem (retireTask s g k status).1 := by
  unfold retireTask
  split
  · exact h
  · dsimp only
    have marked : CanonMem (markRetired s g k status false) := by simp [h]
    split
    · exact canonMem_foldl_fst marked fun acc j hacc => canonMem_decPred hacc
    · refine marked.foldl fun t j ht => ?_
      split
      · simp [ht]
      · exact ht

@[simp] theorem canonMem_enterTasks (h : CanonMem s) {g n ks} : CanonMem (enterTasks s g n ks) := by
  induction n generalizing s ks with
  | zero => exact h
  | succ n ih =>
    cases ks with
    | nil => exact h
    | cons k ks =>
      have eligible : CanonMem (modTask s g k fun t => { t with eligible := true }) := by simp [h]
      unfold enterTasks
      dsimp only
      split
      · split <;> simp [ih, eligible]
      · exact ih eligible

@[simp] theorem canonMem_orderTasks {g} : CanonMem (orderTasks s g) ↔ CanonMem s := Iff.rfl
@[simp] theorem canonMem_settleGraph (h : CanonMem s) {g} : CanonMem (settleGraph s g) := by unfold settleGraph; (repeat' split) <;> simp [h]

@[simp] theorem canonMem_submitGraph (h : CanonMem s) {tenant base ks o} : CanonMem (submitGraph s tenant base ks o) := by
  unfold submitGraph
  simp [h]

@[simp] theorem canonMem_taskEnds (h : CanonMem s) {g k status} : CanonMem (taskEnds s g k status) := by
  have entered : CanonMem (enterTasks (retireTask s g k status).1 g (taskCount s g) (retireTask s g k status).2) := by simp [h]
  unfold taskEnds
  simp [entered]

@[simp] theorem canonMem_putWg {core pw w pc param lin init places} : CanonMem (putWg s core pw w pc param lin init places).1 ↔ CanonMem s :=
  canonMem_foldl_fst_iff fun _ _ => Iff.rfl

theorem canonMem_of_placeWg {l k lin gang places r} (placed : placeWg s l k lin gang places = some r) : CanonMem r.1 ↔ CanonMem s := by
  obtain ⟨core, -, rfl⟩ := Option.map_eq_some_iff.mp placed
  simp

theorem canonMem_of_placeRanks {l k gang places lin n r} (placed : placeRanks s l k gang places lin n = some r) : CanonMem r.1 ↔ CanonMem s := by
  induction n generalizing s places lin with
  | zero => cases placed; rfl
  | succ n ih =>
    unfold placeRanks at placed
    split at placed
    · cases placed
    · next first => exact (ih placed).trans (canonMem_of_placeWg first)

@[simp] theorem canonMem_openGang {l n} : CanonMem (openGang s l n).2 ↔ CanonMem s := Iff.rfl

theorem canonMem_of_placeUnit {l k lin places r} (placed : placeUnit s l k lin places = some r) : CanonMem r.1 ↔ CanonMem s :=
  canonMem_of_placeRanks (s := (openGang s l k.desc.gang).2) placed

theorem canonMem_of_placeAll {l k places lin n r} (placed : placeAll s l k places lin n = some r) : CanonMem r.1 ↔ CanonMem s := by
  induction n generalizing s places lin with
  | zero => cases placed; rfl
  | succ n ih =>
    unfold placeAll at placed
    split at placed
    · cases placed
    · next first => exact (ih placed).trans (canonMem_of_placeUnit first)

@[simp] theorem canonMem_admitAll {places ls} : CanonMem (admitAll s places ls) ↔ CanonMem s := by
  induction ls generalizing s places with
  | nil => rfl
  | cons e ls ih =>
    unfold admitAll
    dsimp only
    split
    · rfl
    · next r placed =>
      rw [ih, canonMem_modLaunch]
      split at placed
      · exact canonMem_of_placeAll placed
      · exact canonMem_of_placeUnit placed

@[simp] theorem canonMem_resumeHeld (h : CanonMem s) {tenant} : CanonMem (resumeHeld s tenant) :=
  h.foldl fun t e ht => ht.foldl fun u r hu => by split <;> simp [hu]

@[simp] theorem canonMem_dropLaunch {l} : CanonMem (dropLaunch s l) ↔ CanonMem s := by unfold dropLaunch; simp
@[simp] theorem canonMem_taskOver (h : CanonMem s) {l k g i} : CanonMem (taskOver s l k g i) := by unfold taskOver; simp [h]

/-! ## Page tables -/

@[simp] theorem canonMem_zeroMem (h : CanonMem s) {pa n} : CanonMem (zeroMem s pa n) := ⟨wf_mclear h.1 _ _, h.2⟩

theorem canonMem_of_takeMem (h : CanonMem s) {pick lp n align r} (taken : takeMem s pick lp n align = some r) : CanonMem r.2.2 := by
  obtain ⟨b, -, rfl⟩ := Option.map_eq_some_iff.mp taken
  simp [h]

@[simp] theorem canonMem_giveMem {lo n} : CanonMem (giveMem s lo n) ↔ CanonMem s := Iff.rfl
@[simp] theorem canonMem_giveAll {l} : CanonMem (giveAll s l) ↔ CanonMem s := by unfold giveAll; simp
theorem canonMem_of_newTable (h : CanonMem s) {pick r} (taken : newTable s pick = some r) : CanonMem r.2.2 := canonMem_of_takeMem h taken
@[simp] theorem canonMem_setPte (h : CanonMem s) {table i e} : CanonMem (setPte s table i e) := ⟨wf_mwriteN h.1 _ _ _, h.2⟩

theorem canonMem_of_rootTable (h : CanonMem s) {pick asid r} (found : rootTable s pick asid = some r) : CanonMem r.2.2 := by
  unfold rootTable at found
  split at found
  · cases found; exact h
  · obtain ⟨x, taken, rfl⟩ := Option.map_eq_some_iff.mp found
    simp [canonMem_of_newTable h taken]

theorem canonMem_of_subTable (h : CanonMem s) {pick table i r} (found : subTable s pick table i = some r) : CanonMem r.2.2 := by
  unfold subTable at found
  dsimp only at found
  split at found
  · cases found; exact h
  · obtain ⟨x, taken, rfl⟩ := Option.map_eq_some_iff.mp found
    exact canonMem_setPte (canonMem_of_newTable h taken)

theorem canonMem_of_tableFor (h : CanonMem s) {pick asid va z r} (found : tableFor s pick asid va z = some r) : CanonMem r.2.2 := by
  unfold tableFor at found
  split at found
  · cases found
  · next root =>
    have h0 := canonMem_of_rootTable h root
    split at found
    · cases found; exact h0
    · split at found
      · cases found
      · next sub =>
        have h1 := canonMem_of_subTable h0 sub
        split at found
        · cases found; exact h1
        · exact canonMem_of_subTable h1 found

theorem canonMem_of_mapPage (h : CanonMem s) {pick asid z va pa bits r} (mapped : mapPage s pick asid z va pa bits = some r) : CanonMem r.2 := by
  obtain ⟨x, found, rfl⟩ := Option.map_eq_some_iff.mp mapped
  exact canonMem_setPte (canonMem_of_tableFor h found)

theorem canonMem_of_takeFrames (h : CanonMem s) {pick lp size n r} (taken : takeFrames s pick lp size n = some r) : CanonMem r.2.2 := by
  induction n generalizing s pick r with
  | zero => cases taken; exact h
  | succ n ih =>
    unfold takeFrames at taken
    split at taken
    · cases taken
    · next b p t first =>
      have h1 : CanonMem t := canonMem_of_takeMem h first
      obtain ⟨x, others, rfl⟩ := Option.map_eq_some_iff.mp taken
      have rest := ih h1 others
      exact rest

theorem canonMem_of_mapPages (h : CanonMem s) {t : State} {pick asid z bits va fs} (mapped : mapPages s pick asid z bits va fs = some t) : CanonMem t := by
  induction fs generalizing s pick va with
  | nil => cases mapped; exact h
  | cons f fs ih =>
    unfold mapPages at mapped
    split at mapped
    · cases mapped
    · next first => exact ih (canonMem_of_mapPage h first) mapped

@[simp] theorem canonMem_splitTaken {gs} : CanonMem (splitTaken s gs) ↔ CanonMem s := by unfold splitTaken; simp

theorem canonMem_of_framesFor (h : CanonMem s) {pick lp z va n hint r} (found : framesFor s pick lp z va n hint = some r) : CanonMem r.2.2.2 := by
  have plain : ∀ x, ((takeFrames s pick lp (2 ^ sizeBits z) n).map fun r => (r.1, false, r.2)) = some x → CanonMem x.2.2.2 := by
    intro x hx
    obtain ⟨y, taken, rfl⟩ := Option.map_eq_some_iff.mp hx
    exact canonMem_of_takeFrames h taken
  unfold framesFor at found
  dsimp only at found
  split at found
  · split at found
    · next taken =>
      cases found
      exact canonMem_splitTaken.mpr (canonMem_of_takeFrames h taken)
    · exact plain _ found
  · exact plain _ found

theorem canonMem_of_mapRange (h : CanonMem s) {t : State} {pick asid z va n lp rt hint ro} (mapped : mapRange s pick asid z va n lp rt hint ro = some t) :
    CanonMem t := by
  unfold mapRange at mapped
  split at mapped
  · cases mapped
  · next frames => exact canonMem_of_mapPages (canonMem_of_framesFor h frames) mapped

theorem canonMem_of_splitLeaf (h : CanonMem s) {pick asid l r} (split_ : splitLeaf s pick asid l = some r) : CanonMem r.2 := by
  unfold splitLeaf at split_
  split at split_
  · cases split_
  · next t p s1 taken =>
    have h1 : CanonMem s1 := canonMem_of_newTable h taken
    obtain ⟨x, found, rfl⟩ := Option.map_eq_some_iff.mp split_
    have filled : CanonMem { s1 with mem := mwrite s1.mem t (splitBytes l) } := canonMem_mk.mpr ⟨wf_mwrite h1.wf_mem t (splitBytes l), h1.wf_hostMem⟩
    exact canonMem_setPte (canonMem_of_tableFor filled found)

theorem canonMem_of_splitAt (h : CanonMem s) {pick asid b n r} (split_ : splitAt s pick asid b n = some r) : CanonMem r.2 := by
  induction n generalizing s pick with
  | zero => cases split_; exact h
  | succ n ih =>
    unfold splitAt at split_
    split at split_
    · split at split_
      · cases split_; exact h
      · split at split_
        · cases split_
        · next first => exact ih (canonMem_of_splitLeaf h first) split_
    · cases split_; exact h

@[simp] theorem canonMem_clearPage (h : CanonMem s) {asid l} : CanonMem (clearPage s asid l) := by
  unfold clearPage
  split
  · next found => exact canonMem_setPte (canonMem_of_tableFor h found)
  · exact h

theorem canonMem_of_unmapRange (h : CanonMem s) {pick asid lo n r} (unmapped : unmapRange s pick asid lo n = some r) : CanonMem r.1 := by
  unfold unmapRange at unmapped
  split at unmapped
  · cases unmapped
  · next first =>
    obtain ⟨x, second, rfl⟩ := Option.map_eq_some_iff.mp unmapped
    exact (canonMem_of_splitAt (canonMem_of_splitAt h first) second).foldl fun t l ht => by simp [ht]

/-! ## Host commands -/

@[simp] theorem canonMem_afterRead {t fn q} : CanonMem (afterRead s t fn q) ↔ CanonMem t := by unfold afterRead; simp

theorem canonMem_runCommand (h : CanonMem s) {c r body} (hb : ∀ t o, CanonMem t → CanonAns (body t o)) : CanonMem (runCommand c r body s) := by
  unfold runCommand
  extract_lets o s1
  have h1 : CanonMem s1 := by simp [s1, h]
  have done_ := hb s1 o h1
  split
  · exact h
  · rw [canonMem_afterRead]
    split
    · simp [h1]
    · split <;> simp_all

@[simp] theorem canonMem_badCommand (h : CanonMem s) {fn q} : CanonMem (badCommand fn q s) := by
  unfold badCommand
  simp [h]

@[simp] theorem canonMem_setBusy {o b} : CanonMem (setBusy s o b) ↔ CanonMem s := Iff.rfl
@[simp] theorem canonMem_endBusy (h : CanonMem s) {o status res} : CanonMem (endBusy s o status res) := by unfold endBusy; simp [h]
@[simp] theorem canonMem_cleanTlbs {chip asid lo hi} : CanonMem (cleanTlbs s chip asid lo hi) ↔ CanonMem s := Iff.rfl
@[simp] theorem canonMem_mapDone (h : CanonMem s) {tenant dispose} : CanonMem (mapDone s tenant dispose) := by unfold mapDone; simp [h]
@[simp] theorem canonMem_removeTenant (h : CanonMem s) {tenant o} : CanonMem (removeTenant s tenant o) := by unfold removeTenant; simp [h]

@[simp] theorem canonMem_settleShoot (h : CanonMem s) {k} : CanonMem (settleShoot s k) := by
  unfold settleShoot
  dsimp only
  (repeat' split) <;> simp [h]

@[simp] theorem canonMem_dropRaceIn {l} : CanonMem (dropRaceIn s l) ↔ CanonMem s := Iff.rfl

@[simp] theorem canonMem_startShoot (h : CanonMem s) {tenant asid lo hi frames owed res dispose} :
    CanonMem (startShoot s tenant asid lo hi frames owed res dispose) := by
  unfold startShoot
  simp [h]

@[simp] theorem canonMem_fencedAcks (h : CanonMem s) {chip} : CanonMem (fencedAcks s chip) := h.foldl fun t e ht => by simp [ht]

/-! ## Shootdowns and images -/

@[simp] theorem canonMem_addImage {tenant dst m rom} : CanonMem (addImage s tenant dst m rom).2 ↔ CanonMem s := Iff.rfl
@[simp] theorem canonMem_xferWrite (h : CanonMem s) {x off bs} : CanonMem (xferWrite s x off bs) := by unfold xferWrite; simp [h]
@[simp] theorem canonMem_setXfer {k x} : CanonMem (setXfer s k x) ↔ CanonMem s := Iff.rfl
@[simp] theorem canonMem_startXfer {o c job host dst n m stage} : CanonMem (startXfer s o c job host dst n m stage) ↔ CanonMem s := Iff.rfl

theorem canonMem_of_startStaged (h : CanonMem s) {t : State} {o c job host n} (started : startStaged s o c job host n = some t) : CanonMem t := by
  obtain ⟨r, taken, rfl⟩ := Option.map_eq_some_iff.mp started
  simp [canonMem_of_takeMem h taken]

/-! ## Plans -/

@[simp] theorem canonAns_addPlan (h : CanonMem s) {c t area} : CanonAns (addPlan s c t area) := by unfold addPlan; simp [h]
@[simp] theorem canonMem_writeRomParam (h : CanonMem s) {i} : CanonMem (writeRomParam s i) := by unfold writeRomParam; split <;> simp [h]
@[simp] theorem canonMem_ownHandle {i tenant pool} : CanonMem (ownHandle s i tenant pool) ↔ CanonMem s := Iff.rfl

@[simp] theorem canonMem_startAdmission (h : CanonMem s) {i r x} : CanonMem (startAdmission s i r x) := by
  unfold startAdmission
  dsimp only
  (repeat' split) <;> simp [h]

theorem canonMem_of_enterReq (h : CanonMem s) {c m raw i p r} (entered : enterReq s c m raw i p = some r) : CanonMem r.1 := by
  unfold enterReq at entered
  dsimp only at entered
  split at entered
  · obtain ⟨x, taken, rfl⟩ := Option.map_eq_some_iff.mp entered
    simp [canonMem_of_takeMem h taken]
  · cases entered
    simp [h]

@[simp] theorem canonMem_startKernel (h : CanonMem s) {i p} : CanonMem (startKernel s i p) := by unfold startKernel; split <;> simp [h]
@[simp] theorem canonMem_startPrompt {o c i last host dst n phys} : CanonMem (startPrompt s o c i last host dst n phys) ↔ CanonMem s := Iff.rfl
@[simp] theorem canonMem_releaseHandle {i} : CanonMem (releaseHandle s i) ↔ CanonMem s := Iff.rfl
@[simp] theorem canonMem_releaseReq (h : CanonMem s) {i} : CanonMem (releaseReq s i) := by unfold releaseReq; (repeat' split) <;> simp [h]

end Sys2Proof.Machine
end

section
/-! PROOFS. Iterations, tenants, context images, hand-offs, copies of host memory and ROM kernels keep the canonical form of memory. -/

namespace Sys2Proof.Machine

variable {s : State}

/-! ## Iterations -/

@[simp] theorem canonMem_clampAges : CanonMem (clampAges s) ↔ CanonMem s := by unfold clampAges; simp
@[simp] theorem canonMem_joinIter {num c} : CanonMem (joinIter num s c) ↔ CanonMem s := Iff.rfl
@[simp] theorem canonMem_pauseReq {c} : CanonMem (pauseReq s c) ↔ CanonMem s := Iff.rfl

@[simp] theorem canonMem_overIter (h : CanonMem s) {plan which} : CanonMem (overIter s plan which) := by
  unfold overIter
  split
  · exact h
  · refine CanonMem.foldl h fun t e ht => ?_
    split <;> simp [ht]

@[simp] theorem canonMem_failIter (h : CanonMem s) {plan} : CanonMem (failIter s plan) := by unfold failIter; simp [h]
@[simp] theorem canonMem_endIter (h : CanonMem s) {plan} : CanonMem (endIter s plan) := by unfold endIter; simp [h]

@[simp] theorem canonMem_submitIter (h : CanonMem s) {plan p x it} : CanonMem (submitIter s plan p x it) := by
  unfold submitIter
  dsimp only
  split
  · simp [h]
  · next blocks _ =>
    split
    · simp [h]
    · have written : CanonMem (commitVirt (commitVirt (commitVirt s none (tenantAsid s p.tenant) x.batch
          (batchImage it.num plan x.toks it.toks.length (namedEntries s it.entries))) none (tenantAsid s p.tenant) x.toks (tokBytes it.toks))
          none (tenantAsid s p.tenant) x.work blocks) := canonMem_commitVirt (by simp [h])
      split <;> simp [written]

@[simp] theorem canonMem_submitRom (h : CanonMem s) {plan p it} : CanonMem (submitRom s plan p it) := by
  unfold submitRom
  exact canonMem_submitGraph (canonMem_commitBytes (by simp [h]))

@[simp] theorem canonMem_instantiate (h : CanonMem s) {plan p l} : CanonMem (instantiate s plan p l) := by
  unfold instantiate
  dsimp only
  (repeat' split) <;> simp [h]

@[simp] theorem canonMem_launchScorer (h : CanonMem s) {plan p it} : CanonMem (launchScorer s plan p it) := by unfold launchScorer; split <;> simp [h]
@[simp] theorem canonMem_passDeadline {req} : CanonMem (passDeadline s req) ↔ CanonMem s := by unfold passDeadline; split <;> simp
@[simp] theorem canonMem_passDeadlines : CanonMem (passDeadlines s) ↔ CanonMem s := by unfold passDeadlines; simp
@[simp] theorem canonMem_settlePrompt {r} : CanonMem (settlePrompt s r) ↔ CanonMem s := by unfold settlePrompt; simp

/-! ## Tenants -/

@[simp] theorem canonMem_dropParked {w} : CanonMem (dropParked s w) ↔ CanonMem s := by unfold dropParked; simp
@[simp] theorem canonMem_endPark (h : CanonMem s) {t} : CanonMem (endPark s t) := by unfold endPark; (repeat' split) <;> simp [h]
@[simp] theorem canonMem_endHandoffs (h : CanonMem s) {t} : CanonMem (endHandoffs s t) := h.foldl fun u e hu => by simp [hu]
@[simp] theorem canonMem_cancelAll (h : CanonMem s) {t} : CanonMem (cancelAll s t) := h.foldl fun u e hu => by simp [hu]
@[simp] theorem canonMem_failPlans (h : CanonMem s) {t} : CanonMem (failPlans s t) := h.foldl fun u e hu => by simp [hu]

@[simp] theorem canonMem_closeWork (h : CanonMem s) {t o} : CanonMem (closeWork s t o) := by
  unfold closeWork
  refine canonMem_failPlans (CanonMem.foldl ?_ fun u l hu => by simp [hu])
  exact canonMem_cancelAll (canonMem_endHandoffs (by simp [h]))

@[simp] theorem canonMem_dropOwn {t} : CanonMem (dropOwn s t) ↔ CanonMem s := by unfold dropOwn; simp

@[simp] theorem canonMem_releaseAll (h : CanonMem s) {t x} : CanonMem (releaseAll s t x) := by
  unfold releaseAll
  extract_lets s1 s2 s3 mem
  have h1 : CanonMem s1 := h.foldl fun u e hu => by simp [hu]
  have h2 : CanonMem s2 := h1.foldl fun u e hu => by simp [hu]
  have h3 : CanonMem s3 := h2.foldl fun u e hu => by simp [hu]
  exact canonMem_giveAll.mpr h3

@[simp] theorem canonMem_closeSpace (h : CanonMem s) {t x} : CanonMem (closeSpace s t x) := by unfold closeSpace; simp [h]
@[simp] theorem canonMem_closeStep (h : CanonMem s) {t} : CanonMem (closeStep s t) := by unfold closeStep; dsimp only; (repeat' split) <;> simp [h]
@[simp] theorem canonMem_settleClosing (h : CanonMem s) : CanonMem (settleClosing s) := h.foldl fun t e ht => by simp [ht]

/-! ## Context images -/

/-- Bytes of an image written back one by one. -/
theorem wf_foldl_mset {m : Memory} (h : Memory.wf m = true) (b : Nat) (es : Memory) :
    Memory.wf (es.foldl (fun m e => mset m (b + e.1) e.2) m) = true := by
  induction es generalizing m with
  | nil => exact h
  | cons e es ih => exact ih (wf_mset h _ _)

theorem canonMem_of_importTier2 (h : CanonMem s) {pick x ps r} (imported : importTier2 s pick x ps = some r) : CanonMem r.2.2 := by
  induction ps generalizing s pick r with
  | nil => cases imported; exact h
  | cons e ps ih =>
    obtain ⟨i, p⟩ := e
    unfold importTier2 at imported
    split at imported
    · obtain ⟨y, rest, rfl⟩ := Option.map_eq_some_iff.mp imported
      have all := ih h rest
      exact all
    · split at imported
      · cases imported
      · next b q s1 taken =>
        have h1 : CanonMem s1 := canonMem_of_takeMem h taken
        have h2 : CanonMem { s1 with mem := (tgetD x.copies i []).foldl (fun m e => mset m (b + e.1) e.2) s1.mem } :=
          canonMem_mk.mpr ⟨wf_foldl_mset h1.wf_mem b _, h1.wf_hostMem⟩
        obtain ⟨y, rest, rfl⟩ := Option.map_eq_some_iff.mp imported
        have all := ih h2 rest
        exact all

theorem canonMem_of_importAreas (h : CanonMem s) {pick x ps r} (imported : importAreas s pick x ps = some r) : CanonMem r.2.2 := by
  induction ps generalizing s pick r with
  | nil => cases imported; exact h
  | cons e ps ih =>
    obtain ⟨i, p⟩ := e
    unfold importAreas at imported
    split at imported
    · obtain ⟨y, rest, rfl⟩ := Option.map_eq_some_iff.mp imported
      have all := ih h rest
      exact all
    · split at imported
      · cases imported
      · next b q s1 taken =>
        extract_lets y m at imported
        have h1 : CanonMem s1 := canonMem_of_takeMem h taken
        have h2 : CanonMem { s1 with mem := mwrite m (romParam y) (natBytes 8 (romBatch y)) } :=
          canonMem_mk.mpr ⟨wf_mwrite (wf_foldl_mset h1.wf_mem b _) _ _, h1.wf_hostMem⟩
        obtain ⟨z, rest, rfl⟩ := Option.map_eq_some_iff.mp imported
        have all := ih h2 rest
        exact all

theorem canonMem_of_importPrompts (h : CanonMem s) {pick rs r} (imported : importPrompts s pick rs = some r) : CanonMem r.2.2 := by
  induction rs generalizing s pick r with
  | nil => cases imported; exact h
  | cons e rs ih =>
    obtain ⟨i, req⟩ := e
    unfold importPrompts at imported
    split at imported
    · obtain ⟨y, rest, rfl⟩ := Option.map_eq_some_iff.mp imported
      have all := ih h rest
      exact all
    · split at imported
      · cases imported
      · next b q s1 taken =>
        have h1 : CanonMem s1 := canonMem_of_takeMem h taken
        have h2 : CanonMem { s1 with mem := mwrite s1.mem b (tokBytes (req.toks.take req.plen)) } :=
          canonMem_mk.mpr ⟨wf_mwrite h1.wf_mem _ _, h1.wf_hostMem⟩
        obtain ⟨z, rest, rfl⟩ := Option.map_eq_some_iff.mp imported
        have all := ih h2 rest
        exact all

@[simp] theorem canonMem_placeCtx {x y d r pools plans reqs} : CanonMem (placeCtx s x y d r pools plans reqs) ↔ CanonMem s := Iff.rfl
@[simp] theorem canonMem_commitSections {t} : CanonMem (commitSections s t) ↔ CanonMem s := by unfold commitSections; split <;> simp

theorem canonMem_of_importCtx (h : CanonMem s) {pick x y d r} (imported : importCtx s pick x y d = some r) : CanonMem r.2.2 := by
  unfold importCtx at imported
  split at imported
  · cases imported
  · split at imported
    · cases imported
    · next tier2 =>
      have h1 := canonMem_of_importTier2 h tier2
      split at imported
      · cases imported
      · next areas =>
        have h2 := canonMem_of_importAreas h1 areas
        obtain ⟨z, prompts, rfl⟩ := Option.map_eq_some_iff.mp imported
        simp [canonMem_of_importPrompts h2 prompts]

@[simp] theorem canonMem_takeCtx (h : CanonMem s) {pick bs} : CanonMem (takeCtx s pick bs).2.1 := by
  unfold takeCtx
  split
  · exact h
  · dsimp only
    split
    · exact h
    · split
      · exact h
      · split
        · exact h
        · split
          · exact h
          · next imported => exact canonMem_of_importCtx h imported

/-! ## Residency -/

@[simp] theorem canonMem_placeKept (h : CanonMem s) : CanonMem (placeKept s) :=
  h.foldl fun t e ht => by (repeat' split) <;> simp [ht]

/-! ## PREEMPT and RESUME -/

@[simp] theorem canonMem_modTenant {t f} : CanonMem (modTenant s t f) ↔ CanonMem s := Iff.rfl
@[simp] theorem canonMem_parkGroup (h : CanonMem s) {c g cause} : CanonMem (parkGroup s c g cause) := by unfold parkGroup; simp [h]
@[simp] theorem canonMem_stopGroup (h : CanonMem s) {e} : CanonMem (stopGroup s e) := by unfold stopGroup; split <;> simp [h]
@[simp] theorem canonMem_giveUp {t f} : CanonMem (giveUp s t f) ↔ CanonMem s := Iff.rfl
@[simp] theorem canonMem_unstart {e} : CanonMem (unstart s e) ↔ CanonMem s := by unfold unstart; simp
@[simp] theorem canonMem_tearAll (h : CanonMem s) {w x} : CanonMem (tearAll s w x) := h.foldl fun t e ht => by simp [ht]
@[simp] theorem canonMem_flushPrivate (h : CanonMem s) {x} : CanonMem (flushPrivate s x) := h.foldl fun t e ht => by simp [ht]
@[simp] theorem canonMem_liftWg {w idle} : CanonMem (liftWg s w idle) ↔ CanonMem s := by unfold liftWg; split <;> simp

@[simp] theorem canonMem_commitImage (h : CanonMem s) {t o} : CanonMem (commitImage s t o) := by
  unfold commitImage
  extract_lets ws s1 s2 first s3 s4
  have h1 : CanonMem s1 := CanonMem.foldl (by simp [h]) fun u e hu => by simp [hu]
  have h2 : CanonMem s2 := h1.foldl fun u e hu => by simp [hu]
  have h3 : CanonMem s3 := h2.foldl fun u e hu => by simp [hu]
  have h4 : CanonMem s4 := by simp [s4, h3]
  (repeat' split) <;> simp [h4]

@[simp] theorem canonMem_finishResume (h : CanonMem s) {t o} : CanonMem (finishResume s t o) := by unfold finishResume; simp [h]

theorem canonMem_of_holdAgain (h : CanonMem s) {places gs r} (held : holdAgain s places gs = some r) : CanonMem r.1 := by
  induction gs generalizing s places with
  | nil => cases held; exact h
  | cons e gs ih =>
    unfold holdAgain at held
    split at held
    · cases held
    · split at held
      · exact ih (by simp [h]) held
      · exact ih (by simp [h]) held

@[simp] theorem canonMem_dropWg {w core x pw} : CanonMem (dropWg s w core x pw) ↔ CanonMem s := Iff.rfl

theorem canonMem_of_restoreWg (h : CanonMem s) {places w r} (restored : restoreWg s places w = some r) : CanonMem r.1 := by
  unfold restoreWg at restored
  split at restored
  · cases restored; exact h
  · dsimp only at restored
    split at restored
    · cases restored
    · exact canonMem_of_holdAgain (by simp [h]) restored

theorem canonMem_of_restoreAll (h : CanonMem s) {places ws r} (restored : restoreAll s places ws = some r) : CanonMem r.1 := by
  induction ws generalizing s places with
  | nil => cases restored; exact h
  | cons w ws ih =>
    unfold restoreAll at restored
    split at restored
    · cases restored
    · next first => exact ih (canonMem_of_restoreWg h first) restored

/-! ## Chiplets -/

@[simp] theorem canonMem_modChip {i f} : CanonMem (modChip s i f) ↔ CanonMem s := Iff.rfl
@[simp] theorem canonMem_beginFence {i o} : CanonMem (beginFence s i o) ↔ CanonMem s := Iff.rfl
@[simp] theorem canonMem_discardChip {chip} : CanonMem (discardChip s chip) ↔ CanonMem s := by unfold discardChip; simp
@[simp] theorem canonMem_clearCores {chip} : CanonMem (clearCores s chip) ↔ CanonMem s := Iff.rfl
@[simp] theorem canonMem_lostRecord {l} : CanonMem (lostRecord s l).2 ↔ CanonMem s := Iff.rfl

@[simp] theorem canonMem_loseLaunch (h : CanonMem s) {fault l} : CanonMem (loseLaunch fault s l) := by
  unfold loseLaunch
  extract_lets s1 s2 s3 s4
  have h1 : CanonMem s1 := by simp [s1, h]
  have h2 : CanonMem s2 := by simp [s2, h1]
  have h3 : CanonMem s3 := h2.foldl fun t e ht => by simp [ht]
  have h4 : CanonMem s4 := h3.foldl fun t k ht => by simp [ht]
  exact h4.foldl fun t w ht => by simp [ht]

@[simp] theorem canonMem_completeFence (h : CanonMem s) {chip} : CanonMem (completeFence s chip) := by
  unfold completeFence
  extract_lets fault ls s1 s2
  have h1 : CanonMem s1 := by simp [s1, h]
  have h2 : CanonMem s2 := h1.foldl fun t l ht => by simp [ht]
  simp [h2]

@[simp] theorem canonMem_answerReset (h : CanonMem s) {chip status} : CanonMem (answerReset s chip status) := by
  unfold answerReset
  split <;> simp [h]

/-! ## Routes -/

@[simp] theorem canonMem_setBank {b st} : CanonMem (setBank s b st) ↔ CanonMem s := Iff.rfl

/-! ## Hand-offs that arrive -/

@[simp] theorem canonMem_failImport (h : CanonMem s) {k x st} : CanonMem (failImport s k x st) := by unfold failImport; split <;> simp [h]

@[simp] theorem canonMem_makeImport (h : CanonMem s) {k x m pool i p} : CanonMem (makeImport s k x m pool i p) := by
  unfold makeImport
  extract_lets q ps
  split
  · simp [h]
  · next t t1 hw t2 n t3 toks r t4 _ =>
    have h1 : CanonMem t1 := CanonMem.foldl (by simp [t, h]) fun u e hu => by simp [hu]
    have h4 : CanonMem t4 := by simp [t4, t3, t2, h1]
    split <;> simp [h4]

@[simp] theorem canonMem_settleImport (h : CanonMem s) {k} : CanonMem (settleImport s k) := by unfold settleImport; (repeat' split) <;> simp [h]
@[simp] theorem canonMem_settleImports (h : CanonMem s) : CanonMem (settleImports s) := h.foldl fun t k ht => by simp [ht]
@[simp] theorem canonMem_deliverOne (h : CanonMem s) {e} : CanonMem (deliverOne s e) := by unfold deliverOne; (repeat' split) <;> simp [h]
@[simp] theorem canonMem_replay (h : CanonMem s) : CanonMem (replay s) := CanonMem.foldl (by simp [h]) fun t m ht => by simp [ht]
@[simp] theorem canonMem_deliver (h : CanonMem s) {e} : CanonMem (deliver s e) := by unfold deliver; simp [h]

@[simp] theorem canonMem_joinPiece {peer tag e} : CanonMem (joinPiece s peer tag e).1 ↔ CanonMem s := by
  unfold joinPiece
  dsimp only
  split <;> simp

/-! ## Device commands -/

@[simp] theorem canonMem_sigFailed : CanonMem (sigFailed s) ↔ CanonMem s := by unfold sigFailed; simp

@[simp] theorem canonMem_applyPatch {m} : CanonMem (applyPatch s m).2.1 ↔ CanonMem s := by
  unfold applyPatch
  dsimp only
  (repeat' split) <;> simp

@[simp] theorem canonMem_installKey {a key} : CanonMem (installKey s a key) ↔ CanonMem s := by unfold installKey; simp

/-! ## Copies of host memory -/

@[simp] theorem canonMem_endStaging (h : CanonMem s) {x status} : CanonMem (endStaging s x status) := by unfold endStaging; split <;> simp [h]
@[simp] theorem canonMem_enterBell {x} : CanonMem (enterBell s x) ↔ CanonMem s := by unfold enterBell; split <;> simp
@[simp] theorem canonMem_dropXfer (h : CanonMem s) {k x status res} : CanonMem (dropXfer s k x status res) := by unfold dropXfer; split <;> simp [h]
@[simp] theorem canonMem_loadDone (h : CanonMem s) {k x} : CanonMem (loadDone s k x) := by unfold loadDone; simp [h]
@[simp] theorem canonMem_imageStep (h : CanonMem s) {k x} : CanonMem (imageStep s k x) := by unfold imageStep; split <;> simp [h]

@[simp] theorem canonMem_promptDone (h : CanonMem s) {k i x r} : CanonMem (promptDone s k i x r) := by
  unfold promptDone
  dsimp only
  (repeat' split) <;> simp [h]

@[simp] theorem canonMem_promptStep (h : CanonMem s) {k x i last read} : CanonMem (promptStep s k x i last read) := by
  unfold promptStep
  split <;> simp [h]

@[simp] theorem canonMem_xferGo (h : CanonMem s) {k x} : CanonMem (xferGo s k x) := by
  unfold xferGo
  split <;> simp [h]

@[simp] theorem canonMem_xferSteps (h : CanonMem s) {k n} : CanonMem (xferSteps s k n) := by
  induction n generalizing s with
  | zero => exact h
  | succ n ih =>
    unfold xferSteps
    split
    · exact h
    · simp [h, ih]

@[simp] theorem canonMem_xferStep (h : CanonMem s) {k} : CanonMem (xferStep s k) := by unfold xferStep; simp [h]

/-! ## The package -/

@[simp] theorem canonMem_latchScores {l} : CanonMem (latchScores s l) ↔ CanonMem s := by unfold latchScores; simp
@[simp] theorem canonMem_coldState (h : CanonMem s) : CanonMem (coldState s) := ⟨rfl, h.2⟩

/-! ## ROM kernels -/

@[simp] theorem canonMem_romGo (h : CanonMem s) {c g p} : CanonMem (romGo s c g p) := by unfold romGo; simp [h]

theorem canonMem_romIssue (h : CanonMem s) {c g p x chk before} (hb : ∀ t, CanonMem t → CanonMem (before t)) : CanonMem (romIssue s c g p x chk before) := by
  unfold romIssue
  dsimp only
  split
  · simp [h]
  · simp [h]
  · split
    · exact h
    · exact canonMem_modGroup (canonMem_acceptE (hb _ (by simp [h])) fun t k d ht => by simp [ht])

@[simp] theorem canonMem_romReq (h : CanonMem s) {c g p x} : CanonMem (romReq s c g p x) := canonMem_romIssue h fun _ ht => ht

@[simp] theorem canonMem_stepEntry (h : CanonMem s) {c g v p e} : CanonMem (stepEntry s c g v p e) := by
  unfold stepEntry
  extract_lets trap q layers
  have trapped : ∀ f, CanonMem (trap f) := fun f => by simp [trap, h]
  split
  · split
    · simp [h]
    · split
      · exact trapped _
      · exact canonMem_romIssue h fun _ ht => ht
  · split
    · simp [h]
    · split
      · exact trapped _
      · exact canonMem_romIssue h fun t ht => by simp [ht]

@[simp] theorem canonMem_romStep (h : CanonMem s) {c g v} : CanonMem (romStep s c g v) := by unfold romStep; dsimp only; (repeat' split) <;> simp [h]

@[simp] theorem canonMem_romScore (h : CanonMem s) {c g v lin} : CanonMem (romScore s c g v lin) := by
  unfold romScore
  dsimp only
  split
  · simp [h]
  · simp [h]
  · have cut : ∀ p x chk, CanonMem (romIssue s c g p x chk id) := fun p x chk => canonMem_romIssue h fun _ ht => ht
    simp [h, cut]

@[simp] theorem canonMem_romKernel (h : CanonMem s) {c g score} : CanonMem (romKernel s c g score) := by
  unfold romKernel
  (repeat' split) <;> simp [h]

/-! ## The schedule -/

@[simp] theorem canonMem_wireTake : CanonMem (wireTake s) ↔ CanonMem s := by unfold wireTake; split <;> simp
@[simp] theorem canonMem_ueTake : CanonMem (ueTake s) ↔ CanonMem s := by unfold ueTake; simp
@[simp] theorem canonMem_dropNotice {dst seq} : CanonMem (dropNotice s dst seq) ↔ CanonMem s := Iff.rfl
@[simp] theorem canonMem_elapse {n} : CanonMem (elapse s n) ↔ CanonMem s := by unfold elapse; simp
@[simp] theorem canonMem_hostStore (h : CanonMem s) {a bs} : CanonMem (hostStore s a bs) := ⟨h.1, wf_mwrite h.2 _ _⟩

end Sys2Proof.Machine
end

section
/-! PROOFS. Every instruction, every event and every step keep the canonical form of memory (logs 4 and 12). -/

namespace Sys2Proof.Machine

variable {s : State}

/-! ## Traps and records -/

theorem canonOut_onGroup {k : Nat → Group → Out} (hk : ∀ c g, CanonOut (k c g)) : CanonOut (onGroup s k) := by
  unfold onGroup
  split
  · trivial
  · split
    · trivial
    · simp [hk]

@[simp] theorem canonOut_checked (h : CanonMem s) {c g u k} : CanonOut (checked s c g u k) ↔ (check g u = none → CanonOut k) := by
  unfold checked
  split <;> simp_all

@[simp] theorem canonOut_withRegs (h : CanonMem s) {c g wv k} : CanonOut (withRegs s c g wv k) ↔ (needs g wv ≤ pipeFree s g.core g.part g.slot → CanonOut k) := by
  unfold withRegs
  split
  · next room => simp [room]
  · next room => simp [room, h]

@[simp] theorem canonOut_done (h : CanonMem s) {c g} : CanonOut (done s c g) := by unfold done; simp [h]
@[simp] theorem canonOut_goTo (h : CanonMem s) {c g pc} : CanonOut (goTo s c g pc) := by unfold goTo; simp [h]
@[simp] theorem canonOut_commitV (h : CanonMem s) {c g u d f} : CanonOut (commitV s c g u d f) := by unfold commitV; simp [h]
@[simp] theorem canonOut_commitG (h : CanonMem s) {c g d x} : CanonOut (commitG s c g d x) := by unfold commitG; simp [h]
@[simp] theorem canonOut_commitP (h : CanonMem s) {c g u n x} : CanonOut (commitP s c g u n x) := by unfold commitP; simp [h]

@[simp] theorem canonOut_withFlag (h : CanonMem s) {c g fs k} : CanonOut (withFlag s c g fs k) ↔ (flagCount g (flagSel g fs) < 63 → CanonOut k) := by
  unfold withFlag
  split
  · next room => simp [room]
  · next room => simp [room, h]

@[simp] theorem canonOut_accepted (h : CanonMem s) {c g u fs nd k} (hk : CanonOut k) : CanonOut (accepted s c g u fs nd k) := by
  unfold accepted
  split
  · simp [h]
  · rw [canonOut_withFlag h]
    intro _
    split
    · simp [h]
    · split <;> simp [h, hk]

/-! ## Operand shapes -/

@[simp] theorem canonOut_alu (h : CanonMem s) {u d a b la lb im two rd f} : CanonOut (alu u d a b la lb im two rd f s) :=
  canonOut_onGroup fun c g => by simp [h]

@[simp] theorem canonOut_cmpOp (h : CanonMem s) {u d a b la lb im f} : CanonOut (cmpOp u d a b la lb im f s) :=
  canonOut_onGroup fun c g => by simp [h]

@[simp] theorem canonOut_commitVM (h : CanonMem s) {c g u m ws} : CanonOut (commitVM s c g u m ws) := by unfold commitVM; simp [h]

/-! ## Control -/

@[simp] theorem canonOut_execNop (h : CanonMem s) : CanonOut (execNop s) :=
  canonOut_onGroup fun c g => by simp [h]

@[simp] theorem canonOut_execMood (h : CanonMem s) {u d imm} : CanonOut (execMood u d imm s) :=
  canonOut_onGroup fun c g => by simp [h]

@[simp] theorem canonOut_maskPred (h : CanonMem s) {a f} : CanonOut (maskPred a f s) :=
  canonOut_onGroup fun c g => by simp [h]

@[simp] theorem canonOut_execMaskG (h : CanonMem s) {a} : CanonOut (execMaskG a s) :=
  canonOut_onGroup fun c g => by simp [h]

@[simp] theorem canonOut_execMaskRd (h : CanonMem s) {d} : CanonOut (execMaskRd d s) :=
  canonOut_onGroup fun c g => by simp [h]

@[simp] theorem canonOut_execMaskAlive (h : CanonMem s) : CanonOut (execMaskAlive s) :=
  canonOut_onGroup fun c g => by simp [h]

@[simp] theorem canonOut_branchTo (h : CanonMem s) {c g dest} : CanonOut (branchTo s c g dest) := by unfold branchTo; simp [h]

@[simp] theorem canonOut_branchIf (h : CanonMem s) {p off f} : CanonOut (branchIf p off f s) :=
  canonOut_onGroup fun c g => by simp [h]

@[simp] theorem canonOut_execBr (h : CanonMem s) {off} : CanonOut (execBr off s) :=
  canonOut_onGroup fun c g => by simp [h]

@[simp] theorem canonOut_execCall (h : CanonMem s) {off} : CanonOut (execCall off s) :=
  canonOut_onGroup fun c g => by simp [h]

@[simp] theorem canonOut_execRet (h : CanonMem s) {a} : CanonOut (execRet a s) :=
  canonOut_onGroup fun c g => by simp [h]

@[simp] theorem canonOut_execBrDiv (h : CanonMem s) {p off} : CanonOut (execBrDiv p off s) :=
  canonOut_onGroup fun c g => by simp [h]

@[simp] theorem canonOut_execJoin (h : CanonMem s) : CanonOut (execJoin s) :=
  canonOut_onGroup fun c g => by simp [h]

@[simp] theorem canonOut_execEndThreads (h : CanonMem s) : CanonOut (execEndThreads s) :=
  canonOut_onGroup fun c g => by simp [h]

@[simp] theorem canonOut_acceptBar (h : CanonMem s) {c g sub d a b word} : CanonOut (acceptBar s c g sub d a b word) := by
  have emitted : CanonMem (emitBins s g.wg) := by simp [h]
  exact canonMem_settle (canonMem_putGroup (by simp [emitted]))

@[simp] theorem canonOut_execBarWg (h : CanonMem s) : CanonOut (execBarWg s) :=
  canonOut_onGroup fun c g => by simp [h]

@[simp] theorem canonOut_execBarGang (h : CanonMem s) : CanonOut (execBarGang s) :=
  canonOut_onGroup fun c g => by simp [h]

@[simp] theorem canonOut_execBarArrive (h : CanonMem s) {d} : CanonOut (execBarArrive d s) :=
  canonOut_onGroup fun c g => by simp [h]

@[simp] theorem canonOut_execBarWait (h : CanonMem s) {a} : CanonOut (execBarWait a s) :=
  canonOut_onGroup fun c g => by simp [h]

@[simp] theorem canonOut_execBarNamed (h : CanonMem s) {a b} : CanonOut (execBarNamed a b s) :=
  canonOut_onGroup fun c g => by simp [h]

@[simp] theorem canonOut_execCede (h : CanonMem s) : CanonOut (execCede s) :=
  canonOut_onGroup fun c g => by simp [h]

@[simp] theorem canonOut_execTrapUser (h : CanonMem s) {imm} : CanonOut (execTrapUser imm s) :=
  canonOut_onGroup fun c g => by simp [h]

@[simp] theorem canonOut_execSysCsrr (h : CanonMem s) {d b} : CanonOut (execSysCsrr d b s) :=
  canonOut_onGroup fun c g => by simp [h]

@[simp] theorem canonOut_execSysCsrw (h : CanonMem s) {a b} : CanonOut (execSysCsrw a b s) :=
  canonOut_onGroup fun c g => by simp [h]

@[simp] theorem canonOut_execSysLocq (h : CanonMem s) {d a} : CanonOut (execSysLocq d a s) :=
  canonOut_onGroup fun c g => by
    dsimp only
    (repeat' split) <;> simp [h]

@[simp] theorem canonOut_execSysSnap (h : CanonMem s) : CanonOut (execSysSnap s) :=
  canonOut_onGroup fun c g => by simp [h]

@[simp] theorem canonOut_execSysClk (h : CanonMem s) {d} : CanonOut (execSysClk d s) :=
  canonOut_onGroup fun c g => by simp [h]

@[simp] theorem canonOut_execSysFlagerr (h : CanonMem s) {d} : CanonOut (execSysFlagerr d s) :=
  canonOut_onGroup fun c g => by simp [h]

@[simp] theorem canonOut_execClause (h : CanonMem s) {wait setA setB len} : CanonOut (execClause wait setA setB len s) :=
  canonOut_onGroup fun c g => by simp [h]

@[simp] theorem canonOut_execRep (h : CanonMem s) {cnt dD dA dB} : CanonOut (execRep cnt dD dA dB s) :=
  canonOut_onGroup fun c g => by split <;> simp [h]

/-! ## Floating point -/

@[simp] theorem canonOut_fop (h : CanonMem s) {u d a b la lb two rd f} : CanonOut (fop u d a b la lb two rd f s) :=
  canonOut_onGroup fun c g => by simp [h]

@[simp] theorem canonOut_fcmpOp (h : CanonMem s) {u d a b la lb f} : CanonOut (fcmpOp u d a b la lb f s) :=
  canonOut_onGroup fun c g => by simp [h]

/-! ## Moves, predicates and lanes -/

@[simp] theorem canonOut_execSel (h : CanonMem s) {u d a b la lb im pr} : CanonOut (execSel u d a b la lb im pr s) :=
  canonOut_onGroup fun c g => by simp [h]

@[simp] theorem canonOut_plog (h : CanonMem s) {d a b f} : CanonOut (plog d a b f s) :=
  canonOut_onGroup fun c g => by simp [h]

@[simp] theorem canonOut_execPlogFromg (h : CanonMem s) {d a} : CanonOut (execPlogFromg d a s) :=
  canonOut_onGroup fun c g => by simp [h]

@[simp] theorem canonOut_execPlogTog (h : CanonMem s) {d a} : CanonOut (execPlogTog d a s) :=
  canonOut_onGroup fun c g => by simp [h]

@[simp] theorem canonOut_execMovSpecial (h : CanonMem s) {u d a} : CanonOut (execMovSpecial u d a s) :=
  canonOut_onGroup fun c g => by simp [h]

@[simp] theorem canonOut_execMovG (h : CanonMem s) {d a} : CanonOut (execMovG d a s) :=
  canonOut_onGroup fun c g => by simp [h]

@[simp] theorem canonOut_execLdi (h : CanonMem s) {u d imm} : CanonOut (execLdi u d imm s) :=
  canonOut_onGroup fun c g => by simp [h]

@[simp] theorem canonOut_execKhi (h : CanonMem s) {u d imm} : CanonOut (execKhi u d imm s) :=
  canonOut_onGroup fun c g => by simp [h]

@[simp] theorem canonOut_execLea (h : CanonMem s) {u d gb ix li sx w} : CanonOut (execLea u d gb ix li sx w s) :=
  canonOut_onGroup fun c g => by simp [h]

@[simp] theorem canonOut_crossV (h : CanonMem s) {use d bad f} : CanonOut (crossV use d bad f s) :=
  canonOut_onGroup fun c g => by simp [h]

@[simp] theorem canonOut_shflOp (h : CanonMem s) {d a b la lb im j} : CanonOut (shflOp d a b la lb im j s) := by unfold shflOp; simp [h]

@[simp] theorem canonOut_voteP (h : CanonMem s) {use d f} : CanonOut (voteP use d f s) :=
  canonOut_onGroup fun c g => by simp [h]

@[simp] theorem canonOut_execVoteBal (h : CanonMem s) {d a} : CanonOut (execVoteBal d a s) :=
  canonOut_onGroup fun c g => by simp [h]

@[simp] theorem canonOut_lred (h : CanonMem s) {d a la bad f} : CanonOut (lred d a la bad f s) := by unfold lred; simp [h]
@[simp] theorem canonOut_lscan (h : CanonMem s) {d a la bad f} : CanonOut (lscan d a la bad f s) := by unfold lscan; simp [h]

@[simp] theorem canonOut_execBcast (h : CanonMem s) {d a b la} : CanonOut (execBcast d a b la s) :=
  canonOut_onGroup fun c g => by simp [h]

@[simp] theorem canonOut_execBcastG (h : CanonMem s) {d a b la} : CanonOut (execBcastG d a b la s) :=
  canonOut_onGroup fun c g => by simp [h]

@[simp] theorem canonOut_execBcastFirstg (h : CanonMem s) {d a la} : CanonOut (execBcastFirstg d a la s) :=
  canonOut_onGroup fun c g => by simp [h]

/-! ## Memory instructions -/

@[simp] theorem canonOut_acceptMem (h : CanonMem s) {c g use f as rt} : CanonOut (acceptMem s c g use f as rt) := by
  unfold acceptMem
  (repeat' split) <;> simp [h]

@[simp] theorem canonOut_memIssue (h : CanonMem s) {c g use f own addr lane} : CanonOut (memIssue s c g use f own addr lane) := by
  unfold memIssue
  dsimp only
  (repeat' split) <;> simp [h]

@[simp] theorem canonOut_loadOp (h : CanonMem s) {u d gb ix li sx fs w word sp race lane} :
    CanonOut (loadOp u d gb ix li sx fs w word sp race lane s) :=
  canonOut_onGroup fun c g => by simp [h]

@[simp] theorem canonOut_storeOp (h : CanonMem s) {u d gb ix ld li sx fs w word sp race lane} :
    CanonOut (storeOp u d gb ix ld li sx fs w word sp race lane s) :=
  canonOut_onGroup fun c g => by simp [h]

theorem canonOut_prsNow (h : CanonMem s) {u gb ix li nd k} (hk : ∀ c g use ls, CanonOut (k s c g use ls)) : CanonOut (prsNow u gb ix li nd k s) := by
  refine canonOut_onGroup fun c g => ?_
  dsimp only
  rw [canonOut_checked h]
  intro _
  split
  · exact hk _ _ _ _
  · simp [h]

@[simp] theorem canonOut_execPrsTest (h : CanonMem s) {u d gb ix li} : CanonOut (execPrsTest u d gb ix li s) :=
  canonOut_onGroup fun c g => by (repeat' split) <;> simp [h]

@[simp] theorem canonOut_execPrsClr (h : CanonMem s) {u gb ix li} : CanonOut (execPrsClr u gb ix li s) :=
  canonOut_onGroup fun c g => by (repeat' split) <;> simp [h]

@[simp] theorem canonOut_execPrsSet (h : CanonMem s) {u gb ix li} : CanonOut (execPrsSet u gb ix li s) :=
  canonOut_onGroup fun c g => by (repeat' split) <;> simp [h]

@[simp] theorem canonOut_execPrsWait (h : CanonMem s) {u gb ix li fs} : CanonOut (execPrsWait u gb ix li fs s) :=
  canonOut_onGroup fun c g => by (repeat' split) <;> simp [h]

@[simp] theorem canonOut_acceptFence (h : CanonMem s) {c g word sub fs sc acq rel} : CanonOut (acceptFence s c g word sub fs sc acq rel) := by
  unfold acceptFence
  simp [h]

@[simp] theorem canonOut_execFence (h : CanonMem s) {fs sc acq rel} : CanonOut (execFence fs sc acq rel s) :=
  canonOut_onGroup fun c g => by simp [h]

@[simp] theorem canonOut_execFenceSc (h : CanonMem s) {fs sc} : CanonOut (execFenceSc fs sc s) :=
  canonOut_onGroup fun c g => by simp [h]

@[simp] theorem canonOut_atomOp (h : CanonMem s) {u d gb ix aop sc li ret bad word kind sp} :
    CanonOut (atomOp u d gb ix aop sc li ret bad word kind sp s) :=
  canonOut_onGroup fun c g => by simp [h]

@[simp] theorem canonOut_execTicket (h : CanonMem s) {d gb ix sc} : CanonOut (execTicket d gb ix sc s) :=
  canonOut_onGroup fun c g => by simp [h]

@[simp] theorem canonOut_execXaccAdd (h : CanonMem s) {d gb ix ld li sx fs} : CanonOut (execXaccAdd d gb ix ld li sx fs s) :=
  canonOut_onGroup fun c g => by simp [h]

@[simp] theorem canonOut_execXaccRd (h : CanonMem s) {d gb ix li sx fs} : CanonOut (execXaccRd d gb ix li sx fs s) :=
  canonOut_onGroup fun c g => by simp [h]

@[simp] theorem canonOut_execPfch (h : CanonMem s) {u gb ix li sx fs w} : CanonOut (execPfch u gb ix li sx fs w s) := by
  refine canonOut_onGroup fun c g => ?_
  extract_lets n use got
  have filled : CanonMem (got.foldl (fun t n => fillGlobal t g.core n) s) := h.foldl fun t n ht => by simp [ht]
  rw [canonOut_checked h]
  intro _
  exact canonOut_done (by simp [h, filled])

/-! ## Accesses that are performed -/

@[simp] theorem canonOut_execLoadResultLand (h : CanonMem s) {op lanes} : CanonOut (execLoadResultLand op lanes s) := by
  unfold execLoadResultLand
  (repeat' split) <;> simp [h]

@[simp] theorem canonOut_execStoreCommit (h : CanonMem s) {op lane} : CanonOut (execStoreCommit op lane s) := by
  unfold execStoreCommit
  rw [canonOut_next]
  split
  · exact h
  · split
    · exact h
    · next o _ _ x _ =>
      have stored : CanonMem (winStore s (tenantOf s o.launch) x.addr x.data).1 := canonMem_winStore h
      split
      · exact h
      · split
        · simp [h]
        · split
          · exact canonMem_wakeHeld (canonMem_doneAcc stored)
          · exact h
        · exact h

@[simp] theorem canonOut_execScratchpadStoreComplete (h : CanonMem s) {op} : CanonOut (execScratchpadStoreComplete op s) := by
  unfold execScratchpadStoreComplete
  rw [canonOut_next]
  split
  · exact h
  · split
    · exact h
    · dsimp only
      split
      · exact h
      · split
        · exact canonMem_endOp (CanonMem.foldl h fun t x ht => by simp [ht])
        · exact canonMem_endOp (CanonMem.foldl h fun t x ht => by simp [ht])
        · exact h

@[simp] theorem canonOut_execAtomicPerform (h : CanonMem s) {op} : CanonOut (execAtomicPerform op s) := by
  unfold execAtomicPerform
  rw [canonOut_next]
  split
  · exact h
  · split
    · simp [h]
    · next o _ _ x _ =>
      have performed : CanonMem (performAtom s o x).1 := canonMem_performAtom h
      dsimp only
      split
      · exact canonMem_doneAcc (by simp [performed])
      · exact h

@[simp] theorem canonOut_execLltlbLookupDone (h : CanonMem s) {ctx victim} : CanonOut (execLltlbLookupDone ctx victim s) := by
  unfold execLltlbLookupDone
  dsimp only
  (repeat' split) <;> simp [h]

@[simp] theorem canonOut_execWalkComplete (h : CanonMem s) {wk victim} : CanonOut (execWalkComplete wk victim s) := by
  unfold execWalkComplete
  rw [canonOut_next]
  split
  · exact h
  · extract_lets r same _ s1 p code
    have h1 : CanonMem s1 := canonMem_cacheWalk.mpr h
    have walked : CanonMem p.2 := by
      unfold p
      clear_value s1 r
      split <;> simp [h1]
    exact canonMem_admitWalks.mpr (walked.foldl fun t e ht => by simp [ht])

@[simp] theorem canonOut_execCheckAnswer (h : CanonMem s) {ctx} : CanonOut (execCheckAnswer ctx s) := by unfold execCheckAnswer; split <;> simp [h]

@[simp] theorem canonOut_execRaceRecordsArrive (h : CanonMem s) {ctx} : CanonOut (execRaceRecordsArrive ctx s) := by
  unfold execRaceRecordsArrive
  (repeat' split) <;> simp [h]

@[simp] theorem canonOut_execRegisterEccError (h : CanonMem s) {ctx site} : CanonOut (execRegisterEccError ctx site s) := by
  unfold execRegisterEccError
  (repeat' split) <;> simp [h]

@[simp] theorem canonOut_execMemoryEccError (h : CanonMem s) {line} : CanonOut (execMemoryEccError line s) := by unfold execMemoryEccError; simp [h]

/-! ## Engine commands -/

theorem canonOut_engIssue (h : CanonMem s) {c g use f chk enter} (entered : ∀ t k x, CanonMem t → CanonMem (enter t k x)) :
    CanonOut (engIssue s c g use f chk enter) := by
  refine canonOut_accepted h ?_
  split
  · simp [h]
  · simp [h]
  · simp [h, canonMem_acceptE h entered]

/-! ## Copies -/

@[simp] theorem canonOut_copyOp (h : CanonMem s) {op sub ga gb gc fs sc acq rel word} : CanonOut (copyOp op sub ga gb gc fs sc acq rel word s) :=
  canonOut_onGroup fun _ _ => canonOut_engIssue h fun _ _ _ ht => canonMem_enterCopy ht

/-! ## Formats -/

@[simp] theorem canonOut_execCvt (h : CanonMem s) {u d a la part} : CanonOut (execCvt u d a la part s) :=
  canonOut_onGroup fun c g => by (repeat' split) <;> simp [h]

@[simp] theorem canonOut_execFscal (h : CanonMem s) {u d a b la lb im} : CanonOut (execFscal u d a b la lb im s) :=
  canonOut_onGroup fun c g => by simp [h]

@[simp] theorem canonOut_hadOp (h : CanonMem s) {inv d a b la} : CanonOut (hadOp inv d a b la s) :=
  canonOut_onGroup fun c g => by simp [h]

@[simp] theorem canonOut_execQpack (h : CanonMem s) {d a la} : CanonOut (execQpack d a la s) :=
  canonOut_onGroup fun c g => by simp [h]

@[simp] theorem canonOut_execQunpk (h : CanonMem s) {d a la} : CanonOut (execQunpk d a la s) :=
  canonOut_onGroup fun c g => by simp [h]

@[simp] theorem canonOut_execFmtw (h : CanonMem s) {u d b} : CanonOut (execFmtw u d b s) :=
  canonOut_onGroup fun c g => by simp [h]

@[simp] theorem canonOut_execDot4 (h : CanonMem s) {u d a b la lb} : CanonOut (execDot4 u d a b la lb s) :=
  canonOut_onGroup fun c g => by simp [h]

/-! ## Matrix products and accumulators -/

@[simp] theorem canonOut_execMma (h : CanonMem s) {acc sa sb vf} : CanonOut (execMma acc sa sb vf s) := by
  refine canonOut_onGroup fun c g => ?_
  dsimp only
  split
  · exact canonOut_engIssue h fun t k x ht => by simp [ht]
  · split
    · exact canonOut_engIssue h fun t k x ht => by simp [ht]
    · exact canonOut_engIssue h fun t k x ht => by simp [ht]

@[simp] theorem canonOut_execMmaStart (h : CanonMem s) {cmd} : CanonOut (execMmaStart cmd s) := by unfold execMmaStart; split <;> simp [h]

@[simp] theorem canonOut_execMmaComplete (h : CanonMem s) {cmd} : CanonOut (execMmaComplete cmd s) := by
  unfold execMmaComplete
  rw [canonOut_next]
  split
  · exact h
  · next c _ =>
    split
    · simp [h]
    · split
      · extract_lets p r s1
        have h1 : CanonMem s1 := by simp [s1, h]
        exact canonMem_withEntry h (by split <;> simp [h1])
      · exact h

@[simp] theorem canonOut_execSlotTileUncorrectableError (h : CanonMem s) {cmd} : CanonOut (execSlotTileUncorrectableError cmd s) := by
  unfold execSlotTileUncorrectableError
  split <;> simp [h]

@[simp] theorem canonOut_accOp (h : CanonMem s) {op sub ga gb gc fs sc acq rel word} : CanonOut (accOp op sub ga gb gc fs sc acq rel word s) :=
  canonOut_onGroup fun c g => canonOut_engIssue h fun t k x ht => by simp [ht]

/-! ## Slots and chains -/

@[simp] theorem canonOut_execSlotClaimGrant (h : CanonMem s) {cmd} : CanonOut (execSlotClaimGrant cmd s) := by
  unfold execSlotClaimGrant
  split <;> simp [h]

@[simp] theorem canonOut_execSlotClaim (h : CanonMem s) {ga fs sc acq rel} : CanonOut (execSlotClaim ga fs sc acq rel s) :=
  canonOut_onGroup fun c g => canonOut_engIssue h fun t k x ht => by simp [ht]

@[simp] theorem canonOut_execSlotRel (h : CanonMem s) {ga fs sc acq rel} : CanonOut (execSlotRel ga fs sc acq rel s) :=
  canonOut_onGroup fun c g => canonOut_engIssue h fun t k x ht => by simp [ht]

@[simp] theorem canonOut_execSlotHeld (h : CanonMem s) {gc fs sc acq rel} : CanonOut (execSlotHeld gc fs sc acq rel s) :=
  canonOut_onGroup fun c g => canonOut_engIssue h fun t k x ht => by simp [ht]

@[simp] theorem canonOut_execChainSet (h : CanonMem s) {ga gb gc fs sc acq rel} : CanonOut (execChainSet ga gb gc fs sc acq rel s) :=
  canonOut_onGroup fun c g => canonOut_engIssue h fun t k x ht => by simp [ht]

@[simp] theorem canonOut_execChainAdv (h : CanonMem s) {ga gb fs sc acq rel} : CanonOut (execChainAdv ga gb fs sc acq rel s) :=
  canonOut_onGroup fun c g => canonOut_engIssue h fun t k x ht => by simp [ht]

@[simp] theorem canonOut_execSeqw (h : CanonMem s) {ga gb fs sc acq rel} : CanonOut (execSeqw ga gb fs sc acq rel s) :=
  canonOut_onGroup fun c g => canonOut_engIssue h fun t k x ht => by simp [ht]

/-! ## Page instructions -/

@[simp] theorem canonOut_execGatherLineLand (h : CanonMem s) {cmd line} : CanonOut (execGatherLineLand cmd line s) := by
  unfold execGatherLineLand
  dsimp only
  (repeat' split) <;> simp [h]

@[simp] theorem canonOut_pageOp (h : CanonMem s) {op sub feat ga gb gc res fs sc acq rel word} :
    CanonOut (pageOp op sub feat ga gb gc res fs sc acq rel word s) :=
  canonOut_onGroup fun c g => canonOut_engIssue h fun t k x ht => by split <;> simp [ht]

/-! ## Queues -/

@[simp] theorem canonOut_execSqtdbWrite (h : CanonMem s) {fn q val} : CanonOut (execSqtdbWrite fn q val s) := by unfold execSqtdbWrite; simp [h]
@[simp] theorem canonOut_execCqhdbWrite (h : CanonMem s) {fn q val} : CanonOut (execCqhdbWrite fn q val s) := by unfold execCqhdbWrite; simp [h]
@[simp] theorem canonOut_execQueueEnable (h : CanonMem s) {fn q val} : CanonOut (execQueueEnable fn q val s) := by unfold execQueueEnable; simp [h]
@[simp] theorem canonOut_execQueueDisable (h : CanonMem s) {fn q val} : CanonOut (execQueueDisable fn q val s) := by unfold execQueueDisable; simp [h]
@[simp] theorem canonOut_execQctlErrClear (h : CanonMem s) {fn q val} : CanonOut (execQctlErrClear fn q val s) := by unfold execQctlErrClear; simp [h]

@[simp] theorem canonOut_execRegisterWrite (h : CanonMem s) {fn off width val} : CanonOut (execRegisterWrite fn off width val s) := by
  unfold execRegisterWrite
  simp [h]

/-! ## Fabric commands -/

@[simp] theorem canonOut_fabOp (h : CanonMem s) {op sub ga gb gc res fs sc acq rel word} :
    CanonOut (fabOp op sub ga gb gc res fs sc acq rel word s) :=
  canonOut_onGroup fun c g => canonOut_engIssue h fun t k x ht => by simp [ht]

/-! ## Packets that arrive -/

@[simp] theorem canonOut_execPacketForward (h : CanonMem s) {p port} : CanonOut (execPacketForward p port s) := by unfold execPacketForward; simp [h]

@[simp] theorem canonOut_execWritePacket (h : CanonMem s) {p port} : CanonOut (execWritePacket p port s) :=
  canonMem_receive h fun t ht => canonMem_onExport ht fun asid va => by simp [ht]

@[simp] theorem canonOut_execReadPacket (h : CanonMem s) {p port} : CanonOut (execReadPacket p port s) :=
  canonMem_receive h fun _ ht => canonMem_onExport ht fun _ _ => ht

@[simp] theorem canonOut_execAtomicPacket (h : CanonMem s) {p port} : CanonOut (execAtomicPacket p port s) :=
  canonMem_receive h fun t ht => canonMem_onExport ht fun asid va => by simp [ht]

@[simp] theorem canonOut_execAckPacket (h : CanonMem s) {p port} : CanonOut (execAckPacket p port s) :=
  canonMem_receive h fun t ht => by
    dsimp only
    (repeat' split) <;> simp [ht]

@[simp] theorem canonOut_execReaddataPacket (h : CanonMem s) {p port} : CanonOut (execReaddataPacket p port s) := by
  unfold execReaddataPacket
  rw [canonOut_next]
  split
  · simp [h]
  · refine canonMem_receive h fun t ht => ?_
    dsimp only
    (repeat' split) <;> simp [ht]

@[simp] theorem canonOut_execAtomreplyPacket (h : CanonMem s) {p port} : CanonOut (execAtomreplyPacket p port s) :=
  canonMem_receive h fun t ht => by
    dsimp only
    (repeat' split) <;> simp [ht]

@[simp] theorem canonOut_execResvreplyPacket (h : CanonMem s) {p port} : CanonOut (execResvreplyPacket p port s) :=
  canonMem_receive h fun t ht => by
    dsimp only
    (repeat' split) <;> simp [ht]

@[simp] theorem canonOut_execNackPacket (h : CanonMem s) {p port} : CanonOut (execNackPacket p port s) :=
  canonMem_receive h fun t ht => by
    dsimp only
    (repeat' split) <;> simp [ht]

@[simp] theorem canonOut_execRetransmitTimeout (h : CanonMem s) {dst seq} : CanonOut (execRetransmitTimeout dst seq s) := by
  unfold execRetransmitTimeout
  (repeat' split) <;> simp [h]

@[simp] theorem canonOut_execResvPacket (h : CanonMem s) {p port} : CanonOut (execResvPacket p port s) :=
  canonMem_toSlot h fun t ht => by
    dsimp only
    split <;> simp [ht]

@[simp] theorem canonOut_execCatchPacket (h : CanonMem s) {p port} : CanonOut (execCatchPacket p port s) :=
  canonMem_toSlot h fun t ht => by
    dsimp only
    split <;> simp [ht]

@[simp] theorem canonOut_execAbortPacket (h : CanonMem s) {p port} : CanonOut (execAbortPacket p port s) :=
  canonMem_toSlot h fun t ht => by simp [ht]

@[simp] theorem canonOut_execTornPacket (h : CanonMem s) {p port} : CanonOut (execTornPacket p port s) :=
  canonMem_receive h fun t ht => ht.foldl fun u k hu => by simp [hu]

@[simp] theorem canonOut_execLinkDown (h : CanonMem s) {port} : CanonOut (execLinkDown port s) := by
  unfold execLinkDown
  rw [canonOut_next]
  split
  · exact h
  · extract_lets _ s1 hit s2
    have h2 : CanonMem s2 := CanonMem.foldl (by simp [s1, h]) fun t p ht => by simp [ht]
    exact h2.foldl fun t e ht => ht.foldl fun u z hu => by simp [hu]

@[simp] theorem canonOut_execCatchSlotTimeout (h : CanonMem s) {core slot} : CanonOut (execCatchSlotTimeout core slot s) := by
  unfold execCatchSlotTimeout
  simp [h]

@[simp] theorem canonOut_execCatchAbortTimeout (h : CanonMem s) {cmd} : CanonOut (execCatchAbortTimeout cmd s) := by
  unfold execCatchAbortTimeout
  split <;> simp [h]

@[simp] theorem canonOut_execReducePacket (h : CanonMem s) {p port} : CanonOut (execReducePacket p port s) :=
  canonMem_receive h fun t ht => by
    dsimp only
    (repeat' split) <;> simp [ht]

@[simp] theorem canonOut_execRedresultPacket (h : CanonMem s) {p port} : CanonOut (execRedresultPacket p port s) :=
  canonMem_receive h fun t ht => by simp [ht]

@[simp] theorem canonOut_execReduceResendTimeout (h : CanonMem s) {cmd} : CanonOut (execReduceResendTimeout cmd s) := by
  unfold execReduceResendTimeout
  split <;> simp [h]

/-! ## The page engine -/

@[simp] theorem canonOut_execEvictionStart (h : CanonMem s) {pool} : CanonOut (execEvictionStart pool s) := by
  unfold execEvictionStart
  (repeat' split) <;> simp [h]

@[simp] theorem canonOut_execEvictionCopyDone (h : CanonMem s) {pool frame} : CanonOut (execEvictionCopyDone pool frame s) := by
  unfold execEvictionCopyDone
  (repeat' split) <;> simp [h]

@[simp] theorem canonOut_execFetchStart (h : CanonMem s) {pool frame} : CanonOut (execFetchStart pool frame s) := by
  unfold execFetchStart
  (repeat' split) <;> simp [h]

@[simp] theorem canonOut_execFetchDone (h : CanonMem s) {pool frame} : CanonOut (execFetchDone pool frame s) := by
  unfold execFetchDone
  (repeat' split) <;> simp [h]

/-! ## Sampling -/

@[simp] theorem canonOut_rngOp (h : CanonMem s) {sub u d a b la} : CanonOut (rngOp sub u d a b la s) :=
  canonOut_onGroup fun c g => by simp [h]

@[simp] theorem canonOut_smpOp (h : CanonMem s) {op sub ga gb gc res fs sc acq rel word chk} :
    CanonOut (smpOp op sub ga gb gc res fs sc acq rel word chk s) :=
  canonOut_onGroup fun c g => canonOut_engIssue h fun t k x ht => by simp [ht]

/-! ## Requests -/

@[simp] theorem canonOut_execConsumerCountPoll (h : CanonMem s) {tenant} : CanonOut (execConsumerCountPoll tenant s) := by
  unfold execConsumerCountPoll
  split <;> simp [h]

@[simp] theorem canonOut_reqOp (h : CanonMem s) {op sub ga gb gc res fs sc acq rel word} :
    CanonOut (reqOp op sub ga gb gc res fs sc acq rel word s) :=
  canonOut_onGroup fun c g => canonOut_engIssue h fun t k x ht => by simp [ht]

/-! ## Engine events -/

@[simp] theorem canonOut_execCopyLineLand (h : CanonMem s) {cmd line} : CanonOut (execCopyLineLand cmd line s) := by
  unfold execCopyLineLand
  split <;> simp [h]

@[simp] theorem canonOut_execEngineComplete (h : CanonMem s) {cmd} : CanonOut (execEngineComplete cmd s) := by
  unfold execEngineComplete
  split <;> simp [h]

@[simp] theorem canonOut_execChainEntryTake (h : CanonMem s) {core chain} : CanonOut (execChainEntryTake core chain s) := by
  unfold execChainEntryTake
  (repeat' split) <;> simp [h]

@[simp] theorem canonOut_execChainEntryComplete (h : CanonMem s) {cmd} : CanonOut (execChainEntryComplete cmd s) := by
  unfold execChainEntryComplete
  split <;> simp [h]

/-! ## Launches and task graphs -/

@[simp] theorem canonOut_execAdmissionStep (h : CanonMem s) {places} : CanonOut (execAdmissionStep places s) := by unfold execAdmissionStep; simp [h]

@[simp] theorem canonOut_execHandlerStart (h : CanonMem s) {id place} : CanonOut (execHandlerStart id place s) := by
  unfold execHandlerStart
  (repeat' split) <;> simp [h]

@[simp] theorem canonOut_execFirmwareDispose (h : CanonMem s) {id} : CanonOut (execFirmwareDispose id s) := by
  unfold execFirmwareDispose
  (repeat' split) <;> simp [h]

@[simp] theorem canonOut_execXlateHoldTimeout (h : CanonMem s) {id seq} : CanonOut (execXlateHoldTimeout id seq s) := by
  unfold execXlateHoldTimeout
  (repeat' split) <;> simp [h]

@[simp] theorem canonOut_execLaunchComplete (h : CanonMem s) {id} : CanonOut (execLaunchComplete id s) := by
  unfold execLaunchComplete
  (repeat' split) <;> simp [h]

/-! ## Host commands -/

@[simp] theorem canonOut_execShootdownAck (h : CanonMem s) {sd chip} : CanonOut (execShootdownAck sd chip s) := by
  unfold execShootdownAck
  split <;> simp [h]

/-! ## Shootdowns and images -/

@[simp] theorem canonOut_execMemMap (h : CanonMem s) {c} : CanonOut (execMemMap c s) :=
  canonMem_runCommand h fun t o ht => by
    dsimp only
    split
    · simp [ht]
    · split
      · trivial
      · split
        · trivial
        · next mapped => simp [canonMem_of_mapRange ht mapped]

@[simp] theorem canonOut_execMemMapUnmap (h : CanonMem s) {c} : CanonOut (execMemMapUnmap c s) :=
  canonMem_runCommand h fun t o ht => by
    dsimp only
    split
    · trivial
    · next u ls unmapped =>
      have hu : CanonMem u := canonMem_of_unmapRange ht unmapped
      simp [hu]

@[simp] theorem canonOut_execImageLoadRom (h : CanonMem s) {c} : CanonOut (execImageLoadRom c s) :=
  canonMem_runCommand h fun t o ht => by simp [ht]

@[simp] theorem canonOut_execImageLoad (h : CanonMem s) {c} : CanonOut (execImageLoad c s) :=
  canonMem_runCommand h fun t o ht => by simp [ht]

@[simp] theorem canonOut_execPoolCreate (h : CanonMem s) {c} : CanonOut (execPoolCreate c s) :=
  canonMem_runCommand h fun t o ht => by
    dsimp only
    split
    · trivial
    · split
      · simp [ht]
      · split
        · trivial
        · next b _ u taken =>
          have hu : CanonMem u := canonMem_of_takeMem ht taken
          simp [hu]

/-! ## Plans -/

@[simp] theorem canonOut_execLaunch (h : CanonMem s) {c} : CanonOut (execLaunch c s) := by
  unfold execLaunch
  rw [canonOut_next]
  split
  · exact h
  · exact canonMem_runCommand h fun t o ht => by split <;> simp [ht]

@[simp] theorem canonOut_execGraphSubmit (h : CanonMem s) {c} : CanonOut (execGraphSubmit c s) :=
  canonMem_runCommand h fun t o ht => by split <;> simp [ht]

@[simp] theorem canonOut_execModelPlan (h : CanonMem s) {c} : CanonOut (execModelPlan c s) :=
  canonMem_runCommand h fun t o ht => by
    dsimp only
    (repeat' split) <;> simp [ht]

@[simp] theorem canonOut_execModelPlanRom (h : CanonMem s) {c} : CanonOut (execModelPlanRom c s) :=
  canonMem_runCommand h fun t o ht => by
    split
    · trivial
    · split
      · trivial
      · split
        · trivial
        · split
          · trivial
          · split
            · trivial
            · split
              · trivial
              · next b _ u taken =>
                have hu : CanonMem u := canonMem_of_takeMem ht taken
                have added := canonAns_addPlan hu (c := c) (t := none) (area := b)
                split
                · next v i heq =>
                  rw [heq] at added
                  simpa using canonMem_writeRomParam added
                · exact added

@[simp] theorem canonOut_execReqAdmit (h : CanonMem s) {c} : CanonOut (execReqAdmit c s) :=
  canonMem_runCommand h fun t o ht => by
    dsimp only
    split
    · trivial
    · split
      · trivial
      · next u phys at_ entered =>
        have hu : CanonMem u := canonMem_of_enterReq ht entered
        simp [hu]

@[simp] theorem canonOut_execReqCancel (h : CanonMem s) {c} : CanonOut (execReqCancel c s) :=
  canonMem_runCommand h fun t o ht => by split <;> simp [ht]

@[simp] theorem canonOut_execReqQuery (h : CanonMem s) {c} : CanonOut (execReqQuery c s) :=
  canonMem_runCommand h fun t o ht => by split <;> simp [ht]

@[simp] theorem canonOut_execReqQueryRelease (h : CanonMem s) {c} : CanonOut (execReqQueryRelease c s) :=
  canonMem_runCommand h fun t o ht => by split <;> simp [ht]

@[simp] theorem canonOut_execReqFork (h : CanonMem s) {c} : CanonOut (execReqFork c s) :=
  canonMem_runCommand h fun t o ht => by
    dsimp only
    split
    · trivial
    · split
      · trivial
      · split
        · trivial
        · split
          · trivial
          · split
            · trivial
            · split
              · trivial
              · split
                · trivial
                · next u forked =>
                  have hu : CanonMem u := (canonMem_of_forkHandle forked).mpr ht
                  simp [hu]

/-! ## Iterations -/

@[simp] theorem canonOut_execIterationForm (h : CanonMem s) {plan} : CanonOut (execIterationForm plan s) := by
  unfold execIterationForm
  (repeat' split) <;> simp [h]

@[simp] theorem canonOut_execIterationGraphComplete (h : CanonMem s) {plan} : CanonOut (execIterationGraphComplete plan s) := by
  unfold execIterationGraphComplete
  (repeat' split) <;> simp [h]

@[simp] theorem canonOut_execIterationComplete (h : CanonMem s) {plan} : CanonOut (execIterationComplete plan s) := by
  unfold execIterationComplete
  split <;> simp [h]

@[simp] theorem canonOut_execDeadlinePass (h : CanonMem s) {req} : CanonOut (execDeadlinePass req s) := by unfold execDeadlinePass; simp [h]

@[simp] theorem canonOut_execAdmissionKernelComplete (h : CanonMem s) {req} : CanonOut (execAdmissionKernelComplete req s) := by
  unfold execAdmissionKernelComplete
  dsimp only
  (repeat' split) <;> simp [h]

/-! ## Tenants -/

@[simp] theorem canonOut_execTenantOpen (h : CanonMem s) {c} : CanonOut (execTenantOpen c s) :=
  canonMem_runCommand h fun t o ht => by
    dsimp only
    (repeat' split) <;> simp [ht]

@[simp] theorem canonOut_execTenantClose (h : CanonMem s) {c} : CanonOut (execTenantClose c s) :=
  canonMem_runCommand h fun t o ht => by simp [ht]

/-! ## Context images -/

@[simp] theorem canonOut_execCtxExport (h : CanonMem s) {c} : CanonOut (execCtxExport c s) :=
  canonMem_runCommand h fun t o ht => by
    dsimp only
    (repeat' split) <;> simp [ht]

@[simp] theorem canonOut_execCtxImport (h : CanonMem s) {c} : CanonOut (execCtxImport c s) :=
  canonMem_runCommand h fun t o ht => by
    split
    · trivial
    · split
      · trivial
      · next started => exact canonMem_of_startStaged ht started

/-! ## Residency -/

@[simp] theorem canonOut_execRecordRelaunch (h : CanonMem s) {ctx part slot} : CanonOut (execRecordRelaunch ctx part slot s) := by
  unfold execRecordRelaunch
  (repeat' split) <;> simp [h]

@[simp] theorem canonOut_execHuddleBinTimeout (h : CanonMem s) {ctx} : CanonOut (execHuddleBinTimeout ctx s) := by
  unfold execHuddleBinTimeout
  split <;> simp [h]

/-! ## PREEMPT and RESUME -/

@[simp] theorem canonOut_execPreempt (h : CanonMem s) {c} : CanonOut (execPreempt c s) :=
  canonMem_runCommand h fun t o ht => by
    dsimp only
    split
    · trivial
    · exact CanonMem.foldl (by simp [ht]) fun u k hu => by simp [hu]

@[simp] theorem canonOut_execPreemptFabricTimeout (h : CanonMem s) {tenant} : CanonOut (execPreemptFabricTimeout tenant s) := by
  unfold execPreemptFabricTimeout
  rw [canonOut_next]
  split
  · exact h
  · split
    · split
      · exact h
      · exact CanonMem.foldl (by simp [h]) fun t e ht => by simp [ht]
    · exact h

@[simp] theorem canonOut_execContextImageCommit (h : CanonMem s) {tenant} : CanonOut (execContextImageCommit tenant s) := by
  unfold execContextImageCommit
  (repeat' split) <;> simp [h]

@[simp] theorem canonOut_execResume (h : CanonMem s) {c} : CanonOut (execResume c s) :=
  canonMem_runCommand h fun t o ht => by
    dsimp only
    (repeat' split) <;> simp [ht]

@[simp] theorem canonOut_execSectionRestore (h : CanonMem s) {tenant sect places} : CanonOut (execSectionRestore tenant sect places s) := by
  unfold execSectionRestore
  rw [canonOut_next]
  split
  · exact h
  · split
    · split
      · exact h
      · split
        · exact h
        · next restored =>
          have hr := canonMem_of_restoreAll h restored
          simp [hr]
    · exact h

/-! ## Chiplets -/

@[simp] theorem canonOut_execChipletReset (h : CanonMem s) {c} : CanonOut (execChipletReset c s) :=
  canonMem_runCommand h fun t o ht => by
    dsimp only
    (repeat' split) <;> simp [ht]

@[simp] theorem canonOut_execChipletFault (h : CanonMem s) {chip} : CanonOut (execChipletFault chip s) := by unfold execChipletFault; simp [h]

@[simp] theorem canonOut_execFenceDrainComplete (h : CanonMem s) {chip} : CanonOut (execFenceDrainComplete chip s) := by
  unfold execFenceDrainComplete
  simp [h]

@[simp] theorem canonOut_execFenceTimeout (h : CanonMem s) {chip} : CanonOut (execFenceTimeout chip s) := by
  unfold execFenceTimeout
  split <;> simp [h]

@[simp] theorem canonOut_execChipletResetDone (h : CanonMem s) {chip} : CanonOut (execChipletResetDone chip s) := by
  unfold execChipletResetDone
  simp [h]

@[simp] theorem canonOut_execSelftestPass (h : CanonMem s) {chip} : CanonOut (execSelftestPass chip s) := by unfold execSelftestPass; simp [h]
@[simp] theorem canonOut_execSelftestFail (h : CanonMem s) {chip} : CanonOut (execSelftestFail chip s) := by unfold execSelftestFail; simp [h]

/-! ## Routes -/

@[simp] theorem canonOut_execFabricRoutesLoad (h : CanonMem s) {c} : CanonOut (execFabricRoutesLoad c s) :=
  canonMem_runCommand h fun t o ht => by simp [ht]

@[simp] theorem canonOut_execFabricRoutesFlip (h : CanonMem s) {c} : CanonOut (execFabricRoutesFlip c s) :=
  canonMem_runCommand h fun t o ht => by simp [ht]

@[simp] theorem canonOut_execFabricRoutesRetire (h : CanonMem s) {c} : CanonOut (execFabricRoutesRetire c s) :=
  canonMem_runCommand h fun t o ht => by simp [ht]

@[simp] theorem canonOut_execFabricRoutesExport (h : CanonMem s) {c} : CanonOut (execFabricRoutesExport c s) :=
  canonMem_runCommand h fun t o ht => by
    dsimp only
    (repeat' split) <;> simp [ht]

/-! ## Hand-offs that arrive -/

@[simp] theorem canonOut_execKvExport (h : CanonMem s) {c} : CanonOut (execKvExport c s) :=
  canonMem_runCommand h fun t o ht => by
    dsimp only
    (repeat' split) <;> simp [ht]

@[simp] theorem canonOut_execKvxferPacket (h : CanonMem s) {p port} : CanonOut (execKvxferPacket p port s) :=
  canonMem_receive h fun t ht => by
    dsimp only
    (repeat' split) <;> simp [ht]

@[simp] theorem canonOut_execKvImport (h : CanonMem s) {c} : CanonOut (execKvImport c s) :=
  canonMem_runCommand h fun t o ht => by
    dsimp only
    (repeat' split) <;> simp [ht]

@[simp] theorem canonOut_execUeMessage (h : CanonMem s) {m} : CanonOut (execUeMessage m s) := by unfold execUeMessage; split <;> simp [h]

@[simp] theorem canonOut_execUeTransportFailure (h : CanonMem s) {xfer} : CanonOut (execUeTransportFailure xfer s) := by
  unfold execUeTransportFailure
  split <;> simp [h]

@[simp] theorem canonOut_execKvImportTimeout (h : CanonMem s) {xfer} : CanonOut (execKvImportTimeout xfer s) := by
  unfold execKvImportTimeout
  split <;> simp [h]

@[simp] theorem canonOut_execKvExportTimeout (h : CanonMem s) {xfer} : CanonOut (execKvExportTimeout xfer s) := by
  unfold execKvExportTimeout
  split <;> simp [h]

/-! ## Device commands -/

@[simp] theorem canonOut_execDevIdent (h : CanonMem s) {c} : CanonOut (execDevIdent c s) :=
  canonMem_runCommand h fun t o ht => by simp [ht]

@[simp] theorem canonOut_execFeatNegotiate (h : CanonMem s) {c} : CanonOut (execFeatNegotiate c s) :=
  canonMem_runCommand h fun t o ht => by simp [ht]

@[simp] theorem canonOut_execFwPatch (h : CanonMem s) {c} : CanonOut (execFwPatch c s) :=
  canonMem_runCommand h fun t o ht => by
    split
    · trivial
    · split
      · trivial
      · split
        · simp [ht]
        · split
          · trivial
          · next started => exact canonMem_of_startStaged (by simp [ht]) started

@[simp] theorem canonOut_execAttest (h : CanonMem s) {c} : CanonOut (execAttest c s) :=
  canonMem_runCommand h fun t o ht => by simp [ht]

@[simp] theorem canonOut_execKeyLoad (h : CanonMem s) {c} : CanonOut (execKeyLoad c s) :=
  canonMem_runCommand h fun t o ht => by
    dsimp only
    (repeat' split) <;> simp [ht]

@[simp] theorem canonOut_execAlarmStatus (h : CanonMem s) {c} : CanonOut (execAlarmStatus c s) :=
  canonMem_runCommand h fun t o ht => by simp [ht]

@[simp] theorem canonOut_execAlarmStatusClear (h : CanonMem s) {c} : CanonOut (execAlarmStatusClear c s) :=
  canonMem_runCommand h fun t o ht => by simp [ht]

@[simp] theorem canonOut_execAlarmSensor (h : CanonMem s) {sensor} : CanonOut (execAlarmSensor sensor s) := by
  unfold execAlarmSensor
  split <;> simp [h]

@[simp] theorem canonOut_execTempcHoldExpiry (h : CanonMem s) : CanonOut (execTempcHoldExpiry s) := by unfold execTempcHoldExpiry; split <;> simp [h]

@[simp] theorem canonOut_execSnapArm (h : CanonMem s) {c} : CanonOut (execSnapArm c s) :=
  canonMem_runCommand h fun t o ht => by simp [ht]

@[simp] theorem canonOut_execSnapRead (h : CanonMem s) {c} : CanonOut (execSnapRead c s) :=
  canonMem_runCommand h fun t o ht => by
    dsimp only
    (repeat' split) <;> simp [ht]

@[simp] theorem canonOut_execSnapshotPin (h : CanonMem s) : CanonOut (execSnapshotPin s) := by unfold execSnapshotPin; simp [h]

@[simp] theorem canonOut_execTelemetry (h : CanonMem s) {c} : CanonOut (execTelemetry c s) :=
  canonMem_runCommand h fun t o ht => by simp [ht]

/-! ## Copies of host memory -/

@[simp] theorem canonOut_execPcieReadCompletion (h : CanonMem s) {xfer chunk} : CanonOut (execPcieReadCompletion xfer chunk s) := by
  unfold execPcieReadCompletion
  (repeat' split) <;> simp [h]

@[simp] theorem canonOut_execRouteAck (h : CanonMem s) {xfer quad} : CanonOut (execRouteAck xfer quad s) := by
  unfold execRouteAck
  rw [canonOut_next]
  split
  · exact h
  · next x _ =>
    split
    · exact h
    · extract_lets mine t
      have ht : CanonMem t := h.foldl fun u e hu => by simp [hu]
      simp [ht]

@[simp] theorem canonOut_execPcieReadTimeout (h : CanonMem s) {xfer} : CanonOut (execPcieReadTimeout xfer s) := by
  unfold execPcieReadTimeout
  split <;> simp [h]

/-! ## The package -/

@[simp] theorem canonOut_execPowerWindowEnd (h : CanonMem s) {r} : CanonOut (execPowerWindowEnd r s) := by unfold execPowerWindowEnd; simp [h]
@[simp] theorem canonOut_execColdReset (h : CanonMem s) {r} : CanonOut (execColdReset r s) := by unfold execColdReset; simp [h]

/-! ## Every instruction, and the step -/

/-- An instruction that is one operation of a family is that operation; of every other one a lemma above speaks. -/
@[simp] theorem canonOut_exec (h : CanonMem s) {i} : CanonOut (exec i s) := by
  cases i
  all_goals simp [h,
    execIadd, execIsub, execImul, execImulh, execImad, execImin, execImax, execIabs, execIneg, execIdivQs, execIdivQn, execIdivRs, execIdivRn,
    execBitAnd, execBitOr, execBitXor, execBitAndn, execShl, execShrL, execShrA, execRotL, execRotR, execBitcPopc, execBitcClz, execBitcCtz,
    execBitcBrev, execBfeN, execBfeS, execBfi, execMov, execFadd, execFsub, execFmul, execFfma, execFfmaMs, execFfmaNm, execFfmaNms, execFmin,
    execFmax, execFabs, execFneg, execFrcp, execFsqrt, execFrsq, execFexp, execFln, execFexp2, execFlog2, execFrnd, execFputG, execFputS, execFputLz,
    execFputLzg, execFgetG, execFgetS, execFatom, execFred, execLzres, execLzarm, execLzrel, execLzqRd, execLzqWait, execXredExp, execXredSum,
    execKvgatK, execKvgatV, execKvapp, execKvpinPin, execKvpinUnpin, execKvfrk, execHdlQuery, execHdlCommit, execHdlTrunc, execPfxh, execPfxl,
    execPfxi, execCopyG2s, execCopyS2g, execCopyG2o, execCopyS2o, execCopyG2g, execCopyXa, execCopyS2s, execCopyfG2o, execCopyfS2o, execFcmpEq,
    execFcmpNe, execFcmpLt, execFcmpLe, execFcmpGt, execFcmpGe, execFcmpUn, execFcmpOr, execLredIadd, execLredFadd, execLredMin, execLredMax,
    execLredAmax, execLredAnd, execLredOr, execLredXor, execLscanIadd, execLscanFadd, execLscanMin, execLscanMax, execLscanAnd, execLscanOr,
    execLscanXor, execIcmpEq, execIcmpNe, execIcmpLt, execIcmpLe, execIcmpGt, execIcmpGe, execRngW0, execRngW1, execRngW2, execRngW3, execRngUni,
    execRngGum, execPlogAnd, execPlogOr, execPlogXor, execPlogAndn, execPlogNot, execSmplMax, execSmplSmp, execSmplRes, execSmrg, execAcpt, execStop,
    execEmit, execRqstCommit, execRqstQuery, execRqstFail, execShflIdx, execShflUp, execShflDown, execShflXor, execLd, execLds, execLdp, execLdw,
    execSt, execSts, execStp, execStw, execAccldG, execAccldS, execAccstG, execAccstS, execMaskSet, execMaskAnd, execMaskOr, execBrAny, execBrAll,
    execBrNone, execVoteAny, execVoteAll, execVoteEq, execAtom, execAtoms, execRed, execHadq, execHadqInv, execBcastFirst]

@[simp] theorem canonOut_afterEvent {r} (h : CanonOut r) : CanonOut (afterEvent r) := by
  cases r with
  | next t => exact canonMem_settleImports (canonMem_settleClosing h)
  | fault f => trivial
  | refused x => trivial

@[simp] theorem canonOut_issueTurn (h : CanonMem s) {c} : CanonOut (issueTurn s c) := by
  unfold issueTurn
  split
  · exact h
  · split
    · split
      · simp [h]
      · split
        · exact canonOut_afterEvent (by simp [h])
        · split <;> simp [h]
    · exact h

@[simp] theorem canonOut_runTurn (h : CanonMem s) {t} : CanonOut (runTurn t s) := by
  cases t with
  | event i =>
    simp only [runTurn]
    split
    · exact canonOut_afterEvent (canonOut_exec h)
    · exact h
  | issue c => exact canonOut_issueTurn h
  | _ => simp [runTurn, h]

@[simp] theorem canonOut_noted {r} (h : CanonOut r) : CanonOut (noted r) := by
  cases r with
  | next t => exact canonMem_noteReady.mpr (canonMem_placeKept h)
  | fault f => trivial
  | refused x => trivial

theorem canonOut_step (h : CanonMem s) : CanonOut (step s) := by
  unfold step
  split
  · simp [h]
  · exact canonOut_noted (canonOut_runTurn (by simp [h]))

/-- Settles O57: bytes are written by few operations, each of which keeps the form, and every instruction and event is made of operations that keep it. -/
theorem stepKeepsMemoryForm : Obligations.StepKeepsMemoryForm := by
  intro s t mem hostMem next
  have kept := canonOut_step ⟨mem, hostMem⟩
  rwa [next] at kept

end Sys2Proof.Machine
end

section
/-! PROOFS. Evictions and fetches of page frames (R320, R323, R324, R326, R327, R412). -/

namespace Sys2Proof.Machine

/-! ## Frames of a pool -/

@[simp] theorem frameOf_setFrame_same (p : Pool) (f : Nat) (x : Frame) : frameOf (setFrame p f x) f = x := by
  simp [frameOf, setFrame, tgetD]

theorem frameOf_setFrame_ne (p : Pool) {f j : Nat} (x : Frame) (h : j ≠ f) : frameOf (setFrame p f x) j = frameOf p j := by
  simp only [frameOf, setFrame, tgetD, tget_tset_ne _ _ h]

@[simp] theorem setFrame_ctr (p : Pool) (f : Nat) (x : Frame) : (setFrame p f x).ctr = p.ctr := rfl

@[simp] theorem frameOf_with_ctr (p : Pool) (ctr : PoolCtr) (j : Nat) : frameOf { p with ctr := ctr } j = frameOf p j := rfl

/-- A slot given up changes no frame: its home frame may join the free list (R320). -/
@[simp] theorem frameOf_slotGiven (p : Pool) (h j : Nat) : frameOf (slotGiven p h) j = frameOf p j := by
  unfold slotGiven
  split <;> rfl

@[simp] theorem slotGiven_ctr (p : Pool) (h : Nat) : (slotGiven p h).ctr = p.ctr := by
  unfold slotGiven
  split <;> rfl

@[simp] theorem frameOf_giveSlot_same (p : Pool) (f : Nat) : frameOf (giveSlot p f) f = { frameOf p f with slot := none } := by
  unfold giveSlot
  dsimp only
  split
  · next empty => simp [← empty]
  · simp

@[simp] theorem giveSlot_ctr (p : Pool) (f : Nat) : (giveSlot p f).ctr = p.ctr := by
  unfold giveSlot
  dsimp only
  split <;> simp

theorem commitEviction_st (p : Pool) (f : Nat) : (frameOf (commitEviction p f) f).st = .tier2 := by
  simp [commitEviction]

theorem commitEviction_slot (p : Pool) (f : Nat) : (frameOf (commitEviction p f) f).slot = none := by
  simp [commitEviction]

theorem commitEviction_ctr (p : Pool) (f : Nat) : (commitEviction p f).ctr = { p.ctr with evict := p.ctr.evict + 1 } := by
  simp [commitEviction]

theorem freeFrame_st (p : Pool) (f : Nat) : (frameOf (freeFrame p f) f).st = .free := by
  unfold freeFrame
  dsimp only
  split <;> simp

/-! ## What follows a complete copy of an evicting frame -/

theorem afterRelease_of_pinned {p : Pool} {f : Nat} (pinned : (frameOf p f).pins ≠ 0) : afterRelease p f = p := by
  simp [afterRelease, pinned]

theorem afterRelease_of_unreferenced {p : Pool} {f : Nat} (live : (frameOf p f).st ≠ .free) (pins : (frameOf p f).pins = 0) (ref : (frameOf p f).ref = 0) :
    afterRelease p f = freeFrame p f := by
  simp [afterRelease, live, pins, ref]

theorem afterRelease_of_copied {p : Pool} {f : Nat} (st : (frameOf p f).st = .evicting) (copied : (frameOf p f).copied = true) (pins : (frameOf p f).pins = 0)
    (ref : (frameOf p f).ref ≠ 0) : afterRelease p f = commitEviction p f := by
  simp [afterRelease, st, copied, pins, ref]

/-! ## The events -/

section
variable {s : State} {i : Nat} {p : Pool} (pool : tget s.pools i = some p)
include pool

theorem evictionStart_of_victim {f : Nat} (tier2 : p.tier2.isSome = true) (runs : p.halted = false) (victim : victimOf s i p = some f) :
    exec (.evictionStart i) s = .next { s with pools := tset s.pools i (setFrame p f { frameOf p f with st := .evicting, copied := false }) } := by
  simp [execEvictionStart, pool, Option.isNone_eq_false_iff.mpr tier2, runs, victim]

theorem evictionStart_of_no_victim (victim : victimOf s i p = none) : exec (.evictionStart i) s = .next s := by
  simp [execEvictionStart, pool, victim]

theorem evictionStart_of_stopped (stopped : p.tier2 = none ∨ p.halted = true) : exec (.evictionStart i) s = .next s := by
  rcases stopped with h | h <;> simp [execEvictionStart, pool, h]

theorem evictionCopyDone_of_fault {f : Nat} {e : TrapCode × Nat} (st : (frameOf p f).st = .evicting) (copied : (frameOf p f).copied = false)
    (fault : frameFault s p f false = some e) :
    exec (.evictionCopyDone i f) s = .next { s with pools := tset s.pools i { abandonEviction p f with halted := true } } := by
  simp [execEvictionCopyDone, pool, st, copied, fault]

theorem evictionCopyDone_of_no_fault {f : Nat} (st : (frameOf p f).st = .evicting) (copied : (frameOf p f).copied = false) (fault : frameFault s p f false = none) :
    exec (.evictionCopyDone i f) s = .next { copyFrame s p f true with
      pools := tset s.pools i (afterRelease (setFrame p f { frameOf p f with copied := true }) f) } := by
  simp [execEvictionCopyDone, pool, st, copied, fault]

theorem fetchStart_of_waiter {f : Nat} {q : Pool} (waiters : fetchWaiters s i f ≠ []) (start : startFetch p f = some q) :
    exec (.fetchStart i f) s = .next { s with pools := tset s.pools i q } := by
  simp [execFetchStart, pool, waiters, start]

theorem fetchStart_of_no_waiter {f : Nat} (waiters : fetchWaiters s i f = []) : exec (.fetchStart i f) s = .next s := by
  simp [execFetchStart, pool, waiters]

theorem fetchDone_of_no_fault {f : Nat} (st : (frameOf p f).st = .fetching) (fault : frameFault s p f true = none) :
    exec (.fetchDone i f) s = .next { copyFrame s p f false with
      pools := tset s.pools i { setFrame p f { frameOf p f with st := .resident } with ctr := { p.ctr with fetch := p.ctr.fetch + 1 } } } := by
  simp [execFetchDone, pool, st, fault]

theorem fetchDone_of_fault_waited {f va k : Nat} {code : TrapCode} {d : Cmd} {r : List (Nat × Cmd)} (st : (frameOf p f).st = .fetching)
    (fault : frameFault s p f true = some (code, va)) (waiters : fetchWaiters s i f = (k, d) :: r) :
    exec (.fetchDone i f) s = .next (engFault s k code va) := by
  cases wants : fetchWants s i f with
  | nil => simp [fetchWaiters, wants] at waiters
  | cons => simp [execFetchDone, pool, st, fault, waiters, wants]

theorem fetchDone_of_fault_unwanted {f : Nat} (st : (frameOf p f).st = .fetching) (fault : frameFault s p f true ≠ none) (wants : fetchWants s i f = []) :
    exec (.fetchDone i f) s = .next { s with pools := tset s.pools i (giveSlot (setFrame p f { frameOf p f with st := .tier2 }) f) } := by
  obtain ⟨e, he⟩ := Option.ne_none_iff_exists'.mp fault
  simp [execFetchDone, pool, st, he, wants]

end

/-- Settles O45: each event by its cases; the frame of a complete eviction by what afterRelease does with a frame that is pinned, unreferenced or neither. -/
theorem frameEvents : Obligations.FrameEvents := by
  intro s i p pool
  refine ⟨fun tier2 runs => ⟨fun f => evictionStart_of_victim pool tier2 runs, evictionStart_of_no_victim pool⟩, evictionStart_of_stopped pool, ?_,
    fun f waiters q => fetchStart_of_waiter pool waiters, fun f => fetchStart_of_no_waiter pool, ?_⟩
  · rintro f _ rfl st copied
    refine ⟨fun e => evictionCopyDone_of_fault pool st copied, fun fault => ⟨_, _, evictionCopyDone_of_no_fault pool st copied fault, rfl, ?_, ?_, ?_⟩⟩
    · intro pins ref
      rw [afterRelease_of_copied (by simpa) (by simp) (by simpa) (by simpa)]
      exact ⟨commitEviction_st .., commitEviction_slot .., commitEviction_ctr ..⟩
    · intro pins ref
      rw [afterRelease_of_unreferenced (by simp [st]) (by simpa) (by simpa)]
      exact freeFrame_st ..
    · intro pins
      rw [afterRelease_of_pinned (by simpa)]
      exact ⟨frameOf_setFrame_same .., rfl⟩
  · rintro f _ rfl st
    refine ⟨fun fault => ⟨_, _, fetchDone_of_no_fault pool st fault, rfl, by simp, rfl, fun j h => ?_⟩, fun code va k d r => fetchDone_of_fault_waited pool st,
      fetchDone_of_fault_unwanted pool st⟩
    rw [frameOf_with_ctr, frameOf_setFrame_ne _ _ h]

end Sys2Proof.Machine
end

section
/-! PROOFS. What every packet goes through (R369, R371 to R374, R405). -/

namespace Sys2Proof.Claims
open Sys2Proof.Machine

/-! ## A packet at its destination (R373) -/

section
variable {s : State} {type : Nat} {p : Packet} {port : Nat}

theorem receive_of_elsewhere (elsewhere : p.type ≠ type ∨ p.dst ≠ s.fab.devId ∨ arrives s p port = false) (f : State → State × Option Reply) :
    receive type p port s f = s := if_pos elsewhere

section
variable (here : Here s type p port)
include here

theorem receive_of_zeroised (zeroised : s.sec.zeroised = true) (f : State → State × Option Reply) : receive type p port s f = takePacket s p := by
  obtain ⟨htype, hdst, harrives⟩ := here
  have zeroised' : (takePacket s p).sec.zeroised = true := zeroised
  simp [receive, htype, hdst, harrives, zeroised']

variable (alive : s.sec.zeroised = false)
include alive

theorem receive_of_bad_tag (tag : verified s p = false) (f : State → State × Option Reply) :
    receive type p port s f = tagFail (sendNack (takePacket s p) p 7) := by
  obtain ⟨htype, hdst, harrives⟩ := here
  have alive' : (takePacket s p).sec.zeroised = false := alive
  have tag' : verified (takePacket s p) p = false := tag
  simp [receive, htype, hdst, harrives, alive', tag', nackAuth]

variable (tag : verified s p = true)
include tag

theorem receive_of_below_window (below : p.seq + 65536 < (pairOf s p.src).top) (f : State → State × Option Reply) :
    receive type p port s f = takePacket s p := by
  obtain ⟨htype, hdst, harrives⟩ := here
  have alive' : (takePacket s p).sec.zeroised = false := alive
  have tag' : verified (takePacket s p) p = true := tag
  have below' : p.seq + 65536 < (pairOf (takePacket s p) p.src).top := below
  simp [receive, htype, hdst, harrives, alive', tag', below']

variable (inWindow : (pairOf s p.src).top ≤ p.seq + 65536)
include inWindow

/-- A duplicate draws the reply that it drew before. -/
theorem receive_of_answered {y : Reply} (seen : tget (pairOf s p.src).got p.seq = some (some y)) (f : State → State × Option Reply) :
    receive type p port s f = sendBack (takePacket s p) p y := by
  obtain ⟨htype, hdst, harrives⟩ := here
  have alive' : (takePacket s p).sec.zeroised = false := alive
  have tag' : verified (takePacket s p) p = true := tag
  have inWindow' : ¬ p.seq + 65536 < (pairOf (takePacket s p) p.src).top := Nat.not_lt.mpr inWindow
  have seen' : tget (pairOf (takePacket s p) p.src).got p.seq = some (some y) := seen
  simp [receive, htype, hdst, harrives, alive', tag', inWindow', seen']

theorem receive_of_unanswered (seen : tget (pairOf s p.src).got p.seq = some none) (f : State → State × Option Reply) :
    receive type p port s f = takePacket s p := by
  obtain ⟨htype, hdst, harrives⟩ := here
  have alive' : (takePacket s p).sec.zeroised = false := alive
  have tag' : verified (takePacket s p) p = true := tag
  have inWindow' : ¬ p.seq + 65536 < (pairOf (takePacket s p) p.src).top := Nat.not_lt.mpr inWindow
  have seen' : tget (pairOf (takePacket s p) p.src).got p.seq = some none := seen
  simp [receive, htype, hdst, harrives, alive', tag', inWindow', seen']

end

/-! ## Data that wait for a walk (R282) -/

theorem getWaits_of_elsewhere (elsewhere : p.type ≠ 3 ∨ p.dst ≠ s.fab.devId ∨ arrives s p port = false) : getWaits s p port = none := by
  rcases elsewhere with h | h | h <;> simp [getWaits, pktReadData, h]

theorem getWaits_of_zeroised (zeroised : s.sec.zeroised = true) : getWaits s p port = none := by
  simp [getWaits, zeroised]

theorem getWaits_of_bad_tag (tag : verified s p = false) : getWaits s p port = none := by
  simp [getWaits, tag]

theorem readdataPacket_of_waits {core asid a n : Nat} (waits : getWaits s p port = some (core, asid, a, n)) :
    exec (.readdataPacket p port) s = .next (engAsk s core asid a n) := by
  simp [execReaddataPacket, waits]

/-- Each arrival is the reception of a packet of its type, with an effect of its own, unless its data wait for a walk. -/
theorem exec_arrival {mk : Packet → Nat → Instr} (arrival : IsArrival mk type) (ready : type = 3 → getWaits s p port = none) :
    ∃ f, exec (mk p port) s = .next (receive type p port s f) := by
  simp only [IsArrival, List.mem_cons, List.not_mem_nil, or_false, Prod.mk.injEq] at arrival
  obtain ⟨rfl, rfl⟩ | ⟨rfl, rfl⟩ | ⟨rfl, rfl⟩ | ⟨rfl, rfl⟩ | ⟨rfl, rfl⟩ | ⟨rfl, rfl⟩ | ⟨rfl, rfl⟩ | ⟨rfl, rfl⟩ | ⟨rfl, rfl⟩ | ⟨rfl, rfl⟩ | ⟨rfl, rfl⟩ |
    ⟨rfl, rfl⟩ := arrival
  case inr.inr.inl =>
    rw [exec_readdataPacket, execReaddataPacket, ready rfl]
    exact ⟨_, rfl⟩
  all_goals exact ⟨_, rfl⟩

theorem exec_arrival_of_elsewhere {mk : Packet → Nat → Instr} (arrival : IsArrival mk type)
    (elsewhere : p.type ≠ type ∨ p.dst ≠ s.fab.devId ∨ arrives s p port = false) : exec (mk p port) s = .next s := by
  obtain ⟨f, hf⟩ := exec_arrival (s := s) (p := p) (port := port) arrival fun h => getWaits_of_elsewhere (h ▸ elsewhere)
  rw [hf, receive_of_elsewhere elsewhere]

end

/-! ## A packet on its way (R369, R371, R372) -/

section
variable {s : State} {p : Packet} {port : Nat}

/-- A packet for another device is buffered where its bank routes it over a port that is up. -/
theorem route_of_up {out : Nat} (other : p.dst ≠ s.fab.devId) (routed : routePort s p.bank p.dst = some out) (up : portUp s out = true) :
    route s p = buffer s p := by
  simp [route, routeFault, other, routed, up]

theorem route_of_down {out : Nat} (other : p.dst ≠ s.fab.devId) (routed : routePort s p.bank p.dst = some out) (down : portUp s out = false) :
    route s p = sendNack { s with fab := { s.fab with dropped := s.fab.dropped + 1 } } p 1 := by
  simp [route, routeFault, other, routed, down, nackLinkdown]

theorem route_of_unrouted (other : p.dst ≠ s.fab.devId) (unrouted : routePort s p.bank p.dst = none) :
    route s p = sendNack { s with fab := { s.fab with dropped := s.fab.dropped + 1 } } p 3 := by
  simp [route, routeFault, other, unrouted, nackNoroute]

theorem packetForward_of_own (own : p.dst = s.fab.devId) (type : p.type < 15) : exec (.packetForward p port) s = .next s := by
  simp [execPacketForward, own, type]

variable (up : portUp s port = true) (alive : s.sec.zeroised = false)
include up alive

theorem packetForward_of_reserved (reserved : 15 ≤ p.type) :
    exec (.packetForward p port) s = .next { s with fab := { s.fab with dropped := s.fab.dropped + 1 } } := by
  simp [execPacketForward, up, alive, reserved, Nat.not_lt.mpr reserved]

variable (other : p.dst ≠ s.fab.devId) (type : p.type < 15)
include other type

theorem packetForward_of_hops (hops : 5 ≤ p.hop) :
    exec (.packetForward p port) s = .next (sendNack { s with fab := { s.fab with dropped := s.fab.dropped + 1 } } p 2) := by
  simp [execPacketForward, up, alive, other, Nat.not_le.mpr type, hops, nackHops]

theorem packetForward_of_other (hops : p.hop < 5) : exec (.packetForward p port) s = .next (route s { p with hop := p.hop + 1 }) := by
  simp [execPacketForward, up, alive, other, Nat.not_le.mpr type, Nat.not_le.mpr hops]

end

/-- Settles O47: each arrival by the rule of receive for its case, and a packet for another device by the case of its route. -/
theorem packetChecks : Obligations.PacketChecks := by
  refine ⟨?arrival, fun s p port core asid a n => readdataPacket_of_waits, fun mk type s p port => exec_arrival_of_elsewhere, ?forward⟩
  case arrival =>
    rintro mk type s p port arrival here _ rfl
    refine ⟨fun zeroised => ?_, fun alive tag => ?_, fun alive tag ready => ⟨fun below => ?_, fun inWindow r seen => ?_⟩⟩
    · obtain ⟨f, hf⟩ := exec_arrival arrival fun _ => getWaits_of_zeroised zeroised
      rw [hf, receive_of_zeroised here zeroised]
    · obtain ⟨f, hf⟩ := exec_arrival arrival fun _ => getWaits_of_bad_tag tag
      rw [hf, receive_of_bad_tag here alive tag]
    · obtain ⟨f, hf⟩ := exec_arrival arrival ready
      rw [hf, receive_of_below_window here alive tag below]
    · obtain ⟨f, hf⟩ := exec_arrival arrival ready
      rw [hf]
      cases r with
      | none => rw [receive_of_unanswered here alive tag inWindow seen]
      | some y => rw [receive_of_answered here alive tag inWindow seen]
  case forward =>
    rintro s p port up alive _ rfl
    refine ⟨packetForward_of_reserved up alive, packetForward_of_own, packetForward_of_hops up alive, fun other type hops => ?_⟩
    rw [packetForward_of_other up alive other type hops]
    rintro q rfl
    refine ⟨fun out routed isUp => ?_, fun out routed down => ?_, fun unrouted => ?_⟩
    · rw [route_of_up (p := { p with hop := p.hop + 1 }) other routed isUp]
    · rw [route_of_down (p := { p with hop := p.hop + 1 }) other routed down]
    · rw [route_of_unrouted (p := { p with hop := p.hop + 1 }) other unrouted]

end Sys2Proof.Claims
end

section
/-! PROOFS. The fabric's timers, messages and failing links (R373, R376, R378 to R380). -/

namespace Sys2Proof.Machine

variable {s : State}

/-! ## Requests and notices without an acknowledgement (R365, R373) -/

section
variable {dst seq : Nat} {x : Sent} (sent : s.fab.sent.find? (fun x => decide (x.pkt.dst = dst) && decide (x.pkt.seq = seq)) = some x)
include sent

theorem retransmitTimeout_of_due (due : x.at_ + 24000 ≤ s.clk) : exec (.retransmitTimeout dst seq) s = .next (again s x) := by
  simp [execRetransmitTimeout, sent, usClk, due]

theorem retransmitTimeout_of_early (early : s.clk < x.at_ + 24000) : exec (.retransmitTimeout dst seq) s = .next s := by
  simp [execRetransmitTimeout, sent, usClk, Nat.not_le.mpr early]

end

theorem again_of_left {x : Sent} (left : x.tries < 8) : again s x = resend s x := if_pos left

theorem again_of_last {x : Sent} (last : x.tries = 8) : again s x = abortSent s x false := by
  simp [again, last]

theorem again_of_spent {x : Sent} (spent : 8 < x.tries) : again s x = s := by
  simp [again, Nat.not_lt.mpr spent.le, spent.ne']

section
variable {dst seq : Nat} {e : Packet × Nat}
  (none_sent : s.fab.sent.find? (fun x => decide (x.pkt.dst = dst) && decide (x.pkt.seq = seq)) = none)
  (noticed : s.fab.notices.find? (fun e => decide (e.1.dst = dst) && decide (e.1.seq = seq)) = some e)
include none_sent noticed

theorem retransmitTimeout_of_notice : exec (.retransmitTimeout dst seq) s = .next (resendNotice s e) := by
  simp [execRetransmitTimeout, none_sent, noticed]

end

theorem resendNotice_of_due {e : Packet × Nat} (due : e.2 + 24000 ≤ s.clk) (reach : canSend s e.1.dst = true) {p : Packet}
    (hp : p = { e.1 with bank := injectBank s }) : resendNotice s e
      = route { s with fab := { s.fab with notices := s.fab.notices.map fun y => if y = e then (p, s.clk) else y } } p := by
  subst hp
  simp [resendNotice, usClk, due, reach]

theorem resendNotice_of_kept {e : Packet × Nat} (kept : s.clk < e.2 + 24000 ∨ canSend s e.1.dst = false) : resendNotice s e = s := by
  rcases kept with early | cut
  · simp [resendNotice, usClk, Nat.not_le.mpr early]
  · simp [resendNotice, cut]

/-! ## Catch slots and the transfers to them (R365, R376) -/

section
variable {core i : Nat} {z : LzSlot} (hz : z = lzAt s core i)
include hz

theorem tearLz_of_reserved (reserved : z.st = .reserved ∨ z.st = .filling) :
    tearLz s core i = settleLz (sendNotice (setLz s core i { z with st := .torn }) 10 z.rdev (afCatch z.rid core i 0)) core i := by
  subst hz
  exact if_pos reserved

theorem tearLz_of_unreserved (unreserved : z.st ≠ .reserved ∧ z.st ≠ .filling) : tearLz s core i = s := by
  subst hz
  exact if_neg (not_or.mpr unreserved)

theorem catchSlotTimeout_of_due (due : z.last + 1200000 ≤ s.clk) : exec (.catchSlotTimeout core i) s = .next (tearLz s core i) := by
  subst hz
  simp [execCatchSlotTimeout, usClk, due]

theorem catchSlotTimeout_of_early (early : s.clk < z.last + 1200000) : exec (.catchSlotTimeout core i) s = .next s := by
  subst hz
  simp [execCatchSlotTimeout, usClk, Nat.not_le.mpr early]

theorem catchSlotTimeout_of_idle (idle : s.clk < z.last + 1200000 ∨ (z.st ≠ .reserved ∧ z.st ≠ .filling)) :
    exec (.catchSlotTimeout core i) s = .next s := by
  rcases Nat.lt_or_ge s.clk (z.last + 1200000) with early | due
  · exact catchSlotTimeout_of_early hz early
  · rw [catchSlotTimeout_of_due hz due, tearLz_of_unreserved hz (idle.resolve_left (Nat.not_lt.mpr due))]

end

/-- Every packet of the transfer may have been accepted here: none was refused, all were sent, and its slot is on this device (log 55). -/
theorem mayBeFull_eq_false_iff {c : Cmd} : mayBeFull s c = false ↔ c.phase = 4 ∨ c.landed.length ≠ moveParts c ∨ rwDev c.b ≠ s.fab.devId := by
  simp only [mayBeFull, Bool.and_eq_false_iff, decide_eq_false_iff_not, ne_eq, not_not]
  rw [phRefused]
  tauto

theorem abortDue_iff {c : Cmd} : abortDue s c = true ↔ c.phase = 5 ∨ c.since + 2400000 ≤ s.clk := by
  simp only [abortDue, Bool.or_eq_true, decide_eq_true_eq]
  rfl

section
variable {k : Nat} {c : Cmd} (cmd : tget s.cmds k = some c)
include cmd

theorem catchAbortTimeout_of_due (transfer : isCatch c = true) (aborts : aborting c = true) (due : abortDue s c = true) (short : mayBeFull s c = false) :
    exec (.catchAbortTimeout k) s = .next (failCmd s k c) := by
  simp [execCatchAbortTimeout, cmd, transfer, aborts, due, short]

theorem catchAbortTimeout_of_waiting (waiting : abortDue s c = false ∨ mayBeFull s c = true) : exec (.catchAbortTimeout k) s = .next s := by
  rcases waiting with h | h <;> simp [execCatchAbortTimeout, cmd, h]

/-! ## Reductions (R378) -/

section
variable (reduces : c.op = 0x6B ∨ c.op = 0x77) {left : List Nat} (hleft : left = c.landed.filter (fun u => !c.acked.contains u)) (some_left : left ≠ [])
include reduces hleft some_left

theorem reduceResendTimeout_of_due (due : c.since + 60000 ≤ s.clk) : exec (.reduceResendTimeout k) s
    = .next (if 8 ≤ c.tries then failCmd s k c else resendParts (modCmd s k fun d => { d with tries := d.tries + 1, since := s.clk }) k c left) := by
  subst hleft
  have op : (decide (c.op = opFred) || decide (c.op = opXred)) = true := by
    simp only [Bool.or_eq_true, decide_eq_true_eq]
    exact reduces
  have unanswered : (c.landed.filter fun u => !c.acked.contains u).isEmpty = false := by simpa [List.isEmpty_eq_false_iff] using some_left
  simp only [exec_reduceResendTimeout, execReduceResendTimeout, cmd, op, unanswered, usClk, Nat.not_lt.mpr due, decide_false, Bool.not_true, Bool.or_self,
    Bool.false_eq_true, if_false]

end

theorem reduceResendTimeout_of_early (early : s.clk < c.since + 60000) : exec (.reduceResendTimeout k) s = .next s := by
  simp [execReduceResendTimeout, cmd, usClk, early]

end

/-! ## Hand-offs (R353, R379, R380) -/

section
variable {k : Nat} {x : KvXfer} (xfer : tget s.fab.xfers k = some x)
include xfer

theorem kvImportTimeout_of_due (imports : x.import_ = true) (bare : x.manifest = none) (due : x.since + 12000000000 ≤ s.clk) :
    exec (.kvImportTimeout k) s = .next (endXfer s k 10 0) := by
  simp [execKvImportTimeout, xfer, imports, bare, usClk, due, stNotfound]

theorem kvImportTimeout_of_early (early : s.clk < x.since + 12000000000) : exec (.kvImportTimeout k) s = .next s := by
  simp [execKvImportTimeout, xfer, usClk, Nat.not_le.mpr early]

theorem kvExportTimeout_of_due (exports : x.import_ = false) (started : exportStarted s k x = true) (due : x.since + 12000000000 ≤ s.clk) :
    exec (.kvExportTimeout k) s = .next (failExport s k) := by
  simp [execKvExportTimeout, xfer, exports, started, usClk, due]

theorem ueTransportFailure_of_export (exports : x.import_ = false) (scaleOut : x.zoubry = false) :
    exec (.ueTransportFailure k) s = .next (failExport s k) := by
  simp [execUeTransportFailure, xfer, exports, scaleOut]

end

/-! ## Ultra Ethernet messages (R379, R407) -/

theorem freshCtr_iff {seen : List Nat} {n : Nat} : freshCtr seen n = true ↔ n ∉ seen ∧ ∀ x ∈ seen, x < n + 65536 := by
  simp [freshCtr]

/-- The window of the counters that a peer's messages of a role have borne. -/
def seenOf (k : UeKey) (role : Bool) : List Nat := if role = true then k.seenE else k.seenI

/-- A counter noted for a role. -/
def noteUe (k : UeKey) (role : Bool) (n : Nat) : UeKey :=
  if role = true then { k with seenE := noteCtr k.seenE n } else { k with seenI := noteCtr k.seenI n }

section
variable {m : UeMsg} {k : UeKey} (peer : tget s.fab.ue m.peer = some k) (alive : s.sec.zeroised = false) (keyed : k.key ≠ [])
include peer alive keyed

theorem ueMessage_of_bad_tag (tag : m.mac ≠ ueSeal k.key m.role m.counter m.tag m.body) : exec (.ueMessage m) s = .next (tagFail s) := by
  simp [execUeMessage, peer, alive, keyed, tag]

variable (tag : m.mac = ueSeal k.key m.role m.counter m.tag m.body)
include tag

theorem ueMessage_of_seen (seen : m.counter ∈ seenOf k m.role) : exec (.ueMessage m) s = .next s := by
  have stale : freshCtr (seenOf k m.role) m.counter = false := Bool.eq_false_iff.mpr fun h => (freshCtr_iff.mp h).1 seen
  unfold seenOf at stale
  simp [execUeMessage, peer, alive, keyed, ← tag, stale]

theorem ueMessage_of_fresh (fresh : freshCtr (seenOf k m.role) m.counter = true) (fits : roleFits m.role m.body = true) :
    exec (.ueMessage m) s = .next (deliver { s with fab := { s.fab with ue := tset s.fab.ue m.peer (noteUe k m.role m.counter) } }
      { zoubry := false, peer := m.peer, tag := m.tag, body := m.body }) := by
  unfold seenOf at fresh
  cases role : m.role <;> simp_all [execUeMessage, noteUe]

end

/-! ## Links (R373, R376) -/

section
variable {port : Nat}

/-- The device with a port that has gone down. -/
def portDown (s : State) (port : Nat) : State := { s with fab := { s.fab with portsUp := s.fab.portsUp &&& ~~~(BitVec.ofNat 16 (2 ^ port)) } }

/-- A packet leaves the buffers with a NACK to its source. -/
def loseToLink (s : State) (p : Packet) : State :=
  sendNack { takePacket s p with fab := { (takePacket s p).fab with dropped := s.fab.dropped + 1 } } p 1

/-- The packets for other devices that wait in the buffers for a port. -/
def waitingFor (s : State) (port : Nat) : List Packet :=
  s.fab.wire.filter fun p => decide (p.dst ≠ s.fab.devId) && decide (routePort s p.bank p.dst = some port)

/-- The slots reserved over a port tear, on every core. -/
def tearOver (s : State) (port : Nat) : State :=
  s.cores.foldl (fun u e => e.2.lz.foldl (fun v z => if z.2.port = port then tearLz v e.1 z.1 else v) u) s

theorem linkDown_of_down (down : s.fab.portsUp.getLsbD port = false) : exec (.linkDown port) s = .next s := by
  simp [execLinkDown, portUp, down]

theorem linkDown_of_up (up : s.fab.portsUp.getLsbD port = true) :
    exec (.linkDown port) s = .next (tearOver ((waitingFor (portDown s port) port).foldl loseToLink (portDown s port)) port) := by
  have up' : (!portUp s port) = false := by simpa [portUp] using up
  rw [exec_linkDown, execLinkDown, up']
  rfl

end

/-- Settles O49: each timer by the equation of its case, the thresholds in clocks. -/
theorem fabricTimers : Obligations.FabricTimers := by
  refine ⟨?requests, ?notices, ?slots, ?transfers, ?reductions, ?handoffs, ?messages, ?links⟩
  case requests =>
    intro s dst seq x sent
    refine ⟨fun due left => ?_, fun due last => ?_, ?_⟩
    · rw [retransmitTimeout_of_due sent due, again_of_left left]
    · rw [retransmitTimeout_of_due sent due, again_of_last last]
    · intro kept
      rcases Nat.lt_or_ge s.clk (x.at_ + 24000) with early | due
      · exact retransmitTimeout_of_early sent early
      · rw [retransmitTimeout_of_due sent due, again_of_spent (kept.resolve_left (Nat.not_lt.mpr due))]
  case notices =>
    intro s dst seq e none_sent noticed
    rw [retransmitTimeout_of_notice none_sent noticed]
    exact ⟨fun due reach p hp => by rw [resendNotice_of_due due reach hp], fun kept => by rw [resendNotice_of_kept kept]⟩
  case slots =>
    intro s core i z hz
    exact ⟨fun due reserved => by rw [catchSlotTimeout_of_due hz due, tearLz_of_reserved hz reserved], catchSlotTimeout_of_idle hz⟩
  case transfers =>
    intro s k c cmd transfer aborts
    refine ⟨fun due short => catchAbortTimeout_of_due cmd transfer aborts (abortDue_iff.mpr due) (mayBeFull_eq_false_iff.mpr short), fun waiting => ?_⟩
    refine catchAbortTimeout_of_waiting cmd (waiting.imp ?_ ?_)
    · rintro ⟨whole, early⟩
      exact Bool.eq_false_iff.mpr fun due => (abortDue_iff.mp due).elim whole (Nat.not_le.mpr early)
    · rintro ⟨unrefused, sent, here⟩
      exact Bool.of_not_eq_false fun short => (mayBeFull_eq_false_iff.mp short).elim unrefused (Or.elim · (· sent) (· here))
  case reductions =>
    intro s k c cmd reduces left hleft some_left
    refine ⟨fun due few => ?_, fun due many => ?_, reduceResendTimeout_of_early cmd⟩
    · rw [reduceResendTimeout_of_due cmd reduces hleft some_left due, if_neg (Nat.not_le.mpr few)]
    · rw [reduceResendTimeout_of_due cmd reduces hleft some_left due, if_pos many]
  case handoffs =>
    intro s k x xfer
    exact ⟨kvImportTimeout_of_due xfer, fun _ _ => kvImportTimeout_of_early xfer, kvExportTimeout_of_due xfer, ueTransportFailure_of_export xfer⟩
  case messages =>
    rintro s m k peer alive keyed _ _ rfl rfl
    refine ⟨ueMessage_of_bad_tag peer alive keyed, ueMessage_of_seen peer alive keyed, ?_⟩
    rintro tag unseen inWindow fits _ _ rfl rfl
    exact ueMessage_of_fresh peer alive keyed tag (freshCtr_iff.mpr ⟨unseen, inWindow⟩) fits
  case links =>
    intro s port _
    refine ⟨linkDown_of_down, ?_⟩
    rintro up _ rfl _ rfl _ rfl
    exact linkDown_of_up up

end Sys2Proof.Machine
end

section
/-! PROOFS. The events of PREEMPT and RESUME, and copies of host memory (R381 to R383, R398, R401; logs 24 and 30). -/

namespace Sys2Proof.Machine

variable {s : State}

/-! ## The drain and the image (R398) -/

section
variable {n since : Nat} {x : Tenant} {o : Owed} (tenant : tget s.tenants n = some x) (draining : x.park = .draining since o)
include tenant draining

theorem preemptFabricTimeout_of_early (early : s.clk < since + 48000) : exec (.preemptFabricTimeout n) s = .next s := by
  simp [execPreemptFabricTimeout, tenant, draining, drainDue, usClk, Nat.not_le.mpr early]

theorem preemptFabricTimeout_of_due (due : since + 48000 ≤ s.clk) {t : State}
    (ht : t = giveUp s n (fun c => decide (c.op = 0x69) || decide (c.op = 0x6A))) : exec (.preemptFabricTimeout n) s
      = .next ((t.cmds.filter fun e => decide (e.2.tenant = n) && decide (e.2.op = 0x6A)).foldl (fun u e => failCmd u e.1 e.2) t) := by
  have late : drainDue s since = true := decide_eq_true due
  subst ht
  simp only [exec_preemptFabricTimeout, execPreemptFabricTimeout, tenant, draining, late]
  rfl

theorem contextImageCommit_of_drained (done : drained s n since = true) : exec (.contextImageCommit n) s = .next (commitImage s n o) := by
  simp [execContextImageCommit, tenant, draining, done]

theorem contextImageCommit_of_not_drained (busy : drained s n since = false) : exec (.contextImageCommit n) s = .next s := by
  simp [execContextImageCommit, tenant, draining, busy]

end

/-! ## The sections come back (R401) -/

section
variable {n : Nat} {x : Tenant} {o : Owed} {ws : List Nat} {rest : List (List Nat)} {places : List Place} (tenant : tget s.tenants n = some x)
  (resuming : x.park = .resuming o) (image : x.image = ws :: rest)
include tenant resuming image

theorem sectionRestore_of_no_room (full : restoreAll s places ws = none) : exec (.sectionRestore n 0 places) s = .next s := by
  simp [execSectionRestore, tenant, resuming, image, full]

theorem sectionRestore_of_room {r : State × List Place} (restored : restoreAll s places ws = some r) {t : State}
    (ht : t = modTenant r.1 n (fun y => { y with image := rest })) :
    exec (.sectionRestore n 0 places) s = .next (if rest = [] then finishResume t n o else t) := by
  subst ht
  simp [execSectionRestore, tenant, resuming, image, restored]

end

/-! ## The events of a copy (R381, R383) -/

section
variable {k : Nat} {x : Xfer} (xfer : tget s.xfers k = some x)
include xfer

theorem pcieReadCompletion_of_read {off n : Nat} (read : tget x.reads off = some n) (inTime : s.clk ≤ x.since + 60000000) {bs : List Byte} {y : Xfer}
    (hbs : bs = hostRead s (x.host + off) n) (hy : y = { x with reads := tdel x.reads off, data := putBytes x.data off bs }) :
    exec (.pcieReadCompletion k off) s = .next (xferStep (setXfer s k (arrived s y off bs)) k) := by
  subst hbs hy
  simp [execPcieReadCompletion, xfer, read, usClk, Nat.not_lt.mpr inTime]

theorem pcieReadCompletion_of_none {off : Nat} (dropped : tget x.reads off = none ∨ x.since + 60000000 < s.clk) :
    exec (.pcieReadCompletion k off) s = .next s := by
  cases read : tget x.reads off with
  | none => simp [execPcieReadCompletion, xfer, read]
  | some n =>
    have late := dropped.resolve_left (by simp [read])
    simp [execPcieReadCompletion, xfer, read, usClk, late]

theorem routeAck_of_owing {q : Nat} (owes : q ∈ x.owing) : exec (.routeAck k q) s = .next (xferStep (setXfer
    ((x.pieces.filter fun e => decide (xferQuad s x e.1 = some q)).foldl (fun u e => xferWrite u x e.1 e.2) s) k
    { x with pieces := x.pieces.filter fun e => !decide (xferQuad s x e.1 = some q), owing := nsDel q x.owing }) k) := by
  simp only [exec_routeAck, execRouteAck, xfer, List.contains_iff_mem.mpr owes, Bool.not_true, Bool.false_eq_true, if_false]

theorem routeAck_of_not_owing {q : Nat} (owesNot : q ∉ x.owing) : exec (.routeAck k q) s = .next s := by
  simp [execRouteAck, xfer, owesNot]

theorem pcieReadTimeout_of_reads (reads : x.reads ≠ []) : exec (.pcieReadTimeout k) s = .next (dropXfer s k x 17 0) := by
  simp [execPcieReadTimeout, xfer, reads, stAborted]

theorem pcieReadTimeout_of_no_reads (reads : x.reads = []) : exec (.pcieReadTimeout k) s = .next s := by
  simp [execPcieReadTimeout, xfer, reads]

/-! ## The stages of a copy (R381, R382) -/

theorem xferStep_of_outstanding (outstanding : x.reads ≠ [] ∨ x.owing ≠ []) : xferStep s k = s := by
  rcases outstanding with h | h <;> simp [xferStep, xferSteps, xfer, h]

theorem xferStep_of_done (reads : x.reads = []) (owing : x.owing = []) : xferStep s k = xferSteps (xferGo s k x) k 3 := by
  simp [xferStep, xferSteps, xfer, reads, owing]

end

section
variable {k : Nat} {x : Xfer}

/-- What of a read's bytes goes to the routes at once: of an image, those of its body from byte 8 on (R382); of any other copy, all. -/
theorem arrived_eq (off : Nat) (bs : List Byte) : arrived s x off bs =
    if x.job = .image then (if x.stage = .body then handPieces s x (max off 8) (bs.drop (8 - off)) else x) else handPieces s x off bs := by
  unfold arrived
  cases hjob : x.job <;> cases hstage : x.stage <;> simp

theorem xferGo_of_read_prompt {i : Nat} {last : Bool} {r : Request} (job : x.job = .prompt i last true) (req : tget s.reqs i = some r) :
    xferGo s k x = promptDone s k i x r := by
  simp [xferGo, job, promptStep, req]

theorem xferGo_of_context (job : x.job = .context) {r : Nat × State × DWord} (hr : r = takeCtx s x.cmd.pick x.data) :
    xferGo s k x = dropXfer r.2.1 k x r.1 r.2.2 := by
  subst hr
  simp [xferGo, job]

theorem xferGo_of_patch (job : x.job = .patch) {r : Nat × State × DWord} (hr : r = applyPatch s x.data) :
    xferGo s k x = dropXfer r.2.1 k x r.1 r.2.2 := by
  subst hr
  simp [xferGo, job]

section
variable (job : x.job = .image)
include job

theorem xferGo_of_bad_header (stage : x.stage = .header) (bad : imageOk (x.data.take 64) x.data.length = false) : xferGo s k x = dropXfer s k x 12 0 := by
  simp [xferGo, job, imageStep, stage, bad, stBadimage]

theorem xferGo_of_unmapped (stage : x.stage = .header) (good : imageOk (x.data.take 64) x.data.length = true)
    (unmapped : mappedW s (cmdSpace s x.cmd) x.dst x.data.length = false) : xferGo s k x = dropXfer s k x 11 0 := by
  simp [xferGo, job, imageStep, stage, good, unmapped, stBadaddr]

theorem xferGo_of_header (stage : x.stage = .header) (good : imageOk (x.data.take 64) x.data.length = true)
    (mapped : mappedW s (cmdSpace s x.cmd) x.dst x.data.length = true) :
    xferGo s k x = setXfer s k { handPieces s x 0 (zeros 8) with stage := .zero } := by
  simp [xferGo, job, imageStep, stage, good, mapped]

theorem xferGo_of_zero (stage : x.stage = .zero) : xferGo s k x = setXfer s k { askReads s x x.data.length with stage := .body } := by
  simp [xferGo, job, imageStep, stage]

theorem xferGo_of_body (stage : x.stage = .body) : xferGo s k x = setXfer s k { handPieces s x 0 (x.data.take 8) with stage := .final } := by
  simp [xferGo, job, imageStep, stage]

theorem xferGo_of_final (stage : x.stage = .final) : xferGo s k x = loadDone s k x := by
  simp [xferGo, job, imageStep, stage]

end

end

/-- Settles O51: each event by the equation of its case, and a copy that goes on by its job and stage. -/
theorem tenantEvents : Obligations.TenantEvents := by
  refine ⟨?drain, ?resume, ?copy⟩
  case drain =>
    intro s n x since o tenant draining
    exact ⟨preemptFabricTimeout_of_early tenant draining, fun due t ht => preemptFabricTimeout_of_due tenant draining due ht,
      contextImageCommit_of_drained tenant draining, contextImageCommit_of_not_drained tenant draining⟩
  case resume =>
    intro s n x o ws rest places tenant resuming image
    exact ⟨sectionRestore_of_no_room tenant resuming image, fun r t restored ht => sectionRestore_of_room tenant resuming image restored ht⟩
  case copy =>
    intro s k x xfer
    refine ⟨fun off n read inTime bs y hbs hy => pcieReadCompletion_of_read xfer read inTime hbs hy, fun off => pcieReadCompletion_of_none xfer,
      fun q => routeAck_of_owing xfer, fun q => routeAck_of_not_owing xfer, pcieReadTimeout_of_reads xfer, pcieReadTimeout_of_no_reads xfer,
      xferStep_of_outstanding xfer, xferStep_of_done xfer, arrived_eq, fun job => ?image, fun i last r => xferGo_of_read_prompt, fun job r => xferGo_of_context job,
      fun job r => xferGo_of_patch job⟩
    case image =>
      exact ⟨xferGo_of_bad_header job, xferGo_of_unmapped job, xferGo_of_header job, xferGo_of_zero job, xferGo_of_body job, xferGo_of_final job⟩

end Sys2Proof.Machine
end

section
/-! PROOFS. The memories after reset, and words that the spec writes out (R73 to R79, R83, R94, R107, R113, R126, R168, R195, R207, R212). -/

namespace Sys2Proof.Machine

/-- Settles O56: after reset both memories list no byte. -/
theorem resetMemoryForm : Obligations.ResetMemoryForm := ⟨rfl, rfl⟩

/-- Settles O52: the decoder evaluated on each word. -/
theorem wordsDecode : Obligations.WordsDecode := by
  unfold Obligations.WordsDecode
  decide

end Sys2Proof.Machine
end

section
/-! PROOFS. Decoding the word of an encoded instruction gives it back (R71 to R79, R83, R94). -/

namespace Sys2Proof.Laws

/-- Every instruction's word decodes to it: one case for each constructor. -/
theorem codec_statement (i : Instr) : Codec.Statement i := by
  cases i
  exacts [
    Codec.nop, Codec.mood _ _ _, Codec.maskSet _, Codec.maskAnd _, Codec.maskOr _, Codec.maskG _, Codec.maskRd _, Codec.maskAlive, Codec.br _,
    Codec.brAny _ _, Codec.brAll _ _, Codec.brNone _ _, Codec.brDiv _ _, Codec.join, Codec.call _, Codec.ret _, Codec.endThreads, Codec.barWg,
    Codec.barGang, Codec.barArrive _, Codec.barWait _, Codec.barNamed _ _, Codec.cede, Codec.trapUser _, Codec.sysCsrr _ _, Codec.sysCsrw _ _,
    Codec.sysLocq _ _, Codec.sysSnap, Codec.sysClk _, Codec.sysFlagerr _, Codec.iadd _ _ _ _ _ _ _, Codec.isub _ _ _ _ _ _ _,
    Codec.imul _ _ _ _ _ _ _, Codec.imulh _ _ _ _ _ _ _, Codec.imad _ _ _ _ _ _ _, Codec.idivQs _ _ _ _ _ _ _, Codec.idivQn _ _ _ _ _ _ _,
    Codec.idivRs _ _ _ _ _ _ _, Codec.idivRn _ _ _ _ _ _ _, Codec.imin _ _ _ _ _ _ _, Codec.imax _ _ _ _ _ _ _, Codec.iabs _ _ _ _,
    Codec.ineg _ _ _ _, Codec.bitAnd _ _ _ _ _ _ _, Codec.bitOr _ _ _ _ _ _ _, Codec.bitXor _ _ _ _ _ _ _, Codec.bitAndn _ _ _ _ _ _ _,
    Codec.shl _ _ _ _ _ _ _, Codec.shrL _ _ _ _ _ _ _, Codec.shrA _ _ _ _ _ _ _, Codec.rotL _ _ _ _ _ _ _, Codec.rotR _ _ _ _ _ _ _,
    Codec.bitcPopc _ _ _ _, Codec.bitcClz _ _ _ _, Codec.bitcCtz _ _ _ _, Codec.bitcBrev _ _ _ _, Codec.bfeN _ _ _ _ _ _, Codec.bfeS _ _ _ _ _ _,
    Codec.bfi _ _ _ _ _ _, Codec.icmpEq _ _ _ _ _ _ _, Codec.icmpNe _ _ _ _ _ _ _, Codec.icmpLt _ _ _ _ _ _ _, Codec.icmpLe _ _ _ _ _ _ _,
    Codec.icmpGt _ _ _ _ _ _ _, Codec.icmpGe _ _ _ _ _ _ _, Codec.sel _ _ _ _ _ _ _ _, Codec.mov _ _ _ _, Codec.movSpecial _ _ _, Codec.movG _ _,
    Codec.plogAnd _ _ _, Codec.plogOr _ _ _, Codec.plogXor _ _ _, Codec.plogAndn _ _ _, Codec.plogNot _ _, Codec.plogFromg _ _, Codec.plogTog _ _,
    Codec.ldi _ _ _, Codec.khi _ _ _, Codec.lea _ _ _ _ _ _ _, Codec.shflIdx _ _ _ _ _ _, Codec.shflUp _ _ _ _ _ _, Codec.shflDown _ _ _ _ _ _,
    Codec.shflXor _ _ _ _ _ _, Codec.voteAny _ _, Codec.voteAll _ _, Codec.voteBal _ _, Codec.voteEq _ _ _, Codec.lredIadd _ _ _,
    Codec.lredFadd _ _ _, Codec.lredMin _ _ _, Codec.lredMax _ _ _, Codec.lredAmax _ _ _, Codec.lredAnd _ _ _, Codec.lredOr _ _ _,
    Codec.lredXor _ _ _, Codec.lscanIadd _ _ _, Codec.lscanFadd _ _ _, Codec.lscanMin _ _ _, Codec.lscanMax _ _ _, Codec.lscanAnd _ _ _,
    Codec.lscanOr _ _ _, Codec.lscanXor _ _ _, Codec.bcast _ _ _ _, Codec.bcastG _ _ _ _, Codec.bcastFirst _ _ _, Codec.bcastFirstg _ _ _,
    Codec.fadd _ _ _ _ _ _, Codec.fsub _ _ _ _ _ _, Codec.fmul _ _ _ _ _ _, Codec.ffma _ _ _ _ _ _, Codec.ffmaMs _ _ _ _ _ _,
    Codec.ffmaNm _ _ _ _ _ _, Codec.ffmaNms _ _ _ _ _ _, Codec.fmin _ _ _ _ _ _, Codec.fmax _ _ _ _ _ _, Codec.fcmpEq _ _ _ _ _ _,
    Codec.fcmpNe _ _ _ _ _ _, Codec.fcmpLt _ _ _ _ _ _, Codec.fcmpLe _ _ _ _ _ _, Codec.fcmpGt _ _ _ _ _ _, Codec.fcmpGe _ _ _ _ _ _,
    Codec.fcmpUn _ _ _ _ _ _, Codec.fcmpOr _ _ _ _ _ _, Codec.fabs _ _ _ _, Codec.fneg _ _ _ _, Codec.frcp _ _ _ _, Codec.fsqrt _ _ _ _,
    Codec.frsq _ _ _ _, Codec.fexp _ _ _ _, Codec.fln _ _ _ _, Codec.fexp2 _ _ _ _, Codec.flog2 _ _ _ _, Codec.cvt _ _ _ _ _, Codec.frnd _ _ _ _,
    Codec.fscal _ _ _ _ _ _ _, Codec.hadq _ _ _ _, Codec.hadqInv _ _ _ _, Codec.qpack _ _ _, Codec.qunpk _ _ _, Codec.fmtw _ _ _,
    Codec.dot4 _ _ _ _ _ _, Codec.ld _ _ _ _ _ _ _ _, Codec.st _ _ _ _ _ _ _ _ _, Codec.lds _ _ _ _ _ _ _ _, Codec.sts _ _ _ _ _ _ _ _ _,
    Codec.ldp _ _ _ _ _ _ _, Codec.stp _ _ _ _ _ _ _ _, Codec.prsTest _ _ _ _ _, Codec.prsClr _ _ _ _, Codec.prsSet _ _ _ _, Codec.prsWait _ _ _ _ _,
    Codec.fence _ _ _ _, Codec.fenceSc _ _, Codec.atom _ _ _ _ _ _ _, Codec.atoms _ _ _ _ _ _, Codec.red _ _ _ _ _ _ _, Codec.xaccAdd _ _ _ _ _ _ _,
    Codec.xaccRd _ _ _ _ _ _, Codec.ticket _ _ _ _, Codec.ldw _ _ _ _ _ _ _ _, Codec.stw _ _ _ _ _ _ _ _ _, Codec.pfch _ _ _ _ _ _ _,
    Codec.copyG2s _ _ _ _ _ _ _, Codec.copyS2g _ _ _ _ _ _ _, Codec.copyG2o _ _ _ _ _ _ _, Codec.copyS2o _ _ _ _ _ _ _, Codec.copyG2g _ _ _ _ _ _ _,
    Codec.copyXa _ _ _ _ _ _ _, Codec.copyS2s _ _ _ _ _ _ _, Codec.copyfG2o _ _ _ _ _ _ _, Codec.copyfS2o _ _ _ _ _ _ _, Codec.mma _ _ _ _,
    Codec.accldG _ _ _ _ _ _ _, Codec.accldS _ _ _ _ _ _ _, Codec.accstG _ _ _ _ _ _ _, Codec.accstS _ _ _ _ _ _ _, Codec.slotClaim _ _ _ _ _,
    Codec.slotRel _ _ _ _ _, Codec.slotHeld _ _ _ _ _, Codec.chainSet _ _ _ _ _ _ _, Codec.chainAdv _ _ _ _ _ _, Codec.seqw _ _ _ _ _ _,
    Codec.kvgatK _ _ _ _ _ _ _, Codec.kvgatV _ _ _ _ _ _ _, Codec.kvapp _ _ _ _ _ _ _, Codec.kvpinPin _ _ _ _ _ _, Codec.kvpinUnpin _ _ _ _ _ _,
    Codec.kvfrk _ _ _ _ _ _ _, Codec.hdlQuery _ _ _ _ _ _, Codec.hdlCommit _ _ _ _ _ _, Codec.hdlTrunc _ _ _ _ _ _, Codec.pfxh _ _ _ _ _ _ _,
    Codec.pfxl _ _ _ _ _ _ _, Codec.pfxi _ _ _ _ _ _ _, Codec.fputG _ _ _ _ _ _ _, Codec.fputS _ _ _ _ _ _ _, Codec.fputLz _ _ _ _ _ _ _,
    Codec.fputLzg _ _ _ _ _ _ _, Codec.fgetG _ _ _ _ _ _ _, Codec.fgetS _ _ _ _ _ _ _, Codec.fatom _ _ _ _ _ _ _ _, Codec.fred _ _ _ _ _ _ _,
    Codec.lzres _ _ _ _ _ _, Codec.lzarm _ _ _ _ _ _ _, Codec.lzrel _ _ _ _ _, Codec.lzqRd _ _ _ _ _ _, Codec.lzqWait _ _ _ _ _,
    Codec.rngW0 _ _ _ _ _, Codec.rngW1 _ _ _ _ _, Codec.rngW2 _ _ _ _ _, Codec.rngW3 _ _ _ _ _, Codec.rngUni _ _ _ _ _, Codec.rngGum _ _ _ _ _,
    Codec.smplMax _ _ _ _ _ _ _, Codec.smplSmp _ _ _ _ _ _ _, Codec.smplRes _ _ _ _ _ _ _, Codec.smrg _ _ _ _ _ _ _, Codec.acpt _ _ _ _ _ _ _,
    Codec.stop _ _ _ _ _ _ _, Codec.emit _ _ _ _ _ _ _, Codec.rqstCommit _ _ _ _ _, Codec.rqstQuery _ _ _ _ _ _, Codec.rqstFail _ _ _ _ _,
    Codec.xredExp _ _ _ _ _ _ _, Codec.xredSum _ _ _ _ _ _ _, Codec.rep _ _ _ _, Codec.clause _ _ _ _, Codec.sqtdbWrite _ _ _,
    Codec.cqhdbWrite _ _ _, Codec.queueEnable _ _ _, Codec.queueDisable _ _ _, Codec.qctlErrClear _ _ _, Codec.registerWrite _ _ _ _,
    Codec.devIdent _, Codec.featNegotiate _, Codec.tenantOpen _, Codec.tenantClose _, Codec.memMap _, Codec.memMapUnmap _, Codec.imageLoad _,
    Codec.imageLoadRom _, Codec.poolCreate _, Codec.modelPlan _, Codec.modelPlanRom _, Codec.reqAdmit _, Codec.reqCancel _, Codec.reqFork _,
    Codec.reqQuery _, Codec.reqQueryRelease _, Codec.launch _, Codec.graphSubmit _, Codec.preempt _, Codec.ctxExport _, Codec.ctxImport _,
    Codec.resume _, Codec.fabricRoutesLoad _, Codec.fabricRoutesFlip _, Codec.fabricRoutesRetire _, Codec.fabricRoutesExport _, Codec.kvExport _,
    Codec.kvImport _, Codec.snapArm _, Codec.snapRead _, Codec.alarmStatus _, Codec.alarmStatusClear _, Codec.fwPatch _, Codec.attest _,
    Codec.keyLoad _, Codec.chipletReset _, Codec.telemetry _, Codec.pcieReadCompletion _ _, Codec.routeAck _ _, Codec.pcieReadTimeout _,
    Codec.consumerCountPoll _, Codec.powerWindowEnd _, Codec.coldReset _, Codec.chipletFault _, Codec.fenceDrainComplete _, Codec.fenceTimeout _,
    Codec.chipletResetDone _, Codec.selftestPass _, Codec.selftestFail _, Codec.alarmSensor _, Codec.tempcHoldExpiry, Codec.snapshotPin,
    Codec.shootdownAck _ _, Codec.recordRelaunch _ _ _, Codec.loadResultLand _ _, Codec.storeCommit _ _, Codec.atomicPerform _,
    Codec.lltlbLookupDone _ _, Codec.walkComplete _ _, Codec.checkAnswer _, Codec.raceRecordsArrive _, Codec.registerEccError _ _,
    Codec.memoryEccError _, Codec.huddleBinTimeout _, Codec.admissionStep _, Codec.launchComplete _, Codec.handlerStart _ _, Codec.firmwareDispose _,
    Codec.xlateHoldTimeout _ _, Codec.copyLineLand _ _, Codec.engineComplete _, Codec.mmaStart _, Codec.mmaComplete _, Codec.slotClaimGrant _,
    Codec.chainEntryTake _ _, Codec.chainEntryComplete _, Codec.gatherLineLand _ _, Codec.evictionStart _, Codec.evictionCopyDone _ _,
    Codec.fetchStart _ _, Codec.fetchDone _ _, Codec.iterationForm _, Codec.iterationGraphComplete _, Codec.iterationComplete _,
    Codec.deadlinePass _, Codec.admissionKernelComplete _, Codec.packetForward _ _, Codec.writePacket _ _, Codec.catchPacket _ _,
    Codec.readPacket _ _, Codec.readdataPacket _ _, Codec.atomicPacket _ _, Codec.atomreplyPacket _ _, Codec.ackPacket _ _, Codec.nackPacket _ _,
    Codec.resvPacket _ _, Codec.resvreplyPacket _ _, Codec.tornPacket _ _, Codec.abortPacket _ _, Codec.reducePacket _ _, Codec.redresultPacket _ _,
    Codec.kvxferPacket _ _, Codec.ueMessage _, Codec.ueTransportFailure _, Codec.linkDown _, Codec.retransmitTimeout _ _, Codec.catchSlotTimeout _ _,
    Codec.catchAbortTimeout _, Codec.reduceResendTimeout _, Codec.kvImportTimeout _, Codec.kvExportTimeout _, Codec.preemptFabricTimeout _,
    Codec.contextImageCommit _, Codec.sectionRestore _ _ _, Codec.slotTileUncorrectableError _, Codec.scratchpadStoreComplete _]

/-- The four bytes of a word, read back, are the word (R2). -/
theorem wordOfBytes_bytesOfWord (w : Word) :
    wordOfBytes (BitVec.ofNat 8 w.toNat) (BitVec.ofNat 8 (w.toNat / 2 ^ 8)) (BitVec.ofNat 8 (w.toNat / 2 ^ 16))
      (BitVec.ofNat 8 (w.toNat / 2 ^ 24)) = w := by
  apply BitVec.eq_of_toNat_eq
  simp only [wordOfBytes, BitVec.toNat_ofNat]
  have := w.isLt
  omega

/-- A case split on four bytes goes to its first arm on a list of at least four, whatever the arms are: said of arms that are variables, since the
kernel would evaluate the decoder on the open word that decodeBytes has in its own. -/
theorem eq_of_four_bytes {α : Type} {split : List Byte → (Byte → Byte → Byte → Byte → List Byte → α) → (List Byte → α) → α}
    (four : ∀ k e b0 b1 b2 b3 rest, split (b0 :: b1 :: b2 :: b3 :: rest) k e = k b0 b1 b2 b3 rest)
    {k : Byte → Byte → Byte → Byte → List Byte → α} {e : List Byte → α} {b0 b1 b2 b3 : Byte} {rest : List Byte} {r : α}
    (h : k b0 b1 b2 b3 rest = r) : split (b0 :: b1 :: b2 :: b3 :: rest) k e = r :=
  (four k e b0 b1 b2 b3 rest).trans h

theorem decodeBytes_of_word {b0 b1 b2 b3 : Byte} {rest : List Byte} {i : Instr} (h : decodeWord (wordOfBytes b0 b1 b2 b3) = some i)
    {l : List Byte} (four : l = b0 :: b1 :: b2 :: b3 :: rest) : decodeBytes l = .ok (i, rest) := by
  unfold decodeBytes
  subst four
  refine eq_of_four_bytes (fun _ _ _ _ _ _ _ => rfl) ?_
  rw [h]

/-- A word's bytes decode to what the word does. -/
theorem decodeBytes_bytesOfWord {w : Word} {i : Instr} (h : decodeWord w = some i) : decodeBytes (bytesOfWord w) = .ok (i, []) :=
  decodeBytes_of_word ((congrArg decodeWord (wordOfBytes_bytesOfWord w)).trans h) rfl

/-- Settles O58, by the constructor of the instruction. -/
theorem decodeEncode : Obligations.DecodeEncode := by
  unfold Obligations.DecodeEncode
  intro i w h
  have word : decodeWord w = some i := codec_statement i w h
  exact ⟨word, decodeBytes_bytesOfWord word⟩

end Sys2Proof.Laws
end

section
/-! PROOFS. A word that decodes is the encoding of the instruction (R72, R80, R82). -/

namespace Sys2Proof.Laws

/-! ## Fields of a word -/

/-- The bits of a word below bit k, as a number. -/
def lowBits (w : Word) (k : Nat) : Int := (w.toNat % 2 ^ k : Nat)

theorem lowBits_zero (w : Word) : lowBits w 0 = 0 := by simp [lowBits, Nat.mod_one]

theorem lowBits_all (w : Word) : lowBits w 32 = w.toNat := by rw [lowBits, Nat.mod_eq_of_lt w.isLt]

/-- A field at its place is what the bits below its upper end have more than those below its lower end. -/
theorem fld_place (w : Word) (lo n : Nat) : (fld w lo n : Int) * 2 ^ lo = lowBits w (lo + n) - lowBits w lo := by
  have split := Nat.mod_mul (x := w.toNat) (a := 2 ^ lo) (b := 2 ^ n)
  rw [← Nat.pow_add] at split
  simp only [lowBits, fld, split]
  push_cast
  ring

theorem toNat_bits (w : Word) (lo n : Nat) : (bits w lo n).toNat = fld w lo n := BitVec.toNat_ofNat _ _

theorem toNat_bit (w : Word) (lo : Nat) : (bit w lo).toNat = fld w lo 1 := by
  have two : fld w lo 1 < 2 := Nat.mod_lt _ (by decide)
  rcases Nat.le_one_iff_eq_zero_or_eq_one.mp (Nat.le_of_lt_succ two) with h | h <;> simp [bit, h]

/-! ## A number packed from fields of a word -/

/-- A number packed from fields of a word, each at its own place, and a constant. -/
inductive Packs (w : Word) : Nat → List (Nat × Nat) → Nat → Prop
  | field {lo n r k : Nat} {fs : List (Nat × Nat)} : Packs w r fs k → Packs w (pk (bits w lo n).toNat lo r) ((lo, n) :: fs) k
  | flag {lo r k : Nat} {fs : List (Nat × Nat)} : Packs w r fs k → Packs w (pk (bit w lo).toNat lo r) ((lo, 1) :: fs) k
  | const (k : Nat) : Packs w k [] k

/-- Fields of a word that a condition on it fixes, with their values. -/
inductive Fixes (w : Word) : Prop → List (Nat × Nat × Nat) → Prop
  | field {lo n v : Nat} : Fixes w (fld w lo n = v) [(lo, n, v)]
  | both {p q : Prop} {l m : List (Nat × Nat × Nat)} : Fixes w p l → Fixes w q m → Fixes w (p ∧ q) (l ++ m)
  | always : Fixes w True []

/-- What a list of fields holds, each at its place. -/
def placed (w : Word) (fs : List (Nat × Nat)) : Nat := (fs.map fun f => fld w f.1 f.2 * 2 ^ f.1).sum

theorem placed_cons (w : Word) (f : Nat × Nat) (fs : List (Nat × Nat)) : placed w (f :: fs) = fld w f.1 f.2 * 2 ^ f.1 + placed w fs := by
  simp only [placed, List.map_cons, List.sum_cons]

theorem placed_append (w : Word) (fs gs : List (Nat × Nat)) : placed w (fs ++ gs) = placed w fs + placed w gs := by
  simp only [placed, List.map_append, List.sum_append]

theorem Packs.sum {w : Word} {r k : Nat} {fs : List (Nat × Nat)} (h : Packs w r fs k) : r = placed w fs + k := by
  induction h with
  | field _ ih => rw [pk, toNat_bits, ih, ← Nat.add_assoc]; rfl
  | flag _ ih => rw [pk, toNat_bit, ih, ← Nat.add_assoc]; rfl
  | const k => exact (Nat.zero_add k).symm

theorem Fixes.placed_eq {w : Word} {p : Prop} {l : List (Nat × Nat × Nat)} (h : Fixes w p l) (hp : p) :
    placed w (l.map fun c => (c.1, c.2.1)) = (l.map fun c => c.2.2 * 2 ^ c.1).sum := by
  induction h with
  | field => subst hp; rfl
  | both _ _ ihp ihq => rw [List.map_append, List.map_append, placed_append, List.sum_append, ihp hp.1, ihq hp.2]
  | always => rfl

/-- Fields of which one begins where another ends, from bit 0 to bit 31, make up the word. -/
theorem placed_eq_toNat {w : Word} {fs : List (Nat × Nat)} (meet : (0 :: fs.map fun f => f.1 + f.2).Perm (32 :: fs.map Prod.fst)) : placed w fs = w.toNat := by
  have places : ∀ gs : List (Nat × Nat), (placed w gs : Int) = ((gs.map fun f => f.1 + f.2).map (lowBits w)).sum - ((gs.map Prod.fst).map (lowBits w)).sum := by
    intro gs
    induction gs with
    | nil => rfl
    | cons f gs ih =>
      rw [placed_cons, Int.natCast_add, ih, Int.natCast_mul, Int.natCast_pow, Int.cast_ofNat_Int, fld_place]
      simp only [List.map_cons, List.sum_cons]
      ring
  have sums := (meet.map (lowBits w)).sum_eq
  simp only [List.map_cons, List.sum_cons, lowBits_zero, lowBits_all] at sums
  have word := places fs
  omega

/-- The fields that a row packs, with those that its opcode and its condition fix, make up the word, and the row's constant is the fixed ones. -/
def fitted (op : Nat) (fs : List (Nat × Nat)) (l : List (Nat × Nat × Nat)) (k : Nat) : Bool :=
  let all := (25, 7) :: l.map (fun c => (c.1, c.2.1)) ++ fs
  (0 :: all.map fun f => f.1 + f.2).isPerm (32 :: all.map Prod.fst) && decide (k = op * 2 ^ 25 + (l.map fun c => c.2.2 * 2 ^ c.1).sum)

theorem wrd_of_packs {w : Word} {op r k : Nat} {p : Prop} {fs : List (Nat × Nat)} {l : List (Nat × Nat × Nat)} (packs : Packs w r fs k) (fixes : Fixes w p l)
    (hop : fld w 25 7 = op) (fits : fitted op fs l k = true) (hp : p) : wrd r = w := by
  simp only [fitted, Bool.and_eq_true, decide_eq_true_eq, List.isPerm_iff] at fits
  obtain ⟨meet, const⟩ := fits
  have word := placed_eq_toNat (w := w) meet
  rw [List.cons_append, placed_cons, placed_append, fixes.placed_eq hp, hop] at word
  have number : r = w.toNat := by
    rw [packs.sum, const, ← word]
    dsimp only
    omega
  rw [number, wrd, BitVec.ofNat_toNat, BitVec.setWidth_eq]

/-! ## Every row fixes the bits outside its fields: one lemma for each table of 16 opcodes, as one proof of all rows is too long to check -/

/-- An instruction read from a word, if one is, is well formed, and the word is its encoding. -/
def Encodes (w : Word) (o : Option Instr) : Prop := ∀ i, o = some i → i.wf = true ∧ encodeWord i = some w

theorem encodes_none (w : Word) {c : Prop} (_ : c) : Encodes w none := fun _ h => nomatch h

theorem encodes_some {w : Word} {c : Prop} {i : Instr} {r : Nat} (wf : i.wf = true) (word : encodeWord i = some (wrd r)) (same : c → wrd r = w) (hc : c) :
    Encodes w (some i) :=
  fun _ h => Option.some.inj h ▸ ⟨wf, word.trans (congrArg some (same hc))⟩

/-- The rows of an opcode, one after another: each is under what it says of the word. -/
theorem encodes_rows {w : Word} {c : Prop} [Decidable c] {a b : Option Instr} (row : c → Encodes w a) (rest : True → Encodes w b) (_ : True) :
    Encodes w (if c then a else b) := by
  split
  · next hc => exact row hc
  · exact rest trivial

theorem decode0_encodes {w : Word} {op : Nat} (hop : fld w 25 7 = op) (low : 0 ≤ op) (high : op < 16) : True → Encodes w (decode0 w op) := by
  interval_cases op
  all_goals repeat' apply encodes_rows
  any_goals exact encodes_none w
  all_goals exact encodes_some rfl rfl (wrd_of_packs (by repeat' constructor) (by repeat' constructor) hop (by rfl))

theorem decode1_encodes {w : Word} {op : Nat} (hop : fld w 25 7 = op) (low : 16 ≤ op) (high : op < 32) : True → Encodes w (decode1 w op) := by
  interval_cases op
  all_goals repeat' apply encodes_rows
  any_goals exact encodes_none w
  all_goals exact encodes_some rfl rfl (wrd_of_packs (by repeat' constructor) (by repeat' constructor) hop (by rfl))

theorem decode2_encodes {w : Word} {op : Nat} (hop : fld w 25 7 = op) (low : 32 ≤ op) (high : op < 48) : True → Encodes w (decode2 w op) := by
  interval_cases op
  all_goals repeat' apply encodes_rows
  any_goals exact encodes_none w
  all_goals exact encodes_some rfl rfl (wrd_of_packs (by repeat' constructor) (by repeat' constructor) hop (by rfl))

theorem decode3_encodes {w : Word} {op : Nat} (hop : fld w 25 7 = op) (low : 48 ≤ op) (high : op < 64) : True → Encodes w (decode3 w op) := by
  interval_cases op
  all_goals repeat' apply encodes_rows
  any_goals exact encodes_none w
  all_goals exact encodes_some rfl rfl (wrd_of_packs (by repeat' constructor) (by repeat' constructor) hop (by rfl))

theorem decode4_encodes {w : Word} {op : Nat} (hop : fld w 25 7 = op) (low : 64 ≤ op) (high : op < 80) : True → Encodes w (decode4 w op) := by
  interval_cases op
  all_goals repeat' apply encodes_rows
  any_goals exact encodes_none w
  all_goals exact encodes_some rfl rfl (wrd_of_packs (by repeat' constructor) (by repeat' constructor) hop (by rfl))

theorem decode5_encodes {w : Word} {op : Nat} (hop : fld w 25 7 = op) (low : 80 ≤ op) (high : op < 96) : True → Encodes w (decode5 w op) := by
  interval_cases op
  all_goals repeat' apply encodes_rows
  any_goals exact encodes_none w
  all_goals exact encodes_some rfl rfl (wrd_of_packs (by repeat' constructor) (by repeat' constructor) hop (by rfl))

theorem decode6_encodes {w : Word} {op : Nat} (hop : fld w 25 7 = op) (low : 96 ≤ op) (high : op < 112) : True → Encodes w (decode6 w op) := by
  interval_cases op
  all_goals repeat' apply encodes_rows
  any_goals exact encodes_none w
  all_goals exact encodes_some rfl rfl (wrd_of_packs (by repeat' constructor) (by repeat' constructor) hop (by rfl))

theorem decode7_encodes {w : Word} {op : Nat} (hop : fld w 25 7 = op) (low : 112 ≤ op) (high : op < 128) : True → Encodes w (decode7 w op) := by
  interval_cases op
  all_goals repeat' apply encodes_rows
  any_goals exact encodes_none w
  all_goals exact encodes_some rfl rfl (wrd_of_packs (by repeat' constructor) (by repeat' constructor) hop (by rfl))

theorem decodeWord_encodes (w : Word) : Encodes w (decodeWord w) := by
  have small : fld w 25 7 < 128 := Nat.mod_lt _ (by decide)
  unfold decodeWord
  generalize hop : fld w 25 7 = op at small ⊢
  have high : op / 16 < 8 := by omega
  dsimp only
  generalize table : op / 16 = q at high ⊢
  interval_cases q
  · exact decode0_encodes hop (by omega) (by omega) trivial
  · exact decode1_encodes hop (by omega) (by omega) trivial
  · exact decode2_encodes hop (by omega) (by omega) trivial
  · exact decode3_encodes hop (by omega) (by omega) trivial
  · exact decode4_encodes hop (by omega) (by omega) trivial
  · exact decode5_encodes hop (by omega) (by omega) trivial
  · exact decode6_encodes hop (by omega) (by omega) trivial
  · exact decode7_encodes hop (by omega) (by omega) trivial

/-- Settles O59, by the row that decodes the word. -/
theorem encodeDecode : Obligations.EncodeDecode := fun i w h => decodeWord_encodes w i h

end Sys2Proof.Laws
end

section
/-! PROOFS. Integer, bit and move instructions on lanes and g registers (R122 to R130, R134). -/

namespace Sys2Proof.Claims
open Sys2Proof.Machine

/-! ## Which operation each instruction is -/

theorem alu_congr {f f' : IntFn} (same : ∀ m n x y z, f m n x y z = f' m n x y z) (u : Bool) (d a b : R6) (la lb im two rd : Bool) (s : State) :
    alu u d a b la lb im two rd f s = alu u d a b la lb im two rd f' s := by
  rw [show f = f' from funext fun m => funext fun n => funext fun x => funext fun y => funext fun z => same m n x y z]

/-- An operation that does not saturate keeps its exact result modulo 2^n (R122). -/
theorem intOp_wrap (f : Nat → Int → Int → Int → Int) (m : Word) (n : Nat) (x y z : BitVec n) :
    intOp false f m n x y z = BitVec.ofInt n (f n (ival m x) (ival m y) (ival m z)) := by
  simp only [intOp, saturate, Bool.and_false, Bool.false_eq_true, if_false]

theorem exec_of_mem_intThree : ∀ e ∈ intThree, ∀ u d a b la lb im s,
    exec (e.1 u d a b la lb im) s = alu u d a b la lb im true e.2.1 e.2.2 s := by
  simp only [intThree, List.forall_mem_cons, List.not_mem_nil, false_imp_iff, implies_true, and_true]
  refine ⟨?_, ?_, ?_, ?_, ?mulh, ?min, ?max, ?_, ?_, ?_, ?_, ?_, ?_, ?_, ?_, ?shl, ?shrL, ?shrA, ?_, ?_⟩
  case mulh => exact fun u d a b la lb im s => alu_congr (intOp_wrap _) u d a b la lb im true false s
  case min => exact fun u d a b la lb im s => alu_congr (intOp_wrap _) u d a b la lb im true false s
  case max => exact fun u d a b la lb im s => alu_congr (intOp_wrap _) u d a b la lb im true false s
  case shl => exact fun u d a b la lb im s => alu_congr (fun _ _ x y _ => shl_min x y.toNat) u d a b la lb im true false s
  case shrL => exact fun u d a b la lb im s => alu_congr (fun _ _ x y _ => shr_min x y.toNat) u d a b la lb im true false s
  case shrA => exact fun u d a b la lb im s => alu_congr (fun _ _ x y _ => sshr_min x y.toNat) u d a b la lb im true false s
  all_goals exact fun _ _ _ _ _ _ _ _ => rfl

theorem exec_of_mem_intField : ∀ e ∈ intField, ∀ u d a b la lb s,
    exec (e.1 u d a b la lb) s = alu u d a b la lb false true e.2.1 e.2.2 s := by
  simp only [intField, List.forall_mem_cons, List.not_mem_nil, false_imp_iff, implies_true, and_true]
  and_intros
  all_goals exact fun _ _ _ _ _ _ _ => rfl

theorem exec_of_mem_intOne : ∀ e ∈ intOne, ∀ u d a la s,
    exec (e.1 u d a la) s = alu u d a 0 la false false false false (fun m n x _ _ => e.2 m n x) s := by
  simp only [intOne, List.forall_mem_cons, List.not_mem_nil, false_imp_iff, implies_true, and_true]
  and_intros
  all_goals exact fun _ _ _ _ _ => rfl

/-! ## The results -/

/-- Settles O1: every instruction of the three lists is one operation under the common checks. -/
theorem integerVector : Obligations.IntegerVector := by
  unfold Obligations.IntegerVector
  refine ⟨fun e he s c g d a b la lb im hi ho => ?three, fun e he s c g d a b la lb hi ho => ?field, fun e he s c g d a la hi ho => ?one⟩
  case three =>
    rw [exec_of_mem_intThree e he]
    exact alu_vec hi ho fun _ _ _ _ _ => rfl
  case field =>
    rw [exec_of_mem_intField e he]
    exact alu_vec hi ho fun _ _ _ _ _ => rfl
  case one =>
    rw [exec_of_mem_intOne e he]
    exact alu_vec1 hi ho fun _ _ _ _ _ => rfl

/-- Settles O2: the same operations on g registers. -/
theorem integerUniform : Obligations.IntegerUniform := by
  unfold Obligations.IntegerUniform
  refine ⟨fun e he s c g d a b la lb im hi ho => ?three, fun e he s c g d a b la lb hi ho => ?field, fun e he s c g d a la hi ho => ?one⟩
  case three =>
    rw [exec_of_mem_intThree e he]
    exact alu_uni hi ho fun _ _ _ _ _ => rfl
  case field =>
    rw [exec_of_mem_intField e he]
    exact alu_uni hi ho fun _ _ _ _ _ => rfl
  case one =>
    rw [exec_of_mem_intOne e he]
    exact alu_uni1 hi ho fun _ _ _ _ _ => rfl

end Sys2Proof.Claims
end

section
/-! PROOFS. nop, the writes of EXEC and MOOD, and the reads of sys (R104 to R106, R116 to R121). -/

namespace Sys2Proof.Claims
open Sys2Proof.Machine

/-! ## Fields that play no part in where the next word stands -/

/-- Where a group stands after a word: its address, its place in the clause, and the repeat that is left. -/
def nextPlace (pc : DWord) (coff repi : Nat) (rep : Option Rep) (len : Nat) : DWord × Nat × Nat × Option Rep :=
  let past (k : Nat) : DWord × Nat × Nat × Option Rep := if k ≤ len then (pc, k, 0, none) else (pc + BitVec.ofNat 64 (4 * (len + 1)), 0, 0, none)
  match rep with
  | some r => if repi < r.cnt then (pc, coff, repi + 1, rep) else past (coff + 2)
  | none => past (coff + 1)

/-- What goes on to the next word is the group, but for its place and its progress count, which no other field plays a part in. -/
theorem bump_stepPast (g : Group) : bump (stepPast g) = { g with
    pc := (nextPlace g.pc g.coff g.repi g.rep g.len).1, coff := (nextPlace g.pc g.coff g.repi g.rep g.len).2.1
    repi := (nextPlace g.pc g.coff g.repi g.rep g.len).2.2.1, rep := (nextPlace g.pc g.coff g.repi g.rep g.len).2.2.2
    prog := if g.prog = BitVec.allOnes 32 then g.prog else g.prog + 1 } := by
  unfold stepPast nextPlace
  cases g.rep with
  | none =>
    dsimp only
    split <;> rfl
  | some r =>
    dsimp only
    split
    · rfl
    · split <;> rfl

theorem step_exec (g : Group) (m : BitVec 16) : bump (stepPast { g with exec := m }) = { bump (stepPast g) with exec := m } := by
  rw [bump_stepPast g]
  exact bump_stepPast _

theorem step_mood (g : Group) (m : Word) : bump (stepPast { g with mood := m }) = { bump (stepPast g) with mood := m } := by
  rw [bump_stepPast g]
  exact bump_stepPast _

theorem step_flags (g : Group) (f : Vector Flag 12) : bump (stepPast { g with flags := f }) = { bump (stepPast g) with flags := f } := by
  rw [bump_stepPast g]
  exact bump_stepPast _

theorem step_walkFault_none (g : Group) : bump (stepPast { g with walkFault := none }) = { bump (stepPast g) with walkFault := none } := by
  rw [bump_stepPast g]
  exact bump_stepPast _

theorem step_writeG (g : Group) (n : Nat) (x : DWord) : bump (stepPast (writeG g n x)) =
    { bump (stepPast g) with g := (writeG g n x).g, gpoison := (writeG g n x).gpoison } := by
  rw [writeG_frame g n x, bump_stepPast g]
  exact bump_stepPast _

theorem writeG_res (g : Group) (n : Nat) (x : DWord) : (writeG g n x).res = g.res := by
  rw [writeG_frame]

theorem setExec_alive (g : Group) : setExec g g.alive = { g with exec := g.alive } := by
  rw [setExec, BitVec.and_self]

theorem moodOk_of_legal {m : Word} (legal : LegalMood m) : moodOk m = true := by
  obtain ⟨low, reserved, type, src, round⟩ := legal
  have high : nfld m.toNat 20 12 = 0 := by simp only [nfld]; omega
  simp only [moodOk, Bool.and_eq_true, decide_eq_true_eq]
  exact ⟨⟨⟨⟨high, reserved⟩, type⟩, src⟩, round⟩

/-! ## An instruction that changes its group only -/

section
variable {s : State} {c : Nat} {g h : Group} (hi : Issues s c g)
include hi

theorem groupBecomes_of_done {use : Use} {k : Nat → Group → Out} (hk : k c g = checked s c g use (done s c h)) (running : h.res = .running)
    (ill : use.ill = false) (nd : use.nd = false) (ops : Operands g use.lanes use.rv use.wv use.rg use.wg) :
    GroupBecomes s c (onGroup s k) (bump (stepPast h)) :=
  (onGroup_checked hi hk ill nd ops).trans (done_run running s c)

/-! ## nop, mask and mood (R104 to R106, R118) -/

theorem nop_becomes : GroupBecomes s c (exec .nop s) (bump (stepPast g)) :=
  (onGroup_run hi.1 hi.2.1 hi.2.2 _).trans (done_run hi.2.2 s c)

theorem maskPred_becomes {a : R6} (ha : a.toNat < 8) (f : BitVec 16 → BitVec 16 → BitVec 16) :
    GroupBecomes s c (maskPred a f s) { bump (stepPast g) with exec := f g.exec (readP g a.toNat) &&& g.alive } := by
  rw [← step_exec]
  exact groupBecomes_of_done hi rfl hi.2.2 rfl (by simpa using ha) (by simp [Operands])

theorem maskG_becomes {a : R6} (ha : CanReadG g a.toNat) :
    GroupBecomes s c (exec (.maskG a) s) { bump (stepPast g) with exec := (readG g a.toNat).setWidth 16 &&& g.alive } := by
  rw [← step_exec]
  exact groupBecomes_of_done hi rfl hi.2.2 rfl (notG_of_lt ha.1) (by simp [Operands, ha])

theorem maskAlive_becomes : GroupBecomes s c (exec .maskAlive s) { bump (stepPast g) with exec := g.alive } := by
  rw [← step_exec]
  exact (onGroup_run hi.1 hi.2.1 hi.2.2 _).trans
    ((congrArg (done s c) (setExec_alive g)).trans (done_run (g := { g with exec := g.alive }) hi.2.2 s c))

theorem maskRd_result {d : R6} (hd : CanWriteG g d.toNat) : UniResult s c g (exec (.maskRd d) s) d.toNat [] (g.exec.setWidth 64) :=
  uniResult_of_commitG hi rfl rfl (notG_of_lt hd.1) (by simp [Operands, hd])

theorem mood_becomes {imm : BitVec 18} (legal : LegalMood (moodOfImm imm)) :
    GroupBecomes s c (exec (.mood false 0 imm) s) { bump (stepPast g) with mood := moodOfImm imm } := by
  rw [← step_mood]
  exact groupBecomes_of_done hi rfl hi.2.2 (by simp [moodOk_of_legal legal]) rfl (by simp [Operands])

/-- In the second form gD receives the old value (R105). -/
theorem mood_read_becomes {imm : BitVec 18} (legal : LegalMood (moodOfImm imm)) {d : R6} (hd : CanWriteG g d.toNat) :
    ∃ h, GroupBecomes s c (exec (.mood true d imm) s) h ∧
      h = { bump (stepPast g) with mood := moodOfImm imm, g := h.g, gpoison := h.gpoison } ∧
      ∀ k < 32, readG h k = if k = d.toNat ∧ d.toNat ≠ 0 then g.mood.setWidth 64 else readG g k := by
  have stepped := (step_mood (writeG g d.toNat (g.mood.setWidth 64)) (moodOfImm imm)).trans
    (congrArg (fun x : Group => { x with mood := moodOfImm imm }) (step_writeG g d.toNat (g.mood.setWidth 64)))
  refine ⟨_, groupBecomes_of_done hi rfl ?_ ?_ ?_ ?_, ?_, fun k hk => ?_⟩
  · exact (writeG_res _ _ _).trans hi.2.2
  · simp [moodOk_of_legal legal]
  · exact notG_of_lt hd.1
  · simp [Operands, hd]
  · rw [if_pos rfl, stepped]
  · rw [if_pos rfl, ← readG_writeG g d.toNat k _ hk, stepped]
    rfl

theorem csrw_becomes {a : R6} (ha : CanReadG g a.toNat) (low : (readG g a.toNat).toNat < 2 ^ 32)
    (legal : LegalMood ((readG g a.toNat).setWidth 32)) :
    GroupBecomes s c (exec (.sysCsrw a 0) s) { bump (stepPast g) with mood := (readG g a.toNat).setWidth 32 } := by
  have high : readG g a.toNat >>> 32 = 0 := by
    refine BitVec.eq_of_toNat_eq ?_
    rw [BitVec.toNat_ushiftRight, Nat.shiftRight_eq_div_pow, Nat.div_eq_of_lt low]
    rfl
  rw [← step_mood]
  exact groupBecomes_of_done hi rfl hi.2.2 (by simp [high, moodOk_of_legal legal]) (notG_of_lt ha.1) (by simp [Operands, ha])

end

/-- Settles O10, each instruction by its own rule. -/
theorem maskAndMood : Obligations.MaskAndMood := by
  unfold Obligations.MaskAndMood
  intro s c g hi
  exact ⟨nop_becomes hi,
    fun a ha => ⟨maskPred_becomes hi ha fun _ p => p, maskPred_becomes hi ha fun e p => e &&& p, maskPred_becomes hi ha fun e p => e ||| p⟩,
    fun a ha => maskG_becomes hi ha, maskAlive_becomes hi, fun d hd => maskRd_result hi hd,
    fun imm legal => ⟨mood_becomes hi legal, fun d hd => mood_read_becomes hi legal hd⟩,
    fun a ha low legal => csrw_becomes hi ha low legal⟩

/-! ## The reads of sys (R116, R117, R120, R121) -/

theorem csrValue_of_mem {s : State} {g : Group} {e : Nat × DWord} (listed : e ∈ csrReads s g) : csrValue s g e.1 = some e.2 := by
  simp only [csrReads, List.mem_cons, List.not_mem_nil, or_false] at listed
  rcases listed with rfl | rfl | rfl | rfl | rfl | rfl | rfl | rfl <;> rfl

section
variable {s : State} {c : Nat} {g : Group} {d a b : R6} (hi : Issues s c g) (hd : CanWriteG g d.toNat)
include hi hd

theorem csrr_result {x : DWord} (hx : csrValue s g b.toNat = some x) : UniResult s c g (exec (.sysCsrr d b) s) d.toNat [] x := by
  obtain rfl : (csrValue s g b.toNat).getD 0 = x := by rw [hx]; rfl
  exact uniResult_of_commitG hi rfl (by rw [hx]; rfl) (notG_of_lt hd.1) (by simp [Operands, hd])

theorem clk_result : UniResult s c g (exec (.sysClk d) s) d.toNat [] (BitVec.ofNat 64 s.clk) :=
  uniResult_of_commitG hi rfl rfl (notG_of_lt hd.1) (by simp [Operands, hd])

theorem flagerr_becomes : ∃ h, GroupBecomes s c (exec (.sysFlagerr d) s) h ∧
    h = { bump (stepPast g) with g := h.g, gpoison := h.gpoison, flags := g.flags.map fun f => { f with err := false } } ∧
    ∀ k < 32, readG h k = if k = d.toNat ∧ d.toNat ≠ 0 then BitVec.ofNat 64 (errBits g) else readG g k := by
  have stepped := (step_writeG (clearErrs g) d.toNat (BitVec.ofNat 64 (errBits g))).trans
    (congrArg (fun h : Group => { h with g := (writeG (clearErrs g) d.toNat (BitVec.ofNat 64 (errBits g))).g
                                         gpoison := (writeG (clearErrs g) d.toNat (BitVec.ofNat 64 (errBits g))).gpoison })
      (step_flags g (g.flags.map fun f => { f with err := false })))
  refine ⟨_, groupBecomes_of_done hi rfl ?_ rfl (notG_of_lt hd.1) (by simp [Operands, hd]), ?_, fun k hk => ?_⟩
  · exact (writeG_res _ _ _).trans hi.2.2
  · rw [stepped]
  · rw [stepped]
    exact readG_writeG (clearErrs g) d.toNat k _ hk

section
variable (ha : CanReadG g a.toNat)
include ha

/-- sys.locq passes its checks (R121). -/
theorem locq_run : exec (.sysLocq d a) s =
    if 2 ^ 55 ≤ (readG g a.toNat).toNat then commitG s c g d.toNat 0
    else if 2 ^ 54 ≤ (readG g a.toNat).toNat then commitG s c g d.toNat 0x20000
    else match tlbLook s g (readG g a.toNat).toNat with
      | .pa pa _ _ => commitG s c { g with walkFault := none } d.toNat (localityWord g.core pa)
      | .walkFault _ => commitG s c { g with walkFault := none } d.toNat 0
      | .miss => .next (endWith s c g .walk 0 (.walk (readG g a.toNat).toNat)) :=
  onGroup_checked hi rfl rfl (by simp [notG_of_lt hd.1, notG_of_lt ha.1]) (by simp [Operands, hd, ha])

theorem locq_remote (outside : 2 ^ 55 ≤ (readG g a.toNat).toNat) : UniResult s c g (exec (.sysLocq d a) s) d.toNat [] 0 := by
  rw [locq_run hi hd ha, if_pos outside]
  exact uni_commitG hi.2.2 _ _

theorem locq_window (low : 2 ^ 54 ≤ (readG g a.toNat).toNat) (high : (readG g a.toNat).toNat < 2 ^ 55) :
    UniResult s c g (exec (.sysLocq d a) s) d.toNat [] 0x20000 := by
  rw [locq_run hi hd ha, if_neg (by omega), if_pos low]
  exact uni_commitG hi.2.2 _ _

theorem locq_fault (mapped : (readG g a.toNat).toNat < 2 ^ 54) {t : TrapCode} (look : tlbLook s g (readG g a.toNat).toNat = .walkFault t) :
    UniResult s c { g with walkFault := none } (exec (.sysLocq d a) s) d.toNat [] 0 := by
  rw [locq_run hi hd ha, if_neg (by omega), if_neg (by omega), look]
  exact uni_commitG (g := { g with walkFault := none }) hi.2.2 _ _

theorem locq_mapped (mapped : (readG g a.toNat).toNat < 2 ^ 54) {pa : Nat} {rt w : Bool}
    (look : tlbLook s g (readG g a.toNat).toNat = .pa pa rt w) :
    UniResult s c { g with walkFault := none } (exec (.sysLocq d a) s) d.toNat [] (localityWord g.core pa) := by
  rw [locq_run hi hd ha, if_neg (by omega), if_neg (by omega), look]
  exact uni_commitG (g := { g with walkFault := none }) hi.2.2 _ _

end

end

/-! ## The common trigger (R119) -/

theorem fireSnap_idle {s : State} (armed : s.sec.snap.armed = false) (latched : s.sec.snap.latched = none) (src : Nat) :
    fireSnap s src = s := by
  simp [fireSnap, armed, latched]

theorem fireSnap_armed {s : State} {src : Nat} (armed : s.sec.snap.armed = true) (listens : s.sec.snap.mask.getLsbD src = true) :
    fireSnap s src = { s with sec := { s.sec with snap := { s.sec.snap with armed := false, latched := some {
      clk := s.clk, src := src, counters := counters s, active := s.chips.toList.map fun k => decide (k.st = .active) } } } } := by
  simp [fireSnap, armed, listens]

theorem snap_run {s : State} {c : Nat} {g : Group} (hi : Issues s c g) :
    exec .sysSnap s = .next { fireSnap s 0 with groups := tset (fireSnap s 0).groups c (bump (stepPast g)) } :=
  (onGroup_run hi.1 hi.2.1 hi.2.2 _).trans (done_run hi.2.2 (fireSnap s 0) c)

/-- Settles O11, each read by its own rule. -/
theorem systemReads : Obligations.SystemReads := by
  unfold Obligations.SystemReads
  intro s c g hi
  refine ⟨fun d b hd e listed hb => csrr_result hi hd (hb ▸ csrValue_of_mem listed), fun d hd => clk_result hi hd,
    fun d hd => flagerr_becomes hi hd,
    fun d a hd ha => ⟨locq_remote hi hd ha, locq_window hi hd ha,
      fun mapped => ⟨fun t => locq_fault hi hd ha mapped, fun pa rt w => locq_mapped hi hd ha mapped⟩⟩, ?_, ?_⟩
  · intro armed latched
    exact (snap_run hi).trans (by rw [fireSnap_idle armed latched])
  · intro armed listens
    exact (snap_run hi).trans (by rw [fireSnap_armed armed listens])

end Sys2Proof.Claims
end

section
/-! PROOFS. What a precise trap leaves (R230, R392, R393), and the branches (R107, R108). -/

namespace Sys2Proof.Claims
open Sys2Proof.Machine

/-! ## Taking a trap -/

/-- The trigger looks at no group. -/
theorem snapOnFault_groups (s : State) (gs : Table Group) (code : Nat) :
    snapOnFault { s with groups := gs } code = { snapOnFault s code with groups := gs } := by
  simp only [snapOnFault]
  split
  · simp only [fireSnap]
    split
    · rfl
    · split
      · split <;> rfl
      · rfl
  · rfl

theorem snapOnFault_frame (s : State) (code : Nat) :
    snapOnFault s code = { s with sec := { s.sec with snap := (snapOnFault s code).sec.snap } } := by
  simp only [snapOnFault]
  split
  · exact fireSnap_frame s 2
  · rfl

theorem snapOnFault_launches (s : State) (code : Nat) : (snapOnFault s code).launches = s.launches := by
  rw [snapOnFault_frame]

theorem snapOnFault_quiet {s : State} {code : Nat} (quiet : s.sec.snap.classes.getLsbD code = false) : snapOnFault s code = s := by
  simp [snapOnFault, quiet]

/-- The launch that a record enters: its queue has room, or the record waits (R393, R394). -/
def withRecord (k : Launch) (r : Nat → FaultRec) : Launch :=
  if k.fq.length < 64 then { k with fq := k.fq ++ [r k.fseq], fseq := k.fseq + 1 } else { k with fwait := k.fwait ++ [r 0] }

/-- The machine after a trap of a group of a launch, but for what a handler group adds. -/
def trapped (s : State) (c : Nat) (g : Group) (code : Nat) (k : Launch) (r : Nat → FaultRec) : State :=
  { snapOnFault s code with
    groups := tset s.groups c (heldNow g)
    launches := tset s.launches g.launch (withRecord k r) }

section
variable {s : State} {c : Nat} {g : Group} {k : Launch} (here : tget s.launches g.launch = some k) (t : Trap)
include here

theorem enterRecord_precise : enterRecord (putGroup s c (heldNow g)) g.launch (preciseRecord s c g t.code t.lane t.addr t.ext) =
    trapped s c g (trapCode t.code) k (trapRecord s c g (trapCode t.code) t.addr t.lane t.ext) := by
  have slot : inSlot (heldNow g) = true := rfl
  rw [putGroup_slot slot]
  simp only [enterRecord, preciseRecord, snapOnFault_groups, snapOnFault_launches, here, trapped, withRecord]
  split
  · rfl
  · rw [if_neg (by decide)]
    rfl

theorem takeTrap_plain (plain : ∀ w, tget s.wgs g.wg = some w → w.handler = none) :
    takeTrap s c g t = trapped s c g (trapCode t.code) k (trapRecord s c g (trapCode t.code) t.addr t.lane t.ext) := by
  have none : (tget s.wgs g.wg).bind Workgroup.handler = none := by
    cases h : tget s.wgs g.wg with
    | none => rfl
    | some w => exact plain w h
  simp only [takeTrap, none]
  exact enterRecord_precise here t

/-- A trap of a handler group kills the launch (R395). -/
theorem takeTrap_handler {w : Workgroup} (hw : tget s.wgs g.wg = some w) (serves : w.handler.isSome = true) :
    takeTrap s c g t =
      abortLaunch (trapped s c g (trapCode t.code) k (trapRecord s c g (trapCode t.code) t.addr t.lane t.ext)) g.launch true := by
  obtain ⟨seq, hseq⟩ := Option.isSome_iff_exists.mp serves
  have some_ : (tget s.wgs g.wg).bind Workgroup.handler = some seq := by rw [hw]; exact hseq
  simp only [takeTrap, some_]
  rw [← enterRecord_precise here t]
  rfl

end

/-- What a trap taken in the model is in the statements' words. -/
theorem trapsAt_of_takeTrap (s : State) (c : Nat) (g : Group) (t : Trap) :
    TrapsAt s c g (.next (takeTrap s c g t)) (trapCode t.code) t.addr t.lane t.ext := by
  intro k here room plain quiet
  rw [takeTrap_plain here t plain, trapped, snapOnFault_quiet quiet, withRecord, if_pos room]

theorem trapsAt_of_eq {s : State} {c : Nat} {g : Group} {o : Out} (t : Trap) (h : o = .next (takeTrap s c g t)) :
    TrapsAt s c g o (trapCode t.code) t.addr t.lane t.ext := h ▸ trapsAt_of_takeTrap s c g t

/-! ## Clause headers and the sides of a branch -/

theorem isHeader_iff (s : State) (g : Group) (x : DWord) : isHeader s g x = true ↔ HeaderAt s g x := by
  simp only [isHeader, HeaderAt]
  cases fetchWord s g.core (asidOf s g.launch) x.toNat with
  | none => simp
  | some w => simp [isHeaderWord]

theorem isHeader_of_headerAt {s : State} {g : Group} {x : DWord} (h : HeaderAt s g x) : isHeader s g x = true := (isHeader_iff s g x).2 h

theorem isHeader_of_not {s : State} {g : Group} {x : DWord} (h : ¬HeaderAt s g x) : isHeader s g x = false := by
  rw [← Bool.not_eq_true, isHeader_iff]
  exact h

theorem misplaced_of_atEnd {g : Group} (h : AtEnd g) : misplaced g = false := by
  simp only [AtEnd] at h
  simp [misplaced, h]

theorem ne_zero_iff_bit (x : BitVec 16) : x ≠ 0 ↔ ∃ l < 16, x.getLsbD l = true := by
  constructor
  · intro nz
    by_contra clear
    push Not at clear
    exact nz (BitVec.eq_of_getLsbD_eq fun i hi => by simpa using clear i hi)
  · rintro ⟨l, _, bit⟩ rfl
    simp at bit

theorem anyOf_iff (g : Group) (p : BitVec 3) : anyOf (taken g p) g.exec = true ↔ SomeTaken g p := by
  rw [anyOf, bne_iff_ne, ne_zero_iff_bit]
  simp only [taken, BitVec.getLsbD_and, Bool.and_eq_true, SomeTaken]
  exact exists_congr fun l => and_congr_right fun _ => and_comm

theorem noneOf_iff (g : Group) (p : BitVec 3) : noneOf (taken g p) g.exec = true ↔ ¬SomeTaken g p := by
  rw [← anyOf_iff, noneOf, anyOf]
  simp

theorem allOf_iff (g : Group) (p : BitVec 3) : allOf (taken g p) g.exec = true ↔ AllTaken g p := by
  simp only [allOf, Bool.and_eq_true, bne_iff_ne, beq_iff_eq, AllTaken, taken]
  refine and_congr_right fun _ => ⟨fun same l _ on => ?_, fun all => BitVec.eq_of_getLsbD_eq fun i hi => ?_⟩
  · have bit := congrArg (fun x : BitVec 16 => x.getLsbD l) same
    simpa [on] using bit
  · cases on : g.exec.getLsbD i with
    | false => simp [on]
    | true => simp [on, all i hi on]

/-! ## Uniform branches, call and ret (R107) -/

theorem branchTo_goes {s : State} {c : Nat} {g : Group} {dest : DWord} (running : g.res = .running) (last : AtEnd g) (header : HeaderAt s g dest) :
    Goes s c g (branchTo s c g dest) dest := by
  simp only [branchTo, isHeader_of_headerAt header, Bool.not_true, Bool.false_eq_true, if_false]
  rw [checked_ok (check_ok (misplaced_of_atEnd last) rfl (by simp [Operands]))]
  exact goTo_run running s c dest

theorem branchTo_traps {s : State} {c : Nat} {g : Group} {dest : DWord} (none : ¬HeaderAt s g dest) : Traps s c g (branchTo s c g dest) 4 0 :=
  trapsAt_of_eq { code := .btgt } (by simp [branchTo, isHeader_of_not none])

section
variable {s : State} {c : Nat} {g : Group} (hi : Issues s c g)
include hi

theorem br_run (off : BitVec 21) : exec (.br off) s = branchTo s c g (target g off) := onGroup_run hi.1 hi.2.1 hi.2.2 _

theorem branchIf_run (p : BitVec 3) (off : BitVec 21) (f : BitVec 16 → BitVec 16 → Bool) :
    branchIf p off f s = branchTo s c g (condDest g p off f) := onGroup_run hi.1 hi.2.1 hi.2.2 _

section
variable {p : BitVec 3} {off : BitVec 21} {f : BitVec 16 → BitVec 16 → Bool} {R : Prop} (hf : f (taken g p) g.exec = true ↔ R)
include hf

/-- A conditional branch goes to its target where its condition holds, else to the following word. -/
theorem branchIf_goes (last : AtEnd g) {dest : DWord} (side : R ∧ dest = target g off ∨ ¬R ∧ dest = nextHeader g) (header : HeaderAt s g dest) :
    Goes s c g (branchIf p off f s) dest := by
  rw [branchIf_run hi]
  obtain ⟨holds, rfl⟩ | ⟨fails, rfl⟩ := side
  · rw [condDest, if_pos (hf.2 holds)]
    exact branchTo_goes hi.2.2 last header
  · rw [condDest, if_neg (mt hf.1 fails)]
    exact branchTo_goes hi.2.2 last header

theorem branchIf_target_traps (none : ¬HeaderAt s g (target g off)) (holds : R) : Traps s c g (branchIf p off f s) 4 0 := by
  rw [branchIf_run hi, condDest, if_pos (hf.2 holds)]
  exact branchTo_traps none

theorem branchIf_next_traps (none : ¬HeaderAt s g (nextHeader g)) (fails : ¬R) : Traps s c g (branchIf p off f s) 4 0 := by
  rw [branchIf_run hi, condDest, if_neg (mt hf.1 fails)]
  exact branchTo_traps none

end

/-- call leaves the next header in g31. -/
theorem call_goes (last : AtEnd g) {off : BitVec 21} (header : HeaderAt s g (target g off)) (writable : CanWriteG g 31) :
    ∃ h, GroupBecomes s c (exec (.call off) s) h ∧
      h = bump { g with pc := target g off, coff := 0, repi := 0, rep := none, g := h.g, gpoison := h.gpoison } ∧
      ∀ k < 32, readG h k = if k = 31 then wordAddr g + 4 else readG g k := by
  have run : exec (.call off) s = goTo s c (writeG g 31 (nextHeader g)) (target g off) := by
    refine (onGroup_run hi.1 hi.2.1 hi.2.2 _).trans ?_
    simp only [isHeader_of_headerAt header, Bool.not_true, Bool.false_eq_true, if_false]
    exact checked_ok (check_ok (misplaced_of_atEnd last) rfl (by simp [Operands, writable])) s c _
  refine ⟨_, run.trans (goTo_run (by rw [writeG_frame]; exact hi.2.2) s c _), ?_, fun k hk => ?_⟩
  · rw [writeG_frame g 31 (nextHeader g)]
    rfl
  · exact (readG_writeG g 31 k (nextHeader g) hk).trans (by simp [nextHeader])

theorem call_traps {off : BitVec 21} (none : ¬HeaderAt s g (target g off)) : Traps s c g (exec (.call off) s) 4 0 :=
  trapsAt_of_eq { code := .btgt } ((onGroup_run hi.1 hi.2.1 hi.2.2 _).trans (by simp [isHeader_of_not none]))

theorem ret_goes (last : AtEnd g) {a : R6} (ha : CanReadG g a.toNat) (header : HeaderAt s g (readG g a.toNat)) :
    Goes s c g (exec (.ret a) s) (readG g a.toNat) := by
  refine (onGroup_run hi.1 hi.2.1 hi.2.2 _).trans ?_
  simp only [isHeader_of_headerAt header, Bool.not_true, Bool.and_false, Bool.false_eq_true, if_false]
  rw [checked_ok (check_ok (misplaced_of_atEnd last) (notG_of_lt ha.1) (by simp [Operands, ha]))]
  exact goTo_run hi.2.2 s c _

theorem ret_traps {a : R6} (ha : a.toNat < 32) (none : ¬HeaderAt s g (readG g a.toNat)) : Traps s c g (exec (.ret a) s) 4 0 :=
  trapsAt_of_eq { code := .btgt } ((onGroup_run hi.1 hi.2.1 hi.2.2 _).trans (by simp [notG_of_lt ha, isHeader_of_not none]))

end

/-- Settles O15, each branch by where it goes. -/
theorem uniformBranches : Obligations.UniformBranches := by
  unfold Obligations.UniformBranches
  refine ⟨fun s c g hi last => ⟨fun off header => ?_, fun p off dest => ⟨?_, ?_, ?_⟩, fun off => call_goes hi last,
    fun a => ret_goes hi last⟩, fun s c g hi off none => ⟨?_, call_traps hi none, fun p => ⟨?_, ?_, ?_⟩⟩,
    fun s c g hi none p off => ⟨?_, ?_, fun some_ => ?_⟩, fun s c g a hi => ret_traps hi⟩
  · rw [br_run hi]
    exact branchTo_goes hi.2.2 last header
  · exact branchIf_goes hi (anyOf_iff g p) last
  · exact branchIf_goes hi (allOf_iff g p) last
  · exact fun side => branchIf_goes hi (noneOf_iff g p) last (by rwa [not_not])
  · rw [br_run hi]
    exact branchTo_traps none
  · exact branchIf_target_traps hi (anyOf_iff g p) none
  · exact branchIf_target_traps hi (allOf_iff g p) none
  · exact branchIf_target_traps hi (noneOf_iff g p) none
  · exact branchIf_next_traps hi (anyOf_iff g p) none
  · exact branchIf_next_traps hi (allOf_iff g p) none
  · exact branchIf_next_traps hi (noneOf_iff g p) none (not_not.2 some_)

/-! ## br.div (R108) -/

/-- A region that closes changes only which clause run comes next, and what the group says of its own and of its region. -/
theorem regionClosed_frame (s : State) (g : Group) :
    ∃ n i r, regionClosed s g = ({ s with nextInst := n }, { g with inst := i, region := r }) := by
  simp only [regionClosed, closeRegion]
  split <;> exact ⟨_, _, _, rfl⟩

theorem regionClosed_res (s : State) (g : Group) : (regionClosed s g).2.res = g.res := by
  obtain ⟨n, i, r, h⟩ := regionClosed_frame s g
  rw [h]

theorem somePending_of_nothing {g : Group} (h : NothingPending g) : somePending g = false := by
  simp only [somePending, anyPending, List.any_eq_false, List.mem_range, Bool.and_eq_true, decide_eq_true_eq, not_and]
  intro f hf _
  rw [h f hf]
  exact Nat.lt_irrefl 0

section
variable {s : State} {c : Nat} {g : Group} {p : BitVec 3} {off : BitVec 21} (hi : Issues s c g)
include hi

theorem brDiv_traps (bad : divBad s g p off = true) : Traps s c g (exec (.brDiv p off) s) 4 0 :=
  trapsAt_of_eq { code := .btgt } ((onGroup_run hi.1 hi.2.1 hi.2.2 _).trans (if_pos bad))

/-- With nothing pending the region closes, and each side goes where it goes. -/
theorem brDiv_run (last : AtEnd g) (noLate : g.llSeen = false) (quiet : NothingPending g) (good : divBad s g p off = false) {t f : BitVec 16}
    (ht : t = taken g p) (hf : f = g.exec &&& ~~~t) : exec (.brDiv p off) s =
      if t = 0 then goTo (regionClosed s g).1 c (regionClosed s g).2 (nextHeader g)
      else if f = 0 then goTo (regionClosed s g).1 c (regionClosed s g).2 (target g off)
      else if popCount t ≤ popCount f then
        goTo (spawn (regionClosed s g).1 (bump g) t (target g off)) c
          { (regionClosed s g).2 with alive := g.alive &&& ~~~t, exec := f } (nextHeader g)
      else goTo (spawn (regionClosed s g).1 (bump g) f (nextHeader g)) c
        { (regionClosed s g).2 with alive := g.alive &&& ~~~f, exec := t } (target g off) := by
  subst ht hf
  refine (onGroup_run hi.1 hi.2.1 hi.2.2 _).trans ?_
  simp only [good, Bool.false_eq_true, if_false]
  rw [checked_ok (check_ok (misplaced_of_atEnd last) rfl (by simp [Operands]))]
  simp only [noLate, somePending_of_nothing quiet, Bool.or_false, Bool.false_eq_true, if_false]
  by_cases less : popCount (taken g p) ≤ popCount (g.exec &&& ~~~taken g p)
  · simp only [less, decide_true, if_true]
    rfl
  · simp only [less, decide_false, Bool.false_eq_true, if_false]
    rfl

end

/-- Settles O16, by which of the two sides have threads. -/
theorem divergentBranch : Obligations.DivergentBranch := by
  unfold Obligations.DivergentBranch
  intro s c g p off hi last noLate quiet t f ht hf
  have running := (regionClosed_res s g).trans hi.2.2
  have bad : divBad s g p off = (if t = 0 then !isHeader s g (nextHeader g) else if f = 0 then !isHeader s g (target g off)
      else !isHeader s g (target g off) || !isHeader s g (nextHeader g)) := by
    subst ht hf
    rfl
  have run := fun good => brDiv_run (p := p) (off := off) hi last noLate quiet good ht hf
  refine ⟨fun t0 next => ?_, fun t0 f0 there => ?_, fun t0 f0 next there m stay mpc jpc sides => ?_, fun missing => brDiv_traps hi ?_⟩
  · have good : divBad s g p off = false := by rw [bad, if_pos t0, nextHeader, isHeader_of_headerAt next]; rfl
    rw [run good, if_pos t0]
    exact goTo_run running _ c _
  · have good : divBad s g p off = false := by rw [bad, if_neg t0, if_pos f0, target, isHeader_of_headerAt there]; rfl
    rw [run good, if_neg t0, if_pos f0]
    exact goTo_run running _ c _
  · have good : divBad s g p off = false := by
      rw [bad, if_neg t0, if_neg f0, target, nextHeader, isHeader_of_headerAt next, isHeader_of_headerAt there]; rfl
    rw [run good, if_neg t0, if_neg f0]
    split at sides
    · next less =>
      obtain ⟨rfl, rfl, rfl, rfl⟩ := sides
      rw [if_pos less]
      exact goTo_run (g := { (regionClosed s g).2 with alive := g.alive &&& ~~~m, exec := stay }) running _ c _
    · next more =>
      obtain ⟨rfl, rfl, rfl, rfl⟩ := sides
      rw [if_neg more]
      exact goTo_run (g := { (regionClosed s g).2 with alive := g.alive &&& ~~~m, exec := stay }) running _ c _
  · obtain ⟨side, none⟩ | ⟨t0, none⟩ := missing
    · have no : isHeader s g (nextHeader g) = false := isHeader_of_not none
      by_cases t0 : t = 0
      · rw [bad, if_pos t0, no]
        rfl
      · rw [bad, if_neg t0, if_neg (side.resolve_left t0), no]
        exact Bool.or_true _
    · have no : isHeader s g (target g off) = false := isHeader_of_not none
      rw [bad, if_neg t0, no]
      split <;> rfl

end Sys2Proof.Claims
end

section
/-! PROOFS. join and end, barriers, cede, the clause header and rep (R94 to R97, R109 to R114, R231 to R234). -/

namespace Sys2Proof.Claims
open Sys2Proof.Machine

/-! ## join and end (R109, R111) -/

section
variable {s : State} {c : Nat} {g : Group} (hi : Issues s c g)
include hi

/-- A join with nothing pending closes the region (R109). -/
theorem join_run (last : AtEnd g) (quiet : NothingPending g) : exec .join s =
    if wholeHome s c g then goTo (regionClosed s g).1 c (setExec (regionClosed s g).2 g.alive) (nextHeader g)
    else .next (arriveJoin (regionClosed s g).1 c (bump (regionClosed s g).2) (nextHeader g)) := by
  refine (onGroup_run hi.1 hi.2.1 hi.2.2 _).trans ?_
  rw [checked_ok (check_ok (misplaced_of_atEnd last) rfl (by simp [Operands])), if_neg (by simp [somePending_of_nothing quiet])]
  rfl

theorem join_whole (last : AtEnd g) (quiet : NothingPending g) (whole : wholeHome s c g = true) :
    Goes (regionClosed s g).1 c { (regionClosed s g).2 with exec := g.alive } (exec .join s) (wordAddr g + 4) := by
  have all : setExec (regionClosed s g).2 g.alive = { (regionClosed s g).2 with exec := g.alive } := by
    obtain ⟨n, i, r, h⟩ := regionClosed_frame s g
    rw [h, setExec, BitVec.and_self]
  rw [join_run hi last quiet, if_pos whole, all]
  exact goTo_run (g := { (regionClosed s g).2 with exec := g.alive }) ((regionClosed_res s g).trans hi.2.2) _ c _

/-- An end of some of the live threads drops what they had for their own (R111). -/
theorem end_some (active : g.exec ≠ 0) (left : g.alive &&& ~~~g.exec ≠ 0) : exec .endThreads s = .next (afterEnd
    { dropPrivate (regionClosed s g).1 g.core g.wg (tidsOf g g.exec) with
      groups := tset (dropPrivate (regionClosed s g).1 g.core g.wg (tidsOf g g.exec)).groups c
        (bump (stepPast { (regionClosed s g).2 with alive := g.alive &&& ~~~g.exec, exec := 0 })) } g.wg) := by
  have running : (bump (stepPast { (regionClosed s g).2 with alive := g.alive &&& ~~~g.exec, exec := 0 })).res = .running := by
    rw [bump_res, stepPast_res]
    exact (regionClosed_res s g).trans hi.2.2
  refine (onGroup_run hi.1 hi.2.1 hi.2.2 _).trans ?_
  rw [if_neg active, if_neg left, ← putGroup_running running]
  rfl

end

/-- Settles O17, by which threads the group has at the join and which it keeps at the end. -/
theorem joinAndEnd : Obligations.JoinAndEnd := by
  unfold Obligations.JoinAndEnd
  intro s c g hi
  refine ⟨join_whole hi, fun last quiet part => ?_, fun idle => ?_, fun active left => ⟨_, _, rfl, rfl, end_some hi active left⟩,
    fun active gone => ?_⟩
  · rw [join_run hi last quiet, part]
    rfl
  · exact ((onGroup_run hi.1 hi.2.1 hi.2.2 _).trans (if_pos idle)).trans (done_run hi.2.2 s c)
  · refine (onGroup_run hi.1 hi.2.1 hi.2.2 _).trans ?_
    rw [if_neg active, if_pos gone]
    rfl

/-! ## Barriers and cede (R112 to R114) -/

theorem noFlag_of_free {g : Group} {fs : Bool} (free : FlagFree g fs (flagSel g fs)) : noFlag g fs = false := by
  simp [noFlag, free.2.1]

theorem accepted_res (g : Group) (f : Nat) (vs gs : List Nat) : (accepted g f vs gs).res = g.res := by
  rw [accepted, bump_res, stepPast_res]
  rfl

theorem acceptBar_enters {s : State} {c : Nat} {g : Group} (running : g.res = .running) (sub : Nat) (d : Option Nat) (a b : DWord) (word : Word) :
    acceptBar s c g sub d a b word = .next (barrierEntered s c g sub d a b word) := by
  have stays : (accepted (regionClosed (emitBins s g.wg) g).2 (flagSel g false) [] d.toList).res = .running :=
    (accepted_res ..).trans ((regionClosed_res _ g).trans running)
  exact congrArg (fun t => Host.Outcome.next (settle t g.wg)) (putGroup_running stays _ c)

/-- A barrier instruction whose operands can be read and written is accepted (R112). -/
theorem bar_run {s : State} {c : Nat} {g : Group} (hi : Issues s c g) (free : FlagFree g false (flagSel g false)) {k : Nat → Group → Out} {use : Use}
    {sub : Nat} {d : Option Nat} {a b : DWord} {word : Word} {bad : Bool}
    (hk : k c g = Machine.accepted s c g use false bad (acceptBar s c g sub d a b word)) (ill : use.ill = noFlag g false) (nd : use.nd = false)
    (good : bad = false) (ops : Operands g use.lanes use.rv use.wv use.rg use.wg) :
    onGroup s k = .next (barrierEntered s c g sub d a b word) := by
  obtain ⟨hrv, hwv, hrg, hwg⟩ := ops
  rw [onGroup_run hi.1 hi.2.1 hi.2.2, hk, good, accepted_none (ill.trans (noFlag_of_free free)) nd hrv hwv hrg hwg free,
    acceptBar_enters hi.2.2]

/-- Settles O18, each barrier instruction by its operands. -/
theorem barriersAccepted : Obligations.BarriersAccepted := by
  unfold Obligations.BarriersAccepted
  intro s c g hi free
  refine ⟨bar_run hi free rfl rfl rfl rfl (by simp [Operands]), bar_run hi free rfl rfl rfl rfl (by simp [Operands]),
    fun d hd => bar_run hi free rfl rfl (notG_of_lt hd.1) rfl (by simp [Operands, hd]),
    fun a ha => bar_run hi free rfl rfl (notG_of_lt ha.1) rfl (by simp [Operands, ha]),
    fun a b ha hb low some_ few => bar_run hi free rfl rfl (by simp [notG_of_lt ha.1, notG_of_lt hb.1]) ?_ (by simp [Operands, ha, hb])⟩
  rw [namedBad, decide_eq_false (Nat.not_lt.2 low), decide_eq_false some_, decide_eq_false (Nat.not_lt.2 few)]
  rfl

theorem step_cedes (g : Group) (l : List Nat) : bump (stepPast { g with cedes := l }) = { bump (stepPast g) with cedes := l } := by
  rw [bump_stepPast g]
  exact bump_stepPast _

theorem cede_becomes {s : State} {c : Nat} {g : Group} (hi : Issues s c g) (free : FlagFree g false (flagSel g false)) :
    GroupBecomes (regionClosed s g).1 c (exec .cede s)
      { accepted (regionClosed s g).2 (flagSel g false) [] [] with cedes := (regionClosed s g).2.cedes ++ [flagSel g false] } := by
  refine (onGroup_run hi.1 hi.2.1 hi.2.2 _).trans ?_
  rw [accepted_none (noFlag_of_free free) rfl (by simp) (by simp) (by simp) (by simp) free, accepted, ← step_cedes]
  have running := (regionClosed_res s g).trans hi.2.2
  rw [regionClosed] at running ⊢
  generalize closeRegion s g = r at running ⊢
  exact done_run (g := { addPend (incFlag r.2 (flagSel g false)) [] [] with cedes := r.2.cedes ++ [flagSel g false] }) running _ c

/-! ## Ending with a WAIT record (R230 to R234) -/

theorem leastFree_none {taken : List Nat} {k n : Nat} (full : ∀ j, k ≤ j → j < k + n → j ∈ taken) : leastFree taken k n = none := by
  induction n generalizing k with
  | zero => rfl
  | succ n ih =>
    simp only [leastFree, List.contains_iff_mem]
    rw [if_pos (full k (by omega) (by omega))]
    exact ih fun j low high => full j (by omega) (by omega)

theorem leastFree_some {taken : List Nat} {k n m : Nat} (low : k ≤ m) (high : m < k + n) (free : m ∉ taken)
    (below : ∀ j, k ≤ j → j < m → j ∈ taken) : leastFree taken k n = some m := by
  induction n generalizing k with
  | zero => omega
  | succ n ih =>
    simp only [leastFree, List.contains_iff_mem]
    by_cases here : k = m
    · subst here
      rw [if_neg free]
    · rw [if_pos (below k (Nat.le_refl k) (by omega))]
      exact ih (by omega) (by omega) fun j a b => below j (by omega) b

theorem placeRecord_dugout {s : State} {c : Nat} {h : Group} (room : recordSize s c h / 64 ≤ dugoutFree s h.core) :
    placeRecord s c h = some (.dugout (recordSize s c h / 64)) := by
  simp [placeRecord, room]

theorem placeRecord_spill {s : State} {c k : Nat} {h : Group} (full : dugoutFree s h.core < recordSize s c h / 64) (cell : LowestCell s h.launch k) :
    placeRecord s c h = some (.spill k) := by
  obtain ⟨inside, free, below⟩ := cell
  have least : leastFree (cellsUsed s h.launch) 0 ((descOf s h.launch).spillN / cellSize) = some k :=
    leastFree_some (Nat.zero_le k) (by rw [Nat.zero_add]; exact inside) free fun j _ => below j
  simp [placeRecord, Nat.not_le.2 full, least]

theorem placeRecord_none {s : State} {c : Nat} {h : Group} (full : dugoutFree s h.core < recordSize s c h / 64)
    (cells : ∀ k < (descOf s h.launch).spillN / 4480, k ∈ cellsUsed s h.launch) : placeRecord s c h = none := by
  have least : leastFree (cellsUsed s h.launch) 0 ((descOf s h.launch).spillN / cellSize) = none :=
    leastFree_none fun j _ high => cells j (by rw [Nat.zero_add] at high; exact high)
  simp [placeRecord, Nat.not_le.2 full, least]

theorem changedBytes_nil {l : List Byte} (some_ : l ≠ []) : changedBytes [] l = [(0, l)] := by
  rw [changedBytes, if_pos fun none => some_ (List.eq_nil_of_length_eq_zero none.symm)]

theorem recordBytes_ne_nil (s : State) (c : Nat) (g : Group) : recordBytes s c g ≠ [] := by
  unfold recordBytes
  exact List.append_ne_nil_of_right_ne_nil _ (by decide)

/-- A record that a group in a slot becomes, in the dugout or in a spill cell, where its bytes are written. -/
theorem putGroup_dugout {s : State} {c n : Nat} {h : Group} (dug : h.store = .dugout n) :
    putGroup s c h = { s with groups := tset s.groups c h } := by
  simp only [putGroup, mirrorSpill, dug]
  cases inSlot h <;> rfl

theorem putGroup_spill {s : State} {c k : Nat} {g h : Group} (there : tget s.groups c = some g) (running : g.res = .running)
    (out : inSlot h = false) (cell : h.store = .spill k) :
    putGroup s c h = commitVirt { s with groups := tset s.groups c h } none (asidOf s h.launch) (cellVa s h.launch k) (recordBytes s c h) := by
  have old : cellRecord s c = [] := by
    have slot : inSlot g = true := by simp [inSlot, running]
    simp only [cellRecord, there, slot]
  simp only [putGroup, mirrorSpill, out, cell, old]
  rw [changedBytes_nil (recordBytes_ne_nil _ c h)]
  rfl

/-- A group that ends with the record h, however that record is stored (R234). -/
theorem endsWaiting_of_stored {s : State} {c : Nat} {g gw h : Group} (hi : Issues s c g) (core : gw.core = g.core) (launch : gw.launch = g.launch)
    (size : recordSize s c h = recordSize s c (waitsIn s c gw)) (sameLaunch : h.launch = gw.launch) (out : inSlot h = false)
    (stored : ∀ st, refresh s.clk { waitsIn s c gw with store := st } = { h with store := st }) :
    EndsWaiting s c g (.next (endAs s c g gw .wait 0 .none)) h := by
  intro n hn
  rw [size] at hn
  have ends : endAs s c g gw .wait 0 .none = match placeRecord s c (waitsIn s c gw) with
      | some st => putGroup s c { h with store := st }
      | none => takeTrap s c g { code := .cqov, ext := mwriteN [] 64 1 (causeCode .wait) } := by
    have unfolded : endAs s c g gw .wait 0 .none = match placeRecord s c (waitsIn s c gw) with
        | some st => putGroup s c (refresh s.clk { waitsIn s c gw with store := st })
        | none => takeTrap s c g { code := .cqov, ext := mwriteN [] 64 1 (causeCode .wait) } := rfl
    simp only [unfolded, stored]
  have place : (waitsIn s c gw).core = g.core := core
  have owner : (waitsIn s c gw).launch = g.launch := launch
  refine ⟨fun room => ?_, fun full => ⟨fun k cell => ?_, fun cells => ?_⟩⟩
  · rw [hn, ← place] at room
    rw [ends, placeRecord_dugout room, hn]
    exact congrArg Host.Outcome.next (putGroup_dugout rfl)
  · rw [hn, ← place] at full
    rw [← owner] at cell
    rw [ends, placeRecord_spill full cell]
    have held : h.launch = g.launch := sameLaunch.trans launch
    refine congrArg Host.Outcome.next ((putGroup_spill (h := { h with store := .spill k }) hi.2.1 hi.2.2 out rfl).trans ?_)
    rw [← held]
  · rw [hn, ← place] at full
    rw [← owner] at cells
    rw [ends, placeRecord_none full cells]
    exact trapsAt_of_takeTrap s c g { code := .cqov }

/-! ## The clause header (R83, R84, R114) -/

theorem anyPending_iff (g : Group) (m : BitVec 12) : anyPending g m = true ↔ ∃ f < 12, m.getLsbD f = true ∧ 0 < flagCount g f := by
  simp [anyPending, List.any_eq_true]

theorem anyPending_of_clear {g : Group} {m : BitVec 12} (clear : ∀ f < 12, m.getLsbD f = true → flagCount g f = 0) : anyPending g m = false := by
  rw [← Bool.not_eq_true, anyPending_iff]
  rintro ⟨f, hf, waits, pending⟩
  rw [clear f hf waits] at pending
  exact Nat.lt_irrefl 0 pending

theorem cedes_any_iff (g : Group) (m : BitVec 12) : (g.cedes.any fun f => m.getLsbD f) = true ↔ ∃ f < 12, m.getLsbD f = true ∧ f ∈ g.cedes := by
  rw [List.any_eq_true]
  exact ⟨fun ⟨f, ceded, waits⟩ => ⟨f, BitVec.lt_of_getLsbD waits, waits, ceded⟩, fun ⟨f, _, waits, ceded⟩ => ⟨f, ceded, waits⟩⟩

theorem flagCount_decFlag_ne {g : Group} {f k : Nat} (ne : k ≠ f) (hk : k < 12) (err : Bool) : flagCount (decFlag g f err) k = flagCount g k := by
  simp only [flagCount, decFlag, modFlag]
  rw [getD_mapIdx _ _ _ _ { count := 0, err := false } hk, if_neg ne]

theorem flagCount_endCedes {g : Group} {k : Nat} (kept : k ∉ g.cedes) (hk : k < 12) : flagCount (endCedes g) k = flagCount g k := by
  have fold : ∀ (l : List Nat) (h : Group), k ∉ l → flagCount (l.foldl (fun h f => decFlag h f false) h) k = flagCount h k := by
    intro l
    induction l with
    | nil => exact fun h _ => rfl
    | cons f l ih =>
      intro h out
      rw [List.mem_cons, not_or] at out
      rw [List.foldl_cons, ih _ out.2, flagCount_decFlag_ne out.1 hk]
  exact fold g.cedes g kept

theorem endCedes_frame (g : Group) : endCedes g = { g with flags := (endCedes g).flags, cedes := [] } := by
  have fold : ∀ (l : List Nat) (h : Group), l.foldl (fun h f => decFlag h f false) h =
      { h with flags := (l.foldl (fun h f => decFlag h f false) h).flags } := by
    intro l
    induction l with
    | nil => exact fun h => rfl
    | cons f l ih => exact fun h => by rw [List.foldl_cons, ih]; rfl
  rw [endCedes, fold]

theorem headerIll_of_legal {setA setB : BitVec 4} (legal : LegalHeader setA setB) : headerIll setA setB = false := by
  obtain ⟨a, b, ab⟩ := legal
  have fifteen : setA = setB → setA = 15 := fun same => BitVec.eq_of_toNat_eq (ab same)
  have goodA : ¬(12 ≤ setA.toNat ∧ setA.toNat < 15) := by omega
  have goodB : ¬(12 ≤ setB.toNat ∧ setB.toNat < 15) := by omega
  simp only [headerIll, ← Bool.decide_and, decide_eq_false goodA, decide_eq_false goodB, Bool.false_or]
  simpa using fifteen

section
variable {s : State} {c : Nat} {g : Group} {wait : BitVec 12}

/-- Which record the group waits in, where a flag that it waits on is pending. -/
theorem endsWaiting_of_pending {gw : Group} (hi : Issues s c g) (core : gw.core = g.core) (launch : gw.launch = g.launch)
    (pending : anyPending gw gw.waitm = true) : EndsWaiting s c g (.next (endAs s c g gw .wait 0 .none)) (waitsIn s c gw) := by
  refine endsWaiting_of_stored hi core launch rfl rfl rfl fun st => ?_
  have holds : condHolds { waitsIn s c gw with store := st } = !anyPending gw gw.waitm := rfl
  simp [refresh, holds, pending]

theorem endsWaiting_of_ready {gw : Group} (hi : Issues s c g) (core : gw.core = g.core) (launch : gw.launch = g.launch)
    (clear : anyPending gw gw.waitm = false) :
    EndsWaiting s c g (.next (endAs s c g gw .wait 0 .none)) { waitsIn s c gw with res := .ready, readyAt := s.clk } := by
  refine endsWaiting_of_stored hi core launch rfl rfl rfl fun st => ?_
  have holds : condHolds { waitsIn s c gw with store := st } = !anyPending gw gw.waitm := rfl
  exact if_pos (by rw [holds, clear]; rfl)

variable {setA setB : BitVec 4} {len : BitVec 5} (hi : Issues s c g) (legal : LegalHeader setA setB) (first : g.coff = 0)
include hi legal first

theorem clause_run : exec (.clause wait setA setB len) s =
    if g.cedes.any (fun f => wait.getLsbD f) then .next (endAs s c g { endCedes g with waitm := wait } .wait 0 .none)
    else if anyPending (endCedes g) wait then .next (endAs s c g { g with waitm := wait } .wait 0 .none)
    else
      let h := inClause { endCedes g with hbKey := if wait = 0 then g.hbKey else s.nextKey } setA setB len
      if g.engFlags &&& wait = 0 then .next (putGroup s c h)
      else .next (putGroup (regionClosed s { h with engFlags := g.engFlags &&& ~~~wait }).1 c
        (regionClosed s { h with engFlags := g.engFlags &&& ~~~wait }).2) :=
  onGroup_checked hi rfl (by simp [headerIll_of_legal legal, first]) rfl (by simp [Operands])

section
variable (apart : ∀ f < 12, wait.getLsbD f = true → f ∉ g.cedes)
include apart

theorem clause_begins (clear : ∀ f < 12, wait.getLsbD f = true → flagCount (endCedes g) f = 0) : exec (.clause wait setA setB len) s =
    let h := inClause { endCedes g with hbKey := if wait = 0 then g.hbKey else s.nextKey } setA setB len
    if g.engFlags &&& wait = 0 then .next (putGroup s c h)
    else .next (putGroup (regionClosed s { h with engFlags := g.engFlags &&& ~~~wait }).1 c
      (regionClosed s { h with engFlags := g.engFlags &&& ~~~wait }).2) := by
  have none : ¬(g.cedes.any fun f => wait.getLsbD f) = true := by
    rw [cedes_any_iff]
    exact fun ⟨f, hf, waits, ceded⟩ => apart f hf waits ceded
  rw [clause_run hi legal first, if_neg none, if_neg (by rw [anyPending_of_clear clear]; exact Bool.false_ne_true)]

theorem clause_waits (pending : ∃ f < 12, wait.getLsbD f = true ∧ 0 < flagCount (endCedes g) f) :
    EndsWaiting s c g (exec (.clause wait setA setB len) s) (waitsIn s c { g with waitm := wait }) := by
  have none : ¬(g.cedes.any fun f => wait.getLsbD f) = true := by
    rw [cedes_any_iff]
    exact fun ⟨f, hf, waits, ceded⟩ => apart f hf waits ceded
  have here : anyPending { g with waitm := wait } wait = true := by
    rw [anyPending_iff]
    obtain ⟨f, hf, waits, some_⟩ := pending
    exact ⟨f, hf, waits, by rwa [flagCount_endCedes (apart f hf waits) hf] at some_⟩
  rw [clause_run hi legal first, if_neg none, if_pos ((anyPending_iff _ _).2 pending)]
  exact endsWaiting_of_pending (gw := { g with waitm := wait }) hi rfl rfl here

end

theorem clause_cedes (ceded : ∃ f < 12, wait.getLsbD f = true ∧ f ∈ g.cedes) :
    exec (.clause wait setA setB len) s = .next (endAs s c g { endCedes g with waitm := wait } .wait 0 .none) := by
  rw [clause_run hi legal first, if_pos ((cedes_any_iff g wait).2 ceded)]

end

/-- Settles O19, by whether the header waits on a flag of a cede and on a pending flag. -/
theorem clauseHeaders : Obligations.ClauseHeaders := by
  unfold Obligations.ClauseHeaders
  intro s c g hi
  refine ⟨fun f free => ?_, fun wait setA setB len legal first => ?_⟩
  · obtain rfl := free.1
    exact cede_becomes hi free
  have core : (endCedes g).core = g.core := by rw [endCedes_frame]
  have launch : (endCedes g).launch = g.launch := by rw [endCedes_frame]
  refine ⟨fun apart => ⟨fun clear => ⟨fun plain => ?_, fun closes => ⟨_, rfl, ?_⟩⟩, clause_waits hi legal first apart⟩,
    fun ceded h hh => ⟨fun pending => ?_, fun clear => ?_⟩⟩
  · rw [clause_begins hi legal first apart clear]
    refine (if_pos plain).trans ?_
    exact congrArg Host.Outcome.next (putGroup_running (by rw [endCedes_frame]; exact hi.2.2) s c)
  · have waits : wait ≠ 0 := by
      rintro rfl
      exact closes BitVec.and_zero
    rw [clause_begins hi legal first apart clear]
    refine (if_neg closes).trans ?_
    rw [if_neg waits]
    exact congrArg Host.Outcome.next (putGroup_running ((regionClosed_res s _).trans (by rw [endCedes_frame]; exact hi.2.2)) _ c)
  · subst hh
    rw [clause_cedes hi legal first ceded]
    exact endsWaiting_of_pending (gw := { endCedes g with waitm := wait }) hi core launch ((anyPending_iff _ _).2 pending)
  · subst hh
    rw [clause_cedes hi legal first ceded]
    exact endsWaiting_of_ready (gw := { endCedes g with waitm := wait }) hi core launch (anyPending_of_clear clear)

/-! ## rep (R94 to R96) -/

/-- Settles O20: the counts and steps are stored with the group, and nothing else happens. -/
theorem repeatPrefix : Obligations.RepeatPrefix := by
  unfold Obligations.RepeatPrefix
  intro s c g cnt dD dA dB w hi fetched legal
  refine (onGroup_run hi.1 hi.2.1 hi.2.2 _).trans ?_
  simp only [fetched]
  rw [checked_ok (check_ok legal rfl (by simp [Operands]))]
  exact congrArg Host.Outcome.next (putGroup_running (g := { g with rep := some _ }) hi.2.2 s c)

end Sys2Proof.Claims
end

section
/-! PROOFS. trap, and the return from a precise trap (R115, R174, R395, R396). -/

namespace Sys2Proof.Claims
open Sys2Proof.Machine

/-! ## trap (R115) -/

theorem trapUser_run {s : State} {c : Nat} {g : Group} (hi : Issues s c g) (imm : BitVec 18) :
    exec (.trapUser imm) s = .next (takeTrap s c g { code := .user, addr := imm.setWidth 64 }) := onGroup_run hi.1 hi.2.1 hi.2.2 _

theorem decode_trap_42 : decodeWord 0x1C00002A = some (.trapUser 42) := (Laws.decodeEncode (.trapUser 42) _ rfl).1

theorem trap_fields {w : Word} (op : fld w 25 7 = 0x0E) (word : (decodeWord w).isSome = true) : fld w 18 7 = 0 := by
  rw [Laws.decode_at_0e op] at word
  split at word
  · assumption
  · cases word

/-! ## RESUME on a precise record (R396) -/

theorem stepPast_region (g : Group) : (stepPast g).region = g.region := by rw [stepPast_frame]

theorem past_region (past : Bool) (g : Group) : (if past = true then stepPast g else g).region = g.region := by
  cases past
  · rfl
  · exact stepPast_region g

section
variable {s : State} {c : Nat} {g : Group} (here : tget s.groups c = some g) (held : g.res = .held)
include here held

/-- While an stw to the group is still to complete, a held group notes how it is to go on (R174). -/
theorem resumeGroup_notes (busy : stwPending s c = true) (past : Bool) :
    GroupBecomes s c (.next (resumeGroup s c past)) { g with resume := some past } := by
  simp only [resumeGroup, here, busy, if_true]
  exact congrArg Host.Outcome.next (putGroup_slot (g := { g with resume := some past }) (by simp [inSlot, held]) s c)

/-- A held group runs again in a new region. -/
theorem resumeGroup_runs (free : stwPending s c = false) (more : g.region + 1 < 2 ^ 32) (past : Bool) :
    GroupBecomes s c (.next (resumeGroup s c past))
      { (if past = true then stepPast g else g) with region := g.region + 1, res := .running, resume := none } := by
  have closed : closeRegion s (if past = true then stepPast g else g) =
      (s, { (if past = true then stepPast g else g) with region := g.region + 1 }) := by
    rw [closeRegion, past_region, if_pos more]
  simp only [resumeGroup, here, free, Bool.false_eq_true, if_false, held, true_or, if_true, closed]
  exact congrArg Host.Outcome.next (putGroup_running rfl s c)

end

theorem returnFromTrap_precise {s : State} {r : FaultRec} {c : Nat} (precise : r.kind = 0) (ctx : r.ctx = some c) :
    returnFromTrap s r = resumeGroup s c (decide (r.code = 18)) := by
  simp [returnFromTrap, doResume, precise, ctx]

/-- What wakeHeld does about one group. -/
def wakeOne (t : State) (e : Nat × Group) : State := match e.2.resume with
  | some past => if stwPending t e.1 then t else resumeGroup t e.1 past
  | none => t

theorem wakeHeld_eq_foldl (s : State) : wakeHeld s = s.groups.foldl wakeOne s := rfl

theorem wakeOne_skips (t : State) (e : Nat × Group) : wakeOne t e = if e.2.resume.isSome = true then wakeOne t e else t := by
  simp only [wakeOne]
  cases e.2.resume <;> rfl

/-- Where one group alone is to run again, it is the one that wakeHeld looks at. -/
theorem wakeHeld_one {s : State} {c : Nat} {g : Group} {past : Bool} (noted_ : g.resume = some past)
    (only : s.groups.filter (fun e => e.2.resume.isSome) = [(c, g)]) :
    wakeHeld s = if stwPending s c then s else resumeGroup s c past := by
  have filtered : s.groups.foldl wakeOne s = (s.groups.filter fun e => e.2.resume.isSome).foldl wakeOne s := by
    rw [List.foldl_filter]
    exact congrArg (fun f => s.groups.foldl f s) (funext fun t => funext fun e => wakeOne_skips t e)
  rw [wakeHeld_eq_foldl, filtered, only, List.foldl_cons, List.foldl_nil, wakeOne]
  simp only [noted_]

/-- Settles O21: the trap by what taking one leaves, the return by whether an stw is still to complete. -/
theorem trapAndReturn : Obligations.TrapAndReturn := by
  unfold Obligations.TrapAndReturn
  refine ⟨fun s c g imm hi k here r hr t ht => ?_, decode_trap_42, fun w => trap_fields, fun s c g here held => ⟨fun r precise ctx => ?_,
    fun past noted_ only => ?_⟩⟩
  · have same : t = trapped s c g 18 k (trapRecord s c g 18 (imm.setWidth 64) none []) := by
      subst hr
      exact ht
    subst same
    rw [trapUser_run hi]
    exact ⟨fun plain => congrArg _ (takeTrap_plain here { code := .user, addr := imm.setWidth 64 } plain),
      fun w hw serves => congrArg _ (takeTrap_handler here { code := .user, addr := imm.setWidth 64 } hw serves)⟩
  · rw [returnFromTrap_precise precise ctx]
    refine ⟨fun free more => ?_, fun busy => resumeGroup_notes here held busy _⟩
    simpa using resumeGroup_runs here held free more (decide (r.code = 18))
  · rw [wakeHeld_one noted_ only]
    refine ⟨fun busy => if_pos busy, fun free more => ?_⟩
    rw [if_neg (by simp [free])]
    exact resumeGroup_runs here held free more past

end Sys2Proof.Claims
end

section
/-! PROOFS. The forms of F-R: what each word checks, the traps of its operands (R89, R92, R93, R98, R242, R392), and what it does with EXEC = 0 (R103). -/

namespace Sys2Proof.Claims
open Sys2Proof.Machine

/-! ## What a form names -/

/-- The checks of a vector word of a form. -/
def FRForm.vecUse (e : FRForm) (g : Group) (d a b : R6) (la lb im : Bool) : Use :=
  { ill := lb && im, rv := (e.reads d a b im).map BitVec.toNat, wv := if e.reg then [d.toNat] else []
    marks := marked la a (e.two && lb) b, lanes := g.exec }

/-- The checks of a uniform word of a form. -/
def FRForm.uniUse (e : FRForm) (d a b : R6) (la lb im : Bool) : Use :=
  { ill := la || (e.two && lb), nd := (e.names d a b im).any notG, rg := (e.reads d a b im).map BitVec.toNat
    wg := if e.reg then [d.toNat] else [] }

/-- The vector word of a form is checked as its operands say; with EXEC = 0 and a type that it takes it then only frees names. -/
def FRForm.VecChecks (e : FRForm) : Prop :=
  ∀ s c g d a b la lb im, Issues s c g → e.Fits d im → ∃ o,
    exec (e.word false d a b la lb im) s = checked s c g (e.vecUse g d a b la lb im) o ∧
    (g.exec = 0 → e.ok (moodType g.mood) → FreesOnly s c g o (marked la a (e.two && lb) b))

def FRForm.UniChecks (e : FRForm) : Prop :=
  ∀ s c g d a b la lb im, Issues s c g → e.Fits d im → ∃ o,
    exec (e.word true d a b la lb im) s = checked s c g (e.uniUse d a b la lb im) o

/-! ## What is left with EXEC = 0 -/

section
variable {s : State} {c : Nat} {g : Group}

theorem freesOnly_marks (running : g.res = .running) (marks : List Nat) : FreesOnly s c g (done s c (freeMarks g marks [])) marks := by
  have stepped : bump (stepPast (freeMarks g marks [])) = { bump (stepPast g) with v := (freeMarks g marks []).v } := by
    rw [freeMarks_frame, step_v]
  refine ⟨_, done_run (g := freeMarks g marks []) running s c, ?_, fun k hk => ?_⟩
  · rw [stepped]
  · rw [stepped]
    simpa using freeMarks_get g marks [] k hk

theorem freesOnly_of_commitV (running : g.res = .running) (idle : g.exec = 0) (use : Use) (d : Nat) (f : Nat → Word) :
    FreesOnly s c g (commitV s c g use d f) use.marks := by
  rw [commitV, if_pos idle]
  exact freesOnly_marks running use.marks

theorem readP_lanes (g : Group) (d : Nat) : (bits16 fun l => (readP g d).getLsbD l) = readP g d := by
  refine BitVec.eq_of_getLsbD_eq fun i hi => ?_
  rw [getLsbD_bits16]
  simp [hi]

/-- A predicate whose every lane keeps its bit stays as it is. -/
theorem writeP_self {d : Nat} (hd : d < 8) : writeP g d (readP g d) = g := by
  have same : g.p.setIfInBounds d (readP g d) = g.p := by
    ext i hi
    rw [Vector.getElem_setIfInBounds]
    split
    · next h => subst h; simp [readP, Vector.getD, hd]
    · rfl
  rw [writeP, same]

theorem freesOnly_of_commitP (running : g.res = .running) (idle : g.exec = 0) (use : Use) {d : Nat} (hd : d < 8) (f : Nat → Bool) :
    FreesOnly s c g (commitP s c g use d (bits16 fun l => if g.exec.getLsbD l then f l else (readP g d).getLsbD l)) use.marks := by
  have keeps : (bits16 fun l => if g.exec.getLsbD l then f l else (readP g d).getLsbD l) = readP g d := by
    rw [← readP_lanes g d, idle]
    exact congrArg bits16 (funext fun l => by simp [readP_lanes])
  rw [commitP, keeps, writeP_self hd]
  exact freesOnly_marks running use.marks

end

/-! ## The checks of each kind of form -/

section
variable {e : FRForm} (g : Group) (d a b : R6) (la lb im : Bool)

theorem vecUse_of_two (two : e.two = true) (reg : e.reg = true) : e.vecUse g d a b la lb im = useV g d a b la lb im true e.rd := by
  simp only [FRForm.vecUse, FRForm.reads, useV, marked, two, reg, Bool.true_and, Bool.and_true, if_true]
  cases im <;> cases e.rd <;> rfl

theorem vecUse_of_one (two : e.two = false) (rd : e.rd = false) (reg : e.reg = true) :
    e.vecUse g d a b la lb false = useV g d a 0 la false false false false := by
  simp only [FRForm.vecUse, FRForm.reads, useV, marked, two, rd, reg, Bool.false_and, Bool.and_false, if_true]
  rfl

theorem vecUse_of_pred (two : e.two = true) (rd : e.rd = false) (reg : e.reg = false) :
    e.vecUse g d a b la lb im = { useV g 0 a b la lb im true false with wv := [] } := by
  simp only [FRForm.vecUse, FRForm.reads, useV, marked, two, rd, reg, Bool.true_and, Bool.and_true]
  cases im <;> rfl

theorem uniUse_of_two (two : e.two = true) (reg : e.reg = true) : e.uniUse d a b la lb im = useU d a b la lb im true e.rd := by
  have names : (e.names d a b im).any notG = (notG d || notG a || (true && !im && notG b)) := by
    simp only [FRForm.names, FRForm.reads, two, reg, if_true]
    cases im <;> cases e.rd <;> simp [Bool.or_comm, Bool.or_left_comm, Bool.or_assoc]
  simp only [FRForm.uniUse, names, useU, two, reg, Bool.true_and, if_true, FRForm.reads]
  cases im <;> cases e.rd <;> rfl

theorem uniUse_of_one (two : e.two = false) (rd : e.rd = false) (reg : e.reg = true) :
    e.uniUse d a b la lb false = useU d a 0 la false false false false := by
  have names : (e.names d a b false).any notG = (notG d || notG a || (false && !false && notG 0)) := by
    simp [FRForm.names, FRForm.reads, two, rd, reg, Bool.or_comm]
  simp only [FRForm.uniUse, names, useU, two, rd, reg, Bool.false_and, if_true, FRForm.reads]
  rfl

theorem uniUse_of_pred (two : e.two = true) (rd : e.rd = false) (reg : e.reg = false) :
    e.uniUse d a b la lb im = { useU 0 a b la lb im true false with wg := [] } := by
  have zero : notG 0 = false := rfl
  have names : (e.names d a b im).any notG = (notG 0 || notG a || (true && !im && notG b)) := by
    rw [zero]
    simp only [FRForm.names, FRForm.reads, two, rd, reg]
    cases im <;> simp
  simp only [FRForm.uniUse, names, useU, two, rd, reg, Bool.true_and, FRForm.reads]
  cases im <;> rfl

end

/-! ## Every form of the list -/

section
variable {e : FRForm}

/-- A form whose word commits a register result, once its operands are checked and its type is one that it takes. -/
theorem vecChecks_of_commitV
    (shape : ∀ s c g d a b la lb im, Issues s c g → e.Fits d im → ∃ o,
      exec (e.word false d a b la lb im) s = checked s c g (e.vecUse g d a b la lb im) o ∧
      (e.ok (moodType g.mood) → ∃ f, o = commitV s c g (e.vecUse g d a b la lb im) d.toNat f)) : e.VecChecks := by
  intro s c g d a b la lb im hi fits
  obtain ⟨o, run, commits⟩ := shape s c g d a b la lb im hi fits
  refine ⟨o, run, fun idle ok => ?_⟩
  obtain ⟨f, rfl⟩ := commits ok
  exact freesOnly_of_commitV hi.2.2 idle (e.vecUse g d a b la lb im) d.toNat f

section
variable (two : e.two = true) (reg : e.reg = true)
include two reg

theorem alu_checks_two {f : IntFn}
    (word : ∀ u d a b la lb im s, e.Fits d im → exec (e.word u d a b la lb im) s = alu u d a b la lb im true e.rd f s) :
    e.VecChecks ∧ e.UniChecks := by
  refine ⟨vecChecks_of_commitV fun s c g d a b la lb im hi fits => ?_, fun s c g d a b la lb im hi fits => ?_⟩
  · rw [word _ _ _ _ _ _ _ _ fits, vecUse_of_two g d a b la lb im two reg]
    exact ⟨_, onGroup_run hi.1 hi.2.1 hi.2.2 _, fun _ => ⟨_, rfl⟩⟩
  · rw [word _ _ _ _ _ _ _ _ fits, uniUse_of_two d a b la lb im two reg]
    exact ⟨_, onGroup_run hi.1 hi.2.1 hi.2.2 _⟩

theorem fop_checks_two {f : WordFn} (floating : ∀ t, e.ok t → t ≤ 2)
    (word : ∀ u d a b la lb im s, e.Fits d im → im = false ∧ exec (e.word u d a b la lb im) s = fop u d a b la lb true e.rd f s) :
    e.VecChecks ∧ e.UniChecks := by
  refine ⟨vecChecks_of_commitV fun s c g d a b la lb im hi fits => ?_, fun s c g d a b la lb im hi fits => ?_⟩
  · obtain ⟨rfl, run⟩ := word false d a b la lb im s fits
    rw [run, vecUse_of_two g d a b la lb false two reg]
    exact ⟨_, onGroup_run hi.1 hi.2.1 hi.2.2 _, fun ok => ⟨_, if_neg (Nat.not_lt.2 (floating _ ok))⟩⟩
  · obtain ⟨rfl, run⟩ := word true d a b la lb im s fits
    rw [run, uniUse_of_two d a b la lb false two reg]
    exact ⟨_, onGroup_run hi.1 hi.2.1 hi.2.2 _⟩

end

section
variable (two : e.two = false) (rd : e.rd = false) (reg : e.reg = true)
include two rd reg

theorem alu_checks_one {f : IntFn}
    (word : ∀ u d a b la lb im s, e.Fits d im → im = false ∧ exec (e.word u d a b la lb im) s = alu u d a 0 la false false false false f s) :
    e.VecChecks ∧ e.UniChecks := by
  refine ⟨vecChecks_of_commitV fun s c g d a b la lb im hi fits => ?_, fun s c g d a b la lb im hi fits => ?_⟩
  · obtain ⟨rfl, run⟩ := word false d a b la lb im s fits
    rw [run, vecUse_of_one g d a b la lb two rd reg]
    exact ⟨_, onGroup_run hi.1 hi.2.1 hi.2.2 _, fun _ => ⟨_, rfl⟩⟩
  · obtain ⟨rfl, run⟩ := word true d a b la lb im s fits
    rw [run, uniUse_of_one d a b la lb two rd reg]
    exact ⟨_, onGroup_run hi.1 hi.2.1 hi.2.2 _⟩

theorem fop_checks_one {f : WordFn} (floating : ∀ t, e.ok t → t ≤ 2)
    (word : ∀ u d a b la lb im s, e.Fits d im → im = false ∧ exec (e.word u d a b la lb im) s = fop u d a 0 la false false false f s) :
    e.VecChecks ∧ e.UniChecks := by
  refine ⟨vecChecks_of_commitV fun s c g d a b la lb im hi fits => ?_, fun s c g d a b la lb im hi fits => ?_⟩
  · obtain ⟨rfl, run⟩ := word false d a b la lb im s fits
    rw [run, vecUse_of_one g d a b la lb two rd reg]
    exact ⟨_, onGroup_run hi.1 hi.2.1 hi.2.2 _, fun ok => ⟨_, if_neg (Nat.not_lt.2 (floating _ ok))⟩⟩
  · obtain ⟨rfl, run⟩ := word true d a b la lb im s fits
    rw [run, uniUse_of_one d a b la lb two rd reg]
    exact ⟨_, onGroup_run hi.1 hi.2.1 hi.2.2 _⟩

end

/-! Comparisons write a predicate. -/

section
variable {s : State} {c : Nat} {g : Group} {d a b : R6} {la lb im : Bool} (hi : Issues s c g) (low : d.toNat < 8)
include hi low

theorem cmpOp_vec_run (f : Word → (n : Nat) → BitVec n → BitVec n → Bool) : cmpOp false d a b la lb im f s =
    checked s c g { useV g 0 a b la lb im true false with wv := [] } (commitP s c g (useV g 0 a b la lb im true false) d.toNat (bits16 fun l =>
      if g.exec.getLsbD l then f g.mood 32 (readV g a.toNat l) (srcB32 g b im l) else (readP g d.toNat).getLsbD l)) := by
  refine (onGroup_run hi.1 hi.2.1 hi.2.2 _).trans ?_
  simp only [decide_eq_false (Nat.not_le.2 low)]
  rfl

theorem cmpOp_uni_run (f : Word → (n : Nat) → BitVec n → BitVec n → Bool) : cmpOp true d a b la lb im f s =
    checked s c g { useU 0 a b la lb im true false with wg := [] }
      (commitP s c g {} d.toNat (if f g.mood 64 (readG g a.toNat) (srcB64 g b im) then BitVec.allOnes 16 else 0)) := by
  refine (onGroup_run hi.1 hi.2.1 hi.2.2 _).trans ?_
  simp only [decide_eq_false (Nat.not_le.2 low), Bool.or_false]
  rfl

theorem fcmpOp_vec_run (f : FVal → FVal → Bool) : fcmpOp false d a b la lb f s =
    checked s c g { useV g 0 a b la lb false true false with wv := [] }
      (if 2 < moodType g.mood then .next (takeTrap s c g { code := .illtype })
      else commitP s c g { useV g 0 a b la lb false true false with wv := [] } d.toNat (bits16 fun l =>
        if g.exec.getLsbD l then f (fcmpIn g.mood (readV g a.toNat l)) (fcmpIn g.mood (readV g b.toNat l)) else (readP g d.toNat).getLsbD l)) := by
  refine (onGroup_run hi.1 hi.2.1 hi.2.2 _).trans ?_
  simp only [decide_eq_false (Nat.not_le.2 low), Bool.or_false]
  rfl

theorem fcmpOp_uni_run (f : FVal → FVal → Bool) : fcmpOp true d a b la lb f s =
    checked s c g { useU 0 a b la lb false true false with wg := [] }
      (if 2 < moodType g.mood then .next (takeTrap s c g { code := .illtype })
      else commitP s c g {} d.toNat (if f (fcmpIn g.mood ((readG g a.toNat).setWidth 32))
          (fcmpIn g.mood ((readG g b.toNat).setWidth 32)) then BitVec.allOnes 16 else 0)) := by
  refine (onGroup_run hi.1 hi.2.1 hi.2.2 _).trans ?_
  simp only [decide_eq_false (Nat.not_le.2 low), Bool.or_false]
  rfl

end

section
variable (two : e.two = true) (rd : e.rd = false) (reg : e.reg = false)
include two rd reg

theorem cmpOp_checks {f : Word → (n : Nat) → BitVec n → BitVec n → Bool}
    (word : ∀ u d a b la lb im s, exec (e.word u d a b la lb im) s = cmpOp u d a b la lb im f s) : e.VecChecks ∧ e.UniChecks := by
  refine ⟨fun s c g d a b la lb im hi fits => ?_, fun s c g d a b la lb im hi fits => ?_⟩
  · rw [word, cmpOp_vec_run hi (fits.2 reg), vecUse_of_pred g d a b la lb im two rd reg]
    refine ⟨_, rfl, fun idle _ => ?_⟩
    rw [two, Bool.true_and, ← useV_marks_two g 0 a b la lb im false]
    exact freesOnly_of_commitP hi.2.2 idle _ (fits.2 reg) _
  · rw [word, cmpOp_uni_run hi (fits.2 reg), uniUse_of_pred d a b la lb im two rd reg]
    exact ⟨_, rfl⟩

theorem fcmpOp_checks {f : FVal → FVal → Bool} (floating : ∀ t, e.ok t → t ≤ 2)
    (word : ∀ u d a b la lb im s, e.Fits d im → im = false ∧ exec (e.word u d a b la lb im) s = fcmpOp u d a b la lb f s) :
    e.VecChecks ∧ e.UniChecks := by
  refine ⟨fun s c g d a b la lb im hi fits => ?_, fun s c g d a b la lb im hi fits => ?_⟩
  · obtain ⟨rfl, run⟩ := word false d a b la lb im s fits
    rw [run, fcmpOp_vec_run hi (fits.2 reg), vecUse_of_pred g d a b la lb false two rd reg]
    refine ⟨_, rfl, fun idle ok => ?_⟩
    rw [if_neg (Nat.not_lt.2 (floating _ ok)), two, Bool.true_and, ← useV_marks_two g 0 a b la lb false false]
    exact freesOnly_of_commitP hi.2.2 idle { useV g 0 a b la lb false true false with wv := [] } (fits.2 reg) _
  · obtain ⟨rfl, run⟩ := word true d a b la lb im s fits
    rw [run, fcmpOp_uni_run hi (fits.2 reg), uniUse_of_pred d a b la lb false two rd reg]
    exact ⟨_, rfl⟩

end

end

/-! The three forms that stand alone. -/

theorem fscal_checks : FRForm.VecChecks ⟨fun u d a b la lb im => .fscal u d a b la lb im, true, true, false, true, fun t => t ≤ 2⟩ ∧
    FRForm.UniChecks ⟨fun u d a b la lb im => .fscal u d a b la lb im, true, true, false, true, fun t => t ≤ 2⟩ := by
  refine ⟨vecChecks_of_commitV fun s c g d a b la lb im hi fits => ?_, fun s c g d a b la lb im hi fits => ?_⟩
  · rw [vecUse_of_two g d a b la lb im rfl rfl]
    exact ⟨_, onGroup_run hi.1 hi.2.1 hi.2.2 _, fun ok => ⟨_, if_neg (Nat.not_lt.2 ok)⟩⟩
  · rw [uniUse_of_two d a b la lb im rfl rfl]
    exact ⟨_, onGroup_run hi.1 hi.2.1 hi.2.2 _⟩

theorem sel_checks (pr : BitVec 3) :
    FRForm.VecChecks ⟨fun u d a b la lb im => .sel u d a b la lb im pr, true, true, false, true, fun _ => True⟩ ∧
    FRForm.UniChecks ⟨fun u d a b la lb im => .sel u d a b la lb im pr, true, true, false, true, fun _ => True⟩ := by
  refine ⟨vecChecks_of_commitV fun s c g d a b la lb im hi fits => ?_, fun s c g d a b la lb im hi fits => ?_⟩
  · rw [vecUse_of_two g d a b la lb im rfl rfl]
    exact ⟨_, onGroup_run hi.1 hi.2.1 hi.2.2 _, fun _ => ⟨_, rfl⟩⟩
  · rw [uniUse_of_two d a b la lb im rfl rfl]
    exact ⟨_, onGroup_run hi.1 hi.2.1 hi.2.2 _⟩

/-- A form without an immediate has none. -/
theorem FRForm.Fits.plain {e : FRForm} {d : R6} {im : Bool} (fits : e.Fits d im) (none : e.imm = false) : im = false :=
  Bool.eq_false_iff.2 fun him => by simpa [none] using fits.1 him

theorem dot4_checks : FRForm.VecChecks ⟨fun u d a b la lb _ => .dot4 u d a b la lb, true, false, true, true, fun t => t = 11 ∨ t = 12⟩ ∧
    FRForm.UniChecks ⟨fun u d a b la lb _ => .dot4 u d a b la lb, true, false, true, true, fun t => t = 11 ∨ t = 12⟩ := by
  refine ⟨vecChecks_of_commitV fun s c g d a b la lb im hi fits => ?_, fun s c g d a b la lb im hi fits => ?_⟩
  · obtain rfl := fits.plain rfl
    rw [vecUse_of_two g d a b la lb false rfl rfl]
    exact ⟨_, onGroup_run hi.1 hi.2.1 hi.2.2 _, fun ok => ⟨_, if_neg (by rcases ok with h | h <;> simp [h])⟩⟩
  · obtain rfl := fits.plain rfl
    rw [uniUse_of_two d a b la lb false rfl rfl]
    exact ⟨_, onGroup_run hi.1 hi.2.1 hi.2.2 _⟩

theorem frForms_checks (pr : BitVec 3) : ∀ e ∈ frForms pr, e.VecChecks ∧ e.UniChecks := by
  intro e he
  simp only [frForms, List.mem_append, List.mem_map, List.mem_cons, List.not_mem_nil, or_false] at he
  rcases he with ((((((⟨x, hx, rfl⟩ | ⟨x, hx, rfl⟩) | ⟨x, hx, rfl⟩) | ⟨x, hx, rfl⟩) | ⟨x, hx, rfl⟩) | ⟨x, hx, rfl⟩) | ⟨x, hx, rfl⟩) | rfl | rfl | rfl
  · exact alu_checks_two rfl rfl fun u d a b la lb im s _ => exec_of_mem_intThree x hx u d a b la lb im s
  · refine alu_checks_two (f := x.2.2) rfl rfl fun u d a b la lb im s fits => ?_
    obtain rfl := fits.plain rfl
    exact exec_of_mem_intField x hx u d a b la lb s
  · exact alu_checks_one rfl rfl rfl fun u d a b la lb im s fits => ⟨fits.plain rfl, exec_of_mem_intOne x hx u d a la s⟩
  · exact fop_checks_two rfl rfl (fun _ ok => ok) fun u d a b la lb im s fits => ⟨fits.plain rfl, exec_of_mem_floatThree x hx u d a b la lb s⟩
  · exact fop_checks_one rfl rfl rfl (fun _ ok => ok) fun u d a b la lb im s fits => ⟨fits.plain rfl, exec_of_mem_floatOne x hx u d a la s⟩
  · obtain ⟨f, -, word⟩ := exec_of_mem_intRels x hx
    exact cmpOp_checks rfl rfl rfl word
  · obtain ⟨f, -, word⟩ := exec_of_mem_floatRels x hx
    exact fcmpOp_checks rfl rfl rfl (fun _ ok => ok) fun u d a b la lb im s fits => ⟨fits.plain rfl, word u d a b la lb s⟩
  · exact fscal_checks
  · exact dot4_checks
  · exact sel_checks pr

/-! ## Which trap the checks take (R98, R242) -/

theorem firstSome_of_only {α β : Type} {f : α → Option β} {l : List α} {n : α} {y : β} (mem : n ∈ l) (here : f n = some y)
    (others : ∀ k ∈ l, k ≠ n → f k = none) : firstSome f l = some y := by
  induction l with
  | nil => cases mem
  | cons k l ih =>
    by_cases same : k = n
    · simp only [firstSome, same, here]
    · simp only [firstSome, others k List.mem_cons_self same]
      exact ih ((List.mem_cons.1 mem).resolve_left (Ne.symm same)) fun j hj => others j (List.mem_cons_of_mem k hj)

theorem find?_of_only {α : Type} {p : α → Bool} {l : List α} {n : α} (mem : n ∈ l) (here : p n = true)
    (others : ∀ k ∈ l, k ≠ n → p k = false) : l.find? p = some n := by
  obtain ⟨k, hk⟩ := Option.isSome_iff_exists.1 (List.find?_isSome.2 ⟨n, mem, here⟩)
  have same : k = n := by
    by_contra ne
    have := List.find?_some hk
    rw [others k (List.mem_of_find?_eq_some hk) ne] at this
    cases this
  rw [hk, same]

theorem lanes16_eq_range : lanes16 = List.range 16 := by decide

/-- The lowest lane of a mask that a test holds of. -/
theorem find_lanesOf {m : BitVec 16} {p : Nat → Bool} {l : Nat} (hl : l < 16) (on : m.getLsbD l = true) (here : p l = true)
    (below : ∀ j < l, m.getLsbD j = true → p j = false) : (lanesOf m).find? p = some l := by
  rw [lanesOf, lanes16_eq_range, List.find?_filter, List.find?_range_eq_some]
  refine ⟨by simp [on, here], by simpa using hl, fun j hj => ?_⟩
  cases bit : m.getLsbD j with
  | false => rfl
  | true => simp [below j hj bit]

theorem checked_traps {s : State} {c : Nat} {g : Group} {use : Use} {t : Trap} {o : Out} (h : check g use = some t) :
    TrapsAt s c g (checked s c g use o) (trapCode t.code) t.addr t.lane t.ext := trapsAt_of_eq t (checked_trap h s c o)

section
variable {g : Group} {use : Use}

theorem check_illop (ill : use.ill = true) : check g use = some { code := .illop } := by simp [check, formTrap, ill]

theorem check_illopnd (ill : use.ill = false) (nd : use.nd = true) : check g use = some { code := .illopnd } := by
  simp [check, formTrap, ill, nd]

section
variable (ill : use.ill = false) (nd : use.nd = false)
include ill nd

theorem check_pend (owed : ((use.rv ++ use.wv).any (fun n => g.pendV.getLsbD n) || (use.rg ++ use.wg).any fun n => g.pendG.getLsbD n) = true) :
    check g use = some { code := .pend } := by
  simp only [check, formTrap, ill, nd, owed, Bool.false_eq_true, if_false, if_true]

variable (settled_ : ((use.rv ++ use.wv).any (fun n => g.pendV.getLsbD n) || (use.rg ++ use.wg).any fun n => g.pendG.getLsbD n) = false)
include settled_

theorem check_unwr (unwritten : (use.rv.any fun n => (g.v.getD n none).isNone) = true) : check g use = some { code := .unwr } := by
  simp only [check, formTrap, ill, nd, settled_, unwritten, Bool.false_eq_true, if_false, if_true]

theorem check_ecc (written : (use.rv.any fun n => (g.v.getD n none).isNone) = false) : check g use = eccTrap g use := by
  simp only [check, formTrap, ill, nd, settled_, written, Bool.false_eq_true, if_false]

end

end

/-- A name written as a number. -/
theorem any_map_toNat (l : List R6) (p : Nat → Bool) : (l.map BitVec.toNat).any p = l.any fun n => p n.toNat := by
  rw [List.any_map]
  rfl

section
variable {e : FRForm} {s : State} {c : Nat} {g : Group} {d a b : R6} {la lb im : Bool}

theorem names_eq (e : FRForm) (d a b : R6) (im : Bool) :
    (e.reads d a b im).map BitVec.toNat ++ (if e.reg then [d.toNat] else []) = (e.names d a b im).map BitVec.toNat := by
  rw [FRForm.names, List.map_append]
  cases e.reg <;> rfl

theorem any_names (p : Nat → Bool) : ((e.reads d a b im).map BitVec.toNat ++ (if e.reg then [d.toNat] else [])).any p = true ↔
    ∃ n ∈ e.names d a b im, p n.toNat = true := by
  rw [names_eq, any_map_toNat, List.any_eq_true]

theorem any_reads (p : Nat → Bool) : ((e.reads d a b im).map BitVec.toNat).any p = true ↔ ∃ n ∈ e.reads d a b im, p n.toNat = true := by
  rw [any_map_toNat, List.any_eq_true]

theorem any_names_false {p : Nat → Bool} (all : ∀ n ∈ e.names d a b im, p n.toNat = false) :
    ((e.reads d a b im).map BitVec.toNat ++ (if e.reg then [d.toNat] else [])).any p = false := by
  rw [← Bool.not_eq_true, any_names]
  rintro ⟨n, hn, hp⟩
  rw [all n hn] at hp
  cases hp

/-! ### The vector form -/

section
variable (unmarked : (lb && im) = false)
include unmarked

theorem vecUse_pend (owed : ∃ n ∈ e.names d a b im, g.pendV.getLsbD n.toNat = true) :
    check g (e.vecUse g d a b la lb im) = some { code := .pend } := by
  refine check_pend unmarked rfl ?_
  rw [Bool.or_eq_true]
  exact .inl ((any_names fun n => g.pendV.getLsbD n).2 owed)

variable (settled_ : ∀ n ∈ e.names d a b im, g.pendV.getLsbD n.toNat = false)
include settled_

omit unmarked in
theorem vecUse_settled : (((e.vecUse g d a b la lb im).rv ++ (e.vecUse g d a b la lb im).wv).any (fun n => g.pendV.getLsbD n) ||
    ((e.vecUse g d a b la lb im).rg ++ (e.vecUse g d a b la lb im).wg).any fun n => g.pendG.getLsbD n) = false := by
  rw [Bool.or_eq_false_iff]
  exact ⟨any_names_false settled_, rfl⟩

theorem vecUse_unwr (empty : ∃ n ∈ e.reads d a b im, g.v.getD n.toNat none = none) :
    check g (e.vecUse g d a b la lb im) = some { code := .unwr } := by
  refine check_unwr unmarked rfl (vecUse_settled settled_) ((any_reads _).2 ?_)
  obtain ⟨n, hn, none⟩ := empty
  exact ⟨n, hn, by rw [none]; rfl⟩

theorem vecUse_eccu {n : R6} (hn : n ∈ e.reads d a b im) (others : ∀ k ∈ e.reads d a b im, k ≠ n → CanReadV g g.exec k.toNat) {r : VReg}
    (holds : g.v.getD n.toNat none = some r) {l : Nat} (hl : l < 16) (on : g.exec.getLsbD l = true) (bad : r.poison.getLsbD l = true)
    (below : ∀ j < l, g.exec.getLsbD j = true → r.poison.getLsbD j = false) :
    check g (e.vecUse g d a b la lb im) = some { code := .eccu, lane := some l, ext := mwriteN [] 64 1 n.toNat } := by
  have written : ((e.reads d a b im).map BitVec.toNat).any (fun k => (g.v.getD k none).isNone) = false := by
    rw [← Bool.not_eq_true, any_reads]
    rintro ⟨k, hk, none⟩
    by_cases same : k = n
    · rw [same, holds] at none
      cases none
    · obtain ⟨-, q, hq, -⟩ := others k hk same
      rw [hq] at none
      cases none
  have poisoned : poisonedV g ((e.reads d a b im).map BitVec.toNat) g.exec = some (n.toNat, l) := by
    refine firstSome_of_only (List.mem_map_of_mem hn) ?_ fun m hm ne => ?_
    · rw [holds]
      exact congrArg (Option.map _) (find_lanesOf hl on bad below)
    · obtain ⟨k, hk, rfl⟩ := List.mem_map.1 hm
      obtain ⟨-, q, hq, clean⟩ := others k hk fun same => ne (congrArg BitVec.toNat same)
      rw [hq]
      refine congrArg (Option.map _) (List.find?_eq_none.2 fun j hj => ?_)
      rw [lanesOf, List.mem_filter] at hj
      simp [getLsbD_of_and_zero clean j hj.2]
  rw [check_ecc unmarked rfl (vecUse_settled settled_) written]
  simp only [eccTrap, FRForm.vecUse, poisoned]

end

/-! ### The uniform form -/

section
variable (plainA : la = false) (plainB : lb = false)
include plainA plainB

theorem uniUse_unmarked : (e.uniUse d a b la lb im).ill = false := by
  simp [FRForm.uniUse, plainA, plainB]

theorem uniUse_illopnd (high : ∃ n ∈ e.names d a b im, 32 ≤ n.toNat) : check g (e.uniUse d a b la lb im) = some { code := .illopnd } := by
  refine check_illopnd (uniUse_unmarked plainA plainB) (List.any_eq_true.2 ?_)
  obtain ⟨n, hn, big⟩ := high
  exact ⟨n, hn, decide_eq_true big⟩

variable (low : ∀ n ∈ e.names d a b im, n.toNat < 32)
include low

omit plainA plainB in
theorem uniUse_nd : (e.uniUse d a b la lb im).nd = false :=
  List.any_eq_false.2 fun n hn => by simp [notG_of_lt (low n hn)]

theorem uniUse_pend (owed : ∃ n ∈ e.names d a b im, g.pendG.getLsbD n.toNat = true) :
    check g (e.uniUse d a b la lb im) = some { code := .pend } := by
  refine check_pend (uniUse_unmarked plainA plainB) (uniUse_nd low) ?_
  rw [Bool.or_eq_true]
  exact .inr ((any_names fun n => g.pendG.getLsbD n).2 owed)

theorem uniUse_eccu (settled_ : ∀ n ∈ e.names d a b im, g.pendG.getLsbD n.toNat = false) {n : R6} (hn : n ∈ e.reads d a b im)
    (others : ∀ k ∈ e.reads d a b im, k ≠ n → gBad g k.toNat = false) (bad : gBad g n.toNat = true) :
    check g (e.uniUse d a b la lb im) = some { code := .eccu, ext := mwriteN [] 64 1 (64 + n.toNat) } := by
  have poisoned : ((e.reads d a b im).map BitVec.toNat).find? (fun k => gBad g k) = some n.toNat := by
    refine find?_of_only (List.mem_map_of_mem hn) bad fun m hm ne => ?_
    obtain ⟨k, hk, rfl⟩ := List.mem_map.1 hm
    exact others k hk fun same => ne (congrArg BitVec.toNat same)
  rw [check_ecc (uniUse_unmarked plainA plainB) (uniUse_nd low) (any_names_false settled_) rfl]
  simp only [eccTrap, FRForm.uniUse, poisonedV, firstSome, poisoned]

end

end

/-- Settles O22: the checks of each form, then the order of R98. -/
theorem operandTraps : Obligations.OperandTraps := by
  unfold Obligations.OperandTraps
  intro pr e he s c g d a b la lb im hi fits
  obtain ⟨vec, uni⟩ := frForms_checks pr e he
  refine ⟨?_, ?_⟩
  · obtain ⟨o, run, -⟩ := vec s c g d a b la lb im hi fits
    rintro _ rfl
    rw [run]
    refine ⟨fun him hlb => checked_traps (check_illop (by simp [FRForm.vecUse, him, hlb])), fun unmarked => ?_⟩
    have plain : (lb && im) = false := by
      cases im with
      | false => exact Bool.and_false lb
      | true => rw [unmarked rfl]; rfl
    exact ⟨fun owed => checked_traps (vecUse_pend plain owed), fun settled_ => ⟨fun empty => checked_traps (vecUse_unwr plain settled_ empty),
      fun n hn others r holds l hl on bad below => checked_traps (vecUse_eccu plain settled_ hn others holds hl on bad below)⟩⟩
  · obtain ⟨o, run⟩ := uni s c g d a b la lb im hi fits
    rintro _ rfl
    rw [run]
    refine ⟨fun marks => checked_traps (check_illop ?_), fun hla hlb => ⟨fun high => checked_traps (uniUse_illopnd hla hlb high), fun low =>
      ⟨fun owed => checked_traps (uniUse_pend hla hlb low owed),
        fun settled_ n hn others bad => checked_traps (uniUse_eccu hla hlb low settled_ hn others bad)⟩⟩⟩
    rcases marks with hla | ⟨two, hlb⟩
    · simp [FRForm.uniUse, hla]
    · simp [FRForm.uniUse, two, hlb]

end Sys2Proof.Claims
end

section
/-! PROOFS. Instructions with EXEC = 0 free the marked names and do nothing else (R103). -/

namespace Sys2Proof.Claims
open Sys2Proof.Machine

theorem canReadV_exec {g : Group} {n : Nat} (idle : g.exec = 0) (h : CanReadV g 0 n) : CanReadV g g.exec n := by
  rw [idle]
  exact h

section
variable {s : State} {c : Nat} {g : Group} (hi : Issues s c g) (idle : g.exec = 0)
include hi idle

/-- A form of F-R whose operands pass their checks. -/
theorem form_idle {pr : BitVec 3} {e : FRForm} (he : e ∈ frForms pr) {d a b : R6} {la lb im : Bool} (fits : e.Fits d im)
    (unmarked : im = true → lb = false) (ok : e.ok (moodType g.mood)) (reads : ∀ n ∈ e.reads d a b im, CanReadV g 0 n.toNat)
    (writes : e.reg = true → CanWriteV g d.toNat) :
    FreesOnly s c g (exec (e.word false d a b la lb im) s) (marked la a (e.two && lb) b) := by
  obtain ⟨o, run, frees⟩ := (frForms_checks pr e he).1 s c g d a b la lb im hi fits
  have plain : (lb && im) = false := by
    cases im with
    | false => exact Bool.and_false lb
    | true => rw [unmarked rfl]; rfl
  have ops : Operands g g.exec ((e.reads d a b im).map BitVec.toNat) (if e.reg then [d.toNat] else []) [] [] := by
    rw [idle]
    refine ⟨fun n hn => ?_, fun n hn => ?_, by simp, by simp⟩
    · obtain ⟨k, hk, rfl⟩ := List.mem_map.1 hn
      exact reads k hk
    · cases reg : e.reg <;> rw [reg] at hn
      · cases hn
      · obtain rfl := List.mem_singleton.1 hn
        exact writes reg
  rw [run, checked_ok (check_ok plain rfl ops)]
  exact frees idle ok

section
variable {use : Use} {freed : List Nat} {k : Nat → Group → Out} (marks : use.marks = freed) (ill : use.ill = false) (nd : use.nd = false)
  (ops : Operands g use.lanes use.rv use.wv use.rg use.wg)
include marks ill nd ops

theorem commitV_idle_frees {d : Nat} {f : Nat → Word} (hk : k c g = checked s c g use (commitV s c g use d f)) :
    FreesOnly s c g (onGroup s k) freed := by
  rw [onGroup_checked hi hk ill nd ops, ← marks]
  exact freesOnly_of_commitV hi.2.2 idle use d f

theorem commitVM_idle_frees {ws : List (Nat × (Nat → Word))} (hk : k c g = checked s c g use (commitVM s c g use g.exec ws)) :
    FreesOnly s c g (onGroup s k) freed := by
  rw [onGroup_checked hi hk ill nd ops, commitVM, if_pos idle, ← marks]
  exact freesOnly_marks hi.2.2 use.marks

omit marks in
theorem done_idle_frees {o : Out} (hk : k c g = checked s c g use (if g.exec = 0 then done s c (freeMarks g freed []) else o)) :
    FreesOnly s c g (onGroup s k) freed := by
  rw [onGroup_checked hi hk ill nd ops, if_pos idle]
  exact freesOnly_marks hi.2.2 freed

end

variable {d a b : R6} {la : Bool}

/-! ## Moves and constants -/

section
variable (hd : CanWriteV g d.toNat)
include hd

theorem movSpecial_idle (ha : a.toNat < 10) : FreesOnly s c g (exec (.movSpecial false d a) s) [] :=
  commitV_idle_frees hi idle rfl (decide_eq_false (Nat.not_le.2 ha)) rfl (by simp [Operands, hd]) rfl

theorem movG_idle (ha : CanReadG g a.toNat) : FreesOnly s c g (exec (.movG d a) s) [] :=
  commitV_idle_frees hi idle rfl rfl (notG_of_lt ha.1) (by simp [Operands, hd, ha]) rfl

theorem ldi_idle (imm : BitVec 18) : FreesOnly s c g (exec (.ldi false d imm) s) [] :=
  commitV_idle_frees hi idle rfl rfl rfl (by simp [Operands, hd]) rfl

theorem khi_idle (imm : BitVec 18) (reads : CanReadV g 0 d.toNat) : FreesOnly s c g (exec (.khi false d imm) s) [] :=
  commitV_idle_frees hi idle rfl rfl rfl (by simp [Operands, hd, canReadV_exec idle reads]) rfl

theorem fmtw_idle (hb : b.toNat < 32) : FreesOnly s c g (exec (.fmtw false d b) s) [] :=
  commitV_idle_frees hi idle rfl (getLsbD_five_of_lt hb) rfl (by simp [Operands, hd]) rfl

/-! ## Conversion (R151) -/

theorem cvt_idle {part : BitVec 2} {ws wd : Nat} (ha : CanReadV g 0 a.toNat) (src : elemWidth (moodSrc g.mood) = some ws)
    (dst : elemWidth (moodType g.mood) = some wd) (inside : part.toNat < cvtRatio ws wd) (merges : wd < ws → CanReadV g 0 d.toNat) :
    FreesOnly s c g (exec (.cvt false d a la part) s) (marked la a false 0) := by
  refine commitV_idle_frees (use := useV g d a 0 la false false false false) (d := d.toNat)
    (f := fun l => cvtWord g.mood ws wd part.toNat (readV g a.toNat l) (readV g d.toNat l)) hi idle rfl rfl rfl
    (by simp [Operands, useV, hd, canReadV_exec idle ha]) (congrArg (checked s c g _) ?_)
  simp only [src, dst, if_neg (Nat.not_le.2 inside), Bool.false_eq_true, if_false]
  refine checked_ok ?_ s c _
  split
  · next narrow => exact check_ok rfl rfl (by simp [Operands, canReadV_exec idle (merges narrow)])
  · exact check_ok rfl rfl (by simp [Operands])

end

/-! ## Addresses (R136) -/

theorem lea_idle {gb : BitVec 5} {li sx : Bool} {w : BitVec 3} (hgb : CanReadG g gb.toNat) (ha : CanReadV g 0 a.toNat) (even : d.toNat % 2 = 0)
    (low : CanWriteV g d.toNat) (high : CanWriteV g (d.toNat + 1)) (width : w ≠ 7) (unscaled : sx = false → w = 0) :
    FreesOnly s c g (exec (.lea false d gb a li sx w) s) (marked li a false 0) :=
  commitVM_idle_frees hi idle (by simp [marked]) (by simpa using ⟨width, unscaled⟩) (by simp [even])
    (by simp [Operands, hgb, canReadV_exec idle ha, low, high]) rfl

/-! ## The block transforms and packings (R155 to R157) -/

theorem hadOp_idle {inv : Bool} (evenA : a.toNat % 2 = 0) (evenD : d.toNat % 2 = 0) (evenB : b.toNat % 2 = 0) (low : b.toNat < 32)
    (writes : ∀ n ∈ [a.toNat, a.toNat + 1, d.toNat, d.toNat + 1], CanWriteV g n) (hb : CanWriteG g b.toNat) (hb1 : CanWriteG g (b.toNat + 1)) :
    FreesOnly s c g (hadOp inv d a b la s) (if la then [a.toNat, a.toNat + 1] else []) :=
  done_idle_frees hi idle rfl (by simp [evenA, evenD, evenB]; omega)
    (by simpa [Operands, idle, namesFrom_two, hb, hb1] using writes) rfl

theorem qpack_idle (even : a.toNat % 2 = 0) (writes : ∀ n ∈ [a.toNat, a.toNat + 1, d.toNat], CanWriteV g n) :
    FreesOnly s c g (exec (.qpack d a la) s) (if la then [a.toNat, a.toNat + 1] else []) :=
  done_idle_frees hi idle rfl (by simp [even]) (by simpa [Operands, idle, namesFrom_two] using writes) rfl

theorem qunpk_idle (block : moodType g.mood = 5 ∨ moodType g.mood = 6) (even : d.toNat % 2 = 0) (ha : CanReadV g 0 a.toNat)
    (low : CanWriteV g d.toNat) (high : CanWriteV g (d.toNat + 1)) :
    FreesOnly s c g (exec (.qunpk d a la) s) (marked la a false 0) :=
  commitVM_idle_frees hi idle (by simp [marked]) rfl (by simp [even]) (by simp [Operands, namesFrom_two, canReadV_exec idle ha, low, high])
    (congrArg (checked s c g _) (if_neg (by rcases block with h | h <;> simp [h])))

end

/-- Settles O23, family by family. -/
theorem emptyMask : Obligations.EmptyMask := by
  unfold Obligations.EmptyMask
  intro s c g hi idle
  refine ⟨fun pr e he d a b la lb im => form_idle hi idle he, fun d hd => ⟨fun a => movSpecial_idle hi idle hd, fun a => movG_idle hi idle hd,
    fun imm => ⟨ldi_idle hi idle hd imm, khi_idle hi idle hd imm⟩, fun b => fmtw_idle hi idle hd, fun a la part ws wd => cvt_idle hi idle hd⟩,
    fun d gb ix li sx w => lea_idle hi idle, fun d a b la evenA evenD evenB low writes hb hb1 => ⟨?_, ?_⟩, fun d a la => qpack_idle hi idle,
    fun d a la => qunpk_idle hi idle⟩
  · exact hadOp_idle hi idle evenA evenD evenB low writes hb hb1
  · exact hadOp_idle hi idle evenA evenD evenB low writes hb hb1

end Sys2Proof.Claims
end

section
/-! PROOFS. ld and st whose accesses pass every check, the race detector's among them (R161 to R163, R299). -/

namespace Sys2Proof.Claims
open Sys2Proof.Machine

/-! ## The race check (R299) -/

/-- A live stamp of another clause run has a byte of a mask. -/
def stampHits (s : State) (inst : Nat) (m : BitVec 32) (x : Stamp) : Bool := liveStamp s x && x.group != inst && x.mask &&& m != 0

theorem conflictOf_eq_none_iff (s : State) (inst sec : Nat) (isStore : Bool) (m : BitVec 32) :
    conflictOf s inst isStore sec m = none ↔ stampHits s inst m (recOf s sec).w = false ∧
      (isStore = true → stampHits s inst m (recOf s sec).ra = false ∧ stampHits s inst m (recOf s sec).rb = false) := by
  have unfolded : conflictOf s inst isStore sec m =
      if stampHits s inst m (recOf s sec).w then some ((recOf s sec).w, true)
      else if !isStore then none
      else if stampHits s inst m (recOf s sec).ra then some ((recOf s sec).ra, false)
      else if stampHits s inst m (recOf s sec).rb then some ((recOf s sec).rb, false)
      else none := rfl
  rw [unfolded]
  cases stampHits s inst m (recOf s sec).w <;> cases isStore <;> cases stampHits s inst m (recOf s sec).ra <;>
    cases stampHits s inst m (recOf s sec).rb <;> simp

theorem stampHits_of_within {s : State} {inst : Nat} {m k : BitVec 32} {x : Stamp} (within : m ||| k = m) (miss : stampHits s inst m x = false) :
    stampHits s inst k x = false := by
  simp only [stampHits, Bool.and_eq_false_iff, bne_eq_false_iff_eq] at miss ⊢
  refine miss.imp_right fun apart => ?_
  have both : x.mask &&& (m ||| k) = (x.mask &&& m) ||| (x.mask &&& k) := BitVec.and_or_distrib_left
  rw [within, apart] at both
  simpa using both.symm

/-- Fewer bytes touched make no conflict. -/
theorem conflictOf_none_of_within {s : State} {inst sec : Nat} {isStore : Bool} {m k : BitVec 32} (within : m ||| k = m)
    (clear : conflictOf s inst isStore sec m = none) : conflictOf s inst isStore sec k = none := by
  rw [conflictOf_eq_none_iff] at clear ⊢
  exact ⟨stampHits_of_within within clear.1, fun store => ⟨stampHits_of_within within (clear.2 store).1, stampHits_of_within within (clear.2 store).2⟩⟩

/-- One access among the sectors touched. -/
def touch (n : Nat) (t : Table (BitVec 32)) (a : Acc) : Table (BitVec 32) :=
  tset t (a.addr / 32) (tgetD t (a.addr / 32) 0 ||| sectorMask a.addr n)

theorem sectorsOf_eq_foldl (as : List Acc) (n : Nat) : sectorsOf as n = as.foldl (touch n) [] := rfl

/-- The table holds the bytes k of a sector. -/
def Touched (t : Table (BitVec 32)) (sec : Nat) (k : BitVec 32) : Prop := ∃ m, tget t sec = some m ∧ m ||| k = m

theorem touched_touch (n : Nat) (t : Table (BitVec 32)) (a : Acc) : Touched (touch n t a) (a.addr / 32) (sectorMask a.addr n) :=
  ⟨_, tget_tset_same t _ _, by rw [BitVec.or_assoc, BitVec.or_self]⟩

theorem Touched.touch {t : Table (BitVec 32)} {sec : Nat} {k : BitVec 32} (h : Touched t sec k) (n : Nat) (a : Acc) :
    Touched (touch n t a) sec k := by
  obtain ⟨m, hm, within⟩ := h
  by_cases same : sec = a.addr / 32
  · subst same
    refine ⟨_, tget_tset_same t _ _, ?_⟩
    rw [tgetD, hm, Option.getD_some, BitVec.or_assoc, BitVec.or_comm _ k, ← BitVec.or_assoc, within]
  · exact ⟨m, (tget_tset_ne t _ same).trans hm, within⟩

theorem Touched.foldl {n : Nat} {t : Table (BitVec 32)} {sec : Nat} {k : BitVec 32} (h : Touched t sec k) (as : List Acc) :
    Touched (as.foldl (Claims.touch n) t) sec k := by
  induction as generalizing t with
  | nil => exact h
  | cons a as ih => exact ih (h.touch n a)

/-- The sectors that some accesses touch hold each of those accesses' bytes. -/
theorem touched_sectorsOf {as : List Acc} {a : Acc} (ha : a ∈ as) (n : Nat) : Touched (sectorsOf as n) (a.addr / 32) (sectorMask a.addr n) := by
  rw [sectorsOf_eq_foldl]
  generalize ([] : Table (BitVec 32)) = t
  induction as generalizing t with
  | nil => cases ha
  | cons b as ih =>
    rcases List.mem_cons.1 ha with rfl | later
    · exact (touched_touch n t a).foldl as
    · exact ih later _

theorem mem_of_tget {α : Type} {t : Table α} {k : Nat} {v : α} (h : tget t k = some v) : (k, v) ∈ t := by
  induction t with
  | nil => cases h
  | cons e t ih =>
    obtain ⟨j, w⟩ := e
    rw [tget] at h
    split at h
    · next same =>
      cases h
      exact same ▸ List.mem_cons_self
    · exact List.mem_cons_of_mem _ (ih h)

theorem raceChk_ok {s : State} {g : Group} {isStore : Bool} {n : Nat} {hot : List Acc} (free : RaceFree s g isStore n hot) :
    raceChk s g isStore hot n = .ok := by
  have quiet : (hot.find? fun a => (recOf s (a.addr / 32)).holder != some g.core ||
      (conflictOf s g.inst isStore (a.addr / 32) (sectorMask a.addr n)).isSome) = none := by
    refine List.find?_eq_none.2 fun a ha => ?_
    obtain ⟨m, hm, within⟩ := touched_sectorsOf ha n
    obtain ⟨held, clear⟩ := free _ (mem_of_tget hm)
    simp [held, conflictOf_none_of_within within clear]
  simp only [raceChk, quiet]

/-! ## The common course of an instruction that the race detector looks at -/

theorem lanesChk_of_found {f : Nat → LaneChk} {as : Nat → List Acc} {rts : Nat → List Nat} {ls : List Nat} (h : ∀ l ∈ ls, f l = .ok (as l) (rts l)) :
    lanesChk f ls = (ls.flatMap as, ls.flatMap rts, none) := by
  induction ls with
  | nil => rfl
  | cons l ls ih => simp [lanesChk, h l List.mem_cons_self, ih fun k hk => h k (List.mem_cons_of_mem l hk)]

theorem freeMarks_res (g : Group) (marks keep : List Nat) : (freeMarks g marks keep).res = g.res := rfl
theorem addPend_res (g : Group) (wv wg : List Nat) : (addPend g wv wg).res = g.res := rfl
theorem incFlag_res (g : Group) (f : Nat) : (incFlag g f).res = g.res := rfl
theorem allocV_res (g : Group) (k : Nat) (wv : List Nat) : (allocV g k wv).res = g.res := rfl

theorem counted_res (g : Group) (k f : Nat) (wv wg marks : List Nat) :
    (bump (stepPast (freeMarks (addPend (incFlag { allocV g k wv with walkFault := none } f) wv wg) marks wv))).res = g.res := by
  rw [bump_res, stepPast_res, freeMarks_res, addPend_res, incFlag_res, allocV_res]

theorem acceptMem_raced {s : State} {c : Nat} {g : Group} (running : g.res = .running) (use : Use) {f : MemForm} {isStore : Bool}
    (race : f.race = some isStore) (noAcq : f.acq = false) (noRel : f.rel = false) (space : f.space ≠ .scratch) (as : List Acc) (rt : List Nat)
    {hot : List Acc} (hhot : hot = as.filter fun a => rt.contains a.lane) :
    MemAccepted c (stamped s g isStore f.size hot, g) (acceptMem s c g use f as rt) f use.marks as := by
  subst hhot
  refine ⟨_, ?_, counted_acceptMem g s.nextKey (flagSel g f.fs) f.wv f.gd.toList use.marks⟩
  simp only [acceptMem, race, noAcq, noRel, Bool.or_self, Bool.false_eq_true, if_false]
  rw [putGroup_running ((counted_res g _ _ _ _ _).trans running), if_neg (by simp [space])]
  rfl

theorem memIssue_raced {s : State} {c : Nat} {g : Group} (running : g.res = .running) {use : Use} {f : MemForm} {isStore : Bool}
    (race : f.race = some isStore) (noAcq : f.acq = false) (noRel : f.rel = false) (space : f.space ≠ .scratch)
    (acts : f.u = false → g.exec ≠ 0) (ill : use.ill = false) (nd : use.nd = false)
    (ops : Operands g use.lanes use.rv use.wv use.rg use.wg) (hf : FlagFree g f.fs (flagSel g f.fs))
    (room : needs g f.wv ≤ pipeFree s g.core g.part g.slot) {lane : Nat → LaneChk} {as : Nat → Acc} {rt : Nat → Bool}
    (chk : ∀ l ∈ acting g f.u, lane l = .ok [as l] (if rt l then [l] else [])) (sameLane : ∀ l, (as l).lane = l) (addr : Nat → DWord)
    {hot : List Acc} (hhot : hot = detected s rt ((acting g f.u).map as)) (free : RaceFree s g isStore f.size hot) :
    MemAccepted c (stamped s g isStore f.size hot, g) (memIssue s c g use f none addr lane) f use.marks ((acting g f.u).map as) := by
  obtain ⟨hrv, hwv, hrg, hwg⟩ := ops
  have active : ¬ (!f.u && decide (g.exec = 0)) = true := by cases hu : f.u <;> simp_all
  have flag : noFlag g f.fs = false := by simp [noFlag, hf.2.1]
  have looked : ((acting g f.u).map as).filter (fun a =>
      (if featOn s 9 = true then (acting g f.u).flatMap fun l => if rt l then [l] else [] else []).contains a.lane) = hot := by
    rw [hhot, detected]
    split
    · refine List.filter_congr fun a ha => ?_
      obtain ⟨l, hl, rfl⟩ := List.mem_map.1 ha
      rw [sameLane, Bool.eq_iff_iff]
      simp only [List.contains_iff_mem, List.mem_flatMap, List.mem_ite_nil_right, List.mem_singleton]
      exact ⟨fun ⟨k, _, hk, same⟩ => same ▸ hk, fun h => ⟨l, hl, h, rfl⟩⟩
    · exact filter_no_lane _
  have issued : memIssue s c g use f none addr lane = acceptMem s c g use f ((acting g f.u).map as)
      (if featOn s 9 = true then (acting g f.u).flatMap fun l => if rt l then [l] else [] else []) := by
    rw [memIssue, if_neg active, accepted_none (u := { use with ill := use.ill || noFlag g f.fs }) (by simp [ill, flag]) nd hrv hwv hrg hwg hf]
    simp only [lanes_eq_acting, lanesChk_of_found chk, race, Option.isSome_some, Bool.and_true, Option.getD_some, ← List.map_eq_flatMap, looked,
      raceChk_ok free, withRegs_room room]
  rw [issued]
  exact acceptMem_raced running use race noAcq noRel space _ _ looked.symm

/-- Whether the race detector looks at an instruction is no part of what is entered for it. -/
theorem memAccepted_of_race {c : Nat} {r : State × Group} {o : Out} {f : MemForm} {freed : List Nat} {as : List Acc} {race : Option Bool}
    (h : MemAccepted c r o { f with race := race } freed as) : MemAccepted c r o f freed as := h

/-! ## ld and st -/

section
variable {s : State} {c : Nat} {g : Group} {u : Bool} {d : R6} {gb : BitVec 5} {ix : R6} {ld li sx fs : Bool} {w : BitVec 3}
  (hi : Issues s c g) (hw : w ≠ 7) (hf : FlagFree g fs (flagSel g fs)) {n : Nat} (hn : n = widthOf w) {pa : Nat → Nat} {rt : Nat → Bool}
include hi hw hf hn

/-- The accesses of the lanes that act, each where its check puts it. -/
def GlobalAccs (s : State) (g : Group) (isStore u : Bool) (d : R6) (gb : BitVec 5) (ix : R6) (sx : Bool) (n : Nat) (pa : Nat → Nat) (l : Nat) : Acc :=
  globalAcc s g isStore l (memAddr g u gb ix sx n l) (pa l) (if isStore then laneBytes g u d.toNat n l else [])

section
variable {hot : List Acc}

theorem st_accepted (ho : MemOperands g u d gb ix true ld li n)
    (goes : ∀ l ∈ acting g u, GoesTo s g true true n (memAddr g u gb ix sx n l) (pa l) (rt l))
    (hhot : hot = detected s rt ((acting g u).map (GlobalAccs s g true u d gb ix sx n pa))) (free : RaceFree s g true n hot) :
    MemAccepted c (stamped s g true n hot, g) (exec (.st u d gb ix ld li sx fs w) s)
      { word := wordOf (.st u d gb ix ld li sx fs w), kind := .store, space := .global, u := u, fs := fs, size := n, race := some true }
      (if u then [] else memMarks d.toNat n ix ld li) ((acting g u).map (GlobalAccs s g true u d gb ix sx n pa)) := by
  subst hn
  obtain ⟨ill, nd, ops⟩ := useM_ok hw ho rfl
  simp only [exec_st, execSt, storeOp, widthBytes_eq_widthOf, fmAddr_eq_memAddr, storeData_widthOf]
  rw [onGroup_run hi.1 hi.2.1 hi.2.2, ← useM_marks_store g u d gb]
  exact memIssue_raced (rt := rt) (use := useM g u d gb ix true ld li w)
    (f := { word := wordOf (.st u d gb ix ld li sx fs w), kind := .store, space := .global, u := u, fs := fs, size := widthOf w, race := some true })
    hi.2.2 rfl rfl rfl Space.noConfusion ho.active ill nd ops hf (Nat.zero_le _) (fun l hl => globalLane_of_goesTo (goes l hl) l _)
    (fun _ => rfl) _ hhot free

theorem ld_accepted (ho : MemOperands g u d gb ix false ld li n) (room : u = false → RoomFor s g (dataNames d.toNat n))
    (goes : ∀ l ∈ acting g u, GoesTo s g false true n (memAddr g u gb ix sx n l) (pa l) (rt l))
    (hhot : hot = detected s rt ((acting g u).map (GlobalAccs s g false u d gb ix sx n pa))) (free : RaceFree s g false n hot) :
    MemAccepted c (stamped s g false n hot, g) (exec (.ld u d gb ix li sx fs w) s)
      { word := wordOf (.ld u d gb ix li sx fs w), kind := .load (w = 0 || w = 2), space := .global, u := u, fs := fs, size := n,
        wv := if u then [] else dataNames d.toNat n, gd := if u then some d.toNat else none, race := some false }
      (if li then [ix.toNat] else []) ((acting g u).map (GlobalAccs s g false u d gb ix sx n pa)) := by
  subst hn
  obtain ⟨ill, nd, ops⟩ := useM_ok hw (memOperands_unmarked ho) rfl
  have fits : needs g (if u then [] else dataNames d.toNat (widthOf w)) ≤ pipeFree s g.core g.part g.slot := by
    cases u with
    | true => exact Nat.zero_le _
    | false => exact needs_le_of_roomFor (room rfl)
  simp only [exec_ld, execLd, loadOp, widthBytes_eq_widthOf, fmAddr_eq_memAddr, memNames_widthOf]
  rw [onGroup_run hi.1 hi.2.1 hi.2.2, ← useM_marks_load w ho]
  exact memIssue_raced (rt := rt) (use := useM g u d gb ix false false li w)
    (f := { word := wordOf (.ld u d gb ix li sx fs w), kind := .load (w = 0 || w = 2), space := .global, u := u, fs := fs, size := widthOf w
            wv := if u then [] else dataNames d.toNat (widthOf w), gd := if u then some d.toNat else none, race := some false })
    hi.2.2 rfl rfl rfl Space.noConfusion ho.active ill nd ops hf fits (fun l hl => globalLane_of_goesTo (goes l hl) l _)
    (fun _ => rfl) _ hhot free

end

end

/-- Settles O24: the lanes' checks find the accesses, and the race detector's then find nothing. -/
theorem globalAccess : Obligations.GlobalAccess := by
  unfold Obligations.GlobalAccess
  intro s c g u d gb ix ld li sx fs w hi hw hf n hn pa rt isStore ho goes as has hot hhot free
  subst has
  refine ⟨fun store => ?_, fun load room => ?_⟩
  · subst store
    exact memAccepted_of_race (st_accepted hi hw hf hn ho goes hhot free)
  · subst load
    exact memAccepted_of_race (ld_accepted hi hw hf hn ho room goes hhot free)

end Sys2Proof.Claims
end

section
/-! PROOFS. The copies, the matrix array, the slots and the chains accept legal operands (R180 to R192), and the acceptance checks that trap (R392). -/

namespace Sys2Proof.Claims
open Sys2Proof.Machine

/-! ## The command's operands, and a product's operands -/

/-- Below the page engine's opcodes no operand names a handle or a request. -/
theorem cmdOf_low {s : State} {c : Nat} {g : Group} {f : EForm} (low : f.op < 0x60) : (cmdOf s c g f).a = f.a ∧ (cmdOf s c g f).b = f.b := by
  have own : ownOperands s (tenantOf s g.launch) f.op f.a f.b = (f.a, f.b) := by
    rw [ownOperands, if_neg (by simp; omega), if_neg (by simp; omega), if_neg (by simp; omega)]
  exact ⟨congrArg Prod.fst own, congrArg Prod.snd own⟩

theorem isDsb_iff (t : Nat) : isDsb t = true ↔ t = 5 ∨ t = 6 := by simp [isDsb]

section
variable {s : State} {w a b f : Nat} (legal : ProductLegal s w a b f)
include legal

theorem fmtValid_of_product : fmtValid f = true := by
  obtain ⟨x, y, hx, hy, low, pair, -⟩ := legal
  have high : nfld f 9 4 = 0 := by rw [nfld]; omega
  have typeA : fmtA f = x := by rw [hx, fmtA, nfld, Nat.pow_zero, Nat.div_one]
  have typeB : fmtB f = y := hy.symm
  simp only [List.mem_cons, List.not_mem_nil, or_false] at pair
  simp only [fmtValid, typeA, typeB, high, Bool.and_eq_true, Bool.or_eq_true, decide_eq_true_eq, and_true, or_self, or_assoc]
  exact ⟨low.trans (by decide), pair⟩

/-- Either type of a product is a dual-scale one only where both are. -/
theorem isDsb_of_product : (isDsb (fmtA f) = true → f % 2 ^ 4 = 5 ∨ f % 2 ^ 4 = 6) ∧ (isDsb (fmtB f) = true → f % 2 ^ 4 = 5 ∨ f % 2 ^ 4 = 6) := by
  obtain ⟨x, y, rfl, rfl, low, pair, -⟩ := legal
  simp only [List.mem_cons, List.not_mem_nil, or_false] at pair
  simp only [isDsb_iff, fmtA, fmtB, nfld]
  omega

theorem dsbOdd_of_product : dsbOdd a b f = false := by
  obtain ⟨dualA, dualB⟩ := isDsb_of_product legal
  obtain ⟨x, y, rfl, rfl, -, -, even, -⟩ := legal
  have noA : (isDsb (fmtA f) && decide (a % 2 = 1)) = false := by
    cases h : isDsb (fmtA f) with
    | false => rfl
    | true => simp [(even (dualA h)).1]
  have noB : (isDsb (fmtB f) && decide (b % 2 = 1)) = false := by
    cases h : isDsb (fmtB f) with
    | false => rfl
    | true => simp [(even (dualB h)).2.1]
  simp only [dsbOdd, noA, noB, Bool.or_self]

theorem held_of_product : ∀ i ∈ mmaSlots a b f, holdsSlot s w i = true := by
  obtain ⟨dualA, dualB⟩ := isDsb_of_product legal
  obtain ⟨x, y, rfl, rfl, -, -, even, heldA, heldB⟩ := legal
  intro i hi
  simp only [mmaSlots, List.mem_append, List.mem_cons, List.not_mem_nil, or_false] at hi
  rcases hi with ((rfl | rfl) | hi) | hi
  · exact heldA
  · exact heldB
  · split at hi
    · next dual => rw [List.mem_singleton.mp hi]; exact (even (dualA dual)).2.2.1
    · simp at hi
  · split at hi
    · next dual => rw [List.mem_singleton.mp hi]; exact (even (dualB dual)).2.2.2
    · simp at hi

end

@[simp] theorem chkSlots_eq_ok {s : State} {w : Nat} {l : List Nat} : chkSlots s w l = .ok ↔ ∀ i ∈ l, holdsSlot s w i = true := by
  simp [chkSlots]

/-! ## copy and copyf -/

section
variable {s : State} {w : Nat} {x : Cmd}

/-- The checks of a copy, given what its geometry is: whether it reads and writes the scratchpad or a slot. -/
theorem chkCopy_of_facts (nd : copyNd s w x = false) (type : x.op = opCopyf → fmtValid (nfld x.c.toNat 0 13) = true)
    (slots : ∀ i ∈ slotsWritten x ++ slotsRead x, holdsSlot s w i = true) (alignedA : x.a.toNat % 16 = 0)
    (alignedB : copyDstSlot x.op x.sub = false → x.b.toNat % 128 = 0)
    (source : if copySrcSpad x.op x.sub then InSpad s w x.a.toNat (copySpan x) else OffWindow x.a.toNat)
    (dest : copyDstSlot x.op x.sub = false → if copyDstSpad x.op x.sub then InSpad s w x.b.toNat (128 * copyUnits x) else OffWindow x.b.toNat)
    (one : copyDstSlot x.op x.sub = true → copyDstSpad x.op x.sub = false) : chkCopy s w x = .ok := by
  simp only [chkCopy, then_eq_ok, chkIf_eq_ok, chkSlots_eq_ok]
  refine ⟨nd, ?_, slots, by simp [alignedA], ?_, ?_, ?_, ?_, ?_⟩
  · by_cases h : x.op = opCopyf
    · simp [type h]
    · simp [h]
  · cases h : copyDstSlot x.op x.sub with
    | true => rfl
    | false => simp [alignedB h]
  · cases h : copySrcSpad x.op x.sub with
    | true => simpa [h] using source
    | false => rfl
  · cases h : copyDstSpad x.op x.sub with
    | false => rfl
    | true =>
      cases hs : copyDstSlot x.op x.sub with
      | true => simp [one hs] at h
      | false => simpa [h] using dest hs
  · cases h : copySrcSpad x.op x.sub with
    | true => rfl
    | false => simpa [h] using source
  · cases hs : copyDstSlot x.op x.sub with
    | true => simp
    | false => cases h : copyDstSpad x.op x.sub with
      | true => simp
      | false => simpa [h] using dest hs

/-- copyf of a legal slice (R184). -/
theorem chkCopy_copyf (op : x.op = 0x59) (legal : CopyLegal s w x.op x.sub x.a.toNat x.b.toNat x.c.toNat) : chkCopy s w x = .ok := by
  obtain ⟨rows, rowl, stride, shape, fromSpad, toSpad, toSlot, hfrom, hspad, hslot, whole, alignedA, source, dest, product⟩ := legal
  rw [if_pos op] at shape
  obtain ⟨rfl, rfl, rfl⟩ := shape
  rw [if_pos op] at hfrom
  have isSlot : toSlot = true := hslot.mpr (.inl op)
  rw [if_pos isSlot] at dest
  obtain ⟨lowB, zero, fits, -, held⟩ := dest
  obtain ⟨operand, tile, product⟩ := product op
  have isCopyf : x.op = opCopyf := op
  have src : copySrcSpad x.op x.sub = fromSpad := by
    rw [Bool.eq_iff_iff, hfrom]; simp [copySrcSpad, isCopyf]
  have dst : copyDstSpad x.op x.sub = false := by simp [copyDstSpad, op, opCopy]
  have slot : copyDstSlot x.op x.sub = true := by simp [copyDstSlot, isCopyf]
  have rows' : copyRows x = x.c.toNat / 2 ^ 42 % 2 ^ 6 + 1 := by rw [copyRows, if_pos isCopyf]; rfl
  have rowl' : copyRowl x = 1 := by rw [copyRowl, if_pos isCopyf]
  have stride' : copyStride x = 16 * (x.c.toNat / 2 ^ 28 % 2 ^ 14) := by rw [copyStride, if_pos isCopyf]; rfl
  have word : nfld x.c.toNat 0 13 = x.c.toNat % 2 ^ 13 := by rw [nfld, Nat.pow_zero, Nat.div_one]
  have slotNo : nfld x.b.toNat 0 5 = x.b.toNat % 2 ^ 5 := by rw [nfld, Nat.pow_zero, Nat.div_one]
  have valid := fmtValid_of_product product
  have even : dsbOdd (nfld x.c.toNat 18 5) (nfld x.c.toNat 13 5) (x.c.toNat % 2 ^ 13) = false := dsbOdd_of_product product
  refine chkCopy_of_facts ?nd (fun _ => word ▸ valid) ?slots alignedA (fun no => by simp [slot] at no) ?source (fun no => by simp [slot] at no)
    (fun _ => dst)
  case nd =>
    have low : (fromSpad && decide (2 ^ 32 ≤ x.a.toNat)) = false := by
      cases h : fromSpad with
      | false => rfl
      | true => rw [h, if_pos rfl] at source; exact decide_eq_false (Nat.not_le.mpr source.1)
    have named : ([nfld x.c.toNat 18 5, nfld x.c.toNat 13 5].contains (nfld x.b.toNat 0 5)) = true := by
      simpa [slotNo, nfld] using operand
    have tileIn : ¬ wgTiles s w ≤ copyfTile x := Nat.not_le.mpr tile
    have fits' : ¬ 64 < nfld x.b.toNat 8 6 + copyRows x := by rw [rows']; exact Nat.not_lt.mpr fits
    have zero' : nfld x.b.toNat 5 3 = 0 := zero
    rw [copyNd]
    simp only [src, dst, slot, low, named, tileIn, fits', zero', rowl', word, stride', whole, Nat.not_le.mpr lowB, ne_eq, not_true_eq_false, decide_false,
      Bool.false_and, Bool.or_self, Bool.and_false, Bool.not_true, even]
  case slots =>
    intro i hi
    simp only [slotsWritten, slotsRead, isCopyf, show opCopyf ≠ opMma from by decide, if_false, if_true, List.mem_append,
      decide_true, Bool.true_or, List.mem_singleton, slotNo, word] at hi
    rcases hi with rfl | hi
    · exact held
    · exact held_of_product product i hi
  case source =>
    rw [src, copySpan, rows', rowl', stride']
    split at source
    · next on => rw [if_pos on]; exact source.2
    · next off => rw [if_neg off]; exact source

/-- copy of a legal slice (R181). -/
theorem chkCopy_copy (op : x.op = 0x58) (legal : CopyLegal s w x.op x.sub x.a.toNat x.b.toNat x.c.toNat) : chkCopy s w x = .ok := by
  obtain ⟨rows, rowl, stride, shape, fromSpad, toSpad, toSlot, hfrom, hspad, hslot, whole, alignedA, source, dest, -⟩ := legal
  have notF : ¬ x.op = 0x59 := by rw [op]; decide
  have notCopyf : ¬ x.op = opCopyf := notF
  have isCopy : x.op = opCopy := op
  rw [if_neg notF] at shape hfrom
  obtain ⟨rfl, rfl, rfl⟩ := shape
  have src : copySrcSpad x.op x.sub = fromSpad := by
    rw [Bool.eq_iff_iff, hfrom]; simp [copySrcSpad, notCopyf, or_assoc]
  have dst : copyDstSpad x.op x.sub = toSpad := by
    rw [Bool.eq_iff_iff, hspad]; simp [copyDstSpad, isCopy, opCopy]
  have slot : copyDstSlot x.op x.sub = toSlot := by
    rw [Bool.eq_iff_iff, hslot]; simp [copyDstSlot, notCopyf, notF]
  have apart : toSlot = true → toSpad = false := fun h => by
    have := hslot.mp h
    rw [Bool.eq_false_iff, ne_eq, hspad]
    omega
  have rows' : copyRows x = x.c.toNat / 2 ^ 40 % 2 ^ 8 + 1 := by rw [copyRows, if_neg notCopyf]; rfl
  have rowl' : copyRowl x = x.c.toNat / 2 ^ 32 % 2 ^ 8 + 1 := by rw [copyRowl, if_neg notCopyf]; rfl
  have stride' : copyStride x = x.c.toNat % 2 ^ 32 := by rw [copyStride, if_neg notCopyf, nfld, Nat.pow_zero, Nat.div_one]
  have slotNo : nfld x.b.toNat 0 5 = x.b.toNat % 2 ^ 5 := by rw [nfld, Nat.pow_zero, Nat.div_one]
  refine chkCopy_of_facts ?nd (fun no => absurd no notCopyf) ?slots alignedA (fun no => ?alignedB) ?source (fun no => ?dest)
    (fun h => by rw [dst]; rw [slot] at h; exact apart h)
  case nd =>
    have lowA : (fromSpad && decide (2 ^ 32 ≤ x.a.toNat)) = false := by
      cases h : fromSpad with
      | false => rfl
      | true => rw [h, if_pos rfl] at source; exact decide_eq_false (Nat.not_le.mpr source.1)
    have lowB : (toSpad && decide (2 ^ 32 ≤ x.b.toNat)) = false := by
      cases h : toSpad with
      | false => rfl
      | true =>
        have noSlot : toSlot = false := Bool.eq_false_iff.mpr fun on => by simp [apart on] at h
        rw [if_neg (by simp [noSlot]), h, if_pos rfl] at dest
        exact decide_eq_false (Nat.not_le.mpr dest.2.1)
    have slotW : (toSlot && (decide (2 ^ 14 ≤ x.b.toNat) || decide (nfld x.b.toNat 5 3 ≠ 0) || decide (64 < nfld x.b.toNat 8 6 + copyRows x) ||
        decide (copyRowl x ≠ 1))) = false := by
      cases h : toSlot with
      | false => rfl
      | true =>
        rw [h, if_pos rfl] at dest
        obtain ⟨low, zero, fits, one, -⟩ := dest
        have zero' : nfld x.b.toNat 5 3 = 0 := zero
        have fits' : ¬ 64 < nfld x.b.toNat 8 6 + copyRows x := by rw [rows']; exact Nat.not_lt.mpr fits
        simp only [Nat.not_le.mpr low, zero', fits', rowl'.trans one, ne_eq, not_true_eq_false, decide_false, Bool.or_self, Bool.and_false]
    simp only [copyNd, src, dst, slot, lowA, lowB, slotW, stride', whole, notCopyf, ne_eq, not_true_eq_false, decide_false, Bool.false_and, Bool.or_self]
  case slots =>
    intro i hi
    simp only [slotsWritten, slotsRead, op, opCopy, opMma, decide_true, decide_false, Bool.false_or, Bool.true_and, Bool.or_eq_true,
      decide_eq_true_eq, List.append_nil, show ¬ (0x58 = 0x5A) from by decide, show ¬ (0x58 = opCopyf) from by decide, if_false, slotNo] at hi
    split at hi
    · next into =>
      have on : toSlot = true := hslot.mpr (.inr into)
      rw [if_pos on] at dest
      rw [List.mem_singleton.mp hi]
      exact dest.2.2.2.2
    · simp at hi
  case alignedB =>
    rw [slot] at no
    rw [if_neg (by simp [no])] at dest
    exact dest.1
  case source =>
    rw [src, copySpan, rows', rowl', stride']
    split at source
    · next on => rw [if_pos on]; exact source.2
    · next off => rw [if_neg off]; exact source
  case dest =>
    rw [slot] at no
    rw [if_neg (by simp [no])] at dest
    rw [dst]
    split
    · next on =>
      have plain : copyXa x = false := by
        have := (hspad.mp on).2
        simp only [copyXa, Bool.and_eq_false_iff, decide_eq_false_iff_not]
        omega
      rw [if_pos on] at dest
      rw [copyUnits, rows', rowl', plain, if_neg (by decide), Nat.mul_one]
      exact dest.2.2
    · next off => rw [if_neg off] at dest; exact dest.2

end

/-- The forms of copy and copyf take their course by opcode and sub-op. -/
theorem copyForms_run {e : EWord3 × Nat × Nat} (listed : e ∈ copyForms) (ga gb gc : BitVec 5) (fs : Bool) (sc : BitVec 2) (acq rel : Bool) (s : State) :
    exec (e.1 ga gb gc fs sc acq rel) s = copyOp e.2.1 e.2.2 ga gb gc fs sc acq rel (wordOf (e.1 ga gb gc fs sc acq rel)) s ∧
      (e.2.1 = 0x58 ∨ e.2.1 = 0x59) := by
  simp only [copyForms, List.mem_cons, List.not_mem_nil, or_false] at listed
  rcases listed with rfl | rfl | rfl | rfl | rfl | rfl | rfl | rfl | rfl <;> exact ⟨rfl, by decide⟩

/-- Settles O29: a copy takes the common course of an engine instruction, and its checks find nothing on a legal slice. -/
theorem copiesAccepted : Obligations.CopiesAccepted := by
  unfold Obligations.CopiesAccepted
  intro e listed s c g ga gb gc fs sc acq rel hi f hf ready legal
  obtain ⟨run, isCopy⟩ := copyForms_run listed ga gb gc fs sc acq rel s
  have hop : f.op = e.2.1 := by rw [hf]; rfl
  obtain ⟨ha, hb⟩ : (cmdOf s c g f).a = f.a ∧ (cmdOf s c g f).b = f.b := cmdOf_low (by omega)
  have legal' : CopyLegal s g.wg (cmdOf s c g f).op (cmdOf s c g f).sub (cmdOf s c g f).a.toNat (cmdOf s c g f).b.toNat (cmdOf s c g f).c.toNat := by
    rw [ha, hb, show (cmdOf s c g f).op = e.2.1 from hop, show (cmdOf s c g f).sub = e.2.2 from by rw [hf]; rfl]
    exact legal
  have ok : chkCopy s g.wg (cmdOf s c g f) = .ok := by
    rcases isCopy with copy | copyf
    · exact chkCopy_copy (hop.trans copy) legal'
    · exact chkCopy_copyf (hop.trans copyf) legal'
  have issued : copyOp e.2.1 e.2.2 ga gb gc fs sc acq rel (wordOf (e.1 ga gb gc fs sc acq rel)) s =
      engIssue s c g (useE [ga.toNat, gb.toNat, gc.toNat] f.resG) f (chkCopy s g.wg (cmdOf s c g f)) enterCopy := by
    subst hf
    exact onGroup_run hi.1 hi.2.1 hi.2.2 _
  rw [run, issued]
  exact engIssue_accepted hi.2.2 ready rfl (by rw [hf]; rfl) ok enterCopy

/-! ## mma, accld and accst -/

section
variable {s : State} {w : Nat} {x : Cmd}

theorem chkAcc_of_legal (legal : AccLegal s w x.op x.sub x.a.toNat x.b.toNat x.c.toNat) : chkAcc s w x = .ok := by
  obtain ⟨row, rfl, lowA, tile, lowC, type, toLoad, whole, wide, aligned, place⟩ := legal
  have stride : accStride x = x.c.toNat % 2 ^ 32 := by rw [accStride, nfld, Nat.pow_zero, Nat.div_one]
  have tileNo : accTile x = x.a.toNat := by rw [accTile, nfld]; omega
  have rowLen : accRow x = if x.c.toNat / 2 ^ 32 % 2 ^ 4 = 0 then 256 else 128 := rfl
  have load : (decide (x.op = opAccld) && accType x != 0) = false := by
    by_cases h : x.op = 0x5B
    · have f32 : accType x = 0 := toLoad h
      simp [f32]
    · simp [show ¬ x.op = opAccld from h]
  simp only [chkAcc, then_eq_ok, chkIf_eq_ok, load, stride, tileNo, rowLen, Nat.not_le.mpr lowA, Nat.not_le.mpr tile, Nat.not_le.mpr lowC,
    show ¬ 2 < accType x from Nat.not_lt.mpr type, whole, Nat.not_lt.mpr wide, aligned, ne_eq, not_true_eq_false, decide_false, Bool.or_self, Bool.false_or]
  split at place
  · next spad =>
    have low : ¬ 2 ^ 32 ≤ x.b.toNat := Nat.not_le.mpr place.1
    simp only [spad, low, decide_true, decide_false, Bool.and_false, if_true, chkSpad_eq_ok, place.2, and_self]
  · next global =>
    simp only [global, decide_false, Bool.false_and, Bool.false_eq_true, if_false, chkFab_eq_ok, place, and_self]

end

theorem accForms_run {e : EWord3 × Nat × Nat} (listed : e ∈ accForms) (ga gb gc : BitVec 5) (fs : Bool) (sc : BitVec 2) (acq rel : Bool) (s : State) :
    exec (e.1 ga gb gc fs sc acq rel) s = accOp e.2.1 e.2.2 ga gb gc fs sc acq rel (wordOf (e.1 ga gb gc fs sc acq rel)) s ∧
      (e.2.1 = 0x5B ∨ e.2.1 = 0x5C) := by
  simp only [accForms, List.mem_cons, List.not_mem_nil, or_false] at listed
  rcases listed with rfl | rfl | rfl | rfl <;> exact ⟨rfl, by decide⟩

/-- With a lane active, the lanes that agree on a word give it (R185). -/
theorem agreed_of_all {g : Group} {n : Nat} {w : Word} (active : g.exec ≠ 0) (same : ∀ l ∈ lanesOf g.exec, readV g n l = w) : agreed g n = some w := by
  have all : (lanesOf g.exec).map (fun l => readV g n l) = List.replicate (lanesOf g.exec).length w :=
    List.eq_replicate_iff.mpr ⟨List.length_map .., fun x hx => by
      obtain ⟨l, hl, rfl⟩ := List.mem_map.mp hx
      exact same l hl⟩
  have some_ : (lanesOf g.exec).length ≠ 0 := by
    obtain ⟨l, hl, on⟩ := (ne_zero_iff_bit g.exec).mp active
    have mem : l ∈ lanesOf g.exec := List.mem_filter.mpr ⟨by rw [lanes16_eq_range]; exact List.mem_range.mpr hl, on⟩
    exact Nat.ne_of_gt (List.length_pos_of_mem mem)
  obtain ⟨k, hk⟩ := Nat.exists_eq_succ_of_ne_zero some_
  simp only [agreed, all, hk, List.replicate_succ, List.headD_cons]
  simp [List.all_replicate]

/-- Active lanes that disagree give no word. -/
theorem agreed_none {g : Group} {n l k : Nat} (hl : l ∈ lanesOf g.exec) (hk : k ∈ lanesOf g.exec) (differ : readV g n l ≠ readV g n k) :
    agreed g n = none := by
  rw [agreed, if_neg]
  intro all
  have eq := fun j (hj : j ∈ lanesOf g.exec) => eq_of_beq (List.all_eq_true.mp all _ (List.mem_map_of_mem hj))
  exact differ ((eq l hl).trans (eq k hk).symm)

/-- The acceptance of an engine instruction whatever registers it names, where they can be read and written. -/
theorem engIssue_accepted_of_use {s : State} {c : Nat} {g : Group} {f : EForm} (hr : g.res = .running) {srcs : List Nat} (ready : EngineReady s g srcs f)
    {use : Use} (ill : use.ill = false) (nd : use.nd = false) (rv : ∀ n ∈ use.rv, CanReadV g use.lanes n) (wv : ∀ n ∈ use.wv, CanWriteV g n)
    (rg : use.rg = []) (wg : use.wg = []) (noHold : f.hold = false) {chk : EChk} (ok : chk = .ok) (enter : State → Nat → Cmd → State) :
    EngineAccepted s c g (engIssue s c g use f chk enter) f enter := by
  have legal := illE_of_ready ready
  obtain ⟨-, -, flag, -, -, -, room⟩ := ready
  subst ok
  rw [engIssue, show EChk.ok.isNd = false from rfl,
    accepted_none (u := { use with ill := use.ill || illE s g f }) (by simp [ill, legal]) nd rv wv (by simp [rg]) (by simp [wg]) flag]
  simp only [noHold, room, Bool.or_self, Bool.false_eq_true, if_false]
  exact acceptE_accepted hr f enter

section
variable {s : State} {c : Nat} {g : Group} (hi : Issues s c g) {acc sa sb vf : R6} (ha : acc.toNat < 32) (hsa : sa.toNat < 32) (hsb : sb.toNat < 32)
include hi ha hsa hsb

omit hi in
theorem mma_named : (decide (32 ≤ acc.toNat) || decide (32 ≤ sa.toNat) || decide (32 ≤ sb.toNat)) = false := by
  simp [ha, hsa, hsb]

theorem mma_idle (idle : g.exec = 0) : exec (.mma acc sa sb vf) s = engIssue s c g { wv := [vf.toNat] } { word := wordOf (.mma acc sa sb vf), op := 0x5A }
    (chkIf (decide (wgTiles s g.wg ≤ acc.toNat)) .illopnd 0) (enterMod fun d => { d with ended := true }) := by
  refine (onGroup_run hi.1 hi.2.1 hi.2.2 _).trans ?_
  simp only [idle, if_true, mma_named ha hsa hsb]
  rfl

theorem mma_agrees (active : g.exec ≠ 0) {w : Word} (same : agreed g vf.toNat = some w) : exec (.mma acc sa sb vf) s =
    engIssue s c g { rv := [vf.toNat], lanes := g.exec } { word := wordOf (.mma acc sa sb vf), op := 0x5A, a := acc.setWidth 64, b := sa.setWidth 64, c := sb.setWidth 64, fmt := w }
      (chkMma s g.wg acc.toNat sa.toNat sb.toNat w.toNat) enterPlain := by
  refine (onGroup_run hi.1 hi.2.1 hi.2.2 _).trans ?_
  simp only [active, if_false, mma_named ha hsa hsb, same]
  rfl

theorem mma_differs (active : g.exec ≠ 0) (differ : agreed g vf.toNat = none) : exec (.mma acc sa sb vf) s =
    engIssue s c g { rv := [vf.toNat], lanes := g.exec } { word := wordOf (.mma acc sa sb vf), op := 0x5A }
      ((chkIf (decide (wgTiles s g.wg ≤ acc.toNat)) .illopnd 0).then (.trap { code := .fmtdiv })) enterPlain := by
  refine (onGroup_run hi.1 hi.2.1 hi.2.2 _).trans ?_
  simp only [active, if_false, mma_named ha hsa hsb, differ]
  rfl

end

theorem chkMma_of_legal {s : State} {w tile a b f : Nat} (inTiles : tile < wgTiles s w) (legal : ProductLegal s w a b f) : chkMma s w tile a b f = .ok := by
  simp only [chkMma, then_eq_ok, chkIf_eq_ok, chkSlots_eq_ok, Nat.not_le.mpr inTiles, fmtValid_of_product legal, dsbOdd_of_product legal]
  exact ⟨rfl, rfl, held_of_product legal⟩

/-- Settles O30: mma names its format in the lanes; its checks, and those of accld and accst, find nothing on legal operands. -/
theorem matrixAccepted : Obligations.MatrixAccepted := by
  unfold Obligations.MatrixAccepted
  intro s c g hi
  refine ⟨fun acc sa sb vf ha hsa hsb f hf ready => ⟨fun idle tile writable => ?_, fun active readable w same tile legal => ?_⟩, ?_⟩
  · rw [mma_idle hi ha hsa hsb idle, ← hf]
    exact engIssue_accepted_of_use hi.2.2 ready rfl rfl (by simp) (by simpa using writable) rfl rfl (by rw [hf]) (by simpa using tile) _
  · rw [mma_agrees hi ha hsa hsb active (agreed_of_all active same)]
    subst hf
    exact engIssue_accepted_of_use (f := { word := wordOf (.mma acc sa sb vf), op := 0x5A, a := acc.setWidth 64, b := sa.setWidth 64, c := sb.setWidth 64, fmt := w })
      hi.2.2 (srcs := []) ready rfl rfl (by simpa using readable) (by simp) rfl rfl rfl (chkMma_of_legal tile legal) enterPlain
  · intro e listed ga gb gc fs sc acq rel f hf ready legal
    obtain ⟨run, isAcc⟩ := accForms_run listed ga gb gc fs sc acq rel s
    have hop : f.op = e.2.1 := by rw [hf]; rfl
    obtain ⟨ha, hb⟩ : (cmdOf s c g f).a = f.a ∧ (cmdOf s c g f).b = f.b := cmdOf_low (by omega)
    have ok : chkAcc s g.wg (cmdOf s c g f) = .ok := by
      refine chkAcc_of_legal ?_
      rw [ha, hb, show (cmdOf s c g f).op = e.2.1 from hop, show (cmdOf s c g f).sub = e.2.2 from by rw [hf]; rfl]
      exact legal
    have issued : accOp e.2.1 e.2.2 ga gb gc fs sc acq rel (wordOf (e.1 ga gb gc fs sc acq rel)) s =
        engIssue s c g (useE [ga.toNat, gb.toNat, gc.toNat] f.resG) f (chkAcc s g.wg (cmdOf s c g f)) enterAcc := by
      subst hf
      exact onGroup_run hi.1 hi.2.1 hi.2.2 _
    rw [run, issued]
    exact engIssue_accepted hi.2.2 ready rfl (by rw [hf]; rfl) ok enterAcc

end Sys2Proof.Claims
end

section
/-! PROOFS. The slots, the chains and the page engine accept legal operands (R190 to R202), and the acceptance checks that trap (R392). -/

namespace Sys2Proof.Claims
open Sys2Proof.Machine

/-! ## The bits of a slot mask -/

theorem eraseDups_of_nodup : (l : List Nat) → l.Nodup → l.eraseDups = l
  | [], _ => rfl
  | a :: as, nodup => by
    obtain ⟨notIn, nodup⟩ := List.nodup_cons.mp nodup
    have kept : as.filter (fun b => !b == a) = as := List.filter_eq_self.mpr fun b hb => by
      have : b ≠ a := fun eq => notIn (eq ▸ hb)
      simpa using this
    rw [List.eraseDups_cons, kept, eraseDups_of_nodup as nodup]

/-- The numbers that a mask of ascending numbers has set are these. -/
theorem testBit_maskNat {l : List Nat} (sorted : l.Pairwise (· < ·)) (i : Nat) : (maskNat l).testBit i = true ↔ i ∈ l := by
  have sum : maskNat l = (l.map fun n => 2 ^ n).sum := by
    rw [maskNat, eraseDups_of_nodup l (sorted.imp Nat.ne_of_lt), List.sum_eq_foldl, List.foldl_map]
  rw [← Nat.mem_bitIndices, sum, Nat.bitIndices_sum_map_two_pow sorted.sortedLT]

theorem heldSlots_bits (s : State) (w : Nat) : ∀ i < 64, (BitVec.ofNat 64 (maskNat (heldSlots s w))).getLsbD i = true ↔ i < 32 ∧ holdsSlot s w i = true := by
  intro i hi
  have sorted : (heldSlots s w).Pairwise (· < ·) := List.pairwise_lt_range.filter _
  rw [BitVec.getLsbD_ofNat, Bool.and_eq_true, decide_eq_true_eq, testBit_maskNat sorted, heldSlots, List.mem_filter, List.mem_range]
  exact and_iff_right hi

theorem mem_maskSlots {a : DWord} {i : Nat} : i ∈ maskSlots a.toNat ↔ i < 32 ∧ a.getLsbD i = true := by
  rw [maskSlots, List.mem_filter, List.mem_range, nbit, BitVec.getLsbD, Nat.testBit_eq_decide_div_mod_eq, beq_iff_eq, decide_eq_true_eq]

/-! ## Slots and chains -/

section
variable {s : State} {w : Nat} {a b : DWord}

theorem chkSlotOp_claim (low : a.toNat < 2 ^ 32) (idle : ∀ i < 32, a.getLsbD i = true → holdsSlot s w i = false) : chkSlotOp s w 0 a = .ok := by
  have noneHeld : (maskSlots a.toNat).any (holdsSlot s w) = false := List.any_eq_false.mpr fun i hi => by
    obtain ⟨hlt, on⟩ := mem_maskSlots.mp hi
    simp [idle i hlt on]
  simp only [chkSlotOp, then_eq_ok, chkIf_eq_ok, Nat.not_le.mpr low, noneHeld, decide_false, if_true, show (0 : Nat) ≠ 2 from by decide, if_false, and_self]

theorem chkSlotOp_release (low : a.toNat < 2 ^ 32) (held : ∀ i < 32, a.getLsbD i = true → holdsSlot s w i = true) : chkSlotOp s w 1 a = .ok := by
  have allHeld : ∀ i ∈ maskSlots a.toNat, holdsSlot s w i = true := fun i hi =>
    held i (mem_maskSlots.mp hi).1 (mem_maskSlots.mp hi).2
  simp only [chkSlotOp, then_eq_ok, chkIf_eq_ok, chkSlots_eq_ok, Nat.not_le.mpr low, decide_false, if_false, show (1 : Nat) ≠ 2 from by decide,
    show (1 : Nat) ≠ 0 from by decide, true_and]
  exact allHeld

theorem chkChainOp_set (chain : a.toNat < 4) (aligned : b.toNat % 64 = 0) (off : OffWindow b.toNat) : chkChainOp 0 a b = .ok := by
  simp only [chkChainOp, then_eq_ok, chkIf_eq_ok, chkFab_eq_ok, Nat.not_le.mpr chain, aligned, ne_eq, not_true_eq_false, decide_false, if_true, true_and]
  exact off

theorem chkChainOp_adv (chain : a.toNat < 4) : chkChainOp 1 a b = .ok := by
  simp only [chkChainOp, then_eq_ok, chkIf_eq_ok, Nat.not_le.mpr chain, decide_false, if_false, show (1 : Nat) ≠ 0 from by decide, and_self]

end

/-- An instruction whose course is that of an engine's is accepted where it is ready and its checks find nothing. -/
theorem engine_accepted {s : State} {c : Nat} {g : Group} (hi : Issues s c g) {srcs : List Nat} {f : EForm} (ready : EngineReady s g srcs f)
    (noHold : f.hold = false) {chk : EChk} (ok : chk = .ok) {enter : State → Nat → Cmd → State} {i : Instr}
    (run : exec i s = engIssue s c g (useE srcs f.resG) f chk enter) : EngineAccepted s c g (exec i s) f enter :=
  run ▸ engIssue_accepted hi.2.2 ready rfl noHold ok enter

/-- Settles O31: each instruction takes the common course of an engine instruction, and its checks find nothing. -/
theorem slotsAndChains : Obligations.SlotsAndChains := by
  unfold Obligations.SlotsAndChains
  intro s c g ga gb gc fs sc acq rel hi
  refine ⟨fun f hf ready low idle => ?claim, fun f hf ready low held => ?release, fun f hf ready => ⟨_, heldSlots_bits s g.wg, ?held⟩,
    fun f hf ready chain aligned off => ?set, fun f hf ready chain => ?adv, fun f hf ready => ?seqw⟩
  all_goals subst hf
  case claim => exact engine_accepted hi ready rfl (chkSlotOp_claim low idle) (onGroup_run hi.1 hi.2.1 hi.2.2 _)
  case release => exact engine_accepted hi ready rfl (chkSlotOp_release low held) (onGroup_run hi.1 hi.2.1 hi.2.2 _)
  case held => exact engine_accepted hi ready rfl rfl (onGroup_run hi.1 hi.2.1 hi.2.2 _)
  case set => exact engine_accepted hi ready rfl (chkChainOp_set chain aligned off) (onGroup_run hi.1 hi.2.1 hi.2.2 _)
  case adv => exact engine_accepted hi ready rfl (chkChainOp_adv (b := readG g gb.toNat) chain) (onGroup_run hi.1 hi.2.1 hi.2.2 _)
  case seqw => exact engine_accepted hi ready rfl rfl (onGroup_run hi.1 hi.2.1 hi.2.2 _)

/-! ## Pages -/

section
variable {s : State} {w tn : Nat} {x : Cmd} {a b c : DWord}

/-- On a handle of the tenant whose check is answered, what is left is the checks on its pool (R193). -/
theorem chkOnPool_of_ok {h : DWord} {p : Pool} (ok : HandleOk s tn h p) {check : Handle → Pool → EChk} (pool : check (handleAt s (hIdx h)) p = .ok) :
    chkOnPool s tn h true check = .ok := by
  obtain ⟨own, tenant, gen, found⟩ := ok
  have handle : chkHandle s tn h = .ok := by
    simp only [chkHandle, ← own, tenant, gen, bne_self_eq_false, Bool.or_self, Bool.false_eq_true, if_false]
  simp only [chkOnPool, chkAsk, if_true, handle, found, then_eq_ok, true_and]
  exact pool

theorem chkPage_gather (op : x.op = 0x60) (ha : x.a = a) (hb : x.b = b) (hc : x.c = c) (legal : GatherLegal s w tn a b.toNat c.toNat) :
    chkPage s w tn x true = .ok := by
  subst ha hb hc
  obtain ⟨p, ty, cnt, drow, handle, rfl, rfl, rfl, some_, lowB, lowC, wholeRow, type, layer, whole, ints, fits, range, aligned, area⟩ := legal
  have off : gatOff x = x.c.toNat % 2 ^ 32 := nfld_low x.c
  have first : gatFirst x = x.b.toNat % 2 ^ 24 := by rw [gatFirst, nfld, Nat.pow_zero, Nat.div_one]
  have course : chkPage s w tn x true = chkGat s w tn x true := by rw [chkPage, if_pos (show x.op = opKvgat from op)]
  have count : gatCount x = x.b.toNat / 2 ^ 24 % 2 ^ 16 := rfl
  have row : gatDrow x = x.c.toNat / 2 ^ 32 % 2 ^ 20 := rfl
  have ty : gatType x = x.c.toNat / 2 ^ 52 % 2 ^ 4 := rfl
  have noType : (decide (5 ≤ x.c.toNat / 2 ^ 52 % 2 ^ 4) && decide (x.c.toNat / 2 ^ 52 % 2 ^ 4 ≠ 15)) = false := by
    rw [Bool.and_eq_false_iff, decide_eq_false_iff_not, decide_eq_false_iff_not]
    omega
  have noInt : (isIntType p.etype && decide (x.c.toNat / 2 ^ 52 % 2 ^ 4 ≠ 15)) = false := by
    cases h : isIntType p.etype with
    | false => rfl
    | true => rw [Bool.true_and]; exact decide_eq_false (not_not_intro (ints h))
  rw [course, chkGat]
  simp only [then_eq_ok, chkIf_eq_ok, off, first, count, row, ty, noType, some_, Nat.not_le.mpr lowB, Nat.not_le.mpr lowC, wholeRow, ne_eq,
    not_true_eq_false, decide_false, Bool.or_self, true_and]
  refine chkOnPool_of_ok handle ?_
  simp only [then_eq_ok, chkIf_eq_ok, chkSpad_eq_ok, chkRange, noInt, show ¬ p.layers ≤ gatLayer x from Nat.not_le.mpr layer, whole, Nat.not_lt.mpr fits,
    Nat.not_lt.mpr range, aligned, not_true_eq_false, decide_false, Bool.or_self, Bool.false_eq_true, if_false, true_and]
  exact area

theorem chkPage_append (op : x.op = 0x61) (ha : x.a = a) (hb : x.b = b) (hc : x.c = c) (legal : AppendLegal s w tn a b.toNat c.toNat) :
    chkPage s w tn x true = .ok := by
  subst ha hb hc
  obtain ⟨p, ty, pos, handle, rfl, rfl, zero, lowC, type, layer, whole, from_, upTo, bound, aligned, area⟩ := legal
  have off : appOff x = x.c.toNat % 2 ^ 32 := nfld_low x.c
  have pos : appPos x = x.b.toNat % 2 ^ 24 := by rw [appPos, nfld, Nat.pow_zero, Nat.div_one]
  have course : chkPage s w tn x true = chkApp s w tn x true := by
    rw [chkPage, if_neg (show ¬ x.op = opKvgat from by rw [op]; decide), if_pos (show x.op = opKvapp from op)]
  have ty : appType x = x.c.toNat / 2 ^ 48 % 2 ^ 4 := rfl
  have reserved : nfld x.b.toNat 24 8 = 0 := zero
  have noType : ((elemWidth (x.c.toNat / 2 ^ 48 % 2 ^ 4)).isNone && decide (x.c.toNat / 2 ^ 48 % 2 ^ 4 ≠ 15)) = false := by
    rcases type with known | own
    · rw [Option.isNone_eq_false_iff.mpr known]; rfl
    · rw [own]; exact Bool.and_false _
  rw [course, chkApp]
  simp only [then_eq_ok, chkIf_eq_ok, off, pos, ty, reserved, noType, Nat.not_le.mpr lowC, ne_eq, not_true_eq_false, decide_false, Bool.or_self, true_and]
  refine chkOnPool_of_ok handle ?_
  simp only [then_eq_ok, chkIf_eq_ok, chkSpad_eq_ok, chkRange, show ¬ p.layers ≤ appLayer x from Nat.not_le.mpr layer, whole, Nat.not_lt.mpr from_,
    Nat.not_lt.mpr upTo, Nat.not_le.mpr bound, aligned, not_true_eq_false, decide_false, Bool.or_self, Bool.false_eq_true, if_false, true_and]
  exact area

theorem chkPage_pin (op : x.op = 0x62) (ha : x.a = a) (hb : x.b = b) (handle : ∃ p, HandleOk s tn a p) (low : b.toNat < 2 ^ 48)
    (some_ : b.toNat / 2 ^ 24 ≠ 0) (range : b.toNat % 2 ^ 24 + b.toNat / 2 ^ 24 ≤ min (handleAt s (hIdx a)).w (hBound a)) :
    chkPage s w tn x true = .ok := by
  subst ha hb
  obtain ⟨p, handle⟩ := handle
  have pos : appPos x = x.b.toNat % 2 ^ 24 := by rw [appPos, nfld, Nat.pow_zero, Nat.div_one]
  have count : pinCount x = x.b.toNat / 2 ^ 24 := by rw [pinCount, nfld]; omega
  have course : chkPage s w tn x true = chkPin s tn x true := by
    rw [chkPage, if_neg (show ¬ x.op = opKvgat from by rw [op]; decide), if_neg (show ¬ x.op = opKvapp from by rw [op]; decide),
      if_pos (show x.op = opKvpin from op)]
  rw [course, chkPin]
  simp only [then_eq_ok, chkIf_eq_ok, pos, count, some_, Nat.not_le.mpr low, decide_false, Bool.or_self, true_and]
  exact chkOnPool_of_ok handle (by simp only [chkRange, Nat.not_lt.mpr range, decide_false, Bool.false_eq_true, if_false])

theorem chkPage_length (op : x.op = 0x63 ∨ x.op = 0x64) (ha : x.a = a) (hb : x.b = b) (handle : ∃ p, HandleOk s tn a p) (low : b.toNat < 2 ^ 24) :
    chkPage s w tn x true = .ok := by
  subst ha hb
  obtain ⟨p, handle⟩ := handle
  have course : chkPage s w tn x true = chkLen s tn x true := by
    rcases op with op | op <;> simp [chkPage, op, opKvgat, opKvapp, opKvpin, opKvfrk, opHdl]
  rw [course, chkLen]
  simp only [then_eq_ok, chkIf_eq_ok, Nat.not_le.mpr low, decide_false, true_and]
  exact chkOnPool_of_ok handle rfl

theorem chkPage_hash (op : x.op = 0x65) (hb : x.b = b) {answered : Bool} (low : b.toNat < 2 ^ 32) (aligned : b.toNat % 4 = 0) (area : InSpad s w b.toNat 64) :
    chkPage s w tn x answered = .ok := by
  subst hb
  have course : chkPage s w tn x answered = chkPfxh s w x := by simp [chkPage, op, opKvgat, opKvapp, opKvpin, opKvfrk, opHdl, opPfxh]
  rw [course, chkPfxh]
  simp only [then_eq_ok, chkIf_eq_ok, chkSpad_eq_ok, Nat.not_le.mpr low, aligned, ne_eq, not_true_eq_false, decide_false, true_and]
  exact area

/-- pfxl and pfxi of n blocks, whose bytes are len from offset o (R201, R202). -/
theorem chkPage_prefix {n o len : Nat} (hb : x.b = b) (handle : ∃ p, HandleOk s tn b p ∧ p.p ≤ 16) (lowA : x.a.toNat < 2 ^ 32) (aligned : x.a.toNat % 8 = 0)
    (op : x.op = 0x66 ∧ n = x.c.toNat ∧ o = x.a.toNat ∧ len = 72 * n ∨
      x.op = 0x67 ∧ n = x.c.toNat / 2 ^ 8 ∧ o = x.a.toNat + 8 * (x.c.toNat % 2 ^ 8) ∧ len = 8 * n)
    (some_ : 0 < n) (most : n ≤ 64) (area : InSpad s w o len) : chkPage s w tn x true = .ok := by
  subst hb
  obtain ⟨p, handle, page⟩ := handle
  have course : chkPage s w tn x true = chkPfx s w tn x true := by
    rcases op with ⟨op, -⟩ | ⟨op, -⟩ <;> simp [chkPage, op, opKvgat, opKvapp, opKvpin, opKvfrk, opHdl, opPfxh]
  have count : pfxCount x = n ∧ pfxBytes x = (o, len) ∧ x.c.toNat < 2 ^ (if x.op = opPfxl then 8 else 16) := by
    rcases op with ⟨op, hn, ho, hlen⟩ | ⟨op, hn, ho, hlen⟩
    · have first : x.op = opPfxl := op
      have count : pfxCount x = n := by rw [pfxCount, if_pos first, nfld]; omega
      exact ⟨count, by rw [pfxBytes, if_pos first, count, ho, hlen], by rw [if_pos first]; omega⟩
    · have second : ¬ x.op = opPfxl := by rw [op]; decide
      have count : pfxCount x = n := by rw [pfxCount, if_neg second, nfld]; omega
      have block : pfxFirst x = x.c.toNat % 2 ^ 8 := by rw [pfxFirst, if_neg second, nfld, Nat.pow_zero, Nat.div_one]
      exact ⟨count, by rw [pfxBytes, if_neg second, count, block, ho, hlen], by rw [if_neg second]; omega⟩
  obtain ⟨count, bytes, lowC⟩ := count
  rw [course, chkPfx]
  simp only [then_eq_ok, chkIf_eq_ok, count, bytes, Nat.not_le.mpr lowA, Nat.not_le.mpr lowC, Nat.not_lt.mpr most, Nat.ne_of_gt some_, decide_false,
    Bool.or_self, true_and]
  refine chkOnPool_of_ok handle ?_
  simp only [then_eq_ok, chkIf_eq_ok, chkSpad_eq_ok, Nat.not_lt.mpr page, aligned, ne_eq, not_true_eq_false, decide_false, true_and]
  exact area

end

/-- Which operand of a page command names a handle (R193). -/
theorem cmdOf_page {s : State} {c : Nat} {g : Group} {f : EForm} (page : 0x60 ≤ f.op ∧ f.op ≤ 0x67) :
    (cmdOf s c g f).a = (if f.op ≤ 0x64 then wordIn s (tenantOf s g.launch) f.a else f.a) ∧
      (cmdOf s c g f).b = if 0x66 ≤ f.op then wordIn s (tenantOf s g.launch) f.b else f.b := by
  obtain ⟨low, high⟩ := page
  have own : ownOperands s (tenantOf s g.launch) f.op f.a f.b =
      (if f.op ≤ 0x64 then wordIn s (tenantOf s g.launch) f.a else f.a, if 0x66 ≤ f.op then wordIn s (tenantOf s g.launch) f.b else f.b) := by
    have cases_ : f.op ≤ 0x64 ∨ f.op = 0x65 ∨ 0x66 ≤ f.op := by omega
    rcases cases_ with handle | hash | prefix_
    · rw [ownOperands, if_neg (by simp; omega), if_neg (by simp; omega), if_pos (by simp; omega), if_pos handle, if_neg (by omega)]
    · rw [ownOperands, if_neg (by simp; omega), if_neg (by simp; omega), if_neg (by simp; omega), if_neg (by omega), if_neg (by omega)]
    · rw [ownOperands, if_pos (by simp; omega), if_neg (by omega), if_pos prefix_]
  exact ⟨congrArg Prod.fst own, congrArg Prod.snd own⟩

section
variable {s : State} {c : Nat} {g : Group} (hi : Issues s c g) {i : Instr} {op sub feat : Nat} {ga gb gc res : Option (BitVec 5)} {fs : Bool}
  {sc : BitVec 2} {acq rel : Bool} {f : EForm} (hf : f = eform g i op sub ga gb gc res fs sc acq rel (some feat) false)
include hi hf

/-- The course of a page instruction; hold says whether a gather still waits (R179). -/
theorem pageOp_issues : pageOp op sub feat ga gb gc res fs sc acq rel (wordOf i) s =
    engIssue s c g (useE (([ga, gb, gc].filterMap id).map BitVec.toNat) f.resG)
      { f with hold := decide (op = opKvgat) && (!pageOrder s s.nextKey (cmdOf s c g f) || pinsFull s (cmdOf s c g f)) }
      (chkPage s g.wg (tenantOf s g.launch) (cmdOf s c g f) g.answered) (if op = opKvgat then enterGat else enterPlain) := by
  subst hf
  rw [pageOp, onGroup_run hi.1 hi.2.1 hi.2.2]
  cases ga <;> cases gb <;> cases gc <;> rfl

theorem pageOp_accepted (ready : EngineReady s g (([ga, gb, gc].filterMap id).map BitVec.toNat) f)
    (free : op = 0x60 → pageOrder s s.nextKey (cmdOf s c g f) = true ∧ pinsFull s (cmdOf s c g f) = false)
    (ok : chkPage s g.wg (tenantOf s g.launch) (cmdOf s c g f) g.answered = .ok)
    (run : exec i s = pageOp op sub feat ga gb gc res fs sc acq rel (wordOf i) s) :
    EngineAccepted s c g (exec i s) f (if op = opKvgat then enterGat else enterPlain) := by
  have noHold : (decide (op = opKvgat) && (!pageOrder s s.nextKey (cmdOf s c g f) || pinsFull s (cmdOf s c g f))) = false := by
    by_cases gather : op = opKvgat
    · simp [free gather]
    · simp [gather]
  have same : { f with hold := false } = f := by rw [hf]; rfl
  refine engine_accepted hi ready (by rw [hf]; rfl) ok (run.trans ?_)
  rw [pageOp_issues hi hf, noHold, same]

end

/-- Settles O32: each instruction takes the course of a page instruction, and the checks of its command find nothing on a valid handle. -/
theorem pagesAccepted : Obligations.PagesAccepted := by
  unfold Obligations.PagesAccepted
  rintro s c g ga gb gc fs sc acq rel hi tn rfl own rfl
  refine ⟨?gather, ?append, ?pin, ?length, ?hash, ?prefix_⟩
  case gather =>
    intro f i sub listed hf ready answered legal order pins
    have op : f.op = 0x60 := by rw [hf]; rfl
    obtain ⟨ha, hb⟩ : (cmdOf s c g f).a = _ ∧ (cmdOf s c g f).b = _ := cmdOf_page (by rw [op]; decide)
    rw [if_pos (by rw [op]; decide)] at ha
    rw [if_neg (by rw [op]; decide)] at hb
    have ok : chkPage s g.wg (tenantOf s g.launch) (cmdOf s c g f) g.answered = .ok := by
      rw [answered]; exact chkPage_gather op ha hb rfl legal
    simp only [List.mem_cons, Prod.mk.injEq, List.not_mem_nil, or_false] at listed
    obtain ⟨rfl, rfl⟩ | ⟨rfl, rfl⟩ := listed
    · exact pageOp_accepted hi hf ready (fun _ => ⟨order, pins⟩) ok rfl
    · exact pageOp_accepted hi hf ready (fun _ => ⟨order, pins⟩) ok rfl
  case append =>
    intro f hf ready answered legal
    have op : f.op = 0x61 := by rw [hf]; rfl
    obtain ⟨ha, hb⟩ : (cmdOf s c g f).a = _ ∧ (cmdOf s c g f).b = _ := cmdOf_page (by rw [op]; decide)
    rw [if_pos (by rw [op]; decide)] at ha
    rw [if_neg (by rw [op]; decide)] at hb
    exact pageOp_accepted hi hf ready (fun gather => absurd gather (by decide)) (by rw [answered]; exact chkPage_append op ha hb rfl legal) rfl
  case pin =>
    intro f i sub listed hf ready answered handle low some_ range
    have op : f.op = 0x62 := by rw [hf]; rfl
    obtain ⟨ha, hb⟩ : (cmdOf s c g f).a = _ ∧ (cmdOf s c g f).b = _ := cmdOf_page (by rw [op]; decide)
    rw [if_pos (by rw [op]; decide)] at ha
    rw [if_neg (by rw [op]; decide)] at hb
    have ok : chkPage s g.wg (tenantOf s g.launch) (cmdOf s c g f) g.answered = .ok := by
      rw [answered]; exact chkPage_pin op ha hb handle low some_ range
    simp only [List.mem_cons, Prod.mk.injEq, List.not_mem_nil, or_false] at listed
    obtain ⟨rfl, rfl⟩ | ⟨rfl, rfl⟩ := listed
    · exact pageOp_accepted hi hf ready (fun gather => absurd gather (by decide)) ok rfl
    · exact pageOp_accepted hi hf ready (fun gather => absurd gather (by decide)) ok rfl
  case length =>
    intro f i op sub b res listed hf ready answered handle low
    have isLength : op = 0x63 ∨ op = 0x64 := by
      simp only [List.mem_cons, Prod.mk.injEq, List.not_mem_nil, or_false] at listed
      omega
    have hop : f.op = op := by rw [hf]; rfl
    obtain ⟨ha, hb⟩ : (cmdOf s c g f).a = _ ∧ (cmdOf s c g f).b = _ := cmdOf_page (by omega)
    rw [if_pos (by omega)] at ha
    rw [if_neg (by omega)] at hb
    have ok : chkPage s g.wg (tenantOf s g.launch) (cmdOf s c g f) g.answered = .ok := by
      rw [answered]; exact chkPage_length (show f.op = 0x63 ∨ f.op = 0x64 from hop ▸ isLength) ha hb handle low
    simp only [List.mem_cons, Prod.mk.injEq, List.not_mem_nil, or_false] at listed
    obtain ⟨rfl, rfl, rfl, rfl, rfl⟩ | ⟨rfl, rfl, rfl, rfl, rfl⟩ | ⟨rfl, rfl, rfl, rfl, rfl⟩ | ⟨rfl, rfl, rfl, rfl, rfl⟩ := listed
    · exact pageOp_accepted hi hf ready (fun gather => absurd gather (by decide)) ok rfl
    · exact pageOp_accepted hi hf ready (fun gather => absurd gather (by decide)) ok rfl
    · exact pageOp_accepted hi hf ready (fun gather => absurd gather (by decide)) ok rfl
    · exact pageOp_accepted hi hf ready (fun gather => absurd gather (by decide)) ok rfl
  case hash =>
    intro f hf ready low aligned area
    have op : f.op = 0x65 := by rw [hf]; rfl
    obtain ⟨-, hb⟩ : (cmdOf s c g f).a = _ ∧ (cmdOf s c g f).b = _ := cmdOf_page (by rw [op]; decide)
    rw [if_neg (by rw [op]; decide)] at hb
    exact pageOp_accepted hi hf ready (fun gather => absurd gather (by decide)) (chkPage_hash op hb low aligned area) rfl
  case prefix_ =>
    intro f i op n o len listed hf ready answered handle lowA aligned some_ most area
    have isPrefix : op = 0x66 ∨ op = 0x67 := by
      simp only [List.mem_cons, Prod.mk.injEq, List.not_mem_nil, or_false] at listed
      omega
    have hop : f.op = op := by rw [hf]; rfl
    obtain ⟨ha, hb⟩ : (cmdOf s c g f).a = _ ∧ (cmdOf s c g f).b = _ := cmdOf_page (by omega)
    rw [if_neg (by omega)] at ha
    rw [if_pos (by omega)] at hb
    simp only [List.mem_cons, Prod.mk.injEq, List.not_mem_nil, or_false] at listed
    have ok : chkPage s g.wg (tenantOf s g.launch) (cmdOf s c g f) g.answered = .ok := by
      rw [answered]
      refine chkPage_prefix (n := n) (o := o) (len := len) hb handle (ha ▸ lowA) (ha ▸ aligned) ?_ some_ most area
      obtain ⟨-, rfl, rfl, rfl, rfl⟩ | ⟨-, rfl, rfl, rfl, rfl⟩ := listed
      · exact .inl ⟨hop, rfl, by rw [ha], rfl⟩
      · exact .inr ⟨hop, rfl, by rw [ha]; rfl, rfl⟩
    obtain ⟨rfl, rfl, -, -, -⟩ | ⟨rfl, rfl, -, -, -⟩ := listed
    · exact pageOp_accepted hi hf ready (fun gather => absurd gather (by decide)) ok rfl
    · exact pageOp_accepted hi hf ready (fun gather => absurd gather (by decide)) ok rfl

/-! ## Acceptance checks that trap (R392) -/

section
variable {s : State} {c : Nat} {g : Group} {use : Use} {f : EForm} {chk : EChk} {enter : State → Nat → Cmd → State} {o : Out}
  (run : o = engIssue s c g use f chk enter)
include run

/-- ILLOP stands before every other check. -/
theorem engIssue_illop (ill : (use.ill || illE s g f) = true) : Traps s c g o 1 0 := by
  have first : formTrap g { use with ill := use.ill || illE s g f } = some { code := .illop } := by rw [formTrap, if_pos ill]
  refine trapsAt_of_eq { code := .illop } (run.trans ?_)
  simp only [engIssue, Machine.accepted, first]
  cases chk.isNd <;> rfl

/-- What the acceptance checks find is taken, where the registers can be read and written and the flag can count. -/
theorem engIssue_traps (t : Trap) (unmarked : use.ill = false) (legal : illE s g f = false) (nd : use.nd = false) (rv : ∀ n ∈ use.rv, CanReadV g use.lanes n)
    (wv : ∀ n ∈ use.wv, CanWriteV g n) (rg : ∀ n ∈ use.rg, CanReadG g n) (wg : ∀ n ∈ use.wg, CanWriteG g n) (free : FlagFree g f.fs (flagSel g f.fs))
    (plain : t.code = .illopnd → t = { code := .illopnd }) (found : chk = .trap t) :
    TrapsAt s c g o (trapCode t.code) t.addr t.lane t.ext := by
  subst found
  refine trapsAt_of_eq t (run.trans ?_)
  have ill : (use.ill || illE s g f) = false := by rw [unmarked, legal]; rfl
  have form : formTrap g { use with ill := use.ill || illE s g f } = none := formTrap_none ill nd rv wv rg wg
  have ecc : eccTrap g { use with ill := use.ill || illE s g f } = none := eccTrap_none rv rg
  simp only [engIssue, Machine.accepted, form, ecc, withFlag, free.2.2, if_true]
  by_cases isNd : t.code = .illopnd
  · simp [EChk.isNd, plain isNd]
  · simp [EChk.isNd, isNd]

end

section
variable {s : State} {g : Group} {f : EForm}

/-- An instruction with a scope that stands, of an opcode that needs no feature, is no ILLOP (R87, R176). -/
theorem illE_of_scope (free : FlagFree g f.fs (flagSel g f.fs)) (scope : f.sc = 0 ∨ f.acq = true ∨ f.rel = true) (feat : f.feat = none)
    (sys : f.sys = false) : illE s g f = false := by
  have idle : (f.sc != 0 && !f.acq && !f.rel) = false := by rcases scope with h | h | h <;> simp [h]
  simp only [illE, noFlag_of_free free, idle, feat, sys, Bool.false_and, Bool.or_self]

theorem illE_of_idle (scope : f.sc ≠ 0) (acq : f.acq = false) (rel : f.rel = false) : illE s g f = true := by
  simp [illE, scope, acq, rel]

theorem illE_of_feature {n : Nat} (feat : f.feat = some n) (off : featOn s n = false) : illE s g f = true := by
  simp [illE, feat, off]

end

theorem slotTaken_traps {s : State} {w : Nat} {a : DWord} (low : a.toNat < 2 ^ 32) (taken : ∃ i < 32, a.getLsbD i = true ∧ holdsSlot s w i = true) :
    chkSlotOp s w 0 a = .trap { code := .sloterr, addr := 0 } := by
  obtain ⟨i, hi, on, held⟩ := taken
  have found : (maskSlots a.toNat).any (holdsSlot s w) = true := List.any_eq_true.mpr ⟨i, mem_maskSlots.mpr ⟨hi, on⟩, held⟩
  rw [chkSlotOp, if_neg (by decide), if_pos rfl, found, chkIf_eq_ok.mpr (decide_eq_false (Nat.not_le.mpr low))]
  rfl

theorem slotMissing_traps {s : State} {w : Nat} {a : DWord} (low : a.toNat < 2 ^ 32)
    (missing : ∃ i < 32, a.getLsbD i = true ∧ holdsSlot s w i = false) : chkSlotOp s w 1 a = .trap { code := .sloterr, addr := 0 } := by
  obtain ⟨i, hi, on, free⟩ := missing
  have notAll : (maskSlots a.toNat).all (holdsSlot s w) = false := List.all_eq_false.mpr ⟨i, mem_maskSlots.mpr ⟨hi, on⟩, by simp [free]⟩
  rw [chkSlotOp, if_neg (by decide), if_neg (by decide), chkSlots, notAll, chkIf_eq_ok.mpr (decide_eq_false (Nat.not_le.mpr low))]
  rfl

theorem chkChainOp_high {sub : Nat} {a b : DWord} (high : 4 ≤ a.toNat) : chkChainOp sub a b = .trap { code := .illopnd } := by
  rw [chkChainOp, chkIf, decide_eq_true high]
  rfl

theorem chkChainOp_misaligned {a b : DWord} (chain : a.toNat < 4) (misaligned : b.toNat % 64 ≠ 0) :
    chkChainOp 0 a b = .trap { code := .misalign, addr := b } := by
  have addr : BitVec.ofNat 64 b.toNat = b := BitVec.eq_of_toNat_eq (by rw [BitVec.toNat_ofNat, Nat.mod_eq_of_lt b.isLt])
  rw [chkChainOp, if_pos rfl, chkIf_eq_ok.mpr (decide_eq_false (Nat.not_le.mpr chain)), chkIf, decide_eq_true misaligned, addr]
  rfl

/-- A scope without ACQ or REL is ILLOP (R176). -/
theorem idleScope_traps {s : State} {c : Nat} {g : Group} (hi : Issues s c g) (ga gb gc : BitVec 5) (fs : Bool) {sc : BitVec 2} (scope : sc ≠ 0)
    {e : EWord3 × Nat × Nat} (listed : e ∈ copyForms ++ accForms) : Traps s c g (exec (e.1 ga gb gc fs sc false false) s) 1 0 := by
  have some_ : sc.toNat ≠ 0 := fun zero => scope (BitVec.eq_of_toNat_eq zero)
  rcases List.mem_append.mp listed with copy | acc
  · exact engIssue_illop ((copyForms_run copy ga gb gc fs sc false false s).1.trans (onGroup_run hi.1 hi.2.1 hi.2.2 _)) (illE_of_idle (s := s) some_ rfl rfl)
  · exact engIssue_illop ((accForms_run acc ga gb gc fs sc false false s).1.trans (onGroup_run hi.1 hi.2.1 hi.2.2 _)) (illE_of_idle (s := s) some_ rfl rfl)

/-- Settles O35: what the form check or the acceptance checks find is the trap that is taken. -/
theorem engineTraps : Obligations.EngineTraps := by
  unfold Obligations.EngineTraps
  rintro s c g ga gb gc fs sc acq rel hi a rfl
  refine ⟨fun scope e listed => idleScope_traps hi ga gb gc fs scope listed, fun off => ⟨?gather, ?query⟩, fun off => ⟨?put, ?reserve⟩,
    fun ha free scope => ?checks, ?mma⟩
  case gather => exact engIssue_illop (onGroup_run hi.1 hi.2.1 hi.2.2 _) (illE_of_feature rfl off)
  case query => exact engIssue_illop (onGroup_run hi.1 hi.2.1 hi.2.2 _) (illE_of_feature rfl off)
  case put => exact engIssue_illop (onGroup_run hi.1 hi.2.1 hi.2.2 _) (Bool.or_eq_true_iff.mpr (.inr (illE_of_feature rfl off)))
  case reserve => exact engIssue_illop (onGroup_run hi.1 hi.2.1 hi.2.2 _) (Bool.or_eq_true_iff.mpr (.inr (illE_of_feature rfl off)))
  case checks =>
    have stands : sc.toNat = 0 ∨ acq = true ∨ rel = true := scope.imp_left fun zero => congrArg BitVec.toNat zero
    have reads : ∀ n ∈ [ga.toNat], CanReadG g n := by simpa using ha
    refine ⟨fun low taken => ?claim, fun low missing => ?release, fun hb high => ?adv, fun hb hc chain misaligned => ?set⟩
    case claim =>
      exact engIssue_traps (onGroup_run hi.1 hi.2.1 hi.2.2 _) { code := .sloterr, addr := 0 } rfl (illE_of_scope free stands rfl rfl) rfl (by simp [useE])
        (by simp [useE]) reads (by simp [useE]) free (by simp) (slotTaken_traps low taken)
    case release =>
      exact engIssue_traps (onGroup_run hi.1 hi.2.1 hi.2.2 _) { code := .sloterr, addr := 0 } rfl (illE_of_scope free stands rfl rfl) rfl (by simp [useE])
        (by simp [useE]) reads (by simp [useE]) free (by simp) (slotMissing_traps low missing)
    case adv =>
      exact engIssue_traps (onGroup_run hi.1 hi.2.1 hi.2.2 _) { code := .illopnd } rfl (illE_of_scope free stands rfl rfl) rfl (by simp [useE])
        (by simp [useE]) (by simpa [useE] using ⟨ha, hb⟩) (by simp [useE]) free (fun _ => rfl) (chkChainOp_high high)
    case set =>
      exact engIssue_traps (onGroup_run hi.1 hi.2.1 hi.2.2 _) { code := .misalign, addr := readG g gb.toNat } rfl (illE_of_scope free stands rfl rfl) rfl
        (by simp [useE]) (by simp [useE]) (by simpa [useE] using ⟨ha, hb, hc⟩) (by simp [useE]) free (by simp) (chkChainOp_misaligned chain misaligned)
  case mma =>
    rintro acc sa sb vf tile hacc hsa hsb free readable ⟨l, hl, k, hk, differ⟩
    have active : g.exec ≠ 0 := fun idle => by
      have on := (List.mem_filter.mp hl).2
      simp [idle] at on
    have chk : (chkIf (decide (wgTiles s g.wg ≤ acc.toNat)) .illopnd 0).then (.trap { code := .fmtdiv }) = .trap { code := .fmtdiv } := by
      rw [chkIf_eq_ok.mpr (decide_eq_false (Nat.not_le.mpr tile))]
      rfl
    exact engIssue_traps (mma_differs hi hacc hsa hsb active (agreed_none hl hk differ)) { code := .fmtdiv } rfl
      (illE_of_scope free (.inl rfl) rfl rfl) rfl (by simpa using readable) (by simp) (by simp) (by simp) free (by simp) chk

end Sys2Proof.Claims
end

section
/-! PROOFS. The step as the schedule's next entry, and a command's 64 bytes and the checks of its row (R36, R39, R85, R98, R278, R413). -/

namespace Sys2Proof.Claims
open Sys2Proof.Machine

/-! ## The word that a group has reached -/

theorem step_cons {s : State} {t : Turn} {rest : List Turn} (next : s.turns = t :: rest) :
    step s = Machine.noted (runTurn t { s with turns := rest }) := by
  rw [step, next]

section
variable {u : State} {c : Nat} {g : Group} (here : tget u.groups c = some g)
include here

theorem issueTurn_waits (may : mayIssue u c g = false) : issueTurn u c = .next u := by
  simp only [issueTurn, here, may, Bool.false_eq_true, if_false]

variable (may : mayIssue u c g = true)
include may

theorem issueTurn_asks (blocked : fetchBlocked u g.core (asidOf u g.launch) (wordAddr g).toNat = true) :
    issueTurn u c = .next (engAsk u g.core (asidOf u g.launch) (wordAddr g).toNat 1) := by
  simp only [issueTurn, here, may, blocked, if_true]

variable (ready : fetchBlocked u g.core (asidOf u g.launch) (wordAddr g).toNat = false) (noRom : romKernelAt u g = none)
include ready noRom

theorem issueTurn_runs {i : Instr} (run : issueOf u g = .run i) :
    issueTurn u c = exec i { fetchFill u g.core (asidOf u g.launch) (wordAddr g).toNat with cur := some c } := by
  simp only [issueTurn, here, may, ready, noRom, run, if_true, Bool.false_eq_true, if_false]

theorem issueTurn_traps {t : Trap} (trap : issueOf u g = .trap t) : issueTurn u c = .next (takeTrap u c g t) := by
  simp only [issueTurn, here, may, ready, noRom, trap, if_true, Bool.false_eq_true, if_false]

end

section
variable {u : State} {g : Group}

/-! ### A word as an instruction -/

theorem runOrIllop_of_decode {w : Word} {i : Instr} (decodes : decodeWord w = some i) : runOrIllop u g w = .run i := by
  rw [runOrIllop, decodes]

theorem runOrIllop_of_noRow {w : Word} (noRow : decodeWord w = none) (noBranch : decodeWord (plainBranch w) = none) :
    runOrIllop u g w = .trap { code := .illop } := by
  rw [runOrIllop, noRow, noBranch]

theorem runOrIllop_of_branch {w : Word} {j : Instr} (noRow : decodeWord w = none) (branch : decodeWord (plainBranch w) = some j) :
    runOrIllop u g w = .trap { code := if noHeader u g j then .btgt else .illop } := by
  rw [runOrIllop, noRow, branch]

/-! ### A word that must be a clause header -/

section
variable (start : g.coff = 0)
include start

theorem issueOf_header {w : Word} (fetched : fetchWord u g.core (asidOf u g.launch) g.pc.toNat = some w) (header : isHeaderWord w = true) :
    issueOf u g = runOrIllop u g w := by
  simp only [issueOf, start, if_true, fetched, header]

theorem issueOf_noHeader {w : Word} (fetched : fetchWord u g.core (asidOf u g.launch) g.pc.toNat = some w) (header : isHeaderWord w = false) :
    issueOf u g = .trap { code := .btgt } := by
  simp only [issueOf, start, if_true, fetched, header, Bool.false_eq_true, if_false]

theorem issueOf_noWord (fetched : fetchWord u g.core (asidOf u g.launch) g.pc.toNat = none) : issueOf u g = .trap { code := .btgt } := by
  simp only [issueOf, start, if_true, fetched]

end

/-! ### A body word -/

section
variable (body : g.coff ≠ 0) (len : g.len ≠ 0)
include body len

theorem issueOf_unfetched (fetched : fetchWord u g.core (asidOf u g.launch) (wordAddr g).toNat = none) :
    issueOf u g = .trap (fetchTrap u g.core (asidOf u g.launch) (wordAddr g)) := by
  simp only [issueOf, body, len, if_false, fetched]

variable {w : Word} (fetched : fetchWord u g.core (asidOf u g.launch) (wordAddr g).toNat = some w)
include fetched

theorem issueOf_body (first : g.rep = none ∨ ∃ r, g.rep = some r ∧ g.repi = 0) : issueOf u g = runOrIllop u g w := by
  rcases first with plain | ⟨r, rep, first⟩
  · simp only [issueOf, body, len, if_false, fetched, plain]
  · simp only [issueOf, body, len, if_false, fetched, rep, first, if_true]

variable {r : Rep} (rep : g.rep = some r) (later : g.repi ≠ 0) (decodes : (decodeWord w).isSome = true)
include rep later decodes

theorem issueOf_stepped {x : Word} (stepped : stepWord w r g.repi = some x) : issueOf u g = runOrIllop u g x := by
  obtain ⟨i, hi⟩ := Option.isSome_iff_exists.mp decodes
  simp only [issueOf, body, len, if_false, fetched, rep, later, hi, stepped]

theorem issueOf_unstepped (stepped : stepWord w r g.repi = none) : issueOf u g = .trap { code := .illopnd } := by
  obtain ⟨i, hi⟩ := Option.isSome_iff_exists.mp decodes
  simp only [issueOf, body, len, if_false, fetched, rep, later, hi, stepped]

end

end

/-- Settles O53: a step issues the word of the group's turn, and issueOf says what that word is. -/
theorem stepRunsWord : Obligations.StepRunsWord := by
  unfold Obligations.StepRunsWord
  rintro s u c rest g next rfl here
  have turn : step s = Machine.noted (issueTurn { s with turns := rest } c) := step_cons next
  refine ⟨fun may => by rw [turn, issueTurn_waits here may], fun a may ha blocked => by subst ha; rw [turn, issueTurn_asks here may blocked], ?_⟩
  rintro may noRom a v rfl ready rfl f hf stop hstop
  have runs {i : Instr} (run : issueOf { s with turns := rest } g = .run i) := turn.trans (congrArg Machine.noted (issueTurn_runs here may ready noRom run))
  have stops {t : Trap} (trap : issueOf { s with turns := rest } g = .trap t) : stop t :=
    (hstop t).mpr (turn.trans (congrArg Machine.noted (issueTurn_traps here may ready noRom trap)))
  simp only [hf]
  refine ⟨?header, ?noHeader, ?noWord, fun body len => ⟨?first, ?noRow, ?branch, ?rep, ?stepped, ?unstepped, ?xlate, ?prot, ?page⟩⟩
  case header => exact fun w i start fetched header decodes => runs ((issueOf_header start fetched header).trans (runOrIllop_of_decode decodes))
  case noHeader => exact fun w start fetched header => stops (issueOf_noHeader start fetched header)
  case noWord => exact fun start fetched => stops (issueOf_noWord start fetched)
  case first => exact fun w i plain fetched decodes => runs ((issueOf_body body len fetched (.inl plain)).trans (runOrIllop_of_decode decodes))
  case noRow => exact fun w plain fetched noRow noBranch => stops ((issueOf_body body len fetched (.inl plain)).trans (runOrIllop_of_noRow noRow noBranch))
  case branch => exact fun w j plain fetched noRow branch => stops ((issueOf_body body len fetched (.inl plain)).trans (runOrIllop_of_branch noRow branch))
  case rep => exact fun w i r rep first fetched decodes => runs ((issueOf_body body len fetched (.inr ⟨r, rep, first⟩)).trans (runOrIllop_of_decode decodes))
  case stepped =>
    exact fun w x i r rep later fetched whole stepped decodes => runs ((issueOf_stepped body len fetched rep later whole stepped).trans (runOrIllop_of_decode decodes))
  case unstepped => exact fun w r rep later fetched whole stepped => stops (issueOf_unstepped body len fetched rep later whole stepped)
  case xlate => exact fun fetched xlat => stops ((issueOf_unfetched body len fetched).trans (by rw [fetchTrap, xlat]))
  case prot => exact fun fetched xlat => stops ((issueOf_unfetched body len fetched).trans (by rw [fetchTrap, xlat]))
  case page => exact fun l fetched xlat => stops ((issueOf_unfetched body len fetched).trans (by rw [fetchTrap, xlat]))

/-- Settles O54: the schedule's head is the step. -/
theorem stepRunsEvent : Obligations.StepRunsEvent := by
  unfold Obligations.StepRunsEvent
  refine ⟨?event, ?command, ?clock, ?elapse, ?store⟩
  case event =>
    rintro s i rest u next rfl
    refine ⟨fun takes t run => ?_, fun stays => ?_⟩
    · rw [step_cons next, runTurn, if_pos takes, run]
      rfl
    · rw [step_cons next, runTurn, if_neg (by simp [stays])]
  case command =>
    intro s opc c i noWord opcode wf head
    simp only [takesPlace, noWord, opcode, atHead, head, isCommand, wf, Option.isSome_none, Bool.false_eq_true, if_false, decide_true, Bool.and_self]
  case clock =>
    intro s none_
    have clock : step s = .next (elapse s 1) := by simp only [step, none_]
    exact clock
  case elapse => exact fun s n rest next => step_cons next
  case store => exact fun s a bs rest next => step_cons next

/-! ## The bytes of a command (R36) -/

theorem length_natBytes : (n v : Nat) → (natBytes n v).length = n
  | 0, _ => rfl
  | n + 1, v => congrArg (· + 1) (length_natBytes n (v / 256))

/-- The bytes of a number give back what of it they hold. -/
theorem leNat_natBytes : (n v : Nat) → leNat (natBytes n v) = v % 256 ^ n
  | 0, v => by rw [Nat.pow_zero, Nat.mod_one]; rfl
  | n + 1, v => by
    rw [natBytes, leNat, leNat_natBytes n, BitVec.toNat_ofNat, Nat.pow_succ' (m := 256)]
    exact (Nat.mod_mul (x := v) (a := 256) (b := 256 ^ n)).symm

theorem leAt_natBytes_append (n v : Nat) (t : List Byte) : leAt (natBytes n v ++ t) 0 n = v % 256 ^ n := by
  rw [leAt, List.drop_zero, List.take_append_of_le_length (Nat.le_of_eq (length_natBytes n v).symm),
    List.take_of_length_le (Nat.le_of_eq (length_natBytes n v)), leNat_natBytes]

theorem leAt_natBytes (n v : Nat) : leAt (natBytes n v) 0 n = v % 256 ^ n := by
  rw [← List.append_nil (natBytes n v), leAt_natBytes_append]

/-- A field that stands after some bytes is found in what follows them. -/
theorem leAt_append {n o k : Nat} (v : Nat) (t : List Byte) (past : n ≤ o) : leAt (natBytes n v ++ t) o k = leAt t (o - n) k := by
  rw [leAt, List.drop_append, List.drop_eq_nil_of_le (by rw [length_natBytes]; exact past), List.nil_append, length_natBytes, leAt]

theorem commandBytes_fields (opc : Nat) (c : HostCmd) (m : List Byte) (hm : m = commandBytes opc c) : m.length = 64 ∧
    leAt m 0 2 = opc % 256 ^ 2 ∧ leAt m 2 2 = 0 ∧ leAt m 4 2 = c.cid.toNat ∧ leAt m 6 2 = 0 ∧ leAt m 8 2 = c.tenant.toNat ∧ leAt m 10 6 = 0 ∧
    leAt m 16 8 = c.a0.toNat ∧ leAt m 24 8 = c.a1.toNat ∧ leAt m 32 8 = c.a2.toNat ∧ leAt m 40 8 = c.a3.toNat ∧ leAt m 48 8 = c.a4.toNat ∧ leAt m 56 8 = c.a5.toNat := by
  have short (x : BitVec 16) : x.toNat % 256 ^ 2 = x.toNat := Nat.mod_eq_of_lt x.isLt
  have long (x : DWord) : x.toNat % 256 ^ 8 = x.toNat := Nat.mod_eq_of_lt x.isLt
  subst hm
  rw [commandBytes]
  simp only [List.append_assoc, List.length_append, length_natBytes, leAt_natBytes_append, leAt_natBytes, leAt_append, Nat.reduceLeDiff, Nat.reduceSub,
    Nat.le_refl, Nat.zero_mod, short, long, and_self]

theorem parseCommand_commandBytes {opc : Nat} (low : opc < 65536) {c : HostCmd} (plain : c.rsv = false) :
    parseCommand c.fn c.q c.pick (commandBytes opc c) = (opc, c) := by
  obtain ⟨-, hopc, z2, hcid, z6, htenant, z10, h0, h1, h2, h3, h4, h5⟩ := commandBytes_fields opc c _ rfl
  have word {w : Nat} (x : BitVec w) : BitVec.ofNat w x.toNat = x := BitVec.eq_of_toNat_eq (by rw [BitVec.toNat_ofNat, Nat.mod_eq_of_lt x.isLt])
  rw [Nat.mod_eq_of_lt (show opc < 256 ^ 2 from low)] at hopc
  simp only [leAt] at hopc z2 hcid z6 htenant z10 h0 h1 h2 h3 h4 h5
  simp only [parseCommand, hopc, z2, hcid, z6, htenant, z10, h0, h1, h2, h3, h4, h5, word, beq_self_eq_true, Bool.and_self, Bool.not_true, ← plain]

/-! ## The checks of a command's row (R39) -/

/-- The rule that a command runs by is its row of the table. -/
def RuleOf (r : Rule) (e : CmdRow) (c : HostCmd) : Prop := r.pf = e.pf c ∧ r.device = e.device c ∧ r.early = e.early ∧ r.feats = e.feats c

/-- Each command of the table runs by the rule of its row. -/
theorem hasRow_run {mk : HostCmd → Instr} {e : CmdRow} (row : HasRow mk e) (s : State) (c : HostCmd) :
    ∃ r body, RuleOf r e c ∧ exec (mk c) s = .next (runCommand c r body s) := by
  simp only [HasRow, List.cons_append, List.nil_append, List.mem_cons, Prod.mk.injEq, List.not_mem_nil, or_false] at row
  casesm* _ ∨ _
  all_goals
    obtain ⟨rfl, rfl⟩ := row
    exact ⟨_, _, ⟨rfl, rfl, rfl, rfl⟩, rfl⟩

/-- A row asks no more of a command than its tenant and its argument words. -/
theorem hasRow_congr {mk : HostCmd → Instr} {e : CmdRow} (row : HasRow mk e) {c : HostCmd} {t : BitVec 16} (same : t.toNat % 4096 = c.tenant.toNat % 4096) :
    e.pf { c with rsv := false, tenant := t } = e.pf c ∧ e.device { c with rsv := false, tenant := t } = e.device c ∧
      e.feats { c with rsv := false, tenant := t } = e.feats c := by
  have tenant : tnOf { c with rsv := false, tenant := t } = tnOf c := same
  simp only [HasRow, List.cons_append, List.nil_append, List.mem_cons, Prod.mk.injEq, List.not_mem_nil, or_false] at row
  casesm* _ ∨ _
  all_goals
    obtain ⟨-, rfl⟩ := row
    refine ⟨?_, ?_, rfl⟩ <;> simp only [tenant, devRow, pfRow, tenantRow]

/-- Reading a command leaves what its checks look at. -/
theorem preCheck_readOn (s : State) (c : HostCmd) (r : Rule) : preCheck (readOn s c) c r = preCheck s c r := rfl

/-- The checks of a command are those of its row, then what its own rule says of its fields (R39). -/
theorem preCheck_eq {s : State} {c : HostCmd} {r : Rule} {e : CmdRow} (rule : RuleOf r e c) :
    preCheck s c r = (firstFailure s c e).or (if r.bad then some stBadfield else none) := by
  obtain ⟨pf, device, early, feats⟩ := rule
  rw [preCheck, firstFailure, pf, device, early, feats]
  by_cases alarm : alarmLevel s = 3
  · rw [if_pos alarm, if_pos alarm]; rfl
  rw [if_neg alarm, if_neg alarm]
  by_cases function : e.pf c = true ∧ c.fn ≠ 0
  · rw [if_pos (by simp [function]), if_pos function]; rfl
  by_cases device : e.device c = true ∧ tnOf c ≠ 0
  · rw [if_pos (by simp [device]), if_neg function, if_pos device]; rfl
  by_cases tenant : e.device c = false ∧ tenantHere s (tnOf c) c.fn = false
  · rw [if_pos (by simp [tenant]), if_neg function, if_neg device, if_pos tenant]; rfl
  have named : ¬ ((e.pf c && c.fn != 0) || if e.device c = true then tnOf c != 0 else !tenantHere s (tnOf c) c.fn) = true := by
    cases hd : e.device c <;> simp_all
  rw [if_neg named, if_neg function, if_neg device, if_neg tenant]
  by_cases early : s.locked = false ∧ e.early = false
  · rw [if_pos (by simp [early]), if_pos early]; rfl
  rw [if_neg (by simpa using early), if_neg early]
  by_cases feature : (e.feats c).any (fun b => !featOn s b) = true
  · rw [if_pos feature, if_pos feature]; rfl
  rw [if_neg feature, if_neg feature]
  by_cases reserved : c.rsv = true ∨ 4096 ≤ c.tenant.toNat
  · rw [if_pos reserved, if_pos (by rcases reserved with h | h <;> simp [h])]; rfl
  obtain ⟨rsv, low⟩ := not_or.mp reserved
  rw [if_neg reserved, Option.none_or, Bool.eq_false_iff.mpr rsv, decide_eq_false low, Bool.or_false, Bool.or_false]

/-! ## What becomes of a command -/

theorem afterRead_eq (s t : State) (fn q : Nat) :
    afterRead s t fn q = if bellDone (qpOf s fn q) = true ∧ copiesPrompt t fn q = false then ringOut t fn q else t := by
  simp only [afterRead, Bool.and_eq_true, Bool.not_eq_true']

section
variable {s : State} {c : HostCmd} {r : Rule} {body : State → Owed → Ans} {o : Out} (run : o = .next (runCommand c r body s))
include run

/-- A queue that cannot be read stays as it is. -/
theorem runCommand_unread (unread : canRead s c.fn c.q = false) : o = .next s := by
  rw [run, runCommand, if_pos (by simp [unread])]

variable (readable : canRead s c.fn c.q = true)
include readable

/-- A command whose checks fail completes with the status of the first that does. -/
theorem runCommand_fails {st : Nat} (failure : preCheck s c r = some st) : Fails s c o st := by
  rw [← preCheck_readOn] at failure
  rw [Fails, Completes, Deferred, run, runCommand, if_neg (by simp [readable])]
  simp only [readOn] at failure
  simp only [failure, afterRead_eq]
  rfl

variable (passes : preCheck s c r = none)
include passes

theorem runCommand_of_fail {st : Nat} (answer : body (readOn s c) (owedTo s c) = .fail st) : Fails s c o st := by
  rw [← preCheck_readOn] at passes
  rw [Fails, Completes, Deferred, run, runCommand, if_neg (by simp [readable])]
  simp only [readOn] at passes answer
  simp only [passes, answer, afterRead_eq]
  rfl

theorem runCommand_of_ok {t : State} {res : DWord} (answer : body (readOn s c) (owedTo s c) = .ok t res) : Completes s c o t stOk res := by
  rw [← preCheck_readOn] at passes
  rw [Completes, Deferred, run, runCommand, if_neg (by simp [readable])]
  simp only [readOn] at passes answer
  simp only [passes, answer, afterRead_eq]

theorem runCommand_of_later {t : State} (answer : body (readOn s c) (owedTo s c) = .later t) : Deferred s c o t := by
  rw [← preCheck_readOn] at passes
  rw [Deferred, run, runCommand, if_neg (by simp [readable])]
  simp only [readOn] at passes answer
  simp only [passes, answer, afterRead_eq]

end

/-! ## The checks in order (R36, R39) -/

theorem hasRow_unread {mk : HostCmd → Instr} {e : CmdRow} (row : HasRow mk e) {s : State} {c : HostCmd} (unread : canRead s c.fn c.q = false) :
    exec (mk c) s = .next s := by
  obtain ⟨r, body, -, run⟩ := hasRow_run row s c
  exact runCommand_unread run unread

theorem hasRow_fails {mk : HostCmd → Instr} {e : CmdRow} (row : HasRow mk e) {s : State} {c : HostCmd} (readable : canRead s c.fn c.q = true) {st : Nat}
    (failure : firstFailure s c e = some st) : Fails s c (exec (mk c) s) st := by
  obtain ⟨r, body, rule, run⟩ := hasRow_run row s c
  exact runCommand_fails run readable (by rw [preCheck_eq rule, failure]; rfl)

/-- An OPC outside the table (R39 item 1). -/
theorem badCommand_fails {s : State} {c : HostCmd} {h : Nat} (readable : canRead s c.fn c.q = true)
    (parsed : parseCommand c.fn c.q [] (headBytes s c.fn c.q) = (h, c)) (unknown : opcKnown h = false) :
    Fails s c (.next (badCommand c.fn c.q s)) stBadop := by
  rw [Fails, Completes, Deferred, badCommand, if_neg (by simp [readable])]
  simp only [parsed, unknown, Bool.false_eq_true, if_false, afterRead_eq]
  rfl

/-- Settles O39: a command of the table runs by its row's rule, whose checks are those of the row in their order. -/
theorem commandChecks : Obligations.CommandChecks := by
  unfold Obligations.CommandChecks
  refine ⟨fun mk e row s c => ⟨hasRow_unread row, fun readable st => hasRow_fails row readable⟩, fun s c => ⟨fun full => ?full, fun room readable st failure => ?launch⟩, ?badop⟩
  case full =>
    rw [exec_launch, execLaunch, if_pos (by simp [full])]
  case launch =>
    have run : exec (.launch c) s = .next (runCommand c _ _ s) := congrArg Host.Outcome.next (if_neg (by simp [room]))
    exact runCommand_fails run readable (by rw [preCheck_eq (e := tenantRow fun _ => []) ⟨rfl, rfl, rfl, rfl⟩, failure]; rfl)
  case badop =>
    rintro s _ _ h c readable rfl rfl parsed unknown
    exact badCommand_fails readable parsed unknown

/-- A command that passes all but for its reserved bits fails by them (R39 item 6). -/
theorem firstFailure_of_reserved {mk : HostCmd → Instr} {e : CmdRow} (row : HasRow mk e) {s : State} {c : HostCmd} (reserved : c.rsv = true ∨ 4096 ≤ c.tenant.toNat)
    (rest : firstFailure s { c with rsv := false, tenant := c.tenant &&& 0xFFF } e = none) : firstFailure s c e = some stBadfield := by
  have low : (c.tenant &&& 0xFFF).toNat = c.tenant.toNat % 4096 := by
    rw [BitVec.toNat_and]; exact Nat.and_two_pow_sub_one_eq_mod c.tenant.toNat 12
  have same : (c.tenant &&& 0xFFF).toNat % 4096 = c.tenant.toNat % 4096 := by rw [low, Nat.mod_mod]
  have tenant : tnOf { c with rsv := false, tenant := c.tenant &&& 0xFFF } = tnOf c := same
  obtain ⟨pf, device, feats⟩ := hasRow_congr row same
  simp only [firstFailure, pf, device, feats, tenant] at rest ⊢
  simp only [reserved, if_true]
  split_ifs at rest ⊢
  rfl

/-- Settles O60: the fields of a command stand at their places, and the reserved ones are checked last of the row's. -/
theorem commandRoundTrip : Obligations.CommandRoundTrip := by
  unfold Obligations.CommandRoundTrip
  refine ⟨fun opc c low plain m hm => ?bytes, fun fn q pick m => ?reserved, fun mk e row s c readable reserved rest => ?checked⟩
  case bytes =>
    obtain ⟨len, hopc, fields⟩ := commandBytes_fields opc c m hm
    exact ⟨len, by rw [hm]; exact parseCommand_commandBytes low plain, hopc.trans (Nat.mod_eq_of_lt low), fields⟩
  case reserved =>
    have rsv : (parseCommand fn q pick m).2.rsv = !(leAt m 2 2 == 0 && leAt m 6 2 == 0 && leAt m 10 6 == 0) := rfl
    rw [rsv]
    simp only [Bool.not_eq_true', Bool.and_eq_false_iff, beq_eq_false_iff_ne, or_assoc]
  case checked => exact hasRow_fails row readable (firstFailure_of_reserved row reserved rest)

end Sys2Proof.Claims
end

section
/-! PROOFS. The registers of the queues: doorbells, QCTL, the bases, and how they read (R32, R34, R35). -/

namespace Sys2Proof.Claims
open Sys2Proof.Machine

/-! ## One queue pair -/

theorem tset_tset_same {α : Type} (t : Table α) (k : Nat) (v w : α) : tset (tset t k v) k w = tset t k w := by
  induction t with
  | nil => simp [tset]
  | cons e r ih =>
    obtain ⟨j, x⟩ := e
    by_cases before : k < j
    · simp [tset, before]
    · by_cases here : k = j
      · simp [tset, here]
      · simp [tset, before, here, ih]

@[simp] theorem qpOf_setQp (s : State) (fn q : Nat) (p : QPair) : qpOf (setQp s fn q p) fn q = p := by
  simp only [qpOf, setQp, tgetD, tget_tset_same, Option.getD_some]

@[simp] theorem setQp_setQp (s : State) (fn q : Nat) (p r : QPair) : setQp (setQp s fn q p) fn q r = setQp s fn q r := by
  simp only [setQp, tgetD, tget_tset_same, Option.getD_some, tset_tset_same]

@[simp] theorem qpExists_setQp (s : State) (fn q : Nat) (p : QPair) (fn' q' : Nat) : qpExists (setQp s fn q p) fn' q' = qpExists s fn' q' := rfl

theorem nbit_toNat {n : Nat} (x : BitVec n) (i : Nat) : nbit x.toNat i = x.getLsbD i := by
  rw [nbit, BitVec.getLsbD, Nat.testBit_eq_decide_div_mod_eq]
  rfl

/-! ## Doorbells (R35) -/

section
variable {s : State} {fn q n len : Nat} {w : Word} (exists_ : qpExists s fn q = true) (ready : s.rdy = true) (on : (qpOf s fn q).en = true)
  (hn : n = w.toNat % 65536)
include exists_ ready on hn

theorem sqtdb_run (hlen : len = 16 * 2 ^ (qpOf s fn q).sqsz) : exec (.sqtdbWrite fn q w) s = .next (
    if n = (qpOf s fn q).sqtail then s
    else if len ≤ n ∨ len ≤ ((qpOf s fn q).sqtail + len - (qpOf s fn q).sqhead) % len + (n + len - (qpOf s fn q).sqtail) % len then
      setQp s fn q (bellFault (qpOf s fn q))
    else setQp s fn q { qpOf s fn q with sqtail := n, bells := (qpOf s fn q).bells ++ [(n + len - (qpOf s fn q).sqtail) % len] }) := by
  subst hn hlen
  simp only [exec_sqtdbWrite, execSqtdbWrite, writeSqtdb, Bool.or_eq_true, decide_eq_true_eq]
  simp only [sqLen, exists_, ready, on, Bool.not_true, Bool.false_eq_true, false_or]

theorem cqhdb_run (hlen : len = 16 * 2 ^ (qpOf s fn q).cqsz) : exec (.cqhdbWrite fn q w) s = .next (
    if len ≤ n ∨ ((qpOf s fn q).cqtail + len - (qpOf s fn q).cqhead) % len < (n + len - (qpOf s fn q).cqhead) % len then
      setQp s fn q (bellFault (qpOf s fn q))
    else drainPosts (setQp s fn q { qpOf s fn q with cqhead := n }) fn q ((qpOf s fn q).post.length + 1)) := by
  subst hn hlen
  simp only [exec_cqhdbWrite, execCqhdbWrite, writeCqhdb, Bool.or_eq_true, decide_eq_true_eq]
  simp only [cqLen, exists_, ready, on, Bool.not_true, Bool.false_eq_true, or_self, if_false]

end

/-! ## QCTL (R34) -/

/-- A pair as a write of QCTL with ERR set in it finds it. -/
def cleared (p : QPair) (clear : Bool) : QPair := { p with err := p.err && !clear }

theorem cleared_eq (p : QPair) (clear : Bool) : (if clear = true then { p with err := false } else p) = cleared p clear := by
  cases clear
  · simp [cleared]
  · simp [cleared]

section
variable {s : State} {fn q : Nat} {w : Word} (exists_ : qpExists s fn q = true)
include exists_

theorem writeQctl_on (on : (qpOf s fn q).en = true) : writeQctl s fn q w.toNat =
    setQp s fn q (if w.getLsbD 31 = true then cleared (qpOf s fn q) (w.getLsbD 30) else { cleared (qpOf s fn q) (w.getLsbD 30) with en := false }) := by
  have still : (cleared (qpOf s fn q) (w.getLsbD 30)).en = true := on
  simp only [writeQctl, nbit_toNat, cleared_eq, exists_, still, Bool.not_true, Bool.false_eq_true, if_false, if_true]

theorem writeQctl_enables (off : (qpOf s fn q).en = false) (on : w.getLsbD 31 = true) {e : QPair}
    (he : e = { qpOf s fn q with err := (qpOf s fn q).err && !w.getLsbD 30, sqsz := w.toNat / 2 ^ 16 % 16, cqsz := w.toNat / 2 ^ 20 % 16 }) :
    writeQctl s fn q w.toNat = if 8 < e.sqsz ∨ 8 < e.cqsz then setQp s fn q { e with err := true } else ringOut (setQp s fn q { e with
        en := true, sqhead := 0, sqtail := 0, cqtail := 0, cqhead := 0, phase := true, era := e.era + 1, stopped := e.stopped && e.err, bells := [], post := [] }) fn q := by
  subst he
  have still : (cleared (qpOf s fn q) (w.getLsbD 30)).en = false := off
  simp only [writeQctl, Bool.or_eq_true, decide_eq_true_eq]
  simp only [nbit_toNat, cleared_eq, exists_, still, on, Bool.not_true, Bool.false_eq_true, if_false]
  simp only [off]
  rfl

end

/-! ## The bases -/

theorem maskBase_eq (x : DWord) : maskBase x = x &&& ~~~0x3F#64 := by
  apply BitVec.eq_of_getLsbD_eq
  intro i hi
  have low : (0x3F#64).getLsbD i = decide (i < 6) := by
    rw [BitVec.getLsbD_ofNat, show (0x3F : Nat) = 2 ^ 6 - 1 from rfl, Nat.testBit_two_pow_sub_one]
    simp [hi]
  rw [maskBase, BitVec.getLsbD_ofNat, show x.toNat / 64 * 64 = x.toNat / 2 ^ 6 * 2 ^ 6 from rfl, Nat.testBit_mul_two_pow, BitVec.getLsbD_and,
    BitVec.getLsbD_not, low, BitVec.getLsbD]
  by_cases high : 6 ≤ i
  · rw [Nat.testBit_div_two_pow, Nat.sub_add_cancel high]
    simp [hi, high, Nat.not_lt.mpr high]
  · simp [high, Nat.lt_of_not_le high]

/-- A base that is written half by half is the whole, with its low bits 0. -/
theorem setWord_both (old x : DWord) :
    maskBase (setWord (maskBase (setWord old false (x.toNat % 2 ^ 32))) true (x.toNat / 2 ^ 32)) = x &&& ~~~0x3F#64 := by
  rw [← maskBase_eq]
  apply BitVec.eq_of_toNat_eq
  have hx := x.isLt
  have ho := old.isLt
  simp only [maskBase, setWord, if_true, Bool.false_eq_true, if_false, BitVec.toNat_ofNat]
  omega

section
variable {s : State} {fn q : Nat} (exists_ : qpExists s fn q = true)
include exists_

omit exists_ in
/-- Where register k of a pair stands, and that it is of that pair. -/
theorem register_place (q : Nat) {k : Nat} (low : k < 32) :
    (0x1000 + 32 * q + k - 0x1000) / 32 = q ∧ (0x1000 + 32 * q + k) % 32 = k ∧ ¬ 0x1000 + 32 * q + k < 0x1000 := by
  refine ⟨?_, ?_, Nat.not_lt.mpr ((Nat.le_add_right _ _).trans (Nat.le_add_right _ _))⟩
  · rw [Nat.add_assoc, Nat.add_sub_cancel_left, Nat.mul_add_div (by decide), Nat.div_eq_of_lt low]
    rfl
  · rw [show (0x1000 : Nat) = 32 * 128 from rfl, ← Nat.mul_add, Nat.mul_add_mod, Nat.mod_eq_of_lt low]

/-- A 32-bit write of a half of a base. -/
theorem regWrite_base {k v : Nat} (off : (qpOf s fn q).en = false) (register : k = 0 ∨ k = 4) :
    regWrite s fn (0x1000 + 32 * q + k) v = setQp s fn q { qpOf s fn q with sqb := maskBase (setWord (qpOf s fn q).sqb (decide (k = 4)) v) } ∧
    regWrite s fn (0x1000 + 32 * q + 8 + k) v = setQp s fn q { qpOf s fn q with cqb := maskBase (setWord (qpOf s fn q).cqb (decide (k = 4)) v) } := by
  have low : k < 24 := by rcases register with rfl | rfl <;> decide
  obtain ⟨pair, place, high⟩ := register_place q (show k < 32 from low.trans (by decide))
  obtain ⟨pair8, place8, high8⟩ := register_place q (show 8 + k < 32 from Nat.add_lt_add_left low 8)
  rw [Nat.add_assoc _ 8 k]
  simp only [regWrite, pair, place, high, pair8, place8, high8, exists_, off, decide_false, Bool.not_true, Bool.or_self, Bool.false_eq_true, if_false]
  rcases register with rfl | rfl
  · exact ⟨if_pos rfl, (if_neg (by decide)).trans (if_pos rfl)⟩
  · exact ⟨if_pos rfl, (if_neg (by decide)).trans (if_pos rfl)⟩

/-- An eight-byte write of a base (R34). -/
theorem registerWrite_base (off : (qpOf s fn q).en = false) (x : DWord) :
    exec (.registerWrite fn (0x1000 + 32 * q) 8 x) s = .next (setQp s fn q { qpOf s fn q with sqb := x &&& ~~~0x3F#64 }) ∧
    exec (.registerWrite fn (0x1000 + 32 * q + 8) 8 x) s = .next (setQp s fn q { qpOf s fn q with cqb := x &&& ~~~0x3F#64 }) := by
  have whole : (0x1000 + 32 * q) % 8 = 0 ∧ (0x1000 + 32 * q + 8) % 8 = 0 := by omega
  have first := fun v => regWrite_base exists_ (k := 0) (v := v) off (.inl rfl)
  have second := fun p (poff : p.en = false) v => regWrite_base (s := setQp s fn q p) (k := 4) (v := v) exists_ (by rw [qpOf_setQp]; exact poff) (.inr rfl)
  simp only [Nat.add_zero, qpOf_setQp, setQp_setQp] at first second
  simp only [exec_registerWrite, execRegisterWrite, whole, show (8 : Nat) ≠ 4 from by decide, decide_false, decide_true, Bool.false_and, Bool.and_self,
    Bool.false_eq_true, if_false, if_true, first, show decide ((0 : Nat) = 4) = false from rfl]
  refine ⟨congrArg _ ?_, congrArg _ ?_⟩
  · rw [(second { qpOf s fn q with sqb := maskBase (setWord (qpOf s fn q).sqb false (x.toNat % 2 ^ 32)) } off _).1]
    exact congrArg (fun b => setQp s fn q { qpOf s fn q with sqb := b }) (setWord_both _ x)
  · rw [(second { qpOf s fn q with cqb := maskBase (setWord (qpOf s fn q).cqb false (x.toNat % 2 ^ 32)) } off _).2]
    exact congrArg (fun b => setQp s fn q { qpOf s fn q with cqb := b }) (setWord_both _ x)

/-! ## Reads (R32 to R34) -/

/-- The registers of a pair that exists. -/
theorem regWord_pair (k : Nat) (low : k < 32) : regWord s fn (0x1000 + 32 * q + k) =
    (if k = 0 then (qpOf s fn q).sqb.setWidth 32 else if k = 4 then ((qpOf s fn q).sqb >>> 32).setWidth 32 else if k = 8 then (qpOf s fn q).cqb.setWidth 32
      else if k = 12 then ((qpOf s fn q).cqb >>> 32).setWidth 32 else if k = 16 then qctl (qpOf s fn q) else 0) := by
  obtain ⟨pair, place, high⟩ := register_place q low
  have named : ¬ 0x1000 + 32 * q + k = 0 := fun zero => high (zero ▸ by decide)
  simp only [regWord, pair, place, high, named, exists_, decide_false, Bool.not_true, Bool.or_self, Bool.false_eq_true, if_false]
  split <;> simp_all

end

theorem halves (x : DWord) : (x.setWidth 32).setWidth 64 + (((x >>> 32).setWidth 32).setWidth 64 <<< 32) = x := by
  apply BitVec.eq_of_toNat_eq
  have hx := x.isLt
  simp only [BitVec.toNat_add, BitVec.toNat_setWidth, BitVec.toNat_shiftLeft, BitVec.toNat_ushiftRight, Nat.shiftLeft_eq, Nat.shiftRight_eq_div_pow]
  omega

/-- An access of another width or place is dropped (R32). -/
theorem regRead_dropped (s : State) (fn : Nat) {off width : Nat} (odd : width ≠ 4 ∧ width ≠ 8 ∨ off % width ≠ 0) : regRead s fn off width = 0 := by
  have not4 : (decide (width = 4) && decide (off % 4 = 0)) = false := by
    by_cases h : width = 4
    · subst h; simpa using odd
    · simp [h]
  have not8 : (decide (width = 8) && decide (off % 8 = 0)) = false := by
    by_cases h : width = 8
    · subst h; simpa using odd
    · simp [h]
  rw [regRead, if_neg (by simp [not4]), if_neg (by simp [not8])]

theorem registerWrite_dropped (s : State) (fn : Nat) {off width : Nat} (x : DWord) (odd : width ≠ 4 ∧ width ≠ 8 ∨ off % width ≠ 0 ∨ off < 0xFF8) :
    exec (.registerWrite fn off width x) s = .next s := by
  have low (t : State) (o v : Nat) (h : o < 0x1000) : regWrite t fn o v = t := by rw [regWrite, if_pos (by simp [h])]
  rw [exec_registerWrite, execRegisterWrite]
  split_ifs with four eight
  · simp only [Bool.and_eq_true, decide_eq_true_eq] at four
    obtain ⟨rfl, whole⟩ := four
    rw [low s off _ (by omega)]
  · simp only [Bool.and_eq_true, decide_eq_true_eq] at eight
    obtain ⟨rfl, whole⟩ := eight
    rw [low s off _ (by omega), low s (off + 4) _ (by omega)]
  · rfl

/-- Settles O40: each register's access by what it does to the pair. -/
theorem queueRegisters : Obligations.QueueRegisters := by
  unfold Obligations.QueueRegisters
  rintro s fn q p exists_ rfl w n hn
  refine ⟨?tail, ?head, ?enable, ?disable, ?clear, ?base, ?read, ?oddRead, ?oddWrite⟩
  case tail =>
    rintro ready on len more hlen rfl
    rw [sqtdb_run exists_ ready on hn hlen]
    exact ⟨fun same => by rw [if_pos same], fun other past => by rw [if_neg other, if_pos past]; rfl,
      fun other low room => by rw [if_neg other, if_neg (not_or.mpr ⟨Nat.not_le.mpr low, Nat.not_le.mpr room⟩)]⟩
  case head =>
    intro ready on len hlen
    rw [cqhdb_run exists_ ready on hn hlen]
    exact ⟨fun past => by rw [if_pos past]; rfl, fun low within => by rw [if_neg (not_or.mpr ⟨Nat.not_le.mpr low, Nat.not_lt.mpr within⟩)]⟩
  case enable =>
    intro off on e he
    have run : exec (.queueEnable fn q w) s = .next (writeQctl s fn q w.toNat) := by
      simp only [exec_queueEnable, execQueueEnable, nbit_toNat, on, off, Bool.not_false, Bool.and_self, if_true]
    rw [run, writeQctl_enables exists_ off on he]
    exact ⟨fun sq cq => by rw [if_neg (not_or.mpr ⟨Nat.not_lt.mpr sq, Nat.not_lt.mpr cq⟩)], fun large => by rw [if_pos large]⟩
  case disable =>
    intro on off
    rw [exec_queueDisable, execQueueDisable, if_pos (by rw [nbit_toNat, off, on]; rfl), writeQctl_on exists_ on, if_neg (by rw [off]; decide)]
    rfl
  case clear =>
    intro on bit31 bit30
    rw [exec_qctlErrClear, execQctlErrClear, if_pos (by rw [nbit_toNat]; exact bit30), writeQctl_on exists_ on, if_pos bit31, bit30, cleared]
    simp
  case base => exact fun off x => registerWrite_base exists_ off x
  case read =>
    intro _
    have at0 := regWord_pair exists_ 0 (by decide)
    have at4 := regWord_pair exists_ 4 (by decide)
    have at8 := regWord_pair exists_ 8 (by decide)
    have at12 := regWord_pair exists_ 12 (by decide)
    have at16 := regWord_pair exists_ 16 (by decide)
    have whole : (0x1000 + 32 * q) % 8 = 0 ∧ (0x1000 + 32 * q + 8) % 8 = 0 ∧ (0x1000 + 32 * q + 16) % 4 = 0 := by omega
    simp only [Nat.add_zero, Nat.reduceEqDiff, if_true, if_false] at at0 at4 at8 at12 at16
    refine ⟨rfl, ?_, ?_, ?_⟩
    · simp only [regRead, whole, at0, at4]; simpa using halves (qpOf s fn q).sqb
    · simp only [regRead, whole, at8, Nat.add_assoc (0x1000 + 32 * q) 8 4, Nat.reduceAdd]
      simpa [at12] using halves (qpOf s fn q).cqb
    · simp [regRead, whole, at16]
  case oddRead => exact fun off width odd => regRead_dropped s fn odd
  case oddWrite => exact fun off width x odd => registerWrite_dropped s fn x odd

end Sys2Proof.Claims
end

section
/-! PROOFS. The commands about the device: each is read, passes its row's checks, and gives its answer (R40 to R43, R50, R386, R404 to R410). -/

namespace Sys2Proof.Claims
open Sys2Proof.Machine

/-! ## A command that passes its row's checks -/

section
variable {s : State} {c : HostCmd}

theorem preCheck_of_passes {r : Rule} (pass : Passes s c r.pf r.device r.early r.feats) (good : r.bad = false) : preCheck s c r = none := by
  obtain ⟨-, alarm, function, device, tenant, early, feats, rsv, low⟩ := pass
  have whose : ((r.pf && c.fn != 0) || if r.device = true then tnOf c != 0 else !tenantHere s (tnOf c) c.fn) = false := by
    have physical : (r.pf && c.fn != 0) = false := by
      cases h : r.pf with
      | false => rfl
      | true => simp [function h]
    rw [physical, Bool.false_or]
    cases h : r.device with
    | true => simp [device h]
    | false =>
      obtain ⟨x, found, fn, closing⟩ := tenant h
      simp [tenantHere, found, fn, closing]
  have ready : (!s.locked && !r.early) = false := by rcases early with h | h <;> simp [h]
  have accepted : (r.feats.any fun b => !featOn s b) = false := List.any_eq_false.mpr fun b hb => by simp [feats b hb]
  simp only [preCheck, alarm, whose, ready, accepted, good, rsv, Nat.not_le.mpr low, decide_false, Bool.or_self, Bool.false_eq_true, if_false]

/-- Argument words that a row does not name are checked by noArgs. -/
theorem noArgs_of_unused {l : List DWord} (unused : Unused l) : noArgs l = false :=
  List.any_eq_false.mpr fun w hw => by simp [unused w hw]

theorem bad_of {b : Bool} {l : List DWord} (good : b = false) (unused : Unused l) : (b || noArgs l) = false := by
  rw [good, noArgs_of_unused unused]; rfl

variable {r : Rule} {body : State → Owed → Ans} {o : Out} (run : o = .next (runCommand c r body s))
  (pass : Passes s c r.pf r.device r.early r.feats) (good : r.bad = false)
include run pass good

theorem command_fails {st : Nat} (answer : body (readOn s c) (owedTo s c) = .fail st) : Fails s c o st :=
  runCommand_of_fail run pass.1 (preCheck_of_passes pass good) answer

theorem command_completes {t : State} {res : DWord} (answer : body (readOn s c) (owedTo s c) = .ok t res) : Completes s c o t stOk res :=
  runCommand_of_ok run pass.1 (preCheck_of_passes pass good) answer

theorem command_defers {t : State} (answer : body (readOn s c) (owedTo s c) = .later t) : Deferred s c o t :=
  runCommand_of_later run pass.1 (preCheck_of_passes pass good) answer

end

/-! ## Patches (R50) -/

section
variable {s : State} {m : List Byte}

theorem applyPatch_busy (again : s.patch.isSome = true) : applyPatch s m = (stBusy, s, 0) := by
  rw [applyPatch]
  exact if_pos again

theorem applyPatch_good (first : s.patch = none) (good : PatchGood s m) : applyPatch s m =
    (stOk, { s with patch := some (leAt m 4 4, m), fixed := { s.fixed with minPatch := leAt m 4 4 } }, BitVec.ofNat 64 (leAt m 4 4)) := by
  obtain ⟨whole, signed, zeros_, rom, newer⟩ := good
  have fits : ¬ m.length < 64 + leAt m 8 4 := Nat.not_lt.mpr whole
  have reserved : (((m.take 64).drop 12).any fun b => b != 0) = false := List.any_eq_false.mpr fun b hb => by simp [zeros_ b hb]
  have version : ¬ (leAt m 0 4 ≠ s.fixed.romVer ∨ leAt m 4 4 ≤ s.fixed.minPatch) := not_or.mpr ⟨not_not_intro rom, Nat.not_le.mpr newer⟩
  simp only [patchLen, leAt] at fits signed version
  simp only [applyPatch, leAt, first, Option.isSome_none, Bool.false_eq_true, if_false, fits, signed, decide_false, Bool.not_true, Bool.or_self, reserved, version]

theorem applyPatch_unsigned (first : s.patch = none)
    (unsigned : m.length < patchLen m ∨ Config.patchSignatureOk (m.take (patchLen m)) (m.drop (patchLen m)) = false) : applyPatch s m = (stAuth, sigFailed s, 0) := by
  have fails : (decide (m.length < 64 + leAt m 8 4) || !Config.patchSignatureOk (m.take (64 + leAt m 8 4)) (m.drop (64 + leAt m 8 4))) = true := by
    rcases unsigned with short | bad
    · rw [patchLen] at short; simp [short]
    · rw [patchLen] at bad; simp [bad]
  rw [applyPatch]
  exact (if_neg (by simp [first])).trans (if_pos fails)

/-- The sensors of a signature that fails (R50, R404). -/
theorem sigFailed_eq (s : State) : sigFailed s =
    if 2 ≤ s.sec.sigFails then raiseAlarm (raiseAlarm { s with sec := { s.sec with sigFails := s.sec.sigFails + 1 } } 5) 7
    else raiseAlarm { s with sec := { s.sec with sigFails := s.sec.sigFails + 1 } } 5 := by
  simp only [sigFailed, show (3 ≤ s.sec.sigFails + 1) = (2 ≤ s.sec.sigFails) from propext Nat.succ_le_succ_iff]

end

/-! ## The conditions of single commands -/

theorem ofNat5_ne_zero {n : Nat} (low : n < 32) : (BitVec.ofNat 5 n != 0) = decide (n ≠ 0) := by
  rw [Bool.eq_iff_iff, bne_iff_ne, decide_eq_true_eq, ne_eq, ne_eq, ← BitVec.toNat_inj, BitVec.toNat_ofNat, Nat.mod_eq_of_lt low]
  rfl

theorem anyPreempt_of_active {s : State} (active : ∀ e ∈ s.tenants, e.2.park = .active) : anyPreempt s = false :=
  List.any_eq_false.mpr fun e he => by simp [active e he]

/-- Settles O36: each command passes its row's checks; its own then give the answer. -/
theorem deviceCommands : Obligations.DeviceCommands := by
  unfold Obligations.DeviceCommands
  rintro s c _ rfl
  refine ⟨?ident, ?negotiate, ?patch, ?apply, ?attest, ?key, ?alarm, ?arm, ?read, ?telemetry, ?chiplet⟩
  case ident =>
    intro pass page unused
    exact command_completes (exec_devIdent s) pass (bad_of (by simp [page]) unused) rfl
  case negotiate =>
    rintro pass unused m rfl
    have good := noArgs_of_unused unused
    refine ⟨fun open_ basic offered => command_completes (exec_featNegotiate s) pass good ?_,
      fun locked => command_fails (exec_featNegotiate s) pass good (if_pos locked), fun open_ refused => command_fails (exec_featNegotiate s) pass good ?_⟩
    · have fits : (!(c.a1 ++ c.a0).getLsbD 0 || (c.a1 ++ c.a0) &&& ~~~s.fixed.offered != 0) = false := by rw [basic, offered]; rfl
      exact (if_neg (Bool.eq_false_iff.mp open_)).trans (if_neg (Bool.eq_false_iff.mp fits))
    · have asks : (!(c.a1 ++ c.a0).getLsbD 0 || (c.a1 ++ c.a0) &&& ~~~s.fixed.offered != 0) = true := by
        rcases refused with h | h
        · rw [h]; rfl
        · rw [bne_iff_ne.mpr h, Bool.or_true]
      exact (if_neg (Bool.eq_false_iff.mp open_)).trans (if_pos asks)
  case patch =>
    intro pass unused
    have good := noArgs_of_unused unused
    refine ⟨fun locked => command_fails (exec_fwPatch s) pass good (if_pos locked),
      fun open_ again => command_fails (exec_fwPatch s) pass good ((if_neg (Bool.eq_false_iff.mp open_)).trans (if_pos again)),
      fun open_ first some_ o ho => ?_⟩
    have none_ : ¬ (readOn s c).patch.isSome = true := by rw [show (readOn s c).patch = none from first]; decide
    subst ho
    refine ⟨fun v staged => command_defers (exec_fwPatch s) pass good ?_, fun full => command_fails (exec_fwPatch s) pass good ?_⟩
    · exact (if_neg (Bool.eq_false_iff.mp open_)).trans ((if_neg none_).trans ((if_neg some_).trans (by rw [staged])))
    · exact (if_neg (Bool.eq_false_iff.mp open_)).trans ((if_neg none_).trans ((if_neg some_).trans (by rw [full])))
  case apply =>
    exact fun m => ⟨applyPatch_busy, applyPatch_good, fun first unsigned v hv => by
      rw [applyPatch_unsigned first unsigned, sigFailed_eq, hv]⟩
  case attest =>
    intro pass unused aligned
    have good : (decide (c.a1.toNat % 64 ≠ 0) || noArgs [c.a2, c.a3, c.a4, c.a5]) = false := bad_of (by simp [aligned]) unused
    refine ⟨fun low b hb => command_completes (exec_attest s) pass good ?_, fun high => command_fails (exec_attest s) pass good ?_⟩
    · subst hb
      exact if_neg (Nat.not_le.mpr low)
    · exact if_pos (Nat.le_of_eq high.symm)
  case key =>
    intro pass unused low target key unwrapped room
    have notFull : ¬ (!nbit c.a1.toNat 63 && nbit c.a1.toNat 62 && !thas (readOn s c).fab.ue (nfld c.a1.toNat 0 32) && decide (256 ≤ (readOn s c).fab.ue.length)) = true := by
      have : ¬ 256 ≤ (readOn s c).fab.ue.length := Nat.not_le.mpr room
      simp [this]
    refine command_completes (exec_keyLoad s) pass (bad_of target unused) ((if_neg (Nat.not_le.mpr low)).trans ?_)
    rw [show unwrapKey (hostRead (readOn s c) c.a0.toNat 1136) = some key from unwrapped]
    exact if_neg notFull
  case alarm =>
    intro pass unused low
    have good : (alarmRule c).bad = false := bad_of (by simpa using low) unused
    exact ⟨command_completes (exec_alarmStatus s) pass good rfl, command_completes (exec_alarmStatusClear s) pass good rfl⟩
  case arm =>
    intro pass unused low v hv
    refine command_completes (exec_snapArm s) pass (bad_of (by simpa using low) unused) ?_
    rw [hv, ← ofNat5_ne_zero low]
  case read =>
    intro pass unused low
    have good := noArgs_of_unused unused
    have named : ¬ 14 < c.a1.toNat := Nat.not_lt.mpr low
    refine ⟨fun x latched b hb => command_completes (exec_snapRead s) pass good ?_, fun none_ => command_fails (exec_snapRead s) pass good ?_⟩
    · subst hb
      exact (if_neg named).trans (by rw [show (readOn s c).sec.snap.latched = some x from latched])
    · exact (if_neg named).trans (by rw [show (readOn s c).sec.snap.latched = none from none_])
  case telemetry => exact fun pass unused => command_completes (exec_telemetry s) pass (noArgs_of_unused unused) rfl
  case chiplet =>
    intro pass unused i hi low present st active
    subst hi
    have quiet : anyPreempt (readOn s c) = false := anyPreempt_of_active active
    refine command_defers (exec_chipletReset s) pass (bad_of (by simpa using low) unused) ((if_neg (by rw [show (readOn s c).fixed = s.fixed from rfl, present]; decide)).trans ?_)
    rcases st with h | h
    · rw [show chipState (readOn s c) c.a0.toNat = .active from h, quiet]; rfl
    · rw [show chipState (readOn s c) c.a0.toNat = .offline from h, quiet]; rfl

end Sys2Proof.Claims
end

section
/-! PROOFS. The commands of a tenant: each is read, passes its row's checks, and gives its answer (R44 to R47, R51, R382, R398 to R401, R411). -/

namespace Sys2Proof.Claims
open Sys2Proof.Machine

section
variable {s : State} {c : HostCmd}

theorem preempted_of_active {x : Tenant} {t : Nat} (found : tget s.tenants t = some x) : preempted s t = (x.park != .active) := by
  rw [preempted, found]

/-- The body of RESUME, of a tenant whose image is complete. -/
theorem isEmpty_ite {α : Type} (ss : List α) (t u : State) : (if ss.isEmpty = true then t else u) = if ss = [] then t else u := by
  cases ss <;> rfl

end

/-! ## An image that has been read (R400) -/

section
variable {s : State} {pick : List Nat} {bs m : List Byte} {n : Nat} {x : Ctx} {y : CtxTail} (plain : plainImage s bs = .ok m)
  (hn : n = leAt m 8 8) (whole : n ≤ m.length) (read : readCtx (m.take n) = some x) (tail : readTail (m.drop n) x = some y)
include plain hn whole read tail

theorem takeCtx_imports {i asid : Nat} {v : State} (imported : importCtx s pick x y (m.drop n) = some (i, asid, v)) :
    takeCtx s pick bs = (stOk, v, BitVec.ofNat 64 i) := by
  subst hn
  have fits : ¬ m.length < leNat ((m.drop 8).take 8) := Nat.not_lt.mpr whole
  simp only [leAt] at read tail imported
  simp only [takeCtx, plain, fits, if_false, read, tail, imported]

theorem takeCtx_short (none_ : importCtx s pick x y (m.drop n) = none) : takeCtx s pick bs = (stNores, s, 0) := by
  subst hn
  have fits : ¬ m.length < leNat ((m.drop 8).take 8) := Nat.not_lt.mpr whole
  simp only [leAt] at read tail none_
  simp only [takeCtx, plain, fits, if_false, read, tail, none_]

end

/-! ## The commands -/

section
variable {s : State} {c : HostCmd}

theorem tenantOpen_completes (pass : Passes s c true true false (openFeats c)) (good : (openRule c).bad = false) (sealed : openConfid c = true → alarmLevel s < 2)
    {i asid : Nat} {sl : List Nat} (ids : tenantIds s [] (openSlices c) = some (i, asid, sl)) {a b : DWord} (ha : a = (takeFree (readOn s c)).1)
    (hb : b = (takeFree (takeFree (readOn s c)).2).1) {v : State} (hv : v = (takeFree (takeFree (readOn s c)).2).2) :
    Completes s c (exec (.tenantOpen c) s) { v with tenants := tset s.tenants i (newTenant c asid sl (natBytes 8 a.toNat ++ natBytes 8 b.toNat)) } stOk
      (BitVec.ofNat 64 (i + 2 ^ 16 * asid)) := by
  have calm : ¬ (openConfid c && decide (2 ≤ alarmLevel (readOn s c))) = true := by
    cases h : openConfid c with
    | false => simp
    | true =>
      have : ¬ 2 ≤ alarmLevel (readOn s c) := Nat.not_le.mpr (sealed h)
      simp [this]
  refine command_completes (exec_tenantOpen s) pass good ((if_neg calm).trans ?_)
  subst ha hb hv
  rw [show tenantIds (readOn s c) [] (openSlices c) = some (i, asid, sl) from ids]
  rfl

section
variable (pass : Passes s c false false false (mapFeats c)) (good : mapBad c = false) {n z asid : Nat} (hn : n = c.a1.toNat) (hasid : asid = cmdSpace s c)
include pass good hn hasid

omit hasid in
theorem memMap_disposes (zero : n = 0) : Completes s c (exec (.memMap c) s) (mapDone (readOn s c) (tnOf c) true) stOk 0 := by
  subst hn
  exact command_completes (exec_memMap s) pass good (if_pos zero)

theorem memMap_badaddr (hz : z = nfld c.a2.toNat 0 2) (some_ : n ≠ 0) (mapped : touchesMap s asid c.a0.toNat (n * 2 ^ sizeBits z) = true) :
    Fails s c (exec (.memMap c) s) stBadaddr := by
  subst hn hasid hz
  exact command_fails (exec_memMap s) pass good ((if_neg some_).trans (if_pos mapped))

theorem memMap_maps (hz : z = nfld c.a2.toNat 0 2) (some_ : n ≠ 0) (free : touchesMap s asid c.a0.toNat (n * 2 ^ sizeBits z) = false) {v : State}
    (maps : mapRange (readOn s c) c.pick asid z c.a0.toNat n (nbit c.a2.toNat 2) (nbit c.a2.toNat 3) (nbit c.a2.toNat 4) (nbit c.a2.toNat 5) = some v) :
    Deferred s c (exec (.memMap c) s) (startShoot (setBusy v (owedTo s c) true) (tnOf c) asid c.a0.toNat (c.a0.toNat + n * 2 ^ sizeBits z) []
      (some (owedTo s c)) (BitVec.ofNat 64 n) (!nbit c.a2.toNat 7)) := by
  subst hn hasid hz
  refine command_defers (exec_memMap s) pass good ((if_neg some_).trans ((if_neg (Bool.eq_false_iff.mp free)).trans ?_))
  rw [show mapRange (readOn s c) c.pick (cmdSpace (readOn s c) c) _ _ _ _ _ _ _ = some v from maps]
  rfl

theorem memMapUnmap_unmaps {v : State} {ls : List Leaf} (unmaps : unmapRange (readOn s c) c.pick asid c.a0.toNat (n * 65536) = some (v, ls)) :
    Deferred s c (exec (.memMapUnmap c) s) (startShoot (setBusy v (owedTo s c) true) (tnOf c) asid c.a0.toNat (c.a0.toNat + n * 65536)
      (ls.map fun l => (l.pa, l.size)) (some (owedTo s c)) (BitVec.ofNat 64 (ls.foldl (fun k l => k + l.size / 65536) 0)) true) := by
  subst hn hasid
  refine command_defers (exec_memMapUnmap s) pass good ?_
  simp only [show unmapRange (readOn s c) c.pick (cmdSpace (readOn s c) c) c.a0.toNat (c.a1.toNat * 65536) = some (v, ls) from unmaps]
  rfl

end

theorem poolCreate_completes (pass : Passes s c false false false [1]) (good : poolBad c = false)
    (mapped : mappedW s (cmdSpace s c) c.a0.toNat (poolF c * poolL c * poolBp c) = true) {i : Nat} (hi : i = lowestId s.pools 0) :
    (featOn s 2 = false → Completes s c (exec (.poolCreate c) s)
      { readOn s c with pools := tset (readOn s c).pools i (newPool c none) } stOk (BitVec.ofNat 64 i)) ∧
    (featOn s 2 = true → ∀ b p v, takeMem (readOn s c) c.pick true (4 * (poolF c * poolL c * poolBp c)) 65536 = some (b, p, v) →
      Completes s c (exec (.poolCreate c) s) { v with pools := tset v.pools i (newPool c (some b)) } stOk (BitVec.ofNat 64 i)) := by
  subst hi
  have here : ¬ (!mappedW (readOn s c) (cmdSpace (readOn s c) c) c.a0.toNat (poolF c * poolL c * poolBp c)) = true := by
    rw [show mappedW (readOn s c) (cmdSpace (readOn s c) c) _ _ = true from mapped]; decide
  refine ⟨fun off => command_completes (exec_poolCreate s) pass good ((if_neg here).trans (if_pos ?_)),
    fun on b p v taken => command_completes (exec_poolCreate s) pass good ((if_neg here).trans ((if_neg ?_).trans ?_))⟩
  · rw [show featOn (readOn s c) 2 = false from off]; rfl
  · rw [show featOn (readOn s c) 2 = true from on]; decide
  · rw [taken]; rfl

section
variable (pass : Passes s c true false false [10]) {x : Tenant} (found : tget s.tenants (tnOf c) = some x)
include pass found

section
variable (unused : Unused [c.a0, c.a1, c.a2, c.a3, c.a4, c.a5])
include unused

theorem preempt_answers : (x.park = .active → ∀ v, v = modTenant (readOn s c) (tnOf c) (fun y => { y with park := .draining s.clk (owedTo s c) }) →
      Deferred s c (exec (.preempt c) s) ((groupsOfTenant v (tnOf c)).foldl stopGroup v)) ∧
    (x.park ≠ .active → Fails s c (exec (.preempt c) s) stBadstate) := by
  have park : preempted (readOn s c) (tnOf c) = (x.park != .active) := preempted_of_active found
  refine ⟨fun active v hv => command_defers (exec_preempt s) pass (noArgs_of_unused unused) ((if_neg ?_).trans ?_),
    fun stopped => command_fails (exec_preempt s) pass (noArgs_of_unused unused) (if_pos ?_)⟩
  · rw [park, active]; decide
  · rw [hv]; rfl
  · rw [park]; exact bne_iff_ne.mpr stopped

theorem resume_answers : (∀ k, x.park = .parked k → ∀ ss v, ss = sectionsOf (readOn s c) (tnOf c) →
      v = modTenant (setBusy (readOn s c) (owedTo s c) true) (tnOf c) (fun y => { y with park := .resuming (owedTo s c), image := ss }) →
      Deferred s c (exec (.resume c) s) (if ss = [] then finishResume v (tnOf c) (owedTo s c) else v)) ∧
    (x.park = .active → Fails s c (exec (.resume c) s) stBadstate) := by
  have here : tget (readOn s c).tenants (tnOf c) = some x := found
  refine ⟨fun k parked ss v hss hv => command_defers (exec_resume s) pass (noArgs_of_unused unused) ?_,
    fun active => command_fails (exec_resume s) pass (noArgs_of_unused unused) ?_⟩
  · subst hss hv
    simp only [here, parked, isEmpty_ite]
  · simp only [here, active]

end

/-- CTX_EXPORT of a parked tenant (R399, R408). -/
theorem ctxExport_answers (unused : Unused [c.a2, c.a3, c.a4, c.a5]) {ss : List (Nat × List Byte)} (parked : x.park = .parked ss) :
    (x.confid = true → s.sec.imageKey = none → Fails s c (exec (.ctxExport c) s) stNofeat) ∧
    ((x.confid = true → s.sec.imageKey.isSome = true) → ∀ m h b out, m = imageBytes (readOn s c) x (freshSections (readOn s c) (tnOf c) ss) → h = m.take 4096 →
      b = m.drop 4096 ++ directory (readOn s c) (tnOf c) x ++ tailBytes (readOn s c) (tnOf c) →
      out = h ++ (if x.confid = true then sealBody (s.sec.imageKey.getD []) h b else b) →
      (out.length ≤ c.a1.toNat → Completes s c (exec (.ctxExport c) s) (hostWrite (readOn s c) c.a0.toNat out) stOk (BitVec.ofNat 64 out.length)) ∧
      (c.a1.toNat < out.length → Fails s c (exec (.ctxExport c) s) stBound)) := by
  have good := noArgs_of_unused unused
  have here : tget (readOn s c).tenants (tnOf c) = some x := found
  refine ⟨fun sealed none_ => command_fails (exec_ctxExport s) pass good ?_, fun key m h b out hm hh hb hout => ?_⟩
  · simp only [here, parked]
    exact if_pos (by rw [sealed, show (readOn s c).sec.imageKey = none from none_]; rfl)
  · have keyed : ¬ (x.confid && (readOn s c).sec.imageKey.isNone) = true := by
      cases h : x.confid with
      | false => simp
      | true =>
        obtain ⟨k, hk⟩ := Option.isSome_iff_exists.mp (key h)
        simp [show (readOn s c).sec.imageKey = some k from hk]
    rw [hout, hb, hh, hm]
    refine ⟨fun fits => command_completes (exec_ctxExport s) pass good ?_, fun long => command_fails (exec_ctxExport s) pass good ?_⟩
    · simp only [here, parked]
      exact (if_neg keyed).trans (if_neg (Nat.not_lt.mpr fits))
    · simp only [here, parked]
      exact (if_neg keyed).trans (if_pos long)

end

theorem imageLoad_answers (pass : Passes s c false false false []) (unused : Unused [c.a3, c.a4, c.a5]) {n : Nat} (hn : n = c.a1.toNat) :
    (n < 64 → Fails s c (exec (.imageLoad c) s) stBadimage) ∧
    (64 ≤ n → Deferred s c (exec (.imageLoad c) s)
      (startXfer (setBusy (readOn s c) (owedTo s c) true) (owedTo s c) c .image c.a0.toNat c.a2.toNat n 64 .header)) := by
  subst hn
  exact ⟨fun short => command_fails (exec_imageLoad s) pass (noArgs_of_unused unused) (if_pos short),
    fun long => command_defers (exec_imageLoad s) pass (noArgs_of_unused unused) (if_neg (Nat.not_lt.mpr long))⟩

theorem imageLoadRom_answers (pass : Passes s c false false false []) (unused : Unused [c.a1, c.a3, c.a4, c.a5]) (low : c.a0.toNat % 2 ^ 63 < 2 ^ 8) :
    (c.a0.toNat % 2 ^ 8 ≠ 0 → Fails s c (exec (.imageLoadRom c) s) stNotfound) ∧
    (c.a0.toNat % 2 ^ 8 = 0 → mappedW s (cmdSpace s c) c.a2.toNat 16384 = true →
      ∀ r, r = addImage (commitVirt (readOn s c) none (cmdSpace s c) c.a2.toNat romImage) (tnOf c) c.a2.toNat romImage true →
      Completes s c (exec (.imageLoadRom c) s) r.2 stOk (BitVec.ofNat 64 r.1)) := by
  have number : nfld c.a0.toNat 0 8 = c.a0.toNat % 2 ^ 8 := by rw [nfld, Nat.pow_zero, Nat.div_one]
  have reserved : nfld c.a0.toNat 8 55 = 0 := by rw [nfld]; omega
  have rest : Unused [c.a3, c.a4, c.a5] := fun w hw => unused w (List.mem_cons_of_mem _ hw)
  have good : (decide (nfld c.a0.toNat 8 55 ≠ 0) || c.a1 != 0 || noArgs [c.a3, c.a4, c.a5]) = false :=
    bad_of (by rw [reserved, unused c.a1 List.mem_cons_self]; rfl) rest
  refine ⟨fun other => command_fails (exec_imageLoadRom s) pass good (if_pos (number ▸ other)),
    fun zero mapped r hr => command_completes (exec_imageLoadRom s) pass good ((if_neg (by rw [number]; exact not_not_intro zero)).trans ((if_neg ?_).trans ?_))⟩
  · rw [show mappedW (readOn s c) (cmdSpace (readOn s c) c) _ _ = true from mapped]; decide
  · rw [hr]; rfl

theorem ctxImport_answers (pass : Passes s c true true false [10]) (unused : Unused [c.a2, c.a3, c.a4, c.a5]) :
    (c.a1.toNat < 4096 → Fails s c (exec (.ctxImport c) s) stBadimage) ∧
    (4096 ≤ c.a1.toNat → ∀ o, o = startStaged (readOn s c) (owedTo s c) c .context c.a0.toNat c.a1.toNat →
      (∀ v, o = some v → Deferred s c (exec (.ctxImport c) s) v) ∧ (o = none → Fails s c (exec (.ctxImport c) s) stNores)) := by
  have good := noArgs_of_unused unused
  refine ⟨fun short => command_fails (exec_ctxImport s) pass good (if_pos short), ?_⟩
  rintro long o rfl
  exact ⟨fun v staged => command_defers (exec_ctxImport s) pass good ((if_neg (Nat.not_lt.mpr long)).trans (by rw [staged])),
    fun full => command_fails (exec_ctxImport s) pass good ((if_neg (Nat.not_lt.mpr long)).trans (by rw [full]))⟩

end

/-- Settles O37: each command passes its row's checks; its own then give the answer. -/
theorem tenantCommands : Obligations.TenantCommands := by
  unfold Obligations.TenantCommands
  rintro s c _ rfl
  refine ⟨?open_, ?close, ?map, ?image, ?rom, ?pool, ?park, ?export_, ?import_, ?take_⟩
  case open_ => exact fun pass good sealed i asid sl ids a b ha hb v hv => tenantOpen_completes pass good sealed ids ha hb hv
  case close => exact fun pass unused => command_defers (exec_tenantClose s) pass (noArgs_of_unused unused) rfl
  case map =>
    rintro pass good n z _ hn rfl hz asid hasid
    exact ⟨memMap_disposes pass good hn, memMap_badaddr pass good hn hasid hz, fun some_ free v => memMap_maps pass good hn hasid hz some_ free,
      fun v ls => memMapUnmap_unmaps pass good hn hasid⟩
  case image => exact fun pass unused n hn => imageLoad_answers pass unused hn
  case rom => exact fun pass unused low => imageLoadRom_answers pass unused low
  case pool => exact fun pass good mapped i hi => poolCreate_completes pass good mapped hi
  case park =>
    intro pass unused x found
    obtain ⟨stops, stopped⟩ := preempt_answers pass found unused
    obtain ⟨resumes, active⟩ := resume_answers pass found unused
    exact ⟨stops, stopped, resumes, active⟩
  case export_ => exact fun pass unused x found ss parked => ctxExport_answers pass found unused parked
  case import_ => exact fun pass unused => ctxImport_answers pass unused
  case take_ =>
    exact fun bs m n x y plain hn whole read tail => ⟨fun i asid v => takeCtx_imports plain hn whole read tail, takeCtx_short plain hn whole read tail⟩

end Sys2Proof.Claims
end

section
/-! PROOFS. The commands about plans, requests, launches, graphs, hand-offs and routes: each is read, passes its row's checks, and gives its answer
(R47 to R49, R54, R245, R339 to R353, R370, R374, R379, R380). -/

namespace Sys2Proof.Claims
open Sys2Proof.Machine

theorem nfld_zero (x n : Nat) : nfld x 0 n = x % 2 ^ n := by rw [nfld, Nat.pow_zero, Nat.div_one]

theorem toNat_eq_zero {x : DWord} : x.toNat = 0 ↔ x = 0 := ⟨fun h => BitVec.eq_of_toNat_eq h, fun h => by rw [h]; rfl⟩

section
variable {s : State} {c : HostCmd}

/-! ## Plans (R342, R343, R411) -/

section
variable (pass : Passes s c false false false [1]) (good : planBad c = false) {i : Image} {p : Pool} (parts : planParts s c = some (i, p))
include pass good parts

theorem modelPlan_completes (aligned : c.a0.toNat % 64 = 0) {m : List Byte} {x : Tmpl} {ks : List Block} (read : vread s (cmdSpace s c) c.a0.toNat 256 = some m)
    (parsed : parseTmpl m = some x) (mapped : tmplMapped s (cmdSpace s c) (planBudget c) x = true)
    (graph : checkGraph s (cmdSpace s c) x.graph x.ntask = .ok ks) :
    ∃ v r, addPlan (readOn s c) c (some x) 0 = .ok v r ∧ Completes s c (exec (.modelPlan c) s) v stOk r := by
  refine ⟨_, _, rfl, command_completes (exec_modelPlan s) pass (by simp [good, aligned]) ?_⟩
  have named : ¬ (planParts (readOn s c) c).isNone = true := by
    rw [show planParts (readOn s c) c = some (i, p) from parts]; simp
  refine (if_neg named).trans ?_
  rw [show vread (readOn s c) (cmdSpace (readOn s c) c) c.a0.toNat 256 = some m from read]
  simp only [parsed]
  refine (if_neg ?_).trans ?_
  · rw [show tmplMapped (readOn s c) (cmdSpace (readOn s c) c) (planBudget c) x = true from mapped]; decide
  · rw [show checkGraph (readOn s c) (cmdSpace (readOn s c) c) x.graph x.ntask = .ok ks from graph]; rfl

theorem modelPlanRom_completes (zero : c.a0.toNat % 2 ^ 63 = 0) (least : 2 ≤ planV c) (most : planV c ≤ 65536) (page : p.bp % (2 * p.p) = 0)
    (row : rowBytes p % 16 = 0) (short : rowBytes p ≤ 32768) (rom : i.rom = true) {b : Nat} {q : List Nat} {v : State}
    (taken : takeMem (readOn s c) c.pick false (romAreaBytes (planBudget c)) 128 = some (b, q, v)) :
    ∃ w r, addPlan v c none b = .ok w r ∧ Completes s c (exec (.modelPlanRom c) s) (writeRomParam w r.toNat) stOk r := by
  have number : nfld c.a0.toNat 0 8 = 0 := by rw [nfld_zero]; omega
  have reserved : nfld c.a0.toNat 8 55 = 0 := by rw [nfld]; omega
  refine ⟨_, _, rfl, command_completes (exec_modelPlanRom s) pass (by simp [good, reserved]) ?_⟩
  refine (if_neg (not_not_intro number)).trans ((if_neg (not_or.mpr ⟨Nat.not_lt.mpr least, Nat.not_lt.mpr most⟩)).trans ?_)
  rw [show planParts (readOn s c) c = some (i, p) from parts]
  refine (if_neg (not_or.mpr ⟨not_not_intro page, not_or.mpr ⟨not_not_intro row, Nat.not_lt.mpr short⟩⟩)).trans ((if_neg (by simp [rom])).trans ?_)
  rw [taken]
  rfl

end

/-! ## REQ_ADMIT (R11, R48, R341) -/

theorem admitPre_ok {m : List Byte} {l : Nat} (hl : l = leAt m 0 4) (good : admitBad m = false) {p : Plan} {q : Pool} (plan : tget s.plans c.a1.toNat = some p)
    (own : p.tenant = tnOf c) (pool : tget s.pools p.pool = some q) (bound : l + leAt m 4 4 ≤ 0xFFFFFF) (copy : ∀ x, p.tmpl = some x → 4 * l ≤ x.pcap)
    (frames : (l + q.p - 1) / q.p ≤ atHand q) {i : Nat} (free : freeReq s = some i) : admitPre s c m = .ok (i, p) := by
  subst hl
  simp only [leAt] at bound copy frames
  have tmpl : (decide (0xFFFFFF < leNat ((m.drop 0).take 4) + leNat ((m.drop 4).take 4)) || (match p.tmpl with
      | some x => decide (x.pcap < 4 * leNat ((m.drop 0).take 4))
      | none => false)) = false := by
    rw [decide_eq_false (Nat.not_lt.mpr bound), Bool.false_or]
    split
    · next x hx => exact decide_eq_false (Nat.not_lt.mpr (copy x hx))
    · rfl
  rw [admitPre]
  refine (if_neg (Bool.eq_false_iff.mp good)).trans ?_
  rw [plan]
  refine (if_neg (not_not_intro own)).trans ((if_neg (Bool.eq_false_iff.mp tmpl)).trans ?_)
  rw [free, pool]
  exact if_neg (Nat.not_lt.mpr frames)

section
variable (pass : Passes s c false false false [4]) (aligned : c.a0.toNat % 64 = 0) (low : c.a1.toNat < 2 ^ 16) (unused : Unused [c.a2, c.a3, c.a4, c.a5])
  {m raw : List Byte} {l i : Nat} {p : Plan} (hm : m = hostRead s c.a0.toNat 512) (hl : l = leAt m 0 4) (pre : admitPre s c m = .ok (i, p))
  (hraw : raw = if leAt m 8 8 = 0 then (m.drop 256).take (4 * l) else [])
include pass aligned low unused hm hl pre hraw

/-- What REQ_ADMIT comes to once its request is judged. -/
theorem reqAdmit_fails (full : enterReq (readOn s c) c m raw i p = none) : Fails s c (exec (.reqAdmit c) s) stNores := by
  have good : (decide (c.a0.toNat % 64 ≠ 0) || decide (2 ^ 16 ≤ c.a1.toNat) || noArgs [c.a2, c.a3, c.a4, c.a5]) = false :=
    bad_of (by rw [aligned, decide_eq_false (Nat.not_le.mpr low)]; rfl) unused
  rw [hm] at pre
  rw [hraw, hl, hm] at full
  refine command_fails (exec_reqAdmit s) pass good ?_
  simp only [show admitPre (readOn s c) c (hostRead (readOn s c) c.a0.toNat 512) = .ok (i, p) from pre]
  simp only [leAt, List.drop_zero] at full
  simp only [show hostRead (readOn s c) = hostRead s from rfl, full]

variable {v : State} {phys : Bool} {a : Nat} (entered : enterReq (readOn s c) c m raw i p = some (v, phys, a))
include entered

theorem reqAdmit_reads (host : leAt m 8 8 ≠ 0) {w : State}
    (hw : w = setBusy (modReq v i fun r => { r with loading := true }) (owedTo s c) true) : Deferred s c (exec (.reqAdmit c) s)
      (startPrompt w (owedTo s c) c i (bellDone (qpOf s c.fn c.q)) (leAt m 8 8) a (4 * l) phys) := by
  have good : (decide (c.a0.toNat % 64 ≠ 0) || decide (2 ^ 16 ≤ c.a1.toNat) || noArgs [c.a2, c.a3, c.a4, c.a5]) = false :=
    bad_of (by rw [aligned, decide_eq_false (Nat.not_le.mpr low)]; rfl) unused
  rw [hm] at pre host ⊢
  rw [hraw, hl, hm] at entered
  rw [hw, hl, hm]
  refine command_defers (exec_reqAdmit s) pass good ?_
  simp only [show admitPre (readOn s c) c (hostRead (readOn s c) c.a0.toNat 512) = .ok (i, p) from pre]
  simp only [leAt, List.drop_zero] at entered host
  simp only [show hostRead (readOn s c) = hostRead s from rfl, entered]
  exact if_pos host

theorem reqAdmit_copies (block : leAt m 8 8 = 0) {r : Request} (found : tget v.reqs i = some r) : Completes s c (exec (.reqAdmit c) s)
      (startKernel (if phys then commitBytes v none a (padPrompt raw) else commitVirt v none (cmdSpace s c) a (padPrompt raw)) i p) stOk r.handle := by
  have good : (decide (c.a0.toNat % 64 ≠ 0) || decide (2 ^ 16 ≤ c.a1.toNat) || noArgs [c.a2, c.a3, c.a4, c.a5]) = false :=
    bad_of (by rw [aligned, decide_eq_false (Nat.not_le.mpr low)]; rfl) unused
  rw [hm] at pre block
  rw [hraw, hl, hm] at entered
  rw [hraw, hl, hm]
  refine command_completes (exec_reqAdmit s) pass good ?_
  simp only [show admitPre (readOn s c) c (hostRead (readOn s c) c.a0.toNat 512) = .ok (i, p) from pre]
  simp only [leAt, List.drop_zero] at entered block ⊢
  simp only [show hostRead (readOn s c) = hostRead s from rfl, entered, found]
  exact if_neg (not_not_intro block)

end

/-! ## Commands on a request (R16, R17, R49, R351, R352) -/

section
variable (pass : Passes s c false false false [4]) (low : c.a0.toNat < 2 ^ 14) {j : Nat} (hj : j = reqIn s (tnOf c) c.a0.toNat) {r : Request}
  (found : tget s.reqs j = some r) (own : r.tenant = tnOf c) (loaded : r.loading = false)

section
include hj found own loaded

theorem namedReq_of_found : namedReq (readOn s c) c = some (j, r) := by
  subst hj
  have found' : tget (readOn s c).reqs (reqIn (readOn s c) (tnOf c) c.a0.toNat) = some r := found
  rw [namedReq, found']
  exact if_pos (by simp [own, loaded])

end

include pass low hj found own loaded

theorem reqCancel_answers (unused : Unused [c.a1, c.a2, c.a3, c.a4, c.a5]) {busy : Bool}
    (hbusy : busy = (r.xpend || (preempted s (tnOf c) && r.st != .queued && r.st != .paused))) :
    (busy = true → Fails s c (exec (.reqCancel c) s) stBusy) ∧
    (busy = false → ended r.st = true → Fails s c (exec (.reqCancel c) s) stBadstate) ∧
    (busy = false → ended r.st = false → Deferred s c (exec (.reqCancel c) s)
      (if r.initer = true then modReq (readOn s c) j (fun y => { y with cancelp := true, cancels := y.cancels ++ [owedTo s c] })
        else cancelReq (readOn s c) j (lastIter (readOn s c)) [owedTo s c])) := by
  have named := namedReq_of_found hj found own loaded
  have good : (decide (2 ^ 14 ≤ c.a0.toNat) || noArgs [c.a1, c.a2, c.a3, c.a4, c.a5]) = false :=
    bad_of (decide_eq_false (Nat.not_le.mpr low)) unused
  have same : preempted (readOn s c) (tnOf c) = preempted s (tnOf c) := rfl
  subst hbusy
  refine ⟨fun busy => command_fails (exec_reqCancel s) pass good ?_, fun idle past => command_fails (exec_reqCancel s) pass good ?_,
    fun idle live => command_defers (exec_reqCancel s) pass good ?_⟩
  · simp only [named, same]
    cases hx : r.xpend with
    | true => simp
    | false =>
      rw [hx, Bool.false_or] at busy
      simp only [Bool.false_eq_true, if_false, busy, if_true]
  · obtain ⟨hx, hp⟩ := Bool.or_eq_false_iff.mp idle
    simp only [named, same, hx, hp, past, Bool.false_eq_true, if_false, if_true]
  · obtain ⟨hx, hp⟩ := Bool.or_eq_false_iff.mp idle
    simp only [named, same, hx, hp, live, Bool.false_eq_true, if_false]
    cases r.initer <;> rfl

theorem reqQuery_answers (unused : Unused [c.a3, c.a4, c.a5]) (least : c.a1.toNat < 2) {b : List Byte} (hb : b = reqEntry (wordOut s r.handle) r) :
    Completes s c (exec (.reqQuery c) s) (hostWrite (readOn s c) c.a2.toNat b) stOk 0 ∧
    (ended r.st = true → Completes s c (exec (.reqQueryRelease c) s) (releaseReq (hostWrite (readOn s c) c.a2.toNat b) j) stOk 0) ∧
    (ended r.st = false → Fails s c (exec (.reqQueryRelease c) s) stBadstate) := by
  have named := namedReq_of_found hj found own loaded
  have good : (decide (2 ^ 14 ≤ c.a0.toNat) || decide (2 ≤ c.a1.toNat) || noArgs [c.a3, c.a4, c.a5]) = false :=
    bad_of (by rw [decide_eq_false (Nat.not_le.mpr low), decide_eq_false (Nat.not_le.mpr least)]; rfl) unused
  rw [hb]
  refine ⟨command_completes (exec_reqQuery s) pass good ?_, fun past => command_completes (exec_reqQueryRelease s) pass good ?_,
    fun live => command_fails (exec_reqQueryRelease s) pass good ?_⟩
  · simp only [named]; rfl
  · simp only [named, past, Bool.not_true, Bool.false_eq_true, if_false]; rfl
  · simp only [named, live, Bool.not_false, if_true]

theorem reqFork_completes (unused : Unused [c.a4, c.a5]) (least : c.a1.toNat < 2) (penalty : r.penalty = 0 → c.a3 = 0) (aligned : c.a3.toNat % 64 = 0)
    (mapped : c.a3 ≠ 0 → stateFault s (cmdSpace s c) r.penalty = none ∧ mappedW s (cmdSpace s c) c.a3.toNat (penBytes s (cmdSpace s c) r.penalty) = true)
    (may : forkBad r.st = false) (bound : r.committed + c.a2.toNat ≤ 0xFFFFFF) {i : Nat} (free : freeReq s = some i) {e : Handle} {v : State}
    (he : e = handleAt s (hIdx r.handle)) (forked : forkHandle (readOn s c) e i 1 e.c = some v) {v' : State}
    (hv' : v' = if c.a3 = 0 then v else commitVirt v none (cmdSpace s c) c.a3.toNat
      ((vread v (cmdSpace s c) r.penalty (penBytes v (cmdSpace s c) r.penalty)).getD [])) {h : DWord}
    (hh : h = handleWord (tnOf c) (handleAt v i).gen i (r.committed + c.a2.toNat)) {w : State}
    (hw : w = { v' with reqs := tset v'.reqs i (forkEntry v' r h i c.a2.toNat c.a3.toNat (nbit c.a1.toNat 0)), admSeq := v'.admSeq + 1 }) :
    Completes s c (exec (.reqFork c) s) (modReq w i fun z => { z with st := nextSt w z }) stOk h := by
  have named := namedReq_of_found hj found own loaded
  have good : (decide (2 ^ 14 ≤ c.a0.toNat) || decide (2 ≤ c.a1.toNat) || decide (c.a3.toNat % 64 ≠ 0) || noArgs [c.a4, c.a5]) = false :=
    bad_of (by rw [decide_eq_false (Nat.not_le.mpr low), decide_eq_false (Nat.not_le.mpr least), aligned]; rfl) unused
  have kept : ¬ (r.penalty = 0 ∧ c.a3.toNat ≠ 0) := fun both => both.2 (toNat_eq_zero.mpr (penalty both.1))
  have area : ¬ (c.a3.toNat ≠ 0 ∧ ((stateFault (readOn s c) (cmdSpace (readOn s c) c) r.penalty).isSome = true ∨
      (!mappedW (readOn s c) (cmdSpace (readOn s c) c) c.a3.toNat (penBytes (readOn s c) (cmdSpace (readOn s c) c) r.penalty)) = true)) := by
    rintro ⟨some_, fault⟩
    obtain ⟨none_, whole⟩ := mapped fun zero => some_ (toNat_eq_zero.mpr zero)
    rcases fault with fault | fault
    · rw [show stateFault (readOn s c) (cmdSpace (readOn s c) c) r.penalty = none from none_] at fault
      simp at fault
    · rw [show mappedW (readOn s c) (cmdSpace (readOn s c) c) c.a3.toNat (penBytes (readOn s c) (cmdSpace (readOn s c) c) r.penalty) = true from whole] at fault
      simp at fault
  subst he
  refine command_completes (exec_reqFork s) pass good ?_
  simp only [named]
  refine (if_neg kept).trans ((if_neg (Bool.eq_false_iff.mp may)).trans ((if_neg (Nat.not_lt.mpr bound)).trans ((if_neg area).trans ?_)))
  simp only [show freeReq (readOn s c) = some i from free,
    show forkHandle (readOn s c) (handleAt (readOn s c) (hIdx r.handle)) i 1 (handleAt (readOn s c) (hIdx r.handle)).c = some v from forked]
  subst hw hh hv'
  simp only [toNat_eq_zero]
  rfl

end

/-! ## LAUNCH and GRAPH_SUBMIT (R54, R245) -/

theorem launch_defers (pass : Passes s c false false false []) (aligned : c.a0.toNat % 64 = 0) (unused : Unused [c.a1, c.a2, c.a3, c.a4, c.a5])
    (room : roomForLaunch s = true) {d : Desc} (checked : checkDesc s (tnOf c) c.a0.toNat id = .ok d) :
    Deferred s c (exec (.launch c) s) (makeLaunch (readOn s c) (tnOf c) d (.direct (owedTo s c))) := by
  have run : exec (.launch c) s = .next (runCommand c _ _ s) := congrArg Host.Outcome.next (if_neg (by simp [room]))
  refine command_defers run pass (bad_of (by simp [aligned]) unused) ?_
  simp only [show checkDesc (readOn s c) (tnOf c) c.a0.toNat id = .ok d from checked]

theorem graphSubmit_defers (pass : Passes s c false false false []) (aligned : c.a0.toNat % 64 = 0) (unused : Unused [c.a2, c.a3, c.a4, c.a5])
    {ks : List Block} (checked : checkGraph s (cmdSpace s c) c.a0.toNat c.a1.toNat = .ok ks) :
    Deferred s c (exec (.graphSubmit c) s) (submitGraph (readOn s c) (tnOf c) c.a0.toNat ks (.host (owedTo s c))) := by
  refine command_defers (exec_graphSubmit s) pass (bad_of (by simp [aligned]) unused) ?_
  simp only [show checkGraph (readOn s c) (cmdSpace (readOn s c) c) c.a0.toNat c.a1.toNat = .ok ks from checked]

/-! ## Hand-offs (R353, R379, R380) -/

theorem kvExport_answers (pass : Passes s c false false false (if nbit c.a1.toNat 63 then [8] else [])) (good : kvExportBad c = false) {j : Nat}
    (hj : j = reqIn s (tnOf c) c.a0.toNat) {r : Request} (found : tget s.reqs j = some r) (own : r.tenant = tnOf c) (loaded : r.loading = false)
    (noExport : r.xpend = false) (noWant : r.wantExport = none) (may : exportable r.st = true) :
    (canHand s (!c.a1.getLsbD 63) (c.a1.toNat % 2 ^ 32) = false → Fails s c (exec (.kvExport c) s) stAborted) ∧
    (canHand s (!c.a1.getLsbD 63) (c.a1.toNat % 2 ^ 32) = true → ∀ v,
      v = { readOn s c with nextKey := s.nextKey + 1, fab := { (readOn s c).fab with xfers := tset (readOn s c).fab.xfers s.nextKey (newExport (readOn s c) c j r (owedTo s c)) } } →
      Deferred s c (exec (.kvExport c) s)
        (if r.initer = true then modReq v j (fun y => { y with wantExport := some s.nextKey }) else startExport v s.nextKey)) := by
  have named := namedReq_of_found hj found own loaded
  have peer : canHand (readOn s c) (!nbit c.a1.toNat 63) (nfld c.a1.toNat 0 32) = canHand s (!c.a1.getLsbD 63) (c.a1.toNat % 2 ^ 32) := by
    rw [nbit_toNat, nfld_zero]; rfl
  have idle : (r.xpend || r.wantExport.isSome) = false := by rw [noExport, noWant]; rfl
  refine ⟨fun none_ => command_fails (exec_kvExport s) pass good ?_, fun reaches v hv => command_defers (exec_kvExport s) pass good ?_⟩
  · simp only [named, idle, may, peer, none_, Bool.false_eq_true, if_false, Bool.not_true, Bool.not_false, if_true]
  · subst hv
    simp only [named, idle, may, peer, reaches, Bool.false_eq_true, if_false, Bool.not_true]
    rfl

theorem kvImport_defers (pass : Passes s c false false false []) (low : c.a1.toNat < 65536) (unused : Unused [c.a2, c.a3, c.a4, c.a5]) {p : Plan}
    (found : tget s.plans c.a1.toNat = some p) (own : p.tenant = tnOf c) {x : KvXfer}
    (hx : x = { import_ := true, tenant := tnOf c, req := 0, plan := c.a1.toNat, tag := c.a0.toNat, zoubry := true, peer := 0, owed := owedTo s c
                since := s.clk, manifest := none, pages := [], frames := [] }) : Deferred s c (exec (.kvImport c) s)
      (replay (replay { readOn s c with nextKey := s.nextKey + 1, fab := { (readOn s c).fab with xfers := tset (readOn s c).fab.xfers s.nextKey x } })) := by
  refine command_defers (exec_kvImport s) pass (bad_of (decide_eq_false (Nat.not_le.mpr low)) unused) ?_
  subst hx
  simp only [show tget (readOn s c).plans c.a1.toNat = some p from found]
  exact if_neg (not_not_intro own)

/-! ## Routes and exports (R370, R374) -/

section
variable (pass : Passes s c true true false [6]) (step_ : c.a1.toNat < 4) (aligned : c.a0.toNat % 64 = 0) (unused : Unused [c.a2, c.a3, c.a4, c.a5])
  {b : Bool} (hb : b = decide (s.fab.inject = some 0)) {k : Nat} (hk : k = if b = true then 1 else 0)

omit pass in
theorem idleBank_readOn (hb : b = decide (s.fab.inject = some 0)) : idleBank (readOn s c) = b := by
  rw [hb, Bool.eq_iff_iff, idleBank, decide_eq_true_eq, beq_iff_eq]
  rfl

include pass step_ aligned unused hb hk

theorem routesLoad_answers {l : List (Nat × Nat)} (hl : l = routeEntries 0 (hostRead s c.a0.toNat 8192)) :
    (bankSt s b = .retired → 2 ^ 64 < c.a0.toNat + 8192 → Fails s c (exec (.fabricRoutesLoad c) s) stBadaddr) ∧
    (bankSt s b = .retired → c.a0.toNat + 8192 ≤ 2 ^ 64 → l.all (fun e => !routeBad s.fab.devId e) = true →
      Completes s c (exec (.fabricRoutesLoad c) s)
        (setBank { readOn s c with fab := { (readOn s c).fab with banks := tset (readOn s c).fab.banks k (routesOf l) } } b .loaded) stOk (BitVec.ofNat 64 k)) := by
  have good : (routesRule c).bad = false := bad_of (by rw [decide_eq_false (Nat.not_le.mpr step_), aligned]; rfl) unused
  have idle := idleBank_readOn (c := c) hb
  have number : b2n b = k := hk.symm
  refine ⟨fun retired past => command_fails (exec_fabricRoutesLoad s) pass good ?_,
    fun retired within legal => command_completes (exec_fabricRoutesLoad s) pass good ?_⟩
  · simp only [idle]
    exact (if_neg (not_not_intro retired)).trans (if_pos past)
  · have noneBad : ¬ (l.any (routeBad s.fab.devId)) = true := by
      rw [List.any_eq_true]
      rintro ⟨e, he, bad⟩
      simpa [bad] using List.all_eq_true.mp legal e he
    rw [hl] at noneBad ⊢
    simp only [idle, number]
    exact (if_neg (not_not_intro retired)).trans ((if_neg (Nat.not_lt.mpr within)).trans (if_neg noneBad))

theorem routesFlip_completes (loaded : bankSt s b = .loaded) {v : State}
    (hv : v = setBank (if s.fab.inject.isSome then setBank (readOn s c) (!b) .flippedOut else readOn s c) b .inForce) :
    Completes s c (exec (.fabricRoutesFlip c) s) (sendUnsent { v with fab := { v.fab with inject := some k } }) stOk (BitVec.ofNat 64 k) := by
  have good : (routesRule c).bad = false := bad_of (by rw [decide_eq_false (Nat.not_le.mpr step_), aligned]; rfl) unused
  have idle := idleBank_readOn (c := c) hb
  have number : b2n b = k := hk.symm
  subst hv
  refine command_completes (exec_fabricRoutesFlip s) pass good ?_
  simp only [idle, number]
  exact if_neg (not_not_intro loaded)

theorem routesRetire_answers : (bankSt s b = .flippedOut → bankCount s b = 0 →
      Completes s c (exec (.fabricRoutesRetire c) s)
        (setBank { readOn s c with fab := { (readOn s c).fab with banks := tdel (readOn s c).fab.banks k } } b .retired) stOk (BitVec.ofNat 64 k)) ∧
    (bankSt s b = .flippedOut → bankCount s b ≠ 0 → Fails s c (exec (.fabricRoutesRetire c) s) stBusy) := by
  have good : (routesRule c).bad = false := bad_of (by rw [decide_eq_false (Nat.not_le.mpr step_), aligned]; rfl) unused
  have idle := idleBank_readOn (c := c) hb
  have number : b2n b = k := hk.symm
  refine ⟨fun out none_ => command_completes (exec_fabricRoutesRetire s) pass good ?_, fun out some_ => command_fails (exec_fabricRoutesRetire s) pass good ?_⟩
  · simp only [idle, number]
    exact (if_neg (not_not_intro out)).trans (if_neg (not_not_intro none_))
  · simp only [idle]
    exact (if_neg (not_not_intro out)).trans (if_pos some_)

end

section
variable (pass : Passes s c true false false [6]) (good : exportBad c = false) {d p : Nat} (hd : d = c.a3.toNat % 2 ^ 12) (hp : p = c.a3.toNat / 2 ^ 12 % 2 ^ 12)
include pass good hd hp

theorem routesExport_makes (make : c.a3.getLsbD 24 = false) {rest : List Export}
    (hrest : rest = s.fab.exports.filter (fun e => !(decide (e.dev = d) && decide (e.ptenant = p)))) (room : rest.length < 4096) :
    Completes s c (exec (.fabricRoutesExport c) s) { readOn s c with fab := { (readOn s c).fab with
      exports := rest ++ [{ dev := d, ptenant := p, tenant := tnOf c, base := c.a0.toNat, len := c.a2.toNat }] } } stOk 0 := by
  refine command_completes (exec_fabricRoutesExport s) pass good ?_
  subst hd hp hrest
  simp only [nbit_toNat, make, nfld_zero, Bool.false_eq_true, if_false]
  exact if_neg (Nat.not_le.mpr room)

theorem routesExport_takes (take_ : c.a3.getLsbD 24 = true) {mine : Export → Bool}
    (hmine : ∀ e, mine e = (decide (e.dev = d) && decide (e.ptenant = p) && decide (e.tenant = tnOf c))) :
    (s.fab.exports.find? mine = none → Fails s c (exec (.fabricRoutesExport c) s) stNotfound) ∧
    ∀ e, s.fab.exports.find? mine = some e → Deferred s c (exec (.fabricRoutesExport c) s) (startShoot
      (setBusy { readOn s c with fab := { (readOn s c).fab with exports := (readOn s c).fab.exports.filter fun e => !mine e } } (owedTo s c) true)
      (tnOf c) (cmdSpace s c) e.base (e.base + e.len) [] (some (owedTo s c)) 0 false) := by
  obtain rfl : mine = _ := funext hmine
  subst hd hp
  have field : nfld c.a3.toNat 12 12 = c.a3.toNat / 2 ^ 12 % 2 ^ 12 := rfl
  have same : (readOn s c).fab = s.fab := rfl
  refine ⟨fun none_ => command_fails (exec_fabricRoutesExport s) pass good ?_, fun e found => command_defers (exec_fabricRoutesExport s) pass good ?_⟩
  · refine (if_pos (by rw [nbit_toNat]; exact take_)).trans ?_
    simp only [nfld_zero, field, same, none_]
  · refine (if_pos (by rw [nbit_toNat]; exact take_)).trans ?_
    simp only [nfld_zero, field, same, found]
    rfl

end

end

/-- Settles O38: each command passes its row's checks; its own then give the answer. -/
theorem requestCommands : Obligations.RequestCommands := by
  unfold Obligations.RequestCommands
  rintro s c _ rfl
  refine ⟨?plan, ?admission, ?request, ?launch, ?export_, ?import_, ?routes, ?window⟩
  case plan =>
    exact fun pass good i p parts =>
      ⟨fun aligned m x ks read parsed mapped graph => modelPlan_completes pass good parts aligned read parsed mapped graph,
        fun zero least most page row short rom b q v taken => modelPlanRom_completes pass good parts zero least most page row short rom taken⟩
  case admission =>
    intro pass aligned low unused m l hm hl good p q plan own pool bound copy frames i free raw hraw
    have pre := admitPre_ok hl good plan own pool bound copy frames free
    exact ⟨reqAdmit_fails pass aligned low unused hm hl pre hraw, fun v phys a entered =>
      ⟨fun host w hw => reqAdmit_reads pass aligned low unused hm hl pre hraw entered host hw,
        fun block r found => reqAdmit_copies pass aligned low unused hm hl pre hraw entered block found⟩⟩
  case request =>
    intro pass low j hj r found own loaded
    exact ⟨fun unused busy hbusy => reqCancel_answers pass low hj found own loaded unused hbusy,
      fun unused least b hb => reqQuery_answers pass low hj found own loaded unused least hb,
      fun unused least penalty aligned mapped may bound i free e v he forked v' hv' h hh w hw =>
        reqFork_completes pass low hj found own loaded unused least penalty aligned mapped may bound free he forked hv' hh hw⟩
  case launch =>
    exact fun pass aligned => ⟨fun unused room d => launch_defers pass aligned unused room, fun unused ks => graphSubmit_defers pass aligned unused⟩
  case export_ => exact fun pass good j hj r found own loaded noExport noWant may => kvExport_answers pass good hj found own loaded noExport noWant may
  case import_ => exact fun pass low unused p found own x hx => kvImport_defers pass low unused found own hx
  case routes =>
    intro pass step_ aligned unused b hb k hk l hl
    obtain ⟨past, loads⟩ := routesLoad_answers pass step_ aligned unused hb hk hl
    obtain ⟨retires, busy⟩ := routesRetire_answers pass step_ aligned unused hb hk
    exact ⟨past, loads, fun loaded v => routesFlip_completes pass step_ aligned unused hb hk loaded, retires, busy⟩
  case window =>
    exact fun pass good d p hd hp => ⟨fun make rest => routesExport_makes pass good hd hp make, fun take_ mine => routesExport_takes pass good hd hp take_⟩

end Sys2Proof.Claims
end

section
/-! PROOFS. What the events of the engines do (R177, R178, R183, R187, R188, R190, R195, R305 to R310, R313, R314). -/

-- One proof after another: the text's last proofs end before the whole of it is written out, which takes much memory.
set_option Elab.async false

namespace Sys2Proof.Claims
open Sys2Proof.Machine

/-! ## A line of a copy lands (R183) -/

section
variable {s : State} {k i : Nat} {c : Cmd} (found : tget s.cmds k = some c) (runs : stoppedT s c.tenant = false) (op : c.op = 0x58)
include found runs op

theorem copyLineLand_copy : exec (.copyLineLand k i) s = .next (landCopy s k i c) := by
  rw [exec_copyLineLand, execCopyLineLand, found]
  refine congrArg Host.Outcome.next ((if_neg (by rw [op]; decide)).trans ((if_neg (by simp [runs])).trans (if_pos (by rw [op]; decide))))

variable (started : c.started = true) (going : c.paused = false) (sound : c.failed = false) (new_ : i ∉ c.landed) (unit : i < copyUnits c)
  (acq : acqReady s k c = true)
include started going sound new_ unit acq

omit found runs op in
theorem landCopy_guard {slot : Bool} (noSlot : slot = false) : ¬ (!c.started || c.paused || c.failed || c.landed.contains i || decide (copyUnits c ≤ i) ||
    !acqReady s k c || (slot && !slotsFree s k c)) = true := by
  simp [started, going, sound, new_, unit, acq, noSlot]

section
variable (sub : c.sub = 0)
include sub

theorem copyLineLand_toSpad {d : Nat} (hd : d = c.b.toNat + 128 * i) {bs : List Byte} {bad : Bool} (read : engRead s k c false (copySrc c i) 128 = .bytes bs bad) :
    exec (.copyLineLand k i) s
      = .next (markLanded (landLines (writeSpad (engTouch s c.core (cmdAsid s c) (copySrc c i) 128) c.wg d bs) k c.wg [d / 128]) k i bad) := by
  have noSlot : copyDstSlot c.op c.sub = false := by rw [op, sub]; rfl
  have src : copySrcSpad c.op c.sub = false := by rw [op, sub]; rfl
  have dst : copyDstSpad c.op c.sub = true := by rw [op, sub]; rfl
  rw [copyLineLand_copy found runs op, landCopy, if_neg (landCopy_guard started going sound new_ unit acq noSlot), src, read, hd]
  exact congrArg Host.Outcome.next ((if_neg (by rw [noSlot]; decide)).trans (if_pos dst))

theorem copyLineLand_waits (read : engRead s k c false (copySrc c i) 128 = .wait) :
    exec (.copyLineLand k i) s = .next (engAsk s c.core (cmdAsid s c) (copySrc c i) 128) := by
  have noSlot : copyDstSlot c.op c.sub = false := by rw [op, sub]; rfl
  have src : copySrcSpad c.op c.sub = false := by rw [op, sub]; rfl
  rw [copyLineLand_copy found runs op, landCopy, if_neg (landCopy_guard started going sound new_ unit acq noSlot), src, read]
  rfl

theorem copyLineLand_faults {code : TrapCode} {va : Nat} (read : engRead s k c false (copySrc c i) 128 = .fault code va) :
    exec (.copyLineLand k i) s = .next (engFault s k code va) := by
  have noSlot : copyDstSlot c.op c.sub = false := by rw [op, sub]; rfl
  have src : copySrcSpad c.op c.sub = false := by rw [op, sub]; rfl
  have keeps : restoreColl s c = s := if_neg (by rw [op]; decide)
  rw [copyLineLand_copy found runs op, landCopy, if_neg (landCopy_guard started going sound new_ unit acq noSlot), src, read]
  exact congrArg (fun t => Host.Outcome.next (engFault t k code va)) keeps

end

theorem copyLineLand_toGlobal (sub : c.sub = 1) {d : Nat} (hd : d = c.b.toNat + 128 * i) {bs : List Byte} {bad : Bool}
    (read : engRead s k c true (copySrc c i) 128 = .bytes bs bad) (free : engBlocked s c.core (cmdAsid s c) d 128 = false) :
    (engXlat s c.core (cmdAsid s c) d 128 true = none → exec (.copyLineLand k i) s = .next (markLanded (engCommit s c.core (cmdAsid s c) d bs) k i bad)) ∧
    (∀ code va, engXlat s c.core (cmdAsid s c) d 128 true = some (code, va) → exec (.copyLineLand k i) s = .next (engFault s k code va)) := by
  have noSlot : copyDstSlot c.op c.sub = false := by rw [op, sub]; rfl
  have src : copySrcSpad c.op c.sub = true := by rw [op, sub]; rfl
  have dst : copyDstSpad c.op c.sub = false := by rw [op, sub]; rfl
  have plain : copyXa c = false := by rw [copyXa, sub]; exact Bool.and_false _
  have place : copyDst c i = d := hd.symm
  rw [copyLineLand_copy found runs op, landCopy, if_neg (landCopy_guard started going sound new_ unit acq noSlot), src, read]
  simp only [engSeen, if_true, noSlot, dst, plain, place, free, Bool.false_eq_true, if_false]
  exact ⟨fun clear => by rw [clear], fun code va fault => by rw [fault]⟩

end

/-! ## A command completes (R178) -/

/-- A command that no chain holds writes no entry. -/
theorem withEntry_of_unchained {s t : State} {k : Nat} {c : Cmd} (unchained : c.chain = none) : withEntry s k c t = t := by
  have spans : chainSpans s c = [] := by rw [chainSpans, unchained]
  have noFault : chainFault s c = none := by rw [chainFault, unchained]
  rw [withEntry, spans, noFault]
  rfl

section
variable {s : State} {k : Nat} {c : Cmd} (found : tget s.cmds k = some c)
include found

section
variable (unchained : c.chain = none)
include unchained

theorem engineComplete_issued : exec (.engineComplete k) s = .next (completeCmd s k c) := by
  rw [exec_engineComplete, execEngineComplete, found]
  exact congrArg Host.Outcome.next (if_pos (by rw [unchained]; rfl))

theorem engineComplete_failed (failed : c.failed = true) : exec (.engineComplete k) s = .next (endFailed s k) := by
  rw [engineComplete_issued found unchained]
  exact congrArg Host.Outcome.next (if_pos failed)

variable (sound : c.failed = false)
include sound

theorem engineComplete_finishes (noCopy : c.op ≠ 0x58) (noEmit : c.op ≠ 0x75) : exec (.engineComplete k) s = .next (finish s k c (finOf s k c)) := by
  rw [engineComplete_issued found unchained]
  exact congrArg Host.Outcome.next ((if_neg (by simp [sound])).trans ((if_neg noCopy).trans (if_neg noEmit)))

theorem engineComplete_answers (noCopy : c.op ≠ 0x58) (noEmit : c.op ≠ 0x75) :
    (∀ t err res, finOf s k c = .done t err res → exec (.engineComplete k) s = .next (afterOp (endCmd (modCmd t k fun d => { d with result := res }) k err) c.wg)) ∧
    (∀ code va, c.op ≠ 0x61 → finOf s k c = .fault code va → exec (.engineComplete k) s = .next (engFault s k code va)) ∧
    (∀ t, finOf s k c = .later t → exec (.engineComplete k) s = .next t) ∧
    (finOf s k c = .wait → exec (.engineComplete k) s = .next s) := by
  rw [engineComplete_finishes found unchained sound noCopy noEmit]
  refine ⟨fun t err res fin => ?done, fun code va _ fin => ?fault, fun t fin => ?later, fun fin => ?wait⟩
  case done =>
    rw [fin]
    exact congrArg Host.Outcome.next (withEntry_of_unchained unchained)
  all_goals rw [fin]; rfl

theorem engineComplete_copy (op : c.op = 0x58) (started : c.started = true) (going : c.paused = false)
    (ready : ∀ e ∈ slicesOf s c, relReady s e.1 e.2 = true ∧ linesDone e.2 = true) :
    exec (.engineComplete k) s = .next (endSlices s c ((slicesOf s c).any fun e => e.2.err)) := by
  have released : slicesReady s c = true := List.all_eq_true.mpr fun e he => (ready e he).1
  have landed : (slicesOf s c).all (fun e => linesDone e.2) = true := List.all_eq_true.mpr fun e he => (ready e he).2
  rw [engineComplete_issued found unchained]
  refine congrArg Host.Outcome.next ((if_neg (by simp [sound])).trans ((if_pos op).trans ((if_pos ?_).trans (withEntry_of_unchained unchained))))
  simp [started, going, released, landed]

end

/-! ## mma (R187, R188, R313, R314) -/

section
variable (op : c.op = 0x5A)
include op

omit found in
theorem productOf_mma : productOf c = (c.a.toNat, c.b.toNat, c.c.toNat, c.fmt.toNat) := if_neg (by rw [op]; decide)

theorem mmaStart_shadows (ready : mmaReady s k c = true) (idle : c.phase = 0) (runs : stoppedT s c.tenant = false) (next_ : nextProduct s k c = true) :
    exec (.mmaStart k) s = .next (modCmd s k fun d => { d with
      phase := 1, started := true, since := s.clk, shadow := if d.shadow.isSome then d.shadow else some (tileOf s c.wg c.a.toNat) }) := by
  rw [exec_mmaStart, execMmaStart, found]
  refine congrArg Host.Outcome.next ((if_pos ?_).trans ?_)
  · simp [mayStart, ready, idle, runs, next_]
  · rw [productOf_mma op]

theorem mmaComplete_writes (ready : mmaReady s k c = true) (begun_ : c.phase = 1) (unchained : c.chain = none) {r : Tile × Bool}
    (hr : r = mmaTile s c.core c.b.toNat c.c.toNat c.fmt.toNat (tileOf s c.wg c.a.toNat)) :
    exec (.mmaComplete k) s = .next (afterOp (endCmd (writeTile s c c.a.toNat r.1) k r.2) c.wg) := by
  have live : c.ended = false := by
    simp only [mmaReady, Bool.and_eq_true, Bool.not_eq_true'] at ready
    exact ready.1.1.2
  rw [exec_mmaComplete, execMmaComplete, found, hr]
  refine congrArg Host.Outcome.next ((if_neg (by simp [live])).trans ((if_pos ?_).trans ((withEntry_of_unchained unchained).trans ?_)))
  · rw [op, begun_, ready]; rfl
  · rw [productOf_mma op]
    exact if_neg (by rw [op]; decide)

theorem mmaComplete_empty (ended_ : c.ended = true) : exec (.mmaComplete k) s = .next (afterOp (endCmd s k false) c.wg) := by
  rw [exec_mmaComplete, execMmaComplete, found]
  exact congrArg Host.Outcome.next (if_pos (by rw [op, ended_]; rfl))

end

theorem slotTileUncorrectableError_restores {tile : Nat} (names : c.op = 0x5A ∧ tile = c.a.toNat ∨ c.op = 0x59 ∧ tile = copyfTile c) (begun_ : c.phase = 1) :
    exec (.slotTileUncorrectableError k) s
      = .next (endFailed (modCmd ((slicesOf s c).foldl (fun t e => failMark t e.1) (restoreTile s c tile)) k fun d => { d with phase := 0 }) k) := by
  have product : (productOf c).1 = tile := by
    rcases names with ⟨op, rfl⟩ | ⟨op, rfl⟩
    · rw [productOf_mma op]
    · rw [productOf, if_pos (show c.op = opCopyf from op)]
  have kind : (c.op = opMma || c.op = opCopyf) = true := by
    rcases names with ⟨op, _⟩ | ⟨op, _⟩
    · rw [op]; rfl
    · rw [op]; rfl
  rw [exec_slotTileUncorrectableError, execSlotTileUncorrectableError, found]
  refine congrArg Host.Outcome.next ((if_pos (by simp [kind, begun_])).trans ?_)
  rw [product]

/-! ## A claim is granted whole (R190) -/

theorem slotClaimGrant_answers (op : c.op = 0x5D) (sub : c.sub = 0) (waits : c.started = false) :
    (claimReady s k c = true → exec (.slotClaimGrant k) s = .next (grantClaim s k c)) ∧
    (claimReady s k c = false → exec (.slotClaimGrant k) s = .next s) := by
  rw [exec_slotClaimGrant, execSlotClaimGrant, found]
  refine ⟨fun ready => congrArg Host.Outcome.next (if_pos ?_), fun busy => congrArg Host.Outcome.next (if_neg (by simp [busy]))⟩
  rw [op, sub, waits, ready]
  rfl

end

/-! ## Chain entries (R305 to R310) -/

theorem chainEntryTake_answers {s : State} {core ch : Nat} {x : Chain} (set : chainAt s core ch = some x) (low : ch < 4)
    (runs : stoppedT s (wgTenant s x.owner) = false) (fetched : unfetched s core ch = none) :
    (x.head < x.tail → storeFull s core = false → exec (.chainEntryTake core ch) s = .next (takeEntry s core ch x.head x)) ∧
    (x.tail ≤ x.head → exec (.chainEntryTake core ch) s = .next s) := by
  have open_ : ¬ (decide (4 ≤ ch) || stoppedT s (wgTenant s x.owner)) = true := by simp [low, runs]
  rw [exec_chainEntryTake, execChainEntryTake, set]
  simp only [if_neg open_, fetched]
  refine ⟨fun more room => congrArg Host.Outcome.next (if_pos (by simp [more, room])),
    fun none_ => congrArg Host.Outcome.next (if_neg (by simp [none_]))⟩

section
variable {s : State} {k : Nat} {c : Cmd}

theorem finOf_copy (op : c.op = 0x58) : finOf s k c = .wait := by
  rw [finOf]
  cases c.paused
  · rw [op]; rfl
  · rfl

theorem finOf_emit (op : c.op = 0x75) : finOf s k c = .wait := by
  rw [finOf]
  cases c.paused
  · rw [op]; rfl
  · rfl

theorem finOf_held (op : c.op = 0x5E) (sub : c.sub = 10) : finOf s k c = .wait := by
  rw [finOf]
  cases c.paused
  · rw [op, sub]; rfl
  · rfl

/-- A command of a chain's entry completes, or waits for the walks of its entry, or pauses where the entry cannot be written. -/
theorem withEntry_answers {ch n : Nat} {x : Chain} (entry : c.chain = some (ch, n)) (set : chainAt s c.core ch = some x) {ps : List (Nat × Nat)}
    (hps : ps = [(entryVa x n + 40, 12), (x.base.toNat, 8)]) {id : Nat} (hid : id = wgAsid s x.owner) (u : State) :
    ((∃ p ∈ ps, engBlocked s c.core id p.1 p.2 = true) → withEntry s k c u = ps.foldl (fun v p => engAsk v c.core id p.1 p.2) s) ∧
    ((∀ p ∈ ps, engBlocked s c.core id p.1 p.2 = false) →
      (entryFault s c.core x n = none → withEntry s k c u = u) ∧
      ∀ code va, entryFault s c.core x n = some (code, va) → withEntry s k c u = engFault s k code va) := by
  have spans : chainSpans s c = ps.map fun p => (id, p.1, p.2) := by
    rw [chainSpans, entry, hps, hid]
    simp only [show tget (coreOf s c.core).chains ch = some x from set]
    rfl
  have fault : chainFault s c = entryFault s c.core x n := by
    rw [chainFault, entry]
    simp only [show tget (coreOf s c.core).chains ch = some x from set]
  simp only [withEntry, spans, fault, List.any_map, List.foldl_map, Function.comp_def]
  refine ⟨fun blocked => if_pos (List.any_eq_true.mpr blocked), fun free => ?_⟩
  rw [if_neg (by simpa using free)]
  exact ⟨fun clear => by rw [clear], fun code va faulty => by rw [faulty]⟩

theorem chainEntryComplete_withEntry (found : tget s.cmds k = some c) {e : Nat × Nat} (entry : c.chain = some e) (sound : c.failed = false) {u : State}
    (completes : (∃ t err res, finOf s k c = .done t err res ∧ u = afterOp (endCmd (modCmd t k fun d => { d with result := res }) k err) c.wg) ∨
      (c.op = 0x5E ∧ c.sub = 10 ∧ c.paused = false ∧ u = afterOp (endEntry { s with cmds := tdel s.cmds k } c.core e.1 e.2 3 c.phase 0) c.wg)) :
    exec (.chainEntryComplete k) s = .next (withEntry s k c u) := by
  rw [exec_chainEntryComplete, execChainEntryComplete, found]
  refine congrArg Host.Outcome.next ((if_neg (by simp [entry])).trans ?_)
  rcases completes with ⟨t, err, res, fin, rfl⟩ | ⟨op, sub, going, rfl⟩
  · have noCopy : c.op ≠ 0x58 := fun op => by simp [finOf_copy op] at fin
    have noEmit : c.op ≠ 0x75 := fun op => by simp [finOf_emit op] at fin
    have accepted_ : ¬ (decide (c.op = opChain) && decide (c.sub = opRejected) && !c.failed) = true := by
      simp only [Bool.and_eq_true, decide_eq_true_eq]
      rintro ⟨⟨op, sub⟩, -⟩
      simp [finOf_held op sub] at fin
    refine (if_neg accepted_).trans ((if_neg (by simp [sound])).trans ((if_neg noCopy).trans ((if_neg noEmit).trans ?_)))
    rw [fin]
    rfl
  · refine (if_pos (by rw [op, sub, sound]; rfl)).trans ?_
    rw [endRejected, entry]
    exact if_neg (by simp [going])

end

/-! ## A line of a gather lands (R195) -/

/-- From s to t, neither memory nor a command is changed. -/
def KeepsMemory (s t : State) : Prop := t.mem = s.mem ∧ t.cmds = s.cmds

theorem KeepsMemory.refl (s : State) : KeepsMemory s s := ⟨rfl, rfl⟩

theorem KeepsMemory.trans {s t v : State} (h : KeepsMemory s t) (h' : KeepsMemory t v) : KeepsMemory s v := ⟨h'.1.trans h.1, h'.2.trans h.2⟩

theorem keepsMemory_foldl {α : Type} {f : State → α → State} (step : ∀ s a, KeepsMemory s (f s a)) (l : List α) (s : State) : KeepsMemory s (l.foldl f s) := by
  induction l generalizing s with
  | nil => exact .refl s
  | cons a l ih => exact (step s a).trans (ih _)

theorem keepsMemory_fillChip (s : State) (chip victim : Nat) (e : TlbEntry) : KeepsMemory s (fillChip s chip victim e) := by
  rw [fillChip]; split <;> exact ⟨rfl, rfl⟩

theorem keepsMemory_walkEnters (s : State) (asid : Nat) (l : Leaf) : KeepsMemory s (walkEnters s asid l).2 := by
  rw [walkEnters]
  split
  · split <;> exact ⟨rfl, rfl⟩
  · exact .refl s

theorem keepsMemory_engFill (s : State) (core asid va : Nat) : KeepsMemory s (engFill s core asid va) := by
  rw [engFill]
  split
  · next l _ _ =>
    have cached : KeepsMemory s (cacheWalk s asid va (.page l)) := by rw [cacheWalk_frame]; exact ⟨rfl, rfl⟩
    exact (cached.trans (keepsMemory_walkEnters _ asid l)).trans (keepsMemory_fillChip ..)
  · exact .refl s

theorem keepsMemory_locTouch (s : State) (l : Loc) (o n : Nat) : KeepsMemory s (locTouch s l o n) := by
  unfold locTouch
  split
  · exact keepsMemory_foldl (fun t _ => keepsMemory_engFill t ..) _ s
  · exact .refl s

theorem keepsMemory_writeRow (s : State) (w off line : Nat) (bs : List Byte) : KeepsMemory s (writeRow s w off line bs) := ⟨rfl, rfl⟩

theorem keepsMemory_actSpad (s : State) (k : Nat) (x : Acc) : KeepsMemory s (actSpad s k x) := by
  rw [actSpad]
  split
  · exact .refl s
  · split
    · exact .refl s
    · split
      · exact ⟨rfl, rfl⟩
      · exact ⟨rfl, rfl⟩
      · split
        · exact .refl s
        · split <;> exact ⟨rfl, rfl⟩
      · exact .refl s

theorem keepsMemory_setPresent (s : State) (w : Nat) (ls : List Nat) : KeepsMemory s (setPresent s w ls) := by
  rw [setPresent]
  split
  · exact .refl s
  · exact KeepsMemory.trans ⟨rfl, rfl⟩ (keepsMemory_foldl (fun t (e : Nat × MemOp) => keepsMemory_foldl (fun u x => keepsMemory_actSpad u e.1 x) e.2.accs t) _ _)

theorem absentOf_of_wgs {s t : State} {w : Nat} (same : t.wgs = s.wgs) : absentOf t w = absentOf s w := by rw [absentOf, absentOf, same]

/-- A line that a command owed is present, and the command's mark says that it has landed. -/
theorem lineLanded {s u : State} {k w line i : Nat} {c : Cmd} {bad : Bool} {f : Pool → Pool} {as : List Nat} (found : tget s.cmds k = some c)
    (kept : KeepsMemory s u) : ∃ t d, (.next (modCmd (modPool (markLanded (landLines u k w [line]) k line bad) i f) k
        fun d => { d with acked := nsAddAll as d.acked }) : Out) = .next t ∧
      line ∉ absentOf t w ∧ t.mem = s.mem ∧ tget t.cmds k = some d ∧ line ∉ d.lines ∧ line ∈ d.landed := by
  obtain ⟨mem, cmds⟩ := kept.trans (keepsMemory_setPresent u w [line])
  refine ⟨_, { c with lines := c.lines.filter fun l => !([line].contains l), landed := nsAdd line c.landed, err := c.err || bad, acked := nsAddAll as c.acked },
    rfl, ?_, ?_, ?_, by simp, by simp⟩
  · rw [absentOf_of_wgs (s := setPresent u w [line]) (by simp only [modCmd_wgs, modPool_wgs, markLanded, landLines]), mem_absentOf_setPresent]
    simp
  · simpa only [modCmd_mem, modPool_mem, markLanded, landLines] using mem
  · simp only [modCmd_cmds, modPool_cmds, markLanded, landLines, tget_tmod_same, cmds, found, Option.map_some]

theorem gatherLineLand_lands {s : State} {k line : Nat} {c : Cmd} {p : Pool} (found : tget s.cmds k = some c) (pool : tget s.pools c.pool = some p)
    (op : c.op = 0x60) (going : c.paused = false) (owed : line ∈ c.lines) (acq : acqReady s k c = true)
    (clear : ∀ t ∈ rowsIn c (rowIn p (gatType c)) line, ∀ r, r = rowLoc s p c t →
      locBlocked s r.1 r.2 (rowBytes p) = false ∧ locFault s r.1 r.2 (rowBytes p) false = none) :
    ∃ t d, exec (.gatherLineLand k line) s = .next t ∧ line ∉ absentOf t c.wg ∧ t.mem = s.mem ∧ tget t.cmds k = some d ∧ line ∉ d.lines ∧ line ∈ d.landed := by
  have guard : ¬ (decide (c.op ≠ opKvgat) || c.paused || !c.lines.contains line || !acqReady s k c) = true := by
    simp [show c.op = opKvgat from op, going, owed, acq]
  have free : ¬ ((rowsIn c (rowIn p (gatType c)) line).any fun t => locBlocked s (rowLoc s p c t).1 (rowLoc s p c t).2 (rowBytes p)) = true := by
    rw [List.any_eq_true]
    rintro ⟨t, ht, blocked⟩
    rw [(clear t ht _ rfl).1] at blocked
    cases blocked
  have noFault := firstSome_none (fun t => locFault s (rowLoc s p c t).1 (rowLoc s p c t).2 (rowBytes p) false) _ fun t ht => (clear t ht _ rfl).2
  rw [exec_gatherLineLand, execGatherLineLand, found]
  simp only [pool, if_neg guard, if_neg free, noFault]
  exact lineLanded found ((keepsMemory_foldl (fun t _ => keepsMemory_locTouch t ..) _ s).trans (keepsMemory_foldl (fun t _ => keepsMemory_writeRow t ..) _ _))

/-- Settles O44: each event finds its command, passes its guard, and acts. -/
theorem engineEvents : Obligations.EngineEvents := by
  unfold Obligations.EngineEvents
  refine ⟨?copy, ?failed, ?finishes, ?collective, ?mma, ?error, ?claim, ?take, ?entry, ?gather⟩
  case copy =>
    intro s k i c found runs op started going sound new_ unit acq d hd
    exact ⟨fun bs bad sub => copyLineLand_toSpad found runs op started going sound new_ unit acq sub hd,
      fun bs bad sub => copyLineLand_toGlobal found runs op started going sound new_ unit acq sub hd,
      copyLineLand_waits found runs op started going sound new_ unit acq,
      fun code va sub => copyLineLand_faults found runs op started going sound new_ unit acq sub⟩
  case failed => exact fun s k c => engineComplete_failed
  case finishes => exact fun s k c => engineComplete_answers
  case collective => exact fun s k c => engineComplete_copy
  case mma =>
    exact fun s k c found op => ⟨mmaStart_shadows found op, fun ready begun_ unchained r => mmaComplete_writes found op ready begun_ unchained,
      mmaComplete_empty found op⟩
  case error => exact fun s k c found tile => slotTileUncorrectableError_restores found
  case claim => exact fun s k c => slotClaimGrant_answers
  case take => exact fun s core ch x => chainEntryTake_answers
  case entry =>
    intro s k c ch n x found entry set sound u completes ps hps id hid
    rw [chainEntryComplete_withEntry found entry sound completes]
    obtain ⟨waits, writes⟩ := withEntry_answers (k := k) entry set hps hid u
    refine ⟨fun blocked => congrArg _ (waits blocked), fun free => ?_⟩
    obtain ⟨completes_, pauses⟩ := writes free
    exact ⟨fun clear => congrArg _ (completes_ clear), fun code va fault => congrArg _ (pauses code va fault)⟩
  case gather => exact fun s k line c p w found pool _ => gatherLineLand_lands found pool

end Sys2Proof.Claims
end
